-- ==== Sys2Proof/Word.lean ====
section
/-! DEFINITION. The words of the Garnus G7S: a 64-bit general register, a 32-bit instruction word, a byte
(R22, R52, R79). -/

namespace Sys2Proof

/-- A general register, an address, a system register (R79, R80). -/
abbrev Word := BitVec 64

/-- An instruction word (R52). -/
abbrev Word32 := BitVec 32

/-- A byte of memory (R22). -/
abbrev Byte := BitVec 8

end Sys2Proof
end

