-- ==== Sys2Proof/Syntax.lean ====
section
/-! DEFINITION. The steps of the Garnus G7S: one constructor for each row of spec/opcode_table.json. The rows with a
32-bit word are the instructions of R67; the .i38 and .rlx rows are an instruction with its preceding word of R64; the
rows without a word are the steps of the part's other agents and of its surroundings (spec/95). Every word instruction
carries its predicate fields p = PS and q = PN (R53). Register fields d, a, b, k are the codes of R12 and R54. -/

namespace Sys2Proof

/-- A step of the part. In the event rows: tid names a slot position (16 x core number + slot), core a core number laid
out as lcn (R80), cl a cluster (32 x package + 16 x die + cluster), eng a copy engine (128 x package + number, R298),
cx a context (4 x package + number), die a die (2 x package + die), port a port binding (4 x tid + port), home a home
core (128 x package + 64 x die + home, R291), sw a switch, n a place in a list of the state, pkg a package. -/
inductive Instr where
  /-- ADD (R97): Writes the wrapping sum of two general registers. -/
  | add (p : BitVec 3) (q : BitVec 1) (d a b : BitVec 4)
  /-- SUB (R97): Writes the wrapping difference of two general registers. -/
  | sub (p : BitVec 3) (q : BitVec 1) (d a b : BitVec 4)
  /-- AND (R97): Writes the bitwise and of two registers. -/
  | and (p : BitVec 3) (q : BitVec 1) (d a b : BitVec 4)
  /-- OR (R97): Writes the bitwise or of two registers. -/
  | or (p : BitVec 3) (q : BitVec 1) (d a b : BitVec 4)
  /-- XOR (R97): Writes the bitwise exclusive or of two registers. -/
  | xor (p : BitVec 3) (q : BitVec 1) (d a b : BitVec 4)
  /-- ANDN (R97): Writes a and not b. -/
  | andn (p : BitVec 3) (q : BitVec 1) (d a b : BitVec 4)
  /-- ORN (R97): Writes a or not b. -/
  | orn (p : BitVec 3) (q : BitVec 1) (d a b : BitVec 4)
  /-- SLL (R97): Shifts a left by the low six bits of b. -/
  | sll (p : BitVec 3) (q : BitVec 1) (d a b : BitVec 4)
  /-- SRL (R97): Shifts a right logically by the low six bits of b. -/
  | srl (p : BitVec 3) (q : BitVec 1) (d a b : BitVec 4)
  /-- SRA (R97): Shifts a right arithmetically by the low six bits of b. -/
  | sra (p : BitVec 3) (q : BitVec 1) (d a b : BitVec 4)
  /-- ROL (R97): Rotates a left by the low six bits of b. -/
  | rol (p : BitVec 3) (q : BitVec 1) (d a b : BitVec 4)
  /-- ROR (R97): Rotates a right by the low six bits of b. -/
  | ror (p : BitVec 3) (q : BitVec 1) (d a b : BitVec 4)
  /-- MUL (R97): Writes the low 64 bits of the product. -/
  | mul (p : BitVec 3) (q : BitVec 1) (d a b : BitVec 4)
  /-- MULH (R97): Writes the high 64 bits of the signed product. -/
  | mulh (p : BitVec 3) (q : BitVec 1) (d a b : BitVec 4)
  /-- MULHU (R97): Writes the high 64 bits of the unsigned product. -/
  | mulhu (p : BitVec 3) (q : BitVec 1) (d a b : BitVec 4)
  /-- DIV (R98): Signed division truncating towards zero, with fixed results for zero divisor and overflow. -/
  | div (p : BitVec 3) (q : BitVec 1) (d a b : BitVec 4)
  /-- DIVU (R98): Unsigned division with a fixed result for a zero divisor. -/
  | divu (p : BitVec 3) (q : BitVec 1) (d a b : BitVec 4)
  /-- REM (R98): Signed remainder taking the sign of the dividend. -/
  | rem (p : BitVec 3) (q : BitVec 1) (d a b : BitVec 4)
  /-- REMU (R98): Unsigned remainder. -/
  | remu (p : BitVec 3) (q : BitVec 1) (d a b : BitVec 4)
  /-- MIN (R97): Writes the signed minimum. -/
  | min (p : BitVec 3) (q : BitVec 1) (d a b : BitVec 4)
  /-- MAX (R97): Writes the signed maximum. -/
  | max (p : BitVec 3) (q : BitVec 1) (d a b : BitVec 4)
  /-- MINU (R97): Writes the unsigned minimum. -/
  | minu (p : BitVec 3) (q : BitVec 1) (d a b : BitVec 4)
  /-- MAXU (R97): Writes the unsigned maximum. -/
  | maxu (p : BitVec 3) (q : BitVec 1) (d a b : BitVec 4)
  /-- CLZ (R97): Counts leading zero bits of a. -/
  | clz (p : BitVec 3) (q : BitVec 1) (d a : BitVec 4)
  /-- CTZ (R97): Counts trailing zero bits of a. -/
  | ctz (p : BitVec 3) (q : BitVec 1) (d a : BitVec 4)
  /-- POPC (R97): Counts the one bits of a. -/
  | popc (p : BitVec 3) (q : BitVec 1) (d a : BitVec 4)
  /-- BREV (R97): Reverses the bit order of a. -/
  | brev (p : BitVec 3) (q : BitVec 1) (d a : BitVec 4)
  /-- SEXTB (R97): Sign-extends the low byte of a. -/
  | sextb (p : BitVec 3) (q : BitVec 1) (d a : BitVec 4)
  /-- SEXTH (R97): Sign-extends the low half of a. -/
  | sexth (p : BitVec 3) (q : BitVec 1) (d a : BitVec 4)
  /-- SEXTW (R97): Sign-extends the low word of a. -/
  | sextw (p : BitVec 3) (q : BitVec 1) (d a : BitVec 4)
  /-- ZEXTB (R97): Zero-extends the low byte of a. -/
  | zextb (p : BitVec 3) (q : BitVec 1) (d a : BitVec 4)
  /-- ZEXTH (R97): Zero-extends the low half of a. -/
  | zexth (p : BitVec 3) (q : BitVec 1) (d a : BitVec 4)
  /-- ZEXTW (R97): Zero-extends the low word of a. -/
  | zextw (p : BitVec 3) (q : BitVec 1) (d a : BitVec 4)
  /-- BFX (R99): Extracts a bit field of a at the position and length given by b. -/
  | bfx (p : BitVec 3) (q : BitVec 1) (d a b : BitVec 4)
  /-- BFI (R99): Inserts the low bits of a into gD at the field given by b. -/
  | bfi (p : BitVec 3) (q : BitVec 1) (d a b : BitVec 4)
  /-- ADDI (R101): Adds a sign-extended 14-bit immediate. -/
  | addi (p : BitVec 3) (q : BitVec 1) (d a : BitVec 4) (imm : BitVec 14)
  /-- ADDI_I38 (R101): Adds a sign-extended 38-bit immediate supplied by a kind-00 prefix. -/
  | addiI38 (p : BitVec 3) (q : BitVec 1) (d a : BitVec 4) (imm : BitVec 38)
  /-- ANDI (R101): Ands a zero-extended 14-bit immediate. -/
  | andi (p : BitVec 3) (q : BitVec 1) (d a : BitVec 4) (imm : BitVec 14)
  /-- ANDI_I38 (R101): Ands a zero-extended 38-bit prefixed immediate. -/
  | andiI38 (p : BitVec 3) (q : BitVec 1) (d a : BitVec 4) (imm : BitVec 38)
  /-- ORI (R101): Ors a zero-extended 14-bit immediate. -/
  | ori (p : BitVec 3) (q : BitVec 1) (d a : BitVec 4) (imm : BitVec 14)
  /-- ORI_I38 (R101): Ors a zero-extended 38-bit prefixed immediate. -/
  | oriI38 (p : BitVec 3) (q : BitVec 1) (d a : BitVec 4) (imm : BitVec 38)
  /-- XORI (R101): Exclusive-ors a zero-extended 14-bit immediate. -/
  | xori (p : BitVec 3) (q : BitVec 1) (d a : BitVec 4) (imm : BitVec 14)
  /-- XORI_I38 (R101): Exclusive-ors a zero-extended 38-bit prefixed immediate. -/
  | xoriI38 (p : BitVec 3) (q : BitVec 1) (d a : BitVec 4) (imm : BitVec 38)
  /-- SLLI (R102): Shifts a left by an immediate amount. -/
  | slli (p : BitVec 3) (q : BitVec 1) (d a : BitVec 4) (n : BitVec 6)
  /-- SRLI (R102): Shifts a right logically by an immediate amount. -/
  | srli (p : BitVec 3) (q : BitVec 1) (d a : BitVec 4) (n : BitVec 6)
  /-- SRAI (R102): Shifts a right arithmetically by an immediate amount. -/
  | srai (p : BitVec 3) (q : BitVec 1) (d a : BitVec 4) (n : BitVec 6)
  /-- LI (R103): Loads a sign-extended 14-bit immediate into gD. -/
  | li (p : BitVec 3) (q : BitVec 1) (d : BitVec 4) (imm : BitVec 14)
  /-- LI_I38 (R103): Loads a sign-extended 38-bit prefixed immediate into gD. -/
  | liI38 (p : BitVec 3) (q : BitVec 1) (d : BitVec 4) (imm : BitVec 38)
  /-- LIH (R104): Writes the low 26 bits of the immediate into gD bits 63 to 38. -/
  | lih (p : BitVec 3) (q : BitVec 1) (d : BitVec 4) (imm : BitVec 14)
  /-- LIH_I38 (R104): lih with a 38-bit prefixed immediate. -/
  | lihI38 (p : BitVec 3) (q : BitVec 1) (d : BitVec 4) (imm : BitVec 38)
  /-- EQ (R106): Sets or ands a predicate with a = b. -/
  | eq (p : BitVec 3) (q : BitVec 1) (pd : BitVec 3) (c : BitVec 1) (a b : BitVec 4)
  /-- NE (R106): Sets or ands a predicate with a != b. -/
  | ne (p : BitVec 3) (q : BitVec 1) (pd : BitVec 3) (c : BitVec 1) (a b : BitVec 4)
  /-- LT (R106): Sets or ands a predicate with signed a < b. -/
  | lt (p : BitVec 3) (q : BitVec 1) (pd : BitVec 3) (c : BitVec 1) (a b : BitVec 4)
  /-- GE (R106): Sets or ands a predicate with signed a >= b. -/
  | ge (p : BitVec 3) (q : BitVec 1) (pd : BitVec 3) (c : BitVec 1) (a b : BitVec 4)
  /-- LTU (R106): Sets or ands a predicate with unsigned a < b. -/
  | ltu (p : BitVec 3) (q : BitVec 1) (pd : BitVec 3) (c : BitVec 1) (a b : BitVec 4)
  /-- GEU (R106): Sets or ands a predicate with unsigned a >= b. -/
  | geu (p : BitVec 3) (q : BitVec 1) (pd : BitVec 3) (c : BitVec 1) (a b : BitVec 4)
  /-- FEQ (R106): Binary32 equality compare into a predicate. -/
  | feq (p : BitVec 3) (q : BitVec 1) (pd : BitVec 3) (c : BitVec 1) (a b : BitVec 4)
  /-- FNE (R106): Binary32 inequality compare into a predicate. -/
  | fne (p : BitVec 3) (q : BitVec 1) (pd : BitVec 3) (c : BitVec 1) (a b : BitVec 4)
  /-- FLT (R106): Binary32 less-than compare into a predicate. -/
  | flt (p : BitVec 3) (q : BitVec 1) (pd : BitVec 3) (c : BitVec 1) (a b : BitVec 4)
  /-- FLE (R106): Binary32 less-or-equal compare into a predicate. -/
  | fle (p : BitVec 3) (q : BitVec 1) (pd : BitVec 3) (c : BitVec 1) (a b : BitVec 4)
  /-- FUNORD (R106): Sets a predicate when either binary32 operand is NaN. -/
  | funord (p : BitVec 3) (q : BitVec 1) (pd : BitVec 3) (c : BitVec 1) (a b : BitVec 4)
  /-- CMPEQI (R107): Compares a with a sign-extended immediate for equality. -/
  | cmpeqi (p : BitVec 3) (q : BitVec 1) (pd : BitVec 3) (c : BitVec 1) (a : BitVec 4) (imm : BitVec 14)
  /-- CMPEQI_I38 (R107): cmpeqi with a 38-bit prefixed immediate. -/
  | cmpeqiI38 (p : BitVec 3) (q : BitVec 1) (pd : BitVec 3) (c : BitVec 1) (a : BitVec 4) (imm : BitVec 38)
  /-- CMPLTI (R107): Signed less-than compare with an immediate. -/
  | cmplti (p : BitVec 3) (q : BitVec 1) (pd : BitVec 3) (c : BitVec 1) (a : BitVec 4) (imm : BitVec 14)
  /-- CMPLTI_I38 (R107): cmplti with a 38-bit prefixed immediate. -/
  | cmpltiI38 (p : BitVec 3) (q : BitVec 1) (pd : BitVec 3) (c : BitVec 1) (a : BitVec 4) (imm : BitVec 38)
  /-- CMPLTUI (R107): Unsigned less-than compare with a sign-extended immediate. -/
  | cmpltui (p : BitVec 3) (q : BitVec 1) (pd : BitVec 3) (c : BitVec 1) (a : BitVec 4) (imm : BitVec 14)
  /-- CMPLTUI_I38 (R107): cmpltui with a 38-bit prefixed immediate. -/
  | cmpltuiI38 (p : BitVec 3) (q : BitVec 1) (pd : BitVec 3) (c : BitVec 1) (a : BitVec 4) (imm : BitVec 38)
  /-- PAND (R108): pD := pA and pB. -/
  | pand (p : BitVec 3) (q : BitVec 1) (pd pa pb : BitVec 3)
  /-- POR (R108): pD := pA or pB. -/
  | por (p : BitVec 3) (q : BitVec 1) (pd pa pb : BitVec 3)
  /-- PXOR (R108): pD := pA xor pB. -/
  | pxor (p : BitVec 3) (q : BitVec 1) (pd pa pb : BitVec 3)
  /-- PANDN (R108): pD := pA and not pB. -/
  | pandn (p : BitVec 3) (q : BitVec 1) (pd pa pb : BitVec 3)
  /-- PGET (R108): Copies the eight predicates into a general register. -/
  | pget (p : BitVec 3) (q : BitVec 1) (d : BitVec 4)
  /-- PPUT (R108): Sets p1 to p7 from bits of a general register. -/
  | pput (p : BitVec 3) (q : BitVec 1) (a : BitVec 4)
  /-- BR (R109): Branches pc-relative when the predicate holds. -/
  | br (p : BitVec 3) (q : BitVec 1) (off : BitVec 22)
  /-- JAL (R109): Writes the return address into g9 and branches pc-relative. -/
  | jal (p : BitVec 3) (q : BitVec 1) (off : BitVec 22)
  /-- JR (R110): Jumps to the address in gA, faulting on misalignment. -/
  | jr (p : BitVec 3) (q : BitVec 1) (a : BitVec 4)
  /-- JALR (R110): Links pc + 4 into gD and jumps to gA. -/
  | jalr (p : BitVec 3) (q : BitVec 1) (d a : BitVec 4)
  /-- FADD (R112): Binary32 addition rounded once. -/
  | fadd (p : BitVec 3) (q : BitVec 1) (d a b : BitVec 4) (m : BitVec 2)
  /-- FSUB (R112): Binary32 subtraction rounded once. -/
  | fsub (p : BitVec 3) (q : BitVec 1) (d a b : BitVec 4) (m : BitVec 2)
  /-- FMUL (R112): Binary32 multiplication rounded once. -/
  | fmul (p : BitVec 3) (q : BitVec 1) (d a b : BitVec 4) (m : BitVec 2)
  /-- FDIV (R112): Binary32 division rounded once. -/
  | fdiv (p : BitVec 3) (q : BitVec 1) (d a b : BitVec 4) (m : BitVec 2)
  /-- FSQRT (R112): Binary32 square root rounded once. -/
  | fsqrt (p : BitVec 3) (q : BitVec 1) (d a : BitVec 4) (m : BitVec 2)
  /-- FMIN (R113): Binary32 minimum returning the non-NaN operand. -/
  | fmin (p : BitVec 3) (q : BitVec 1) (d a b : BitVec 4)
  /-- FMAX (R113): Binary32 maximum returning the non-NaN operand. -/
  | fmax (p : BitVec 3) (q : BitVec 1) (d a b : BitVec 4)
  /-- FABS (R112): Clears the sign bit of a binary32 pattern. -/
  | fabs (p : BitVec 3) (q : BitVec 1) (d a : BitVec 4)
  /-- FNEG (R112): Inverts the sign bit of a binary32 pattern. -/
  | fneg (p : BitVec 3) (q : BitVec 1) (d a : BitVec 4)
  /-- FMADD (R112): Fused binary32 multiply-add rounded once. -/
  | fmadd (p : BitVec 3) (q : BitVec 1) (d a b : BitVec 4) (m : BitVec 2)
  /-- CVT (R114): Converts a value between two format codes with one rounding. -/
  | cvt (p : BitVec 3) (q : BitVec 1) (d a : BitVec 4) (m : BitVec 2) (dst src : BitVec 4)
  /-- RDSR (R116): Reads a system register into gD. -/
  | rdsr (p : BitVec 3) (q : BitVec 1) (d : BitVec 4) (sys : BitVec 14)
  /-- WRSR (R116): Writes gA into a system register that has no row of its own. -/
  | wrsr (p : BitVec 3) (q : BitVec 1) (a : BitVec 4) (sys : BitVec 14)
  /-- WRSR_VECTOR_STATE (R117): A write to fmt, scl or shb holds the thread until its vector sequencer is empty, then writes. -/
  | wrsrVectorState (p : BitVec 3) (q : BitVec 1) (a : BitVec 4) (sys : BitVec 14)
  /-- WRSR_SEGBASE (R129): A write to segbase reads the new descriptors and completes when every core holding the context has read them. -/
  | wrsrSegbase (p : BitVec 3) (q : BitVec 1) (a : BitVec 4)
  /-- WRSR_ROTMODE (R193): A write to rotmode records the new rotation mode, to take effect at the next multiple of 16. -/
  | wrsrRotmode (p : BitVec 3) (q : BitVec 1) (a : BitVec 4)
  /-- ROTMODE_SWITCH (R193): At the next cycle that is a multiple of 16 the written rotation mode takes effect. -/
  | rotmodeSwitch (core : Nat)
  /-- WRSR_DONORD (R193): A write to donord sets the donation order if it is a permutation. -/
  | wrsrDonord (p : BitVec 3) (q : BitVec 1) (a : BitVec 4)
  /-- WRSR_SLOTTAB (R199): Copies a 32-byte vector slot table into the pending table and sets PEND. -/
  | wrsrSlottab (p : BitVec 3) (q : BitVec 1) (a : BitVec 4)
  /-- WRSR_ACCT (R221): Writes the time-account control, possibly requesting a snapshot. -/
  | wrsrAcct (p : BitVec 3) (q : BitVec 1) (a : BitVec 4)
  /-- ACCT_SNAPSHOT (R222): The requested time-account snapshot is written to the dump area in DMA turns and SNAP clears. -/
  | acctSnapshot (core : Nat)
  /-- WRSR_LOG_RING (R357): A write to logbase or logsize moves the die's log ring and zeroes logprod and logcons. -/
  | wrsrLogRing (p : BitVec 3) (q : BitVec 1) (a : BitVec 4) (sys : BitVec 14)
  /-- WRSR_LOGCONS (R358): Advances the software index of the log ring, freeing slots or loading replay records. -/
  | wrsrLogcons (p : BitVec 3) (q : BitVec 1) (a : BitVec 4)
  /-- WRSR_REPLAY (R366): Changes the context's record or replay mode, ending replay on a write of 00. -/
  | wrsrReplay (p : BitVec 3) (q : BitVec 1) (a : BitVec 4)
  /-- LDB (R137): Loads a sign-extended byte. -/
  | ldb (p : BitVec 3) (q : BitVec 1) (d a : BitVec 4) (imm : BitVec 14)
  /-- LDBU (R137): Loads a zero-extended byte. -/
  | ldbu (p : BitVec 3) (q : BitVec 1) (d a : BitVec 4) (imm : BitVec 14)
  /-- LDH (R137): Loads a sign-extended half. -/
  | ldh (p : BitVec 3) (q : BitVec 1) (d a : BitVec 4) (imm : BitVec 14)
  /-- LDHU (R137): Loads a zero-extended half. -/
  | ldhu (p : BitVec 3) (q : BitVec 1) (d a : BitVec 4) (imm : BitVec 14)
  /-- LDW (R137): Loads a sign-extended word. -/
  | ldw (p : BitVec 3) (q : BitVec 1) (d a : BitVec 4) (imm : BitVec 14)
  /-- LDWU (R137): Loads a zero-extended word. -/
  | ldwu (p : BitVec 3) (q : BitVec 1) (d a : BitVec 4) (imm : BitVec 14)
  /-- LDD (R137): Loads a doubleword. -/
  | ldd (p : BitVec 3) (q : BitVec 1) (d a : BitVec 4) (imm : BitVec 14)
  /-- STB (R137): Stores the low byte of gD. -/
  | stb (p : BitVec 3) (q : BitVec 1) (d a : BitVec 4) (imm : BitVec 14)
  /-- STH (R137): Stores the low half of gD. -/
  | sth (p : BitVec 3) (q : BitVec 1) (d a : BitVec 4) (imm : BitVec 14)
  /-- STW (R137): Stores the low word of gD. -/
  | stw (p : BitVec 3) (q : BitVec 1) (d a : BitVec 4) (imm : BitVec 14)
  /-- STD (R137): Stores gD as a doubleword. -/
  | std (p : BitVec 3) (q : BitVec 1) (d a : BitVec 4) (imm : BitVec 14)
  /-- LDB_I38 (R137): ldb with a 38-bit prefixed offset. -/
  | ldbI38 (p : BitVec 3) (q : BitVec 1) (d a : BitVec 4) (imm : BitVec 38)
  /-- LDBU_I38 (R137): ldbu with a 38-bit prefixed offset. -/
  | ldbuI38 (p : BitVec 3) (q : BitVec 1) (d a : BitVec 4) (imm : BitVec 38)
  /-- LDH_I38 (R137): ldh with a 38-bit prefixed offset. -/
  | ldhI38 (p : BitVec 3) (q : BitVec 1) (d a : BitVec 4) (imm : BitVec 38)
  /-- LDHU_I38 (R137): ldhu with a 38-bit prefixed offset. -/
  | ldhuI38 (p : BitVec 3) (q : BitVec 1) (d a : BitVec 4) (imm : BitVec 38)
  /-- LDW_I38 (R137): ldw with a 38-bit prefixed offset. -/
  | ldwI38 (p : BitVec 3) (q : BitVec 1) (d a : BitVec 4) (imm : BitVec 38)
  /-- LDWU_I38 (R137): ldwu with a 38-bit prefixed offset. -/
  | ldwuI38 (p : BitVec 3) (q : BitVec 1) (d a : BitVec 4) (imm : BitVec 38)
  /-- LDD_I38 (R137): ldd with a 38-bit prefixed offset. -/
  | lddI38 (p : BitVec 3) (q : BitVec 1) (d a : BitVec 4) (imm : BitVec 38)
  /-- STB_I38 (R137): stb with a 38-bit prefixed offset. -/
  | stbI38 (p : BitVec 3) (q : BitVec 1) (d a : BitVec 4) (imm : BitVec 38)
  /-- STH_I38 (R137): sth with a 38-bit prefixed offset. -/
  | sthI38 (p : BitVec 3) (q : BitVec 1) (d a : BitVec 4) (imm : BitVec 38)
  /-- STW_I38 (R137): stw with a 38-bit prefixed offset. -/
  | stwI38 (p : BitVec 3) (q : BitVec 1) (d a : BitVec 4) (imm : BitVec 38)
  /-- STD_I38 (R137): std with a 38-bit prefixed offset. -/
  | stdI38 (p : BitVec 3) (q : BitVec 1) (d a : BitVec 4) (imm : BitVec 38)
  /-- LDB_RLX (R141): Relaxed byte load delivered into a landing word. -/
  | ldbRlx (p : BitVec 3) (q : BitVec 1) (d a : BitVec 4) (imm : BitVec 14)
  /-- LDBU_RLX (R141): Relaxed zero-extended byte load into a landing word. -/
  | ldbuRlx (p : BitVec 3) (q : BitVec 1) (d a : BitVec 4) (imm : BitVec 14)
  /-- LDH_RLX (R141): Relaxed half load into a landing word. -/
  | ldhRlx (p : BitVec 3) (q : BitVec 1) (d a : BitVec 4) (imm : BitVec 14)
  /-- LDHU_RLX (R141): Relaxed zero-extended half load into a landing word. -/
  | ldhuRlx (p : BitVec 3) (q : BitVec 1) (d a : BitVec 4) (imm : BitVec 14)
  /-- LDW_RLX (R141): Relaxed word load into a landing word. -/
  | ldwRlx (p : BitVec 3) (q : BitVec 1) (d a : BitVec 4) (imm : BitVec 14)
  /-- LDWU_RLX (R141): Relaxed zero-extended word load into a landing word. -/
  | ldwuRlx (p : BitVec 3) (q : BitVec 1) (d a : BitVec 4) (imm : BitVec 14)
  /-- LDD_RLX (R141): Relaxed doubleword load into a landing word. -/
  | lddRlx (p : BitVec 3) (q : BitVec 1) (d a : BitVec 4) (imm : BitVec 14)
  /-- STB_RLX (R142): Relaxed byte store that does not hold the thread. -/
  | stbRlx (p : BitVec 3) (q : BitVec 1) (d a : BitVec 4) (imm : BitVec 14)
  /-- STH_RLX (R142): Relaxed half store. -/
  | sthRlx (p : BitVec 3) (q : BitVec 1) (d a : BitVec 4) (imm : BitVec 14)
  /-- STW_RLX (R142): Relaxed word store. -/
  | stwRlx (p : BitVec 3) (q : BitVec 1) (d a : BitVec 4) (imm : BitVec 14)
  /-- STD_RLX (R142): Relaxed doubleword store. -/
  | stdRlx (p : BitVec 3) (q : BitVec 1) (d a : BitVec 4) (imm : BitVec 14)
  /-- RELAXED_ACCESS_COMPLETION (R141): The reply of a relaxed access returns; a load writes its landing word and sets it full. -/
  | relaxedAccessCompletion (tid n : Nat)
  /-- DEFERRED_RELAXED_FAULT (R143): A fault found on completion of a relaxed access is delivered as a trap at the thread's next issue turn. -/
  | deferredRelaxedFault (tid : Nat)
  /-- LDF (R147): Waits until the word is full, then reads it. -/
  | ldf (p : BitVec 3) (q : BitVec 1) (d a : BitVec 4)
  /-- LDFE (R147): Waits until full, reads the word and sets it empty. -/
  | ldfe (p : BitVec 3) (q : BitVec 1) (d a : BitVec 4)
  /-- STE (R147): Waits until empty, writes the word and sets it full. -/
  | ste (p : BitVec 3) (q : BitVec 1) (d a : BitVec 4)
  /-- STF (R147): Writes the word and sets it full. -/
  | stf (p : BitVec 3) (q : BitVec 1) (d a : BitVec 4)
  /-- FCLR (R147): Sets the full-empty bit empty. -/
  | fclr (p : BitVec 3) (q : BitVec 1) (a : BitVec 4)
  /-- FSET (R147): Sets the full-empty bit full. -/
  | fset (p : BitVec 3) (q : BitVec 1) (a : BitVec 4)
  /-- FSTAT (R147): Reads the full-empty bit. -/
  | fstat (p : BitVec 3) (q : BitVec 1) (d a : BitVec 4)
  /-- SYNC_WAIT_SATISFIED (R148): A change of a waited-on word, counter or barrier is offered to waiters in rotation order and the first satisfied waiter performs its effect. -/
  | syncWaitSatisfied (core pos : Nat)
  /-- AADD (R151): Atomic wrapping add returning the old value. -/
  | aadd (p : BitVec 3) (q : BitVec 1) (d a b : BitVec 4) (w : BitVec 2)
  /-- AAND (R151): Atomic and. -/
  | aand (p : BitVec 3) (q : BitVec 1) (d a b : BitVec 4) (w : BitVec 2)
  /-- AOR (R151): Atomic or. -/
  | aor (p : BitVec 3) (q : BitVec 1) (d a b : BitVec 4) (w : BitVec 2)
  /-- AXOR (R151): Atomic exclusive or. -/
  | axor (p : BitVec 3) (q : BitVec 1) (d a b : BitVec 4) (w : BitVec 2)
  /-- AMIN (R151): Atomic signed minimum. -/
  | amin (p : BitVec 3) (q : BitVec 1) (d a b : BitVec 4) (w : BitVec 2)
  /-- AMAX (R151): Atomic signed maximum. -/
  | amax (p : BitVec 3) (q : BitVec 1) (d a b : BitVec 4) (w : BitVec 2)
  /-- AMINU (R151): Atomic unsigned minimum. -/
  | aminu (p : BitVec 3) (q : BitVec 1) (d a b : BitVec 4) (w : BitVec 2)
  /-- AMAXU (R151): Atomic unsigned maximum. -/
  | amaxu (p : BitVec 3) (q : BitVec 1) (d a b : BitVec 4) (w : BitVec 2)
  /-- ASWP (R151): Atomic swap. -/
  | aswp (p : BitVec 3) (q : BitVec 1) (d a b : BitVec 4) (w : BitVec 2)
  /-- ACAS (R151): Atomic compare and swap against gD. -/
  | acas (p : BitVec 3) (q : BitVec 1) (d a b : BitVec 4) (w : BitVec 2)
  /-- AFADD (R151): Atomic binary32 add rounded to nearest even. -/
  | afadd (p : BitVec 3) (q : BitVec 1) (d a b : BitVec 4)
  /-- BANK_RESERVATION_GRANT (R153): An HBM bank forwards a reserved word to the requester at the head of its queue, holding other accesses until release. -/
  | bankReservationGrant (key : Nat)
  /-- PROXY_HOST_ATOMIC (R155): The proxy core serialises a host atomic and performs or refuses it with the host endpoint. -/
  | proxyHostAtomic (die qn : Nat)
  /-- SEAL (R157): Checks a range of whole region-0 pages and seals each at its seal point. -/
  | sealPages (p : BitVec 3) (q : BitVec 1) (a b : BitVec 4)
  /-- UNSEAL (R159): Checks a range and unseals it once every replica is dropped. -/
  | unsealPages (p : BitVec 3) (q : BitVec 1) (a b : BitVec 4)
  /-- SEALQ (R160): Reports whether a page is unsealed, sealed or being unsealed. -/
  | sealq (p : BitVec 3) (q : BitVec 1) (d a : BitVec 4)
  /-- SEAL_COMPLETE (R158): Every page of a seal has passed its seal point, and the sealing thread leaves MemWait. -/
  | sealComplete (n : Nat)
  /-- UNSEAL_COMPLETE (R159): Every replica of the range has been dropped; the pages' sealed state clears and the thread continues. -/
  | unsealComplete (n : Nat)
  /-- FETCH_HOLD_RELEASE (R77): A fetch held on an unsealed page refetches the new content once the region is sealed again. -/
  | fetchHoldRelease (tid : Nat)
  /-- SPAWN (R167): Reads a work packet, increments the join counter and pushes the child onto the deque or overflow queue. -/
  | spawn (p : BitVec 3) (q : BitVec 1) (d a b : BitVec 4)
  /-- JOIN (R169): Waits until the join counter reads zero. -/
  | join (p : BitVec 3) (q : BitVec 1) (a : BitVec 4)
  /-- JINIT (R169): Writes an initial value into a join counter. -/
  | jinit (p : BitVec 3) (q : BitVec 1) (a b : BitVec 4)
  /-- EXIT (R170): Ends the thread, sending a decrement to its join counter. -/
  | exit (p : BitVec 3) (q : BitVec 1)
  /-- YIELD (R174): Holds the thread for its own positions in the next n rotations. -/
  | yield (p : BitVec 3) (q : BitVec 1) (a : BitVec 4)
  /-- YIELD_HOLD_END (R174): After the counted rotations the yielding thread issues again at its own position. -/
  | yieldHoldEnd (tid : Nat)
  /-- MIGRATE (R175): Moves the thread to the named logical core. -/
  | migrate (p : BitVec 3) (q : BitVec 1) (a : BitVec 4)
  /-- SEND (R176): Sends a handler or wake message and waits for acceptance. -/
  | send (p : BitVec 3) (q : BitVec 1) (a b : BitVec 4)
  /-- WAITM (R179): Waits for a pending wake, then takes and clears the tag. -/
  | waitm (p : BitVec 3) (q : BitVec 1) (d : BitVec 4)
  /-- WAITC (R180): Waits until an arrival counter reaches a threshold. -/
  | waitc (p : BitVec 3) (q : BitVec 1) (d a b : BitVec 4)
  /-- CSET (R180): Sets an arrival counter. -/
  | cset (p : BitVec 3) (q : BitVec 1) (a b : BitVec 4)
  /-- BAR (R181): Arrives at a core or cluster barrier and waits for its release. -/
  | bar (p : BitVec 3) (q : BitVec 1) (a b : BitVec 4)
  /-- FENCE (R182): Waits until every earlier relaxed access of the thread has completed. -/
  | fence (p : BitVec 3) (q : BitVec 1) (sc : BitVec 4)
  /-- CLUSTER_BARRIER_ARRIVAL (R310): The cluster barrier hardware receives an arrival message and counts it. -/
  | clusterBarrierArrival (n : Nat)
  /-- CLUSTER_BARRIER_RELEASE (R310): The release reaches the waiting cores 24 cycles after the last arrival and every waiter becomes Ready. -/
  | clusterBarrierRelease (cl bar : Nat)
  /-- COUNTER_MESSAGE (R171): A join-counter increment or decrement message executes on the owning core in its DMA turn. -/
  | counterMessage (n : Nat)
  /-- WAKE_MESSAGE_ARRIVAL (R178): A wake sets the slot's pending bit and ORs its tag into the tag word. -/
  | wakeMessageArrival (n : Nat)
  /-- HANDLER_MESSAGE_ARRIVAL (R177): A handler message is bound as a new thread or queued at the ingress or overflow queue. -/
  | handlerMessageArrival (n : Nat)
  /-- MIGRATION_ARRIVAL (R162): A migrated packet is bound to a free slot of the target core or queued, and its instruction reissues. -/
  | migrationArrival (n : Nat)
  /-- MIGRATION_REFUSED (R173): A migrated packet refused by a full overflow queue returns to its source slot and raises cause 0x0D. -/
  | migrationRefused (n : Nat)
  /-- SLOT_BIND (R172): A Vacant general slot takes an arrival, a deque entry or starts a steal. -/
  | slotBind (tid : Nat)
  /-- STEAL_REQUEST (R203): A victim core serves a steal request in a DMA turn and returns an entry or empty. -/
  | stealRequest (n : Nat)
  /-- STEAL_REPLY (R204): A steal reply binds its entry into the reserved slot or frees the reservation. -/
  | stealReply (n : Nat)
  /-- STEAL_SEARCH_RETRY (R324): A search that found nothing starts again after 512 cycles. -/
  | stealSearchRetry (core cx : Nat)
  /-- TRAP (R119): Raises cause 0x0F with ebad holding gA. -/
  | trap (p : BitVec 3) (q : BitVec 1) (a : BitVec 4)
  /-- ERET (R120): Returns to epc and clears SUP and TFL. -/
  | eret (p : BitVec 3) (q : BitVec 1)
  /-- BRK (R121): Raises a breakpoint trap, cause 0x10. -/
  | brk (p : BitVec 3) (q : BitVec 1)
  /-- HALT (R122): Ends the context's run on the package with an exit code. -/
  | halt (p : BitVec 3) (q : BitVec 1) (a : BitVec 4)
  /-- HALT_COMPLETION (R122): Once every thread is Vacant and commands are done, the package reports the exit code and the context becomes Free. -/
  | haltCompletion (cx : Nat)
  /-- TSR (R123): Reads the core's time-stamp counter. -/
  | tsr (p : BitVec 3) (q : BitVec 1) (d : BitVec 4)
  /-- RNG (R124): Draws four 16-bit values from the slot's stochastic counter. -/
  | rng (p : BitVec 3) (q : BitVec 1) (d : BitVec 4)
  /-- LOGM (R125): Writes or checks a marker record in the order log. -/
  | logm (p : BitVec 3) (q : BitVec 1) (a b : BitVec 4)
  /-- NOP (R126): Does nothing beyond its issue turn. -/
  | nop (p : BitVec 3) (q : BitVec 1)
  /-- ILLEGAL_INSTRUCTION (R70): A word with a reserved major, bad prefix or illegal field raises cause 0x01. -/
  | illegalInstruction (w : Word32)
  /-- EXTENSION_ABSENT (R73): A word of majors 37 to 39 raises cause 0x12 whatever its predicate. -/
  | extensionAbsent (w : Word32)
  /-- EXTENSION_MIGRATION (R74): An instruction whose extension the core lacks migrates the thread to the first candidate core. -/
  | extensionMigration (w : Word32)
  /-- MEMORY_REPLY (R139): The reply to an access or request that left the core arrives and the waiting thread becomes Ready. -/
  | memoryReply (tid : Nat)
  /-- PAGE_WALK (R294): A home core's walker serves a walk request by reading both buckets. -/
  | pageWalk (home : Nat)
  /-- PAGE_WAKE (R186): The walker's answer fills the TLB and wakes the faulting slot to reissue. -/
  | pageWake (n : Nat)
  /-- VADD (R241): Element-wise float addition. -/
  | vadd (p : BitVec 3) (q : BitVec 1) (hd ha hb : BitVec 5) (m : BitVec 2) (sat : BitVec 1)
  /-- VSUB (R241): Element-wise float subtraction. -/
  | vsub (p : BitVec 3) (q : BitVec 1) (hd ha hb : BitVec 5) (m : BitVec 2) (sat : BitVec 1)
  /-- VMUL (R241): Element-wise float multiplication. -/
  | vmul (p : BitVec 3) (q : BitVec 1) (hd ha hb : BitVec 5) (m : BitVec 2) (sat : BitVec 1)
  /-- VFMA (R241): Element-wise fused multiply-add into HD. -/
  | vfma (p : BitVec 3) (q : BitVec 1) (hd ha hb : BitVec 5) (m : BitVec 2) (sat : BitVec 1)
  /-- VMIN (R241): Element-wise float minimum. -/
  | vmin (p : BitVec 3) (q : BitVec 1) (hd ha hb : BitVec 5) (m : BitVec 2) (sat : BitVec 1)
  /-- VMAX (R241): Element-wise float maximum. -/
  | vmax (p : BitVec 3) (q : BitVec 1) (hd ha hb : BitVec 5) (m : BitVec 2) (sat : BitVec 1)
  /-- VABS (R242): Element-wise absolute value. -/
  | vabs (p : BitVec 3) (q : BitVec 1) (hd ha : BitVec 5) (m : BitVec 2) (sat : BitVec 1)
  /-- VNEG (R242): Element-wise negation. -/
  | vneg (p : BitVec 3) (q : BitVec 1) (hd ha : BitVec 5) (m : BitVec 2) (sat : BitVec 1)
  /-- VSCALE (R241): Scales elements by a power of two. -/
  | vscale (p : BitVec 3) (q : BitVec 1) (hd ha hb : BitVec 5) (m : BitVec 2) (sat : BitVec 1)
  /-- VCLIP (R241): Clips elements to plus or minus |b|. -/
  | vclip (p : BitVec 3) (q : BitVec 1) (hd ha hb : BitVec 5) (m : BitVec 2) (sat : BitVec 1)
  /-- VEXP (R243): Correctly rounded e^a per element. -/
  | vexp (p : BitVec 3) (q : BitVec 1) (hd ha : BitVec 5) (m : BitVec 2) (sat : BitVec 1)
  /-- VLOG (R243): Correctly rounded ln a per element. -/
  | vlog (p : BitVec 3) (q : BitVec 1) (hd ha : BitVec 5) (m : BitVec 2) (sat : BitVec 1)
  /-- VRCP (R243): Correctly rounded reciprocal per element. -/
  | vrcp (p : BitVec 3) (q : BitVec 1) (hd ha : BitVec 5) (m : BitVec 2) (sat : BitVec 1)
  /-- VRSQRT (R243): Correctly rounded reciprocal square root per element. -/
  | vrsqrt (p : BitVec 3) (q : BitVec 1) (hd ha : BitVec 5) (m : BitVec 2) (sat : BitVec 1)
  /-- VTANH (R243): Correctly rounded tanh per element. -/
  | vtanh (p : BitVec 3) (q : BitVec 1) (hd ha : BitVec 5) (m : BitVec 2) (sat : BitVec 1)
  /-- VSIGM (R243): Correctly rounded sigmoid per element. -/
  | vsigm (p : BitVec 3) (q : BitVec 1) (hd ha : BitVec 5) (m : BitVec 2) (sat : BitVec 1)
  /-- VSILU (R243): Correctly rounded SiLU per element. -/
  | vsilu (p : BitVec 3) (q : BitVec 1) (hd ha : BitVec 5) (m : BitVec 2) (sat : BitVec 1)
  /-- VERF (R243): Correctly rounded erf per element. -/
  | verf (p : BitVec 3) (q : BitVec 1) (hd ha : BitVec 5) (m : BitVec 2) (sat : BitVec 1)
  /-- VIADD (R244): Element-wise integer addition. -/
  | viadd (p : BitVec 3) (q : BitVec 1) (hd ha hb : BitVec 5) (sat : BitVec 1)
  /-- VISUB (R244): Element-wise integer subtraction. -/
  | visub (p : BitVec 3) (q : BitVec 1) (hd ha hb : BitVec 5) (sat : BitVec 1)
  /-- VIMUL (R244): Element-wise integer multiplication. -/
  | vimul (p : BitVec 3) (q : BitVec 1) (hd ha hb : BitVec 5) (sat : BitVec 1)
  /-- VIMAC (R244): Element-wise integer multiply-accumulate into HD. -/
  | vimac (p : BitVec 3) (q : BitVec 1) (hd ha hb : BitVec 5) (sat : BitVec 1)
  /-- VAND (R244): Element-wise bitwise and. -/
  | vand (p : BitVec 3) (q : BitVec 1) (hd ha hb : BitVec 5) (sat : BitVec 1)
  /-- VOR (R244): Element-wise bitwise or. -/
  | vor (p : BitVec 3) (q : BitVec 1) (hd ha hb : BitVec 5) (sat : BitVec 1)
  /-- VXOR (R244): Element-wise bitwise xor. -/
  | vxor (p : BitVec 3) (q : BitVec 1) (hd ha hb : BitVec 5) (sat : BitVec 1)
  /-- VSHL (R244): Element-wise left shift. -/
  | vshl (p : BitVec 3) (q : BitVec 1) (hd ha hb : BitVec 5) (sat : BitVec 1)
  /-- VSHR (R244): Element-wise arithmetic right shift. -/
  | vshr (p : BitVec 3) (q : BitVec 1) (hd ha hb : BitVec 5) (sat : BitVec 1)
  /-- VRSH (R244): Element-wise rounding right shift, half up. -/
  | vrsh (p : BitVec 3) (q : BitVec 1) (hd ha hb : BitVec 5) (sat : BitVec 1)
  /-- VCLAMPI (R244): Element-wise clamp to 0 to b. -/
  | vclampi (p : BitVec 3) (q : BitVec 1) (hd ha hb : BitVec 5) (sat : BitVec 1)
  /-- VCOPY (R245): Copies element patterns. -/
  | vcopy (p : BitVec 3) (q : BitVec 1) (hd ha : BitVec 5)
  /-- VFILL (R245): Fills HD with the rounded first element of HA. -/
  | vfill (p : BitVec 3) (q : BitVec 1) (hd ha : BitVec 5) (m : BitVec 2) (sat : BitVec 1)
  /-- VCVT (R245): Converts elements between formats. -/
  | vcvt (p : BitVec 3) (q : BitVec 1) (hd ha : BitVec 5) (m : BitVec 2) (sat : BitVec 1)
  /-- VGATH (R245): Gathers HA elements by index. -/
  | vgath (p : BitVec 3) (q : BitVec 1) (hd ha hb : BitVec 5)
  /-- VSCAT (R245): Scatters HA elements to HD by index. -/
  | vscat (p : BitVec 3) (q : BitVec 1) (hd ha hb : BitVec 5)
  /-- VSEL (R245): Writes HA elements where HB is non-zero. -/
  | vsel (p : BitVec 3) (q : BitVec 1) (hd ha hb : BitVec 5)
  /-- VSUM (R246): Reduces each row to its sum by the fixed tree. -/
  | vsum (p : BitVec 3) (q : BitVec 1) (hd ha : BitVec 5) (m : BitVec 2) (sat : BitVec 1)
  /-- VMAXR (R246): Reduces each row to its greatest element. -/
  | vmaxr (p : BitVec 3) (q : BitVec 1) (hd ha : BitVec 5) (m : BitVec 2) (sat : BitVec 1)
  /-- VMINR (R246): Reduces each row to its least element. -/
  | vminr (p : BitVec 3) (q : BitVec 1) (hd ha : BitVec 5) (m : BitVec 2) (sat : BitVec 1)
  /-- VDOT (R246): Reduces each row to a dot product. -/
  | vdot (p : BitVec 3) (q : BitVec 1) (hd ha hb : BitVec 5) (m : BitVec 2) (sat : BitVec 1)
  /-- VCMP (R248): Compares elements under the COND of HD's record. -/
  | vcmp (p : BitVec 3) (q : BitVec 1) (hd ha hb : BitVec 5)
  /-- VHIST (R249): Counts valid elements of each row by bucket. -/
  | vhist (p : BitVec 3) (q : BitVec 1) (hd ha : BitVec 5)
  /-- VSELK (R250): Selects up to k large values per row with their indices. -/
  | vselk (p : BitVec 3) (q : BitVec 1) (hd ha hb : BitVec 5)
  /-- VMRG (R251): Merges two partial top-k lists. -/
  | vmrg (p : BitVec 3) (q : BitVec 1) (hd ha hb : BitVec 5)
  /-- VCNT (R252): Counts non-zero valid elements of each row. -/
  | vcnt (p : BitVec 3) (q : BitVec 1) (hd ha : BitVec 5)
  /-- VLOOP (R238): Opens a vector loop body of n passes with stagger s. -/
  | vloop (p : BitVec 3) (q : BitVec 1) (n k : BitVec 5)
  /-- VEND (R238): Closes the open vector loop body. -/
  | vend (p : BitVec 3) (q : BitVec 1)
  /-- VWAIT (R239): Holds the thread until its vector sequencer is empty. -/
  | vwait (p : BitVec 3) (q : BitVec 1)
  /-- VECTOR_GROUP (R231): In a vector turn the sequencer head entry reads, computes and writes one element group. -/
  | vectorGroup (core : Nat)
  /-- VECTOR_FAULT_DELIVERY (R188): A vector fault is delivered as a trap at the thread's next issue turn and the sequencer freezes. -/
  | vectorFaultDelivery (tid : Nat)
  /-- MMA (R268): Dense matrix multiply-accumulate over k-steps. -/
  | mma (p : BitVec 3) (q : BitVec 1) (acc ra rb : BitVec 3) (k : BitVec 4) (mf : BitVec 9)
  /-- MMS (R269): Selector-sparse matrix multiply-accumulate with metadata. -/
  | mms (p : BitVec 3) (q : BitVec 1) (acc ra rb : BitVec 3) (k : BitVec 4) (mf : BitVec 9)
  /-- MMX (R270): Matrix multiply with expanded, optionally transposed, compressed B. -/
  | mmx (p : BitVec 3) (q : BitVec 1) (acc ra rb : BitVec 3) (k : BitVec 4) (mf : BitVec 9)
  /-- MMG (R271): Weight-gradient matrix operation, dense or masked. -/
  | mmg (p : BitVec 3) (q : BitVec 1) (acc ra rb : BitVec 3) (k : BitVec 4) (mf : BitVec 9)
  /-- MATRIX_ADMISSION (R255): A waiting matrix or ACC-R instruction is admitted when its resources are free. -/
  | matrixAdmission (core : Nat)
  /-- MATRIX_K_STEP (R272): The unit runs one k-step of an admitted operation whose slots are filled, completing or faulting it. -/
  | matrixKStep (core : Nat)
  /-- ACCZ (R275): Sets an accumulator tile to +0. -/
  | accz (p : BitVec 3) (q : BitVec 1) (t : BitVec 3)
  /-- ACCRD (R275): Converts a tile into local-store rows. -/
  | accrd (p : BitVec 3) (q : BitVec 1) (t : BitVec 3) (a b : BitVec 4)
  /-- ACCWR (R275): Loads a tile from local-store rows. -/
  | accwr (p : BitVec 3) (q : BitVec 1) (t : BitVec 3) (a b : BitVec 4)
  /-- ACC_TRANSFER_DONE (R275): 72 cycles after admission an accumulator transfer writes its last element and the thread becomes Ready. -/
  | accTransferDone (tid : Nat)
  /-- RINGSET (R259): Binds a ring register from a ring descriptor. -/
  | ringset (p : BitVec 3) (q : BitVec 1) (t : BitVec 3) (a : BitVec 4)
  /-- RINGST (R260): Marks n ring slots filled. -/
  | ringst (p : BitVec 3) (q : BitVec 1) (t : BitVec 3) (b : BitVec 4)
  /-- MPGET (R261): Reads a ring register's state. -/
  | mpget (p : BitVec 3) (q : BitVec 1) (d : BitVec 4) (t : BitVec 3)
  /-- CPY (R304): Sends a chain of copy descriptors to a copy engine. -/
  | cpy (p : BitVec 3) (q : BitVec 1) (d a b : BitVec 4)
  /-- CPYD (R307): Sends a copy through the distributor to deal blocks across cores. -/
  | cpyd (p : BitVec 3) (q : BitVec 1) (d a b : BitVec 4)
  /-- CPYF (R305): Fills destination elements with a value. -/
  | cpyf (p : BitVec 3) (q : BitVec 1) (d a b : BitVec 4)
  /-- CPYQ (R306): Queries the state of a copy command by ticket number. -/
  | cpyq (p : BitVec 3) (q : BitVec 1) (d a : BitVec 4)
  /-- COPY_COMMAND_ACCEPT (R298): An engine accepts a command into its queue of 64. -/
  | copyCommandAccept (n : Nat)
  /-- COPY_COMMAND_COMPLETION (R302): A command finishes or stops; words are set full, the counter advances and the ticket is written. -/
  | copyCommandCompletion (eng : Nat)
  /-- COMBINING_WINDOW_CLOSE (R308): After 256 cycles a combining window closes and the source is read once for every member. -/
  | combiningWindowClose (cl : Nat)
  /-- STREAM_DELIVERY (R214): A delivery is written into an input stream's circular buffer or waits. -/
  | streamDelivery (n : Nat)
  /-- STREAM_DELIVERY_TIMEOUT (R214): A delivery that waited 2,048 cycles goes with its successors to the overflow queue and OVF is set. -/
  | streamDeliveryTimeout (port : Nat)
  /-- OVERFLOW_DELIVERY_REENTRY (R214): Held deliveries re-enter the stream buffer oldest first as space frees. -/
  | overflowDeliveryReentry (port : Nat)
  /-- BLOCK_EXPANSION (R216): The DMA port reads a compressed block header and writes, zeroes, queues or refuses the block. -/
  | blockExpansion (n : Nat)
  /-- TRANSFORM_THREAD_BIND (R217): A Vacant slot 14 binds a thread at the transform entry pc when a block is queued. -/
  | transformThreadBind (core : Nat)
  /-- COMM_THREAD_BIND (R198): Slot 15 binds at the communication entry pc when Vacant and a queue holds an element. -/
  | commThreadBind (core : Nat)
  /-- THIN (R342): Requests a thinning interval on a sparse layer. -/
  | thin (p : BitVec 3) (q : BitVec 1) (d a b : BitVec 4)
  /-- MREF (R338): Binds the current version of a sparse layer. -/
  | mref (p : BitVec 3) (q : BitVec 1) (d a b : BitVec 4)
  /-- MREL (R339): Releases a sparse-layer binding. -/
  | mrel (p : BitVec 3) (q : BitVec 1) (d a b : BitVec 4)
  /-- MVER (R341): Reads a sparse layer's version state. -/
  | mver (p : BitVec 3) (q : BitVec 1) (d a : BitVec 4)
  /-- INTERVAL_BUILD_START (R343): An interval in Drain whose other copy has no readers enters Build when the unit is free. -/
  | intervalBuildStart (cl : Nat)
  /-- INTERVAL_PUBLISH (R343): A completed build publishes the new version and writes the ticket. -/
  | intervalPublish (cl : Nat)
  /-- INTERVAL_FAILURE (R351): A build fails with an ISTAT code, publishing nothing, and writes the ticket. -/
  | intervalFailure (cl : Nat)
  /-- GRED (R410): Contributes descriptors to a reduction written once at DCORE. -/
  | gred (p : BitVec 3) (q : BitVec 1) (d a b : BitVec 4)
  /-- GLDR (R410): Contributes to an all-reduce written at every member. -/
  | gldr (p : BitVec 3) (q : BitVec 1) (d a b : BitVec 4)
  /-- GMC (R410): Multicasts source bytes to every member. -/
  | gmc (p : BitVec 3) (q : BitVec 1) (d a b : BitVec 4)
  /-- GSET_SET (R407): Registers a group specification and waits for installation. -/
  | gsetSet (p : BitVec 3) (q : BitVec 1) (d a b : BitVec 4)
  /-- GSET_CLEAR (R407): Clears the package's member records of a group. -/
  | gsetClear (p : BitVec 3) (q : BitVec 1) (d a b : BitVec 4)
  /-- GQ (R415): Reads the executing core's member record of a group. -/
  | gq (p : BitVec 3) (q : BitVec 1) (d a : BitVec 4)
  /-- GROUP_REGISTRATION (R405): The root receives a registration and installs the group once every member package has registered. -/
  | groupRegistration (n : Nat)
  /-- GSET_TIMEOUT (R407): TOUT after the first registration the root removes every registration and answers peer absent. -/
  | gsetTimeout (grp : Nat)
  /-- REDUCTION_CHUNK_ARRIVAL (R412): A chunk arrives at a switch's reduction slot and is combined or passed up or down. -/
  | reductionChunkArrival (n : Nat)
  /-- SLOT_TIMER_EXPIRY (R412): A slot in Collect times out and sends dead notices to parent and children. -/
  | slotTimerExpiry (sw grp slot : Nat)
  /-- SLOT_NOTICE_ARRIVAL (R412): A result, mismatch or dead notice from the parent reaches a slot in Up and is passed to the children. -/
  | slotNoticeArrival (n : Nat)
  /-- DESTINATION_WRITE (R411): A result reaches a destination core, is checked, written, counted and its status returned. -/
  | destinationWrite (n : Nat)
  /-- STATUS_RETURN (R410): A collective status returns to the issuing member, writing any ticket and ending the Held wait when the last returns. -/
  | statusReturn (n : Nat)
  /-- MEMBER_CUTOFF_TIMEOUT (R413): A member cut off from the root receives code 7 after 2 x TOUT. -/
  | memberCutoffTimeout (core grp seq : Nat)
  /-- COMM_X1_ELEMENT (R416): An element written to slot 15's x1 queue issues a collective chain without holding the thread. -/
  | commX1Element (core : Nat)
  /-- COMM_X3_QUERY (R416): A group number written to x3 is queried and the answer returns on x2. -/
  | commX3Query (core : Nat)
  /-- SBIND (R211): Binds a port to a stream descriptor and empties its buffer. -/
  | sbind (p : BitVec 3) (q : BitVec 1) (x : BitVec 2) (a : BitVec 4)
  /-- SFREE (R211): Unbinds a port and discards its unread elements. -/
  | sfree (p : BitVec 3) (q : BitVec 1) (x : BitVec 2)
  /-- XSTAT (R212): Reads a port's status word. -/
  | xstat (p : BitVec 3) (q : BitVec 1) (d : BitVec 4) (x : BitVec 2)
  /-- BGET (R219): Takes n bits from the block's input. -/
  | bget (p : BitVec 3) (q : BitVec 1) (d a : BitVec 4)
  /-- BPEEK (R219): Reads n input bits without consuming them. -/
  | bpeek (p : BitVec 3) (q : BitVec 1) (d a : BitVec 4)
  /-- BSKIP (R219): Skips input bits. -/
  | bskip (p : BitVec 3) (q : BitVec 1) (a : BitVec 4)
  /-- BPUT (R219): Writes n bits to the block's output. -/
  | bput (p : BitVec 3) (q : BitVec 1) (a b : BitVec 4)
  /-- BFLUSH (R219): Pads the output to a byte boundary and returns its length. -/
  | bflush (p : BitVec 3) (q : BitVec 1) (d : BitVec 4)
  /-- BHDR (R219): Waits for and takes the head block of the transform queue. -/
  | bhdr (p : BitVec 3) (q : BitVec 1) (d : BitVec 4)
  /-- BEXP (R219): Reads an exponential-Golomb code from the input. -/
  | bexp (p : BitVec 3) (q : BitVec 1) (d a : BitVec 4)
  /-- BSYNC (R220): Finishes the held block and returns its status. -/
  | bsync (p : BitVec 3) (q : BitVec 1) (d : BitVec 4)
  /-- HWALK (R296): Walks the page table without filling a TLB. -/
  | hwalk (p : BitVec 3) (q : BitVec 1) (d a b : BitVec 4)
  /-- HINS (R296): Installs a page-table image into both replicas. -/
  | hins (p : BitVec 3) (q : BitVec 1) (d a : BitVec 4)
  /-- HDEL (R296): Removes a page-table entry and its TLB entries. -/
  | hdel (p : BitVec 3) (q : BitVec 1) (d a : BitVec 4)
  /-- TLBI (R296): Invalidates TLB entries over a range on every port. -/
  | tlbi (p : BitVec 3) (q : BitVec 1) (a b : BitVec 4)
  /-- HOTR (R296): Reads and optionally clears the shadow hotness of an entry. -/
  | hotr (p : BitVec 3) (q : BitVec 1) (d a b : BitVec 4)
  /-- PGMV (R297): Moves a page to a new frame. -/
  | pgmv (p : BitVec 3) (q : BitVec 1) (d a b : BitVec 4)
  /-- PAGE_MOVE_SWITCH (R297): A page copy finishes; entries point to the new frame, MV clears and TLB entries are invalidated. -/
  | pageMoveSwitch (n : Nat)
  /-- BPSET (R376): Sets a hardware breakpoint of the context. -/
  | bpset (p : BitVec 3) (q : BitVec 1) (a b : BitVec 4)
  /-- BPCLR (R376): Invalidates a hardware breakpoint. -/
  | bpclr (p : BitVec 3) (q : BitVec 1) (a : BitVec 4)
  /-- TSTART (R377): Sets the context's trace mask. -/
  | tstart (p : BitVec 3) (q : BitVec 1) (a : BitVec 4)
  /-- TSTOP (R377): Clears the context's trace mask. -/
  | tstop (p : BitVec 3) (q : BitVec 1)
  /-- SNAP (R378): Writes the thread's packet into local store and returns the time. -/
  | snap (p : BitVec 3) (q : BitVec 1) (d a : BitVec 4)
  /-- HARDWARE_BREAKPOINT (R376): A thread about to issue at a breakpoint pc traps or stops. -/
  | hardwareBreakpoint (n : Nat)
  /-- SPILL (R190): The spill engine writes one slot's packet to its save record and the slot becomes Vacant. -/
  | spill (tid : Nat)
  /-- SPILL_RESUME (R191): A saved packet is resumed into its own slot and reissues its instruction. -/
  | spillResume (tid cx : Nat)
  /-- LOG_APPEND (R367): The die log unit writes a record into the ring and advances logprod. -/
  | logAppend (cx die : Nat)
  /-- REPLAY_RECORD_DISPATCH (R369): The log unit reads a loaded record and passes it to the serialisation point of its object. -/
  | replayRecordDispatch (cx die : Nat)
  /-- REPLAY_WAIT_TIMEOUT (R371): A replay wait exceeds rtimeout and raises divergence reason 3 or writes a trace record. -/
  | replayWaitTimeout (tid : Nat)
  /-- TIME_MESSAGE (R402): A domain time message arrives and advances D without letting it decrease. -/
  | timeMessage (pkg carried delay : Nat)
  /-- MASTER_TIME_FAILOVER (R402): The lowest-numbered up spine of plane 0 takes over as time master. -/
  | masterTimeFailover
  /-- LOAD_DATA (R388): LOAD KIND 0 copies host bytes into mapped unsealed HBM. -/
  | loadData (pkg ep conn : Nat) (queued : Bool) (bytes : List (Byte))
  /-- LOAD_PAGE_TABLE (R388): LOAD KIND 1 installs page-table images as hins does. -/
  | loadPageTable (pkg ep conn : Nat) (queued : Bool) (bytes : List (Byte))
  /-- LAUNCH_CREATE (R318): LAUNCH OPT 0 checks a descriptor and creates a context. -/
  | launchCreate (pkg ep conn : Nat) (queued : Bool) (bytes : List (Byte))
  /-- LAUNCH_PRIORITY (R321): LAUNCH OPT 1 changes a context's priority and switches foreground contexts. -/
  | launchPriority (pkg ep conn : Nat) (queued : Bool) (bytes : List (Byte))
  /-- SNAPSHOT (R388): Reads a region-0 range and RMA-writes it to the host. -/
  | snapshot (pkg ep conn : Nat) (queued : Bool) (bytes : List (Byte))
  /-- QUERY_HEALTH (R399): Returns the health word and clears CORR. -/
  | queryHealth (pkg ep conn : Nat) (queued : Bool) (bytes : List (Byte))
  /-- QUERY_DIGEST (R388): Returns the SHA-256 digest of a range. -/
  | queryDigest (pkg ep conn : Nat) (queued : Bool) (bytes : List (Byte))
  /-- QUERY_CONTEXT_STATES (R314): Returns the states of contexts 0 to 3. -/
  | queryContextStates (pkg ep conn : Nat) (queued : Bool) (bytes : List (Byte))
  /-- QUERY_ATTESTATION (R396): Returns the signed attestation report and device certificate. -/
  | queryAttestation (pkg ep conn : Nat) (queued : Bool) (bytes : List (Byte))
  /-- SEAL_COMMAND (R388): SEAL OPSEL 0 seals a range of whole pages. -/
  | sealCommand (pkg ep conn : Nat) (queued : Bool) (bytes : List (Byte))
  /-- UNSEAL_COMMAND (R388): SEAL OPSEL 1 unseals a range of whole pages. -/
  | unsealCommand (pkg ep conn : Nat) (queued : Bool) (bytes : List (Byte))
  /-- RESET_CONTEXT (R314): RESET SCOPE 0 discards every thread of a context and frees it. -/
  | resetContext (pkg ep conn : Nat) (queued : Bool) (bytes : List (Byte))
  /-- RESET_PACKAGE (R431): RESET SCOPE 1 returns the package to its power-on state. -/
  | resetPackage (pkg ep conn : Nat) (queued : Bool) (bytes : List (Byte))
  /-- FOREIGN_PACKET_DROP (R386): A packet from an endpoint not in the host table is dropped and counted. -/
  | foreignPacketDrop (pkg ep : Nat)
  /-- HOSTSET (R386): Replaces the host table. -/
  | hostset (pkg ep : Nat) (eps : List Nat)
  /-- WINDOW (R392): Writes one host window. -/
  | window (pkg ep n : Nat) (bytes : List (Byte))
  /-- STOP (R379): Stops one thread at an instruction boundary. -/
  | stop (pkg ep lcn slot : Nat) (queued : Bool)
  /-- RESUME (R379): Makes a Stopped thread Ready. -/
  | resume (pkg ep lcn slot : Nat)
  /-- PKREAD (R391): Reads the packet of a Stopped thread. -/
  | pkread (pkg ep lcn slot : Nat)
  /-- PKWRITE (R391): Writes the packet of a Stopped thread. -/
  | pkwrite (pkg ep lcn slot : Nat) (bytes : List (Byte))
  /-- FWLOAD (R395): Verifies and stores a signed firmware image, raising the fused index. -/
  | fwload (pkg ep n : Nat) (bytes : List (Byte))
  /-- POWERCAP (R391): Sets the package power limit. -/
  | powercap (pkg ep watts : Nat)
  /-- POWER_ON (R431): Power-on brings the package to its initial state and verifies firmware. -/
  | powerOn (pkg : Nat) (repaired : Bool)
  /-- THROTTLE (R397): Exceeding the power cap or 95 C steps the core clock down by 100 MHz. -/
  | throttle (pkg : Nat)
  /-- THROTTLE_RELEASE (R397): When the cause clears the clock steps back up. -/
  | throttleRelease (pkg : Nat)
  /-- THERMAL_SHUTDOWN (R397): A junction at 105 C shuts the package down without an exit report. -/
  | thermalShutdown (pkg : Nat)
  /-- CORRECTED_ERROR (R224): A single-bit error is corrected and counted in the health status. -/
  | correctedError (pkg : Nat) (phys : Option Nat)
  /-- UNCORRECTABLE_THREAD_STATE (R224): An uncorrectable error in a thread's registers stops it and asks to disable the core. -/
  | uncorrectableThreadState (tid : Nat)
  /-- UNCORRECTABLE_CORE_STATE (R224): An uncorrectable error in deque, port table or core register stops every resident thread. -/
  | uncorrectableCoreState (core : Nat)
  /-- CORE_DISABLE (R398): A disabled core's threads stop and its logical duties move to the next enabled core. -/
  | coreDisable (core : Nat)
  /-- TLB_ENTRY_ERROR (R312): An uncorrectable TLB entry is dropped without write-back. -/
  | tlbEntryError (cl n : Nat)
  /-- REPLICA_LINE_ERROR (R312): An uncorrectable replica line is dropped and refetched. -/
  | replicaLineError (cl line : Nat)
  /-- SHARD_BUCKET_ERROR (R312): An uncorrectable shard bucket answers no entry and is repaired from the other die. -/
  | shardBucketError (pkg die home bucket : Nat)
  /-- ENGINE_FAULT (R312): A faulting copy engine stops its command with UNC and is disabled. -/
  | engineFault (eng : Nat)
  /-- BARRIER_STATE_ERROR (R312): Uncorrectable barrier state stops its waiters without release. -/
  | barrierStateError (cl bar : Nat)
  /-- MAP_ENTRY_ERROR (R328): An uncorrectable residency-map entry stops the context's threads on the named cores. -/
  | mapEntryError (cx core : Nat)
  /-- MESH_LINK_FAULT (R328): Traffic is routed round a faulty mesh link. -/
  | meshLinkFault (pkg die link : Nat)
  /-- THINNING_UNIT_ERROR (R351): An uncorrectable error in a thinning unit ends its intervals with ISTAT 3 and disables it. -/
  | thinningUnitError (cl : Nat)
  /-- LOG_APPEND_FAILURE (R381): An append that meets an unmapped or bad page stops appending and holds logging threads. -/
  | logAppendFailure (cx die : Nat)
  /-- SEQUENCE_STATE_ERROR (R381): Uncorrectable sequence state stops the object's waiters. -/
  | sequenceStateError (cx obj : Nat)
  /-- LOG_UNIT_DISABLED (R381): A disabled log unit stops recording and replay of its die. -/
  | logUnitDisabled (pkg die : Nat)
  /-- CHANNEL_RETIREMENT (R385): An HBM channel qualifying for retirement starts copying onto the spare channel. -/
  | channelRetirement (pkg stack chan : Nat) (unit : Option Nat)
  /-- SPARE_COPY_COMPLETE (R385): The copy of a retired channel onto the spare completes. -/
  | spareCopyComplete (pkg stack : Nat)
  /-- DIE_SUBLINK_FAILURE (R383): A failed die-link sub-link is dropped with no data lost. -/
  | dieSublinkFailure (pkg : Nat)
  /-- DIE_LINK_LOST (R383): Loss of all 16 sub-links stops every context of the package. -/
  | dieLinkLost (pkg : Nat)
  /-- FLIT_CRC_ERROR (R401): A flit that fails its CRC is retried on its link. -/
  | flitCrcError (pkg port : Nat)
  /-- LANE_FAILURE (R398): A failing fabric lane is dropped and the port continues or goes down. -/
  | laneFailure (pkg port : Nat)
  /-- PORT_DOWN (R419): A port or switch going down reroutes traffic and breaks groups using it. -/
  | portDown (pkg port : Nat)
  /-- SLOT_UNCORRECTABLE (R419): An uncorrectable error in a reduction slot makes its sequence number dead. -/
  | slotUncorrectable (sw grp slot : Nat)
  /-- TREE_ENTRY_ERROR (R419): An uncorrectable tree entry breaks its group. -/
  | treeEntryError (sw grp : Nat)
  /-- TIME_ACCOUNT_CYCLE (R222): While RUN is 1, every core cycle adds 1 to the class counter of position c mod 16 and to the Ready-count histogram bucket. -/
  | timeAccountCycle (core : Nat)
  /-- TIME_STAMP_COUNTER_TICK (R364): Each nanosecond every time-stamp counter T becomes max(T, D), and the domain counter D advances by one nanosecond. -/
  | timeStampCounterTick
deriving DecidableEq, Repr

end Sys2Proof
end

