-- ==== Sys2Proof/WellFormed.lean ====
section
/-! DEFINITION. Which terms of Instr the encoding admits: the sub-field checks of R70 steps 4 and 6 (R53, R54, R56, R58,
R60, R62, R65, R68, R166, R265, R250, R251). -/

namespace Sys2Proof

/-- PS = 0 with PN = 1 has no meaning (R53). -/
def predOk (p : BitVec 3) (q : BitVec 1) : Bool := !(p == 0 && q == 1)

/-- Code 11 is illegal as a destination (R54). -/
def destOk (d : BitVec 4) : Bool := d != 11

/-- Format codes 12 to 15 are reserved (R27, R68). -/
def fmtCodeOk (f : BitVec 4) : Bool := decide (f.toNat < 12)

/-- The numbered system registers (R80, R192, R325). -/
def sysReadable (n : Nat) : Bool :=
  decide (n < 0x0D) || (decide (0x40 ≤ n) && decide (n < 0x46)) || (decide (0x80 ≤ n) && decide (n < 0x89))

/-- The writable registers that no row of their own covers: status, cause, epc, ebad, vbstall, trapvec, rtimeout, seed. -/
def sysPlainWrite (n : Nat) : Bool :=
  decide (n < 4) || n == 0x44 || n == 0x81 || n == 0x87 || n == 0x88

/-- fmt, scl and shb (R117). -/
def sysVectorState (n : Nat) : Bool := n == 4 || n == 5 || n == 6

/-- logbase and logsize (R357). -/
def sysLogRing (n : Nat) : Bool := n == 0x82 || n == 0x83

/-- Bit k of the mode field of a matrix instruction (R264). -/
def mfBit (mf : BitVec 9) (k : Nat) : Bool := mf.getLsbD k

/-- mma (R265). -/
def mmaOk (ra rb : Nat) (mf : BitVec 9) : Bool :=
  !mfBit mf 2 && !mfBit mf 3 && !mfBit mf 4 && !mfBit mf 5 && !mfBit mf 8 && ra != rb

/-- mms (R62, R265). -/
def mmsOk (ra rb : Nat) (mf : BitVec 9) : Bool :=
  !mfBit mf 1 && !mfBit mf 3 && !mfBit mf 4 && !mfBit mf 5 && !mfBit mf 8 && rb != 7 && ra != rb && ra != rb + 1

/-- mmx (R265). -/
def mmxOk (ra rb : Nat) (mf : BitVec 9) : Bool :=
  !mfBit mf 5 && !mfBit mf 8 && (!mfBit mf 4 || mfBit mf 3) && rb != 7 && ra != rb && ra != rb + 1

/-- mmg (R265). -/
def mmgOk (ra rb : Nat) (mf : BitVec 9) : Bool :=
  !mfBit mf 3 && !mfBit mf 4 && !mfBit mf 8 && (!mfBit mf 2 || mfBit mf 5) && ra != rb &&
    (!mfBit mf 5 || (rb != 7 && ra != rb + 1))

/-- The sub-field checks of R70 steps 4 and 6, for each instruction. An event has none. -/
def Instr.wf : Instr → Bool
  | .add p q d _ _ => predOk p q && destOk d
  | .sub p q d _ _ => predOk p q && destOk d
  | .and p q d _ _ => predOk p q && destOk d
  | .or p q d _ _ => predOk p q && destOk d
  | .xor p q d _ _ => predOk p q && destOk d
  | .andn p q d _ _ => predOk p q && destOk d
  | .orn p q d _ _ => predOk p q && destOk d
  | .sll p q d _ _ => predOk p q && destOk d
  | .srl p q d _ _ => predOk p q && destOk d
  | .sra p q d _ _ => predOk p q && destOk d
  | .rol p q d _ _ => predOk p q && destOk d
  | .ror p q d _ _ => predOk p q && destOk d
  | .mul p q d _ _ => predOk p q && destOk d
  | .mulh p q d _ _ => predOk p q && destOk d
  | .mulhu p q d _ _ => predOk p q && destOk d
  | .div p q d _ _ => predOk p q && destOk d
  | .divu p q d _ _ => predOk p q && destOk d
  | .rem p q d _ _ => predOk p q && destOk d
  | .remu p q d _ _ => predOk p q && destOk d
  | .min p q d _ _ => predOk p q && destOk d
  | .max p q d _ _ => predOk p q && destOk d
  | .minu p q d _ _ => predOk p q && destOk d
  | .maxu p q d _ _ => predOk p q && destOk d
  | .clz p q d _ => predOk p q && destOk d
  | .ctz p q d _ => predOk p q && destOk d
  | .popc p q d _ => predOk p q && destOk d
  | .brev p q d _ => predOk p q && destOk d
  | .sextb p q d _ => predOk p q && destOk d
  | .sexth p q d _ => predOk p q && destOk d
  | .sextw p q d _ => predOk p q && destOk d
  | .zextb p q d _ => predOk p q && destOk d
  | .zexth p q d _ => predOk p q && destOk d
  | .zextw p q d _ => predOk p q && destOk d
  | .bfx p q d _ _ => predOk p q && destOk d
  | .bfi p q d _ _ => predOk p q && destOk d
  | .addi p q d _ _ => predOk p q && destOk d
  | .addiI38 p q d _ _ => predOk p q && destOk d
  | .andi p q d _ _ => predOk p q && destOk d
  | .andiI38 p q d _ _ => predOk p q && destOk d
  | .ori p q d _ _ => predOk p q && destOk d
  | .oriI38 p q d _ _ => predOk p q && destOk d
  | .xori p q d _ _ => predOk p q && destOk d
  | .xoriI38 p q d _ _ => predOk p q && destOk d
  | .slli p q d _ _ => predOk p q && destOk d
  | .srli p q d _ _ => predOk p q && destOk d
  | .srai p q d _ _ => predOk p q && destOk d
  | .li p q d _ => predOk p q && destOk d
  | .liI38 p q d _ => predOk p q && destOk d
  | .lih p q d _ => predOk p q && destOk d
  | .lihI38 p q d _ => predOk p q && destOk d
  | .eq p q pd _ _ _ => predOk p q && pd != 0
  | .ne p q pd _ _ _ => predOk p q && pd != 0
  | .lt p q pd _ _ _ => predOk p q && pd != 0
  | .ge p q pd _ _ _ => predOk p q && pd != 0
  | .ltu p q pd _ _ _ => predOk p q && pd != 0
  | .geu p q pd _ _ _ => predOk p q && pd != 0
  | .feq p q pd _ _ _ => predOk p q && pd != 0
  | .fne p q pd _ _ _ => predOk p q && pd != 0
  | .flt p q pd _ _ _ => predOk p q && pd != 0
  | .fle p q pd _ _ _ => predOk p q && pd != 0
  | .funord p q pd _ _ _ => predOk p q && pd != 0
  | .cmpeqi p q pd _ _ _ => predOk p q && pd != 0
  | .cmpeqiI38 p q pd _ _ _ => predOk p q && pd != 0
  | .cmplti p q pd _ _ _ => predOk p q && pd != 0
  | .cmpltiI38 p q pd _ _ _ => predOk p q && pd != 0
  | .cmpltui p q pd _ _ _ => predOk p q && pd != 0
  | .cmpltuiI38 p q pd _ _ _ => predOk p q && pd != 0
  | .pand p q pd _ _ => predOk p q && pd != 0
  | .por p q pd _ _ => predOk p q && pd != 0
  | .pxor p q pd _ _ => predOk p q && pd != 0
  | .pandn p q pd _ _ => predOk p q && pd != 0
  | .pget p q d => predOk p q && destOk d
  | .pput p q _ => predOk p q
  | .br p q _ => predOk p q
  | .jal p q _ => predOk p q
  | .jr p q _ => predOk p q
  | .jalr p q d _ => predOk p q && destOk d
  | .fadd p q d _ _ _ => predOk p q && destOk d
  | .fsub p q d _ _ _ => predOk p q && destOk d
  | .fmul p q d _ _ _ => predOk p q && destOk d
  | .fdiv p q d _ _ _ => predOk p q && destOk d
  | .fsqrt p q d _ _ => predOk p q && destOk d
  | .fmin p q d _ _ => predOk p q && destOk d
  | .fmax p q d _ _ => predOk p q && destOk d
  | .fabs p q d _ => predOk p q && destOk d
  | .fneg p q d _ => predOk p q && destOk d
  | .fmadd p q d _ _ _ => predOk p q && destOk d
  | .cvt p q d _ _ dst src => predOk p q && destOk d && fmtCodeOk dst && fmtCodeOk src
  | .rdsr p q d sys => predOk p q && destOk d && sysReadable sys.toNat
  | .wrsr p q _ sys => predOk p q && sysPlainWrite sys.toNat
  | .wrsrVectorState p q _ sys => predOk p q && sysVectorState sys.toNat
  | .wrsrSegbase p q _ => predOk p q
  | .wrsrRotmode p q _ => predOk p q
  | .rotmodeSwitch _ => true
  | .wrsrDonord p q _ => predOk p q
  | .wrsrSlottab p q _ => predOk p q
  | .wrsrAcct p q _ => predOk p q
  | .acctSnapshot _ => true
  | .wrsrLogRing p q _ sys => predOk p q && sysLogRing sys.toNat
  | .wrsrLogcons p q _ => predOk p q
  | .wrsrReplay p q _ => predOk p q
  | .ldb p q d _ _ => predOk p q && destOk d
  | .ldbu p q d _ _ => predOk p q && destOk d
  | .ldh p q d _ _ => predOk p q && destOk d
  | .ldhu p q d _ _ => predOk p q && destOk d
  | .ldw p q d _ _ => predOk p q && destOk d
  | .ldwu p q d _ _ => predOk p q && destOk d
  | .ldd p q d _ _ => predOk p q && destOk d
  | .stb p q _ _ _ => predOk p q
  | .sth p q _ _ _ => predOk p q
  | .stw p q _ _ _ => predOk p q
  | .std p q _ _ _ => predOk p q
  | .ldbI38 p q d _ _ => predOk p q && destOk d
  | .ldbuI38 p q d _ _ => predOk p q && destOk d
  | .ldhI38 p q d _ _ => predOk p q && destOk d
  | .ldhuI38 p q d _ _ => predOk p q && destOk d
  | .ldwI38 p q d _ _ => predOk p q && destOk d
  | .ldwuI38 p q d _ _ => predOk p q && destOk d
  | .lddI38 p q d _ _ => predOk p q && destOk d
  | .stbI38 p q _ _ _ => predOk p q
  | .sthI38 p q _ _ _ => predOk p q
  | .stwI38 p q _ _ _ => predOk p q
  | .stdI38 p q _ _ _ => predOk p q
  | .ldbRlx p q _ _ _ => predOk p q
  | .ldbuRlx p q _ _ _ => predOk p q
  | .ldhRlx p q _ _ _ => predOk p q
  | .ldhuRlx p q _ _ _ => predOk p q
  | .ldwRlx p q _ _ _ => predOk p q
  | .ldwuRlx p q _ _ _ => predOk p q
  | .lddRlx p q _ _ _ => predOk p q
  | .stbRlx p q _ _ _ => predOk p q
  | .sthRlx p q _ _ _ => predOk p q
  | .stwRlx p q _ _ _ => predOk p q
  | .stdRlx p q _ _ _ => predOk p q
  | .relaxedAccessCompletion _ _ => true
  | .deferredRelaxedFault _ => true
  | .ldf p q d _ => predOk p q && destOk d
  | .ldfe p q d _ => predOk p q && destOk d
  | .ste p q _ _ => predOk p q
  | .stf p q _ _ => predOk p q
  | .fclr p q _ => predOk p q
  | .fset p q _ => predOk p q
  | .fstat p q d _ => predOk p q && destOk d
  | .syncWaitSatisfied _ _ => true
  | .aadd p q d _ _ w => predOk p q && destOk d && w.toNat < 2
  | .aand p q d _ _ w => predOk p q && destOk d && w.toNat < 2
  | .aor p q d _ _ w => predOk p q && destOk d && w.toNat < 2
  | .axor p q d _ _ w => predOk p q && destOk d && w.toNat < 2
  | .amin p q d _ _ w => predOk p q && destOk d && w.toNat < 2
  | .amax p q d _ _ w => predOk p q && destOk d && w.toNat < 2
  | .aminu p q d _ _ w => predOk p q && destOk d && w.toNat < 2
  | .amaxu p q d _ _ w => predOk p q && destOk d && w.toNat < 2
  | .aswp p q d _ _ w => predOk p q && destOk d && w.toNat < 2
  | .acas p q d _ _ w => predOk p q && destOk d && w.toNat < 2
  | .afadd p q d _ _ => predOk p q && destOk d
  | .bankReservationGrant _ => true
  | .proxyHostAtomic _ _ => true
  | .sealPages p q _ _ => predOk p q
  | .unsealPages p q _ _ => predOk p q
  | .sealq p q d _ => predOk p q && destOk d
  | .sealComplete _ => true
  | .unsealComplete _ => true
  | .fetchHoldRelease _ => true
  | .spawn p q _ _ _ => predOk p q
  | .join p q _ => predOk p q
  | .jinit p q _ _ => predOk p q
  | .exit p q => predOk p q
  | .yield p q _ => predOk p q
  | .yieldHoldEnd _ => true
  | .migrate p q _ => predOk p q
  | .send p q _ _ => predOk p q
  | .waitm p q d => predOk p q && destOk d
  | .waitc p q d _ _ => predOk p q && destOk d
  | .cset p q _ _ => predOk p q
  | .bar p q _ _ => predOk p q
  | .fence p q sc => predOk p q && sc.toNat < 6
  | .clusterBarrierArrival _ => true
  | .clusterBarrierRelease _ _ => true
  | .counterMessage _ => true
  | .wakeMessageArrival _ => true
  | .handlerMessageArrival _ => true
  | .migrationArrival _ => true
  | .migrationRefused _ => true
  | .slotBind _ => true
  | .stealRequest _ => true
  | .stealReply _ => true
  | .stealSearchRetry _ _ => true
  | .trap p q _ => predOk p q
  | .eret p q => predOk p q
  | .brk p q => predOk p q
  | .halt p q _ => predOk p q
  | .haltCompletion _ => true
  | .tsr p q d => predOk p q && destOk d
  | .rng p q d => predOk p q && destOk d
  | .logm p q _ _ => predOk p q
  | .nop p q => predOk p q
  | .illegalInstruction _ => true
  | .extensionAbsent _ => true
  | .extensionMigration _ => true
  | .memoryReply _ => true
  | .pageWalk _ => true
  | .pageWake _ => true
  | .vadd p q _ _ _ _ _ => predOk p q
  | .vsub p q _ _ _ _ _ => predOk p q
  | .vmul p q _ _ _ _ _ => predOk p q
  | .vfma p q _ _ _ _ _ => predOk p q
  | .vmin p q _ _ _ _ _ => predOk p q
  | .vmax p q _ _ _ _ _ => predOk p q
  | .vabs p q _ _ _ _ => predOk p q
  | .vneg p q _ _ _ _ => predOk p q
  | .vscale p q _ _ _ _ _ => predOk p q
  | .vclip p q _ _ _ _ _ => predOk p q
  | .vexp p q _ _ _ _ => predOk p q
  | .vlog p q _ _ _ _ => predOk p q
  | .vrcp p q _ _ _ _ => predOk p q
  | .vrsqrt p q _ _ _ _ => predOk p q
  | .vtanh p q _ _ _ _ => predOk p q
  | .vsigm p q _ _ _ _ => predOk p q
  | .vsilu p q _ _ _ _ => predOk p q
  | .verf p q _ _ _ _ => predOk p q
  | .viadd p q _ _ _ _ => predOk p q
  | .visub p q _ _ _ _ => predOk p q
  | .vimul p q _ _ _ _ => predOk p q
  | .vimac p q _ _ _ _ => predOk p q
  | .vand p q _ _ _ _ => predOk p q
  | .vor p q _ _ _ _ => predOk p q
  | .vxor p q _ _ _ _ => predOk p q
  | .vshl p q _ _ _ _ => predOk p q
  | .vshr p q _ _ _ _ => predOk p q
  | .vrsh p q _ _ _ _ => predOk p q
  | .vclampi p q _ _ _ _ => predOk p q
  | .vcopy p q _ _ => predOk p q
  | .vfill p q _ _ _ _ => predOk p q
  | .vcvt p q _ _ _ _ => predOk p q
  | .vgath p q _ _ _ => predOk p q
  | .vscat p q _ _ _ => predOk p q
  | .vsel p q _ _ _ => predOk p q
  | .vsum p q _ _ _ _ => predOk p q
  | .vmaxr p q _ _ _ _ => predOk p q
  | .vminr p q _ _ _ _ => predOk p q
  | .vdot p q _ _ _ _ _ => predOk p q
  | .vcmp p q _ _ _ => predOk p q
  | .vhist p q _ _ => predOk p q
  | .vselk p q hd _ _ => predOk p q && hd.toNat < 30
  | .vmrg p q hd ha hb => predOk p q && hd.toNat < 30 && ha.toNat < 31 && hb.toNat < 31
  | .vcnt p q _ _ => predOk p q
  | .vloop p q _ _ => predOk p q
  | .vend p q => predOk p q
  | .vwait p q => predOk p q
  | .vectorGroup _ => true
  | .vectorFaultDelivery _ => true
  | .mma p q _ ra rb _ mf => predOk p q && mmaOk ra.toNat rb.toNat mf
  | .mms p q _ ra rb _ mf => predOk p q && mmsOk ra.toNat rb.toNat mf
  | .mmx p q _ ra rb _ mf => predOk p q && mmxOk ra.toNat rb.toNat mf
  | .mmg p q _ ra rb _ mf => predOk p q && mmgOk ra.toNat rb.toNat mf
  | .matrixAdmission _ => true
  | .matrixKStep _ => true
  | .accz p q _ => predOk p q
  | .accrd p q _ _ _ => predOk p q
  | .accwr p q _ _ _ => predOk p q
  | .accTransferDone _ => true
  | .ringset p q _ _ => predOk p q
  | .ringst p q _ _ => predOk p q
  | .mpget p q d _ => predOk p q && destOk d
  | .cpy p q d _ _ => predOk p q && destOk d
  | .cpyd p q d _ _ => predOk p q && destOk d
  | .cpyf p q d _ _ => predOk p q && destOk d
  | .cpyq p q d _ => predOk p q && destOk d
  | .copyCommandAccept _ => true
  | .copyCommandCompletion _ => true
  | .combiningWindowClose _ => true
  | .streamDelivery _ => true
  | .streamDeliveryTimeout _ => true
  | .overflowDeliveryReentry _ => true
  | .blockExpansion _ => true
  | .transformThreadBind _ => true
  | .commThreadBind _ => true
  | .thin p q d _ _ => predOk p q && destOk d
  | .mref p q d _ b => predOk p q && destOk d && destOk b
  | .mrel p q d _ _ => predOk p q && destOk d
  | .mver p q d _ => predOk p q && destOk d
  | .intervalBuildStart _ => true
  | .intervalPublish _ => true
  | .intervalFailure _ => true
  | .gred p q d _ _ => predOk p q && destOk d
  | .gldr p q d _ _ => predOk p q && destOk d
  | .gmc p q d _ _ => predOk p q && destOk d
  | .gsetSet p q d _ _ => predOk p q && destOk d
  | .gsetClear p q d _ _ => predOk p q && destOk d
  | .gq p q d _ => predOk p q && destOk d
  | .groupRegistration _ => true
  | .gsetTimeout _ => true
  | .reductionChunkArrival _ => true
  | .slotTimerExpiry _ _ _ => true
  | .slotNoticeArrival _ => true
  | .destinationWrite _ => true
  | .statusReturn _ => true
  | .memberCutoffTimeout _ _ _ => true
  | .commX1Element _ => true
  | .commX3Query _ => true
  | .sbind p q _ _ => predOk p q
  | .sfree p q _ => predOk p q
  | .xstat p q d _ => predOk p q && destOk d
  | .bget p q d _ => predOk p q && destOk d
  | .bpeek p q d _ => predOk p q && destOk d
  | .bskip p q _ => predOk p q
  | .bput p q _ _ => predOk p q
  | .bflush p q d => predOk p q && destOk d
  | .bhdr p q d => predOk p q && destOk d
  | .bexp p q d _ => predOk p q && destOk d
  | .bsync p q d => predOk p q && destOk d
  | .hwalk p q d _ _ => predOk p q && destOk d
  | .hins p q d _ => predOk p q && destOk d
  | .hdel p q d _ => predOk p q && destOk d
  | .tlbi p q _ _ => predOk p q
  | .hotr p q d _ _ => predOk p q && destOk d
  | .pgmv p q d _ _ => predOk p q && destOk d
  | .pageMoveSwitch _ => true
  | .bpset p q _ _ => predOk p q
  | .bpclr p q _ => predOk p q
  | .tstart p q _ => predOk p q
  | .tstop p q => predOk p q
  | .snap p q d _ => predOk p q && destOk d
  | .hardwareBreakpoint _ => true
  | .spill _ => true
  | .spillResume _ _ => true
  | .logAppend _ _ => true
  | .replayRecordDispatch _ _ => true
  | .replayWaitTimeout _ => true
  | .timeMessage _ _ _ => true
  | .masterTimeFailover => true
  | .loadData _ _ _ _ _ => true
  | .loadPageTable _ _ _ _ _ => true
  | .launchCreate _ _ _ _ _ => true
  | .launchPriority _ _ _ _ _ => true
  | .snapshot _ _ _ _ _ => true
  | .queryHealth _ _ _ _ _ => true
  | .queryDigest _ _ _ _ _ => true
  | .queryContextStates _ _ _ _ _ => true
  | .queryAttestation _ _ _ _ _ => true
  | .sealCommand _ _ _ _ _ => true
  | .unsealCommand _ _ _ _ _ => true
  | .resetContext _ _ _ _ _ => true
  | .resetPackage _ _ _ _ _ => true
  | .foreignPacketDrop _ _ => true
  | .hostset _ _ _ => true
  | .window _ _ _ _ => true
  | .stop _ _ _ _ _ => true
  | .resume _ _ _ _ => true
  | .pkread _ _ _ _ => true
  | .pkwrite _ _ _ _ _ => true
  | .fwload _ _ _ _ => true
  | .powercap _ _ _ => true
  | .powerOn _ _ => true
  | .throttle _ => true
  | .throttleRelease _ => true
  | .thermalShutdown _ => true
  | .correctedError _ _ => true
  | .uncorrectableThreadState _ => true
  | .uncorrectableCoreState _ => true
  | .coreDisable _ => true
  | .tlbEntryError _ _ => true
  | .replicaLineError _ _ => true
  | .shardBucketError _ _ _ _ => true
  | .engineFault _ => true
  | .barrierStateError _ _ => true
  | .mapEntryError _ _ => true
  | .meshLinkFault _ _ _ => true
  | .thinningUnitError _ => true
  | .logAppendFailure _ _ => true
  | .sequenceStateError _ _ => true
  | .logUnitDisabled _ _ => true
  | .channelRetirement _ _ _ _ => true
  | .spareCopyComplete _ _ => true
  | .dieSublinkFailure _ => true
  | .dieLinkLost _ => true
  | .flitCrcError _ _ => true
  | .laneFailure _ _ => true
  | .portDown _ _ => true
  | .slotUncorrectable _ _ _ => true
  | .treeEntryError _ _ => true
  | .timeAccountCycle _ => true
  | .timeStampCounterTick => true

/-- The terms that a word or a pair of words names. gset is one word for two rows (R407: bit 0 of read(B) tells set from
clear), and the decoder names it by the first. -/
def Instr.isWord : Instr → Bool
  | .add _ _ _ _ _ => true
  | .sub _ _ _ _ _ => true
  | .and _ _ _ _ _ => true
  | .or _ _ _ _ _ => true
  | .xor _ _ _ _ _ => true
  | .andn _ _ _ _ _ => true
  | .orn _ _ _ _ _ => true
  | .sll _ _ _ _ _ => true
  | .srl _ _ _ _ _ => true
  | .sra _ _ _ _ _ => true
  | .rol _ _ _ _ _ => true
  | .ror _ _ _ _ _ => true
  | .mul _ _ _ _ _ => true
  | .mulh _ _ _ _ _ => true
  | .mulhu _ _ _ _ _ => true
  | .div _ _ _ _ _ => true
  | .divu _ _ _ _ _ => true
  | .rem _ _ _ _ _ => true
  | .remu _ _ _ _ _ => true
  | .min _ _ _ _ _ => true
  | .max _ _ _ _ _ => true
  | .minu _ _ _ _ _ => true
  | .maxu _ _ _ _ _ => true
  | .clz _ _ _ _ => true
  | .ctz _ _ _ _ => true
  | .popc _ _ _ _ => true
  | .brev _ _ _ _ => true
  | .sextb _ _ _ _ => true
  | .sexth _ _ _ _ => true
  | .sextw _ _ _ _ => true
  | .zextb _ _ _ _ => true
  | .zexth _ _ _ _ => true
  | .zextw _ _ _ _ => true
  | .bfx _ _ _ _ _ => true
  | .bfi _ _ _ _ _ => true
  | .addi _ _ _ _ _ => true
  | .addiI38 _ _ _ _ _ => true
  | .andi _ _ _ _ _ => true
  | .andiI38 _ _ _ _ _ => true
  | .ori _ _ _ _ _ => true
  | .oriI38 _ _ _ _ _ => true
  | .xori _ _ _ _ _ => true
  | .xoriI38 _ _ _ _ _ => true
  | .slli _ _ _ _ _ => true
  | .srli _ _ _ _ _ => true
  | .srai _ _ _ _ _ => true
  | .li _ _ _ _ => true
  | .liI38 _ _ _ _ => true
  | .lih _ _ _ _ => true
  | .lihI38 _ _ _ _ => true
  | .eq _ _ _ _ _ _ => true
  | .ne _ _ _ _ _ _ => true
  | .lt _ _ _ _ _ _ => true
  | .ge _ _ _ _ _ _ => true
  | .ltu _ _ _ _ _ _ => true
  | .geu _ _ _ _ _ _ => true
  | .feq _ _ _ _ _ _ => true
  | .fne _ _ _ _ _ _ => true
  | .flt _ _ _ _ _ _ => true
  | .fle _ _ _ _ _ _ => true
  | .funord _ _ _ _ _ _ => true
  | .cmpeqi _ _ _ _ _ _ => true
  | .cmpeqiI38 _ _ _ _ _ _ => true
  | .cmplti _ _ _ _ _ _ => true
  | .cmpltiI38 _ _ _ _ _ _ => true
  | .cmpltui _ _ _ _ _ _ => true
  | .cmpltuiI38 _ _ _ _ _ _ => true
  | .pand _ _ _ _ _ => true
  | .por _ _ _ _ _ => true
  | .pxor _ _ _ _ _ => true
  | .pandn _ _ _ _ _ => true
  | .pget _ _ _ => true
  | .pput _ _ _ => true
  | .br _ _ _ => true
  | .jal _ _ _ => true
  | .jr _ _ _ => true
  | .jalr _ _ _ _ => true
  | .fadd _ _ _ _ _ _ => true
  | .fsub _ _ _ _ _ _ => true
  | .fmul _ _ _ _ _ _ => true
  | .fdiv _ _ _ _ _ _ => true
  | .fsqrt _ _ _ _ _ => true
  | .fmin _ _ _ _ _ => true
  | .fmax _ _ _ _ _ => true
  | .fabs _ _ _ _ => true
  | .fneg _ _ _ _ => true
  | .fmadd _ _ _ _ _ _ => true
  | .cvt _ _ _ _ _ _ _ => true
  | .rdsr _ _ _ _ => true
  | .wrsr _ _ _ _ => true
  | .wrsrVectorState _ _ _ _ => true
  | .wrsrSegbase _ _ _ => true
  | .wrsrRotmode _ _ _ => true
  | .rotmodeSwitch _ => false
  | .wrsrDonord _ _ _ => true
  | .wrsrSlottab _ _ _ => true
  | .wrsrAcct _ _ _ => true
  | .acctSnapshot _ => false
  | .wrsrLogRing _ _ _ _ => true
  | .wrsrLogcons _ _ _ => true
  | .wrsrReplay _ _ _ => true
  | .ldb _ _ _ _ _ => true
  | .ldbu _ _ _ _ _ => true
  | .ldh _ _ _ _ _ => true
  | .ldhu _ _ _ _ _ => true
  | .ldw _ _ _ _ _ => true
  | .ldwu _ _ _ _ _ => true
  | .ldd _ _ _ _ _ => true
  | .stb _ _ _ _ _ => true
  | .sth _ _ _ _ _ => true
  | .stw _ _ _ _ _ => true
  | .std _ _ _ _ _ => true
  | .ldbI38 _ _ _ _ _ => true
  | .ldbuI38 _ _ _ _ _ => true
  | .ldhI38 _ _ _ _ _ => true
  | .ldhuI38 _ _ _ _ _ => true
  | .ldwI38 _ _ _ _ _ => true
  | .ldwuI38 _ _ _ _ _ => true
  | .lddI38 _ _ _ _ _ => true
  | .stbI38 _ _ _ _ _ => true
  | .sthI38 _ _ _ _ _ => true
  | .stwI38 _ _ _ _ _ => true
  | .stdI38 _ _ _ _ _ => true
  | .ldbRlx _ _ _ _ _ => true
  | .ldbuRlx _ _ _ _ _ => true
  | .ldhRlx _ _ _ _ _ => true
  | .ldhuRlx _ _ _ _ _ => true
  | .ldwRlx _ _ _ _ _ => true
  | .ldwuRlx _ _ _ _ _ => true
  | .lddRlx _ _ _ _ _ => true
  | .stbRlx _ _ _ _ _ => true
  | .sthRlx _ _ _ _ _ => true
  | .stwRlx _ _ _ _ _ => true
  | .stdRlx _ _ _ _ _ => true
  | .relaxedAccessCompletion _ _ => false
  | .deferredRelaxedFault _ => false
  | .ldf _ _ _ _ => true
  | .ldfe _ _ _ _ => true
  | .ste _ _ _ _ => true
  | .stf _ _ _ _ => true
  | .fclr _ _ _ => true
  | .fset _ _ _ => true
  | .fstat _ _ _ _ => true
  | .syncWaitSatisfied _ _ => false
  | .aadd _ _ _ _ _ _ => true
  | .aand _ _ _ _ _ _ => true
  | .aor _ _ _ _ _ _ => true
  | .axor _ _ _ _ _ _ => true
  | .amin _ _ _ _ _ _ => true
  | .amax _ _ _ _ _ _ => true
  | .aminu _ _ _ _ _ _ => true
  | .amaxu _ _ _ _ _ _ => true
  | .aswp _ _ _ _ _ _ => true
  | .acas _ _ _ _ _ _ => true
  | .afadd _ _ _ _ _ => true
  | .bankReservationGrant _ => false
  | .proxyHostAtomic _ _ => false
  | .sealPages _ _ _ _ => true
  | .unsealPages _ _ _ _ => true
  | .sealq _ _ _ _ => true
  | .sealComplete _ => false
  | .unsealComplete _ => false
  | .fetchHoldRelease _ => false
  | .spawn _ _ _ _ _ => true
  | .join _ _ _ => true
  | .jinit _ _ _ _ => true
  | .exit _ _ => true
  | .yield _ _ _ => true
  | .yieldHoldEnd _ => false
  | .migrate _ _ _ => true
  | .send _ _ _ _ => true
  | .waitm _ _ _ => true
  | .waitc _ _ _ _ _ => true
  | .cset _ _ _ _ => true
  | .bar _ _ _ _ => true
  | .fence _ _ _ => true
  | .clusterBarrierArrival _ => false
  | .clusterBarrierRelease _ _ => false
  | .counterMessage _ => false
  | .wakeMessageArrival _ => false
  | .handlerMessageArrival _ => false
  | .migrationArrival _ => false
  | .migrationRefused _ => false
  | .slotBind _ => false
  | .stealRequest _ => false
  | .stealReply _ => false
  | .stealSearchRetry _ _ => false
  | .trap _ _ _ => true
  | .eret _ _ => true
  | .brk _ _ => true
  | .halt _ _ _ => true
  | .haltCompletion _ => false
  | .tsr _ _ _ => true
  | .rng _ _ _ => true
  | .logm _ _ _ _ => true
  | .nop _ _ => true
  | .illegalInstruction _ => false
  | .extensionAbsent _ => false
  | .extensionMigration _ => false
  | .memoryReply _ => false
  | .pageWalk _ => false
  | .pageWake _ => false
  | .vadd _ _ _ _ _ _ _ => true
  | .vsub _ _ _ _ _ _ _ => true
  | .vmul _ _ _ _ _ _ _ => true
  | .vfma _ _ _ _ _ _ _ => true
  | .vmin _ _ _ _ _ _ _ => true
  | .vmax _ _ _ _ _ _ _ => true
  | .vabs _ _ _ _ _ _ => true
  | .vneg _ _ _ _ _ _ => true
  | .vscale _ _ _ _ _ _ _ => true
  | .vclip _ _ _ _ _ _ _ => true
  | .vexp _ _ _ _ _ _ => true
  | .vlog _ _ _ _ _ _ => true
  | .vrcp _ _ _ _ _ _ => true
  | .vrsqrt _ _ _ _ _ _ => true
  | .vtanh _ _ _ _ _ _ => true
  | .vsigm _ _ _ _ _ _ => true
  | .vsilu _ _ _ _ _ _ => true
  | .verf _ _ _ _ _ _ => true
  | .viadd _ _ _ _ _ _ => true
  | .visub _ _ _ _ _ _ => true
  | .vimul _ _ _ _ _ _ => true
  | .vimac _ _ _ _ _ _ => true
  | .vand _ _ _ _ _ _ => true
  | .vor _ _ _ _ _ _ => true
  | .vxor _ _ _ _ _ _ => true
  | .vshl _ _ _ _ _ _ => true
  | .vshr _ _ _ _ _ _ => true
  | .vrsh _ _ _ _ _ _ => true
  | .vclampi _ _ _ _ _ _ => true
  | .vcopy _ _ _ _ => true
  | .vfill _ _ _ _ _ _ => true
  | .vcvt _ _ _ _ _ _ => true
  | .vgath _ _ _ _ _ => true
  | .vscat _ _ _ _ _ => true
  | .vsel _ _ _ _ _ => true
  | .vsum _ _ _ _ _ _ => true
  | .vmaxr _ _ _ _ _ _ => true
  | .vminr _ _ _ _ _ _ => true
  | .vdot _ _ _ _ _ _ _ => true
  | .vcmp _ _ _ _ _ => true
  | .vhist _ _ _ _ => true
  | .vselk _ _ _ _ _ => true
  | .vmrg _ _ _ _ _ => true
  | .vcnt _ _ _ _ => true
  | .vloop _ _ _ _ => true
  | .vend _ _ => true
  | .vwait _ _ => true
  | .vectorGroup _ => false
  | .vectorFaultDelivery _ => false
  | .mma _ _ _ _ _ _ _ => true
  | .mms _ _ _ _ _ _ _ => true
  | .mmx _ _ _ _ _ _ _ => true
  | .mmg _ _ _ _ _ _ _ => true
  | .matrixAdmission _ => false
  | .matrixKStep _ => false
  | .accz _ _ _ => true
  | .accrd _ _ _ _ _ => true
  | .accwr _ _ _ _ _ => true
  | .accTransferDone _ => false
  | .ringset _ _ _ _ => true
  | .ringst _ _ _ _ => true
  | .mpget _ _ _ _ => true
  | .cpy _ _ _ _ _ => true
  | .cpyd _ _ _ _ _ => true
  | .cpyf _ _ _ _ _ => true
  | .cpyq _ _ _ _ => true
  | .copyCommandAccept _ => false
  | .copyCommandCompletion _ => false
  | .combiningWindowClose _ => false
  | .streamDelivery _ => false
  | .streamDeliveryTimeout _ => false
  | .overflowDeliveryReentry _ => false
  | .blockExpansion _ => false
  | .transformThreadBind _ => false
  | .commThreadBind _ => false
  | .thin _ _ _ _ _ => true
  | .mref _ _ _ _ _ => true
  | .mrel _ _ _ _ _ => true
  | .mver _ _ _ _ => true
  | .intervalBuildStart _ => false
  | .intervalPublish _ => false
  | .intervalFailure _ => false
  | .gred _ _ _ _ _ => true
  | .gldr _ _ _ _ _ => true
  | .gmc _ _ _ _ _ => true
  | .gsetSet _ _ _ _ _ => true
  | .gsetClear _ _ _ _ _ => false
  | .gq _ _ _ _ => true
  | .groupRegistration _ => false
  | .gsetTimeout _ => false
  | .reductionChunkArrival _ => false
  | .slotTimerExpiry _ _ _ => false
  | .slotNoticeArrival _ => false
  | .destinationWrite _ => false
  | .statusReturn _ => false
  | .memberCutoffTimeout _ _ _ => false
  | .commX1Element _ => false
  | .commX3Query _ => false
  | .sbind _ _ _ _ => true
  | .sfree _ _ _ => true
  | .xstat _ _ _ _ => true
  | .bget _ _ _ _ => true
  | .bpeek _ _ _ _ => true
  | .bskip _ _ _ => true
  | .bput _ _ _ _ => true
  | .bflush _ _ _ => true
  | .bhdr _ _ _ => true
  | .bexp _ _ _ _ => true
  | .bsync _ _ _ => true
  | .hwalk _ _ _ _ _ => true
  | .hins _ _ _ _ => true
  | .hdel _ _ _ _ => true
  | .tlbi _ _ _ _ => true
  | .hotr _ _ _ _ _ => true
  | .pgmv _ _ _ _ _ => true
  | .pageMoveSwitch _ => false
  | .bpset _ _ _ _ => true
  | .bpclr _ _ _ => true
  | .tstart _ _ _ => true
  | .tstop _ _ => true
  | .snap _ _ _ _ => true
  | .hardwareBreakpoint _ => false
  | .spill _ => false
  | .spillResume _ _ => false
  | .logAppend _ _ => false
  | .replayRecordDispatch _ _ => false
  | .replayWaitTimeout _ => false
  | .timeMessage _ _ _ => false
  | .masterTimeFailover => false
  | .loadData _ _ _ _ _ => false
  | .loadPageTable _ _ _ _ _ => false
  | .launchCreate _ _ _ _ _ => false
  | .launchPriority _ _ _ _ _ => false
  | .snapshot _ _ _ _ _ => false
  | .queryHealth _ _ _ _ _ => false
  | .queryDigest _ _ _ _ _ => false
  | .queryContextStates _ _ _ _ _ => false
  | .queryAttestation _ _ _ _ _ => false
  | .sealCommand _ _ _ _ _ => false
  | .unsealCommand _ _ _ _ _ => false
  | .resetContext _ _ _ _ _ => false
  | .resetPackage _ _ _ _ _ => false
  | .foreignPacketDrop _ _ => false
  | .hostset _ _ _ => false
  | .window _ _ _ _ => false
  | .stop _ _ _ _ _ => false
  | .resume _ _ _ _ => false
  | .pkread _ _ _ _ => false
  | .pkwrite _ _ _ _ _ => false
  | .fwload _ _ _ _ => false
  | .powercap _ _ _ => false
  | .powerOn _ _ => false
  | .throttle _ => false
  | .throttleRelease _ => false
  | .thermalShutdown _ => false
  | .correctedError _ _ => false
  | .uncorrectableThreadState _ => false
  | .uncorrectableCoreState _ => false
  | .coreDisable _ => false
  | .tlbEntryError _ _ => false
  | .replicaLineError _ _ => false
  | .shardBucketError _ _ _ _ => false
  | .engineFault _ => false
  | .barrierStateError _ _ => false
  | .mapEntryError _ _ => false
  | .meshLinkFault _ _ _ => false
  | .thinningUnitError _ => false
  | .logAppendFailure _ _ => false
  | .sequenceStateError _ _ => false
  | .logUnitDisabled _ _ => false
  | .channelRetirement _ _ _ _ => false
  | .spareCopyComplete _ _ => false
  | .dieSublinkFailure _ => false
  | .dieLinkLost _ => false
  | .flitCrcError _ _ => false
  | .laneFailure _ _ => false
  | .portDown _ _ => false
  | .slotUncorrectable _ _ _ => false
  | .treeEntryError _ _ => false
  | .timeAccountCycle _ => false
  | .timeStampCounterTick => false

/-- A term the decoder can give. -/
def Instr.WellFormed (i : Instr) : Prop := i.isWord = true ∧ i.wf = true

end Sys2Proof
end

