-- ==== Sys2Proof/Decode.lean ====
section
/-! DEFINITION. The decoder (R52 to R68, R70 steps 2 to 6) and the encoder. A word is read as a natural number, its fields
by division and remainder (R22: bit 0 is the least significant bit). The section is noncomputable because Lean's runtime
has no representation for a constructor of Instr beyond the 245th that carries fields (log 2); the kernel evaluates every
definition here. -/

noncomputable section

namespace Sys2Proof

/-- Why bytes are not an instruction. Each carries the offending word (R72). -/
inductive Reject where
  /-- Fewer than four bytes, or fewer than eight after a word of major 63. -/
  | short
  /-- Majors 0, 47, 53, 61 and 62 (R70 step 2). -/
  | reservedMajor (w : Word32)
  /-- A word of major 63 whose kind, PAYLOAD or successor is not legal (R65, R70 step 3). -/
  | badPair (w : Word32)
  /-- PS = 0 with PN = 1 (R53, R70 step 4). -/
  | negatedP0 (w : Word32)
  /-- Majors 37 to 39 (R70 step 5, R73): cause 0x12. -/
  | absentExtension (w : Word32)
  /-- An unassigned function, an illegal sub-field or a non-zero unused field (R63, R70 step 6). -/
  | badField (w : Word32)
deriving DecidableEq, Repr

/-- Bits [31:26] (R53). -/
def fMajor (w : Nat) : Nat := w / 2 ^ 26 % 64
/-- PS, bits [25:23]. -/
def fP (w : Nat) : BitVec 3 := BitVec.ofNat 3 (w / 2 ^ 23)
/-- PN, bit [22]. -/
def fQ (w : Nat) : BitVec 1 := BitVec.ofNat 1 (w / 2 ^ 22)
/-- D, bits [21:18]. -/
def fD (w : Nat) : BitVec 4 := BitVec.ofNat 4 (w / 2 ^ 18)
/-- A, bits [17:14]. -/
def fA (w : Nat) : BitVec 4 := BitVec.ofNat 4 (w / 2 ^ 14)
/-- B, bits [13:10]. -/
def fB (w : Nat) : BitVec 4 := BitVec.ofNat 4 (w / 2 ^ 10)
/-- FN, bits [9:0]. -/
def fFn (w : Nat) : Nat := w % 2 ^ 10
/-- IMM14 or SYS14, bits [13:0]. -/
def fImm14 (w : Nat) : BitVec 14 := BitVec.ofNat 14 w
/-- PD, bits [21:19] (R56). -/
def fPd (w : Nat) : BitVec 3 := BitVec.ofNat 3 (w / 2 ^ 19)
/-- AND, bit [18] (R56). -/
def fAnd (w : Nat) : BitVec 1 := BitVec.ofNat 1 (w / 2 ^ 18)
/-- The rounding or width sub-field, bits [9:8] (R68). -/
def fRm (w : Nat) : BitVec 2 := BitVec.ofNat 2 (w / 2 ^ 8)
/-- SAT, bit [4] (R61). -/
def fSat (w : Nat) : BitVec 1 := BitVec.ofNat 1 (w / 2 ^ 4)
/-- HD, bits [21:17]. -/
def fHd (w : Nat) : BitVec 5 := BitVec.ofNat 5 (w / 2 ^ 17)
/-- HA, bits [16:12]. -/
def fHa (w : Nat) : BitVec 5 := BitVec.ofNat 5 (w / 2 ^ 12)
/-- HB, bits [11:7]. -/
def fHb (w : Nat) : BitVec 5 := BitVec.ofNat 5 (w / 2 ^ 7)
/-- ACC, bits [21:19] (R62). -/
def fAcc (w : Nat) : BitVec 3 := BitVec.ofNat 3 (w / 2 ^ 19)

/-- INT-R (R97). -/
def parseInt (w : Nat) : Option Instr :=
  match fFn w with
  | 0 => some (.add (fP w) (fQ w) (fD w) (fA w) (fB w))
  | 1 => some (.sub (fP w) (fQ w) (fD w) (fA w) (fB w))
  | 2 => some (.and (fP w) (fQ w) (fD w) (fA w) (fB w))
  | 3 => some (.or (fP w) (fQ w) (fD w) (fA w) (fB w))
  | 4 => some (.xor (fP w) (fQ w) (fD w) (fA w) (fB w))
  | 5 => some (.andn (fP w) (fQ w) (fD w) (fA w) (fB w))
  | 6 => some (.orn (fP w) (fQ w) (fD w) (fA w) (fB w))
  | 7 => some (.sll (fP w) (fQ w) (fD w) (fA w) (fB w))
  | 8 => some (.srl (fP w) (fQ w) (fD w) (fA w) (fB w))
  | 9 => some (.sra (fP w) (fQ w) (fD w) (fA w) (fB w))
  | 10 => some (.rol (fP w) (fQ w) (fD w) (fA w) (fB w))
  | 11 => some (.ror (fP w) (fQ w) (fD w) (fA w) (fB w))
  | 12 => some (.mul (fP w) (fQ w) (fD w) (fA w) (fB w))
  | 13 => some (.mulh (fP w) (fQ w) (fD w) (fA w) (fB w))
  | 14 => some (.mulhu (fP w) (fQ w) (fD w) (fA w) (fB w))
  | 15 => some (.div (fP w) (fQ w) (fD w) (fA w) (fB w))
  | 16 => some (.divu (fP w) (fQ w) (fD w) (fA w) (fB w))
  | 17 => some (.rem (fP w) (fQ w) (fD w) (fA w) (fB w))
  | 18 => some (.remu (fP w) (fQ w) (fD w) (fA w) (fB w))
  | 19 => some (.min (fP w) (fQ w) (fD w) (fA w) (fB w))
  | 20 => some (.max (fP w) (fQ w) (fD w) (fA w) (fB w))
  | 21 => some (.minu (fP w) (fQ w) (fD w) (fA w) (fB w))
  | 22 => some (.maxu (fP w) (fQ w) (fD w) (fA w) (fB w))
  | 23 => some (.clz (fP w) (fQ w) (fD w) (fA w))
  | 24 => some (.ctz (fP w) (fQ w) (fD w) (fA w))
  | 25 => some (.popc (fP w) (fQ w) (fD w) (fA w))
  | 26 => some (.brev (fP w) (fQ w) (fD w) (fA w))
  | 27 => some (.sextb (fP w) (fQ w) (fD w) (fA w))
  | 28 => some (.sexth (fP w) (fQ w) (fD w) (fA w))
  | 29 => some (.sextw (fP w) (fQ w) (fD w) (fA w))
  | 30 => some (.zextb (fP w) (fQ w) (fD w) (fA w))
  | 31 => some (.zexth (fP w) (fQ w) (fD w) (fA w))
  | 32 => some (.zextw (fP w) (fQ w) (fD w) (fA w))
  | 33 => some (.bfx (fP w) (fQ w) (fD w) (fA w) (fB w))
  | 34 => some (.bfi (fP w) (fQ w) (fD w) (fA w) (fB w))
  | _ => none

/-- CMP-R (R106). -/
def parseCmp (w : Nat) : Option Instr :=
  match fFn w with
  | 0 => some (.eq (fP w) (fQ w) (fPd w) (fAnd w) (fA w) (fB w))
  | 1 => some (.ne (fP w) (fQ w) (fPd w) (fAnd w) (fA w) (fB w))
  | 2 => some (.lt (fP w) (fQ w) (fPd w) (fAnd w) (fA w) (fB w))
  | 3 => some (.ge (fP w) (fQ w) (fPd w) (fAnd w) (fA w) (fB w))
  | 4 => some (.ltu (fP w) (fQ w) (fPd w) (fAnd w) (fA w) (fB w))
  | 5 => some (.geu (fP w) (fQ w) (fPd w) (fAnd w) (fA w) (fB w))
  | 6 => some (.feq (fP w) (fQ w) (fPd w) (fAnd w) (fA w) (fB w))
  | 7 => some (.fne (fP w) (fQ w) (fPd w) (fAnd w) (fA w) (fB w))
  | 8 => some (.flt (fP w) (fQ w) (fPd w) (fAnd w) (fA w) (fB w))
  | 9 => some (.fle (fP w) (fQ w) (fPd w) (fAnd w) (fA w) (fB w))
  | 10 => some (.funord (fP w) (fQ w) (fPd w) (fAnd w) (fA w) (fB w))
  | _ => none

/-- PRED-R (R108). -/
def parsePred (w : Nat) : Option Instr :=
  match fFn w with
  | 0 => some (.pand (fP w) (fQ w) (BitVec.ofNat 3 (w / 2 ^ 18)) (BitVec.ofNat 3 (w / 2 ^ 14)) (BitVec.ofNat 3 (w / 2 ^ 10)))
  | 1 => some (.por (fP w) (fQ w) (BitVec.ofNat 3 (w / 2 ^ 18)) (BitVec.ofNat 3 (w / 2 ^ 14)) (BitVec.ofNat 3 (w / 2 ^ 10)))
  | 2 => some (.pxor (fP w) (fQ w) (BitVec.ofNat 3 (w / 2 ^ 18)) (BitVec.ofNat 3 (w / 2 ^ 14)) (BitVec.ofNat 3 (w / 2 ^ 10)))
  | 3 => some (.pandn (fP w) (fQ w) (BitVec.ofNat 3 (w / 2 ^ 18)) (BitVec.ofNat 3 (w / 2 ^ 14)) (BitVec.ofNat 3 (w / 2 ^ 10)))
  | 4 => some (.pget (fP w) (fQ w) (fD w))
  | 5 => some (.pput (fP w) (fQ w) (fA w))
  | _ => none

/-- FP-R (R112); the function value is FN [7:0] (R68). -/
def parseFp (w : Nat) : Option Instr :=
  match w % 2 ^ 8 with
  | 0 => some (.fadd (fP w) (fQ w) (fD w) (fA w) (fB w) (fRm w))
  | 1 => some (.fsub (fP w) (fQ w) (fD w) (fA w) (fB w) (fRm w))
  | 2 => some (.fmul (fP w) (fQ w) (fD w) (fA w) (fB w) (fRm w))
  | 3 => some (.fdiv (fP w) (fQ w) (fD w) (fA w) (fB w) (fRm w))
  | 4 => some (.fsqrt (fP w) (fQ w) (fD w) (fA w) (fRm w))
  | 5 => some (.fmin (fP w) (fQ w) (fD w) (fA w) (fB w))
  | 6 => some (.fmax (fP w) (fQ w) (fD w) (fA w) (fB w))
  | 7 => some (.fabs (fP w) (fQ w) (fD w) (fA w))
  | 8 => some (.fneg (fP w) (fQ w) (fD w) (fA w))
  | 9 => some (.fmadd (fP w) (fQ w) (fD w) (fA w) (fB w) (fRm w))
  | _ => none

/-- SYNC-R (R147). -/
def parseSync (w : Nat) : Option Instr :=
  match fFn w with
  | 0 => some (.ldf (fP w) (fQ w) (fD w) (fA w))
  | 1 => some (.ldfe (fP w) (fQ w) (fD w) (fA w))
  | 2 => some (.ste (fP w) (fQ w) (fD w) (fA w))
  | 3 => some (.stf (fP w) (fQ w) (fD w) (fA w))
  | 4 => some (.fclr (fP w) (fQ w) (fA w))
  | 5 => some (.fset (fP w) (fQ w) (fA w))
  | 6 => some (.fstat (fP w) (fQ w) (fD w) (fA w))
  | _ => none

/-- ATOM-R (R151). -/
def parseAtom (w : Nat) : Option Instr :=
  match w % 2 ^ 8 with
  | 0 => some (.aadd (fP w) (fQ w) (fD w) (fA w) (fB w) (fRm w))
  | 1 => some (.aand (fP w) (fQ w) (fD w) (fA w) (fB w) (fRm w))
  | 2 => some (.aor (fP w) (fQ w) (fD w) (fA w) (fB w) (fRm w))
  | 3 => some (.axor (fP w) (fQ w) (fD w) (fA w) (fB w) (fRm w))
  | 4 => some (.amin (fP w) (fQ w) (fD w) (fA w) (fB w) (fRm w))
  | 5 => some (.amax (fP w) (fQ w) (fD w) (fA w) (fB w) (fRm w))
  | 6 => some (.aminu (fP w) (fQ w) (fD w) (fA w) (fB w) (fRm w))
  | 7 => some (.amaxu (fP w) (fQ w) (fD w) (fA w) (fB w) (fRm w))
  | 8 => some (.aswp (fP w) (fQ w) (fD w) (fA w) (fB w) (fRm w))
  | 9 => some (.acas (fP w) (fQ w) (fD w) (fA w) (fB w) (fRm w))
  | 10 => some (.afadd (fP w) (fQ w) (fD w) (fA w) (fB w))
  | _ => none

/-- SEAL-R (R156). -/
def parseSeal (w : Nat) : Option Instr :=
  match fFn w with
  | 0 => some (.sealPages (fP w) (fQ w) (fA w) (fB w))
  | 1 => some (.unsealPages (fP w) (fQ w) (fA w) (fB w))
  | 2 => some (.sealq (fP w) (fQ w) (fD w) (fA w))
  | _ => none

/-- WORK-R (R165). -/
def parseWork (w : Nat) : Option Instr :=
  match fFn w with
  | 0 => some (.spawn (fP w) (fQ w) (fD w) (fA w) (fB w))
  | 1 => some (.join (fP w) (fQ w) (fA w))
  | 2 => some (.jinit (fP w) (fQ w) (fA w) (fB w))
  | 3 => some (.exit (fP w) (fQ w))
  | 4 => some (.yield (fP w) (fQ w) (fA w))
  | 5 => some (.migrate (fP w) (fQ w) (fA w))
  | 6 => some (.send (fP w) (fQ w) (fA w) (fB w))
  | 7 => some (.waitm (fP w) (fQ w) (fD w))
  | 8 => some (.waitc (fP w) (fQ w) (fD w) (fA w) (fB w))
  | 9 => some (.cset (fP w) (fQ w) (fA w) (fB w))
  | 10 => some (.bar (fP w) (fQ w) (fA w) (fB w))
  | 11 => some (.fence (fP w) (fQ w) (fB w))
  | _ => none

/-- SYS-R (R118). -/
def parseSys (w : Nat) : Option Instr :=
  match fFn w with
  | 0 => some (.trap (fP w) (fQ w) (fA w))
  | 1 => some (.eret (fP w) (fQ w))
  | 2 => some (.brk (fP w) (fQ w))
  | 3 => some (.halt (fP w) (fQ w) (fA w))
  | 4 => some (.tsr (fP w) (fQ w) (fD w))
  | 5 => some (.rng (fP w) (fQ w) (fD w))
  | 6 => some (.logm (fP w) (fQ w) (fA w) (fB w))
  | 7 => some (.nop (fP w) (fQ w))
  | _ => none

/-- wrsr (R116), told apart by the register it names. -/
def parseWrsr (w : Nat) : Option Instr :=
  match w % 2 ^ 14 with
  | 4 => some (.wrsrVectorState (fP w) (fQ w) (fA w) (fImm14 w))
  | 5 => some (.wrsrVectorState (fP w) (fQ w) (fA w) (fImm14 w))
  | 6 => some (.wrsrVectorState (fP w) (fQ w) (fA w) (fImm14 w))
  | 0x40 => some (.wrsrRotmode (fP w) (fQ w) (fA w))
  | 0x41 => some (.wrsrSlottab (fP w) (fQ w) (fA w))
  | 0x42 => some (.wrsrDonord (fP w) (fQ w) (fA w))
  | 0x45 => some (.wrsrAcct (fP w) (fQ w) (fA w))
  | 0x80 => some (.wrsrSegbase (fP w) (fQ w) (fA w))
  | 0x82 => some (.wrsrLogRing (fP w) (fQ w) (fA w) (fImm14 w))
  | 0x83 => some (.wrsrLogRing (fP w) (fQ w) (fA w) (fImm14 w))
  | 0x85 => some (.wrsrLogcons (fP w) (fQ w) (fA w))
  | 0x86 => some (.wrsrReplay (fP w) (fQ w) (fA w))
  | _ => some (.wrsr (fP w) (fQ w) (fA w) (fImm14 w))

/-- VFP (R241). -/
def parseVfp (w : Nat) : Option Instr :=
  match w % 2 ^ 4 with
  | 0 => some (.vadd (fP w) (fQ w) (fHd w) (fHa w) (fHb w) (BitVec.ofNat 2 (w / 2 ^ 5)) (fSat w))
  | 1 => some (.vsub (fP w) (fQ w) (fHd w) (fHa w) (fHb w) (BitVec.ofNat 2 (w / 2 ^ 5)) (fSat w))
  | 2 => some (.vmul (fP w) (fQ w) (fHd w) (fHa w) (fHb w) (BitVec.ofNat 2 (w / 2 ^ 5)) (fSat w))
  | 3 => some (.vfma (fP w) (fQ w) (fHd w) (fHa w) (fHb w) (BitVec.ofNat 2 (w / 2 ^ 5)) (fSat w))
  | 4 => some (.vmin (fP w) (fQ w) (fHd w) (fHa w) (fHb w) (BitVec.ofNat 2 (w / 2 ^ 5)) (fSat w))
  | 5 => some (.vmax (fP w) (fQ w) (fHd w) (fHa w) (fHb w) (BitVec.ofNat 2 (w / 2 ^ 5)) (fSat w))
  | 6 => some (.vabs (fP w) (fQ w) (fHd w) (fHa w) (BitVec.ofNat 2 (w / 2 ^ 5)) (fSat w))
  | 7 => some (.vneg (fP w) (fQ w) (fHd w) (fHa w) (BitVec.ofNat 2 (w / 2 ^ 5)) (fSat w))
  | 8 => some (.vscale (fP w) (fQ w) (fHd w) (fHa w) (fHb w) (BitVec.ofNat 2 (w / 2 ^ 5)) (fSat w))
  | 9 => some (.vclip (fP w) (fQ w) (fHd w) (fHa w) (fHb w) (BitVec.ofNat 2 (w / 2 ^ 5)) (fSat w))
  | _ => none

/-- VSFU (R243). -/
def parseVsfu (w : Nat) : Option Instr :=
  match w % 2 ^ 4 with
  | 0 => some (.vexp (fP w) (fQ w) (fHd w) (fHa w) (BitVec.ofNat 2 (w / 2 ^ 5)) (fSat w))
  | 1 => some (.vlog (fP w) (fQ w) (fHd w) (fHa w) (BitVec.ofNat 2 (w / 2 ^ 5)) (fSat w))
  | 2 => some (.vrcp (fP w) (fQ w) (fHd w) (fHa w) (BitVec.ofNat 2 (w / 2 ^ 5)) (fSat w))
  | 3 => some (.vrsqrt (fP w) (fQ w) (fHd w) (fHa w) (BitVec.ofNat 2 (w / 2 ^ 5)) (fSat w))
  | 4 => some (.vtanh (fP w) (fQ w) (fHd w) (fHa w) (BitVec.ofNat 2 (w / 2 ^ 5)) (fSat w))
  | 5 => some (.vsigm (fP w) (fQ w) (fHd w) (fHa w) (BitVec.ofNat 2 (w / 2 ^ 5)) (fSat w))
  | 6 => some (.vsilu (fP w) (fQ w) (fHd w) (fHa w) (BitVec.ofNat 2 (w / 2 ^ 5)) (fSat w))
  | 7 => some (.verf (fP w) (fQ w) (fHd w) (fHa w) (BitVec.ofNat 2 (w / 2 ^ 5)) (fSat w))
  | _ => none

/-- VINT (R244). -/
def parseVint (w : Nat) : Option Instr :=
  match w % 2 ^ 4 with
  | 0 => some (.viadd (fP w) (fQ w) (fHd w) (fHa w) (fHb w) (fSat w))
  | 1 => some (.visub (fP w) (fQ w) (fHd w) (fHa w) (fHb w) (fSat w))
  | 2 => some (.vimul (fP w) (fQ w) (fHd w) (fHa w) (fHb w) (fSat w))
  | 3 => some (.vimac (fP w) (fQ w) (fHd w) (fHa w) (fHb w) (fSat w))
  | 4 => some (.vand (fP w) (fQ w) (fHd w) (fHa w) (fHb w) (fSat w))
  | 5 => some (.vor (fP w) (fQ w) (fHd w) (fHa w) (fHb w) (fSat w))
  | 6 => some (.vxor (fP w) (fQ w) (fHd w) (fHa w) (fHb w) (fSat w))
  | 7 => some (.vshl (fP w) (fQ w) (fHd w) (fHa w) (fHb w) (fSat w))
  | 8 => some (.vshr (fP w) (fQ w) (fHd w) (fHa w) (fHb w) (fSat w))
  | 9 => some (.vrsh (fP w) (fQ w) (fHd w) (fHa w) (fHb w) (fSat w))
  | 10 => some (.vclampi (fP w) (fQ w) (fHd w) (fHa w) (fHb w) (fSat w))
  | _ => none

/-- VMOV (R245). -/
def parseVmov (w : Nat) : Option Instr :=
  match w % 2 ^ 4 with
  | 0 => some (.vcopy (fP w) (fQ w) (fHd w) (fHa w))
  | 1 => some (.vfill (fP w) (fQ w) (fHd w) (fHa w) (BitVec.ofNat 2 (w / 2 ^ 5)) (fSat w))
  | 2 => some (.vcvt (fP w) (fQ w) (fHd w) (fHa w) (BitVec.ofNat 2 (w / 2 ^ 5)) (fSat w))
  | 3 => some (.vgath (fP w) (fQ w) (fHd w) (fHa w) (fHb w))
  | 4 => some (.vscat (fP w) (fQ w) (fHd w) (fHa w) (fHb w))
  | 5 => some (.vsel (fP w) (fQ w) (fHd w) (fHa w) (fHb w))
  | _ => none

/-- VRED (R246). -/
def parseVred (w : Nat) : Option Instr :=
  match w % 2 ^ 4 with
  | 0 => some (.vsum (fP w) (fQ w) (fHd w) (fHa w) (BitVec.ofNat 2 (w / 2 ^ 5)) (fSat w))
  | 1 => some (.vmaxr (fP w) (fQ w) (fHd w) (fHa w) (BitVec.ofNat 2 (w / 2 ^ 5)) (fSat w))
  | 2 => some (.vminr (fP w) (fQ w) (fHd w) (fHa w) (BitVec.ofNat 2 (w / 2 ^ 5)) (fSat w))
  | 3 => some (.vdot (fP w) (fQ w) (fHd w) (fHa w) (fHb w) (BitVec.ofNat 2 (w / 2 ^ 5)) (fSat w))
  | _ => none

/-- VSEL (R248 to R252). -/
def parseVsel (w : Nat) : Option Instr :=
  match w % 2 ^ 4 with
  | 0 => some (.vcmp (fP w) (fQ w) (fHd w) (fHa w) (fHb w))
  | 1 => some (.vhist (fP w) (fQ w) (fHd w) (fHa w))
  | 2 => some (.vselk (fP w) (fQ w) (fHd w) (fHa w) (fHb w))
  | 3 => some (.vmrg (fP w) (fQ w) (fHd w) (fHa w) (fHb w))
  | 4 => some (.vcnt (fP w) (fQ w) (fHd w) (fHa w))
  | _ => none

/-- VSEQ (R237). -/
def parseVseq (w : Nat) : Option Instr :=
  match w % 2 ^ 4 with
  | 0 => some (.vloop (fP w) (fQ w) (fHd w) (fHa w))
  | 1 => some (.vend (fP w) (fQ w))
  | 2 => some (.vwait (fP w) (fQ w))
  | _ => none

/-- ACC-R (R258). -/
def parseAcc (w : Nat) : Option Instr :=
  match fFn w with
  | 0 => some (.accz (fP w) (fQ w) (BitVec.ofNat 3 (w / 2 ^ 18)))
  | 1 => some (.accrd (fP w) (fQ w) (BitVec.ofNat 3 (w / 2 ^ 18)) (fA w) (fB w))
  | 2 => some (.accwr (fP w) (fQ w) (BitVec.ofNat 3 (w / 2 ^ 18)) (fA w) (fB w))
  | 3 => some (.ringset (fP w) (fQ w) (BitVec.ofNat 3 (w / 2 ^ 18)) (fA w))
  | 4 => some (.ringst (fP w) (fQ w) (BitVec.ofNat 3 (w / 2 ^ 18)) (fB w))
  | 5 => some (.mpget (fP w) (fQ w) (fD w) (BitVec.ofNat 3 (w / 2 ^ 14)))
  | _ => none

/-- CPY-E (R303). -/
def parseCpy (w : Nat) : Option Instr :=
  match fFn w with
  | 0 => some (.cpy (fP w) (fQ w) (fD w) (fA w) (fB w))
  | 1 => some (.cpyd (fP w) (fQ w) (fD w) (fA w) (fB w))
  | 2 => some (.cpyf (fP w) (fQ w) (fD w) (fA w) (fB w))
  | 3 => some (.cpyq (fP w) (fQ w) (fD w) (fA w))
  | _ => none

/-- THIN-E (R336). -/
def parseThin (w : Nat) : Option Instr :=
  match fFn w with
  | 0 => some (.thin (fP w) (fQ w) (fD w) (fA w) (fB w))
  | 1 => some (.mref (fP w) (fQ w) (fD w) (fA w) (fB w))
  | 2 => some (.mrel (fP w) (fQ w) (fD w) (fA w) (fB w))
  | 3 => some (.mver (fP w) (fQ w) (fD w) (fA w))
  | _ => none

/-- FAB-E (R406). -/
def parseFab (w : Nat) : Option Instr :=
  match fFn w with
  | 0 => some (.gred (fP w) (fQ w) (fD w) (fA w) (fB w))
  | 1 => some (.gldr (fP w) (fQ w) (fD w) (fA w) (fB w))
  | 2 => some (.gmc (fP w) (fQ w) (fD w) (fA w) (fB w))
  | 3 => some (.gsetSet (fP w) (fQ w) (fD w) (fA w) (fB w))
  | 4 => some (.gq (fP w) (fQ w) (fD w) (fA w))
  | _ => none

/-- PORT-R (R210). -/
def parsePort (w : Nat) : Option Instr :=
  match fFn w with
  | 0 => some (.sbind (fP w) (fQ w) (BitVec.ofNat 2 (w / 2 ^ 18)) (fA w))
  | 1 => some (.sfree (fP w) (fQ w) (BitVec.ofNat 2 (w / 2 ^ 18)))
  | 2 => some (.xstat (fP w) (fQ w) (fD w) (BitVec.ofNat 2 (w / 2 ^ 14)))
  | _ => none

/-- BITS-R (R218). -/
def parseBits (w : Nat) : Option Instr :=
  match fFn w with
  | 0 => some (.bget (fP w) (fQ w) (fD w) (fA w))
  | 1 => some (.bpeek (fP w) (fQ w) (fD w) (fA w))
  | 2 => some (.bskip (fP w) (fQ w) (fA w))
  | 3 => some (.bput (fP w) (fQ w) (fA w) (fB w))
  | 4 => some (.bflush (fP w) (fQ w) (fD w))
  | 5 => some (.bhdr (fP w) (fQ w) (fD w))
  | 6 => some (.bexp (fP w) (fQ w) (fD w) (fA w))
  | 7 => some (.bsync (fP w) (fQ w) (fD w))
  | _ => none

/-- SVC-R (R295). -/
def parseSvc (w : Nat) : Option Instr :=
  match fFn w with
  | 0 => some (.hwalk (fP w) (fQ w) (fD w) (fA w) (fB w))
  | 1 => some (.hins (fP w) (fQ w) (fD w) (fA w))
  | 2 => some (.hdel (fP w) (fQ w) (fD w) (fA w))
  | 3 => some (.tlbi (fP w) (fQ w) (fA w) (fB w))
  | 4 => some (.hotr (fP w) (fQ w) (fD w) (fA w) (fB w))
  | 5 => some (.pgmv (fP w) (fQ w) (fD w) (fA w) (fB w))
  | _ => none

/-- DBG-R (R375). -/
def parseDbg (w : Nat) : Option Instr :=
  match fFn w with
  | 0 => some (.bpset (fP w) (fQ w) (fA w) (fB w))
  | 1 => some (.bpclr (fP w) (fQ w) (fA w))
  | 2 => some (.tstart (fP w) (fQ w) (fA w))
  | 3 => some (.tstop (fP w) (fQ w))
  | 4 => some (.snap (fP w) (fQ w) (fD w) (fA w))
  | _ => none

/-- shi (R58, R102). -/
def parseShi (w : Nat) : Option Instr :=
  match w / 2 ^ 12 % 4 with
  | 0 => some (.slli (fP w) (fQ w) (fD w) (fA w) (BitVec.ofNat 6 w))
  | 1 => some (.srli (fP w) (fQ w) (fD w) (fA w) (BitVec.ofNat 6 w))
  | 2 => some (.srai (fP w) (fQ w) (fD w) (fA w) (BitVec.ofNat 6 w))
  | _ => none

/-- jr and jalr (R110). -/
def parseJump (w : Nat) : Option Instr :=
  match fFn w with
  | 0 => some (.jr (fP w) (fQ w) (fA w))
  | 1 => some (.jalr (fP w) (fQ w) (fD w) (fA w))
  | _ => none

/-- One word without a preceding word of R64: the fields by major (R67). Nothing is checked yet. -/
def parseWord (w : Nat) : Option Instr :=
  match fMajor w with
  | 1 => parseInt w
  | 2 => some (.addi (fP w) (fQ w) (fD w) (fA w) (fImm14 w))
  | 3 => some (.andi (fP w) (fQ w) (fD w) (fA w) (fImm14 w))
  | 4 => some (.ori (fP w) (fQ w) (fD w) (fA w) (fImm14 w))
  | 5 => some (.xori (fP w) (fQ w) (fD w) (fA w) (fImm14 w))
  | 6 => parseShi w
  | 7 => some (.li (fP w) (fQ w) (fD w) (fImm14 w))
  | 8 => some (.lih (fP w) (fQ w) (fD w) (fImm14 w))
  | 9 => parseCmp w
  | 10 => some (.cmpeqi (fP w) (fQ w) (fPd w) (fAnd w) (fA w) (fImm14 w))
  | 11 => some (.cmplti (fP w) (fQ w) (fPd w) (fAnd w) (fA w) (fImm14 w))
  | 12 => some (.cmpltui (fP w) (fQ w) (fPd w) (fAnd w) (fA w) (fImm14 w))
  | 13 => parsePred w
  | 14 => some (.br (fP w) (fQ w) (BitVec.ofNat 22 w))
  | 15 => some (.jal (fP w) (fQ w) (BitVec.ofNat 22 w))
  | 16 => parseJump w
  | 17 => parseFp w
  | 18 => some (.cvt (fP w) (fQ w) (fD w) (fA w) (fRm w) (BitVec.ofNat 4 (w / 2 ^ 4)) (BitVec.ofNat 4 w))
  | 19 => some (.rdsr (fP w) (fQ w) (fD w) (fImm14 w))
  | 20 => some (.ldb (fP w) (fQ w) (fD w) (fA w) (fImm14 w))
  | 21 => some (.ldbu (fP w) (fQ w) (fD w) (fA w) (fImm14 w))
  | 22 => some (.ldh (fP w) (fQ w) (fD w) (fA w) (fImm14 w))
  | 23 => some (.ldhu (fP w) (fQ w) (fD w) (fA w) (fImm14 w))
  | 24 => some (.ldw (fP w) (fQ w) (fD w) (fA w) (fImm14 w))
  | 25 => some (.ldwu (fP w) (fQ w) (fD w) (fA w) (fImm14 w))
  | 26 => some (.ldd (fP w) (fQ w) (fD w) (fA w) (fImm14 w))
  | 27 => some (.stb (fP w) (fQ w) (fD w) (fA w) (fImm14 w))
  | 28 => some (.sth (fP w) (fQ w) (fD w) (fA w) (fImm14 w))
  | 29 => some (.stw (fP w) (fQ w) (fD w) (fA w) (fImm14 w))
  | 30 => some (.std (fP w) (fQ w) (fD w) (fA w) (fImm14 w))
  | 31 => parseSync w
  | 32 => parseAtom w
  | 33 => parseSeal w
  | 34 => parseWork w
  | 35 => parseSys w
  | 36 => parseWrsr w
  | 40 => parseVfp w
  | 41 => parseVsfu w
  | 42 => parseVint w
  | 43 => parseVmov w
  | 44 => parseVred w
  | 45 => parseVsel w
  | 46 => parseVseq w
  | 48 => some (.mma (fP w) (fQ w) (fAcc w) (BitVec.ofNat 3 (w / 2 ^ 16)) (BitVec.ofNat 3 (w / 2 ^ 13)) (BitVec.ofNat 4 (w / 2 ^ 9)) (BitVec.ofNat 9 w))
  | 49 => some (.mms (fP w) (fQ w) (fAcc w) (BitVec.ofNat 3 (w / 2 ^ 16)) (BitVec.ofNat 3 (w / 2 ^ 13)) (BitVec.ofNat 4 (w / 2 ^ 9)) (BitVec.ofNat 9 w))
  | 50 => some (.mmx (fP w) (fQ w) (fAcc w) (BitVec.ofNat 3 (w / 2 ^ 16)) (BitVec.ofNat 3 (w / 2 ^ 13)) (BitVec.ofNat 4 (w / 2 ^ 9)) (BitVec.ofNat 9 w))
  | 51 => some (.mmg (fP w) (fQ w) (fAcc w) (BitVec.ofNat 3 (w / 2 ^ 16)) (BitVec.ofNat 3 (w / 2 ^ 13)) (BitVec.ofNat 4 (w / 2 ^ 9)) (BitVec.ofNat 9 w))
  | 52 => parseAcc w
  | 54 => parseCpy w
  | 55 => parseThin w
  | 56 => parseFab w
  | 57 => parsePort w
  | 58 => parseBits w
  | 59 => parseSvc w
  | 60 => parseDbg w
  | _ => none

/-- A word whose immediate is widened to 38 bits by PAYLOAD (R57, R64, R65). -/
def parseWide (pay w : Nat) : Option Instr :=
  match fMajor w with
  | 2 => some (.addiI38 (fP w) (fQ w) (fD w) (fA w) (BitVec.ofNat 38 (pay * 2 ^ 14 + w % 2 ^ 14)))
  | 3 => some (.andiI38 (fP w) (fQ w) (fD w) (fA w) (BitVec.ofNat 38 (pay * 2 ^ 14 + w % 2 ^ 14)))
  | 4 => some (.oriI38 (fP w) (fQ w) (fD w) (fA w) (BitVec.ofNat 38 (pay * 2 ^ 14 + w % 2 ^ 14)))
  | 5 => some (.xoriI38 (fP w) (fQ w) (fD w) (fA w) (BitVec.ofNat 38 (pay * 2 ^ 14 + w % 2 ^ 14)))
  | 7 => some (.liI38 (fP w) (fQ w) (fD w) (BitVec.ofNat 38 (pay * 2 ^ 14 + w % 2 ^ 14)))
  | 8 => some (.lihI38 (fP w) (fQ w) (fD w) (BitVec.ofNat 38 (pay * 2 ^ 14 + w % 2 ^ 14)))
  | 10 => some (.cmpeqiI38 (fP w) (fQ w) (fPd w) (fAnd w) (fA w) (BitVec.ofNat 38 (pay * 2 ^ 14 + w % 2 ^ 14)))
  | 11 => some (.cmpltiI38 (fP w) (fQ w) (fPd w) (fAnd w) (fA w) (BitVec.ofNat 38 (pay * 2 ^ 14 + w % 2 ^ 14)))
  | 12 => some (.cmpltuiI38 (fP w) (fQ w) (fPd w) (fAnd w) (fA w) (BitVec.ofNat 38 (pay * 2 ^ 14 + w % 2 ^ 14)))
  | 20 => some (.ldbI38 (fP w) (fQ w) (fD w) (fA w) (BitVec.ofNat 38 (pay * 2 ^ 14 + w % 2 ^ 14)))
  | 21 => some (.ldbuI38 (fP w) (fQ w) (fD w) (fA w) (BitVec.ofNat 38 (pay * 2 ^ 14 + w % 2 ^ 14)))
  | 22 => some (.ldhI38 (fP w) (fQ w) (fD w) (fA w) (BitVec.ofNat 38 (pay * 2 ^ 14 + w % 2 ^ 14)))
  | 23 => some (.ldhuI38 (fP w) (fQ w) (fD w) (fA w) (BitVec.ofNat 38 (pay * 2 ^ 14 + w % 2 ^ 14)))
  | 24 => some (.ldwI38 (fP w) (fQ w) (fD w) (fA w) (BitVec.ofNat 38 (pay * 2 ^ 14 + w % 2 ^ 14)))
  | 25 => some (.ldwuI38 (fP w) (fQ w) (fD w) (fA w) (BitVec.ofNat 38 (pay * 2 ^ 14 + w % 2 ^ 14)))
  | 26 => some (.lddI38 (fP w) (fQ w) (fD w) (fA w) (BitVec.ofNat 38 (pay * 2 ^ 14 + w % 2 ^ 14)))
  | 27 => some (.stbI38 (fP w) (fQ w) (fD w) (fA w) (BitVec.ofNat 38 (pay * 2 ^ 14 + w % 2 ^ 14)))
  | 28 => some (.sthI38 (fP w) (fQ w) (fD w) (fA w) (BitVec.ofNat 38 (pay * 2 ^ 14 + w % 2 ^ 14)))
  | 29 => some (.stwI38 (fP w) (fQ w) (fD w) (fA w) (BitVec.ofNat 38 (pay * 2 ^ 14 + w % 2 ^ 14)))
  | 30 => some (.stdI38 (fP w) (fQ w) (fD w) (fA w) (BitVec.ofNat 38 (pay * 2 ^ 14 + w % 2 ^ 14)))
  | _ => none

/-- A load or store made relaxed (R64, R65, R140). -/
def parseRelaxed (w : Nat) : Option Instr :=
  match fMajor w with
  | 20 => some (.ldbRlx (fP w) (fQ w) (fD w) (fA w) (fImm14 w))
  | 21 => some (.ldbuRlx (fP w) (fQ w) (fD w) (fA w) (fImm14 w))
  | 22 => some (.ldhRlx (fP w) (fQ w) (fD w) (fA w) (fImm14 w))
  | 23 => some (.ldhuRlx (fP w) (fQ w) (fD w) (fA w) (fImm14 w))
  | 24 => some (.ldwRlx (fP w) (fQ w) (fD w) (fA w) (fImm14 w))
  | 25 => some (.ldwuRlx (fP w) (fQ w) (fD w) (fA w) (fImm14 w))
  | 26 => some (.lddRlx (fP w) (fQ w) (fD w) (fA w) (fImm14 w))
  | 27 => some (.stbRlx (fP w) (fQ w) (fD w) (fA w) (fImm14 w))
  | 28 => some (.sthRlx (fP w) (fQ w) (fD w) (fA w) (fImm14 w))
  | 29 => some (.stwRlx (fP w) (fQ w) (fD w) (fA w) (fImm14 w))
  | 30 => some (.stdRlx (fP w) (fQ w) (fD w) (fA w) (fImm14 w))
  | _ => none

/-- Major and predicate of a word (R53). -/
def encHead (maj : Nat) (p : BitVec 3) (q : BitVec 1) : Nat := maj * 2 ^ 26 + p.toNat * 2 ^ 23 + q.toNat * 2 ^ 22

/-- R and E format (R55). -/
def encR (maj : Nat) (p : BitVec 3) (q : BitVec 1) (d a b fn : Nat) : Word32 :=
  BitVec.ofNat 32 (encHead maj p q + d * 2 ^ 18 + a * 2 ^ 14 + b * 2 ^ 10 + fn)

/-- I and S format (R55). -/
def encI (maj : Nat) (p : BitVec 3) (q : BitVec 1) (d a imm : Nat) : Word32 :=
  BitVec.ofNat 32 (encHead maj p q + d * 2 ^ 18 + a * 2 ^ 14 + imm)

/-- J format (R55). -/
def encJ (maj : Nat) (p : BitVec 3) (q : BitVec 1) (off : Nat) : Word32 := BitVec.ofNat 32 (encHead maj p q + off)

/-- V format (R55). -/
def encV (maj : Nat) (p : BitVec 3) (q : BitVec 1) (hd ha hb rm sat vf : Nat) : Word32 :=
  BitVec.ofNat 32 (encHead maj p q + hd * 2 ^ 17 + ha * 2 ^ 12 + hb * 2 ^ 7 + rm * 2 ^ 5 + sat * 2 ^ 4 + vf)

/-- M format (R55). -/
def encM (maj : Nat) (p : BitVec 3) (q : BitVec 1) (acc ra rb k mf : Nat) : Word32 :=
  BitVec.ofNat 32 (encHead maj p q + acc * 2 ^ 19 + ra * 2 ^ 16 + rb * 2 ^ 13 + k * 2 ^ 9 + mf)

/-- The word of major 63 (R64). -/
def encPfx (kind pay : Nat) : Word32 := BitVec.ofNat 32 (63 * 2 ^ 26 + kind * 2 ^ 24 + pay)

/-- The words of an instruction, in address order; an event has none. -/
def encode : Instr → List Word32
  | .add p q d a b => [encR 1 p q (d.toNat) (a.toNat) (b.toNat) (0)]
  | .sub p q d a b => [encR 1 p q (d.toNat) (a.toNat) (b.toNat) (1)]
  | .and p q d a b => [encR 1 p q (d.toNat) (a.toNat) (b.toNat) (2)]
  | .or p q d a b => [encR 1 p q (d.toNat) (a.toNat) (b.toNat) (3)]
  | .xor p q d a b => [encR 1 p q (d.toNat) (a.toNat) (b.toNat) (4)]
  | .andn p q d a b => [encR 1 p q (d.toNat) (a.toNat) (b.toNat) (5)]
  | .orn p q d a b => [encR 1 p q (d.toNat) (a.toNat) (b.toNat) (6)]
  | .sll p q d a b => [encR 1 p q (d.toNat) (a.toNat) (b.toNat) (7)]
  | .srl p q d a b => [encR 1 p q (d.toNat) (a.toNat) (b.toNat) (8)]
  | .sra p q d a b => [encR 1 p q (d.toNat) (a.toNat) (b.toNat) (9)]
  | .rol p q d a b => [encR 1 p q (d.toNat) (a.toNat) (b.toNat) (10)]
  | .ror p q d a b => [encR 1 p q (d.toNat) (a.toNat) (b.toNat) (11)]
  | .mul p q d a b => [encR 1 p q (d.toNat) (a.toNat) (b.toNat) (12)]
  | .mulh p q d a b => [encR 1 p q (d.toNat) (a.toNat) (b.toNat) (13)]
  | .mulhu p q d a b => [encR 1 p q (d.toNat) (a.toNat) (b.toNat) (14)]
  | .div p q d a b => [encR 1 p q (d.toNat) (a.toNat) (b.toNat) (15)]
  | .divu p q d a b => [encR 1 p q (d.toNat) (a.toNat) (b.toNat) (16)]
  | .rem p q d a b => [encR 1 p q (d.toNat) (a.toNat) (b.toNat) (17)]
  | .remu p q d a b => [encR 1 p q (d.toNat) (a.toNat) (b.toNat) (18)]
  | .min p q d a b => [encR 1 p q (d.toNat) (a.toNat) (b.toNat) (19)]
  | .max p q d a b => [encR 1 p q (d.toNat) (a.toNat) (b.toNat) (20)]
  | .minu p q d a b => [encR 1 p q (d.toNat) (a.toNat) (b.toNat) (21)]
  | .maxu p q d a b => [encR 1 p q (d.toNat) (a.toNat) (b.toNat) (22)]
  | .clz p q d a => [encR 1 p q (d.toNat) (a.toNat) (0) (23)]
  | .ctz p q d a => [encR 1 p q (d.toNat) (a.toNat) (0) (24)]
  | .popc p q d a => [encR 1 p q (d.toNat) (a.toNat) (0) (25)]
  | .brev p q d a => [encR 1 p q (d.toNat) (a.toNat) (0) (26)]
  | .sextb p q d a => [encR 1 p q (d.toNat) (a.toNat) (0) (27)]
  | .sexth p q d a => [encR 1 p q (d.toNat) (a.toNat) (0) (28)]
  | .sextw p q d a => [encR 1 p q (d.toNat) (a.toNat) (0) (29)]
  | .zextb p q d a => [encR 1 p q (d.toNat) (a.toNat) (0) (30)]
  | .zexth p q d a => [encR 1 p q (d.toNat) (a.toNat) (0) (31)]
  | .zextw p q d a => [encR 1 p q (d.toNat) (a.toNat) (0) (32)]
  | .bfx p q d a b => [encR 1 p q (d.toNat) (a.toNat) (b.toNat) (33)]
  | .bfi p q d a b => [encR 1 p q (d.toNat) (a.toNat) (b.toNat) (34)]
  | .addi p q d a imm => [encI 2 p q (d.toNat) (a.toNat) (imm.toNat)]
  | .addiI38 p q d a imm => [encPfx 0 (imm.toNat / 2 ^ 14), encI 2 p q (d.toNat) (a.toNat) (imm.toNat % 2 ^ 14)]
  | .andi p q d a imm => [encI 3 p q (d.toNat) (a.toNat) (imm.toNat)]
  | .andiI38 p q d a imm => [encPfx 0 (imm.toNat / 2 ^ 14), encI 3 p q (d.toNat) (a.toNat) (imm.toNat % 2 ^ 14)]
  | .ori p q d a imm => [encI 4 p q (d.toNat) (a.toNat) (imm.toNat)]
  | .oriI38 p q d a imm => [encPfx 0 (imm.toNat / 2 ^ 14), encI 4 p q (d.toNat) (a.toNat) (imm.toNat % 2 ^ 14)]
  | .xori p q d a imm => [encI 5 p q (d.toNat) (a.toNat) (imm.toNat)]
  | .xoriI38 p q d a imm => [encPfx 0 (imm.toNat / 2 ^ 14), encI 5 p q (d.toNat) (a.toNat) (imm.toNat % 2 ^ 14)]
  | .slli p q d a n => [encI 6 p q (d.toNat) (a.toNat) (0 * 2 ^ 12 + n.toNat)]
  | .srli p q d a n => [encI 6 p q (d.toNat) (a.toNat) (1 * 2 ^ 12 + n.toNat)]
  | .srai p q d a n => [encI 6 p q (d.toNat) (a.toNat) (2 * 2 ^ 12 + n.toNat)]
  | .li p q d imm => [encI 7 p q (d.toNat) (0) (imm.toNat)]
  | .liI38 p q d imm => [encPfx 0 (imm.toNat / 2 ^ 14), encI 7 p q (d.toNat) (0) (imm.toNat % 2 ^ 14)]
  | .lih p q d imm => [encI 8 p q (d.toNat) (0) (imm.toNat)]
  | .lihI38 p q d imm => [encPfx 0 (imm.toNat / 2 ^ 14), encI 8 p q (d.toNat) (0) (imm.toNat % 2 ^ 14)]
  | .eq p q pd c a b => [encR 9 p q (pd.toNat * 2 + c.toNat) (a.toNat) (b.toNat) (0)]
  | .ne p q pd c a b => [encR 9 p q (pd.toNat * 2 + c.toNat) (a.toNat) (b.toNat) (1)]
  | .lt p q pd c a b => [encR 9 p q (pd.toNat * 2 + c.toNat) (a.toNat) (b.toNat) (2)]
  | .ge p q pd c a b => [encR 9 p q (pd.toNat * 2 + c.toNat) (a.toNat) (b.toNat) (3)]
  | .ltu p q pd c a b => [encR 9 p q (pd.toNat * 2 + c.toNat) (a.toNat) (b.toNat) (4)]
  | .geu p q pd c a b => [encR 9 p q (pd.toNat * 2 + c.toNat) (a.toNat) (b.toNat) (5)]
  | .feq p q pd c a b => [encR 9 p q (pd.toNat * 2 + c.toNat) (a.toNat) (b.toNat) (6)]
  | .fne p q pd c a b => [encR 9 p q (pd.toNat * 2 + c.toNat) (a.toNat) (b.toNat) (7)]
  | .flt p q pd c a b => [encR 9 p q (pd.toNat * 2 + c.toNat) (a.toNat) (b.toNat) (8)]
  | .fle p q pd c a b => [encR 9 p q (pd.toNat * 2 + c.toNat) (a.toNat) (b.toNat) (9)]
  | .funord p q pd c a b => [encR 9 p q (pd.toNat * 2 + c.toNat) (a.toNat) (b.toNat) (10)]
  | .cmpeqi p q pd c a imm => [encI 10 p q (pd.toNat * 2 + c.toNat) (a.toNat) (imm.toNat)]
  | .cmpeqiI38 p q pd c a imm => [encPfx 0 (imm.toNat / 2 ^ 14), encI 10 p q (pd.toNat * 2 + c.toNat) (a.toNat) (imm.toNat % 2 ^ 14)]
  | .cmplti p q pd c a imm => [encI 11 p q (pd.toNat * 2 + c.toNat) (a.toNat) (imm.toNat)]
  | .cmpltiI38 p q pd c a imm => [encPfx 0 (imm.toNat / 2 ^ 14), encI 11 p q (pd.toNat * 2 + c.toNat) (a.toNat) (imm.toNat % 2 ^ 14)]
  | .cmpltui p q pd c a imm => [encI 12 p q (pd.toNat * 2 + c.toNat) (a.toNat) (imm.toNat)]
  | .cmpltuiI38 p q pd c a imm => [encPfx 0 (imm.toNat / 2 ^ 14), encI 12 p q (pd.toNat * 2 + c.toNat) (a.toNat) (imm.toNat % 2 ^ 14)]
  | .pand p q pd pa pb => [encR 13 p q (pd.toNat) (pa.toNat) (pb.toNat) (0)]
  | .por p q pd pa pb => [encR 13 p q (pd.toNat) (pa.toNat) (pb.toNat) (1)]
  | .pxor p q pd pa pb => [encR 13 p q (pd.toNat) (pa.toNat) (pb.toNat) (2)]
  | .pandn p q pd pa pb => [encR 13 p q (pd.toNat) (pa.toNat) (pb.toNat) (3)]
  | .pget p q d => [encR 13 p q (d.toNat) (0) (0) (4)]
  | .pput p q a => [encR 13 p q (0) (a.toNat) (0) (5)]
  | .br p q off => [encJ 14 p q off.toNat]
  | .jal p q off => [encJ 15 p q off.toNat]
  | .jr p q a => [encR 16 p q (0) (a.toNat) (0) (0)]
  | .jalr p q d a => [encR 16 p q (d.toNat) (a.toNat) (0) (1)]
  | .fadd p q d a b m => [encR 17 p q (d.toNat) (a.toNat) (b.toNat) (m.toNat * 2 ^ 8 + 0)]
  | .fsub p q d a b m => [encR 17 p q (d.toNat) (a.toNat) (b.toNat) (m.toNat * 2 ^ 8 + 1)]
  | .fmul p q d a b m => [encR 17 p q (d.toNat) (a.toNat) (b.toNat) (m.toNat * 2 ^ 8 + 2)]
  | .fdiv p q d a b m => [encR 17 p q (d.toNat) (a.toNat) (b.toNat) (m.toNat * 2 ^ 8 + 3)]
  | .fsqrt p q d a m => [encR 17 p q (d.toNat) (a.toNat) (0) (m.toNat * 2 ^ 8 + 4)]
  | .fmin p q d a b => [encR 17 p q (d.toNat) (a.toNat) (b.toNat) (5)]
  | .fmax p q d a b => [encR 17 p q (d.toNat) (a.toNat) (b.toNat) (6)]
  | .fabs p q d a => [encR 17 p q (d.toNat) (a.toNat) (0) (7)]
  | .fneg p q d a => [encR 17 p q (d.toNat) (a.toNat) (0) (8)]
  | .fmadd p q d a b m => [encR 17 p q (d.toNat) (a.toNat) (b.toNat) (m.toNat * 2 ^ 8 + 9)]
  | .cvt p q d a m dst src => [encR 18 p q (d.toNat) (a.toNat) (0) (m.toNat * 2 ^ 8 + dst.toNat * 2 ^ 4 + src.toNat)]
  | .rdsr p q d sys => [encI 19 p q (d.toNat) (0) (sys.toNat)]
  | .wrsr p q a sys => [encI 36 p q (0) (a.toNat) (sys.toNat)]
  | .wrsrVectorState p q a sys => [encI 36 p q (0) (a.toNat) (sys.toNat)]
  | .wrsrSegbase p q a => [encI 36 p q (0) (a.toNat) (128)]
  | .wrsrRotmode p q a => [encI 36 p q (0) (a.toNat) (64)]
  | .rotmodeSwitch _ => []
  | .wrsrDonord p q a => [encI 36 p q (0) (a.toNat) (66)]
  | .wrsrSlottab p q a => [encI 36 p q (0) (a.toNat) (65)]
  | .wrsrAcct p q a => [encI 36 p q (0) (a.toNat) (69)]
  | .acctSnapshot _ => []
  | .wrsrLogRing p q a sys => [encI 36 p q (0) (a.toNat) (sys.toNat)]
  | .wrsrLogcons p q a => [encI 36 p q (0) (a.toNat) (133)]
  | .wrsrReplay p q a => [encI 36 p q (0) (a.toNat) (134)]
  | .ldb p q d a imm => [encI 20 p q (d.toNat) (a.toNat) (imm.toNat)]
  | .ldbu p q d a imm => [encI 21 p q (d.toNat) (a.toNat) (imm.toNat)]
  | .ldh p q d a imm => [encI 22 p q (d.toNat) (a.toNat) (imm.toNat)]
  | .ldhu p q d a imm => [encI 23 p q (d.toNat) (a.toNat) (imm.toNat)]
  | .ldw p q d a imm => [encI 24 p q (d.toNat) (a.toNat) (imm.toNat)]
  | .ldwu p q d a imm => [encI 25 p q (d.toNat) (a.toNat) (imm.toNat)]
  | .ldd p q d a imm => [encI 26 p q (d.toNat) (a.toNat) (imm.toNat)]
  | .stb p q d a imm => [encI 27 p q (d.toNat) (a.toNat) (imm.toNat)]
  | .sth p q d a imm => [encI 28 p q (d.toNat) (a.toNat) (imm.toNat)]
  | .stw p q d a imm => [encI 29 p q (d.toNat) (a.toNat) (imm.toNat)]
  | .std p q d a imm => [encI 30 p q (d.toNat) (a.toNat) (imm.toNat)]
  | .ldbI38 p q d a imm => [encPfx 0 (imm.toNat / 2 ^ 14), encI 20 p q (d.toNat) (a.toNat) (imm.toNat % 2 ^ 14)]
  | .ldbuI38 p q d a imm => [encPfx 0 (imm.toNat / 2 ^ 14), encI 21 p q (d.toNat) (a.toNat) (imm.toNat % 2 ^ 14)]
  | .ldhI38 p q d a imm => [encPfx 0 (imm.toNat / 2 ^ 14), encI 22 p q (d.toNat) (a.toNat) (imm.toNat % 2 ^ 14)]
  | .ldhuI38 p q d a imm => [encPfx 0 (imm.toNat / 2 ^ 14), encI 23 p q (d.toNat) (a.toNat) (imm.toNat % 2 ^ 14)]
  | .ldwI38 p q d a imm => [encPfx 0 (imm.toNat / 2 ^ 14), encI 24 p q (d.toNat) (a.toNat) (imm.toNat % 2 ^ 14)]
  | .ldwuI38 p q d a imm => [encPfx 0 (imm.toNat / 2 ^ 14), encI 25 p q (d.toNat) (a.toNat) (imm.toNat % 2 ^ 14)]
  | .lddI38 p q d a imm => [encPfx 0 (imm.toNat / 2 ^ 14), encI 26 p q (d.toNat) (a.toNat) (imm.toNat % 2 ^ 14)]
  | .stbI38 p q d a imm => [encPfx 0 (imm.toNat / 2 ^ 14), encI 27 p q (d.toNat) (a.toNat) (imm.toNat % 2 ^ 14)]
  | .sthI38 p q d a imm => [encPfx 0 (imm.toNat / 2 ^ 14), encI 28 p q (d.toNat) (a.toNat) (imm.toNat % 2 ^ 14)]
  | .stwI38 p q d a imm => [encPfx 0 (imm.toNat / 2 ^ 14), encI 29 p q (d.toNat) (a.toNat) (imm.toNat % 2 ^ 14)]
  | .stdI38 p q d a imm => [encPfx 0 (imm.toNat / 2 ^ 14), encI 30 p q (d.toNat) (a.toNat) (imm.toNat % 2 ^ 14)]
  | .ldbRlx p q d a imm => [encPfx 1 0, encI 20 p q (d.toNat) (a.toNat) (imm.toNat)]
  | .ldbuRlx p q d a imm => [encPfx 1 0, encI 21 p q (d.toNat) (a.toNat) (imm.toNat)]
  | .ldhRlx p q d a imm => [encPfx 1 0, encI 22 p q (d.toNat) (a.toNat) (imm.toNat)]
  | .ldhuRlx p q d a imm => [encPfx 1 0, encI 23 p q (d.toNat) (a.toNat) (imm.toNat)]
  | .ldwRlx p q d a imm => [encPfx 1 0, encI 24 p q (d.toNat) (a.toNat) (imm.toNat)]
  | .ldwuRlx p q d a imm => [encPfx 1 0, encI 25 p q (d.toNat) (a.toNat) (imm.toNat)]
  | .lddRlx p q d a imm => [encPfx 1 0, encI 26 p q (d.toNat) (a.toNat) (imm.toNat)]
  | .stbRlx p q d a imm => [encPfx 1 0, encI 27 p q (d.toNat) (a.toNat) (imm.toNat)]
  | .sthRlx p q d a imm => [encPfx 1 0, encI 28 p q (d.toNat) (a.toNat) (imm.toNat)]
  | .stwRlx p q d a imm => [encPfx 1 0, encI 29 p q (d.toNat) (a.toNat) (imm.toNat)]
  | .stdRlx p q d a imm => [encPfx 1 0, encI 30 p q (d.toNat) (a.toNat) (imm.toNat)]
  | .relaxedAccessCompletion _ _ => []
  | .deferredRelaxedFault _ => []
  | .ldf p q d a => [encR 31 p q (d.toNat) (a.toNat) (0) (0)]
  | .ldfe p q d a => [encR 31 p q (d.toNat) (a.toNat) (0) (1)]
  | .ste p q d a => [encR 31 p q (d.toNat) (a.toNat) (0) (2)]
  | .stf p q d a => [encR 31 p q (d.toNat) (a.toNat) (0) (3)]
  | .fclr p q a => [encR 31 p q (0) (a.toNat) (0) (4)]
  | .fset p q a => [encR 31 p q (0) (a.toNat) (0) (5)]
  | .fstat p q d a => [encR 31 p q (d.toNat) (a.toNat) (0) (6)]
  | .syncWaitSatisfied _ _ => []
  | .aadd p q d a b w => [encR 32 p q (d.toNat) (a.toNat) (b.toNat) (w.toNat * 2 ^ 8 + 0)]
  | .aand p q d a b w => [encR 32 p q (d.toNat) (a.toNat) (b.toNat) (w.toNat * 2 ^ 8 + 1)]
  | .aor p q d a b w => [encR 32 p q (d.toNat) (a.toNat) (b.toNat) (w.toNat * 2 ^ 8 + 2)]
  | .axor p q d a b w => [encR 32 p q (d.toNat) (a.toNat) (b.toNat) (w.toNat * 2 ^ 8 + 3)]
  | .amin p q d a b w => [encR 32 p q (d.toNat) (a.toNat) (b.toNat) (w.toNat * 2 ^ 8 + 4)]
  | .amax p q d a b w => [encR 32 p q (d.toNat) (a.toNat) (b.toNat) (w.toNat * 2 ^ 8 + 5)]
  | .aminu p q d a b w => [encR 32 p q (d.toNat) (a.toNat) (b.toNat) (w.toNat * 2 ^ 8 + 6)]
  | .amaxu p q d a b w => [encR 32 p q (d.toNat) (a.toNat) (b.toNat) (w.toNat * 2 ^ 8 + 7)]
  | .aswp p q d a b w => [encR 32 p q (d.toNat) (a.toNat) (b.toNat) (w.toNat * 2 ^ 8 + 8)]
  | .acas p q d a b w => [encR 32 p q (d.toNat) (a.toNat) (b.toNat) (w.toNat * 2 ^ 8 + 9)]
  | .afadd p q d a b => [encR 32 p q (d.toNat) (a.toNat) (b.toNat) (10)]
  | .bankReservationGrant _ => []
  | .proxyHostAtomic _ _ => []
  | .sealPages p q a b => [encR 33 p q (0) (a.toNat) (b.toNat) (0)]
  | .unsealPages p q a b => [encR 33 p q (0) (a.toNat) (b.toNat) (1)]
  | .sealq p q d a => [encR 33 p q (d.toNat) (a.toNat) (0) (2)]
  | .sealComplete _ => []
  | .unsealComplete _ => []
  | .fetchHoldRelease _ => []
  | .spawn p q d a b => [encR 34 p q (d.toNat) (a.toNat) (b.toNat) (0)]
  | .join p q a => [encR 34 p q (0) (a.toNat) (0) (1)]
  | .jinit p q a b => [encR 34 p q (0) (a.toNat) (b.toNat) (2)]
  | .exit p q => [encR 34 p q (0) (0) (0) (3)]
  | .yield p q a => [encR 34 p q (0) (a.toNat) (0) (4)]
  | .yieldHoldEnd _ => []
  | .migrate p q a => [encR 34 p q (0) (a.toNat) (0) (5)]
  | .send p q a b => [encR 34 p q (0) (a.toNat) (b.toNat) (6)]
  | .waitm p q d => [encR 34 p q (d.toNat) (0) (0) (7)]
  | .waitc p q d a b => [encR 34 p q (d.toNat) (a.toNat) (b.toNat) (8)]
  | .cset p q a b => [encR 34 p q (0) (a.toNat) (b.toNat) (9)]
  | .bar p q a b => [encR 34 p q (0) (a.toNat) (b.toNat) (10)]
  | .fence p q sc => [encR 34 p q (0) (0) (sc.toNat) (11)]
  | .clusterBarrierArrival _ => []
  | .clusterBarrierRelease _ _ => []
  | .counterMessage _ => []
  | .wakeMessageArrival _ => []
  | .handlerMessageArrival _ => []
  | .migrationArrival _ => []
  | .migrationRefused _ => []
  | .slotBind _ => []
  | .stealRequest _ => []
  | .stealReply _ => []
  | .stealSearchRetry _ _ => []
  | .trap p q a => [encR 35 p q (0) (a.toNat) (0) (0)]
  | .eret p q => [encR 35 p q (0) (0) (0) (1)]
  | .brk p q => [encR 35 p q (0) (0) (0) (2)]
  | .halt p q a => [encR 35 p q (0) (a.toNat) (0) (3)]
  | .haltCompletion _ => []
  | .tsr p q d => [encR 35 p q (d.toNat) (0) (0) (4)]
  | .rng p q d => [encR 35 p q (d.toNat) (0) (0) (5)]
  | .logm p q a b => [encR 35 p q (0) (a.toNat) (b.toNat) (6)]
  | .nop p q => [encR 35 p q (0) (0) (0) (7)]
  | .illegalInstruction _ => []
  | .extensionAbsent _ => []
  | .extensionMigration _ => []
  | .memoryReply _ => []
  | .pageWalk _ => []
  | .pageWake _ => []
  | .vadd p q hd ha hb m sat => [encV 40 p q (hd.toNat) (ha.toNat) (hb.toNat) (m.toNat) (sat.toNat) 0]
  | .vsub p q hd ha hb m sat => [encV 40 p q (hd.toNat) (ha.toNat) (hb.toNat) (m.toNat) (sat.toNat) 1]
  | .vmul p q hd ha hb m sat => [encV 40 p q (hd.toNat) (ha.toNat) (hb.toNat) (m.toNat) (sat.toNat) 2]
  | .vfma p q hd ha hb m sat => [encV 40 p q (hd.toNat) (ha.toNat) (hb.toNat) (m.toNat) (sat.toNat) 3]
  | .vmin p q hd ha hb m sat => [encV 40 p q (hd.toNat) (ha.toNat) (hb.toNat) (m.toNat) (sat.toNat) 4]
  | .vmax p q hd ha hb m sat => [encV 40 p q (hd.toNat) (ha.toNat) (hb.toNat) (m.toNat) (sat.toNat) 5]
  | .vabs p q hd ha m sat => [encV 40 p q (hd.toNat) (ha.toNat) (0) (m.toNat) (sat.toNat) 6]
  | .vneg p q hd ha m sat => [encV 40 p q (hd.toNat) (ha.toNat) (0) (m.toNat) (sat.toNat) 7]
  | .vscale p q hd ha hb m sat => [encV 40 p q (hd.toNat) (ha.toNat) (hb.toNat) (m.toNat) (sat.toNat) 8]
  | .vclip p q hd ha hb m sat => [encV 40 p q (hd.toNat) (ha.toNat) (hb.toNat) (m.toNat) (sat.toNat) 9]
  | .vexp p q hd ha m sat => [encV 41 p q (hd.toNat) (ha.toNat) (0) (m.toNat) (sat.toNat) 0]
  | .vlog p q hd ha m sat => [encV 41 p q (hd.toNat) (ha.toNat) (0) (m.toNat) (sat.toNat) 1]
  | .vrcp p q hd ha m sat => [encV 41 p q (hd.toNat) (ha.toNat) (0) (m.toNat) (sat.toNat) 2]
  | .vrsqrt p q hd ha m sat => [encV 41 p q (hd.toNat) (ha.toNat) (0) (m.toNat) (sat.toNat) 3]
  | .vtanh p q hd ha m sat => [encV 41 p q (hd.toNat) (ha.toNat) (0) (m.toNat) (sat.toNat) 4]
  | .vsigm p q hd ha m sat => [encV 41 p q (hd.toNat) (ha.toNat) (0) (m.toNat) (sat.toNat) 5]
  | .vsilu p q hd ha m sat => [encV 41 p q (hd.toNat) (ha.toNat) (0) (m.toNat) (sat.toNat) 6]
  | .verf p q hd ha m sat => [encV 41 p q (hd.toNat) (ha.toNat) (0) (m.toNat) (sat.toNat) 7]
  | .viadd p q hd ha hb sat => [encV 42 p q (hd.toNat) (ha.toNat) (hb.toNat) (0) (sat.toNat) 0]
  | .visub p q hd ha hb sat => [encV 42 p q (hd.toNat) (ha.toNat) (hb.toNat) (0) (sat.toNat) 1]
  | .vimul p q hd ha hb sat => [encV 42 p q (hd.toNat) (ha.toNat) (hb.toNat) (0) (sat.toNat) 2]
  | .vimac p q hd ha hb sat => [encV 42 p q (hd.toNat) (ha.toNat) (hb.toNat) (0) (sat.toNat) 3]
  | .vand p q hd ha hb sat => [encV 42 p q (hd.toNat) (ha.toNat) (hb.toNat) (0) (sat.toNat) 4]
  | .vor p q hd ha hb sat => [encV 42 p q (hd.toNat) (ha.toNat) (hb.toNat) (0) (sat.toNat) 5]
  | .vxor p q hd ha hb sat => [encV 42 p q (hd.toNat) (ha.toNat) (hb.toNat) (0) (sat.toNat) 6]
  | .vshl p q hd ha hb sat => [encV 42 p q (hd.toNat) (ha.toNat) (hb.toNat) (0) (sat.toNat) 7]
  | .vshr p q hd ha hb sat => [encV 42 p q (hd.toNat) (ha.toNat) (hb.toNat) (0) (sat.toNat) 8]
  | .vrsh p q hd ha hb sat => [encV 42 p q (hd.toNat) (ha.toNat) (hb.toNat) (0) (sat.toNat) 9]
  | .vclampi p q hd ha hb sat => [encV 42 p q (hd.toNat) (ha.toNat) (hb.toNat) (0) (sat.toNat) 10]
  | .vcopy p q hd ha => [encV 43 p q (hd.toNat) (ha.toNat) (0) (0) (0) 0]
  | .vfill p q hd ha m sat => [encV 43 p q (hd.toNat) (ha.toNat) (0) (m.toNat) (sat.toNat) 1]
  | .vcvt p q hd ha m sat => [encV 43 p q (hd.toNat) (ha.toNat) (0) (m.toNat) (sat.toNat) 2]
  | .vgath p q hd ha hb => [encV 43 p q (hd.toNat) (ha.toNat) (hb.toNat) (0) (0) 3]
  | .vscat p q hd ha hb => [encV 43 p q (hd.toNat) (ha.toNat) (hb.toNat) (0) (0) 4]
  | .vsel p q hd ha hb => [encV 43 p q (hd.toNat) (ha.toNat) (hb.toNat) (0) (0) 5]
  | .vsum p q hd ha m sat => [encV 44 p q (hd.toNat) (ha.toNat) (0) (m.toNat) (sat.toNat) 0]
  | .vmaxr p q hd ha m sat => [encV 44 p q (hd.toNat) (ha.toNat) (0) (m.toNat) (sat.toNat) 1]
  | .vminr p q hd ha m sat => [encV 44 p q (hd.toNat) (ha.toNat) (0) (m.toNat) (sat.toNat) 2]
  | .vdot p q hd ha hb m sat => [encV 44 p q (hd.toNat) (ha.toNat) (hb.toNat) (m.toNat) (sat.toNat) 3]
  | .vcmp p q hd ha hb => [encV 45 p q (hd.toNat) (ha.toNat) (hb.toNat) (0) (0) 0]
  | .vhist p q hd ha => [encV 45 p q (hd.toNat) (ha.toNat) (0) (0) (0) 1]
  | .vselk p q hd ha hb => [encV 45 p q (hd.toNat) (ha.toNat) (hb.toNat) (0) (0) 2]
  | .vmrg p q hd ha hb => [encV 45 p q (hd.toNat) (ha.toNat) (hb.toNat) (0) (0) 3]
  | .vcnt p q hd ha => [encV 45 p q (hd.toNat) (ha.toNat) (0) (0) (0) 4]
  | .vloop p q n k => [encV 46 p q (n.toNat) (k.toNat) (0) (0) (0) 0]
  | .vend p q => [encV 46 p q (0) (0) (0) (0) (0) 1]
  | .vwait p q => [encV 46 p q (0) (0) (0) (0) (0) 2]
  | .vectorGroup _ => []
  | .vectorFaultDelivery _ => []
  | .mma p q acc ra rb k mf => [encM 48 p q acc.toNat ra.toNat rb.toNat k.toNat mf.toNat]
  | .mms p q acc ra rb k mf => [encM 49 p q acc.toNat ra.toNat rb.toNat k.toNat mf.toNat]
  | .mmx p q acc ra rb k mf => [encM 50 p q acc.toNat ra.toNat rb.toNat k.toNat mf.toNat]
  | .mmg p q acc ra rb k mf => [encM 51 p q acc.toNat ra.toNat rb.toNat k.toNat mf.toNat]
  | .matrixAdmission _ => []
  | .matrixKStep _ => []
  | .accz p q t => [encR 52 p q (t.toNat) (0) (0) (0)]
  | .accrd p q t a b => [encR 52 p q (t.toNat) (a.toNat) (b.toNat) (1)]
  | .accwr p q t a b => [encR 52 p q (t.toNat) (a.toNat) (b.toNat) (2)]
  | .accTransferDone _ => []
  | .ringset p q t a => [encR 52 p q (t.toNat) (a.toNat) (0) (3)]
  | .ringst p q t b => [encR 52 p q (t.toNat) (0) (b.toNat) (4)]
  | .mpget p q d t => [encR 52 p q (d.toNat) (t.toNat) (0) (5)]
  | .cpy p q d a b => [encR 54 p q (d.toNat) (a.toNat) (b.toNat) (0)]
  | .cpyd p q d a b => [encR 54 p q (d.toNat) (a.toNat) (b.toNat) (1)]
  | .cpyf p q d a b => [encR 54 p q (d.toNat) (a.toNat) (b.toNat) (2)]
  | .cpyq p q d a => [encR 54 p q (d.toNat) (a.toNat) (0) (3)]
  | .copyCommandAccept _ => []
  | .copyCommandCompletion _ => []
  | .combiningWindowClose _ => []
  | .streamDelivery _ => []
  | .streamDeliveryTimeout _ => []
  | .overflowDeliveryReentry _ => []
  | .blockExpansion _ => []
  | .transformThreadBind _ => []
  | .commThreadBind _ => []
  | .thin p q d a b => [encR 55 p q (d.toNat) (a.toNat) (b.toNat) (0)]
  | .mref p q d a b => [encR 55 p q (d.toNat) (a.toNat) (b.toNat) (1)]
  | .mrel p q d a b => [encR 55 p q (d.toNat) (a.toNat) (b.toNat) (2)]
  | .mver p q d a => [encR 55 p q (d.toNat) (a.toNat) (0) (3)]
  | .intervalBuildStart _ => []
  | .intervalPublish _ => []
  | .intervalFailure _ => []
  | .gred p q d a b => [encR 56 p q (d.toNat) (a.toNat) (b.toNat) (0)]
  | .gldr p q d a b => [encR 56 p q (d.toNat) (a.toNat) (b.toNat) (1)]
  | .gmc p q d a b => [encR 56 p q (d.toNat) (a.toNat) (b.toNat) (2)]
  | .gsetSet p q d a b => [encR 56 p q (d.toNat) (a.toNat) (b.toNat) (3)]
  | .gsetClear p q d a b => [encR 56 p q (d.toNat) (a.toNat) (b.toNat) (3)]
  | .gq p q d a => [encR 56 p q (d.toNat) (a.toNat) (0) (4)]
  | .groupRegistration _ => []
  | .gsetTimeout _ => []
  | .reductionChunkArrival _ => []
  | .slotTimerExpiry _ _ _ => []
  | .slotNoticeArrival _ => []
  | .destinationWrite _ => []
  | .statusReturn _ => []
  | .memberCutoffTimeout _ _ _ => []
  | .commX1Element _ => []
  | .commX3Query _ => []
  | .sbind p q x a => [encR 57 p q (12 + x.toNat) (a.toNat) (0) (0)]
  | .sfree p q x => [encR 57 p q (12 + x.toNat) (0) (0) (1)]
  | .xstat p q d x => [encR 57 p q (d.toNat) (12 + x.toNat) (0) (2)]
  | .bget p q d a => [encR 58 p q (d.toNat) (a.toNat) (0) (0)]
  | .bpeek p q d a => [encR 58 p q (d.toNat) (a.toNat) (0) (1)]
  | .bskip p q a => [encR 58 p q (0) (a.toNat) (0) (2)]
  | .bput p q a b => [encR 58 p q (0) (a.toNat) (b.toNat) (3)]
  | .bflush p q d => [encR 58 p q (d.toNat) (0) (0) (4)]
  | .bhdr p q d => [encR 58 p q (d.toNat) (0) (0) (5)]
  | .bexp p q d a => [encR 58 p q (d.toNat) (a.toNat) (0) (6)]
  | .bsync p q d => [encR 58 p q (d.toNat) (0) (0) (7)]
  | .hwalk p q d a b => [encR 59 p q (d.toNat) (a.toNat) (b.toNat) (0)]
  | .hins p q d a => [encR 59 p q (d.toNat) (a.toNat) (0) (1)]
  | .hdel p q d a => [encR 59 p q (d.toNat) (a.toNat) (0) (2)]
  | .tlbi p q a b => [encR 59 p q (0) (a.toNat) (b.toNat) (3)]
  | .hotr p q d a b => [encR 59 p q (d.toNat) (a.toNat) (b.toNat) (4)]
  | .pgmv p q d a b => [encR 59 p q (d.toNat) (a.toNat) (b.toNat) (5)]
  | .pageMoveSwitch _ => []
  | .bpset p q a b => [encR 60 p q (0) (a.toNat) (b.toNat) (0)]
  | .bpclr p q a => [encR 60 p q (0) (a.toNat) (0) (1)]
  | .tstart p q a => [encR 60 p q (0) (a.toNat) (0) (2)]
  | .tstop p q => [encR 60 p q (0) (0) (0) (3)]
  | .snap p q d a => [encR 60 p q (d.toNat) (a.toNat) (0) (4)]
  | .hardwareBreakpoint _ => []
  | .spill _ => []
  | .spillResume _ _ => []
  | .logAppend _ _ => []
  | .replayRecordDispatch _ _ => []
  | .replayWaitTimeout _ => []
  | .timeMessage _ _ _ => []
  | .masterTimeFailover => []
  | .loadData _ _ _ _ _ => []
  | .loadPageTable _ _ _ _ _ => []
  | .launchCreate _ _ _ _ _ => []
  | .launchPriority _ _ _ _ _ => []
  | .snapshot _ _ _ _ _ => []
  | .queryHealth _ _ _ _ _ => []
  | .queryDigest _ _ _ _ _ => []
  | .queryContextStates _ _ _ _ _ => []
  | .queryAttestation _ _ _ _ _ => []
  | .sealCommand _ _ _ _ _ => []
  | .unsealCommand _ _ _ _ _ => []
  | .resetContext _ _ _ _ _ => []
  | .resetPackage _ _ _ _ _ => []
  | .foreignPacketDrop _ _ => []
  | .hostset _ _ _ => []
  | .window _ _ _ _ => []
  | .stop _ _ _ _ _ => []
  | .resume _ _ _ _ => []
  | .pkread _ _ _ _ => []
  | .pkwrite _ _ _ _ _ => []
  | .fwload _ _ _ _ => []
  | .powercap _ _ _ => []
  | .powerOn _ _ => []
  | .throttle _ => []
  | .throttleRelease _ => []
  | .thermalShutdown _ => []
  | .correctedError _ _ => []
  | .uncorrectableThreadState _ => []
  | .uncorrectableCoreState _ => []
  | .coreDisable _ => []
  | .tlbEntryError _ _ => []
  | .replicaLineError _ _ => []
  | .shardBucketError _ _ _ _ => []
  | .engineFault _ => []
  | .barrierStateError _ _ => []
  | .mapEntryError _ _ => []
  | .meshLinkFault _ _ _ => []
  | .thinningUnitError _ => []
  | .logAppendFailure _ _ => []
  | .sequenceStateError _ _ => []
  | .logUnitDisabled _ _ => []
  | .channelRetirement _ _ _ _ => []
  | .spareCopyComplete _ _ => []
  | .dieSublinkFailure _ => []
  | .dieLinkLost _ => []
  | .flitCrcError _ _ => []
  | .laneFailure _ _ => []
  | .portDown _ _ => []
  | .slotUncorrectable _ _ _ => []
  | .treeEntryError _ _ => []
  | .timeAccountCycle _ => []
  | .timeStampCounterTick => []

/-- The word that R72 names: the only word, or the second of a pair. -/
def wordOf (i : Instr) : Word32 := (encode i).getLastD 0

/-- Length of an instruction in bytes (R52, R66). -/
def Instr.size (i : Instr) : Nat := 4 * (encode i).length

/-- A parsed term stands when its fields are legal and no unused bit is set, so that it encodes to the very words
(R63, R70 step 6). -/
def accepted (ws : List Word32) (o : Option Instr) : Except Reject Instr :=
  match o with
  | some i => if i.wf && encode i == ws then .ok i else .error (.badField (ws.getLastD 0))
  | none => .error (.badField (ws.getLastD 0))

/-- R70 steps 4 and 5 of the word that carries the predicate. -/
def predicateReject (w : Nat) : Option Reject :=
  if w / 2 ^ 22 % 16 = 1 then some (.negatedP0 (BitVec.ofNat 32 w))
  else if 37 ≤ fMajor w ∧ fMajor w ≤ 39 then some (.absentExtension (BitVec.ofNat 32 w))
  else none

/-- A word that stands alone. -/
def decodeWord (w : Nat) : Except Reject Instr :=
  if fMajor w = 0 ∨ fMajor w = 47 ∨ fMajor w = 53 ∨ fMajor w = 61 ∨ fMajor w = 62 then
    .error (.reservedMajor (BitVec.ofNat 32 w))
  else match predicateReject w with
    | some r => .error r
    | none => accepted [BitVec.ofNat 32 w] (parseWord w)

/-- Majors that a kind-00 word may stand before (R65). -/
def wideMajor (m : Nat) : Bool :=
  (decide (2 ≤ m) && decide (m ≤ 5)) || m == 7 || m == 8 || (decide (10 ≤ m) && decide (m ≤ 12)) ||
    (decide (20 ≤ m) && decide (m ≤ 30))

/-- A word of major 63 and its successor (R64, R65). -/
def decodePair (pw w : Nat) : Except Reject Instr :=
  if pw / 2 ^ 24 % 4 = 0 ∧ wideMajor (fMajor w) = true then
    match predicateReject w with
    | some r => .error r
    | none => accepted [BitVec.ofNat 32 pw, BitVec.ofNat 32 w] (parseWide (pw % 2 ^ 24) w)
  else if pw / 2 ^ 24 % 4 = 1 ∧ pw % 2 ^ 24 = 0 ∧ 20 ≤ fMajor w ∧ fMajor w ≤ 30 then
    match predicateReject w with
    | some r => .error r
    | none => accepted [BitVec.ofNat 32 pw, BitVec.ofNat 32 w] (parseRelaxed w)
  else .error (.badPair (BitVec.ofNat 32 pw))

/-- A little-endian number (R22). -/
def leNat : List Byte → Nat
  | [] => 0
  | b :: bs => b.toNat + 256 * leNat bs

/-- The n low bytes of a number, little-endian (R22). -/
def leBytes : Nat → Nat → List Byte
  | 0, _ => []
  | n + 1, v => BitVec.ofNat 8 v :: leBytes n (v / 256)

/-- The instruction at the head of some bytes, and its length: the decoder. -/
def decode (bs : List Byte) : Except Reject (Instr × Nat) :=
  match bs with
  | b0 :: b1 :: b2 :: b3 :: rest =>
    let w := leNat [b0, b1, b2, b3]
    if fMajor w = 63 then
      match rest with
      | c0 :: c1 :: c2 :: c3 :: _ => (decodePair w (leNat [c0, c1, c2, c3])).map (·, 8)
      | _ => .error .short
    else (decodeWord w).map (·, 4)
  | _ => .error .short

/-- The bytes of an instruction as they stand in memory (R22, R52). -/
def encodeBytes (i : Instr) : List Byte := (encode i).flatMap (fun w => leBytes 4 w.toNat)

/-- The decoder asked about a word numbered as the opcode table numbers it; the bits above nbits are 0. -/
def decodeTableWord (nbits w : Nat) : Option Instr :=
  match decode (leBytes 8 (w % 2 ^ nbits)) with
  | .ok (i, _) => some i
  | .error _ => none

end Sys2Proof

end
end

