-- ==== Sys2Proof/Config.lean ====
section
/-! DEFINITION. What one part or one installation fixes, and what the spec leaves to the implementation. The opaque
constants have no value that a proof can see: a statement that mentions one holds for every value of it (log 7). -/

namespace Sys2Proof

/-- Packages connected in the domain (R400). DESIGN CHOICE: a full domain (log 5). -/
def Config.packages : Nat := 4608

/-- The host endpoint that the board configuration gives each package (R431); the spec gives no value (log 7). -/
opaque Config.boardEndpoint : Nat → Nat

/-- The address hash that chooses a proxy queue (R326), below 64; the spec does not give it (log 7). -/
opaque Config.proxyHash : Nat → Nat

/-- Serial number of a package, 16 bytes (R396); the spec gives no value (log 7). -/
opaque Config.serial : Nat → List Byte

/-- Signature of a report by a package's identity key, 64 bytes (R396): the key never leaves the device (log 7). -/
opaque Config.identitySign : Nat → List Byte → List Byte

/-- The device certificate (R396); the spec gives no content (log 7). -/
opaque Config.certificate : Nat → List Byte

/-- Whether a firmware image's signature verifies against the fused key (R395); the spec does not give the key (log 7). -/
opaque Config.firmwareVerifies : List Byte → Bool

/-- Version, rollback index and body of a firmware image file: the header's layout is not in the spec (log 7). -/
opaque Config.firmwareHeader : List Byte → Nat × Nat × List Byte

/-- The number of words after which the transport reports a host RMA failure in a package's n-th transfer, if it does (R389): a
matter of the network outside the part (log 7). -/
opaque Config.rmaFails : Nat → Nat → Option Nat

/-- The firmware image that a package came with, by its number (R395): whether it verifies, its version, rollback index and digest;
the spec gives no value (log 7). -/
opaque Config.factoryImage : Nat → Nat → Bool × Nat × Nat × List Byte

/-- What memory training overwrites in a package's HBM at its n-th reset (R431): physical addresses and bytes. HBM contents are
undefined after a reset (log 7). -/
opaque Config.training : Nat → Nat → List (Nat × BitVec 8)

/-- Byte i of the n-th entry that a core and context (as 4 x core + context) write to the ring of their overflow queue: its layout
is private to the device (R206, log 23). -/
opaque Config.ovfByte : Nat → Nat → Nat → BitVec 8

/-- ebad of the trap that a vector instruction takes while its sequencer is frozen, by its pc: R189 names none (log 7). -/
opaque Config.frozenEbad : BitVec 64 → BitVec 64

end Sys2Proof
end

