-- ==== Sys2Proof/Machine/Map.lean ====
section
/-! DEFINITION. Sparse data by number in one canonical form: strictly rising keys. Memory is such a list of bytes in
which no entry is 0, what an unlisted address reads as (log 3). -/

namespace Sys2Proof.Machine

/-- Data by number, keys strictly rising. -/
abbrev NatMap (α : Type) := List (Nat × α)

/-- The entry of a key. -/
def NatMap.find? {α : Type} : NatMap α → Nat → Option α
  | [], _ => none
  | (k, v) :: r, i => if i = k then some v else if i < k then none else NatMap.find? r i

/-- The entry of a key, or a default. -/
def NatMap.at {α : Type} (m : NatMap α) (dflt : α) (i : Nat) : α := (m.find? i).getD dflt

/-- Sets the entry of a key. -/
def NatMap.put {α : Type} : NatMap α → Nat → α → NatMap α
  | [], i, a => [(i, a)]
  | (k, v) :: r, i, a =>
    if i < k then (i, a) :: (k, v) :: r else if i = k then (i, a) :: r else (k, v) :: NatMap.put r i a

/-- Removes the entry of a key. -/
def NatMap.del {α : Type} : NatMap α → Nat → NatMap α
  | [], _ => []
  | (k, v) :: r, i => if i < k then (k, v) :: r else if i = k then r else (k, v) :: NatMap.del r i

/-- Keeps the entries that satisfy a test. -/
def NatMap.keep {α : Type} (m : NatMap α) (f : Nat → α → Bool) : NatMap α := m.filter fun e => f e.1 e.2

/-- Changes every entry's value. -/
def NatMap.mapVals {α : Type} (m : NatMap α) (f : Nat → α → α) : NatMap α := m.map fun e => (e.1, f e.1 e.2)

/-- The keys strictly rise. -/
abbrev NatMap.Sorted {α : Type} (m : NatMap α) : Prop := m.Pairwise fun x y => x.1 < y.1

/-- Bytes by key (log 3: the keys of the address spaces). -/
abbrev Mem := List Host.Cell

/-- What an unlisted address reads as (log 3). -/
def unlistedByte : Byte := 0

def Mem.byte (m : Mem) (k : Nat) : Byte := (NatMap.find? m k).getD unlistedByte

/-- Writing the unlisted value removes the entry, so that equal memories are equal lists. -/
def Mem.setByte (m : Mem) (k : Nat) (b : Byte) : Mem :=
  if b = unlistedByte then NatMap.del m k else NatMap.put m k b

/-- The canonical form of memory. -/
abbrev Mem.wf (m : Mem) : Prop := NatMap.Sorted m ∧ ∀ e ∈ m, e.2 ≠ unlistedByte

/-- n bytes from k as a little-endian number (R22, R24). -/
def Mem.read (m : Mem) (k : Nat) : Nat → Nat
  | 0 => 0
  | n + 1 => (m.byte k).toNat + 256 * Mem.read m (k + 1) n

/-- n bytes from k. -/
def Mem.bytes (m : Mem) (k : Nat) : Nat → List Byte
  | 0 => []
  | n + 1 => m.byte k :: Mem.bytes m (k + 1) n

/-- Stores the low n bytes of v from k, little-endian. -/
def Mem.write (m : Mem) (k : Nat) : Nat → Nat → Mem
  | 0, _ => m
  | n + 1, v => Mem.write (m.setByte k (BitVec.ofNat 8 v)) (k + 1) n (v / 256)

/-- Stores bytes from k. -/
def Mem.writeBytes (m : Mem) (k : Nat) : List Byte → Mem
  | [] => m
  | b :: r => Mem.writeBytes (m.setByte k b) (k + 1) r

/-- Puts an element before the first one that it comes before. -/
def insertBy {α : Type} (before : α → α → Bool) (a : α) : List α → List α
  | [] => [a]
  | x :: r => if before a x then a :: x :: r else x :: insertBy before a r

def sortBy {α : Type} (before : α → α → Bool) (l : List α) : List α := l.foldr (insertBy before) []

/-- A set of numbers: a rising list. -/
abbrev NatSet := List Nat

def NatSet.has (l : NatSet) (i : Nat) : Bool := l.contains i

def NatSet.insert : NatSet → Nat → NatSet
  | [], i => [i]
  | k :: r, i => if i < k then i :: k :: r else if i = k then k :: r else k :: NatSet.insert r i

def NatSet.remove (l : NatSet) (i : Nat) : NatSet := l.filter (· != i)

/-- Bits hi..lo of a number (R24). -/
def bits (x hi lo : Nat) : Nat := x / 2 ^ lo % 2 ^ (hi + 1 - lo)

end Sys2Proof.Machine
end

