-- ==== Sys2Proof/Machine/State.lean ====
section
/-! DEFINITION. The machine's state: every register, memory, queue and status the spec gives the part, as plain data, and
the state after reset (R431). Numbers that name things are laid out as in Syntax.lean: a core as lcn (R80), a slot position
tid = 16 x core + slot, a context cx = 4 x package + context, a cluster cl = 32 x package + 16 x die + cluster, an engine
eng = 128 x package + number. Sparse maps list only the things that are in use. -/

namespace Sys2Proof.Machine

/-- A trap about to be taken: cause and ebad (R83, R185). -/
structure Trap where
  cause : Nat
  ebad : Word
deriving DecidableEq, Repr

/-- A place that an access reaches (R132): a local-store byte by linear address, a byte of a package's HBM by region-0
offset, with the physical address it was translated to, or a host byte by endpoint and host address. -/
inductive Loc where
  | loc (la : Nat)
  | hbm (pkg off phys : Nat)
  | host (die ep addr : Nat)
deriving DecidableEq, Repr

/-- What a thread in MemWait asked for (R89). -/
inductive ReqKind where
  | drain | load | store | atomic | spawnRead | spawnAck | sealing | sealq | send | segRead | ctxWrite
  | hwalk | hins | hdel | tlbi | hotr | pgmv | cpy | cpyq | thin | mref | mrel | mver | gset | dbg
deriving DecidableEq, Repr

/-- A request that left the core: destinations d and e, operand values read at issue, places, size or count, sign, its instruction's
word, which ebad names where a port refuses the result (R416), and held: no plane of the fabric carries it yet (R401). -/
structure Req where
  kind : ReqKind
  word : Word32 := 0
  d : BitVec 4 := 10
  e : BitVec 4 := 10
  vals : List Word := []
  locs : List Loc := []
  n : Nat := 0
  sgn : Bool := false
  held : Bool := false
deriving DecidableEq, Repr

/-- Why a thread is Held (R88); trap: it waits for room in the ring with the trap that it is about to take (R374). -/
inductive HeldWhy where
  | fetch | trap | logFull | replay | push | vwait | fabric
  | yield (n : Nat)
deriving DecidableEq, Repr

/-- What a thread waits for: its STATE 1 to 7 (R88). -/
inductive Wait where
  | ready
  | mem (r : Req)
  | page (pkg off : Nat)
  | sync
  | mat
  | held (h : HeldWhy)
  | stopped
deriving DecidableEq, Repr

/-- An entry of a vector sequencer: instruction, pc, and what its push captured (R86, R233); idx is the next element to
write, pass the vloop pass to run next, acc the elements of a row read by earlier groups (R246), recs the shape records as
checked when the entry began or resumed (R228). -/
structure SeqEntry where
  word : Word32
  pc : Word
  shb : Word
  rnd : BitVec 2
  scl : Word
  idx : Nat
  pass : Nat
  acc : List Nat
  recs : List (List Byte)
deriving DecidableEq, Repr

/-- A thread's vector sequencer (R233 to R239): entries in push order, and the frozen flag (R188). -/
structure Seq where
  ents : List SeqEntry
  frozen : Bool
deriving DecidableEq, Repr

/-- The matrix operation of a thread (R266, R273): instruction word, k-step count; live while it runs or waits in MatWait,
suspended otherwise; zeroed once an admission has applied its zc, which a resumption does not repeat. -/
structure MatOp where
  word : Word32
  n : Nat
  live : Bool
  zeroed : Bool := false
deriving DecidableEq, Repr

/-- An outstanding relaxed access (R140): a load has a landing word. missed: it waits at the memory port for a walk; held: no plane of
the fabric carries it yet (R401). -/
structure Relaxed where
  store : Bool
  place : Loc
  va : Word
  n : Nat
  sgn : Bool
  data : Word
  land : Nat
  missed : Bool
  held : Bool := false
deriving DecidableEq, Repr

/-- A thread (R79 to R85): its packet, its sequencer, its matrix operation and what it waits for. -/
structure Thread where
  pc : Word
  g : Vector Word 10
  p : BitVec 8
  ctx : Nat
  sup : Bool
  tfl : Bool
  df : Bool
  cause : BitVec 8
  epc : Word
  ebad : Word
  rnd : BitVec 2
  scl : Word
  shb : Word
  mprog : BitVec 32
  /-- rmode as it stood at the last issue (R80). -/
  rmode : BitVec 2
  /-- Join-counter address bits [43:0], when the thread names one (R84). -/
  join : Option (BitVec 44)
  seq : Seq
  mat : Option MatOp
  relaxed : List Relaxed
  /-- A relaxed or vector fault found and not yet delivered: a vector fault has its instruction's pc (R143, R188). -/
  relFault : Option Trap
  vecFault : Option (Nat × Word)
  wait : Wait
  /-- Length in bytes of the instruction that issued last, its prefix included (R66). -/
  ilen : Nat
  /-- The prefix of the pair at pc has had its issue turn (R66). -/
  prefixed : Bool
  /-- Created by a handler message (R200). -/
  handler : Bool
  /-- The next instruction fires no hardware breakpoint (R376). -/
  passBp : Bool
  /-- The walker found no entry for this page (R186): package and offset. -/
  noEntry : Option (Nat × Nat)
  /-- The barrier it has arrived at (R181). -/
  arrived : Option Nat
  /-- The cycle by which every issued instruction has delivered (R92), and the own position of the first issue (R93). -/
  delivers : Nat
  start : Nat
  /-- Statuses of the collectives outstanding, in descriptor order, and their destination (R410). -/
  fab : List (Option Word)
  fabD : BitVec 4
  /-- Since which T it has waited for its recorded position on an object, and the object (R371). -/
  replayFrom : Option (Nat × Nat)
deriving DecidableEq, Repr

/-- A child on a deque or in an overflow queue (R167, R203). -/
structure Child where
  packet : List Byte
  pc : Word
  join : Option (BitVec 44)
  sup : Bool
  ctx : Nat
deriving DecidableEq, Repr

/-- Arrivals (R205), and a child placed in the overflow queue (R167): origin is the slot position that a migrated thread
left. -/
inductive Arrival where
  | thread (t : Thread) (origin : Nat)
  | handler (t : Thread)
  | root (t : Thread)
  | child (c : Child)
deriving DecidableEq, Repr

/-- A ring register (R257). -/
structure Ring where
  base : Nat
  tile : Nat
  depth : Nat
  head : Nat
  tail : Nat
  fill : Nat
deriving DecidableEq, Repr

/-- A delivery to a stream (R214): its bytes, its words that hold uncorrectable data (R224), the engine that sent it, its elements,
and the cycle at which it began to wait. -/
structure Delivery where
  data : List Byte
  bad : NatSet
  eng : Nat
  nelem : Nat
  since : Nat
deriving DecidableEq, Repr

/-- A binding of the port table (R209): the context that bound it, element width in bytes, deliveries that wait at the DMA
port and those in the overflow queue, each with its sender (R214). -/
structure Port where
  ctx : Nat
  base : Nat
  size : Nat
  out : Bool
  ew : Nat
  sx : Bool
  head : Nat
  tail : Nat
  unread : Nat
  ovf : Bool
  waiting : List Delivery
  spilled : List Delivery
deriving DecidableEq, Repr

/-- A generation of a core or cluster barrier (R181, R310): participant count, the arrived slot positions, the cycle of the last
arrival, and the largest T that an arrival brought (R364). Once its arrivals have reached the count it waits for its release, and
the next generation begins behind it. -/
structure Barrier where
  count : Nat
  arrived : List Nat
  since : Nat
  t : Nat
deriving DecidableEq, Repr

/-- A block in the transform queue (R216, R219): LENX, NSEC and PARAM; the payload of an expansion; the place in local store
that an expansion writes, or that a compression reads; a compression's output so far; the bit positions in and out; the flags
ERR and UNC; held; the engine whose command waits, and the member of its group that the block is for. -/
structure Block where
  compress : Bool
  lenx : Nat
  nsec : Nat
  param : Nat
  input : List Byte
  place : Nat
  output : List Byte
  inPos : Nat
  outPos : Nat
  err : Bool
  unc : Bool
  held : Bool
  eng : Nat
  member : Nat
deriving DecidableEq, Repr

/-- A compressed block that waits for the DMA turn that sends it (R201, R220): its engine, its ticket bits, its bytes. -/
structure BlockOut where
  eng : Nat
  flags : Nat
  data : List Byte
deriving DecidableEq, Repr

/-- A segment descriptor as a core holds it (R128). -/
structure Seg where
  base : Nat
  limit : Nat
  rights : Nat
  kind : Nat
deriving DecidableEq, Repr

/-- An instruction at the matrix unit (R255): its slot position, its word, what it read at issue, the local-store address that the
checks of a transfer gave (R275), whether admitted, and the cycle of its admission. -/
structure MatEntry where
  tid : Nat
  word : Word32
  a : Word
  b : Word
  la : Nat
  admitted : Bool
  since : Nat
deriving DecidableEq, Repr

/-- Where a core's steal search of a context stands (R204, R324): the victims still to ask, whether a request is out, and the
cycle at which the search found nothing. -/
structure Steal where
  victims : List Nat
  asked : Bool
  since : Nat
deriving DecidableEq, Repr

/-- A contribution travelling on a group's tree (R408 to R412): the member that sent it, the header that a slot compares, its
elements as FP32 patterns or the bytes of a multicast, whether it carries code 6 or a failed read, its counter. -/
structure Chunk where
  grp : Nat
  seq : Nat
  core : Nat
  op : Nat
  count : Nat
  fmt : Nat
  dst : Nat
  dcore : Nat
  vals : List Nat
  bad : Bool
  ctr : Option Nat
deriving DecidableEq, Repr

/-- A contribution that a core has issued, until its fabric port has read its source (R410): the source's linear address and length, the
port, the leaf switch, and the cores that a multicast goes to. The chunk has no elements yet. -/
structure FabRead where
  src : Nat
  n : Nat
  port : Nat
  sw : Nat
  targets : List Nat
  chunk : Chunk
deriving DecidableEq, Repr

/-- A core (08). -/
structure Core where
  rotShr : Bool
  rotPend : Option Bool
  donord : Word
  lastDon : Nat
  slotOff : BitVec 20
  slotPend : Option (List Byte)
  slotTab : List Byte
  lastHandler : Nat
  vbstall : Word
  acctArea : BitVec 10
  acctClr : Bool
  acctSnap : Bool
  /-- Words of a snapshot that has been taken and are still to be written, each in a DMA turn: linear address and value (R222). -/
  acctOut : List (Nat × Nat)
  acctRun : Bool
  acctCnt : NatMap Nat
  /-- Cycles counted so far: those from 0 on. -/
  counted : Nat
  deque : List Child
  ingress : NatMap (List Arrival)
  overflow : NatMap (List Arrival)
  /-- Places of the deque and of the overflow queues reserved by waiting spawns, by context (R167). -/
  dequeRes : NatMap Nat
  overflowRes : NatMap Nat
  reserved : NatSet
  steal : NatMap Steal
  /-- Slots to be spilled by a switch (R321). -/
  toSpill : NatSet
  counters : NatMap (BitVec 32)
  rings : NatMap Ring
  acc : NatMap (BitVec 32)
  /-- Instructions at the matrix unit: the admitted ones in admission order, then the waiting ones in issue order; and the place
  of the operation to be offered the next k-step (R255, R272). -/
  matq : List MatEntry
  matNext : Nat
  ports : NatMap Port
  xq : NatMap (List Word)
  wakes : NatMap (Bool × Word)
  /-- The generations of each barrier, the oldest first. -/
  bars : NatMap (List Barrier)
  xform : List Block
  /-- The thread of slot 14 holds the head block (R218). -/
  xholds : Bool
  /-- Compressed blocks to be sent, the oldest first. -/
  xout : List BlockOut
  /-- Contributions whose sources the fabric port is still to read, in the order of their issue (R410). -/
  fabOut : List FabRead
  segs : NatMap (List Seg)
  /-- Lines of the instruction cache, by 256 bytes of region 0, the most recently used first (R76, R309). -/
  icache : List Nat
  /-- DMA turns that each class of requests has waited (R201). -/
  dmaWait : NatMap Nat
  /-- Entries written so far to the ring of each context's overflow queue (R206). -/
  ovfAt : NatMap Nat
  /-- The core asks to be disabled (R224). -/
  asks : Bool
  disabled : Bool
deriving DecidableEq, Repr

/-- A TLB entry (R289): page by its first region-0 offset in 64 KiB units, size, frame, hotness, and the page-table entry
it came from (home, bucket, way as one number). -/
structure TlbEntry where
  vpn : Nat
  big : Bool
  pfn : Nat
  hot : Nat
  from_ : Nat
deriving DecidableEq, Repr

/-- Where a walk stands (R294): it waits in its home's walk queue, a walker reads its buckets, or its answer is on its way. -/
inductive WalkState where
  | queued | walking | answered
deriving DecidableEq, Repr

/-- Who waits at a memory port for a walk (R186, R294, R301): the thread of a slot position, its relaxed accesses, or a hardware unit:
a copy engine; the hardware that saves, resumes and serves a slot position; a core that reads a context's descriptors; the fabric port
that reads for a core; a core that writes entry i of the ring of a context's overflow queue. -/
inductive Waiter where
  | thread (tid : Nat)
  | relaxed (tid : Nat)
  | engine (e : Nat)
  | slot (tid : Nat)
  | segs (c ctx : Nat)
  | port (c : Nat)
  | ring (c ctx i : Nat)
deriving DecidableEq, Repr

/-- What a walk told a hardware unit that asked for it (R294, R301): the 64 KiB unit it missed in, and whether an entry was found. It
stays until the unit has made the accesses that it asked for. -/
structure WalkNote where
  who : Waiter
  unit : Nat
  found : Bool
deriving DecidableEq, Repr

/-- A walk request (R294): the port's cluster, the region-0 offset, the cycle of the miss that asked for it, where it stands,
who waits, each with the offset that it missed at, and the largest T that a request brought. -/
structure Walk where
  cl : Nat
  off : Nat
  since : Nat
  st : WalkState
  waiters : List (Waiter × Nat)
  t : Nat
deriving DecidableEq, Repr

/-- A descriptor of a copy command as its issue left it (R304): its bytes, and the linear addresses of SRC, DST and TKT. -/
structure CopyDesc where
  bytes : List Byte
  src : Nat
  dst : Nat
  tkt : Nat
deriving DecidableEq, Repr

/-- A copy command (R298 to R307): the core and context that issued it, kind (0 cpy, 1 cpyd, 2 cpyf), its chain of
descriptors, fill value or pattern, and the engine and sequence number of its ticket number. -/
structure CopyCmd where
  core : Nat
  ctx : Nat
  kind : Nat
  descs : List CopyDesc
  val : Word
  eng : Nat
  seq : Nat
deriving DecidableEq, Repr

/-- How far the descriptor that an engine executes has come (R300 to R302): its next block, the bytes that its blocks have taken
from the source and written at the destination, elements written and ticket bits met for every member, how many answers of blocks
and deliveries are still to come, whether the block being compressed is marked UNC, a compressed block that has come back, whether
the descriptor has come to its end, how many members' counters have been counted, and the elements written and ticket bits met at
each member's own destination (R308). -/
structure CopyRun where
  block : Nat
  src : Nat
  dst : Nat
  nelem : Nat
  flags : Nat
  waits : Nat
  unc : Bool
  back : List Byte
  done : Bool
  counted : Nat
  parts : NatMap (Nat × Nat)
deriving DecidableEq, Repr

/-- An entry of an engine's queue: one command, or the members of a combined group in the order they joined (R308); how far its
first descriptor has come, once begun; and the cores that have given that descriptor a DMA turn (R201, log 73). -/
structure Job where
  cmds : List CopyCmd
  combined : Bool
  run : Option CopyRun
  turns : NatSet
deriving DecidableEq, Repr

/-- A copy engine: its queue in arrival order, the next sequence number, disabled (R298, R304, R312). -/
structure Engine where
  queue : List Job
  seq : Nat
  disabled : Bool
deriving DecidableEq, Repr

/-- A window of a combining node (R308): when it opened, and its members. -/
structure CombWindow where
  since : Nat
  members : List CopyCmd
deriving DecidableEq, Repr

/-- An interval of a thinning unit (R342, R343): the issuing context, the SLD's region-0 offset and its bytes as kept at
acceptance, the ticket's linear address or 0, and whether it is in Build. -/
structure Interval where
  cx : Nat
  sld : Nat
  kept : List Byte
  ticket : Nat
  build : Bool
deriving DecidableEq, Repr

/-- A cluster (13). -/
structure Cluster where
  tlb : NatMap (List TlbEntry)
  walks : List Walk
  /-- Answers of walks that hardware units have not used yet (R294). -/
  notes : List WalkNote
  /-- Lines of the sealed-data replica cache by set, the most recently used first (R309). -/
  replica : NatMap (List Nat)
  bars : NatMap (List Barrier)
  windows : List CombWindow
  thin : List Interval
  thinOff : Bool
  /-- Tickets of the thinning unit that wait for a DMA turn of their core: the word's linear address, its value, and the unit's T
  (R201, R343). -/
  tickets : List (Nat × Nat × Nat)
deriving DecidableEq, Repr

/-- An order-log or trace record (R359). -/
structure Rec where
  ts : Nat
  src : Nat
  kind : Nat
  seq : Nat
  obj : Nat
  pc : Nat
  out : Nat
deriving DecidableEq, Repr

/-- A residency map entry of a context (R316), read at creation. -/
structure Resid where
  lsbase : Nat
  lssize : Nat
  slots : Nat
  accs : Nat
  rings : Nat
  cfirst : Nat
  ccount : Nat
  ovfbase : Nat
  ovfcap : Nat
  savebase : Nat
deriving DecidableEq, Repr

/-- The life of a context (R314). -/
inductive CtxState where
  | free | creating | running | halting
deriving DecidableEq, Repr

/-- A die's copy of a context's log registers and log unit (R325, R356 to R369): records waiting to be appended,
dispatched records of a replay with their ring index, retired indices above logprod, appending stopped (R381). -/
structure LogUnit where
  base : Word
  size : Word
  prod : Word
  cons : Word
  pending : List Rec
  dispatched : List (Nat × Rec)
  retired : NatSet
  nextRead : Nat
  stopped : Bool
deriving DecidableEq, Repr

/-- What the core keeps of a spilled thread outside its packet: a frozen sequencer (R189), the row that the vector pipe holds
(R246), a handler thread (R200), an instruction that fires no breakpoint (R376), a suspended matrix operation whose zc is applied (R273). -/
structure SavedMark where
  frozen : Bool
  row : List Nat
  handler : Bool
  passBp : Bool
  zeroed : Bool
deriving DecidableEq, Repr

/-- A context (14, 17). -/
structure Context where
  st : CtxState
  exitCode : BitVec 32
  /-- Connection that launched it and the tag of a response still owed (R388, R390). -/
  conn : Nat
  tag : Nat
  segbase : Word
  trapvec : Word
  replay : BitVec 2
  rtimeout : Word
  seed : Word
  log0 : LogUnit
  log1 : LogUnit
  commpc : Word
  xfrmpc : Word
  root : Nat
  prio : Nat
  domain : Nat
  map : NatMap Resid
  /-- Stochastic counters by tid of the logical core and slot position (R46). -/
  draws : NatMap Word
  seqs : NatMap Nat
  /-- Hardware breakpoints (R376): pc and whether the action is stop. -/
  bps : NatMap (Word × Bool)
  trace : BitVec 3
  /-- Threads with a saved record, by slot position (R190). -/
  saved : NatMap SavedMark
  /-- Units and Vacant slots that wait for their recorded positions (R369, R371), by object and source: since which T, and the
  reason and position of the record last written for it. -/
  waits : NatMap (Nat × List (Nat × Nat))
deriving DecidableEq, Repr

/-- A page-table entry (R293). -/
structure Pte where
  tagw : Word
  frame : Word
  sw : Word
deriving DecidableEq, Repr

/-- A page move in progress (R297): region-0 page, old and new frame, the requesting slot position and destination. -/
structure Move where
  vpn : Nat
  old : Nat
  new : Nat
  tid : Nat
  d : BitVec 4
deriving DecidableEq, Repr

/-- A seal or unseal in progress (R158, R159): the pages still to do, and who waits: a thread, or a host command. -/
structure SealOp where
  pkg : Nat
  undo : Bool
  pages : List Nat
  tid : Option Nat
  conn : Nat
  tag : Nat
deriving DecidableEq, Repr

/-- A host window (R392). -/
structure Window where
  base : Nat
  size : Nat
  haddr : Nat
  ep : Nat
  rights : Nat
  atom : Nat
deriving DecidableEq, Repr

/-- A firmware image as the root of trust keeps it (R395, R396): firmware lists those that have replaced the images that the part
came with. -/
structure Firmware where
  version : Nat
  rollback : Nat
  digest : List Byte
deriving DecidableEq, Repr

/-- A command packet that waits for its connection (R390): the connection, the endpoint that sent it, and its bytes. -/
structure Packet where
  conn : Nat
  ep : Nat
  bytes : List Byte
deriving DecidableEq, Repr

/-- A LOAD KIND 1 under way (R388): its connection and tag, the images still to install, the status bytes so far, and the status
of the response. -/
structure ImageLoad where
  conn : Nat
  tag : Nat
  rest : List (List Byte)
  done : List Byte
  status : Nat
deriving DecidableEq, Repr

/-- A package (18). -/
structure Package where
  pt : NatMap Pte
  shadow : NatMap Word
  sealed : NatMap Nat
  moves : List Move
  seals : List SealOp
  /-- Priority commands whose switch is not complete: connection, tag and context (R321). -/
  switches : List (Nat × Nat × Nat)
  /-- Priorities that wait for a cycle that is a multiple of 16: context and priority (R321). -/
  prios : List (Nat × Nat)
  windows : NatMap Window
  hosts : List Nat
  health : Word
  /-- Command packets that wait for their connections (R390), LOADs of page-table images under way (R388), and threads that a STOP
  is to stop at their next instruction boundary (R379). -/
  inbox : List Packet
  images : List ImageLoad
  stops : List Nat
  /-- Times in ns of the corrected errors of each channel within the last second, and the 256-byte units that scrubbing has found
  uncorrectable once (R385). -/
  chanErrs : NatMap (List Nat)
  scrubbed : NatSet
  /-- Trace records of replay mode on their way to the host, in the order of R365 (R374). -/
  traces : List Rec
  /-- Channels retired by a stack: the channel, and whether its copy is complete (R385). -/
  spare : NatMap (Nat × Bool)
  sublinks : Nat
  linkFaults : NatSet
  lanes : NatMap Nat
  portsDown : NatSet
  logOff : NatSet
  /-- What has failed in the package was repaired while its power was off: its next RESET lifts the disablings (R399, log 71). -/
  repaired : Bool
  firmware : NatMap Firmware
  /-- Images that FWLOAD stored, in effect from the next reset on (R395); resets so far. -/
  stored : NatMap Firmware
  fused : Nat
  recovery : Bool
  resets : Nat
  cap : Nat
  steps : Nat
  off : Bool
  proxy : NatMap (List Nat)
  d : Nat
  dropped : Nat
  transfers : Nat
deriving DecidableEq, Repr

/-- The states of a reduction slot (R412). -/
inductive SlotState where
  | free | collect | up | dead
deriving DecidableEq, Repr

/-- A reduction slot at a switch (R412): its state and sequence number, the chunks by child port, mismatch, and the time in ns at
which the timer started. -/
structure RedSlot where
  st : SlotState
  seq : Nat
  chunks : NatMap Chunk
  bad : Bool
  since : Nat
deriving DecidableEq, Repr

/-- A registration of a group by a package (R405, R407): the context, and the slot position that waits. -/
structure Registration where
  pkg : Nat
  cx : Nat
  tid : Nat
deriving DecidableEq, Repr

/-- A group at its root (R403 to R405): specification, registrations, installed, broken, packages that have cleared it, the time
in ns of the first registration; kept: by core, the resource entry and the s0 descriptor of a context that returned to Free while
results that the root had sent down were on their way to the core (R424). -/
structure Group where
  spec : List Byte
  regs : List Registration
  installed : Bool
  broken : Bool
  cleared : NatSet
  since : Nat
  kept : NatMap (Resid × Seg)
deriving DecidableEq, Repr

/-- A member record (R410, R415): the context, the next sequence number. -/
structure Member where
  cx : Nat
  next : Nat
deriving DecidableEq, Repr

/-- A collective whose status has not returned (R410): the member core, its group and sequence number (from 2^24 on, a number of
the model's own for a multicast), the thread and the place in its chain, or the communication thread; its ticket's address or
0; the writes still to be reported; the code known so far; its log record, to be appended with the code (R417); the time in ns of
its issue; TOUT of its group in µs; cut: a clear reached the root before its decision (R424), or what would end it was lost at a port
that is down (R413, R419); decided: the root has decided its number (R413). -/
structure Outstanding where
  core : Nat
  cx : Nat
  grp : Nat
  seq : Nat
  op : Nat
  tid : Nat
  place : Nat
  comm : Bool
  ticket : Nat
  left : Nat
  code : Nat
  record : Option Rec
  since : Nat
  tout : Nat
  cut : Bool
  decided : Bool
deriving DecidableEq, Repr

/-- The fabric (19): groups, member records by group and core, reduction slots by switch and by 16 x group + slot, collectives
in flight, ports and switches down, the master spine (R402), the next number for a multicast. -/
structure Fabric where
  groups : NatMap Group
  members : NatMap (NatMap Member)
  slots : NatMap (NatMap RedSlot)
  flight : List Outstanding
  down : NatSet
  master : Nat
  /-- The time that the master's last time message carried (R402). -/
  sent : Nat
  casts : Nat
deriving DecidableEq, Repr

/-- What a message carries (R171, R176, R162, R201, R203, R298, R310, R401, R405, R410, R412). -/
inductive Payload where
  | counter (la : Nat) (up : Bool) (tid : Option Nat)
  | wake (tid ctx : Nat) (tag : Word) (sender : Option Nat)
  | handler (core : Nat) (t : Thread) (sender : Option Nat)
  | migrate (core : Nat) (t : Thread) (origin : Nat) (ebad : Word) (past : Bool)
  | refused (t : Thread) (origin : Nat) (ebad : Word)
  | steal (victim core ctx slot : Nat)
  | stolen (core ctx slot victim : Nat) (c : Option Child)
  | copy (eng : Nat) (cmd : CopyCmd) (tid : Nat)
  | delivery (port ctx : Nat) (d : Delivery)
  | block (eng member : Nat) (data : List Byte) (place : Nat) (unc : Bool)
  | barArrive (key : Nat) (tid count : Nat)
  | walkAnswer (cl off : Nat) (e : Option TlbEntry)
  | register (grp : Nat) (r : Registration) (spec : List Byte)
  | chunk (sw port : Nat) (c : Chunk)
  | notice (sw grp seq code : Nat) (c : Option Chunk)
  | write (core : Nat) (c : Chunk) (bytes : List Byte) (targets : List Nat)
  | status (core grp seq code : Nat)
deriving DecidableEq, Repr

/-- A message in flight: its source, destination and channel keep its order with others of the three (R176, R401); t is
its sender's T (R364); out: a plane of the fabric carried it when it was sent (R401). -/
structure Msg where
  src : Nat
  dst : Nat
  chan : Nat
  t : Nat
  out : Bool
  body : Payload
deriving DecidableEq, Repr

/-- What the part sends to hosts (R387, R390, R391): responses, with their header; exits; HEALTH messages, with the health word or
reporting a context (R381, R398); trace records; packets read; answers to management messages. -/
inductive HostMsg where
  | response (pkg conn : Nat) (bytes : List Byte)
  | exit (pkg conn ctx : Nat) (code : BitVec 32)
  | health (pkg host : Nat) (word : Word)
  | report (pkg host ctx : Nat)
  | trace (pkg : Nat) (r : Rec)
  | packet (pkg status : Nat) (body : List Byte)
  | managed (pkg status : Nat)
deriving DecidableEq, Repr

/-- An HBM reservation queue of a bank (R153): requesters in arrival order. -/
abbrev Bank := List Nat

/-- The state of the part and of its surroundings. The first six fields are the model's own (log 1). -/
structure State where
  agenda : List Instr
  turn : Nat
  /-- The waiting thread at the turn's own position has tested its condition in this cycle. -/
  tested : Bool
  cur : Nat
  clock : Nat
  outbox : List HostMsg
  mem : Mem
  full : NatSet
  bad : NatSet
  threads : NatMap Thread
  cores : NatMap Core
  clusters : NatMap Cluster
  engines : NatMap Engine
  ctxs : NatMap Context
  pkgs : NatMap Package
  banks : NatMap Bank
  /-- Nanoseconds that every D has advanced since the domain's bring-up (R402); a package's d is added to it. -/
  ticks : Nat
  tsc : NatMap Nat
  net : List Msg
  fab : Fabric
deriving DecidableEq, Repr

/-- Reasons the machine stops. -/
inductive Fault where
  /-- Raised by the meaning of a word instruction when no thread occupies the slot position it is to run in: only a step
  outside every issue turn could do so. Safe: such a state has no next state. -/
  | noThread
deriving DecidableEq, Repr

/-- Reasons a step is refused. -/
inductive Refusal where
  /-- Raised by an arm of exec whose instruction has no meaning yet, with its mnemonic. Safe: nothing follows from it. -/
  | notModelled (mnemonic : String)
deriving DecidableEq, Repr

/-! The state after reset. -/

/-- The slot table at reset: entry i names slot i mod 15; the ignored entries 30 and 31 are 0xFF (R200, log 4). -/
def slotTabReset : List Byte := (List.range 30).map (fun i => BitVec.ofNat 8 (i % 15)) ++ [0xFF, 0xFF]

def Seq.empty : Seq := { ents := [], frozen := false }

/-- A core at reset (R193, R199, R200, R202, R221, R257; log 4 for the rest). -/
def Core.reset : Core :=
  { rotShr := false, rotPend := none, donord := 0xFEDCBA9876543210, lastDon := 15, slotOff := 0, slotPend := none,
    slotTab := slotTabReset, lastHandler := 15, vbstall := 0, acctArea := 0, acctClr := false, acctSnap := false,
    acctOut := [], acctRun := true, acctCnt := [], counted := 0, deque := [], ingress := [], overflow := [], dequeRes := [], overflowRes := [],
    reserved := [], steal := [], toSpill := [], counters := [], rings := [], acc := [], matq := [], matNext := 0, ports := [],
    xq := [], wakes := [], bars := [], xform := [], xholds := false, xout := [], fabOut := [], segs := [], icache := [], dmaWait := [], ovfAt := [], asks := false, disabled := false }

/-- A cluster at reset (R289, R431; log 4 for the rest). -/
def Cluster.reset : Cluster :=
  { tlb := [], walks := [], notes := [], replica := [], bars := [], windows := [], thin := [], thinOff := false, tickets := [] }

def Engine.reset : Engine := { queue := [], seq := 0, disabled := false }

def LogUnit.reset : LogUnit :=
  { base := 0, size := 0, prod := 0, cons := 0, pending := [], dispatched := [], retired := [], nextRead := 0,
    stopped := false }

/-- A Free context (R431; its registers: log 4). -/
def Context.reset : Context :=
  { st := .free, exitCode := 0, conn := 0, tag := 0, segbase := 0, trapvec := 0, replay := 0, rtimeout := 0, seed := 0,
    log0 := LogUnit.reset, log1 := LogUnit.reset, commpc := 0, xfrmpc := 0, root := 0, prio := 0, domain := 0,
    map := [], draws := [], seqs := [], bps := [], trace := 0, saved := [], waits := [] }

/-- A package at power-on (R431): empty page table, zero shadow tables, every page unsealed, windows disabled, the board's
endpoint in the host table; in recovery where an image that it came with does not verify (R395). -/
def Package.reset (pkg : Nat) : Package :=
  { pt := [], shadow := [], sealed := [], moves := [], seals := [], switches := [], prios := [], windows := [], hosts := [Config.boardEndpoint pkg],
    health := 0, inbox := [], images := [], stops := [], chanErrs := [], scrubbed := [], traces := [], spare := [], sublinks := 16, linkFaults := [], lanes := [], portsDown := [], logOff := [], repaired := false,
    firmware := [], stored := [], fused := 0, recovery := (List.range 4).any fun i => !(Config.factoryImage pkg i).1, resets := 0, cap := 1600, steps := 0, off := false, proxy := [], d := 0,
    dropped := 0, transfers := 0 }

/-- The machine right after reset (R431): every context Free, every slot Vacant, nothing mapped, nothing in flight. -/
def State.reset : State :=
  { agenda := [], turn := 0, tested := false, cur := 0, clock := 0, outbox := [], mem := [], full := [], bad := [], threads := [],
    cores := [], clusters := [], engines := [], ctxs := [], pkgs := [], banks := [], ticks := 0, tsc := [], net := [],
    fab := { groups := [], members := [], slots := [], flight := [], down := [], master := 0, sent := 0, casts := 0 } }

end Sys2Proof.Machine
end

