-- ==== Sys2Proof/Machine/Ids.lean ====
section
/-! DEFINITION. Numbers that name the parts of the machine, the parts of State they name, and time-stamp counters. -/

namespace Sys2Proof.Machine

/-! Cores, slots, clusters (R80, R133). -/

def coreOf (tid : Nat) : Nat := tid / 16
def slotOf (tid : Nat) : Nat := tid % 16
def corePkg (c : Nat) : Nat := c / 2048
def coreDie (c : Nat) : Nat := c / 1024 % 2
def coreNum (c : Nat) : Nat := c % 1024
def corePos (c : Nat) : Nat := coreNum c % 36
def coreAt (pkg die num : Nat) : Nat := pkg * 2048 + die * 1024 + num
def dieKey (c : Nat) : Nat := c / 1024
def clusterOf (c : Nat) : Nat := 32 * corePkg c + 16 * coreDie c + coreNum c / 36
def clPkg (cl : Nat) : Nat := cl / 32
def clDie (cl : Nat) : Nat := cl / 16 % 2
def clBase (cl : Nat) : Nat := coreAt (clPkg cl) (clDie cl) (36 * (cl % 16))
def isService (c : Nat) : Bool := decide (32 ≤ corePos c)

/-- Size of a core's local store (R133). -/
def lsSize (c : Nat) : Nat := if isService c then 0x80000 else 0x100000

/-- Linear address of a byte of a core's local store (R133). -/
def lsAddr (c off : Nat) : Nat := 2 ^ 56 + c * 2 ^ 20 + off

def laCore (la : Nat) : Nat := la / 2 ^ 20 % 2 ^ 24
def laOff (la : Nat) : Nat := la % 2 ^ 20
def laRegion (la : Nat) : Nat := bits la 59 56

/-- The key of a place in memory (log 3). -/
def Loc.key : Loc → Nat
  | .loc la => la
  | .hbm pkg _ phys => 2 ^ 61 + pkg * 2 ^ 40 + phys
  | .host _ ep addr => 2 ^ 80 + ep * 2 ^ 64 + addr

/-! Parts of the state by number. -/

def State.core (s : State) (c : Nat) : Core := s.cores.at Core.reset c
def State.setCore (s : State) (c : Nat) (v : Core) : State := { s with cores := s.cores.put c v }
def State.modCore (s : State) (c : Nat) (f : Core → Core) : State := s.setCore c (f (s.core c))
def State.cluster (s : State) (cl : Nat) : Cluster := s.clusters.at Cluster.reset cl
def State.modCluster (s : State) (cl : Nat) (f : Cluster → Cluster) : State :=
  { s with clusters := s.clusters.put cl (f (s.cluster cl)) }
def State.engine (s : State) (e : Nat) : Engine := s.engines.at Engine.reset e
def State.modEngine (s : State) (e : Nat) (f : Engine → Engine) : State :=
  { s with engines := s.engines.put e (f (s.engine e)) }
def State.ctx (s : State) (cx : Nat) : Context := s.ctxs.at Context.reset cx
def State.modCtx (s : State) (cx : Nat) (f : Context → Context) : State :=
  { s with ctxs := s.ctxs.put cx (f (s.ctx cx)) }
def State.pkg (s : State) (p : Nat) : Package := s.pkgs.at (Package.reset p) p
def State.modPkg (s : State) (p : Nat) (f : Package → Package) : State :=
  { s with pkgs := s.pkgs.put p (f (s.pkg p)) }
def State.thread (s : State) (tid : Nat) : Option Thread := s.threads.find? tid
def State.setThread (s : State) (tid : Nat) (t : Thread) : State := { s with threads := s.threads.put tid t }
def State.vacate (s : State) (tid : Nat) : State := { s with threads := s.threads.del tid }
def State.modThread (s : State) (tid : Nat) (f : Thread → Thread) : State :=
  match s.thread tid with
  | some t => s.setThread tid (f t)
  | none => s
def State.setMem (s : State) (m : Mem) : State := { s with mem := m }
def State.say (s : State) (m : HostMsg) : State := { s with outbox := s.outbox ++ [m] }

/-- The context number of a thread on a core (R313). -/
def cxOf (c : Nat) (t : Thread) : Nat := 4 * corePkg c + t.ctx

/-- A core that exists in the domain and is not disabled (R132, R175). -/
def State.coreOk (s : State) (c : Nat) : Bool :=
  decide (corePkg c < Config.packages) && decide (coreNum c < 576) && !(s.core c).disabled

/-- The residency map entry of a context on a core; none where it is absent (R316). -/
def State.resid (s : State) (cx c : Nat) : Option Resid :=
  match (s.ctx cx).map.find? (576 * coreDie c + coreNum c) with
  | some r => if r.slots = 0 then none else some r
  | none => none

/-- The core of a map index. -/
def mapCore (pkg i : Nat) : Nat := coreAt pkg (i / 576) (i % 576)

/-- The context holds a slot range on the core (R162, R175). -/
def State.holdsSlots (s : State) (cx c : Nat) : Bool :=
  match s.resid cx c with
  | some r => decide (bits r.slots 13 0 ≠ 0)
  | none => false

/-! Duties of a disabled core's logical number (R398): the next enabled core of the same kind in its cluster. -/

/-- The core that performs the duties of a logical number. -/
def State.dutyOf (s : State) (c : Nat) : Nat :=
  let base := c - corePos c
  let lo := if isService c then 32 else 0
  let n := if isService c then 4 else 32
  let cand := (List.range n).map fun k => base + lo + (corePos c - lo + k) % n
  (cand.find? fun x => !(s.core x).disabled).getD c

/-- The core that does the proxy duty of a die: core 32, or the core its duty has moved to (R398); where no service core of its
cluster is left, the other die's (R328); none where both dies have none (log 59). -/
def State.proxyOf (s : State) (dk : Nat) : Option Nat :=
  let own := s.dutyOf (dk * 1024 + 32)
  let other := s.dutyOf ((dk / 2 * 2 + (1 - dk % 2)) * 1024 + 32)
  if (s.core own).disabled = false then some own else if (s.core other).disabled = false then some other else none

/-! Time-stamp counters (R364): places are cores, then engines, thinning units, HBM banks and dies' log units. -/

def engPlace (e : Nat) : Nat := 2 ^ 24 + e
def thinPlace (cl : Nat) : Nat := 2 ^ 25 + cl

/-- The data channel of a stack that holds a physical address: 256-byte unit u lies on channel u mod 32 (R384). -/
def channelOf (phys : Nat) : Nat := phys / 256 % 32

/-- The HBM bank of a physical address: one for each channel of a stack (log 60). -/
def bankPlace (pkg phys : Nat) : Nat := 2 ^ 26 + 512 * pkg + 32 * (phys / 2 ^ 36 % 16) + channelOf phys
def diePlace (dk : Nat) : Nat := 2 ^ 27 + dk
/-- Fabric ports of packages, and the switches that messages pass. -/
def portPlace (pkg port : Nat) : Nat := 2 ^ 28 + 64 * pkg + port
def swPlace (sw : Nat) : Nat := 2 ^ 29 + sw

/-- A cluster's memory port and its barrier hardware, which keep no T of their own: messages to them end there. -/
def unitPlace (cl : Nat) : Nat := 2 ^ 30 + cl

/-- The package of a place. -/
def placePkg (p : Nat) : Nat :=
  if p < 2 ^ 24 then corePkg p else if p < 2 ^ 25 then (p - 2 ^ 24) / 128
  else if p < 2 ^ 26 then (p - 2 ^ 25) / 32 else if p < 2 ^ 27 then (p - 2 ^ 26) / 512 else if p < 2 ^ 28 then (p - 2 ^ 27) / 2
  else if p < 2 ^ 29 then (p - 2 ^ 28) / 64 else if p < 2 ^ 30 then 0 else (p - 2 ^ 30) / 32

/-- The domain time-stamp counter D of a package (R402). -/
def State.domainTime (s : State) (pkg : Nat) : Nat := s.ticks + (s.pkg pkg).d

/-- T of a place: it never stays below D (R364, log 8). -/
def State.time (s : State) (p : Nat) : Nat := max (s.tsc.at 0 p) (s.domainTime (placePkg p))

/-- A message that carries a T arrives at a place (R364). -/
def State.hear (s : State) (p carried : Nat) : State := { s with tsc := s.tsc.put p (max (s.time p) (carried + 1)) }

/-- One place hears from another, and hears its answer. -/
def State.exchange (s : State) (a b : Nat) : State :=
  let s := s.hear b (s.time a)
  s.hear a (s.time b)

/-- A place, and the bank, core or proxy that serves one of its accesses, hear from each other (R364). -/
def State.heardAt (s : State) (c : Nat) (l : Loc) : State :=
  match l with
  | .hbm pkg _ phys => s.exchange c (bankPlace pkg phys)
  | .loc la => if laCore la = c then s else s.exchange c (laCore la)
  | .host dk _ _ => match s.proxyOf dk with | some x => s.exchange c x | none => s

/-- The exchanges of an atomic (R153, R364): under a bank's reservation the requester hears the word, and the bank the release. -/
def State.heardAtomic (s : State) (c : Nat) (l : Loc) : State :=
  match l with
  | .hbm pkg _ phys => (s.heardAt c l).hear (bankPlace pkg phys) ((s.heardAt c l).time c)
  | _ => s.heardAt c l

/-! The fabric's links and switches (R400, R404): the switches of a plane, and the keys of what is down (R419). -/

/-- The leaf of a package in a plane, and a spine, as switch numbers. -/
def leafSw (plane pkg : Nat) : Nat := plane * 32 + pkg / 256
def spineSw (plane sp : Nat) : Nat := plane * 32 + 18 + sp

/-- A package's port (with the leaf's down port that it is wired to), a switch, and a leaf's up port (with the spine's port that it is
wired to). -/
def downPort (pkg port : Nat) : Nat := pkg * 64 + port
def downSw (sw : Nat) : Nat := 2 ^ 32 + sw
def downUp (leaf port : Nat) : Nat := 2 ^ 40 + leaf * 1024 + port

/-- The key of a switch's port, where something is wired to it. -/
def downSwPort (sw port : Nat) : Option Nat :=
  let plane := sw / 32
  if sw % 32 < 18 then
    if port < 512 then some (downPort (256 * (sw % 32) + port / 2) (plane + 18 * (port % 2)))
    else if port < 1016 then some (downUp sw port) else none
  else if port < 1008 then some (downUp (plane * 32 + port / 56) (512 + 56 * (sw % 32 - 18) + port % 56)) else none

/-- A plane carries traffic between two dies: their ports, their leaves, and for two leaves a spine with links to both. -/
def Fabric.planeUp (f : Fabric) (plane a b : Nat) : Bool :=
  let up (k : Nat) : Bool := !NatSet.has f.down k
  let la := leafSw plane (a / 2)
  let lb := leafSw plane (b / 2)
  let link (leaf sp : Nat) : Bool := (List.range 56).any fun k => up (downUp leaf (512 + 56 * sp + k))
  up (downPort (a / 2) (plane + 18 * (a % 2))) && up (downPort (b / 2) (plane + 18 * (b % 2))) && up (downSw la) && up (downSw lb) &&
    (la == lb || (List.range 9).any fun sp => up (downSw (spineSw plane sp)) && link la sp && link lb sp)

/-- Point-to-point traffic between two dies, as 2 x package + die, goes by some plane that is up (R401, R419). -/
def Fabric.reaches (f : Fabric) (a b : Nat) : Bool :=
  f.down.isEmpty || a / 2 == b / 2 || (List.range 18).any fun plane => f.planeUp plane a b

/-- The die of a place that sends or receives point-to-point messages. -/
def placeDie (p : Nat) : Nat :=
  if p < 2 ^ 24 then dieKey p else if p < 2 ^ 25 then 2 * ((p - 2 ^ 24) / 128) + (p - 2 ^ 24) / 64 % 2 else 2 * placePkg p

/-! Messages (R176, R327, R401). Channels: 0 request, 1 reply, 2 migration, 3 log and debug, 4 fabric trees. -/

def State.send (s : State) (src dst chan : Nat) (b : Payload) : State :=
  { s with net := s.net ++ [{ src := src, dst := dst, chan := chan, t := s.time src, out := s.fab.reaches (placeDie src) (placeDie dst), body := b }] }

/-- The n-th message, when no earlier one shares its source, destination and channel and, outside the fabric's trees, some plane of the
fabric carries it or carried it when it was sent: a plane that goes down leaves the hash only once what was sent in it has been
delivered (R401); and the net without it. -/
def State.deliver (s : State) (n : Nat) : Option (Msg × State) :=
  match s.net[n]? with
  | some m =>
    if (s.net.take n).any fun e => e.src = m.src && e.dst = m.dst && e.chan = m.chan then none
    else if m.chan < 16 && !m.out && !s.fab.reaches (placeDie m.src) (placeDie m.dst) then none
    else some (m, ({ s with net := s.net.eraseIdx n }).hear m.dst m.t)
  | none => none

/-! Sets of words by 8-byte word number. -/

/-- Sets the full-empty bit of the word that holds a local-store byte (R145). -/
def State.setFull (s : State) (la : Nat) (v : Bool) : State :=
  { s with full := if v then NatSet.insert s.full (la / 8) else NatSet.remove s.full (la / 8) }

def State.isFull (s : State) (la : Nat) : Bool := NatSet.has s.full (la / 8)

/-- Whether any word of n bytes at a key holds uncorrectable data (R139). -/
def State.isBad (s : State) (key n : Nat) : Bool :=
  s.bad.any fun w => decide (key / 8 ≤ w) && decide (w ≤ (key + n - 1) / 8)

/-- Bytes written make the whole words they cover good again (R385); part of a word leaves its mark. -/
def State.store (s : State) (key n v : Nat) : State :=
  { s with mem := s.mem.write key n v, bad := s.bad.filter fun w => !(decide (key ≤ 8 * w) && decide (8 * w + 8 ≤ key + n)) }

def State.storeBytes (s : State) (key : Nat) (l : List Byte) : State :=
  { s with mem := s.mem.writeBytes key l,
           bad := s.bad.filter fun w => !(decide (key ≤ 8 * w) && decide (8 * w + 8 ≤ key + l.length)) }

end Sys2Proof.Machine
end

