-- ==== Sys2Proof/Machine/Num.lean ====
section
/-! DEFINITION. Number formats and arithmetic (R27 to R51): exact values, decoding of every format, the one rounding of
R39 to R41, conversions R42, the exact operations of R44, summation orders R50 and R51, the stochastic generator R45. -/

namespace Sys2Proof.Machine

/-- The element formats (R27). -/
inductive Fmt where
  | fp32 | bf16 | fp8 | tf8 | tf16 | tf32 | i8 | i32 | ui8 | i16 | i64 | ui32
deriving DecidableEq, Repr

/-- The format of a 4-bit code; codes 12 to 15 are reserved (R27). -/
def Fmt.ofCode : Nat → Option Fmt
  | 0 => some .fp32 | 1 => some .bf16 | 2 => some .fp8 | 3 => some .tf8 | 4 => some .tf16 | 5 => some .tf32
  | 6 => some .i8 | 7 => some .i32 | 8 => some .ui8 | 9 => some .i16 | 10 => some .i64 | 11 => some .ui32
  | _ => none

/-- Width in bits (R27). -/
def Fmt.width : Fmt → Nat
  | .fp32 | .tf32 | .i32 | .ui32 => 32
  | .bf16 | .tf16 | .i16 => 16
  | .fp8 | .tf8 | .i8 | .ui8 => 8
  | .i64 => 64

/-- Width in bytes. -/
def Fmt.bytes (f : Fmt) : Nat := f.width / 8

def Fmt.isTapered : Fmt → Bool
  | .tf8 | .tf16 | .tf32 => true
  | _ => false

def Fmt.isInt : Fmt → Bool
  | .i8 | .i32 | .ui8 | .i16 | .i64 | .ui32 => true
  | _ => false

def Fmt.isFloat (f : Fmt) : Bool := !f.isInt

def Fmt.isSigned : Fmt → Bool
  | .ui8 | .ui32 => false
  | _ => true

/-- An exact real, with the special values: NaN or NaR, the infinities, the signed zeros, and the non-zero
±(m × 2^e). -/
inductive Ex where
  | nan
  | inf (neg : Bool)
  | zero (neg : Bool)
  | fin (neg : Bool) (m : Nat) (e : Int)
deriving DecidableEq, Repr

/-- ±(m × 2^e), which is a zero when m is 0. -/
def Ex.mk (neg : Bool) (m : Nat) (e : Int) : Ex := if m = 0 then .zero neg else .fin neg m e

/-- m1 × 2^e1 ≤ m2 × 2^e2. -/
def dyLe (m1 : Nat) (e1 : Int) (m2 : Nat) (e2 : Int) : Bool :=
  if e2 ≤ e1 then decide (m1 * 2 ^ (e1 - e2).toNat ≤ m2) else decide (m1 ≤ m2 * 2 ^ (e2 - e1).toNat)

def Ex.isNan : Ex → Bool
  | .nan => true
  | _ => false

def Ex.isZero : Ex → Bool
  | .zero _ => true
  | _ => false

/-- The value as a pair (signed significand, exponent): 0 for a zero or a special value. -/
def Ex.parts : Ex → Int × Int
  | .fin neg m e => (if neg then -(m : Int) else m, e)
  | _ => (0, 0)

def Ex.ofInt (v : Int) : Ex := Ex.mk (decide (v < 0)) v.natAbs 0

/-- The integer an exact value names, truncated towards zero; 0 for the special values. -/
def Ex.toInt : Ex → Int
  | .fin neg m e =>
    let a : Nat := if 0 ≤ e then m * 2 ^ e.toNat else m / 2 ^ (-e).toNat
    if neg then -(a : Int) else a
  | _ => 0

/-- Value of a positive IEEE pattern as (m, e): mb fraction bits. The pattern above the greatest finite one gives the
value that R40 takes for it (2^128, or 480 for FP8). -/
def ieeePos (mb bias P : Nat) : Nat × Int :=
  let ex := P / 2 ^ mb
  let fr := P % 2 ^ mb
  if ex = 0 then (fr, 1 - (bias : Int) - mb) else (2 ^ mb + fr, (ex : Int) - bias - mb)

/-- Length of the run of bit b in w at and below bit i, at most fuel bits. -/
def runLen (w : Nat) (b : Bool) : Nat → Nat → Nat
  | 0, _ => 0
  | fuel + 1, i => if w.testBit i = b then 1 + (match i with | 0 => 0 | j + 1 => runLen w b fuel j) else 0

/-- Value of a positive tapered pattern of width n with es exponent bits (R32). -/
def taperPos (n es P : Nat) : Nat × Int :=
  let b := P.testBit (n - 2)
  let k := runLen P b (n - 1) (n - 2)
  let rg : Int := if b then (k : Int) - 1 else -(k : Int)
  let m := (n - 1) - k - 1
  let tail := P % 2 ^ m
  if es ≤ m then
    let fb := m - es
    (2 ^ fb + tail % 2 ^ fb, rg * 2 ^ es + (tail / 2 ^ fb : Nat) - fb)
  else (1, rg * 2 ^ es + (tail * 2 ^ (es - m) : Nat))

/-- Value of a positive pattern of a float format. -/
def Fmt.posVal : Fmt → Nat → Nat × Int
  | .fp32, P => ieeePos 23 127 P
  | .bf16, P => ieeePos 7 127 P
  | .fp8, P => ieeePos 3 7 P
  | .tf8, P => taperPos 8 1 P
  | .tf16, P => taperPos 16 2 P
  | .tf32, P => taperPos 32 2 P
  | _, P => (P, 0)

/-- Pattern of the greatest finite value. -/
def Fmt.maxPat : Fmt → Nat
  | .fp32 => 0x7F7FFFFF | .bf16 => 0x7F7F | .fp8 => 0x7E
  | .tf8 => 0x7F | .tf16 => 0x7FFF | .tf32 => 0x7FFFFFFF
  | .i8 => 127 | .i16 => 32767 | .i32 => 2 ^ 31 - 1 | .i64 => 2 ^ 63 - 1 | .ui8 => 255 | .ui32 => 2 ^ 32 - 1

/-- The canonical NaN, or NaR (R28 to R30, R34). -/
def Fmt.nanPat : Fmt → Nat
  | .fp32 => 0x7FC00000 | .bf16 => 0x7FC0 | .fp8 => 0x7F
  | .tf8 => 0x80 | .tf16 => 0x8000 | .tf32 => 0x80000000
  | .i8 => 0x80 | .i16 => 0x8000 | .i32 => 2 ^ 31 | .i64 => 2 ^ 63 | .ui8 => 0 | .ui32 => 0

/-- The exact value of a pattern (R27 to R32). -/
def Fmt.decode (f : Fmt) (w : Nat) : Ex :=
  let n := f.width
  let w := w % 2 ^ n
  let sgn := w.testBit (n - 1)
  match f with
  | .ui8 | .ui32 => Ex.ofInt w
  | .i8 | .i16 | .i32 | .i64 => Ex.ofInt (if sgn then (w : Int) - 2 ^ n else w)
  | .tf8 | .tf16 | .tf32 =>
    if w = 0 then .zero false
    else if w = 2 ^ (n - 1) then .nan
    else
      let v := f.posVal (if sgn then 2 ^ n - w else w)
      .fin sgn v.1 v.2
  | .fp8 =>
    let P := w % 2 ^ (n - 1)
    if P = 0x7F then .nan else let v := f.posVal P; Ex.mk sgn v.1 v.2
  | .fp32 | .bf16 =>
    let P := w % 2 ^ (n - 1)
    if P = f.maxPat + 1 then .inf sgn
    else if f.maxPat < P then .nan
    else let v := f.posVal P; Ex.mk sgn v.1 v.2

/-- The greatest positive pattern, at most the greatest finite one, whose value is at most m × 2^e: its bits are found
from the top, because value rises with pattern in every format. -/
def floorPat (f : Fmt) (m : Nat) (e : Int) : Nat → Nat → Nat
  | 0, P => P
  | k + 1, P =>
    let Q := P + 2 ^ k
    let v := f.posVal Q
    floorPat f m e k (if Q ≤ f.maxPat ∧ dyLe v.1 v.2 m e then Q else P)

/-- A rounding mode in effect (R37). -/
inductive RMode where
  | rne | rtz | sr
deriving DecidableEq, Repr

/-- Whether the upper neighbour b is chosen for a ≤ |x| < b (R39); the three values are given over one exponent, and
odd says whether a's pattern has bit 0 set. -/
def chooseUp (mode : RMode) (u : Nat) (odd : Bool) (a x b : Nat) : Bool :=
  match mode with
  | .rtz => false
  | .rne => decide (b - x < x - a) || (decide (b - x = x - a) && odd)
  | .sr => decide (u < 65536 * (x - a) / (b - a))

/-- Rounds the magnitude m × 2^e to the pattern P below it or to P + 1 (R39). -/
def roundMag (f : Fmt) (mode : RMode) (u P m : Nat) (e : Int) : Nat :=
  let va := f.posVal P
  let vb := f.posVal (P + 1)
  let e0 := min e (min va.2 vb.2)
  let al (v : Nat × Int) : Nat := v.1 * 2 ^ (v.2 - e0).toNat
  let a := if P = 0 then 0 else al va
  if chooseUp mode u (P % 2 = 1) a (al (m, e)) (al vb) then P + 1 else P

/-- Puts the sign on a magnitude pattern: sign bit, or two's complement for the tapered formats (R32). -/
def Fmt.signed (f : Fmt) (neg : Bool) (P : Nat) : Nat :=
  if neg then (if f.isTapered then (2 ^ f.width - P) % 2 ^ f.width else P + 2 ^ (f.width - 1)) else P

/-- Bounds of an integer format (R31). -/
def Fmt.intMin (f : Fmt) : Int := if f.isSigned then -(2 ^ (f.width - 1)) else 0
def Fmt.intMax (f : Fmt) : Int := if f.isSigned then 2 ^ (f.width - 1) - 1 else 2 ^ f.width - 1

/-- Saturates an integer to an integer format and gives its pattern (R31). -/
def Fmt.saturate (f : Fmt) (v : Int) : Nat := ((max f.intMin (min f.intMax v)) % 2 ^ f.width).toNat

/-- Rounds the magnitude to an integer (R39). -/
def roundNat (mode : RMode) (u m : Nat) (e : Int) : Nat :=
  if 0 ≤ e then m * 2 ^ e.toNat
  else
    let d := 2 ^ (-e).toNat
    let a := m / d
    if chooseUp mode u (a % 2 = 1) (a * d) m ((a + 1) * d) then a + 1 else a

/-- The one rounding of an exact value into a format (R39 to R42); sat is the SAT field (R40). -/
def Fmt.round (f : Fmt) (mode : RMode) (u : Nat) (sat : Bool) (x : Ex) : Nat :=
  match x with
  | .nan => f.nanPat
  | .inf neg =>
    match f with
    | .fp32 | .bf16 => f.signed neg (f.maxPat + 1)
    | .fp8 => if sat then f.signed neg f.maxPat else f.nanPat
    | .tf8 | .tf16 | .tf32 => f.nanPat
    | _ => f.saturate (if neg then f.intMin else f.intMax)
  | .zero neg =>
    match f with
    | .fp32 | .bf16 | .fp8 => f.signed neg 0
    | _ => 0
  | .fin neg m e =>
    if f.isInt then
      let a : Int := roundNat mode u m e
      f.saturate (if neg then -a else a)
    else
      let top := f.posVal (f.maxPat + 1)
      match f with
      | .tf8 | .tf16 | .tf32 =>
        let mx := f.posVal f.maxPat
        if dyLe mx.1 mx.2 m e then f.signed neg f.maxPat
        else
          let P := floorPat f m e (f.width - 1) 0
          f.signed neg (if P = 0 then 1 else roundMag f mode u P m e)
      | .fp8 =>
        -- beyond 480, or b chosen between 448 and 480 (R40)
        let beyond := dyLe top.1 top.2 m e
        let P := floorPat f m e (f.width - 1) 0
        let Q := if beyond then f.maxPat + 1 else roundMag f mode u P m e
        if f.maxPat < Q then (if sat then f.signed neg f.maxPat else f.nanPat) else f.signed neg Q
      | _ =>
        if dyLe top.1 top.2 m e then f.signed neg (if mode = .rtz then f.maxPat else f.maxPat + 1)
        else f.signed neg (roundMag f mode u (floorPat f m e (f.width - 1) 0) m e)

/-! Exact operations (R44). -/

def Ex.neg : Ex → Ex
  | .nan => .nan
  | .inf n => .inf (!n)
  | .zero n => .zero (!n)
  | .fin n m e => .fin (!n) m e

def Ex.abs : Ex → Ex
  | .nan => .nan
  | .inf _ => .inf false
  | .zero _ => .zero false
  | .fin _ m e => .fin false m e

def Ex.sign : Ex → Bool
  | .nan => false
  | .inf n | .zero n | .fin n _ _ => n

/-- Exact sum; an exact zero is −0 when every term is −0 and +0 otherwise (R44). -/
def Ex.add (x y : Ex) : Ex :=
  match x, y with
  | .nan, _ | _, .nan => .nan
  | .inf a, .inf b => if a = b then .inf a else .nan
  | .inf a, _ => .inf a
  | _, .inf b => .inf b
  | .zero a, .zero b => .zero (a && b)
  | .zero _, y => y
  | x, .zero _ => x
  | .fin a m e, .fin b n d =>
    let e0 := min e d
    let s (g : Bool) (v : Nat) : Int := if g then -(v : Int) else v
    let t := s a (m * 2 ^ (e - e0).toNat) + s b (n * 2 ^ (d - e0).toNat)
    if t = 0 then .zero false else .fin (decide (t < 0)) t.natAbs e0

def Ex.sub (x y : Ex) : Ex := x.add y.neg

def Ex.mul (x y : Ex) : Ex :=
  match x, y with
  | .nan, _ | _, .nan => .nan
  | .inf a, .inf b => .inf (a != b)
  | .inf a, .fin b _ _ | .fin a _ _, .inf b => .inf (a != b)
  | .inf _, .zero _ | .zero _, .inf _ => .nan
  | .zero a, .zero b | .zero a, .fin b _ _ | .fin a _ _, .zero b => .zero (a != b)
  | .fin a m e, .fin b n d => .fin (a != b) (m * n) (e + d)

/-- Bits carried by a quotient or a root beyond the operands: more than any rounding threshold needs. -/
def guardBits : Nat := 128

/-- A quotient that is not a dyadic number stands as the midpoint of the cell of a fine grid that holds it: every
neighbour and every threshold of R39 lies on that grid, so it rounds as the quotient does. -/
def Ex.div (x y : Ex) : Ex :=
  match x, y with
  | .nan, _ | _, .nan => .nan
  | .inf _, .inf _ => .nan
  | .inf a, .zero b | .inf a, .fin b _ _ => .inf (a != b)
  | .zero _, .zero _ => .nan
  | .zero a, .inf b | .zero a, .fin b _ _ => .zero (a != b)
  | .fin a _ _, .inf b => .zero (a != b)
  | .fin a _ _, .zero b => .inf (a != b)
  | .fin a m e, .fin b n d =>
    let k := guardBits + n.log2
    let q := m * 2 ^ k / n
    if m * 2 ^ k % n = 0 then .fin (a != b) q (e - d - k) else .fin (a != b) (2 * q + 1) (e - d - k - 1)

/-- Integer square root by bits: greatest r with r × r ≤ n, r below 2^fuel. -/
def isqrt (n : Nat) : Nat → Nat → Nat
  | 0, r => r
  | k + 1, r => isqrt n k (if (r + 2 ^ k) * (r + 2 ^ k) ≤ n then r + 2 ^ k else r)

/-- Exact square root, on a fine grid as Ex.div (R112). -/
def Ex.sqrt : Ex → Ex
  | .nan => .nan
  | .inf n => if n then .nan else .inf false
  | .zero n => .zero n
  | .fin true _ _ => .nan
  | .fin false m e =>
    let m0 := if e % 2 = 0 then m else 2 * m
    let e0 := if e % 2 = 0 then e else e - 1
    let v := m0 * 2 ^ (2 * guardBits)
    let r := isqrt v (v.log2 / 2 + 1) 0
    let h := e0 / 2 - guardBits
    if r * r = v then .fin false r h else .fin false (2 * r + 1) (h - 1)

/-- x × 2^k; a shift beyond every format's range is as good as any larger one. -/
def Ex.scale (x : Ex) (k : Int) : Ex :=
  match x with
  | .fin n m e => .fin n m (e + max (-4096) (min 4096 k))
  | x => x

/-- Comparison of two numbers that are not NaN: x < y. -/
def Ex.lt (x y : Ex) : Bool :=
  match x, y with
  | .nan, _ | _, .nan => false
  | .inf a, .inf b => a && !b
  | .inf a, _ => a
  | _, .inf b => !b
  | x, y =>
    let a := x.parts
    let b := y.parts
    let e0 := min a.2 b.2
    decide (a.1 * 2 ^ (a.2 - e0).toNat < b.1 * 2 ^ (b.2 - e0).toNat)

/-- Equality of value; false when either is NaN. -/
def Ex.eqv (x y : Ex) : Bool := !x.isNan && !y.isNan && !x.lt y && !y.lt x

/-- Rounds the significand to 32 bits, nearest even, with no bound on the exponent (R35, R50). -/
def Ex.roundWide : Ex → Ex
  | .fin n m e =>
    let l := m.log2
    if l ≤ 31 then .fin n m e
    else
      let k := l - 31
      .fin n (roundNat .rne 0 m (-(k : Int))) (e + k)
  | x => x

/-- Rounds to FP32, nearest even, and gives the value back. -/
def Ex.roundFp32 (x : Ex) : Ex := Fmt.fp32.decode (Fmt.fp32.round .rne 0 true x)

/-- IEEE minimum and maximum with −0 below +0; a NaN operand gives the other one (R113). -/
def Ex.lessIeee (x y : Ex) : Bool := x.lt y || (x.isZero && y.isZero && x.sign && !y.sign)

/-! Summation orders (R50, R51). -/

/-- One level of the tree: nodes 2i and 2i+1 are paired, an unpaired last node passes on unchanged. -/
def pairLevel (add : Ex → Ex → Ex) : List Ex → List Ex
  | a :: b :: r => add a b :: pairLevel add r
  | r => r

/-- The chunk result after k levels. -/
def treeSum (add : Ex → Ex → Ex) : Nat → List Ex → Ex
  | 0, l => l.headD (.zero false)
  | k + 1, l => treeSum add k (pairLevel add l)

/-- Cuts a list into chunks of 64 and reduces each by the tree of six levels. -/
def chunkSums (add : Ex → Ex → Ex) : Nat → List Ex → List Ex
  | 0, _ => []
  | fuel + 1, l => if l.isEmpty then [] else treeSum add 6 (l.take 64) :: chunkSums add fuel (l.drop 64)

/-- The reduction of R50 before its last rounding: wide says that the nodes round to the wide format. -/
def reduceSum (wide : Bool) (l : List Ex) : Ex :=
  let add (x y : Ex) : Ex := let s := x.add y; if wide then s.roundWide else s.roundFp32
  match chunkSums add (l.length / 64 + 1) l with
  | [] => .zero false
  | c :: cs => cs.foldl add c

/-- The combining of a switch: children in ascending port order, each step rounded to FP32 (R51). -/
def switchSum (l : List Ex) : Ex :=
  match l with
  | [] => .zero false
  | c :: cs => cs.foldl (fun a x => (a.add x).roundFp32) c

/-! Stochastic rounding (R45). -/

/-- The 16 bits drawn for a counter value (R45). -/
def drawBits (lcn : Nat) (pos : Nat) (seed ctr : Word) : Nat :=
  let w : Word := BitVec.ofNat 64 (lcn % 2 ^ 32 * 16 + pos)
  let z : Word := (ctr ^^^ seed) + w * 0x9E3779B97F4A7C15
  let z : Word := (z ^^^ (z >>> 30)) * 0xBF58476D1CE4E5B9
  let z : Word := (z ^^^ (z >>> 27)) * 0x94D049BB133111EB
  let z : Word := z ^^^ (z >>> 31)
  z.toNat / 2 ^ 48

end Sys2Proof.Machine
end

