-- ==== Sys2Proof/Machine/Ops.lean ====
section
/-! DEFINITION. The shared operations: segment checks and translation (R127 to R133, R288 to R294), reading and writing
places, trace and log records (R356 to R374), taking a trap and returning from one (R83, R120), waiting, retiring,
stochastic draws (R45), migration (R162). -/

namespace Sys2Proof.Machine

/-- The field of n bytes at offset o of a record (R22). -/
def field (l : List Byte) (o n : Nat) : Nat := leNat ((l.drop o).take n)

/-! Segments (R127 to R132). -/

def segR : Nat := 1
def segW : Nat := 2
def segX : Nat := 4

def vaSeg (va : Word) : Nat := va.toNat / 2 ^ 61
def vaOff (va : Word) : Nat := va.toNat % 2 ^ 61

/-- A core's copy of a context's segment descriptor; an absent copy is invalid (R128, R129). -/
def State.seg (s : State) (c ctx i : Nat) : Seg :=
  (((s.core c).segs.at [] ctx)[i]?).getD { base := 0, limit := 0, rights := 0, kind := 0 }

/-- A descriptor of s1 to s7 that refuses every access (R128). -/
def Seg.refused (d : Seg) : Bool := d.kind != 1 || decide (2 ^ 60 ≤ d.base) || decide (8 ≤ d.rights)

/-- The linear base of s0 on a core (R130). -/
def State.s0Base (s : State) (c cx : Nat) : Nat :=
  lsAddr c (match s.resid cx c with | some r => r.lsbase | none => 0)

/-- Size of a context's local-store share on a core (R316). -/
def State.shareSize (s : State) (c cx : Nat) : Nat :=
  match s.resid cx c with | some r => r.lssize | none => 0

/-- The host window that covers a region-3 offset (R392): its EP names an entry of the host table (log 65). -/
def State.window (s : State) (pkg off : Nat) : Option Window :=
  (List.find? (fun e : Nat × Window => decide (e.2.base ≤ off) && decide (off < e.2.base + e.2.size) &&
    decide (e.2.ep < (s.pkg pkg).hosts.length)) (s.pkg pkg).windows).map (·.2)

/-- The endpoint that a window's EP names (R392). -/
def State.endpointOf (s : State) (pkg : Nat) (w : Window) : Nat := (s.pkg pkg).hosts.getD w.ep 0

/-- Decoding of a linear address by its region (R132): false where it fails. -/
def State.decodes (s : State) (pkg la : Nat) : Bool :=
  match laRegion la with
  | 0 => decide (bits la 55 43 = 0)
  | 1 => decide (bits la 55 44 = 0) && s.coreOk (laCore la) && decide (laOff la < lsSize (laCore la))
  | 2 => decide (bits la 55 43 < Config.packages)
  | 3 => (s.window pkg (bits la 55 0)).isSome
  | _ => false

/-- The first check of R131: a refused descriptor (R128), or an s0 that exceeds the core's share (R317). -/
def State.segRefuses (s : State) (c ctx i : Nat) : Bool :=
  let d := s.seg c ctx i
  decide ((i ≠ 0 ∧ d.refused = true) ∨ (i = 0 ∧ s.shareSize c (4 * corePkg c + ctx) < d.limit))

/-- The checks of R131 for n bytes at va on core c for a context, needing rights, with alignment al. -/
def State.check (s : State) (c ctx : Nat) (va : Word) (n need al : Nat) : Except Trap Nat :=
  let cx := 4 * corePkg c + ctx
  let i := vaSeg va
  let off := vaOff va
  let d := s.seg c ctx i
  if s.segRefuses c ctx i then .error ⟨4, va⟩
  else if d.limit < off + n then .error ⟨3, va⟩
  else if need &&& d.rights ≠ need then .error ⟨4, va⟩
  else
    let la := (if i = 0 then s.s0Base c cx else d.base) + off
    if 2 ^ 60 ≤ la ∨ 3 < laRegion la then .error ⟨3, va⟩
    else if la % al ≠ 0 then .error ⟨6, va⟩
    else if s.decodes (corePkg c) la = false then .error ⟨7, va⟩
    else .ok la

/-- A region-2 address that names this package is the region-0 address with the same offset (R132). -/
def canonLa (pkg la : Nat) : Nat := if laRegion la = 2 ∧ bits la 55 43 = pkg then bits la 42 0 else la

/-! The page table (R288 to R294). -/

def mix (x : Nat) : Nat := x * 0x9E3779B97F4A7C15 % 2 ^ 64 / 2 ^ 32

/-- The home of a region-0 offset, and the buckets of its entry by size (R291). -/
def homeOf (off : Nat) : Nat := bits (mix (off / 2 ^ 21)) 5 0
def bucketBig (off : Nat) : Nat := bits (mix (off / 2 ^ 21 * 2 + 1)) 31 16
def bucketSmall (off : Nat) : Nat := bits (mix (off / 2 ^ 16 * 2)) 31 16

/-- Number of way 0 of a bucket in a die's replica. -/
def wayIndex (die home bucket : Nat) : Nat := ((die * 64 + home) * 65536 + bucket) * 8

def Pte.valid (e : Pte) : Bool := e.tagw.getLsbD 63
def Pte.big (e : Pte) : Bool := e.tagw.getLsbD 62
def Pte.moving (e : Pte) : Bool := e.tagw.getLsbD 61
def Pte.vpn (e : Pte) : Nat := e.tagw.toNat % 2 ^ 27
def Pte.pfn (e : Pte) : Nat := e.frame.toNat % 2 ^ 24

/-- Units of 64 KiB in a page. -/
def pageUnits (big : Bool) : Nat := if big then 32 else 1

/-- An entry's range covers an offset. -/
def Pte.covers (e : Pte) (big : Bool) (off : Nat) : Bool :=
  e.valid && (e.big == big) && decide (e.vpn ≤ off / 65536) && decide (off / 65536 < e.vpn + pageUnits big)

/-- First entry of a bucket that covers the offset: its number and the entry. -/
def findWay (pt : NatMap Pte) (big : Bool) (off base : Nat) : Option (Nat × Pte) :=
  (List.range 8).findSome? fun w =>
    match pt.find? (base + w) with
    | some e => if e.covers big off then some (base + w, e) else none
    | none => none

/-- The walk of R294 over one die's replica. -/
def Package.walk (k : Package) (die off : Nat) : Option (Nat × Pte) :=
  let h := homeOf off
  match findWay k.pt true off (wayIndex die h (bucketBig off)) with
  | some r => some r
  | none => findWay k.pt false off (wayIndex die h (bucketSmall off))

/-- Physical address that an entry gives an offset (R293). -/
def physOf (vpn pfn off : Nat) : Nat := pfn * 65536 + (off - vpn * 65536)

def tlbSet (big : Bool) (off : Nat) : Nat := if big then bits off 29 21 else bits off 24 16

def TlbEntry.covers (e : TlbEntry) (off : Nat) : Bool :=
  decide (e.vpn ≤ off / 65536) && decide (off / 65536 < e.vpn + pageUnits e.big)

/-- The entry of a port's TLB that covers an offset (R289). -/
def Cluster.tlbFind (k : Cluster) (off : Nat) : Option TlbEntry :=
  let probe (big : Bool) := (k.tlb.at [] (tlbSet big off)).find? fun e => e.big == big && e.covers off
  match probe true with
  | some e => some e
  | none => probe false

/-- Adds 1 to the hotness of an entry that translated an access, and makes it the most recently used (R289). -/
def Cluster.tlbTouch (k : Cluster) (e : TlbEntry) : Cluster :=
  let i := tlbSet e.big (e.vpn * 65536)
  let rest := (k.tlb.at [] i).filter fun x => !(x.big == e.big && x.vpn == e.vpn)
  { k with tlb := k.tlb.put i ({ e with hot := min 0xFFFF (e.hot + 1) } :: rest) }

/-- A counter written back to its shadow entry (R290). -/
def shadowAdd (w : Word) (hot : Nat) : Word :=
  BitVec.ofNat 64 (min 0xFFFF (bits w.toNat 47 32 + 1) * 2 ^ 32 + min 0xFFFFFFFF (bits w.toNat 31 0 + hot))

/-- Entries leave a port's TLB with their counters written back in the port's own die (R290). -/
def State.writeBack (s : State) (cl : Nat) (l : List TlbEntry) : State :=
  s.modPkg (clPkg cl) fun k =>
    { k with shadow := l.foldl (fun m e =>
        let i := (clDie cl * 2 ^ 25) + e.from_ % 2 ^ 25
        m.put i (shadowAdd (m.at 0 i) e.hot)) k.shadow }

/-- Fills a port's TLB: an entry of the same page, or else the least recently used way of the set, is replaced, with its counter
written back (R289, R290). -/
def State.tlbFill (s : State) (cl : Nat) (e : TlbEntry) : State :=
  let i := tlbSet e.big (e.vpn * 65536)
  let same (x : TlbEntry) : Bool := x.big == e.big && x.vpn == e.vpn
  let set := (s.cluster cl).tlb.at [] i
  let old := set.filter fun x => !same x
  let s := s.modCluster cl fun k => { k with tlb := k.tlb.put i ((e :: old).take 8) }
  s.writeBack cl (set.filter same ++ old.drop 7)

/-- Removes the entries that satisfy a test from every port of a package, with write-back (R290, R296). -/
def State.tlbDrop (s : State) (pkg : Nat) (f : TlbEntry → Bool) : State :=
  s.clusters.foldl (fun s kv =>
    if clPkg kv.1 = pkg then
      let gone := (kv.2.tlb.flatMap (·.2)).filter f
      let s := s.modCluster kv.1 fun k => { k with tlb := k.tlb.mapVals fun _ l => l.filter fun e => !f e }
      if gone.isEmpty then s else s.writeBack kv.1 gone
    else s) s

/-- The port that translates a region-0 offset of a package for a core: its own cluster's, or at a peer package the one
that R154 selects (R288). -/
def portOf (c pkg off : Nat) : Nat :=
  if corePkg c = pkg then clusterOf c
  else 32 * pkg + 16 * bits (bits off 27 21) 6 6 + bits (bits off 27 21) 5 2

/-- Where a region-0 offset of a package stands now: through the page table's entry, or where it stood at translation. -/
def State.place (s : State) (l : Loc) : Loc :=
  match l with
  | .hbm pkg off phys =>
    match (s.pkg pkg).walk 0 off with
    | some (_, e) => .hbm pkg off (physOf e.vpn e.pfn off)
    | none => .hbm pkg off phys
  | l => l

/-- The word at a segmented address, read through the page table (R76, R294). -/
def State.wordAt (s : State) (c : Nat) (t : Thread) (pc : Word) : Option Word32 :=
  match s.check c t.ctx pc 4 segX 4 with
  | .error _ => none
  | .ok la =>
    let l := s.place (.hbm (corePkg c) (canonLa (corePkg c) la) 0)
    if laRegion (canonLa (corePkg c) la) = 0 then some (BitVec.ofNat 32 (s.mem.read l.key 4)) else none

/-! The page table as bytes of HBM (R292, R293): an area that no frame of region 0 names, kept once, as entries. -/

/-- Physical address of the shard of a home on a die (R292). -/
def shardBase (die home : Nat) : Nat := (6 * die + 5) * 2 ^ 36 + 48000000000 - 1280 * 2 ^ 20 + 20 * 2 ^ 20 * home

/-- The bytes of an entry (R293). -/
def Pte.image (e : Pte) : List Byte := leBytes 8 e.tagw.toNat ++ leBytes 8 e.frame.toNat ++ leBytes 8 0 ++ leBytes 8 e.sw.toNat

/-- The byte of a shard at an offset: 16 MiB of buckets, 4 MiB of shadow entries (R292). -/
def Package.shardByte (k : Package) (die home o : Nat) : Byte :=
  let way := wayIndex die home 0
  if o < 2 ^ 24 then (match k.pt.find? (way + o / 32) with | some e => e.image.getD (o % 32) 0 | none => 0)
  else (leBytes 8 (k.shadow.at 0 (way + (o - 2 ^ 24) / 8)).toNat).getD (o % 8) 0

/-- A byte of a package's HBM by physical address: of a shard, or of the memory that frames name. -/
def State.hbmByte (s : State) (pkg phys : Nat) : Byte :=
  let die := phys / 2 ^ 36 / 6
  let base := shardBase die 0
  if phys / 2 ^ 36 % 6 = 5 ∧ base ≤ phys ∧ phys < base + 1280 * 2 ^ 20 then
    (s.pkg pkg).shardByte die ((phys - base) / (20 * 2 ^ 20)) ((phys - base) % (20 * 2 ^ 20))
  else s.mem.byte (Loc.hbm pkg 0 phys).key

/-- Result of a translation: a place, or a page to walk for at a port. -/
inductive Xlat where
  | ok (l : Loc)
  | miss (pkg off : Nat)
deriving DecidableEq, Repr

/-- The place of a linear address for an access by core c (R132, R288), and the state with the TLB touched. -/
def State.translate (s : State) (c la : Nat) : Xlat × State :=
  let pkg := corePkg c
  let la := canonLa pkg la
  match laRegion la with
  | 1 => (.ok (.loc la), s)
  | 3 =>
    let off := bits la 55 0
    match s.window pkg off with
    | some w => (.ok (.host (dieKey c) (s.endpointOf pkg w) (w.haddr + (off - w.base))), s)
    | none => (.ok (.host (dieKey c) 0 0), s)
  | r =>
    let q := if r = 2 then bits la 55 43 else pkg
    let off := bits la 42 0
    let cl := portOf c q off
    match (s.cluster cl).tlbFind off with
    | some e => (.ok (.hbm q off (physOf e.vpn e.pfn off)), s.modCluster cl fun k => k.tlbTouch e)
    | none => (.miss q off, s)

/-- The bytes of a response: its 32-byte header, then the body, of which 4,064 bytes go at most (R387, log 72). -/
def responseBytes (tag op ctx status : Nat) (body : List Byte) : List Byte :=
  let body := body.take 4064
  leBytes 1 op ++ leBytes 1 status ++ leBytes 1 ctx ++ leBytes 5 0 ++ leBytes 8 tag ++ leBytes 4 body.length ++ leBytes 12 0 ++ body

/-- Sends a response (R387, R389). -/
def State.respond (s : State) (pkg conn tag op ctx status : Nat) (body : List Byte) : State :=
  s.say (.response pkg conn (responseBytes tag op ctx status body))

/-- Two offsets lie in one page of a die's page table: in one 64 KiB unit, or in the range of one entry (R293, R294). -/
def Package.samePage (k : Package) (die a b : Nat) : Bool :=
  a / 65536 == b / 65536 || (match k.walk die a with | some (_, e) => e.covers e.big b | none => false)

/-- The place whose T a waiter's request carries, and which hears the answer (R364). -/
def Waiter.place : Waiter → Nat
  | .thread tid => coreOf tid
  | .relaxed tid => coreOf tid
  | .engine e => engPlace e
  | .slot tid => coreOf tid
  | .segs c _ => c
  | .port c => c
  | .ring c _ _ => c

/-- Sends a walk request to the home core on the port's die; misses on one page at one port are merged into one walk until its
answer has arrived (R294). -/
def State.askWalk (s : State) (cl off : Nat) (who : Waiter) : State :=
  let t := s.time who.place
  let same (w : Walk) : Bool := (s.pkg (clPkg cl)).samePage (clDie cl) off w.off
  let joined (l : List (Waiter × Nat)) : List (Waiter × Nat) := if l.contains (who, off) then l else l ++ [(who, off)]
  s.modCluster cl fun k =>
    match k.walks.find? same with
    | some x => { k with walks := k.walks.map fun w =>
        if w.off = x.off then { w with waiters := joined w.waiters, t := max w.t t } else w }
    | none =>
      { k with walks := k.walks ++ [{ cl := cl, off := off, since := s.clock, st := .queued, waiters := [(who, off)], t := t }] }

/-! A hardware unit's accesses through a memory port: a page that the TLB lacks is walked for like a thread's, and the unit waits for
the answer (R288, R294, R301). -/

/-- What a walk told a unit about the 64 KiB unit of an offset. -/
def State.noted (s : State) (who : Waiter) (cl off : Nat) : Option Bool :=
  ((s.cluster cl).notes.find? fun x => x.who == who && x.unit == off / 65536).map (·.found)

/-- The first of some offsets that a unit has to walk for: the TLB lacks its page and no walk has told about it. None past a page
that has no entry, where the unit stops. -/
def State.portMiss (s : State) (who : Waiter) (cl : Nat) (offs : List Nat) : Option Nat :=
  (offs.takeWhile fun o => s.noted who cl o != some false).find? fun o =>
    ((s.cluster cl).tlbFind o).isNone && (s.noted who cl o).isNone

/-- A unit has made the accesses that it walked for. -/
def State.dropNotes (s : State) (who : Waiter) : State :=
  { s with clusters := s.clusters.mapVals fun _ k => { k with notes := k.notes.filter fun x => x.who != who } }

/-- What a unit does once the pages of some offsets have been walked for; until then it asks for the first that it lacks, and tries
again. -/
def State.withPages (s : State) (who : Waiter) (cl : Nat) (offs : List Nat) (k : State → State) : State :=
  match s.portMiss who cl offs with
  | some o => s.askWalk cl o who
  | none => (k s).dropNotes who

/-- The pages' first offsets, in a range of n bytes of region 0 (at most a page's) and at its end. -/
def rangeOffs (off n : Nat) : List Nat := if n ≤ 1 ∨ off / 65536 = (off + n - 1) / 65536 then [off] else [off, off + n - 1]

/-- The place of a region-0 offset of a package for a hardware unit of a die's cluster, through the cluster's memory port (R288):
none where its walk found no entry. A page that was found, and whose entry the same unit's other accesses have pushed out of the TLB
before it is used, is filled again in the same step (log 35). -/
def State.portPlaceOf (s : State) (who : Waiter) (cl off : Nat) : Option Loc × State :=
  match (s.cluster cl).tlbFind off with
  | some e => (some (.hbm (clPkg cl) off (physOf e.vpn e.pfn off)), s.modCluster cl fun k => k.tlbTouch e)
  | none =>
    if s.noted who cl off = some false then (none, s)
    else match (s.pkg (clPkg cl)).walk (clDie cl) off with
    | none => (none, s)
    | some (j, e) =>
      let x : TlbEntry := { vpn := e.vpn, big := e.big, pfn := e.pfn, hot := 0, from_ := j }
      (some (.hbm (clPkg cl) off (physOf e.vpn e.pfn off)), (s.tlbFill cl x).modCluster cl fun k => k.tlbTouch x)

/-- n bytes of a package's HBM, at most a page's, read for a place through its cluster's memory port (R288), which hears the banks
(R364): none where a page has no entry or a word is uncorrectable. -/
def State.portBytes (s : State) (who : Waiter) (place cl n off : Nat) : Option (List Byte) × State :=
  let k := min n (65536 - off % 65536)
  match s.portPlaceOf who cl off with
  | (none, s) => (none, s)
  | (some l, s) =>
    let s := s.heardAt place l
    if s.isBad l.key k then (none, s)
    else if k = n then (some (s.mem.bytes l.key n), s)
    else match s.portPlaceOf who cl (off + k) with
      | (none, s) => (none, s)
      | (some l', s) =>
        let s := s.heardAt place l'
        if s.isBad l'.key (n - k) then (none, s) else (some (s.mem.bytes l.key k ++ s.mem.bytes l'.key (n - k)), s)

/-- Entry i of the ring of a context's overflow queue is written at its place in HBM, in a layout private to the device (R206, log 23). -/
def State.ovfEntry (s : State) (c ctx i off : Nat) : State :=
  match s.portPlaceOf (.ring c ctx i) (clusterOf c) off with
  | (some l, s) => (s.heardAt c l).storeBytes l.key ((List.range 512).map (Config.ovfByte (4 * c + ctx) i))
  | (none, s) => s

/-- The sealed state of the page that holds a region-0 offset: 0 unsealed, 1 sealed, 2 unseal in progress (R158, R160). -/
def State.sealState (s : State) (pkg off : Nat) : Nat :=
  match (s.pkg pkg).walk 0 off with
  | some (_, e) => (s.pkg pkg).sealed.at 0 e.vpn
  | none => 0

/-- Whether a place takes no store because its page is sealed (R158, R159). -/
def State.sealedAt (s : State) (l : Loc) : Bool :=
  match l with
  | .hbm pkg off _ => s.sealState pkg off != 0
  | _ => false

/-! Sealed copies (R76, R309): lines of 256 bytes, by package and region-0 offset, the most recently used first (log 17). -/

/-- Uses a line of a cache or set of n places: it comes first, and the least recently used line leaves. -/
def useLine (n line : Nat) (l : List Nat) : List Nat := (line :: l.filter (· != line)).take n

def lineOf (pkg off : Nat) : Nat := pkg * 2 ^ 35 + off / 256

/-- The replica cache of 24 MiB has 6,144 sets of 16 ways. -/
def replicaSet (line : Nat) : Nat := line % 6144

/-- A cluster's replica cache holds a line. -/
def Cluster.holdsLine (k : Cluster) (line : Nat) : Bool := (k.replica.at [] (replicaSet line)).contains line

/-- A line is used in, or brought into, a cluster's replica cache. -/
def State.useReplica (s : State) (cl line : Nat) : State :=
  s.modCluster cl fun k => { k with replica := k.replica.put (replicaSet line) (useLine 16 line (k.replica.at [] (replicaSet line))) }

/-- One line of a sealed page read by a cluster: whether bytes key to key + n, which lie in it, are good, and the cache after it. A
line that the cache holds is good; a line comes in from a page that is sealed (and not being unsealed) when all of it is good. -/
def State.readLine (s : State) (cl : Nat) (l : Loc) (n : Nat) : Bool × State :=
  match l with
  | .hbm pkg off phys =>
    let line := lineOf pkg off
    if s.sealState pkg off = 0 then (!s.isBad l.key n, s)
    else if (s.cluster cl).holdsLine line then (true, s.useReplica cl line)
    else if s.sealState pkg off = 1 ∧ s.isBad (Loc.hbm pkg off (phys / 256 * 256)).key 256 = false then (true, s.useReplica cl line)
    else (!s.isBad l.key n, s)
  | _ => (!s.isBad l.key n, s)

/-- n bytes of a place read by a cluster's core or engine, line by line: whether all are good, and the cache after it. -/
def State.readGood (s : State) (cl : Nat) (l : Loc) (n : Nat) : Bool × State :=
  match l with
  | .hbm pkg off phys =>
    let k := 256 - off % 256
    if n ≤ k then s.readLine cl l n
    else
      let a := s.readLine cl l k
      let b := a.2.readLine cl (.hbm pkg (off + k) (phys + k)) (n - k)
      (a.1 && b.1, b.2)
  | _ => (!s.isBad l.key n, s)

/-! Records (R356 to R374). -/

/-- The source word of a slot (R360). -/
def srcOf (tid : Nat) : Nat :=
  corePkg (coreOf tid) * 2 ^ 19 + coreDie (coreOf tid) * 2 ^ 18 + coreNum (coreOf tid) * 2 ^ 8 + slotOf tid * 2 ^ 4

/-- The source word of a unit of a die: number 640 and up (R360). -/
def srcUnit (pkg die n : Nat) : Nat := pkg * 2 ^ 19 + die * 2 ^ 18 + n * 2 ^ 8

def Context.log (k : Context) (die : Nat) : LogUnit := if die = 0 then k.log0 else k.log1
def Context.setLog (k : Context) (die : Nat) (l : LogUnit) : Context :=
  if die = 0 then { k with log0 := l } else { k with log1 := l }

/-- Free slots of a ring, counting records on their way (R358, R368). -/
def LogUnit.room (l : LogUnit) : Nat :=
  l.size.toNat / 32 - (l.prod.toNat - l.cons.toNat) - l.pending.length

/-- Puts a record on its way into a die's ring, or in replay mode to the host (R367, R374). -/
def State.append (s : State) (cx die : Nat) (r : Rec) : State :=
  s.modCtx cx fun k => k.setLog die { k.log die with pending := (k.log die).pending ++ [r] }

/-- The order of R365. -/
def Rec.before (a b : Rec) : Bool := decide (a.ts < b.ts) || (a.ts == b.ts && decide (a.src < b.src))

/-- A trace record of replay mode goes to the host in the order of R365: it waits in the command receiver until no record with an
earlier T can follow (R374). -/
def State.traceHost (s : State) (pkg : Nat) (r : Rec) : State :=
  s.modPkg pkg fun k => { k with traces := insertBy Rec.before r k.traces }

/-- Trace records that no later one can come before, every T being at least D (R364), go out (R374). -/
def State.flushTraces (s : State) (pkg : Nat) : State :=
  let ready (r : Rec) : Bool := decide (r.ts < s.domainTime pkg)
  ((s.pkg pkg).traces.takeWhile ready).foldl (fun s r => s.say (.trace pkg r))
    (s.modPkg pkg fun k => { k with traces := k.traces.dropWhile ready })

/-- A trace record of kind 0x84 to 0x86, which never holds anything (R374). -/
def State.traceHard (s : State) (cx die : Nat) (r : Rec) : State :=
  if (s.ctx cx).replay = 2 then s.traceHost (cx / 4) r else s.append cx die r

/-- A trace record of kind 0x81 to 0x83: none where it must be held for room in the ring (R368, R374). -/
def State.traceSoft (s : State) (cx die bit : Nat) (r : Rec) : Option State :=
  let k := s.ctx cx
  if k.trace.getLsbD bit = false then some s
  else if k.replay = 2 then some (s.traceHost (cx / 4) r)
  else if (k.log die).room < 64 ∨ (k.log die).stopped = true then none
  else some (s.append cx die r)

/-- What a logged event may do (R366 to R371): perform, with the record's outcome in replay; wait for room or for its
position; or diverge with a reason. -/
inductive Gate where
  | go (s : State) (out : Option Nat)
  | wait (h : HeldWhy)
  | diverge (reason expected : Nat)

/-- The next dispatched record of an object, whichever die's log unit read it (R369). -/
def Context.dispatchedFor (k : Context) (obj seq : Nat) : Option (Nat × Nat × Rec) :=
  let look (die : Nat) :=
    ((k.log die).dispatched.find? fun e => e.2.obj == obj && e.2.seq == seq % 2 ^ 24).map fun e => (die, e.1, e.2)
  match look 0 with
  | some r => some r
  | none => look 1

/-- Advances logprod past every retired record (R358, R369). -/
def LogUnit.advance : Nat → LogUnit → LogUnit
  | 0, l => l
  | n + 1, l =>
    if l.retired.contains l.prod.toNat then
      LogUnit.advance n { l with prod := l.prod + 1, retired := NatSet.remove l.retired l.prod.toNat }
    else l

/-- Retires the record with a ring index (R369). -/
def LogUnit.retire (l : LogUnit) (i : Nat) : LogUnit :=
  let l := { l with retired := NatSet.insert l.retired i, dispatched := l.dispatched.filter fun e => e.1 != i }
  l.advance (l.retired.length + 1)

/-- Passes the resume records of an object, which are retired without waiting (R369). -/
def State.passResumes (cx obj : Nat) : Nat → State → State
  | 0, s => s
  | n + 1, s =>
    let k := s.ctx cx
    match k.dispatchedFor obj (k.seqs.at 0 obj) with
    | some (d, i, r) =>
      if r.kind = 7 ∧ r.out % 4 = 2 then
        State.passResumes cx obj n (s.modCtx cx fun k =>
          { (k.setLog d ((k.log d).retire i)) with seqs := k.seqs.put obj ((k.seqs.at 0 obj + 1) % 2 ^ 24) })
      else s
    | none => s

/-- An object's sequence number advances past a retired record, and past the resume records that follow (R363, R369). -/
def State.nextSeq (s : State) (cx obj d i : Nat) : State :=
  let s := s.modCtx cx fun k =>
    { (k.setLog d ((k.log d).retire i)) with seqs := k.seqs.put obj ((k.seqs.at 0 obj + 1) % 2 ^ 24) }
  s.passResumes cx obj ((s.ctx cx).log0.dispatched.length + (s.ctx cx).log1.dispatched.length)

/-- A die's ring has room for an event that is to append a record: 64 slots free, and its log unit appends (R368, R381). -/
def State.logRoom (s : State) (cx die : Nat) : Bool :=
  decide (64 ≤ ((s.ctx cx).log die).room) && !((s.ctx cx).log die).stopped

/-- Whether a thread's event is logged: rmode as of its issue; a replay that has ended leaves it unchecked (R80, R366). -/
def State.logMode (s : State) (tid : Nat) (t : Thread) : BitVec 2 :=
  if t.rmode = 2 ∧ (s.ctx (cxOf (coreOf tid) t)).replay ≠ 2 then 0 else t.rmode

/-- A logged event on an object under a value of replay, by source src of a die, recorded with the T of a place (R362 to R371).
passed: the test for room in the ring was made when the event was issued (R368). The place hears that its record was taken up, so that
its next record has a later TS and the order of R365 is the object's (log 75). -/
def State.logGate (s : State) (mode : BitVec 2) (passed : Bool) (cx die place src kind obj pc out : Nat) : Gate :=
  let k := s.ctx cx
  let n := k.seqs.at 0 obj
  if mode = 1 then
    if passed = false ∧ s.logRoom cx die = false then .wait .logFull
    else
      let r : Rec := { ts := s.time place, src := src, kind := kind, seq := n % 2 ^ 24, obj := obj, pc := pc % 2 ^ 32,
                       out := out % 2 ^ 32 }
      .go (((s.append cx die r).hear place r.ts).modCtx cx fun k => { k with seqs := k.seqs.put obj ((n + 1) % 2 ^ 24) }) none
  else if mode = 2 then
    match k.dispatchedFor obj n with
    | none => .wait .replay
    | some (d, i, r) =>
      if r.src ≠ src then .wait .replay
      else if r.kind ≠ kind then .diverge 1 n
      else if r.pc ≠ pc % 2 ^ 32 then .diverge 2 n
      else
        .go (s.nextSeq cx obj d i) (some r.out)
  else .go s none

/-! Traps (R83, R120, R185). -/

/-- A sequencer whose entries' shape records are to be checked again (R228). -/
def Seq.unchecked (q : Seq) : Seq := { q with ents := q.ents.map fun e => { e with recs := [] } }

/-- Makes a thread Stopped at its pc with a trace record of kind 0x84 (R373); a thread between the words of a pair stops at the
prefix (R66, R94). -/
def State.stopThread (s : State) (tid : Nat) (t : Thread) (detail : Nat) : State :=
  let c := coreOf tid
  let r : Rec := { ts := s.time c, src := srcOf tid, kind := 0x84, seq := 0,
                   obj := if detail = 2 then t.ebad.toNat else 0, pc := t.pc.toNat % 2 ^ 32, out := detail }
  (s.setThread tid { t with wait := .stopped, prefixed := false }).traceHard (cxOf c t) (coreDie c) r

/-- Taking a trap with a given epc (R83): status.TFL and SUP set, cause, epc and ebad written, the pc at trapvec; with TFL
already set, nothing is written and the thread stops with DF. The trap's trace record may hold the thread (R374). -/
def State.trapAt (s : State) (tid : Nat) (t : Thread) (epc : Word) (x : Trap) : State :=
  let c := coreOf tid
  let cx := cxOf c t
  let t := { t with prefixed := false, arrived := none, noEntry := none, replayFrom := none }
  if t.tfl then s.stopThread tid { t with df := true, pc := epc } 2
  else
    match s.traceSoft cx (coreDie c) 1 { ts := s.time c, src := srcOf tid, kind := 0x82, seq := 0, obj := x.ebad.toNat,
                                         pc := epc.toNat % 2 ^ 32, out := x.cause } with
    | none => s.setThread tid { t with wait := .held .trap }
    | some s =>
      s.setThread tid { t with tfl := true, sup := true, cause := BitVec.ofNat 8 x.cause, epc := epc, ebad := x.ebad,
                               pc := (s.ctx cx).trapvec, wait := .ready, passBp := false }

/-- A slot position's thread waits with a trap for room in its trace ring (R374). -/
def State.trapHeld (s : State) (tid : Nat) : Bool :=
  match s.thread tid with
  | some u => decide (u.wait = .held .trap)
  | none => false

/-- The trap of the instruction at pc (R185). -/
def State.trap (s : State) (tid : Nat) (t : Thread) (cause : Nat) (ebad : Word) : State := s.trapAt tid t t.pc ⟨cause, ebad⟩

/-- Return from a trap (R120): pc := epc, SUP and TFL cleared; a frozen sequencer continues (R189), and checks the shape records of its
entries again (R228); the next instruction fires no hardware breakpoint (R376). -/
def State.trapReturn (s : State) (tid : Nat) (t : Thread) : State :=
  s.setThread tid { t with pc := t.epc, sup := false, tfl := false, passBp := true, prefixed := false, wait := .ready,
                           seq := if t.seq.frozen then { t.seq.unchecked with frozen := false } else t.seq }

/-! Waiting and completing. -/

/-- The outcome of a meaning. -/
abbrev Out := Host.Outcome State Fault Refusal

/-- A thread as it waits for w. -/
def Thread.waiting (t : Thread) (w : Wait) : Thread := { t with wait := w, replayFrom := none, prefixed := false }

/-- The fabric carries a core's accesses to a place: always, but to one of another package (R401, R419). -/
def State.linked (s : State) (c : Nat) : Loc → Bool
  | .loc la => s.fab.reaches (dieKey c) (dieKey (laCore la))
  | .hbm pkg _ phys => s.fab.reaches (dieKey c) (2 * pkg + phys / 2 ^ 36 / 6 % 2)
  | .host _ _ _ => true

/-- A request is held at its core where no plane of the fabric carries it as it is issued (R401). -/
def Wait.issued (s : State) (c : Nat) : Wait → Wait
  | .mem r => .mem { r with held := r.held || r.locs.any fun l => !s.linked c (s.place l) }
  | w => w

/-- The thread waits; its instruction reissues, a pair from its prefix (R66, R89). What it waited for in a replay is over (R371). -/
def State.wait (s : State) (tid : Nat) (t : Thread) (w : Wait) : State :=
  s.setThread tid (t.waiting (w.issued s (coreOf tid)))

/-- A thread past its instruction: the pc at the next one (R95). -/
def Thread.past (t : Thread) : Thread :=
  { t with pc := t.pc + BitVec.ofNat 64 t.ilen, wait := .ready, passBp := false, prefixed := false, noEntry := none,
           replayFrom := none }

/-- The thread's instruction is complete. -/
def State.retire (s : State) (tid : Nat) (t : Thread) : State := s.setThread tid t.past

/-- A divergence of a thread (R371): cause 0x0E with the object in ebad, and a trace record of kind 0x86. -/
def State.diverge (s : State) (tid : Nat) (t : Thread) (obj reason expected : Nat) : State :=
  let c := coreOf tid
  let r : Rec := { ts := s.time c, src := srcOf tid, kind := 0x86, seq := 0, obj := obj, pc := t.pc.toNat % 2 ^ 32,
                   out := reason + expected % 2 ^ 24 * 256 }
  (s.traceHard (cxOf c t) (coreDie c) r).trap tid t 0x0E (BitVec.ofNat 64 obj)

/-- A thread that must wait for the log or for its recorded position on an object; the wait is counted from its first try for that object
(R369, R371). -/
def State.gateWait (s : State) (tid : Nat) (t : Thread) (h : HeldWhy) (obj : Nat) : State :=
  let new := if h = .replay then some (s.time (coreOf tid), obj) else none
  let from_ := match t.replayFrom with | some f => if f.2 = obj then some f else new | none => new
  s.setThread tid { t with wait := .held h, replayFrom := from_, prefixed := false }

/-- The wait for an object's recorded position of a thread that another agent serves, counted from its first try (R369, R371). -/
def State.noteReplay (s : State) (tid obj : Nat) : State :=
  s.modThread tid fun t => { t with replayFrom := some (t.replayFrom.getD (s.time (coreOf tid), obj)) }

/-- A logged event of a thread: what it does once it may perform, from the state after its operands are read, with the
outcome that a replay's record carries; a wait or a divergence leaves the state s0 before they were read. -/
def State.logged (s0 s : State) (tid : Nat) (t : Thread) (place kind obj out : Nat) (k : State → Option Nat → State) : State :=
  let c := coreOf tid
  match s.logGate (s.logMode tid t) false (cxOf c t) (coreDie c) place (srcOf tid) kind obj t.pc.toNat out with
  | .go s o => k s o
  | .wait h => s0.gateWait tid t h obj
  | .diverge r n => s0.diverge tid t obj r n

/-! Logged events of units (R367, R369, R371). -/

/-- The key of a unit's wait for an object. -/
def waitKey (src obj : Nat) : Nat := obj * 2 ^ 32 + src

/-- A unit, or a Vacant slot, begins to wait for its recorded position on an object (R369). -/
def State.unitWaits (s : State) (cx place src obj : Nat) : State :=
  s.modCtx cx fun k =>
    if (k.waits.find? (waitKey src obj)).isSome then k
    else { k with waits := k.waits.put (waitKey src obj) (s.time place, []) }

/-- Its wait ends. -/
def State.unitGoes (s : State) (cx src obj : Nat) : State := s.modCtx cx fun k => { k with waits := k.waits.del (waitKey src obj) }

/-- A unit that diverges, or that waits too long, writes a trace record, one for each expected position and reason (R371). -/
def State.unitDiverges (s : State) (cx die place src obj reason expected : Nat) : State :=
  let s := s.unitWaits cx place src obj
  match (s.ctx cx).waits.find? (waitKey src obj) with
  | some (f, told) =>
    if told.contains (reason, expected) then s
    else
      (s.modCtx cx fun k => { k with waits := k.waits.put (waitKey src obj) (f, (reason, expected) :: told) }).traceHard cx die
        { ts := s.time place, src := src, kind := 0x86, seq := 0, obj := obj, pc := 0, out := reason + expected % 2 ^ 24 * 256 }
  | none => s

/-- The test of a thread's event that appends its record only when another place serves it (R368): held before it leaves the core
where its die's ring has no room. -/
def State.logTest (s0 s : State) (tid : Nat) (t : Thread) (obj : Nat) (k : State) : State :=
  if s.logMode tid t = 1 ∧ s.logRoom (cxOf (coreOf tid) t) (coreDie (coreOf tid)) = false then s0.gateWait tid t .logFull obj else k

/-- A logged event of a unit: what it does once it may perform, and what is left of the state where it is held. -/
def State.unitLogged (s : State) (cx die place src kind obj out : Nat) (k : State → State) : State :=
  match s.logGate (s.ctx cx).replay false cx die place src kind obj 0 out with
  | .go s _ => k (s.unitGoes cx src obj)
  | .wait .replay => s.unitWaits cx place src obj
  | .wait _ => s
  | .diverge r n => s.unitDiverges cx die place src obj r n

/-- The event of unitLogged may perform now. -/
def State.unitMay (s : State) (cx die place src kind obj out : Nat) : Bool :=
  match s.logGate (s.ctx cx).replay false cx die place src kind obj 0 out with
  | .go _ _ => true
  | _ => false

/-! Stochastic draws (R45 to R47). -/

/-- Draws 16 bits from the counter of a slot position for a context, and advances it. -/
def State.draw (s : State) (tid cx : Nat) : Nat × State :=
  let k := s.ctx cx
  let ctr := k.draws.at 0 tid
  (drawBits (coreOf tid) (slotOf tid) k.seed ctr, s.modCtx cx fun k => { k with draws := k.draws.put tid (ctr + 1) })

/-- The mode of an RM field with RND of fmt (R37, R38). -/
def modeOf (m rnd : BitVec 2) : RMode :=
  let e := if m = 3 then rnd else m
  if e = 1 then .rtz else if e = 2 then .sr else .rne

/-- Rounds an exact value, drawing 16 bits when the mode is stochastic (R39, R45). -/
def State.roundTo (s : State) (tid cx : Nat) (f : Fmt) (mode : RMode) (sat : Bool) (x : Ex) : Nat × State :=
  if mode = .sr then
    let d := s.draw tid cx
    (f.round .sr d.1 sat x, d.2)
  else (f.round mode 0 sat x, s)

/-! Migration (R162, R175). -/

/-- Waits in MemWait until the thread's relaxed accesses have completed (R162, R167, R176). -/
def State.drained (s : State) (tid : Nat) (t : Thread) (k : State) : State :=
  if t.relaxed.isEmpty then k else s.wait tid t (.mem { kind := .drain })

/-- Ships the thread to another core (R162): the slot becomes Vacant and stays reserved until the target answers (R173);
a suspended matrix operation is discarded (R273). ebad is what a refusal would report; past: the thread goes on after the
instruction (R175). -/
def State.ship (s : State) (tid : Nat) (t : Thread) (target : Nat) (ebad : Word) (past : Bool := false) : State :=
  let c := coreOf tid
  s.drained tid t
    (((s.vacate tid).modCore c fun k => { k with reserved := NatSet.insert k.reserved (slotOf tid) }).send c target 2
      (.migrate target { t with wait := .ready, mat := none, prefixed := false } tid ebad past))

end Sys2Proof.Machine
end

