-- ==== Sys2Proof/Machine/Flags.lean ====
section
/-! DEFINITION. The predicates, the machine's only flags (R14, R71, R79, R105), and the status word (R81). -/

namespace Sys2Proof.Machine

/-- p0 reads true (R79). -/
def Thread.pred (t : Thread) (i : Nat) : Bool := i == 0 || t.p.getLsbD i

/-- Writes to p0 are discarded (R79). -/
def Thread.setPred (t : Thread) (i : Nat) (v : Bool) : Thread :=
  if i = 0 then t else { t with p := if v then t.p ||| (1#8 <<< i) else t.p &&& ~~~(1#8 <<< i) }

/-- Whether an instruction's predicate holds: PS names the predicate, PN inverts it (R14). -/
def Thread.holds (t : Thread) (p : BitVec 3) (q : BitVec 1) : Bool := t.pred p.toNat != (q == 1)

/-- The eight predicates as a word, bit 0 always 1 (R85, R108). -/
def Thread.predWord (t : Thread) : BitVec 8 := t.p ||| 1

/-- A compare's result: PD := c, or PD and c under the and form (R105). -/
def Thread.compare (t : Thread) (pd : BitVec 3) (andForm : BitVec 1) (c : Bool) : Thread :=
  t.setPred pd.toNat (if andForm = 1 then c && t.pred pd.toNat else c)

/-- EXT: the sequencer holds entries or a matrix operation is in progress (R81). -/
def Thread.ext (t : Thread) : Bool := !t.seq.ents.isEmpty || t.mat.isSome

/-- STATE 1 to 7 (R88). -/
def Thread.stateCode (t : Thread) : Nat :=
  match t.wait with
  | .ready => 1 | .mem _ => 2 | .page _ _ => 3 | .sync => 4 | .mat => 5 | .held _ => 6 | .stopped => 7

/-- The status word with a given STATE; wkp is the pending bit of the slot's wake state (R81, R178). -/
def Thread.statusWord (t : Thread) (wkp : Bool) (st : Nat) : Nat :=
  st + 16 * t.sup.toNat + 32 * t.tfl.toNat + 64 * t.ext.toNat + 128 * t.df.toNat + 512 * wkp.toNat

/-- The comparisons of the integer compares (R106). -/
def ltSigned (a b : Word) : Bool := BitVec.slt a b

end Sys2Proof.Machine
end

