-- ==== Sys2Proof/Machine/Operands.lean ====
section
/-! DEFINITION. Every operand form: register codes (R12, R54), ports (R209 to R213, R416), immediates (R57), and the
common frame of an instruction's issue (R70, R71, R95, R74). -/

namespace Sys2Proof.Machine

/-! Immediates (R57). -/

def sext14 (v : BitVec 14) : Word := v.signExtend 64
def sext38 (v : BitVec 38) : Word := v.signExtend 64
def zext14 (v : BitVec 14) : Word := v.setWidth 64
def zext38 (v : BitVec 38) : Word := v.setWidth 64

/-- Target of a branch: pc + 4 x sext(OFF22) (R59). -/
def branchTarget (pc : Word) (off : BitVec 22) : Word := pc + (off.signExtend 64) * 4

/-! Shape fields that a vector instruction names (R241 to R252). -/

def vHd (w : Word32) : Nat := bits w.toNat 21 17
def vHa (w : Word32) : Nat := bits w.toNat 16 12
def vHb (w : Word32) : Nat := bits w.toNat 11 7
def vMajor (w : Word32) : Nat := w.toNat / 2 ^ 26
def vFn (w : Word32) : Nat := bits w.toNat 3 0

/-- The member has two operands: HD and HA. -/
def vUnary (w : Word32) : Bool :=
  match vMajor w, vFn w with
  | 40, f => f == 6 || f == 7
  | 41, _ => true
  | 43, f => decide (f < 3)
  | 44, f => decide (f < 3)
  | 45, f => f == 1 || f == 4
  | _, _ => false

/-- The shape-table entries that an entry's pass uses (R238, R250, R251); shift is p x s. -/
def vShapes (w : Word32) (shift : Nat) : List Nat :=
  let hd := (vHd w + shift) % 32
  let ha := (vHa w + shift) % 32
  let hb := (vHb w + shift) % 32
  if vMajor w = 46 then []
  else if vMajor w = 45 ∧ vFn w = 2 then [hd, hd + 1, hd + 2, ha, hb]
  else if vMajor w = 45 ∧ vFn w = 3 then [hd, hd + 1, hd + 2, ha, ha + 1, hb, hb + 1]
  else if vUnary w then [hd, ha] else [hd, ha, hb]

/-- vloop markers and their ends (R237, R238). -/
def SeqEntry.isLoop (e : SeqEntry) : Bool := vMajor e.word == 46 && vFn e.word == 0
def SeqEntry.isEnd (e : SeqEntry) : Bool := vMajor e.word == 46 && vFn e.word == 1
def SeqEntry.passes (e : SeqEntry) : Nat := vHd e.word + 1
def SeqEntry.stagger (e : SeqEntry) : Nat := vHa e.word

/-- A vloop body is open in the sequencer (R238). -/
def Seq.isOpen (q : Seq) : Bool := q.ents.foldl (fun o e => if e.isLoop then true else if e.isEnd then false else o) false

/-- Every entry with the passes it has yet to run and its stagger. -/
def seqPending : List SeqEntry → Nat → Nat → List (SeqEntry × List Nat × Nat)
  | [], _, _ => []
  | e :: r, n, k =>
    if e.isLoop then seqPending r e.passes e.stagger
    else if e.isEnd then seqPending r 1 0
    else (e, (List.range n).filter (fun p => decide (e.pass ≤ p)), k) :: seqPending r n k

/-- The key of a shape record: entry h of the table at shb in the context's s0 share (R225). -/
def State.shapeKey (s : State) (c cx : Nat) (shb : Word) (h : Nat) : Nat := s.s0Base c cx + shb.toNat + 32 * h

/-- A shape record, as its bytes, names the port (R225, R229). -/
def recNamesPort (l : List Byte) (x : Nat) : Bool := field l 5 1 % 2 == 1 && field l 0 4 % 4 == x

/-- A pending entry of the thread's sequencer names the port (R229): a running pass by the records that were checked when it began
or resumed, every other pass by the records in memory. -/
def State.seqNamesPort (s : State) (tid : Nat) (t : Thread) (x : Nat) : Bool :=
  let c := coreOf tid
  (seqPending t.seq.ents 1 0).any fun e =>
    e.2.1.any fun p =>
      if p = e.1.pass ∧ e.1.recs.isEmpty = false then e.1.recs.any fun l => recNamesPort l x
      else (vShapes e.1.word (p * e.2.2)).any fun h => recNamesPort (s.mem.bytes (s.shapeKey c (cxOf c t) e.1.shb h) 32) x

/-! Ports (R209, R213, R416). -/

def portKey (slot : Nat) (code : BitVec 4) : Nat := 4 * slot + code.toNat % 4

/-- Linear address of the word that holds a buffer offset. -/
def Port.wordAt (c off : Nat) : Nat := lsAddr c (off / 8 * 8)

/-- The next place of a circular buffer. -/
def Port.step (p : Port) (off : Nat) : Nat := if off + p.ew = p.base + p.size then p.base else off + p.ew

/-- n elements from a buffer offset on lie in one lap: none of them in the part of the offset's own word that is behind it. -/
def Port.inLap (p : Port) (off n : Nat) : Bool := decide (n * p.ew ≤ p.size - off % 8)

/-- n elements are ready at a buffer offset: every word that holds one is full (R213). -/
def State.portHas (s : State) (c : Nat) (p : Port) : Nat → Nat → Bool
  | 0, _ => true
  | n + 1, off => s.isFull (Port.wordAt c off) && State.portHas s c p n (p.step off)

/-- n element places are free at a buffer offset (R213). -/
def State.portRoom (s : State) (c : Nat) (p : Port) : Nat → Nat → Bool
  | 0, _ => true
  | n + 1, off => !s.isFull (Port.wordAt c off) && State.portRoom s c p n (p.step off)

/-- Whether a port register may be read or written at all (R213, R416): false raises cause 0x01. A port belongs to its slot and not to
the context that bound it: in a contested slot (R190) a thread of the other context may read, free or bind again the ports of a thread
that is spilled. R90 keeps that thread's bindings unchanged, R211 lets any sbind release them (DESIGN CHOICE, log 93). -/
def State.portLegal (s : State) (tid : Nat) (write : Bool) (code : BitVec 4) : Bool :=
  if code.toNat < 12 then true
  else if slotOf tid = 15 then (code.toNat % 2 == 1) == write
  else match (s.core (coreOf tid)).ports.find? (portKey (slotOf tid) code) with
    | some p => p.out == write
    | none => false

/-- Whether a port has n elements to read, or room for n to write (R213). -/
def State.portReady (s : State) (tid : Nat) (write : Bool) (code : BitVec 4) (n : Nat) : Bool :=
  if code.toNat < 12 then true
  else
    let c := coreOf tid
    if slotOf tid = 15 then
      let l := ((s.core c).xq.at [] (code.toNat % 4)).length
      if write then decide (l + n ≤ 64) else decide (n ≤ l)
    else match (s.core c).ports.find? (portKey (slotOf tid) code) with
      | some p => if write then p.inLap p.tail n && s.portRoom c p n p.tail else p.inLap p.head n && s.portHas c p n p.head
      | none => false

/-- Takes one element from a port (R213). A word that became uncorrectable after its delivery gives the bytes that it holds and raises
no cause 0x08: the spec names no cause for such a read (DESIGN CHOICE, log 91). -/
def State.portRead (s : State) (tid : Nat) (code : BitVec 4) : Word × State :=
  let c := coreOf tid
  if slotOf tid = 15 then
    let q := (s.core c).xq.at [] (code.toNat % 4)
    (q.headD 0, s.modCore c fun k => { k with xq := k.xq.put (code.toNat % 4) q.tail })
  else match (s.core c).ports.find? (portKey (slotOf tid) code) with
    | some p =>
      let v := s.mem.read (lsAddr c p.head) p.ew
      let v : Word := if p.sx ∧ v.testBit (8 * p.ew - 1) then BitVec.ofNat 64 (2 ^ 64 - 2 ^ (8 * p.ew) + v)
                      else BitVec.ofNat 64 v
      let s := if (p.head + p.ew) % 8 = 0 then s.setFull (Port.wordAt c p.head) false else s
      (v, s.modCore c fun k =>
        { k with ports := k.ports.put (portKey (slotOf tid) code)
                            { p with head := p.step p.head, unread := p.unread - p.ew } })
    | none => (0, s)

/-- Gives one element to a port (R213). -/
def State.portWrite (s : State) (tid : Nat) (code : BitVec 4) (v : Word) : State :=
  let c := coreOf tid
  if slotOf tid = 15 then
    s.modCore c fun k => { k with xq := k.xq.put (code.toNat % 4) (k.xq.at [] (code.toNat % 4) ++ [v]) }
  else match (s.core c).ports.find? (portKey (slotOf tid) code) with
    | some p =>
      let s := s.store (lsAddr c p.tail) p.ew v.toNat
      let s := if (p.tail + p.ew) % 8 = 0 then s.setFull (Port.wordAt c p.tail) true else s
      s.modCore c fun k => { k with ports := k.ports.put (portKey (slotOf tid) code) { p with tail := p.step p.tail } }
    | none => s

/-! Registers (R12, R54). -/

/-- A register that is no port: g0 to g9, gz, pc. -/
def Thread.reg (t : Thread) (code : BitVec 4) : Word :=
  if h : code.toNat < 10 then t.g[code.toNat] else if code = 11 then t.pc else 0

/-- Writes a general register; gz discards (R54). -/
def Thread.setReg (t : Thread) (code : BitVec 4) (v : Word) : Thread :=
  if h : code.toNat < 10 then { t with g := t.g.set code.toNat v } else t

/-- Reads a source field, taking an element from a port (R54). -/
def State.readReg (s : State) (tid : Nat) (t : Thread) (code : BitVec 4) : Word × State :=
  if code.toNat < 12 then (t.reg code, s) else s.portRead tid code

/-- Reads source fields in order, each port read taking its own element (R54). -/
def State.readRegs (s : State) (tid : Nat) (t : Thread) : List (BitVec 4) → List Word × State
  | [] => ([], s)
  | c :: r =>
    let v := s.readReg tid t c
    let w := State.readRegs v.2 tid t r
    (v.1 :: w.1, w.2)

/-- An element that x1 of slot 15 refuses with cause 0x01: a reserved bit set, or op 3 (R416). -/
def x1Refuses (v : Word) : Bool :=
  v.toNat != bits v.toNat 19 0 + bits v.toNat 33 32 * 2 ^ 32 + bits v.toNat 39 36 * 2 ^ 36 || bits v.toNat 33 32 == 3

/-- The result of writing a destination: a trap only from an x1 element (R416). -/
def State.writeRefused (tid : Nat) (d : BitVec 4) (v : Word) : Bool := slotOf tid == 15 && d == 13 && x1Refuses v

/-- Writes a destination field: a general register, nothing, or a port (R54). -/
def State.writeReg (s : State) (tid : Nat) (t : Thread) (d : BitVec 4) (v : Word) : State × Thread :=
  if d.toNat < 12 then (s, t.setReg d v) else (s.portWrite tid d v, t)

/-- Writes the destination and completes the instruction (R95); a refused x1 element traps from the state s0 before the
operands were read (R185, R416). -/
def State.finish (s0 s : State) (tid : Nat) (t : Thread) (word : Word32) (d : BitVec 4) (v : Word) : State :=
  if State.writeRefused tid d v then s0.trap tid t 1 (word.setWidth 64)
  else
    let w := s.writeReg tid t d v
    w.1.retire tid w.2

/-- The extensions that a core may lack (R73). -/
inductive Ext where
  | matrix | walker
deriving DecidableEq, Repr

/-- A core lists an extension (R73). -/
def hasExt (c : Nat) : Ext → Bool
  | .matrix => !isService c
  | .walker => isService c

/-- Core numbers of R74 in order: the issuing cluster after the core, wrapping round, then the other clusters of the die. -/
def extOrder (c : Nat) : List Nat :=
  let base := coreAt (corePkg c) (coreDie c) 0
  let k := coreNum c / 36
  ((List.range 35).map fun j => base + 36 * k + (corePos c + 1 + j) % 36) ++
    (List.range 15).flatMap fun m => (List.range 36).map fun j => base + 36 * ((k + 1 + m) % 16) + j

/-- R74: migrates the thread to the first candidate core of its die, or raises cause 0x12. A disabled core that the residency map
still names is passed over, and the next candidate is taken; R74 does not speak of it (DESIGN CHOICE, log 87). -/
def State.extMigrate (s : State) (tid : Nat) (t : Thread) (x : Ext) (word : Word32) : State :=
  let c := coreOf tid
  match (extOrder c).find? fun y => hasExt y x && s.coreOk y && s.holdsSlots (cxOf c t) y with
  | some y => s.ship tid t y (BitVec.ofNat 64 y)
  | none => s.trap tid t 0x12 (word.setWidth 64)

/-- A thread as it enters an instruction of len bytes: Ready, with rmode following the context's replay register (R80) at its issue,
which a test of what a thread in SyncWait waits for is not (R366). -/
def State.turned (s : State) (u : Thread) (len : Nat) : Thread :=
  { u with ilen := len, wait := .ready, rmode := if u.wait = .sync then u.rmode else (s.ctx (cxOf (coreOf s.cur) u)).replay }

/-- The frame of every word instruction at its issue turn (R70 steps 7 to 10, R71, R95): the privilege check, the predicate,
the extension, then its own effect. word is the word R72 names, len the length with a preceding word. -/
def frame (word : Word32) (len : Nat) (p : BitVec 3) (q : BitVec 1) (s : State) (body : Nat → Thread → State → State)
    (priv : Bool := false) (ext : Option Ext := none) : Out :=
  match s.thread s.cur with
  | none => .fault .noThread
  | some t =>
    let tid := s.cur
    let t := s.turned t len
    if priv && !t.sup then .next (s.trap tid t 2 (word.setWidth 64))
    else if !t.holds p q then .next (s.retire tid t)
    else match ext with
      | some x => if hasExt (coreOf tid) x then .next (body tid t s) else .next (s.extMigrate tid t x word)
      | none => .next (body tid t s)

/-- How often a code stands in a list. -/
def countCode (l : List (BitVec 4)) (c : BitVec 4) : Nat := (l.filter (· == c)).length

/-- Reads the sources of an instruction, once every port it names is legal, unclaimed by the sequencer and ready (R213,
R229): otherwise cause 0x01, or SyncWait. -/
def State.operands (s : State) (tid : Nat) (t : Thread) (word : Word32) (srcs dsts : List (BitVec 4))
    (k : List Word → State → State) : State :=
  if !(srcs.all (s.portLegal tid false) && dsts.all (s.portLegal tid true)) then s.trap tid t 1 (word.setWidth 64)
  else if (srcs ++ dsts).any fun c => decide (12 ≤ c.toNat) && s.seqNamesPort tid t (c.toNat % 4) then s.wait tid t .sync
  else if !(srcs.all (fun c => s.portReady tid false c (countCode srcs c)) &&
            dsts.all (fun c => s.portReady tid true c (countCode dsts c))) then s.wait tid t .sync
  else
    let r := s.readRegs tid t srcs
    k r.1 r.2

/-- An instruction with sources and one destination that always completes: its result computed from the operands. -/
def compute (word : Word32) (len : Nat) (p : BitVec 3) (q : BitVec 1) (d : BitVec 4) (srcs : List (BitVec 4)) (s : State)
    (f : Thread → List Word → Word) : Out :=
  frame word len p q s fun tid t s0 =>
    s0.operands tid t word srcs [d] fun v s => s0.finish s tid t word d (f t v)

/-- An instruction with sources and no register destination. -/
def effect (word : Word32) (len : Nat) (p : BitVec 3) (q : BitVec 1) (srcs : List (BitVec 4)) (s : State)
    (f : Nat → Thread → List Word → State → State) (priv : Bool := false) (ext : Option Ext := none) : Out :=
  frame word len p q s (fun tid t s => s.operands tid t word srcs [] (f tid t)) priv ext

/-- An instruction with sources and destinations whose effect is its own: it is given the states before and after its
operands are read. A fault or a wait leaves the first (R185, R213). -/
def act (word : Word32) (len : Nat) (p : BitVec 3) (q : BitVec 1) (srcs dsts : List (BitVec 4)) (s : State)
    (f : Nat → Thread → State → List Word → State → State) (priv : Bool := false) (ext : Option Ext := none) : Out :=
  frame word len p q s (fun tid t s0 => s0.operands tid t word srcs dsts (f tid t s0)) priv ext

/-- The value of the n-th operand read. -/
abbrev nth (v : List Word) (n : Nat) : Word := v.getD n 0

end Sys2Proof.Machine
end

