-- ==== Sys2Proof/Machine/Int.lean ====
section
/-! DEFINITION. The integer instructions INT-R (R96 to R99). -/

namespace Sys2Proof.Machine

/-! The values of R97 to R99. -/

/-- High 64 bits of the signed product (R97). -/
def mulHigh (a b : Word) : Word := BitVec.ofInt 64 (a.toInt * b.toInt / 2 ^ 64)

/-- High 64 bits of the unsigned product (R97). -/
def mulHighU (a b : Word) : Word := BitVec.ofNat 64 (a.toNat * b.toNat / 2 ^ 64)

/-- Signed division truncating towards zero; all ones for a zero divisor; −2^63 / −1 gives −2^63 (R98). -/
def divSigned (a b : Word) : Word := if b = 0 then BitVec.allOnes 64 else BitVec.ofInt 64 (a.toInt.tdiv b.toInt)

/-- Unsigned division; all ones for a zero divisor (R98). -/
def divUnsigned (a b : Word) : Word := if b = 0 then BitVec.allOnes 64 else BitVec.ofNat 64 (a.toNat / b.toNat)

/-- Signed remainder with the sign of the dividend; a for a zero divisor (R98). -/
def remSigned (a b : Word) : Word := if b = 0 then a else BitVec.ofInt 64 (a.toInt.tmod b.toInt)

/-- Unsigned remainder; a for a zero divisor (R98). -/
def remUnsigned (a b : Word) : Word := if b = 0 then a else BitVec.ofNat 64 (a.toNat % b.toNat)

/-- The shift amount: bits [5:0] of b (R96). -/
def shamt (b : Word) : Nat := bits b.toNat 5 0

def rotLeft (a b : Word) : Word := (a <<< shamt b) ||| (a >>> (64 - shamt b))
def rotRight (a b : Word) : Word := (a >>> shamt b) ||| (a <<< (64 - shamt b))

/-- Bits below the topmost one bit among the low n bits: how many of the top are zero. -/
def leadingZeros (a : Word) : Nat → Nat
  | 0 => 0
  | n + 1 => if a.getLsbD n then 0 else 1 + leadingZeros a n

/-- Zero bits from bit 64 − n upwards before the first one bit. -/
def trailingZeros (a : Word) : Nat → Nat
  | 0 => 0
  | n + 1 => if a.getLsbD (63 - n) then 0 else 1 + trailingZeros a n

/-- One bits among the low n bits. -/
def oneBits (a : Word) : Nat → Nat
  | 0 => 0
  | n + 1 => oneBits a n + (a.getLsbD n).toNat

/-- The low n bits in reverse order. -/
def reverseBits (a : Word) : Nat → Nat
  | 0 => 0
  | n + 1 => 2 * reverseBits a n + (a.getLsbD (n)).toNat

/-- The low n bits, sign-extended (R24). -/
def signLow (a : Word) (n : Nat) : Word := (a.setWidth n).signExtend 64

/-- The low n bits, zero-extended. -/
def zeroLow (a : Word) (n : Nat) : Word := (a.setWidth n).setWidth 64

/-- Position and length of a field word (R99). -/
def fieldPos (b : Word) : Nat := bits b.toNat 5 0
def fieldLen (b : Word) : Nat := min (bits b.toNat 14 8) 64

/-- len one bits from bit 0. -/
def lowMask (len : Nat) : Word := BitVec.ofNat 64 (2 ^ len - 1)

/-- bfx (R99). -/
def extractField (a b : Word) : Word := (a >>> fieldPos b) &&& lowMask (fieldLen b)

/-- bfi (R99). -/
def insertField (d a b : Word) : Word :=
  let mask := lowMask (fieldLen b) <<< fieldPos b
  (d &&& ~~~mask) ||| ((a <<< fieldPos b) &&& mask)

/-! The members (R97). -/

/-- ADD (R97): Writes the wrapping sum of two general registers. -/
def execAdd (p : BitVec 3) (q : BitVec 1) (d a b : BitVec 4) (s : State) : Out :=
  compute (encR 1 p q (d.toNat) (a.toNat) (b.toNat) (0)) 4 p q d [a, b] s fun _ v => (nth v 0) + (nth v 1)

/-- SUB (R97): Writes the wrapping difference of two general registers. -/
def execSub (p : BitVec 3) (q : BitVec 1) (d a b : BitVec 4) (s : State) : Out :=
  compute (encR 1 p q (d.toNat) (a.toNat) (b.toNat) (1)) 4 p q d [a, b] s fun _ v => (nth v 0) - (nth v 1)

/-- AND (R97): Writes the bitwise and of two registers. -/
def execAnd (p : BitVec 3) (q : BitVec 1) (d a b : BitVec 4) (s : State) : Out :=
  compute (encR 1 p q (d.toNat) (a.toNat) (b.toNat) (2)) 4 p q d [a, b] s fun _ v => (nth v 0) &&& (nth v 1)

/-- OR (R97): Writes the bitwise or of two registers. -/
def execOr (p : BitVec 3) (q : BitVec 1) (d a b : BitVec 4) (s : State) : Out :=
  compute (encR 1 p q (d.toNat) (a.toNat) (b.toNat) (3)) 4 p q d [a, b] s fun _ v => (nth v 0) ||| (nth v 1)

/-- XOR (R97): Writes the bitwise exclusive or of two registers. -/
def execXor (p : BitVec 3) (q : BitVec 1) (d a b : BitVec 4) (s : State) : Out :=
  compute (encR 1 p q (d.toNat) (a.toNat) (b.toNat) (4)) 4 p q d [a, b] s fun _ v => (nth v 0) ^^^ (nth v 1)

/-- ANDN (R97): Writes a and not b. -/
def execAndn (p : BitVec 3) (q : BitVec 1) (d a b : BitVec 4) (s : State) : Out :=
  compute (encR 1 p q (d.toNat) (a.toNat) (b.toNat) (5)) 4 p q d [a, b] s fun _ v => (nth v 0) &&& ~~~(nth v 1)

/-- ORN (R97): Writes a or not b. -/
def execOrn (p : BitVec 3) (q : BitVec 1) (d a b : BitVec 4) (s : State) : Out :=
  compute (encR 1 p q (d.toNat) (a.toNat) (b.toNat) (6)) 4 p q d [a, b] s fun _ v => (nth v 0) ||| ~~~(nth v 1)

/-- SLL (R97): Shifts a left by the low six bits of b. -/
def execSll (p : BitVec 3) (q : BitVec 1) (d a b : BitVec 4) (s : State) : Out :=
  compute (encR 1 p q (d.toNat) (a.toNat) (b.toNat) (7)) 4 p q d [a, b] s fun _ v => (nth v 0) <<< shamt (nth v 1)

/-- SRL (R97): Shifts a right logically by the low six bits of b. -/
def execSrl (p : BitVec 3) (q : BitVec 1) (d a b : BitVec 4) (s : State) : Out :=
  compute (encR 1 p q (d.toNat) (a.toNat) (b.toNat) (8)) 4 p q d [a, b] s fun _ v => (nth v 0) >>> shamt (nth v 1)

/-- SRA (R97): Shifts a right arithmetically by the low six bits of b. -/
def execSra (p : BitVec 3) (q : BitVec 1) (d a b : BitVec 4) (s : State) : Out :=
  compute (encR 1 p q (d.toNat) (a.toNat) (b.toNat) (9)) 4 p q d [a, b] s fun _ v => (nth v 0).sshiftRight (shamt (nth v 1))

/-- ROL (R97): Rotates a left by the low six bits of b. -/
def execRol (p : BitVec 3) (q : BitVec 1) (d a b : BitVec 4) (s : State) : Out :=
  compute (encR 1 p q (d.toNat) (a.toNat) (b.toNat) (10)) 4 p q d [a, b] s fun _ v => rotLeft (nth v 0) (nth v 1)

/-- ROR (R97): Rotates a right by the low six bits of b. -/
def execRor (p : BitVec 3) (q : BitVec 1) (d a b : BitVec 4) (s : State) : Out :=
  compute (encR 1 p q (d.toNat) (a.toNat) (b.toNat) (11)) 4 p q d [a, b] s fun _ v => rotRight (nth v 0) (nth v 1)

/-- MUL (R97): Writes the low 64 bits of the product. -/
def execMul (p : BitVec 3) (q : BitVec 1) (d a b : BitVec 4) (s : State) : Out :=
  compute (encR 1 p q (d.toNat) (a.toNat) (b.toNat) (12)) 4 p q d [a, b] s fun _ v => (nth v 0) * (nth v 1)

/-- MULH (R97): Writes the high 64 bits of the signed product. -/
def execMulh (p : BitVec 3) (q : BitVec 1) (d a b : BitVec 4) (s : State) : Out :=
  compute (encR 1 p q (d.toNat) (a.toNat) (b.toNat) (13)) 4 p q d [a, b] s fun _ v => mulHigh (nth v 0) (nth v 1)

/-- MULHU (R97): Writes the high 64 bits of the unsigned product. -/
def execMulhu (p : BitVec 3) (q : BitVec 1) (d a b : BitVec 4) (s : State) : Out :=
  compute (encR 1 p q (d.toNat) (a.toNat) (b.toNat) (14)) 4 p q d [a, b] s fun _ v => mulHighU (nth v 0) (nth v 1)

/-- DIV (R98): Signed division truncating towards zero, with fixed results for zero divisor and overflow. -/
def execDiv (p : BitVec 3) (q : BitVec 1) (d a b : BitVec 4) (s : State) : Out :=
  compute (encR 1 p q (d.toNat) (a.toNat) (b.toNat) (15)) 4 p q d [a, b] s fun _ v => divSigned (nth v 0) (nth v 1)

/-- DIVU (R98): Unsigned division with a fixed result for a zero divisor. -/
def execDivu (p : BitVec 3) (q : BitVec 1) (d a b : BitVec 4) (s : State) : Out :=
  compute (encR 1 p q (d.toNat) (a.toNat) (b.toNat) (16)) 4 p q d [a, b] s fun _ v => divUnsigned (nth v 0) (nth v 1)

/-- REM (R98): Signed remainder taking the sign of the dividend. -/
def execRem (p : BitVec 3) (q : BitVec 1) (d a b : BitVec 4) (s : State) : Out :=
  compute (encR 1 p q (d.toNat) (a.toNat) (b.toNat) (17)) 4 p q d [a, b] s fun _ v => remSigned (nth v 0) (nth v 1)

/-- REMU (R98): Unsigned remainder. -/
def execRemu (p : BitVec 3) (q : BitVec 1) (d a b : BitVec 4) (s : State) : Out :=
  compute (encR 1 p q (d.toNat) (a.toNat) (b.toNat) (18)) 4 p q d [a, b] s fun _ v => remUnsigned (nth v 0) (nth v 1)

/-- MIN (R97): Writes the signed minimum. -/
def execMin (p : BitVec 3) (q : BitVec 1) (d a b : BitVec 4) (s : State) : Out :=
  compute (encR 1 p q (d.toNat) (a.toNat) (b.toNat) (19)) 4 p q d [a, b] s fun _ v => if ltSigned (nth v 0) (nth v 1) then (nth v 0) else (nth v 1)

/-- MAX (R97): Writes the signed maximum. -/
def execMax (p : BitVec 3) (q : BitVec 1) (d a b : BitVec 4) (s : State) : Out :=
  compute (encR 1 p q (d.toNat) (a.toNat) (b.toNat) (20)) 4 p q d [a, b] s fun _ v => if ltSigned (nth v 1) (nth v 0) then (nth v 0) else (nth v 1)

/-- MINU (R97): Writes the unsigned minimum. -/
def execMinu (p : BitVec 3) (q : BitVec 1) (d a b : BitVec 4) (s : State) : Out :=
  compute (encR 1 p q (d.toNat) (a.toNat) (b.toNat) (21)) 4 p q d [a, b] s fun _ v => if (nth v 0).ult (nth v 1) then (nth v 0) else (nth v 1)

/-- MAXU (R97): Writes the unsigned maximum. -/
def execMaxu (p : BitVec 3) (q : BitVec 1) (d a b : BitVec 4) (s : State) : Out :=
  compute (encR 1 p q (d.toNat) (a.toNat) (b.toNat) (22)) 4 p q d [a, b] s fun _ v => if (nth v 1).ult (nth v 0) then (nth v 0) else (nth v 1)

/-- CLZ (R97): Counts leading zero bits of a. -/
def execClz (p : BitVec 3) (q : BitVec 1) (d a : BitVec 4) (s : State) : Out :=
  compute (encR 1 p q (d.toNat) (a.toNat) (0) (23)) 4 p q d [a] s fun _ v => BitVec.ofNat 64 (leadingZeros (nth v 0) 64)

/-- CTZ (R97): Counts trailing zero bits of a. -/
def execCtz (p : BitVec 3) (q : BitVec 1) (d a : BitVec 4) (s : State) : Out :=
  compute (encR 1 p q (d.toNat) (a.toNat) (0) (24)) 4 p q d [a] s fun _ v => BitVec.ofNat 64 (trailingZeros (nth v 0) 64)

/-- POPC (R97): Counts the one bits of a. -/
def execPopc (p : BitVec 3) (q : BitVec 1) (d a : BitVec 4) (s : State) : Out :=
  compute (encR 1 p q (d.toNat) (a.toNat) (0) (25)) 4 p q d [a] s fun _ v => BitVec.ofNat 64 (oneBits (nth v 0) 64)

/-- BREV (R97): Reverses the bit order of a. -/
def execBrev (p : BitVec 3) (q : BitVec 1) (d a : BitVec 4) (s : State) : Out :=
  compute (encR 1 p q (d.toNat) (a.toNat) (0) (26)) 4 p q d [a] s fun _ v => BitVec.ofNat 64 (reverseBits (nth v 0) 64)

/-- SEXTB (R97): Sign-extends the low byte of a. -/
def execSextb (p : BitVec 3) (q : BitVec 1) (d a : BitVec 4) (s : State) : Out :=
  compute (encR 1 p q (d.toNat) (a.toNat) (0) (27)) 4 p q d [a] s fun _ v => signLow (nth v 0) 8

/-- SEXTH (R97): Sign-extends the low half of a. -/
def execSexth (p : BitVec 3) (q : BitVec 1) (d a : BitVec 4) (s : State) : Out :=
  compute (encR 1 p q (d.toNat) (a.toNat) (0) (28)) 4 p q d [a] s fun _ v => signLow (nth v 0) 16

/-- SEXTW (R97): Sign-extends the low word of a. -/
def execSextw (p : BitVec 3) (q : BitVec 1) (d a : BitVec 4) (s : State) : Out :=
  compute (encR 1 p q (d.toNat) (a.toNat) (0) (29)) 4 p q d [a] s fun _ v => signLow (nth v 0) 32

/-- ZEXTB (R97): Zero-extends the low byte of a. -/
def execZextb (p : BitVec 3) (q : BitVec 1) (d a : BitVec 4) (s : State) : Out :=
  compute (encR 1 p q (d.toNat) (a.toNat) (0) (30)) 4 p q d [a] s fun _ v => zeroLow (nth v 0) 8

/-- ZEXTH (R97): Zero-extends the low half of a. -/
def execZexth (p : BitVec 3) (q : BitVec 1) (d a : BitVec 4) (s : State) : Out :=
  compute (encR 1 p q (d.toNat) (a.toNat) (0) (31)) 4 p q d [a] s fun _ v => zeroLow (nth v 0) 16

/-- ZEXTW (R97): Zero-extends the low word of a. -/
def execZextw (p : BitVec 3) (q : BitVec 1) (d a : BitVec 4) (s : State) : Out :=
  compute (encR 1 p q (d.toNat) (a.toNat) (0) (32)) 4 p q d [a] s fun _ v => zeroLow (nth v 0) 32

/-- BFX (R99): Extracts a bit field of a at the position and length given by b. -/
def execBfx (p : BitVec 3) (q : BitVec 1) (d a b : BitVec 4) (s : State) : Out :=
  compute (encR 1 p q (d.toNat) (a.toNat) (b.toNat) (33)) 4 p q d [a, b] s fun _ v => extractField (nth v 0) (nth v 1)

/-- BFI (R99): Inserts the low bits of a into gD at the field given by b. -/
def execBfi (p : BitVec 3) (q : BitVec 1) (d a b : BitVec 4) (s : State) : Out :=
  compute (encR 1 p q (d.toNat) (a.toNat) (b.toNat) (34)) 4 p q d [a, b, d] s fun _ v => insertField (nth v 2) (nth v 0) (nth v 1)

end Sys2Proof.Machine
end

