-- ==== Sys2Proof/Machine/Imm.lean ====
section
/-! DEFINITION. The instructions with immediates (R100 to R104). -/

namespace Sys2Proof.Machine

/-- ADDI (R101): Adds a sign-extended 14-bit immediate. -/
def execAddi (p : BitVec 3) (q : BitVec 1) (d a : BitVec 4) (imm : BitVec 14) (s : State) : Out :=
  compute (encI 2 p q (d.toNat) (a.toNat) (imm.toNat)) 4 p q d [a] s fun _ v => nth v 0 + sext14 imm

/-- ADDI_I38 (R101): Adds a sign-extended 38-bit immediate supplied by a kind-00 prefix. -/
def execAddiI38 (p : BitVec 3) (q : BitVec 1) (d a : BitVec 4) (imm : BitVec 38) (s : State) : Out :=
  compute (encI 2 p q (d.toNat) (a.toNat) (imm.toNat % 2 ^ 14)) 8 p q d [a] s fun _ v => nth v 0 + sext38 imm

/-- ANDI (R101): Ands a zero-extended 14-bit immediate. -/
def execAndi (p : BitVec 3) (q : BitVec 1) (d a : BitVec 4) (imm : BitVec 14) (s : State) : Out :=
  compute (encI 3 p q (d.toNat) (a.toNat) (imm.toNat)) 4 p q d [a] s fun _ v => nth v 0 &&& zext14 imm

/-- ANDI_I38 (R101): Ands a zero-extended 38-bit prefixed immediate. -/
def execAndiI38 (p : BitVec 3) (q : BitVec 1) (d a : BitVec 4) (imm : BitVec 38) (s : State) : Out :=
  compute (encI 3 p q (d.toNat) (a.toNat) (imm.toNat % 2 ^ 14)) 8 p q d [a] s fun _ v => nth v 0 &&& zext38 imm

/-- ORI (R101): Ors a zero-extended 14-bit immediate. -/
def execOri (p : BitVec 3) (q : BitVec 1) (d a : BitVec 4) (imm : BitVec 14) (s : State) : Out :=
  compute (encI 4 p q (d.toNat) (a.toNat) (imm.toNat)) 4 p q d [a] s fun _ v => nth v 0 ||| zext14 imm

/-- ORI_I38 (R101): Ors a zero-extended 38-bit prefixed immediate. -/
def execOriI38 (p : BitVec 3) (q : BitVec 1) (d a : BitVec 4) (imm : BitVec 38) (s : State) : Out :=
  compute (encI 4 p q (d.toNat) (a.toNat) (imm.toNat % 2 ^ 14)) 8 p q d [a] s fun _ v => nth v 0 ||| zext38 imm

/-- XORI (R101): Exclusive-ors a zero-extended 14-bit immediate. -/
def execXori (p : BitVec 3) (q : BitVec 1) (d a : BitVec 4) (imm : BitVec 14) (s : State) : Out :=
  compute (encI 5 p q (d.toNat) (a.toNat) (imm.toNat)) 4 p q d [a] s fun _ v => nth v 0 ^^^ zext14 imm

/-- XORI_I38 (R101): Exclusive-ors a zero-extended 38-bit prefixed immediate. -/
def execXoriI38 (p : BitVec 3) (q : BitVec 1) (d a : BitVec 4) (imm : BitVec 38) (s : State) : Out :=
  compute (encI 5 p q (d.toNat) (a.toNat) (imm.toNat % 2 ^ 14)) 8 p q d [a] s fun _ v => nth v 0 ^^^ zext38 imm

/-- SLLI (R102): Shifts a left by an immediate amount. -/
def execSlli (p : BitVec 3) (q : BitVec 1) (d a : BitVec 4) (n : BitVec 6) (s : State) : Out :=
  compute (encI 6 p q (d.toNat) (a.toNat) (0 * 2 ^ 12 + n.toNat)) 4 p q d [a] s fun _ v => nth v 0 <<< n.toNat

/-- SRLI (R102): Shifts a right logically by an immediate amount. -/
def execSrli (p : BitVec 3) (q : BitVec 1) (d a : BitVec 4) (n : BitVec 6) (s : State) : Out :=
  compute (encI 6 p q (d.toNat) (a.toNat) (1 * 2 ^ 12 + n.toNat)) 4 p q d [a] s fun _ v => nth v 0 >>> n.toNat

/-- SRAI (R102): Shifts a right arithmetically by an immediate amount. -/
def execSrai (p : BitVec 3) (q : BitVec 1) (d a : BitVec 4) (n : BitVec 6) (s : State) : Out :=
  compute (encI 6 p q (d.toNat) (a.toNat) (2 * 2 ^ 12 + n.toNat)) 4 p q d [a] s fun _ v => (nth v 0).sshiftRight n.toNat

/-- LI (R103): Loads a sign-extended 14-bit immediate into gD. -/
def execLi (p : BitVec 3) (q : BitVec 1) (d : BitVec 4) (imm : BitVec 14) (s : State) : Out :=
  compute (encI 7 p q (d.toNat) (0) (imm.toNat)) 4 p q d [] s fun _ _ => sext14 imm

/-- LI_I38 (R103): Loads a sign-extended 38-bit prefixed immediate into gD. -/
def execLiI38 (p : BitVec 3) (q : BitVec 1) (d : BitVec 4) (imm : BitVec 38) (s : State) : Out :=
  compute (encI 7 p q (d.toNat) (0) (imm.toNat % 2 ^ 14)) 8 p q d [] s fun _ _ => sext38 imm

/-- The value of lih: the low 26 bits of the immediate above bits [37:0] of d (R104). -/
def highPart (d v : Word) : Word := (v <<< 38) ||| zeroLow d 38

/-- LIH (R104): Writes the low 26 bits of the immediate into gD bits 63 to 38. -/
def execLih (p : BitVec 3) (q : BitVec 1) (d : BitVec 4) (imm : BitVec 14) (s : State) : Out :=
  compute (encI 8 p q (d.toNat) (0) (imm.toNat)) 4 p q d [d] s fun _ v => highPart (nth v 0) (sext14 imm)

/-- LIH_I38 (R104): lih with a 38-bit prefixed immediate. -/
def execLihI38 (p : BitVec 3) (q : BitVec 1) (d : BitVec 4) (imm : BitVec 38) (s : State) : Out :=
  compute (encI 8 p q (d.toNat) (0) (imm.toNat % 2 ^ 14)) 8 p q d [d] s fun _ v => highPart (nth v 0) (sext38 imm)

end Sys2Proof.Machine
end

