-- ==== Sys2Proof/Machine/Cmp.lean ====
section
/-! DEFINITION. Compares (R105 to R107) and predicates (R108). -/

namespace Sys2Proof.Machine

/-- The frame of a compare (R105): PD takes the condition, or its conjunction with PD. -/
def compareWith (word : Word32) (len : Nat) (p : BitVec 3) (q : BitVec 1) (pd : BitVec 3) (c : BitVec 1)
    (srcs : List (BitVec 4)) (s : State) (f : List Word → Bool) : Out :=
  effect word len p q srcs s fun tid t v s => s.retire tid (t.compare pd c (f v))

/-- Bits [31:0] as a binary32 value (R106). -/
def asFp32 (a : Word) : Ex := Fmt.fp32.decode (a.toNat % 2 ^ 32)

/-- EQ (R106): Sets or ands a predicate with a = b. -/
def execEq (p : BitVec 3) (q : BitVec 1) (pd : BitVec 3) (c : BitVec 1) (a b : BitVec 4) (s : State) : Out :=
  compareWith (encR 9 p q (pd.toNat * 2 + c.toNat) (a.toNat) (b.toNat) (0)) 4 p q pd c [a, b] s fun v => nth v 0 == nth v 1

/-- NE (R106): Sets or ands a predicate with a != b. -/
def execNe (p : BitVec 3) (q : BitVec 1) (pd : BitVec 3) (c : BitVec 1) (a b : BitVec 4) (s : State) : Out :=
  compareWith (encR 9 p q (pd.toNat * 2 + c.toNat) (a.toNat) (b.toNat) (1)) 4 p q pd c [a, b] s fun v => nth v 0 != nth v 1

/-- LT (R106): Sets or ands a predicate with signed a < b. -/
def execLt (p : BitVec 3) (q : BitVec 1) (pd : BitVec 3) (c : BitVec 1) (a b : BitVec 4) (s : State) : Out :=
  compareWith (encR 9 p q (pd.toNat * 2 + c.toNat) (a.toNat) (b.toNat) (2)) 4 p q pd c [a, b] s fun v => ltSigned (nth v 0) (nth v 1)

/-- GE (R106): Sets or ands a predicate with signed a >= b. -/
def execGe (p : BitVec 3) (q : BitVec 1) (pd : BitVec 3) (c : BitVec 1) (a b : BitVec 4) (s : State) : Out :=
  compareWith (encR 9 p q (pd.toNat * 2 + c.toNat) (a.toNat) (b.toNat) (3)) 4 p q pd c [a, b] s fun v => !ltSigned (nth v 0) (nth v 1)

/-- LTU (R106): Sets or ands a predicate with unsigned a < b. -/
def execLtu (p : BitVec 3) (q : BitVec 1) (pd : BitVec 3) (c : BitVec 1) (a b : BitVec 4) (s : State) : Out :=
  compareWith (encR 9 p q (pd.toNat * 2 + c.toNat) (a.toNat) (b.toNat) (4)) 4 p q pd c [a, b] s fun v => (nth v 0).ult (nth v 1)

/-- GEU (R106): Sets or ands a predicate with unsigned a >= b. -/
def execGeu (p : BitVec 3) (q : BitVec 1) (pd : BitVec 3) (c : BitVec 1) (a b : BitVec 4) (s : State) : Out :=
  compareWith (encR 9 p q (pd.toNat * 2 + c.toNat) (a.toNat) (b.toNat) (5)) 4 p q pd c [a, b] s fun v => !(nth v 0).ult (nth v 1)

/-- FEQ (R106): Binary32 equality compare into a predicate. -/
def execFeq (p : BitVec 3) (q : BitVec 1) (pd : BitVec 3) (c : BitVec 1) (a b : BitVec 4) (s : State) : Out :=
  compareWith (encR 9 p q (pd.toNat * 2 + c.toNat) (a.toNat) (b.toNat) (6)) 4 p q pd c [a, b] s fun v => (asFp32 (nth v 0)).eqv (asFp32 (nth v 1))

/-- FNE (R106): Binary32 inequality compare into a predicate. -/
def execFne (p : BitVec 3) (q : BitVec 1) (pd : BitVec 3) (c : BitVec 1) (a b : BitVec 4) (s : State) : Out :=
  compareWith (encR 9 p q (pd.toNat * 2 + c.toNat) (a.toNat) (b.toNat) (7)) 4 p q pd c [a, b] s fun v => !(asFp32 (nth v 0)).eqv (asFp32 (nth v 1))

/-- FLT (R106): Binary32 less-than compare into a predicate. -/
def execFlt (p : BitVec 3) (q : BitVec 1) (pd : BitVec 3) (c : BitVec 1) (a b : BitVec 4) (s : State) : Out :=
  compareWith (encR 9 p q (pd.toNat * 2 + c.toNat) (a.toNat) (b.toNat) (8)) 4 p q pd c [a, b] s fun v => (asFp32 (nth v 0)).lt (asFp32 (nth v 1))

/-- FLE (R106): Binary32 less-or-equal compare into a predicate. -/
def execFle (p : BitVec 3) (q : BitVec 1) (pd : BitVec 3) (c : BitVec 1) (a b : BitVec 4) (s : State) : Out :=
  compareWith (encR 9 p q (pd.toNat * 2 + c.toNat) (a.toNat) (b.toNat) (9)) 4 p q pd c [a, b] s fun v => (asFp32 (nth v 0)).lt (asFp32 (nth v 1)) || (asFp32 (nth v 0)).eqv (asFp32 (nth v 1))

/-- FUNORD (R106): Sets a predicate when either binary32 operand is NaN. -/
def execFunord (p : BitVec 3) (q : BitVec 1) (pd : BitVec 3) (c : BitVec 1) (a b : BitVec 4) (s : State) : Out :=
  compareWith (encR 9 p q (pd.toNat * 2 + c.toNat) (a.toNat) (b.toNat) (10)) 4 p q pd c [a, b] s fun v => (asFp32 (nth v 0)).isNan || (asFp32 (nth v 1)).isNan

/-- CMPEQI (R107): Compares a with a sign-extended immediate for equality. -/
def execCmpeqi (p : BitVec 3) (q : BitVec 1) (pd : BitVec 3) (c : BitVec 1) (a : BitVec 4) (imm : BitVec 14) (s : State) : Out :=
  compareWith (encI 10 p q (pd.toNat * 2 + c.toNat) (a.toNat) (imm.toNat)) 4 p q pd c [a] s fun v => nth v 0 == sext14 imm

/-- CMPEQI_I38 (R107): cmpeqi with a 38-bit prefixed immediate. -/
def execCmpeqiI38 (p : BitVec 3) (q : BitVec 1) (pd : BitVec 3) (c : BitVec 1) (a : BitVec 4) (imm : BitVec 38) (s : State) : Out :=
  compareWith (encI 10 p q (pd.toNat * 2 + c.toNat) (a.toNat) (imm.toNat % 2 ^ 14)) 8 p q pd c [a] s fun v => nth v 0 == sext38 imm

/-- CMPLTI (R107): Signed less-than compare with an immediate. -/
def execCmplti (p : BitVec 3) (q : BitVec 1) (pd : BitVec 3) (c : BitVec 1) (a : BitVec 4) (imm : BitVec 14) (s : State) : Out :=
  compareWith (encI 11 p q (pd.toNat * 2 + c.toNat) (a.toNat) (imm.toNat)) 4 p q pd c [a] s fun v => ltSigned (nth v 0) (sext14 imm)

/-- CMPLTI_I38 (R107): cmplti with a 38-bit prefixed immediate. -/
def execCmpltiI38 (p : BitVec 3) (q : BitVec 1) (pd : BitVec 3) (c : BitVec 1) (a : BitVec 4) (imm : BitVec 38) (s : State) : Out :=
  compareWith (encI 11 p q (pd.toNat * 2 + c.toNat) (a.toNat) (imm.toNat % 2 ^ 14)) 8 p q pd c [a] s fun v => ltSigned (nth v 0) (sext38 imm)

/-- CMPLTUI (R107): Unsigned less-than compare with a sign-extended immediate. -/
def execCmpltui (p : BitVec 3) (q : BitVec 1) (pd : BitVec 3) (c : BitVec 1) (a : BitVec 4) (imm : BitVec 14) (s : State) : Out :=
  compareWith (encI 12 p q (pd.toNat * 2 + c.toNat) (a.toNat) (imm.toNat)) 4 p q pd c [a] s fun v => (nth v 0).ult (sext14 imm)

/-- CMPLTUI_I38 (R107): cmpltui with a 38-bit prefixed immediate. -/
def execCmpltuiI38 (p : BitVec 3) (q : BitVec 1) (pd : BitVec 3) (c : BitVec 1) (a : BitVec 4) (imm : BitVec 38) (s : State) : Out :=
  compareWith (encI 12 p q (pd.toNat * 2 + c.toNat) (a.toNat) (imm.toNat % 2 ^ 14)) 8 p q pd c [a] s fun v => (nth v 0).ult (sext38 imm)

/-- PAND (R108): pD := pA and pB. -/
def execPand (p : BitVec 3) (q : BitVec 1) (pd pa pb : BitVec 3) (s : State) : Out :=
  effect (encR 13 p q (pd.toNat) (pa.toNat) (pb.toNat) (0)) 4 p q [] s fun tid t _ s => s.retire tid (t.setPred pd.toNat (t.pred pa.toNat && t.pred pb.toNat))

/-- POR (R108): pD := pA or pB. -/
def execPor (p : BitVec 3) (q : BitVec 1) (pd pa pb : BitVec 3) (s : State) : Out :=
  effect (encR 13 p q (pd.toNat) (pa.toNat) (pb.toNat) (1)) 4 p q [] s fun tid t _ s => s.retire tid (t.setPred pd.toNat (t.pred pa.toNat || t.pred pb.toNat))

/-- PXOR (R108): pD := pA xor pB. -/
def execPxor (p : BitVec 3) (q : BitVec 1) (pd pa pb : BitVec 3) (s : State) : Out :=
  effect (encR 13 p q (pd.toNat) (pa.toNat) (pb.toNat) (2)) 4 p q [] s fun tid t _ s => s.retire tid (t.setPred pd.toNat (t.pred pa.toNat != t.pred pb.toNat))

/-- PANDN (R108): pD := pA and not pB. -/
def execPandn (p : BitVec 3) (q : BitVec 1) (pd pa pb : BitVec 3) (s : State) : Out :=
  effect (encR 13 p q (pd.toNat) (pa.toNat) (pb.toNat) (3)) 4 p q [] s fun tid t _ s => s.retire tid (t.setPred pd.toNat (t.pred pa.toNat && !t.pred pb.toNat))

/-- PGET (R108): Copies the eight predicates into a general register. -/
def execPget (p : BitVec 3) (q : BitVec 1) (d : BitVec 4) (s : State) : Out :=
  compute (encR 13 p q (d.toNat) (0) (0) (4)) 4 p q d [] s fun t _ => t.predWord.setWidth 64

/-- PPUT (R108): Sets p1 to p7 from bits of a general register. -/
def execPput (p : BitVec 3) (q : BitVec 1) (a : BitVec 4) (s : State) : Out :=
  effect (encR 13 p q (0) (a.toNat) (0) (5)) 4 p q [a] s fun tid t v s =>
    s.retire tid { t with p := (nth v 0).setWidth 8 ||| 1 }

end Sys2Proof.Machine
end

