-- ==== Sys2Proof/Machine/Jump.lean ====
section
/-! DEFINITION. Branches and jumps (R109, R110). -/

namespace Sys2Proof.Machine

/-- A taken branch or jump (R109, R110), with its trace record when the context traces jumps; the record may hold the
thread (R368, R373). -/
def State.jump (s : State) (tid : Nat) (t : Thread) (target : Word) : State :=
  let c := coreOf tid
  match s.traceSoft (cxOf c t) (coreDie c) 0 { ts := s.time c, src := srcOf tid, kind := 0x81, seq := 0, obj := target.toNat,
                                               pc := t.pc.toNat % 2 ^ 32, out := 0 } with
  | some s => s.setThread tid { t.past with pc := target }
  | none => s.wait tid t (.held .logFull)

/-- Whether a jump of the thread would be held for its trace record (R368). -/
def State.jumpHeld (s : State) (tid : Nat) (t : Thread) : Bool :=
  let c := coreOf tid
  (s.traceSoft (cxOf c t) (coreDie c) 0 { ts := 0, src := 0, kind := 0x81, seq := 0, obj := 0, pc := 0, out := 0 }).isNone

/-- A jump to the address in a register, with an optional link (R110). -/
def jumpReg (word : Word32) (p : BitVec 3) (q : BitVec 1) (d a : BitVec 4) (s : State) : Out :=
  frame word 4 p q s fun tid t s => s.operands tid t word [a] [d] fun v s1 =>
      let target := nth v 0
      if target.toNat % 4 ≠ 0 then s.trap tid t 6 target
      else if State.writeRefused tid d (t.pc + 4) then s.trap tid t 1 (word.setWidth 64)
      else if s.jumpHeld tid t then s.wait tid t (.held .logFull)
      else
        let w := s1.writeReg tid t d (t.pc + 4)
        w.1.jump tid w.2 target

/-- BR (R109): Branches pc-relative when the predicate holds. -/
def execBr (p : BitVec 3) (q : BitVec 1) (off : BitVec 22) (s : State) : Out :=
  frame (encJ 14 p q off.toNat) 4 p q s fun tid t s => s.jump tid t (branchTarget t.pc off)

/-- JAL (R109): Writes the return address into g9 and branches pc-relative. -/
def execJal (p : BitVec 3) (q : BitVec 1) (off : BitVec 22) (s : State) : Out :=
  frame (encJ 15 p q off.toNat) 4 p q s fun tid t s =>
    if s.jumpHeld tid t then s.wait tid t (.held .logFull)
    else s.jump tid (t.setReg 9 (t.pc + 4)) (branchTarget t.pc off)

/-- JR (R110): Jumps to the address in gA, faulting on misalignment. -/
def execJr (p : BitVec 3) (q : BitVec 1) (a : BitVec 4) (s : State) : Out :=
  jumpReg (encR 16 p q (0) (a.toNat) (0) (0)) p q 10 a s

/-- JALR (R110): Links pc + 4 into gD and jumps to gA. -/
def execJalr (p : BitVec 3) (q : BitVec 1) (d a : BitVec 4) (s : State) : Out :=
  jumpReg (encR 16 p q (d.toNat) (a.toNat) (0) (1)) p q d a s

end Sys2Proof.Machine
end

