-- ==== Sys2Proof/Machine/Fp.lean ====
section
/-! DEFINITION. Scalar FP32 (R111 to R113) and conversion (R114, R115). -/

namespace Sys2Proof.Machine

/-- An FP-R member that rounds (R111): one draw when the mode is stochastic; bits [63:32] of gD are 0. -/
def fpRound (word : Word32) (p : BitVec 3) (q : BitVec 1) (d : BitVec 4) (srcs : List (BitVec 4)) (m : BitVec 2) (s : State)
    (f : List Word → Ex) : Out :=
  act word 4 p q srcs [d] s fun tid t s0 v s =>
    let r := s.roundTo tid (cxOf (coreOf tid) t) .fp32 (modeOf m t.rnd) true (f v)
    s0.finish r.2 tid t word d (BitVec.ofNat 64 r.1)

/-- fmin and fmax (R113): the pattern of the lesser or the greater operand; a NaN gives the other operand. -/
def fpPick (greater : Bool) (a b : Word) : Word :=
  let x := asFp32 a
  let y := asFp32 b
  if x.isNan && y.isNan then 0x7FC00000
  else if x.isNan then zeroLow b 32
  else if y.isNan then zeroLow a 32
  else if (if greater then x.lessIeee y else y.lessIeee x) then zeroLow b 32 else zeroLow a 32

/-- FADD (R112): Binary32 addition rounded once. -/
def execFadd (p : BitVec 3) (q : BitVec 1) (d a b : BitVec 4) (m : BitVec 2) (s : State) : Out :=
  fpRound (encR 17 p q (d.toNat) (a.toNat) (b.toNat) (m.toNat * 2 ^ 8 + 0)) p q d [a, b] m s fun v => (asFp32 (nth v 0)).add (asFp32 (nth v 1))

/-- FSUB (R112): Binary32 subtraction rounded once. -/
def execFsub (p : BitVec 3) (q : BitVec 1) (d a b : BitVec 4) (m : BitVec 2) (s : State) : Out :=
  fpRound (encR 17 p q (d.toNat) (a.toNat) (b.toNat) (m.toNat * 2 ^ 8 + 1)) p q d [a, b] m s fun v => (asFp32 (nth v 0)).sub (asFp32 (nth v 1))

/-- FMUL (R112): Binary32 multiplication rounded once. -/
def execFmul (p : BitVec 3) (q : BitVec 1) (d a b : BitVec 4) (m : BitVec 2) (s : State) : Out :=
  fpRound (encR 17 p q (d.toNat) (a.toNat) (b.toNat) (m.toNat * 2 ^ 8 + 2)) p q d [a, b] m s fun v => (asFp32 (nth v 0)).mul (asFp32 (nth v 1))

/-- FDIV (R112): Binary32 division rounded once. -/
def execFdiv (p : BitVec 3) (q : BitVec 1) (d a b : BitVec 4) (m : BitVec 2) (s : State) : Out :=
  fpRound (encR 17 p q (d.toNat) (a.toNat) (b.toNat) (m.toNat * 2 ^ 8 + 3)) p q d [a, b] m s fun v => (asFp32 (nth v 0)).div (asFp32 (nth v 1))

/-- FSQRT (R112): Binary32 square root rounded once. -/
def execFsqrt (p : BitVec 3) (q : BitVec 1) (d a : BitVec 4) (m : BitVec 2) (s : State) : Out :=
  fpRound (encR 17 p q (d.toNat) (a.toNat) (0) (m.toNat * 2 ^ 8 + 4)) p q d [a] m s fun v => (asFp32 (nth v 0)).sqrt

/-- FMADD (R112): Fused binary32 multiply-add rounded once. -/
def execFmadd (p : BitVec 3) (q : BitVec 1) (d a b : BitVec 4) (m : BitVec 2) (s : State) : Out :=
  fpRound (encR 17 p q (d.toNat) (a.toNat) (b.toNat) (m.toNat * 2 ^ 8 + 9)) p q d [a, b, d] m s fun v =>
    ((asFp32 (nth v 0)).mul (asFp32 (nth v 1))).add (asFp32 (nth v 2))

/-- FMIN (R113): Binary32 minimum returning the non-NaN operand. -/
def execFmin (p : BitVec 3) (q : BitVec 1) (d a b : BitVec 4) (s : State) : Out :=
  compute (encR 17 p q (d.toNat) (a.toNat) (b.toNat) (5)) 4 p q d [a, b] s fun _ v => fpPick false (nth v 0) (nth v 1)

/-- FMAX (R113): Binary32 maximum returning the non-NaN operand. -/
def execFmax (p : BitVec 3) (q : BitVec 1) (d a b : BitVec 4) (s : State) : Out :=
  compute (encR 17 p q (d.toNat) (a.toNat) (b.toNat) (6)) 4 p q d [a, b] s fun _ v => fpPick true (nth v 0) (nth v 1)

/-- FABS (R112): Clears the sign bit of a binary32 pattern. -/
def execFabs (p : BitVec 3) (q : BitVec 1) (d a : BitVec 4) (s : State) : Out :=
  compute (encR 17 p q (d.toNat) (a.toNat) (0) (7)) 4 p q d [a] s fun _ v => nth v 0 &&& 0x7FFFFFFF

/-- FNEG (R112): Inverts the sign bit of a binary32 pattern. -/
def execFneg (p : BitVec 3) (q : BitVec 1) (d a : BitVec 4) (s : State) : Out :=
  compute (encR 17 p q (d.toNat) (a.toNat) (0) (8)) 4 p q d [a] s fun _ v => zeroLow (nth v 0) 32 ^^^ 0x80000000

/-- The image of a converted pattern in gD: a signed integer sign-extended, every other pattern zero-extended (R115). -/
def cvtImage (f : Fmt) (w : Nat) : Word :=
  if f.isInt && f.isSigned then signLow (BitVec.ofNat 64 w) f.width else BitVec.ofNat 64 w

/-- CVT (R114): Converts a value between two format codes with one rounding. -/
def execCvt (p : BitVec 3) (q : BitVec 1) (d a : BitVec 4) (m : BitVec 2) (dst src : BitVec 4) (s : State) : Out :=
  act (encR 18 p q (d.toNat) (a.toNat) (0) (m.toNat * 2 ^ 8 + dst.toNat * 2 ^ 4 + src.toNat)) 4 p q [a] [d] s fun tid t s0 v s =>
    match Fmt.ofCode src.toNat, Fmt.ofCode dst.toNat with
    | some f, some g =>
      let r := s.roundTo tid (cxOf (coreOf tid) t) g (modeOf m t.rnd) true (f.decode (nth v 0).toNat)
      s0.finish r.2 tid t (encR 18 p q (d.toNat) (a.toNat) (0) (m.toNat * 2 ^ 8 + dst.toNat * 2 ^ 4 + src.toNat)) d (cvtImage g r.1)
    | _, _ => s0.trap tid t 1 (BitVec.setWidth 64 (encR 18 p q (d.toNat) (a.toNat) (0) (m.toNat * 2 ^ 8 + dst.toNat * 2 ^ 4 + src.toNat)))

end Sys2Proof.Machine
end

