-- ==== Sys2Proof/Machine/Sys.lean ====
section
/-! DEFINITION. System registers (R116, R117, R192 to R202, R221, R222, R325, R357, R366), the system group SYS-R (R118 to R126), and the fates of words that are no instruction here (R70 to R75). -/

namespace Sys2Proof.Machine

/-! System registers (R80, R116, R192, R325). -/

/-- The pending bit of the occupant's slot for its context (R178). -/
def State.wakePending (s : State) (tid ctx : Nat) : Bool := ((s.core (coreOf tid)).wakes.at (false, 0) (4 * slotOf tid + ctx)).1

/-- xlist: V and X on every core, M on a compute core, W on a service core (R73). -/
def xlistOf (c : Nat) : Nat := if isService c then 0x0D else 0x07

/-- The acct register (R221). -/
def Core.acctWord (k : Core) : Nat :=
  k.acctArea.toNat * 1024 + 4 * k.acctClr.toNat + 2 * k.acctSnap.toNat + k.acctRun.toNat

/-- The value of a system register for a thread; none where the number names no register (R60). coreid, the physical core number, is
the logical one (DESIGN CHOICE, log 80). -/
def State.sysReg (s : State) (tid : Nat) (t : Thread) (n : Nat) : Option Word :=
  let c := coreOf tid
  let k := s.core c
  let x := s.ctx (cxOf c t)
  let l := x.log (coreDie c)
  match n with
  | 0x00 => some (BitVec.ofNat 64 (t.statusWord (s.wakePending tid t.ctx) 1))
  | 0x01 => some (t.cause.setWidth 64)
  | 0x02 => some t.epc
  | 0x03 => some t.ebad
  | 0x04 => some (t.rnd.setWidth 64)
  | 0x05 => some t.scl
  | 0x06 => some t.shb
  | 0x07 => some (t.mprog.setWidth 64)
  | 0x08 => some (BitVec.ofNat 64 c)
  | 0x09 => some (BitVec.ofNat 64 (slotOf tid))
  | 0x0A => some (BitVec.ofNat 64 c)
  | 0x0B => some (BitVec.ofNat 64 t.ctx)
  | 0x0C => some (t.rmode.setWidth 64)
  | 0x40 => some (BitVec.ofNat 64 (k.rotPend.getD k.rotShr).toNat)
  | 0x41 => some (BitVec.ofNat 64 (k.slotPend.isSome.toNat * 2 ^ 63 + k.slotOff.toNat))
  | 0x42 => some k.donord
  | 0x43 => some (BitVec.ofNat 64 (xlistOf c))
  | 0x44 => some k.vbstall
  | 0x45 => some (BitVec.ofNat 64 k.acctWord)
  | 0x80 => some x.segbase
  | 0x81 => some x.trapvec
  | 0x82 => some l.base
  | 0x83 => some l.size
  | 0x84 => some l.prod
  | 0x85 => some l.cons
  | 0x86 => some (x.replay.setWidth 64)
  | 0x87 => some x.rtimeout
  | 0x88 => some x.seed
  | _ => none

/-- RDSR (R116): Reads a system register into gD. -/
def execRdsr (p : BitVec 3) (q : BitVec 1) (d : BitVec 4) (sys : BitVec 14) (s : State) : Out :=
  act (encI 19 p q (d.toNat) (0) (sys.toNat)) 4 p q [] [d] s fun tid t s0 _ s =>
    match s.sysReg tid t sys.toNat with
    | some v => s0.finish s tid t (encI 19 p q (d.toNat) (0) (sys.toNat)) d v
    | none => s0.trap tid t 1 (BitVec.setWidth 64 (encI 19 p q (d.toNat) (0) (sys.toNat)))

/-- Bits [1:0] written as 0 (R80, R325). -/
def wordAligned (v : Word) : Word := v &&& ~~~3

/-- A write to a register shared by the package: serialised at die 0, complete when every core holds it (R325). -/
def State.writeShared (s : State) (tid : Nat) (t : Thread) (n : Nat) (v : Word) : State :=
  s.wait tid t (.mem { kind := .ctxWrite, vals := [v], n := n })

/-- A write to a register with no row of its own (R80, R202, R325): all of them are privileged. -/
def State.writeSys (s0 s : State) (tid : Nat) (t : Thread) (word : Word32) (n : Nat) (v : Word) : State :=
  match n with
  | 0x00 => s.retire tid { t with tfl := v.getLsbD 5 }
  | 0x01 => s.retire tid { t with cause := v.setWidth 8 }
  | 0x02 => s.retire tid { t with epc := wordAligned v }
  | 0x03 => s.retire tid { t with ebad := v }
  | 0x44 => (s.modCore (coreOf tid) fun k => { k with vbstall := v }).retire tid t
  | 0x81 => s.writeShared tid t n (wordAligned v)
  | 0x87 => s.writeShared tid t n v
  | 0x88 => s.writeShared tid t n v
  | _ => s0.trap tid t 1 (word.setWidth 64)

/-- WRSR (R116): Writes gA into a system register that has no row of its own. -/
def execWrsr (p : BitVec 3) (q : BitVec 1) (a : BitVec 4) (sys : BitVec 14) (s : State) : Out :=
  act (encI 36 p q (0) (a.toNat) (sys.toNat)) 4 p q [a] [] s (fun tid t s0 v s => s0.writeSys s tid t (encI 36 p q (0) (a.toNat) (sys.toNat)) sys.toNat (nth v 0)) (priv := true)

/-- WRSR_VECTOR_STATE (R117): A write to fmt, scl or shb holds the thread until its vector sequencer is empty, then writes. -/
def execWrsrVectorState (p : BitVec 3) (q : BitVec 1) (a : BitVec 4) (sys : BitVec 14) (s : State) : Out :=
  act (encI 36 p q (0) (a.toNat) (sys.toNat)) 4 p q [a] [] s fun tid t s0 v s =>
    if !t.seq.ents.isEmpty then s0.wait tid t (.held .push)
    else
      let x := nth v 0
      match sys.toNat with
      | 0x04 => s.retire tid { t with rnd := x.setWidth 2 }
      | 0x05 => s.retire tid { t with scl := x }
      | 0x06 => s.retire tid { t with shb := x &&& 0xFFFE0 }
      | _ => s0.trap tid t 1 (BitVec.setWidth 64 (encI 36 p q (0) (a.toNat) (sys.toNat)))

/-- The places of the first and the last byte of n bytes of this package's HBM (R129); a miss asks for a walk. -/
def State.reach (s : State) (c la n : Nat) : Xlat × State :=
  match s.translate c la with
  | (.ok a, s) =>
    match s.translate c (la + n - 1) with
    | (.ok _, s) => (.ok a, s)
    | m => m
  | m => m

/-- A miss of the thread's access (R186): cause 0x07 when the walker has found no entry for the page, PageWait otherwise. -/
def State.pageMiss (s : State) (tid : Nat) (t : Thread) (pkg off : Nat) (ebad : Word) : State :=
  if t.noEntry = some (pkg, off / 65536) then s.trap tid t 7 ebad
  else (s.wait tid t (.page pkg off)).askWalk (portOf (coreOf tid) pkg off) off (.thread tid)

/-- WRSR_SEGBASE (R129): A write to segbase reads the new descriptors and completes when every core holding the context has read them. -/
def execWrsrSegbase (p : BitVec 3) (q : BitVec 1) (a : BitVec 4) (s : State) : Out :=
  act (encI 36 p q (0) (a.toNat) (128)) 4 p q [a] [] s (fun tid t s0 v s =>
    let x := nth v 0 &&& ~~~15
    let c := coreOf tid
    let la := canonLa (corePkg c) x.toNat
    if 2 ^ 60 ≤ x.toNat ∨ 2 ^ 43 ≤ la + 127 then s0.trap tid t 7 (nth v 0)
    else match s.reach c la 128 with
      | (.miss pkg off, _) => s0.pageMiss tid t pkg off (nth v 0)
      | (.ok _, s) => s.wait tid t (.mem { kind := .segRead, vals := [x, nth v 0], n := la })) (priv := true)

/-- WRSR_ROTMODE (R193): A write to rotmode records the new rotation mode, to take effect at the next multiple of 16. -/
def execWrsrRotmode (p : BitVec 3) (q : BitVec 1) (a : BitVec 4) (s : State) : Out :=
  effect (encI 36 p q (0) (a.toNat) (64)) 4 p q [a] s (fun tid t v s =>
    (s.modCore (coreOf tid) fun k => { k with rotPend := some ((nth v 0).getLsbD 0) }).retire tid t) (priv := true)

/-- ROTMODE_SWITCH (R193): At the next cycle that is a multiple of 16 the written rotation mode takes effect. -/
def execRotmodeSwitch (core : Nat) (s : State) : Out :=
  if s.clock % 16 = 0 then
    .next (s.modCore core fun k => { k with rotShr := k.rotPend.getD k.rotShr, rotPend := none })
  else .next s

/-- The fields of a donord value name every slot once (R193). -/
def isPermutation (w : Word) : Bool :=
  (List.range 16).all fun x => (List.range 16).any fun i => bits w.toNat (4 * i + 3) (4 * i) == x

/-- WRSR_DONORD (R193): A write to donord sets the donation order if it is a permutation. -/
def execWrsrDonord (p : BitVec 3) (q : BitVec 1) (a : BitVec 4) (s : State) : Out :=
  act (encI 36 p q (0) (a.toNat) (66)) 4 p q [a] [] s (fun tid t s0 v s =>
    if isPermutation (nth v 0) then (s.modCore (coreOf tid) fun k => { k with donord := nth v 0 }).retire tid t
    else s0.trap tid t 1 (BitVec.setWidth 64 (encI 36 p q (0) (a.toNat) (66)))) (priv := true)

/-- A slot table's bytes at positions 0 to 29 are slots or 0xFF (R199). -/
def slotTabLegal (b : List Byte) : Bool := (b.take 30).all fun x => decide (x.toNat < 16) || x == 0xFF

/-- WRSR_SLOTTAB (R199): Copies a 32-byte vector slot table into the pending table and sets PEND. -/
def execWrsrSlottab (p : BitVec 3) (q : BitVec 1) (a : BitVec 4) (s : State) : Out :=
  act (encI 36 p q (0) (a.toNat) (65)) 4 p q [a] [] s (fun tid t s0 v s =>
    let c := coreOf tid
    match s.check c t.ctx (nth v 0) 32 segR 1 with
    | .error x => s0.trapAt tid t t.pc x
    | .ok la =>
      if laRegion la ≠ 1 ∨ laCore la ≠ c then s0.trap tid t 0x0C (nth v 0)
      else if s.isBad la 32 then s0.trap tid t 8 (nth v 0)
      else
        let b := s.mem.bytes la 32
        if !slotTabLegal b then s0.trap tid t 1 (BitVec.setWidth 64 (encI 36 p q (0) (a.toNat) (65)))
        else (s.modCore c fun k => { k with slotPend := some b, slotOff := BitVec.ofNat 20 (laOff la) }).retire tid t)
    (priv := true)

/-- WRSR_ACCT (R221): Writes the time-account control, possibly requesting a snapshot. -/
def execWrsrAcct (p : BitVec 3) (q : BitVec 1) (a : BitVec 4) (s : State) : Out :=
  effect (encI 36 p q (0) (a.toNat) (69)) 4 p q [a] s (fun tid t v s =>
    let x := nth v 0
    (s.modCore (coreOf tid) fun k =>
      { k with acctArea := (x >>> 10).setWidth 10, acctClr := x.getLsbD 2, acctSnap := k.acctSnap || x.getLsbD 1,
               acctRun := x.getLsbD 0 }).retire tid t) (priv := true)

/-- The words of a snapshot with their places in the dump area (R222): none where the area does not lie in the core's local store. -/
def Core.acctDump (k : Core) (core : Nat) : List (Nat × Nat) :=
  if 1024 * k.acctArea.toNat + 1024 ≤ lsSize core then
    (List.range 113).map fun i => (lsAddr core (1024 * k.acctArea.toNat + 8 * i), k.acctCnt.at 0 i)
  else []

/-- Sets n words full from a local-store address (R145). -/
def State.setFullN (s : State) (la : Nat) (v : Bool) : Nat → State
  | 0 => s
  | n + 1 => State.setFullN (s.setFull la v) (la + 8) v n

/-- A requested snapshot is taken: its words wait for their DMA turns, and with CLR the counters start anew (R221, R222). -/
def Core.takeSnapshot (k : Core) (core : Nat) : Core :=
  if k.acctSnap && k.acctOut.isEmpty then
    { k with acctOut := k.acctDump core, acctSnap := !(k.acctDump core).isEmpty, acctCnt := if k.acctClr then [] else k.acctCnt }
  else k

/-- The next word of a snapshot is written and set full; SNAP clears with the last one (R221, R222). -/
def State.writeSnapshot (s : State) (core : Nat) : State :=
  match (s.core core).acctOut with
  | (la, v) :: r =>
    ((s.modCore core fun k => { k with acctOut := r, acctSnap := k.acctSnap && !r.isEmpty }).store la 8 v).setFull la true
  | [] => s

/-- ACCT_SNAPSHOT (R222): The requested time-account snapshot is taken, and written to the dump area in DMA turns, after which SNAP
clears. n is the core whose snapshot is taken; from 2^47 on, of a core that has a DMA turn for the next word. -/
def execAcctSnapshot (n : Nat) (s : State) : Out :=
  if 2 ^ 47 ≤ n then .next (s.writeSnapshot (n - 2 ^ 47)) else .next (s.modCore n (·.takeSnapshot n))

/-- A ring size: a power of two from 65,536 to 2^40 (R357). -/
def logSizeLegal (v : Nat) : Bool := (List.range 25).any fun k => v == 2 ^ (16 + k)

/-- WRSR_LOG_RING (R357): A write to logbase or logsize moves the die's log ring and zeroes logprod and logcons. -/
def execWrsrLogRing (p : BitVec 3) (q : BitVec 1) (a : BitVec 4) (sys : BitVec 14) (s : State) : Out :=
  act (encI 36 p q (0) (a.toNat) (sys.toNat)) 4 p q [a] [] s (fun tid t s0 v s =>
    let c := coreOf tid
    let cx := cxOf c t
    let x := nth v 0
    if (s.ctx cx).replay ≠ 0 ∨ (sys = 0x83 ∧ logSizeLegal x.toNat = false) then s0.trap tid t 1 (BitVec.setWidth 64 (encI 36 p q (0) (a.toNat) (sys.toNat)))
    else
      (s.modCtx cx fun k =>
        let u := k.log (coreDie c)
        k.setLog (coreDie c)
          { u with base := if sys = 0x82 then x &&& ~~~0xFFFF else u.base, size := if sys = 0x83 then x else u.size,
                   prod := 0, cons := 0, retired := [], nextRead := 0 }).retire tid t) (priv := true)

/-- WRSR_LOGCONS (R358): Advances the software index of the log ring, freeing slots or loading replay records. -/
def execWrsrLogcons (p : BitVec 3) (q : BitVec 1) (a : BitVec 4) (s : State) : Out :=
  act (encI 36 p q (0) (a.toNat) (133)) 4 p q [a] [] s (fun tid t s0 v s =>
    let c := coreOf tid
    let cx := cxOf c t
    let x := nth v 0
    let u := (s.ctx cx).log (coreDie c)
    let top := if (s.ctx cx).replay = 2 then u.prod.toNat + u.size.toNat / 32 else u.prod.toNat
    if u.cons.toNat ≤ x.toNat ∧ x.toNat ≤ top then
      (s.modCtx cx fun k => k.setLog (coreDie c) { u with cons := x }).retire tid t
    else s0.trap tid t 1 (BitVec.setWidth 64 (encI 36 p q (0) (a.toNat) (133)))) (priv := true)

/-- WRSR_REPLAY (R366): Changes the context's record or replay mode, ending replay on a write of 00. -/
def execWrsrReplay (p : BitVec 3) (q : BitVec 1) (a : BitVec 4) (s : State) : Out :=
  act (encI 36 p q (0) (a.toNat) (134)) 4 p q [a] [] s (fun tid t s0 v s =>
    let x := (nth v 0).toNat % 4
    if 2 ≤ x ∨ (x = 1 ∧ (s.ctx (cxOf (coreOf tid) t)).replay = 2) then s0.trap tid t 1 (BitVec.setWidth 64 (encI 36 p q (0) (a.toNat) (134)))
    else s.writeShared tid t 0x86 (BitVec.ofNat 64 x)) (priv := true)

/-- TRAP (R119): Raises cause 0x0F with ebad holding gA. -/
def execTrap (p : BitVec 3) (q : BitVec 1) (a : BitVec 4) (s : State) : Out :=
  act (encR 35 p q (0) (a.toNat) (0) (0)) 4 p q [a] [] s fun tid t s0 v _ => s0.trap tid t 0x0F (nth v 0)

/-- ERET (R120): Returns to epc and clears SUP and TFL. -/
def execEret (p : BitVec 3) (q : BitVec 1) (s : State) : Out :=
  frame (encR 35 p q (0) (0) (0) (1)) 4 p q s (fun tid t s => s.trapReturn tid t) (priv := true)

/-- BRK (R121): Raises a breakpoint trap, cause 0x10. -/
def execBrk (p : BitVec 3) (q : BitVec 1) (s : State) : Out :=
  frame (encR 35 p q (0) (0) (0) (2)) 4 p q s fun tid t s => s.trap tid t 0x10 0

/-- The first halt accepted gives the exit code, and the context becomes Halting (R122, R314). -/
def State.acceptHalt (s : State) (cx : Nat) (code : BitVec 32) : State :=
  s.modCtx cx fun k => if k.st = .running then { k with st := .halting, exitCode := code } else k

/-- HALT (R122): Ends the context's run on the package with an exit code. It is accepted once the thread's own relaxed accesses have
completed; while a body is open it traps with cause 0x01, in a frozen sequencer too (R238, log 61). -/
def execHalt (p : BitVec 3) (q : BitVec 1) (a : BitVec 4) (s : State) : Out :=
  act (encR 35 p q (0) (a.toNat) (0) (3)) 4 p q [a] [] s fun tid t s0 v s =>
    if t.seq.isOpen then s0.trap tid t 1 (BitVec.setWidth 64 (encR 35 p q (0) (a.toNat) (0) (3)))
    else s0.drained tid t ((s.acceptHalt (cxOf (coreOf tid) t) ((nth v 0).setWidth 32)).vacate tid)

/-- TSR (R123): Reads the core's time-stamp counter. -/
def execTsr (p : BitVec 3) (q : BitVec 1) (d : BitVec 4) (s : State) : Out :=
  act (encR 35 p q (d.toNat) (0) (0) (4)) 4 p q [] [d] s fun tid t s0 _ s => s0.finish s tid t (encR 35 p q (d.toNat) (0) (0) (4)) d (BitVec.ofNat 64 (s.time (coreOf tid)))

/-- n successive draws as one number, the first lowest (R124). -/
def State.draws (s : State) (tid cx : Nat) : Nat → Nat × State
  | 0 => (0, s)
  | n + 1 =>
    let a := s.draw tid cx
    let b := State.draws a.2 tid cx n
    (a.1 + 65536 * b.1, b.2)

/-- RNG (R124): Draws four 16-bit values from the slot's stochastic counter. -/
def execRng (p : BitVec 3) (q : BitVec 1) (d : BitVec 4) (s : State) : Out :=
  act (encR 35 p q (d.toNat) (0) (0) (5)) 4 p q [] [d] s fun tid t s0 _ s =>
    let r := s.draws tid (cxOf (coreOf tid) t) 4
    s0.finish r.2 tid t (encR 35 p q (d.toNat) (0) (0) (5)) d (BitVec.ofNat 64 r.1)

/-- LOGM (R125): Writes or checks a marker record in the order log. -/
def execLogm (p : BitVec 3) (q : BitVec 1) (a b : BitVec 4) (s : State) : Out :=
  act (encR 35 p q (0) (a.toNat) (b.toNat) (6)) 4 p q [a, b] [] s fun tid t s0 v s =>
    s0.logged s tid t (coreOf tid) 0x0F (nth v 0).toNat ((nth v 1).toNat % 2 ^ 32) fun s _ => s.retire tid t

/-- NOP (R126): Does nothing beyond its issue turn. -/
def execNop (p : BitVec 3) (q : BitVec 1) (s : State) : Out :=
  frame (encR 35 p q (0) (0) (0) (7)) 4 p q s fun tid t s => s.retire tid t

/-- A trap of the word at the current thread's pc (R70); nothing where no thread runs (log 10). -/
def trapCurrent (s : State) (cause : Nat) (w : Word32) : Out :=
  match s.thread s.cur with
  | some t => .next (s.trap s.cur t cause (w.setWidth 64))
  | none => .next s

/-- ILLEGAL_INSTRUCTION (R70): A word with a reserved major, bad prefix or illegal field raises cause 0x01. -/
def execIllegalInstruction (w : BitVec 32) (s : State) : Out :=
  trapCurrent s 1 w

/-- EXTENSION_ABSENT (R73): A word of majors 37 to 39 raises cause 0x12 whatever its predicate. -/
def execExtensionAbsent (w : BitVec 32) (s : State) : Out :=
  trapCurrent s 0x12 w

/-- The extension that a word's major belongs to, of those that a core may lack (R73). -/
def extOfWord (w : Word32) : Option Ext :=
  let m := w.toNat / 2 ^ 26
  if 48 ≤ m ∧ m ≤ 52 then some .matrix else if m = 59 then some .walker else none

/-- EXTENSION_MIGRATION (R74): An instruction whose extension the core lacks migrates the thread to the first candidate core. -/
def execExtensionMigration (w : BitVec 32) (s : State) : Out :=
  match s.thread s.cur, extOfWord w with
  | some t, some x => if hasExt (coreOf s.cur) x then .next s else .next (s.extMigrate s.cur t x w)
  | _, _ => .next s

end Sys2Proof.Machine
end

