-- ==== Sys2Proof/Machine/LoadStore.lean ====
section
/-! DEFINITION. Loads and stores, plain and relaxed (R135 to R144). -/

namespace Sys2Proof.Machine

/-- The value of n loaded bytes, sign- or zero-extended (R136). -/
def extended (n : Nat) (sgn : Bool) (v : Nat) : Word :=
  if sgn then signLow (BitVec.ofNat 64 v) (8 * n) else BitVec.ofNat 64 v

/-- Two ranges of bytes touch a common byte. -/
def overlaps (a n b m : Nat) : Bool := decide (a < b + m) && decide (b < a + n)

/-- Two places share a byte: as memory stands now, or by their region-0 offsets, which a page move or a pending walk leaves as they
are. -/
def State.sharesByte (s : State) (a : Loc) (n : Nat) (b : Loc) (m : Nat) : Bool :=
  overlaps (s.place a).key n (s.place b).key m || match a, b with
    | .hbm p o _, .hbm q u _ => p == q && overlaps o n u m
    | _, _ => false

/-- An access touches a byte of an outstanding relaxed access, or of its landing word (R164 note 2). -/
def State.touches (s : State) (r : Relaxed) (l : Loc) (n : Nat) : Bool :=
  s.sharesByte r.place r.n l n || (!r.store && s.sharesByte (.loc r.land) 8 l n)

/-- A relaxed access touches an earlier one: its data, or its own landing word (R164 note 2). -/
def State.meets (s : State) (earlier r : Relaxed) : Bool :=
  s.touches earlier r.place r.n || (!r.store && s.touches earlier (.loc r.land) 8)

/-- The place of a relaxed access whose page is still being walked: an offset, and a physical address that no frame has. -/
def pendingPlace (pkg off : Nat) : Loc := .hbm pkg off (2 ^ 36 - 64)

/-- Whether the window of a host place lacks a right (R392). -/
def State.windowLacks (s : State) (pkg la need : Nat) : Bool :=
  laRegion la == 3 && match s.window pkg (bits la 55 0) with
    | some w => need &&& w.rights != need
    | none => false

/-- No core of a package does proxy duty: its region-3 accesses raise cause 0x07 (R328). -/
def State.noProxy (s : State) (pkg la : Nat) : Bool := laRegion la == 3 && (s.proxyOf (2 * pkg)).isNone

/-- An access to another core's window moves the thread there (R162, R163). One that names a port register traps with its elements read
and not given back; where the trap is held for room in the log (R374), they are read when the instruction comes again. -/
def State.migrateAccess (s0 s : State) (tid : Nat) (t : Thread) (word : Word32) (regs : List (BitVec 4)) (target : Nat)
    (va : Word) : State :=
  if regs.any fun r => decide (12 ≤ r.toNat) then
    if (s.trap tid t 1 (word.setWidth 64)).trapHeld tid then s0.trap tid t 1 (word.setWidth 64) else s.trap tid t 1 (word.setWidth 64)
  else if !s.holdsSlots (4 * corePkg target + t.ctx) target then s0.trap tid t 7 va
  else s0.ship tid t target va

/-- A data access that has passed R131: on the executing core's local store, after a migration, or through the port; k does
it here, r is what it asks for elsewhere (R137, R139). -/
def State.access (s0 s : State) (tid : Nat) (t : Thread) (word : Word32) (regs : List (BitVec 4)) (la n need : Nat) (va : Word)
    (k : State → State) (r : Loc → Req) : State :=
  let c := coreOf tid
  let la := canonLa (corePkg c) la
  if laRegion la = 1 then
    if laCore la ≠ c then s0.migrateAccess s tid t word regs (laCore la) va
    else if t.relaxed.any fun x => s.touches x (.loc la) n then s0.wait tid t (.mem { kind := .drain })
    else k s
  else if s.windowLacks (corePkg c) la need then s0.trap tid t 4 va
  else if s.noProxy (corePkg c) la then s0.trap tid t 7 va
  else match s.translate c la with
    | (.miss pkg off, _) => s0.pageMiss tid t pkg off va
    | (.ok l, s) =>
      if t.relaxed.any fun x => s.touches x l n then s0.wait tid t (.mem { kind := .drain })
      else s.wait tid t (.mem (r l))

/-- A plain load (R135 to R139). -/
def loadPlain (word : Word32) (len : Nat) (p : BitVec 3) (q : BitVec 1) (d a : BitVec 4) (imm : Word) (n : Nat) (sgn : Bool)
    (s : State) : Out :=
  act word len p q [a] [d] s fun tid t s0 v s =>
    let va := nth v 0 + imm
    match s.check (coreOf tid) t.ctx va n segR n with
    | .error x => s0.trapAt tid t t.pc x
    | .ok la =>
      s0.access s tid t word [a, d] la n segR va
        (fun s => if s.isBad la n then s0.trap tid t 8 va else s0.finish s tid t word d (extended n sgn (s.mem.read la n)))
        (fun l => { kind := .load, word := word, d := d, vals := [va], locs := [l], n := n, sgn := sgn })

/-- A plain store (R135 to R139). -/
def storePlain (word : Word32) (len : Nat) (p : BitVec 3) (q : BitVec 1) (d a : BitVec 4) (imm : Word) (n : Nat)
    (s : State) : Out :=
  act word len p q [a, d] [] s fun tid t s0 v s =>
    let va := nth v 0 + imm
    match s.check (coreOf tid) t.ctx va n segW n with
    | .error x => s0.trapAt tid t t.pc x
    | .ok la =>
      s0.access s tid t word [a, d] la n segW va
        (fun s => (s.store la n (nth v 1).toNat).retire tid t)
        (fun l => { kind := .store, vals := [va, nth v 1], locs := [l], n := n })

/-- LDB (R137): Loads a sign-extended byte. -/
def execLdb (p : BitVec 3) (q : BitVec 1) (d a : BitVec 4) (imm : BitVec 14) (s : State) : Out :=
  loadPlain (encI 20 p q (d.toNat) (a.toNat) (imm.toNat)) 4 p q d a (sext14 imm) 1 true s

/-- LDBU (R137): Loads a zero-extended byte. -/
def execLdbu (p : BitVec 3) (q : BitVec 1) (d a : BitVec 4) (imm : BitVec 14) (s : State) : Out :=
  loadPlain (encI 21 p q (d.toNat) (a.toNat) (imm.toNat)) 4 p q d a (sext14 imm) 1 false s

/-- LDH (R137): Loads a sign-extended half. -/
def execLdh (p : BitVec 3) (q : BitVec 1) (d a : BitVec 4) (imm : BitVec 14) (s : State) : Out :=
  loadPlain (encI 22 p q (d.toNat) (a.toNat) (imm.toNat)) 4 p q d a (sext14 imm) 2 true s

/-- LDHU (R137): Loads a zero-extended half. -/
def execLdhu (p : BitVec 3) (q : BitVec 1) (d a : BitVec 4) (imm : BitVec 14) (s : State) : Out :=
  loadPlain (encI 23 p q (d.toNat) (a.toNat) (imm.toNat)) 4 p q d a (sext14 imm) 2 false s

/-- LDW (R137): Loads a sign-extended word. -/
def execLdw (p : BitVec 3) (q : BitVec 1) (d a : BitVec 4) (imm : BitVec 14) (s : State) : Out :=
  loadPlain (encI 24 p q (d.toNat) (a.toNat) (imm.toNat)) 4 p q d a (sext14 imm) 4 true s

/-- LDWU (R137): Loads a zero-extended word. -/
def execLdwu (p : BitVec 3) (q : BitVec 1) (d a : BitVec 4) (imm : BitVec 14) (s : State) : Out :=
  loadPlain (encI 25 p q (d.toNat) (a.toNat) (imm.toNat)) 4 p q d a (sext14 imm) 4 false s

/-- LDD (R137): Loads a doubleword. -/
def execLdd (p : BitVec 3) (q : BitVec 1) (d a : BitVec 4) (imm : BitVec 14) (s : State) : Out :=
  loadPlain (encI 26 p q (d.toNat) (a.toNat) (imm.toNat)) 4 p q d a (sext14 imm) 8 false s

/-- STB (R137): Stores the low byte of gD. -/
def execStb (p : BitVec 3) (q : BitVec 1) (d a : BitVec 4) (imm : BitVec 14) (s : State) : Out :=
  storePlain (encI 27 p q (d.toNat) (a.toNat) (imm.toNat)) 4 p q d a (sext14 imm) 1 s

/-- STH (R137): Stores the low half of gD. -/
def execSth (p : BitVec 3) (q : BitVec 1) (d a : BitVec 4) (imm : BitVec 14) (s : State) : Out :=
  storePlain (encI 28 p q (d.toNat) (a.toNat) (imm.toNat)) 4 p q d a (sext14 imm) 2 s

/-- STW (R137): Stores the low word of gD. -/
def execStw (p : BitVec 3) (q : BitVec 1) (d a : BitVec 4) (imm : BitVec 14) (s : State) : Out :=
  storePlain (encI 29 p q (d.toNat) (a.toNat) (imm.toNat)) 4 p q d a (sext14 imm) 4 s

/-- STD (R137): Stores gD as a doubleword. -/
def execStd (p : BitVec 3) (q : BitVec 1) (d a : BitVec 4) (imm : BitVec 14) (s : State) : Out :=
  storePlain (encI 30 p q (d.toNat) (a.toNat) (imm.toNat)) 4 p q d a (sext14 imm) 8 s

/-- LDB_I38 (R137): ldb with a 38-bit prefixed offset. -/
def execLdbI38 (p : BitVec 3) (q : BitVec 1) (d a : BitVec 4) (imm : BitVec 38) (s : State) : Out :=
  loadPlain (encI 20 p q (d.toNat) (a.toNat) (imm.toNat % 2 ^ 14)) 8 p q d a (sext38 imm) 1 true s

/-- LDBU_I38 (R137): ldbu with a 38-bit prefixed offset. -/
def execLdbuI38 (p : BitVec 3) (q : BitVec 1) (d a : BitVec 4) (imm : BitVec 38) (s : State) : Out :=
  loadPlain (encI 21 p q (d.toNat) (a.toNat) (imm.toNat % 2 ^ 14)) 8 p q d a (sext38 imm) 1 false s

/-- LDH_I38 (R137): ldh with a 38-bit prefixed offset. -/
def execLdhI38 (p : BitVec 3) (q : BitVec 1) (d a : BitVec 4) (imm : BitVec 38) (s : State) : Out :=
  loadPlain (encI 22 p q (d.toNat) (a.toNat) (imm.toNat % 2 ^ 14)) 8 p q d a (sext38 imm) 2 true s

/-- LDHU_I38 (R137): ldhu with a 38-bit prefixed offset. -/
def execLdhuI38 (p : BitVec 3) (q : BitVec 1) (d a : BitVec 4) (imm : BitVec 38) (s : State) : Out :=
  loadPlain (encI 23 p q (d.toNat) (a.toNat) (imm.toNat % 2 ^ 14)) 8 p q d a (sext38 imm) 2 false s

/-- LDW_I38 (R137): ldw with a 38-bit prefixed offset. -/
def execLdwI38 (p : BitVec 3) (q : BitVec 1) (d a : BitVec 4) (imm : BitVec 38) (s : State) : Out :=
  loadPlain (encI 24 p q (d.toNat) (a.toNat) (imm.toNat % 2 ^ 14)) 8 p q d a (sext38 imm) 4 true s

/-- LDWU_I38 (R137): ldwu with a 38-bit prefixed offset. -/
def execLdwuI38 (p : BitVec 3) (q : BitVec 1) (d a : BitVec 4) (imm : BitVec 38) (s : State) : Out :=
  loadPlain (encI 25 p q (d.toNat) (a.toNat) (imm.toNat % 2 ^ 14)) 8 p q d a (sext38 imm) 4 false s

/-- LDD_I38 (R137): ldd with a 38-bit prefixed offset. -/
def execLddI38 (p : BitVec 3) (q : BitVec 1) (d a : BitVec 4) (imm : BitVec 38) (s : State) : Out :=
  loadPlain (encI 26 p q (d.toNat) (a.toNat) (imm.toNat % 2 ^ 14)) 8 p q d a (sext38 imm) 8 false s

/-- STB_I38 (R137): stb with a 38-bit prefixed offset. -/
def execStbI38 (p : BitVec 3) (q : BitVec 1) (d a : BitVec 4) (imm : BitVec 38) (s : State) : Out :=
  storePlain (encI 27 p q (d.toNat) (a.toNat) (imm.toNat % 2 ^ 14)) 8 p q d a (sext38 imm) 1 s

/-- STH_I38 (R137): sth with a 38-bit prefixed offset. -/
def execSthI38 (p : BitVec 3) (q : BitVec 1) (d a : BitVec 4) (imm : BitVec 38) (s : State) : Out :=
  storePlain (encI 28 p q (d.toNat) (a.toNat) (imm.toNat % 2 ^ 14)) 8 p q d a (sext38 imm) 2 s

/-- STW_I38 (R137): stw with a 38-bit prefixed offset. -/
def execStwI38 (p : BitVec 3) (q : BitVec 1) (d a : BitVec 4) (imm : BitVec 38) (s : State) : Out :=
  storePlain (encI 29 p q (d.toNat) (a.toNat) (imm.toNat % 2 ^ 14)) 8 p q d a (sext38 imm) 4 s

/-- STD_I38 (R137): std with a 38-bit prefixed offset. -/
def execStdI38 (p : BitVec 3) (q : BitVec 1) (d a : BitVec 4) (imm : BitVec 38) (s : State) : Out :=
  storePlain (encI 30 p q (d.toNat) (a.toNat) (imm.toNat % 2 ^ 14)) 8 p q d a (sext38 imm) 8 s

/-! Relaxed accesses (R140 to R144). -/

/-- A fault of a relaxed access: only the first before delivery counts (R143). -/
def Thread.relFaulted (t : Thread) (x : Trap) : Thread := { t with relFault := some (t.relFault.getD x) }

/-- A relaxed load's data arrives (R141), from memory or a replica (R309): the landing word is written and set full, or left empty by
a fault. -/
def State.land (s : State) (tid : Nat) (t : Thread) (r : Relaxed) : State :=
  let g := s.readGood (clusterOf (coreOf tid)) r.place r.n
  let s := g.2
  if g.1 = false then s.setThread tid (t.relFaulted ⟨8, r.va⟩)
  else
    ((s.store r.land 8 (extended r.n r.sgn (s.mem.read r.place.key r.n)).toNat).setFull r.land true).setThread tid t

/-- A relaxed store reaches its place (R142, R143). -/
def State.landStore (s : State) (tid : Nat) (t : Thread) (r : Relaxed) : State :=
  if s.sealedAt r.place then s.setThread tid (t.relFaulted ⟨5, r.va⟩)
  else (s.store r.place.key r.n r.data.toNat).setThread tid t

/-- Issues a relaxed access whose checks have passed (R140, R144, R201): performed in the turn when its data lie in the own local store,
for which it waits until nothing outstanding overlaps it (R164, log 64); else it is outstanding until its reply. -/
def State.issueRelaxed (s0 s : State) (tid : Nat) (t : Thread) (la : Nat) (need : Nat) (r : Relaxed) : State :=
  let c := coreOf tid
  let la := canonLa (corePkg c) la
  let out (l : Loc) (missed : Bool) (s : State) : State :=
    s.retire tid { t with relaxed := t.relaxed ++ [{ r with place := l, missed := missed, held := !s.linked c l }] }
  if 8 ≤ t.relaxed.length then s0.wait tid t (.mem { kind := .drain })
  else
    let s := if r.store then s else s.setFull r.land false
    if laRegion la = 1 then
      let r := { r with place := .loc la }
      if laCore la = c then
        if t.relaxed.any fun x => s.meets x r then s0.wait tid t (.mem { kind := .drain })
        else if r.store then s.landStore tid t.past r else s.land tid t.past r
      else out (.loc la) false s
    else if s.windowLacks (corePkg c) la need then s0.trap tid t 4 r.va
    else if s.noProxy (corePkg c) la then s0.trap tid t 7 r.va
    else match s.translate c la with
      | (.ok l, s) => out l false s
      | (.miss pkg off, s) => out (pendingPlace pkg off) true (s.askWalk (portOf c pkg off) off (.relaxed tid))

/-- A relaxed load (R141). The checks of the landing word come before those of the data's host window, 0x04 and 0x07 (DESIGN CHOICE,
log 81). -/
def loadRelaxed (word : Word32) (p : BitVec 3) (q : BitVec 1) (d a : BitVec 4) (imm : Word) (n : Nat) (sgn : Bool)
    (s : State) : Out :=
  act word 8 p q [a, d] [] s fun tid t s0 v s =>
    let c := coreOf tid
    let va := nth v 0 + imm
    match s.check c t.ctx va n segR n, s.check c t.ctx (nth v 1) 8 segW 8 with
    | .error x, _ => s0.trapAt tid t t.pc x
    | .ok _, .error x => s0.trapAt tid t t.pc x
    | .ok la, .ok lw =>
      if laRegion lw ≠ 1 ∨ laCore lw ≠ c then s0.trap tid t 0x0C (nth v 1)
      else s0.issueRelaxed s tid t la segR
        { store := false, place := .loc 0, va := va, n := n, sgn := sgn, data := 0, land := lw, missed := false }

/-- A relaxed store (R142). -/
def storeRelaxed (word : Word32) (p : BitVec 3) (q : BitVec 1) (d a : BitVec 4) (imm : Word) (n : Nat) (s : State) : Out :=
  act word 8 p q [a, d] [] s fun tid t s0 v s =>
    let va := nth v 0 + imm
    match s.check (coreOf tid) t.ctx va n segW n with
    | .error x => s0.trapAt tid t t.pc x
    | .ok la =>
      s0.issueRelaxed s tid t la segW
        { store := true, place := .loc 0, va := va, n := n, sgn := false, data := nth v 1, land := 0, missed := false }

/-- LDB_RLX (R141): Relaxed byte load delivered into a landing word. -/
def execLdbRlx (p : BitVec 3) (q : BitVec 1) (d a : BitVec 4) (imm : BitVec 14) (s : State) : Out :=
  loadRelaxed (encI 20 p q (d.toNat) (a.toNat) (imm.toNat)) p q d a (sext14 imm) 1 true s

/-- LDBU_RLX (R141): Relaxed zero-extended byte load into a landing word. -/
def execLdbuRlx (p : BitVec 3) (q : BitVec 1) (d a : BitVec 4) (imm : BitVec 14) (s : State) : Out :=
  loadRelaxed (encI 21 p q (d.toNat) (a.toNat) (imm.toNat)) p q d a (sext14 imm) 1 false s

/-- LDH_RLX (R141): Relaxed half load into a landing word. -/
def execLdhRlx (p : BitVec 3) (q : BitVec 1) (d a : BitVec 4) (imm : BitVec 14) (s : State) : Out :=
  loadRelaxed (encI 22 p q (d.toNat) (a.toNat) (imm.toNat)) p q d a (sext14 imm) 2 true s

/-- LDHU_RLX (R141): Relaxed zero-extended half load into a landing word. -/
def execLdhuRlx (p : BitVec 3) (q : BitVec 1) (d a : BitVec 4) (imm : BitVec 14) (s : State) : Out :=
  loadRelaxed (encI 23 p q (d.toNat) (a.toNat) (imm.toNat)) p q d a (sext14 imm) 2 false s

/-- LDW_RLX (R141): Relaxed word load into a landing word. -/
def execLdwRlx (p : BitVec 3) (q : BitVec 1) (d a : BitVec 4) (imm : BitVec 14) (s : State) : Out :=
  loadRelaxed (encI 24 p q (d.toNat) (a.toNat) (imm.toNat)) p q d a (sext14 imm) 4 true s

/-- LDWU_RLX (R141): Relaxed zero-extended word load into a landing word. -/
def execLdwuRlx (p : BitVec 3) (q : BitVec 1) (d a : BitVec 4) (imm : BitVec 14) (s : State) : Out :=
  loadRelaxed (encI 25 p q (d.toNat) (a.toNat) (imm.toNat)) p q d a (sext14 imm) 4 false s

/-- LDD_RLX (R141): Relaxed doubleword load into a landing word. -/
def execLddRlx (p : BitVec 3) (q : BitVec 1) (d a : BitVec 4) (imm : BitVec 14) (s : State) : Out :=
  loadRelaxed (encI 26 p q (d.toNat) (a.toNat) (imm.toNat)) p q d a (sext14 imm) 8 false s

/-- STB_RLX (R142): Relaxed byte store that does not hold the thread. -/
def execStbRlx (p : BitVec 3) (q : BitVec 1) (d a : BitVec 4) (imm : BitVec 14) (s : State) : Out :=
  storeRelaxed (encI 27 p q (d.toNat) (a.toNat) (imm.toNat)) p q d a (sext14 imm) 1 s

/-- STH_RLX (R142): Relaxed half store. -/
def execSthRlx (p : BitVec 3) (q : BitVec 1) (d a : BitVec 4) (imm : BitVec 14) (s : State) : Out :=
  storeRelaxed (encI 28 p q (d.toNat) (a.toNat) (imm.toNat)) p q d a (sext14 imm) 2 s

/-- STW_RLX (R142): Relaxed word store. -/
def execStwRlx (p : BitVec 3) (q : BitVec 1) (d a : BitVec 4) (imm : BitVec 14) (s : State) : Out :=
  storeRelaxed (encI 29 p q (d.toNat) (a.toNat) (imm.toNat)) p q d a (sext14 imm) 4 s

/-- STD_RLX (R142): Relaxed doubleword store. -/
def execStdRlx (p : BitVec 3) (q : BitVec 1) (d a : BitVec 4) (imm : BitVec 14) (s : State) : Out :=
  storeRelaxed (encI 30 p q (d.toNat) (a.toNat) (imm.toNat)) p q d a (sext14 imm) 8 s

/-- A relaxed access may complete: it is not waiting for a walk, and no earlier one touches a byte of it (R164). -/
def State.relaxedReady (s : State) (l : List Relaxed) (n : Nat) : Option Relaxed :=
  match l[n]? with
  | some r => if r.missed || (l.take n).any fun x => s.meets x r then none else some r
  | none => none

/-- RELAXED_ACCESS_COMPLETION (R141): The reply of a relaxed access returns; a load writes its landing word and sets it full. -/
def execRelaxedAccessCompletion (tid n : Nat) (s : State) : Out :=
  match s.thread tid with
  | some t =>
    match s.relaxedReady t.relaxed n with
    | some r =>
      let r := { r with place := s.place r.place }
      if r.held = true ∧ s.linked (coreOf tid) r.place = false then .next s
      else
        let t := { t with relaxed := t.relaxed.eraseIdx n }
        let s := s.heardAt (coreOf tid) r.place
        .next (if r.store then s.landStore tid t r else s.land tid t r)
    | none => .next s
  | none => .next s

/-- DEFERRED_RELAXED_FAULT (R143): A fault found on completion of a relaxed access is delivered as a trap at the thread's next issue turn.
-/
def execDeferredRelaxedFault (tid : Nat) (s : State) : Out :=
  match s.thread tid with
  | some t =>
    match t.relFault with
    | some x =>
      let s' := s.trapAt tid { t with relFault := none } t.pc x
      -- a trap held for room in the log is delivered later (R368)
      .next (if s'.trapHeld tid then s.wait tid t (.held .trap) else s')
    | none => .next s
  | none => .next s

end Sys2Proof.Machine
end

