-- ==== Sys2Proof/Machine/Sync.lean ====
section
/-! DEFINITION. Sync instructions (R145 to R149), atomics (R150 to R155) and sealing (R156 to R161). -/

namespace Sys2Proof.Machine

/-- A sync instruction at its address (R147 to R149): cause 0x0C outside local store, migration to the owning core, every
earlier relaxed access first, then k on the linear address. -/
def syncAt (word : Word32) (p : BitVec 3) (q : BitVec 1) (srcs dsts regs : List (BitVec 4)) (need : Nat) (s : State)
    (k : Nat → Thread → State → List Word → Nat → State → State) : Out :=
  act word 4 p q srcs dsts s fun tid t s0 v s =>
    let va := nth v 0
    match s.check (coreOf tid) t.ctx va 8 need 8 with
    | .error x => s0.trapAt tid t t.pc x
    | .ok la =>
      if laRegion la ≠ 1 then s0.trap tid t 0x0C va
      else if laCore la ≠ coreOf tid then s0.migrateAccess s tid t word regs (laCore la) va
      else s0.drained tid t (k tid t s0 v la s)

/-- A sync load (R147): waits until the word is full; take empties it. -/
def syncLoad (word : Word32) (p : BitVec 3) (q : BitVec 1) (d a : BitVec 4) (take : Bool) (s : State) : Out :=
  syncAt word p q [a] [d] [a, d] (if take then segR ||| segW else segR) s fun tid t s0 v la s =>
    if !s.isFull la then s0.wait tid t .sync
    else if s.isBad la 8 then s0.trap tid t 8 (nth v 0)
    else
      let x := s.mem.read la 8
      s0.logged s tid t (coreOf tid) 2 la (x % 2 ^ 32) fun s _ =>
        s0.finish (if take then s.setFull la false else s) tid t word d (BitVec.ofNat 64 x)

/-- A sync store of the data register (R147): ste waits until the word is empty. -/
def syncStore (word : Word32) (p : BitVec 3) (q : BitVec 1) (d a : BitVec 4) (waits : Bool) (s : State) : Out :=
  syncAt word p q [a, d] [] [a, d] segW s fun tid t s0 v la s =>
    if waits && s.isFull la then s0.wait tid t .sync
    else
      s0.logged s tid t (coreOf tid) 3 la ((nth v 1).toNat % 2 ^ 32) fun s _ =>
        ((s.store la 8 (nth v 1).toNat).setFull la true).retire tid t

/-- fclr and fset (R147). -/
def syncMark (word : Word32) (p : BitVec 3) (q : BitVec 1) (a : BitVec 4) (full : Bool) (s : State) : Out :=
  syncAt word p q [a] [] [a] segW s fun tid t s0 _ la s =>
    s0.logged s tid t (coreOf tid) 3 la 0 fun s _ => (s.setFull la full).retire tid t

/-- LDF (R147): Waits until the word is full, then reads it. -/
def execLdf (p : BitVec 3) (q : BitVec 1) (d a : BitVec 4) (s : State) : Out :=
  syncLoad (encR 31 p q (d.toNat) (a.toNat) (0) (0)) p q d a false s

/-- LDFE (R147): Waits until full, reads the word and sets it empty. -/
def execLdfe (p : BitVec 3) (q : BitVec 1) (d a : BitVec 4) (s : State) : Out :=
  syncLoad (encR 31 p q (d.toNat) (a.toNat) (0) (1)) p q d a true s

/-- STE (R147): Waits until empty, writes the word and sets it full. -/
def execSte (p : BitVec 3) (q : BitVec 1) (d a : BitVec 4) (s : State) : Out :=
  syncStore (encR 31 p q (d.toNat) (a.toNat) (0) (2)) p q d a true s

/-- STF (R147): Writes the word and sets it full. -/
def execStf (p : BitVec 3) (q : BitVec 1) (d a : BitVec 4) (s : State) : Out :=
  syncStore (encR 31 p q (d.toNat) (a.toNat) (0) (3)) p q d a false s

/-- FCLR (R147): Sets the full-empty bit empty. -/
def execFclr (p : BitVec 3) (q : BitVec 1) (a : BitVec 4) (s : State) : Out :=
  syncMark (encR 31 p q (0) (a.toNat) (0) (4)) p q a false s

/-- FSET (R147): Sets the full-empty bit full. -/
def execFset (p : BitVec 3) (q : BitVec 1) (a : BitVec 4) (s : State) : Out :=
  syncMark (encR 31 p q (0) (a.toNat) (0) (5)) p q a true s

/-- FSTAT (R147): Reads the full-empty bit. -/
def execFstat (p : BitVec 3) (q : BitVec 1) (d a : BitVec 4) (s : State) : Out :=
  syncAt (encR 31 p q (d.toNat) (a.toNat) (0) (6)) p q [a] [d] [a, d] segR s fun tid t s0 _ la s =>
    s0.finish s tid t (encR 31 p q (d.toNat) (a.toNat) (0) (6)) d (BitVec.ofNat 64 (s.isFull la).toNat)

/-! Atomics (R150 to R155). -/

/-- The new value of an atomic's word from its old value, for n bytes (R151). -/
def atomNew (op n old b d : Nat) : Nat :=
  let m := 2 ^ (8 * n)
  let b := b % m
  let d := d % m
  let sg (v : Nat) : Int := if 2 * v < m then (v : Int) else (v : Int) - m
  match op with
  | 0 => (old + b) % m
  | 1 => old &&& b
  | 2 => old ||| b
  | 3 => old ^^^ b
  | 4 => if sg b < sg old then b else old
  | 5 => if sg old < sg b then b else old
  | 6 => min old b
  | 7 => max old b
  | 8 => b
  | 9 => if old = d then b else old
  | _ => Fmt.fp32.round .rne 0 true ((Fmt.fp32.decode old).add (Fmt.fp32.decode b))

/-- The bank queue's number of the 8-byte word at a place (R153). -/
def bankKey (l : Loc) : Nat := l.key / 8

/-- The target of a peer atomic's migration (R154). -/
def peerTarget (pkg off : Nat) : Nat :=
  let i := bits off 27 21
  coreAt pkg (bits i 6 6) (36 * bits i 5 2 + 32 + bits i 1 0)

/-- A proxy queue's number: the proxy's die and the queue (R326). -/
def proxyQueue (die addr : Nat) : Nat := 64 * (die % 2) + Config.proxyHash addr % 64

/-- The proxy queue that takes a die's host atomic (R326, R328). -/
def State.proxyQueueOf (s : State) (dk : Nat) (l : Loc) : Nat :=
  proxyQueue (coreDie ((s.proxyOf dk).getD (dk * 1024))) (match l with | .host _ _ addr => addr | _ => 0)

/-- An atomic (R150 to R155): in the turn on the own local store; after migration on another core or a peer package; under
a bank reservation on this package's HBM; at the proxy on host memory. -/
def atomic (word : Word32) (p : BitVec 3) (q : BitVec 1) (d a b : BitVec 4) (op n : Nat) (s : State) : Out :=
  act word 4 p q (if op = 9 then [a, b, d] else [a, b]) [d] s fun tid t s0 v s =>
    let c := coreOf tid
    let pkg := corePkg c
    let va := nth v 0
    match s.check c t.ctx va n (segR ||| segW) n with
    | .error x => s0.trapAt tid t t.pc x
    | .ok la =>
      let la := canonLa pkg la
      let r (l : Loc) : Req :=
        { kind := .atomic, word := word, d := d, vals := [va, nth v 1, nth v 2, BitVec.ofNat 64 op, BitVec.ofNat 64 la], locs := [l],
          n := n }
      if laRegion la = 1 ∧ laCore la ≠ c then s0.migrateAccess s tid t word [a, d] (laCore la) va
      else s0.drained tid t <|
        match laRegion la with
        | 1 =>
          if s.isBad la n then s0.trap tid t 8 va
          else
            let old := s.mem.read la n
            s0.logged s tid t c 1 la old fun s _ =>
              s0.finish (s.store la n (atomNew op n old (nth v 1).toNat (nth v 2).toNat)) tid t word d (BitVec.ofNat 64 old)
        | 2 =>
          let target := peerTarget (bits la 55 43) (bits la 42 0)
          if s.coreOk target ∧ s.holdsSlots (4 * corePkg target + t.ctx) target then s0.ship tid t target va
          else s0.trap tid t 0x11 va
        | 3 =>
          if s.windowLacks pkg la (segR ||| segW) then s0.trap tid t 4 va
          else if s.noProxy pkg la then s0.trap tid t 7 va
          else
            let l := (s.translate c la).1
            match l with
            | .ok l =>
              let qn := s.proxyQueueOf (dieKey c) l
              s0.logTest s tid t la
                ((s.modPkg pkg fun k => { k with proxy := k.proxy.put qn (k.proxy.at [] qn ++ [tid]) }).wait tid t (.mem (r l)))
            | .miss _ _ => s0
        | _ =>
          match s.translate c la with
          | (.miss q off, _) => s0.pageMiss tid t q off va
          | (.ok l, s) =>
            s0.logTest s tid t la
              (State.wait { s with banks := s.banks.put (bankKey l) (s.banks.at [] (bankKey l) ++ [tid]) } tid t (.mem (r l)))

/-- AADD (R151): Atomic wrapping add returning the old value. -/
def execAadd (p : BitVec 3) (q : BitVec 1) (d a b : BitVec 4) (w : BitVec 2) (s : State) : Out :=
  atomic (encR 32 p q (d.toNat) (a.toNat) (b.toNat) (w.toNat * 2 ^ 8 + 0)) p q d a b 0 (if w = 0 then 4 else 8) s

/-- AAND (R151): Atomic and. -/
def execAand (p : BitVec 3) (q : BitVec 1) (d a b : BitVec 4) (w : BitVec 2) (s : State) : Out :=
  atomic (encR 32 p q (d.toNat) (a.toNat) (b.toNat) (w.toNat * 2 ^ 8 + 1)) p q d a b 1 (if w = 0 then 4 else 8) s

/-- AOR (R151): Atomic or. -/
def execAor (p : BitVec 3) (q : BitVec 1) (d a b : BitVec 4) (w : BitVec 2) (s : State) : Out :=
  atomic (encR 32 p q (d.toNat) (a.toNat) (b.toNat) (w.toNat * 2 ^ 8 + 2)) p q d a b 2 (if w = 0 then 4 else 8) s

/-- AXOR (R151): Atomic exclusive or. -/
def execAxor (p : BitVec 3) (q : BitVec 1) (d a b : BitVec 4) (w : BitVec 2) (s : State) : Out :=
  atomic (encR 32 p q (d.toNat) (a.toNat) (b.toNat) (w.toNat * 2 ^ 8 + 3)) p q d a b 3 (if w = 0 then 4 else 8) s

/-- AMIN (R151): Atomic signed minimum. -/
def execAmin (p : BitVec 3) (q : BitVec 1) (d a b : BitVec 4) (w : BitVec 2) (s : State) : Out :=
  atomic (encR 32 p q (d.toNat) (a.toNat) (b.toNat) (w.toNat * 2 ^ 8 + 4)) p q d a b 4 (if w = 0 then 4 else 8) s

/-- AMAX (R151): Atomic signed maximum. -/
def execAmax (p : BitVec 3) (q : BitVec 1) (d a b : BitVec 4) (w : BitVec 2) (s : State) : Out :=
  atomic (encR 32 p q (d.toNat) (a.toNat) (b.toNat) (w.toNat * 2 ^ 8 + 5)) p q d a b 5 (if w = 0 then 4 else 8) s

/-- AMINU (R151): Atomic unsigned minimum. -/
def execAminu (p : BitVec 3) (q : BitVec 1) (d a b : BitVec 4) (w : BitVec 2) (s : State) : Out :=
  atomic (encR 32 p q (d.toNat) (a.toNat) (b.toNat) (w.toNat * 2 ^ 8 + 6)) p q d a b 6 (if w = 0 then 4 else 8) s

/-- AMAXU (R151): Atomic unsigned maximum. -/
def execAmaxu (p : BitVec 3) (q : BitVec 1) (d a b : BitVec 4) (w : BitVec 2) (s : State) : Out :=
  atomic (encR 32 p q (d.toNat) (a.toNat) (b.toNat) (w.toNat * 2 ^ 8 + 7)) p q d a b 7 (if w = 0 then 4 else 8) s

/-- ASWP (R151): Atomic swap. -/
def execAswp (p : BitVec 3) (q : BitVec 1) (d a b : BitVec 4) (w : BitVec 2) (s : State) : Out :=
  atomic (encR 32 p q (d.toNat) (a.toNat) (b.toNat) (w.toNat * 2 ^ 8 + 8)) p q d a b 8 (if w = 0 then 4 else 8) s

/-- ACAS (R151): Atomic compare and swap against gD. -/
def execAcas (p : BitVec 3) (q : BitVec 1) (d a b : BitVec 4) (w : BitVec 2) (s : State) : Out :=
  atomic (encR 32 p q (d.toNat) (a.toNat) (b.toNat) (w.toNat * 2 ^ 8 + 9)) p q d a b 9 (if w = 0 then 4 else 8) s

/-- AFADD (R151): Atomic binary32 add rounded to nearest even. -/
def execAfadd (p : BitVec 3) (q : BitVec 1) (d a b : BitVec 4) (s : State) : Out :=
  atomic (encR 32 p q (d.toNat) (a.toNat) (b.toNat) (10)) p q d a b 10 4 s

/-- What the log lets a thread's event do at the place that serves it: the test for room is behind it (R368, R369). -/
def State.servedGate (s : State) (tid : Nat) (t : Thread) (place kind obj out : Nat) : Gate :=
  s.logGate (s.logMode tid t) true (cxOf (coreOf tid) t) (coreDie (coreOf tid)) place (srcOf tid) kind obj t.pc.toNat out

/-- Whether an object's next position in a replay names a thread's event, or no replay orders it (R369). -/
def State.gateOpen (s : State) (tid : Nat) (t : Thread) (kind obj : Nat) : Bool :=
  match s.servedGate tid t 0 kind obj 0 with
  | .wait _ => false
  | _ => true

/-- An atomic performs at the place that serialises it (R153, R155, R362): the T of that place stamps its record. An old value that x1
of slot 15 refuses traps before the word or the log changes (R185, R416). -/
def State.performAtomic (s : State) (tid : Nat) (t : Thread) (r : Req) (l : Loc) (obj place : Nat) : State :=
  let va := nth r.vals 0
  if s.sealedAt l then s.trap tid t 5 va
  else if s.isBad l.key r.n then s.trap tid t 8 va
  else
    let old := s.mem.read l.key r.n
    match s.servedGate tid t place 1 obj old with
    | .go s' _ =>
      s.finish (s'.store l.key r.n (atomNew (nth r.vals 3).toNat r.n old (nth r.vals 1).toNat (nth r.vals 2).toNat)) tid t r.word r.d
        (BitVec.ofNat 64 old)
    | .wait _ => s
    | .diverge x n => s.diverge tid t obj x n

/-- The thread waits with an atomic at a bank or a proxy queue. -/
def State.atomicOf (s : State) (tid : Nat) : Option (Thread × Req) :=
  match s.thread tid with
  | some t => match t.wait with
    | .mem r => if r.kind = .atomic then some (t, r) else none
    | _ => none
  | none => none

/-- The linear address of an HBM place of a package as seen by its own threads (R132). -/
def Loc.linear : Loc → Nat
  | .loc la => la
  | .hbm _ off _ => off
  | .host _ _ addr => addr

/-- An atomic at the place that serialises it may be served now: it fails its checks there, which come before its wait in a replay, or
its position has come (R153, R158, R369). -/
def State.atomicMay (s : State) (tid : Nat) (t : Thread) (r : Req) (l : Loc) (obj : Nat) : Bool :=
  s.sealedAt l || s.isBad l.key r.n || s.gateOpen tid t 1 obj

/-- A thread's atomic at a bank or a proxy waits for its position in a replay (R369). -/
def State.atomicNoted (s : State) (obj : Nat) (tid : Nat) : State :=
  match s.atomicOf tid with
  | some (t, _) => if s.logMode tid t = 2 then s.noteReplay tid obj else s
  | none => s

/-- A thread's requests leave the queues of the banks and of the proxies. -/
def State.dropRequests (s : State) (tid : Nat) : State :=
  let drop (m : NatMap (List Nat)) : NatMap (List Nat) :=
    (m.mapVals fun _ l => l.erase tid).keep fun _ l => !l.isEmpty
  { s with banks := drop s.banks, pkgs := s.pkgs.mapVals fun _ k => { k with proxy := drop k.proxy } }

/-- BANK_RESERVATION_GRANT (R153): An HBM bank forwards a reserved word to the requester at the head of its queue, holding other accesses
until release. -/
def execBankReservationGrant (key : Nat) (s : State) : Out :=
  let queue := s.banks.at [] key
  let s := queue.foldl (fun s tid => match s.atomicOf tid with
    | some (_, r) => s.atomicNoted (r.locs.headD (.loc 0)).linear tid
    | none => s) s
  -- in arrival order, or in the recorded order of a replay (R153, R369)
  match queue.find? fun tid => match s.atomicOf tid with
      | some (t, r) =>
        let l := s.place (r.locs.headD (.loc 0))
        (!r.held || s.linked (coreOf tid) l) && s.atomicMay tid t r l l.linear
      | none => true with
  | none => .next s
  | some tid =>
    let left := { s with banks := if (queue.erase tid).isEmpty then s.banks.del key else s.banks.put key (queue.erase tid) }
    match s.atomicOf tid with
    | none => .next left
    | some (t, r) =>
      let l := s.place (r.locs.headD (.loc 0))
      let place := match l with | .hbm pkg _ phys => bankPlace pkg phys | _ => coreOf tid
      .next ((left.heardAtomic (coreOf tid) l).performAtomic tid t r l l.linear place)

/-- Whether a host window offers an atomic (R392). -/
def Window.offers (w : Window) (op n : Nat) : Bool := w.atom.testBit (if n = 4 then op else 16 + op)

/-- PROXY_HOST_ATOMIC (R155): The proxy core serialises a host atomic and performs or refuses it with the host endpoint; of the
atomics in a queue, the first, or in a replay the first that is not offered or fails its checks, or whose recorded position has come
(R369). The object is the word's linear address,
through whose window the atomic was made (R152, R392). -/
def execProxyHostAtomic (die qn : Nat) (s : State) : Out :=
  let pkg := die / 2
  let qi := 64 * (die % 2) + qn % 64
  let queue := (s.pkg pkg).proxy.at [] qi
  let obj (r : Req) : Nat := (nth r.vals 4).toNat
  let offered (r : Req) : Bool := match s.window pkg (bits (obj r) 55 0) with
    | some w => w.offers (nth r.vals 3).toNat r.n
    | none => false
  let s := queue.foldl (fun s tid => match s.atomicOf tid with
    | some (_, r) => s.atomicNoted (obj r) tid
    | none => s) s
  match queue.find? fun tid => match s.atomicOf tid with
      | some (t, r) => !offered r || s.atomicMay tid t r (r.locs.headD (.loc 0)) (obj r)
      | none => true with
  | none => .next s
  | some tid =>
    let rest := queue.erase tid
    let left := s.modPkg pkg fun k => { k with proxy := if rest.isEmpty then k.proxy.del qi else k.proxy.put qi rest }
    match s.atomicOf tid with
    | none => .next left
    | some (t, r) =>
      if !offered r then .next (left.trap tid t 0x11 (nth r.vals 0))
      else
        let l := r.locs.headD (.loc 0)
        let place := match l with | .host dk _ _ => (s.proxyOf dk).getD (coreOf tid) | _ => coreOf tid
        .next ((left.heardAtomic (coreOf tid) l).performAtomic tid t r l (obj r) place)

/-! Sealing (R156 to R161). -/

/-- What translating a range page by page meets (R157): the pages, each with its first offset and size, or a page without
a translation. -/
inductive Pages where
  | all (l : List (Nat × Nat))
  | miss (off : Nat)

/-- Translates the pages of a range of this package's HBM in ascending order through a TLB (R157). -/
def Cluster.pagesOf (k : Cluster) (stop : Nat) : Nat → Nat → List (Nat × Nat) → Pages
  | 0, _, l => .all l
  | fuel + 1, off, l =>
    if stop ≤ off then .all l
    else match k.tlbFind off with
      | some e =>
        let size := 65536 * pageUnits e.big
        Cluster.pagesOf k stop fuel (e.vpn * 65536 + size) (l ++ [(e.vpn * 65536, size)])
      | none => .miss off

/-- The pages of a range have been translated: each entry counts one access (R289). -/
def Cluster.touchPages (k : Cluster) (l : List (Nat × Nat)) : Cluster :=
  l.foldl (fun k x => match k.tlbFind x.1 with | some e => k.tlbTouch e | none => k) k

/-- A range is made of whole pages (R157). -/
def wholePages (la stop : Nat) (l : List (Nat × Nat)) : Bool :=
  (l.headD (la + 1, 0)).1 == la && (match l.getLast? with | some e => e.1 + e.2 == stop | none => false)

/-- seal and unseal (R157 to R159): the whole range is checked first; then each page changes at its own instant. -/
def sealRange (word : Word32) (p : BitVec 3) (q : BitVec 1) (a b : BitVec 4) (undo : Bool) (s : State) : Out :=
  act word 4 p q [a, b] [] s fun tid t s0 v s =>
    let c := coreOf tid
    let pkg := corePkg c
    let n := (nth v 1).toNat
    match s.check c t.ctx (nth v 0) n segW 1 with
    | .error x => s0.trapAt tid t t.pc x
    | .ok la =>
      let la := canonLa pkg la
      if laRegion la ≠ 0 ∨ 2 ^ 43 < la + n then s0.trap tid t 7 (nth v 0)
      else s0.drained tid t <|
        if n = 0 then s.retire tid t
        else match (s.cluster (clusterOf c)).pagesOf (la + n) (n / 65536 + 2) la [] with
          | .miss off => s0.pageMiss tid t pkg off (nth v 0 + BitVec.ofNat 64 (off - la))
          | .all l =>
            if !wholePages la (la + n) l then s0.trap tid t 6 (nth v 0)
            else
              let op : SealOp := { pkg := pkg, undo := undo, pages := l.map (·.1), tid := some tid, conn := 0, tag := 0 }
              ((s.modCluster (clusterOf c) fun k => k.touchPages l).modPkg pkg fun k => { k with seals := k.seals ++ [op] }).wait tid t
                (.mem { kind := .sealing, vals := [nth v 0], n := la })

/-- SEAL (R157): Checks a range of whole region-0 pages and seals each at its seal point. -/
def execSealPages (p : BitVec 3) (q : BitVec 1) (a b : BitVec 4) (s : State) : Out :=
  sealRange (encR 33 p q (0) (a.toNat) (b.toNat) (0)) p q a b false s

/-- UNSEAL (R159): Checks a range and unseals it once every replica is dropped. -/
def execUnsealPages (p : BitVec 3) (q : BitVec 1) (a b : BitVec 4) (s : State) : Out :=
  sealRange (encR 33 p q (0) (a.toNat) (b.toNat) (1)) p q a b true s

/-- SEALQ (R160): Reports whether a page is unsealed, sealed or being unsealed. -/
def execSealq (p : BitVec 3) (q : BitVec 1) (d a : BitVec 4) (s : State) : Out :=
  act (encR 33 p q (d.toNat) (a.toNat) (0) (2)) 4 p q [a] [d] s fun tid t s0 v s =>
    let c := coreOf tid
    match s.check c t.ctx (nth v 0) 1 segR 1 with
    | .error x => s0.trapAt tid t t.pc x
    | .ok la =>
      s0.drained tid t <|
        if laRegion (canonLa (corePkg c) la) ≠ 0 then s0.finish s tid t (encR 33 p q (d.toNat) (a.toNat) (0) (2)) d 0
        else match s.translate c la with
          | (.miss pkg off, _) => s0.pageMiss tid t pkg off (nth v 0)
          | (.ok l, s) => s.wait tid t (.mem { kind := .sealq, word := encR 33 p q (d.toNat) (a.toNat) (0) (2), d := d, vals := [nth v 0], locs := [l] })

/-- Every replica of a page of this package's HBM is dropped, from the replica caches and instruction caches of the domain
(R159, R309). -/
def State.dropReplicas (s : State) (pkg off size : Nat) : State :=
  let keep (line : Nat) : Bool := !(decide (lineOf pkg off ≤ line) && decide (line < lineOf pkg off + size / 256))
  { s with cores := s.cores.mapVals fun _ k => { k with icache := k.icache.filter keep },
           clusters := s.clusters.mapVals fun _ k => { k with replica := k.replica.mapVals fun _ l => l.filter keep } }

/-- A seal or unseal operation ends: its thread completes or traps, or its command is answered. -/
def State.sealDone (s : State) (op : SealOp) (fail : Option (Nat × Nat)) : State :=
  match op.tid with
  | none => s.respond op.pkg op.conn op.tag 5 0xFF (if fail.isSome then 2 else 0) []
  | some tid =>
    match s.thread tid with
    | some t =>
      match t.wait with
      | .mem r =>
        if r.kind = .sealing then
          match fail with
          | none => s.retire tid t
          | some (cause, off) => s.trap tid t cause (nth r.vals 0 + BitVec.ofNat 64 (off - r.n))
        else s
      | _ => s
    | none => s

/-- One page of a seal or unseal operation (R158, R159): an entry removed meanwhile ends it with cause 0x07; a page being
moved, or being unsealed by another operation, is waited for. -/
def State.sealPage (s : State) (pkg i : Nat) (undo : Bool) : State :=
  match (s.pkg pkg).seals[i]? with
  | none => s
  | some op =>
    if op.undo ≠ undo then s
    else
      let drop (s : State) : State := s.modPkg pkg fun k => { k with seals := k.seals.eraseIdx i }
      let next (s : State) : State :=
        s.modPkg pkg fun k => { k with seals := k.seals.set i { op with pages := op.pages.tail } }
      match op.pages with
      | [] => (drop s).sealDone op none
      | off :: rest =>
        let finish (s : State) : State := if rest.isEmpty then (drop s).sealDone op none else next s
        match (s.pkg pkg).walk 0 off with
        | none => (drop s).sealDone op (some (7, off))
        | some (_, e) =>
          let st := (s.pkg pkg).sealed.at 0 e.vpn
          let first := ((s.pkg pkg).seals.take i).any fun o => o.pages.head? == some off
          -- an unseal that has begun at the page ends before what else has reached it (R161)
          if e.moving ∨ (first = true ∧ (undo = false ∨ st ≠ 2)) then s
          else if undo = false then
            if st = 2 then s else finish (s.modPkg pkg fun k => { k with sealed := k.sealed.put e.vpn 1 })
          else if st = 0 then finish s
          else if st = 1 then s.modPkg pkg fun k => { k with sealed := k.sealed.put e.vpn 2 }
          else finish ((s.modPkg pkg fun k => { k with sealed := k.sealed.del e.vpn }).dropReplicas pkg (e.vpn * 65536)
            (65536 * pageUnits e.big))

/-- SEAL_COMPLETE (R158): Every page of a seal has passed its seal point, and the sealing thread leaves MemWait. -/
def execSealComplete (n : Nat) (s : State) : Out :=
  .next (s.sealPage (n % 8192) (n / 8192) false)

/-- UNSEAL_COMPLETE (R159): Every replica of the range has been dropped; the pages' sealed state clears and the thread continues. -/
def execUnsealComplete (n : Nat) (s : State) : Out :=
  .next (s.sealPage (n % 8192) (n / 8192) true)

/-- A fetch of the word at a segmented address would not be held: its page is sealed, or the fetch fails (R77). -/
def State.fetchOpen (s : State) (tid : Nat) (t : Thread) (pc : Word) : Bool :=
  let pkg := corePkg (coreOf tid)
  match s.check (coreOf tid) t.ctx pc 4 segX 4 with
  | .ok la => s.sealState pkg (canonLa pkg la) != 0
  | .error _ => true

/-- FETCH_HOLD_RELEASE (R77): A fetch held on an unsealed page refetches the new content once the region is sealed again: for a pair,
both words (R66). -/
def execFetchHoldRelease (tid : Nat) (s : State) : Out :=
  match s.thread tid with
  | some t =>
    let second := match s.wordAt (coreOf tid) t t.pc with
      | some w => w.toNat / 2 ^ 26 == 63
      | none => false
    if t.wait = .held .fetch ∧ s.fetchOpen tid t t.pc = true ∧ (second = false ∨ s.fetchOpen tid t (t.pc + 4) = true) then
      .next (s.setThread tid { t with wait := .ready })
    else .next s
  | none => .next s

end Sys2Proof.Machine
end

