-- ==== Sys2Proof/Machine/Pages.lean ====
section
/-! DEFINITION. Page walks and wakes (R186, R294), SVC-R and page moves (R295 to R297). -/

namespace Sys2Proof.Machine

/-! Walks (R186, R294). -/

/-- The home core of a region-0 offset on a port's die (R291). -/
def homeCore (cl off : Nat) : Nat :=
  let h := homeOf off
  coreAt (clPkg cl) (clDie cl) (36 * bits h 5 2 + 32 + bits h 1 0)

/-- The walks of a home core in one state, in arrival order (R294). -/
def State.walksAt (s : State) (home : Nat) (st : WalkState) : List Walk :=
  sortBy (fun a b => decide (a.since < b.since))
    (s.clusters.flatMap fun e => e.2.walks.filter fun w => homeCore e.1 w.off == home && w.st == st)

/-- A port's walk on the page of an offset goes into a state. -/
def State.setWalk (s : State) (cl off : Nat) (st : WalkState) : State :=
  s.modCluster cl fun k => { k with walks := k.walks.map fun w => if w.off / 65536 = off / 65536 then { w with st := st } else w }

/-- PAGE_WALK (R294): A home core's walker serves walk requests by reading both buckets: the walks that it runs are answered, and up to
3 that wait in its queue are begun, the oldest first. home is the logical number; the core that has its duty sends (R398). -/
def execPageWalk (home : Nat) (s : State) : Out :=
  let duty := s.dutyOf home
  let answer (s : State) (w : Walk) : State :=
    let e := ((s.pkg (clPkg w.cl)).walk (clDie w.cl) w.off).map fun (j, e) =>
      ({ vpn := e.vpn, big := e.big, pfn := e.pfn, hot := 0, from_ := j } : TlbEntry)
    (s.setWalk w.cl w.off .answered).send duty (unitPlace w.cl) 1 (.walkAnswer w.cl w.off e)
  let s := (s.walksAt home .walking).foldl answer s
  .next (((s.walksAt home .queued).take 3).foldl (fun s w => (s.setWalk w.cl w.off .walking).hear duty w.t) s)

/-- A relaxed access of a thread waits at the memory port for a page (R186). -/
def Relaxed.awaits (r : Relaxed) (pkg off : Nat) : Bool :=
  r.missed && match r.place with
    | .hbm p o _ => p == pkg && o / 65536 == off / 65536
    | _ => false

/-- A relaxed access that waited at the memory port goes on, or faults with cause 0x07 (R143, R186). -/
def wakeRelaxed (pkg off : Nat) (e : Option TlbEntry) (t : Thread) : Thread :=
  let mine (r : Relaxed) : Bool := r.awaits pkg off
  let go (e : TlbEntry) (r : Relaxed) : Relaxed :=
    match mine r, r.place with
    | true, .hbm p o _ => { r with missed := false, place := .hbm p o (physOf e.vpn e.pfn o) }
    | _, _ => r
  match e with
  | some e => { t with relaxed := t.relaxed.map (go e) }
  | none =>
    match t.relaxed.find? mine with
    | some r => { t with relaxed := t.relaxed.filter fun x => !mine x, relFault := some (t.relFault.getD ⟨7, r.va⟩) }
    | none => t

/-- A thread's relaxed accesses on the page of an offset go on: each is translated by the entry, which counts it (R289). -/
def State.wakeAccesses (s : State) (cl off tid : Nat) (e : Option TlbEntry) (t : Thread) : State :=
  let n := (t.relaxed.filter (·.awaits (clPkg cl) off)).length
  let touch (k : Cluster) (_ : Nat) : Cluster := match k.tlbFind off with | some e => k.tlbTouch e | none => k
  (s.modCluster cl fun k => (List.range n).foldl touch k).setThread tid (wakeRelaxed (clPkg cl) off e t)

/-- The answer to the walk of an offset reaches one waiter, which missed at an offset of the same page (R78, R186, R294): a thread
reissues, and a wake for a wait that is over is discarded; a relaxed access goes on; a hardware unit notes the answer and tries again;
an entry of an overflow queue's ring is written. An answer that finds no entry counts for the 64 KiB unit that was walked: a waiter of
another one, and one whose offset the entry does not cover, asks again. -/
def State.wake (s : State) (cl walked carried : Nat) (e : Option TlbEntry) (waiter : Waiter × Nat) : State :=
  let who := waiter.1
  let off := waiter.2
  let absent : Bool := e.isNone && walked / 65536 == off / 65536
  let answers : Bool := match e with | some x => x.covers off | none => absent
  let note (s : State) : State :=
    s.modCluster cl fun k => { k with notes := k.notes ++ [{ who := who, unit := off / 65536, found := e.isSome }] }
  let unit (go : State → State) : State :=
    let s := s.hear who.place carried
    if answers then go s else s.askWalk cl off who
  match who with
  | .thread tid =>
    match s.thread tid with
    | some t =>
      let s := s.hear (coreOf tid) carried
      if t.wait = .page (clPkg cl) off then
        s.setThread tid { t with wait := .ready, noEntry := if absent then some (clPkg cl, off / 65536) else none }
      else s
    | none => s
  | .relaxed tid =>
    match s.thread tid with
    | some t => unit fun s => s.wakeAccesses cl off tid e t
    | none => s
  | .engine _ => unit note
  | .slot _ => unit note
  | .segs _ _ => unit note
  | .port _ => unit note
  | .ring c ctx i => unit fun s => if e.isSome then s.ovfEntry c ctx i off else s

/-- PAGE_WAKE (R186): The walker's answer fills the TLB and wakes the faulting slot to reissue, and every other waiter of the walk. -/
def execPageWake (n : Nat) (s : State) : Out :=
  match s.deliver n with
  | some (m, s') =>
    match m.body with
    | .walkAnswer cl off e =>
      let mine (w : Walk) : Bool := w.off / 65536 == off / 65536
      let waiters := ((s.cluster cl).walks.filter mine).flatMap (·.waiters)
      let s' := s'.modCluster cl fun k => { k with walks := k.walks.filter fun w => !mine w }
      let s' := match e with
        | some e => if ((s'.cluster cl).tlbFind off).any fun x => x.vpn == e.vpn && x.big == e.big && x.pfn == e.pfn then s' else s'.tlbFill cl e
        | none => s'
      .next (waiters.foldl (fun s w => s.wake cl off m.t e w) s')
    | _ => .next s
  | none => .next s

/-- Invalidates the TLB entries of a package that satisfy a test (R290, R296, R297); a walk's answer still on its way with such
an entry becomes a walk again. -/
def State.invalidate (s : State) (pkg : Nat) (f : TlbEntry → Bool) : State :=
  let s := s.tlbDrop pkg f
  let stale (m : Msg) : Bool := match m.body with
    | .walkAnswer cl _ (some e) => clPkg cl == pkg && f e
    | _ => false
  let s' := (s.net.filter stale).foldl (fun s m => match m.body with
    | .walkAnswer cl off _ => s.setWalk cl off .queued
    | _ => s) s
  { s' with net := s'.net.filter fun m => !stale m }

/-! Page-table images (R293, R296). -/

/-- An image is valid (R293, R296): its frame lies in a stack and outside the areas of R292. -/
def frameLegal (big : Bool) (pfn : Nat) : Bool :=
  let stack := pfn / 2 ^ 20
  let stop := pfn % 2 ^ 20 * 65536 + 65536 * pageUnits big
  decide (pfn < 2 ^ 24) && decide (stack < 12) && (!big || pfn % 32 == 0) &&
    decide (stop ≤ if stack % 6 = 5 then 48000000000 - 1280 * 2 ^ 20 else 48000000000)

def imageLegal (l : List Byte) : Bool :=
  let w := field l 0 8
  let big := w.testBit 62
  w.testBit 63 && !w.testBit 61 && bits w 60 27 == 0 && (!big || w % 32 == 0) && decide (field l 8 8 < 2 ^ 24) &&
    field l 0x10 8 == 0 && frameLegal big (field l 8 8)

/-- The entry that an image holds. -/
def Pte.ofImage (l : List Byte) : Pte :=
  { tagw := BitVec.ofNat 64 (field l 0 8), frame := BitVec.ofNat 64 (field l 8 8), sw := BitVec.ofNat 64 (field l 0x18 8) }

/-- Number of way 0 of the bucket of an entry in a die's replica. -/
def Pte.base (e : Pte) (die : Nat) : Nat :=
  let off := e.vpn * 65536
  wayIndex die (homeOf off) (if e.big then bucketBig off else bucketSmall off)

/-- The way of a bucket that holds the entry with a VPN and size, and the lowest free way. -/
def sameWay (pt : NatMap Pte) (base : Nat) (x : Pte) : Option (Nat × Pte) :=
  (List.range 8).findSome? fun w => match pt.find? (base + w) with
    | some e => if e.valid && e.vpn == x.vpn && e.big == x.big then some (base + w, e) else none
    | none => none

def freeWay (pt : NatMap Pte) (base : Nat) : Option Nat :=
  ((List.range 8).map fun w => base + w).find? fun i => match pt.find? i with | some e => !e.valid | none => true

/-- Some entry of the other size overlaps an entry's range (R296). -/
def overlapsOther (pt : NatMap Pte) (x : Pte) : Bool :=
  pt.any fun e => e.2.valid && e.2.big != x.big && decide (e.2.vpn < x.vpn + pageUnits x.big) &&
    decide (x.vpn < e.2.vpn + pageUnits e.2.big)

/-- The TLB entries of a page (R290, R296). -/
def ofPage (vpn : Nat) (big : Bool) (e : TlbEntry) : Bool := e.vpn == vpn && e.big == big

/-- Installs an image as hins does (R296): the status and the state; none while a replacement waits for an unseal or a move. -/
def State.install (s : State) (pkg : Nat) (l : List Byte) : Option (Nat × State) :=
  if !imageLegal l then some (4, s)
  else
    let x := Pte.ofImage l
    let k := s.pkg pkg
    match sameWay k.pt (x.base 0) x, sameWay k.pt (x.base 1) x with
    | some (i, old), some (j, _) =>
      let st := k.sealed.at 0 x.vpn
      if old.moving ∨ st = 2 ∨ (k.seals.any fun o => o.undo && o.pages.contains (x.vpn * 65536)) = true then none
      else
        let s := s.invalidate pkg (ofPage x.vpn x.big)
        let s := if st = 1 ∧ old.pfn ≠ x.pfn then s.dropReplicas pkg (x.vpn * 65536) (65536 * pageUnits x.big) else s
        some (1, s.modPkg pkg fun k => { k with pt := (k.pt.put i x).put j x })
    | _, _ =>
      match freeWay k.pt (x.base 0), freeWay k.pt (x.base 1) with
      | some i, some j =>
        if overlapsOther k.pt x then some (3, s)
        else some (0, s.modPkg pkg fun k => { k with pt := (k.pt.put i x).put j x, sealed := k.sealed.del x.vpn })
      | _, _ => some (2, s)

/-- Removes the entry that covers an offset (R296): the status, none while its move is in progress. -/
def State.uninstall (s : State) (pkg die off : Nat) : Option (Nat × State) :=
  match (s.pkg pkg).walk die off with
  | none => some (0, s)
  | some (_, e) =>
    if e.moving then none
    else
      let drop (pt : NatMap Pte) (die : Nat) : NatMap Pte :=
        match sameWay pt (e.base die) e with | some (i, _) => pt.del i | none => pt
      let s := if (s.pkg pkg).sealed.at 0 e.vpn = 0 then s else s.dropReplicas pkg (e.vpn * 65536) (65536 * pageUnits e.big)
      let s := s.modPkg pkg fun k => { k with pt := drop (drop k.pt 0) 1, sealed := k.sealed.del e.vpn }
      some (1, s.invalidate pkg (ofPage e.vpn e.big))

/-- Sum of two shadow entries, each field with saturation (R290, R296). -/
def shadowSum (a b : Nat) : Nat :=
  min 0xFFFF (bits a 47 32 + bits b 47 32) * 2 ^ 32 + min 0xFFFFFFFF (bits a 31 0 + bits b 31 0)

/-- hotr (R296): the sum for the entry that covers an offset, and the state with both shadow entries cleared when asked. -/
def State.hotness (s : State) (pkg off : Nat) (clear : Bool) : Nat × State :=
  let k := s.pkg pkg
  match k.walk 0 off, k.walk 1 off with
  | some (i, _), some (j, _) =>
    (shadowSum (k.shadow.at 0 i).toNat (k.shadow.at 0 j).toNat,
     if clear then s.modPkg pkg fun k => { k with shadow := (k.shadow.del i).del j } else s)
  | _, _ => (0, s)

/-- An entry's frame overlaps a range of frames. -/
def framesMeet (big : Bool) (pfn : Nat) (e : Pte) : Bool :=
  e.valid && decide (e.pfn < pfn + pageUnits big) && decide (pfn < e.pfn + pageUnits e.big)

/-- Sets or changes the entries of a page in both replicas. -/
def Package.modPte (k : Package) (vpn : Nat) (big : Bool) (f : Pte → Pte) : Package :=
  { k with pt := k.pt.mapVals fun _ e => if e.valid && e.vpn == vpn && e.big == big then f e else e }

/-- MV in TAGW. -/
def Pte.setMoving (e : Pte) (v : Bool) : Pte :=
  { e with tagw := if v then e.tagw ||| 0x2000000000000000 else e.tagw &&& 0xDFFFFFFFFFFFFFFF }

/-- Begins a move (R297): a status that refuses it, or the state with MV set. -/
def State.beginMove (s : State) (pkg die off new tid : Nat) (d : BitVec 4) : Except Nat State :=
  match (s.pkg pkg).walk die off with
  | none => .error 1
  | some (_, e) =>
    if e.vpn * 65536 ≠ off then .error 1
    else if !frameLegal e.big new ||
        (s.pkg pkg).pt.any (fun x => !(x.2.vpn == e.vpn && x.2.big == e.big) && framesMeet e.big new x.2) then .error 2
    else if e.moving then .error 3
    else .ok (s.modPkg pkg fun k =>
      { (k.modPte e.vpn e.big (·.setMoving true)) with
        moves := k.moves ++ [{ vpn := e.vpn, old := e.pfn, new := new, tid := tid, d := d }] })

/-- Copies a frame's bytes, and what of it is uncorrectable, to another (R297). -/
def State.copyFrame (s : State) (pkg old new size : Nat) : State :=
  let a := 2 ^ 61 + pkg * 2 ^ 40 + old * 65536
  let b := 2 ^ 61 + pkg * 2 ^ 40 + new * 65536
  let marks := (s.bad.filter fun w => decide (a / 8 ≤ w) && decide (w < (a + size) / 8)).map fun w => w - a / 8 + b / 8
  let s := s.storeBytes b (s.mem.bytes a size)
  { s with bad := marks.foldl NatSet.insert s.bad }

/-! SVC-R (R295, R296). -/

/-- A privileged member that names a linear address: its request goes to the home of the address's offset, whatever its region, and
the thread waits for the answer (R295). -/
def svc (word : Word32) (p : BitVec 3) (q : BitVec 1) (d : BitVec 4) (srcs : List (BitVec 4)) (kind : ReqKind) (s : State) : Out :=
  act word 4 p q srcs [d] s (fun tid t _ v s =>
    let la := canonLa (corePkg (coreOf tid)) (nth v 0).toNat
    s.wait tid t (.mem { kind := kind, word := word, d := d, vals := [BitVec.ofNat 64 la, nth v 1] })) (priv := true) (ext := some .walker)

/-- HWALK (R296): Walks the page table without filling a TLB. -/
def execHwalk (p : BitVec 3) (q : BitVec 1) (d a b : BitVec 4) (s : State) : Out :=
  let word := encR 59 p q d.toNat a.toNat b.toNat 0
  act word 4 p q [a, b] [d] s (fun tid t s0 v s =>
    let c := coreOf tid
    let la := canonLa (corePkg c) (nth v 0).toNat
    let go (out : Nat) : State :=
      s.wait tid t (.mem { kind := .hwalk, word := word, d := d, vals := [BitVec.ofNat 64 la, nth v 1], n := out })
    if nth v 1 = 0 then go 0
    else match s.check c t.ctx (nth v 1) 32 segW 32 with
      | .error x => s0.trapAt tid t t.pc x
      | .ok out => if laRegion out ≠ 1 ∨ laCore out ≠ c then s0.trap tid t 0x0C (nth v 1) else go out)
    (priv := true) (ext := some .walker)

/-- HINS (R296): Installs a page-table image into both replicas. -/
def execHins (p : BitVec 3) (q : BitVec 1) (d a : BitVec 4) (s : State) : Out :=
  let word := encR 59 p q d.toNat a.toNat 0 1
  act word 4 p q [a] [d] s (fun tid t s0 v s =>
    let c := coreOf tid
    match s.check c t.ctx (nth v 0) 32 segR 32 with
    | .error x => s0.trapAt tid t t.pc x
    | .ok la =>
      if laRegion la ≠ 1 ∨ laCore la ≠ c then s0.trap tid t 0x0C (nth v 0)
      else if s.isBad la 32 then s0.trap tid t 8 (nth v 0)
      else s.wait tid t (.mem { kind := .hins, word := word, d := d,
                                vals := (List.range 4).map fun i => BitVec.ofNat 64 (s.mem.read (la + 8 * i) 8) }))
    (priv := true) (ext := some .walker)

/-- HDEL (R296): Removes a page-table entry and its TLB entries. -/
def execHdel (p : BitVec 3) (q : BitVec 1) (d a : BitVec 4) (s : State) : Out :=
  svc (encR 59 p q d.toNat a.toNat 0 2) p q d [a] .hdel s

/-- TLBI (R296): Invalidates TLB entries over a range on every port. -/
def execTlbi (p : BitVec 3) (q : BitVec 1) (a b : BitVec 4) (s : State) : Out :=
  svc (encR 59 p q 0 a.toNat b.toNat 3) p q 10 [a, b] .tlbi s

/-- HOTR (R296): Reads and optionally clears the shadow hotness of an entry. -/
def execHotr (p : BitVec 3) (q : BitVec 1) (d a b : BitVec 4) (s : State) : Out :=
  svc (encR 59 p q d.toNat a.toNat b.toNat 4) p q d [a, b] .hotr s

/-- PGMV (R297): Moves a page to a new frame. -/
def execPgmv (p : BitVec 3) (q : BitVec 1) (d a b : BitVec 4) (s : State) : Out :=
  svc (encR 59 p q d.toNat a.toNat b.toNat 5) p q d [a, b] .pgmv s

/-- Completes a request with a result (R89): its destination is written, and the thread goes on; an x1 element that the port refuses
traps from the state s0 before the request's effect (R185, R416). -/
def State.complete (s0 s : State) (tid : Nat) (t : Thread) (r : Req) (v : Nat) : State :=
  s0.finish s tid t r.word r.d (BitVec.ofNat 64 v)

/-- What a walk of the page table finds for a linear address: nothing in another region than 0 (R296). -/
def Package.walkLa (k : Package) (die la : Nat) : Option (Nat × Pte) := if laRegion la = 0 then k.walk die la else none

/-- A request of SVC-R is served at its home (R296): an address of another region has no entry, and tlbi does nothing for it. -/
def State.svcServed (s : State) (tid : Nat) (t : Thread) (r : Req) : State :=
  let c := coreOf tid
  let pkg := corePkg c
  let la := (nth r.vals 0).toNat
  -- an image's home is that of its VPN's offset (R295)
  let s := s.exchange c (s.dutyOf (homeCore (clusterOf c) (if r.kind = .hins then la % 2 ^ 27 * 65536 else la % 2 ^ 43)))
  match r.kind with
  | .hwalk =>
    let e := (s.pkg pkg).walkLa (coreDie c) la
    s.complete (if nth r.vals 1 = 0 then s
                else s.storeBytes r.n (match e with | some (_, e) => e.image | none => List.replicate 32 0)) tid t r
      (match e with | some (_, e) => e.tagw.toNat | none => 0)
  | .hins =>
    match s.install pkg (r.vals.flatMap fun v => leBytes 8 v.toNat) with
    | some (st, s') => s.complete s' tid t r st
    | none => s
  | .hdel =>
    if laRegion la ≠ 0 then s.complete s tid t r 0
    else match s.uninstall pkg (coreDie c) la with
      | some (st, s') => s.complete s' tid t r st
      | none => s
  | .tlbi =>
    let n := (nth r.vals 1).toNat
    (if laRegion la ≠ 0 then s
     else s.invalidate pkg fun e =>
       n == 0 || (decide (e.vpn * 65536 < la + n) && decide (la < (e.vpn + pageUnits e.big) * 65536))).retire tid t
  | .hotr =>
    let h := if laRegion la ≠ 0 then (0, s) else s.hotness pkg la ((nth r.vals 1).getLsbD 0)
    s.complete h.2 tid t r h.1
  | .pgmv =>
    if r.n ≠ 0 then s
    else if laRegion la ≠ 0 then s.complete s tid t r 1
    else match s.beginMove pkg (coreDie c) la ((nth r.vals 1).toNat % 2 ^ 24) tid r.d with
      | .ok s => s.setThread tid { t with wait := .mem { r with n := 1 } }
      | .error st => s.complete s tid t r st
  | _ => s

/-- PAGE_MOVE_SWITCH (R297): A page copy finishes; entries point to the new frame, MV clears and TLB entries are invalidated. n is
the package and, from 2^13 on, the place among its moves. -/
def execPageMoveSwitch (n : Nat) (s : State) : Out :=
  let pkg := n % 8192
  match (s.pkg pkg).moves[n / 8192]? with
  | none => .next s
  | some m =>
    let big := match (s.pkg pkg).walk 0 (m.vpn * 65536) with | some (_, e) => e.big | none => false
    let s := (s.copyFrame pkg m.old m.new (65536 * pageUnits big)).modPkg pkg fun k =>
      { (k.modPte m.vpn big fun e => { e.setMoving false with frame := BitVec.ofNat 64 m.new }) with
        moves := k.moves.eraseIdx (n / 8192) }
    let s := s.invalidate pkg (ofPage m.vpn big)
    match s.thread m.tid with
    | some t =>
      match t.wait with
      | .mem r => if r.kind = .pgmv ∧ r.n = 1 then .next (s.complete s m.tid t r 0) else .next s
      | _ => .next s
    | none => .next s

end Sys2Proof.Machine
end

