-- ==== Sys2Proof/Machine/Packet.lean ====
section
/-! DEFINITION. Threads as bytes: the thread packet (R84, R85), the extended packet (R86), the work packet (R87). -/

namespace Sys2Proof.Machine

/-- A thread with every register 0 and p1 to p7 false (R87, R177, R318). -/
def Thread.fresh (pc : Word) (ctx : Nat) : Thread :=
  { pc := pc, g := Vector.replicate 10 0, p := 1, ctx := ctx, sup := false, tfl := false, df := false, cause := 0,
    epc := 0, ebad := 0, rnd := 0, scl := 0, shb := 0, mprog := 0, rmode := 0, join := none, seq := Seq.empty,
    mat := none, relaxed := [], relFault := none, vecFault := none, wait := .ready, ilen := 4, prefixed := false,
    handler := false, passBp := false, noEntry := none, arrived := none, delivers := 0, start := 0, fab := [], fabD := 10,
    replayFrom := none }

/-- Registers g0 to g(n-1) from consecutive doublewords of a record at offset o; the others 0. -/
def regsFrom (l : List Byte) (o n : Nat) : Vector Word 10 :=
  Vector.ofFn fun i => if i.val < n then BitVec.ofNat 64 (field l (o + 8 * i.val) 8) else 0

/-- The flags of a work packet are legal (R87). -/
def workLegal (l : List Byte) : Bool := decide (field l 0x34 4 < 2)

/-- The LOCAL flag of a work packet (R87). -/
def workLocal (l : List Byte) : Bool := field l 0x34 4 % 2 == 1

/-- A thread started from a work packet (R87, R168). -/
def Thread.ofWork (l : List Byte) (pc : Word) (ctx : Nat) (join : Option (BitVec 44)) (sup : Bool) : Thread :=
  { Thread.fresh pc ctx with g := regsFrom l 0 6, rnd := BitVec.ofNat 2 (field l 0x30 4), scl := BitVec.ofNat 64 (field l 0x38 8),
                             join := join, sup := sup }

/-- The join-counter field (R84). -/
def joinField : Option (BitVec 44) → Nat
  | some a => a.toNat + 2 ^ 47
  | none => 0

/-- The 128-byte thread packet with a given lcn, WKP and STATE (R84, R85). -/
def Thread.packet (t : Thread) (lcn : Nat) (wkp : Bool) (st : Nat) : List Byte :=
  leBytes 8 t.pc.toNat ++ t.g.toList.flatMap (fun v => leBytes 8 v.toNat) ++ leBytes 8 t.scl.toNat ++ leBytes 8 t.epc.toNat ++
    leBytes 8 t.ebad.toNat ++ leBytes 6 (joinField t.join) ++ leBytes 2 (bits t.shb.toNat 19 5) ++ leBytes 4 lcn ++
    leBytes 4 (t.rmode.toNat * 2 ^ 30 + t.rnd.toNat * 2 ^ 28 + t.ctx * 2 ^ 26 + t.cause.toNat * 2 ^ 18 +
      t.predWord.toNat * 2 ^ 10 + t.statusWord wkp st)

/-- The open vloop body of a sequencer (R86): the index of its first entry, its length, the passes that remain. Where two loops are in the
sequencer the field counts the passes of the open one: its passes less the pass of its last entry, so that the pass that runs still
counts. A loop that vend has closed leaves no trace in these fields, whatever passes it still has to run; R86 says none of this (DESIGN
CHOICE, log 88). -/
def Seq.openBody (q : Seq) : Nat × Nat × Nat :=
  if q.isOpen then
    let k := (q.ents.reverse.takeWhile fun e => !e.isLoop).length
    match q.ents[q.ents.length - k - 1]? with
    | some m => (q.ents.length - k, k, m.passes - (q.ents.getLast?.map (·.pass)).getD 0)
    | none => (0, 0, 0)
  else (0, 0, 0)

/-- The second part of the extended packet, from offset 0x080 on (R86). Of the places that a head index could name, a saved sequencer
begins at place 0, with head index 0 (log 68). -/
def Thread.extPart (t : Thread) : List Byte :=
  let b := t.seq.openBody
  let ent (e : SeqEntry) : List Byte :=
    leBytes 4 e.word.toNat ++ leBytes 4 e.idx ++ leBytes 2 e.pass ++ leBytes 6 e.pc.toNat
  let ents := t.seq.ents.flatMap ent
  leBytes 8 t.mprog.toNat ++ leBytes 4 (match t.mat with | some m => m.word.toNat | none => 0) ++
    leBytes 4 (match t.mat with | some m => m.n | none => 0) ++ leBytes 1 0 ++ leBytes 1 t.seq.ents.length ++ leBytes 1 b.1 ++
    leBytes 1 b.2.1 ++ leBytes 4 b.2.2 ++ leBytes 8 (match t.seq.ents.head? with | some e => bits e.pc.toNat 63 48 | none => 0) ++
    List.replicate 96 0 ++ ents ++ List.replicate (256 - ents.length) 0

/-- The packet that a spill or a management read writes: extended when EXT is 1 (R86, R190). -/
def Thread.record (t : Thread) (lcn : Nat) (wkp : Bool) (st : Nat) : List Byte :=
  if t.ext then t.packet lcn wkp st ++ t.extPart else t.packet lcn wkp st

/-- A thread from a packet (R84, R85): Ready. All 64 bits of its pc are the packet's, so that the fetch of a misaligned one raises cause
0x06 (R177). A packet of 128 bytes has no mprog, which is then 0 (log 68). -/
def Thread.ofPacket (l : List Byte) : Thread :=
  let w := field l 0x7C 4
  { Thread.fresh (BitVec.ofNat 64 (field l 0 8)) (bits w 27 26) with
    g := regsFrom l 8 10, scl := BitVec.ofNat 64 (field l 0x58 8), epc := BitVec.ofNat 64 (field l 0x60 8),
    ebad := BitVec.ofNat 64 (field l 0x68 8),
    join := if (field l 0x70 6).testBit 47 then some (BitVec.ofNat 44 (field l 0x70 6)) else none,
    shb := BitVec.ofNat 64 (bits (field l 0x76 2) 14 0 * 32), rmode := BitVec.ofNat 2 (bits w 31 30),
    rnd := BitVec.ofNat 2 (bits w 29 28), cause := BitVec.ofNat 8 (bits w 25 18), p := BitVec.ofNat 8 (bits w 17 10) ||| 1,
    sup := w.testBit 4, tfl := w.testBit 5, df := w.testBit 7 }

/-- A packet is extended: its EXT bit (R85, R86). -/
def packetExt (l : List Byte) : Bool := (field l 0x7C 4).testBit 6

/-- Adds what the second part of an extended packet holds to a thread (R86); row is what the vector pipe kept of a row, zeroed whether the
suspended operation has applied its zc. -/
def Thread.withExt (t : Thread) (l : List Byte) (frozen : Bool) (row : List Nat) (zeroed : Bool) : Thread :=
  let head := field l 0x90 1
  let n := field l 0x91 1
  let hi := field l 0x98 2
  let ent (j : Nat) : SeqEntry :=
    let o := 0x100 + 16 * ((head + j) % 16)
    { word := BitVec.ofNat 32 (field l o 4), pc := BitVec.ofNat 64 (hi * 2 ^ 48 + field l (o + 10) 6), shb := t.shb,
      rnd := t.rnd, scl := t.scl, idx := field l (o + 4) 4, pass := field l (o + 8) 2, acc := [], recs := [] }
  let ents := (List.range (min n 16)).map ent
  let ents := ents.map fun e => if e.idx = 0 then e else { e with acc := row }
  { t with mprog := BitVec.ofNat 32 (field l 0x80 8), seq := { ents := ents, frozen := frozen },
           mat := if field l 0x88 4 = 0 then none
                  else some { word := BitVec.ofNat 32 (field l 0x88 4), n := field l 0x8C 4, live := false, zeroed := zeroed } }

/-- The thread's matrix operation has applied its zc (R273). -/
def Thread.zeroed (t : Thread) : Bool := match t.mat with | some m => m.zeroed | none => false

/-- A thread from a record that software or a spill wrote (R84, R86), with what the packet does not hold. -/
def Thread.ofRecord (l : List Byte) (frozen : Bool) (row : List Nat) (zeroed : Bool) : Thread :=
  let t := Thread.ofPacket l
  if packetExt l then t.withExt l frozen row zeroed else t

/-- The row that the vector pipe holds for a thread (R246). -/
def Thread.row (t : Thread) : List Nat := ((t.seq.ents.find? fun e => !e.acc.isEmpty).map (·.acc)).getD []

end Sys2Proof.Machine
end

