-- ==== Sys2Proof/Machine/Arrive.lean ====
section
/-! DEFINITION. Which slot takes what (R172, R173, R205, R320), the record of a binding (R184, R370), arrivals at a core. -/

namespace Sys2Proof.Machine

/-- The contexts present on a core (R313, R316). -/
def State.present (s : State) (c : Nat) : List Nat :=
  (List.range 4).filter fun x => (s.resid (4 * corePkg c + x) c).isSome

/-- The foreground context of a core: the higher priority, on a tie the lower number (R320). -/
def State.foreground (s : State) (c : Nat) : Option Nat :=
  (s.present c).foldl (fun b x => match b with
    | none => some x
    | some y => if (s.ctx (4 * corePkg c + y)).prio < (s.ctx (4 * corePkg c + x)).prio then some x else some y) none

/-- A general slot lies in a context's range on its core (R316). -/
def State.inRange (s : State) (tid ctx : Nat) : Bool :=
  decide (slotOf tid < 14) && match s.resid (4 * corePkg (coreOf tid) + ctx) (coreOf tid) with
    | some r => r.slots.testBit (slotOf tid)
    | none => false

/-- A slot position serves a context: it is in the context's range, and a contested slot serves the foreground (R320). -/
def State.serves (s : State) (tid ctx : Nat) : Bool :=
  s.inRange tid ctx && (s.foreground (coreOf tid) == some ctx ||
    !((s.present (coreOf tid)).any fun x => x != ctx && s.inRange tid x))

/-- A context whose threads issue and are bound: it runs (R122, R314), and its package has its die link (R383) and power (R397). -/
def State.running (s : State) (cx : Nat) : Bool :=
  decide ((s.ctx cx).st = .running) && decide ((s.pkg (cx / 4)).sublinks ≠ 0) && !(s.pkg (cx / 4)).off

/-- A slot position is free for work of a context: Vacant, not reserved, no saved record to resume first (R172, R321). -/
def State.freeFor (s : State) (tid ctx : Nat) : Bool :=
  let cx := 4 * corePkg (coreOf tid) + ctx
  s.serves tid ctx && (s.thread tid).isNone && !NatSet.has (s.core (coreOf tid)).reserved (slotOf tid) && s.running cx &&
    ((s.ctx cx).saved.find? tid).isNone && !(s.core (coreOf tid)).disabled

/-- The lowest-numbered free slot position of a context on a core (R172). -/
def State.freeSlot (s : State) (c ctx : Nat) : Option Nat :=
  ((List.range 14).map fun x => 16 * c + x).find? fun tid => s.freeFor tid ctx

/-- A slot as the object of its records (R361). -/
def slotObj (tid : Nat) : Nat := 0xF * 2 ^ 60 + 3 * 2 ^ 56 + slotOf tid * 2 ^ 24 + coreOf tid

/-- Puts a thread into a Vacant slot: Ready, its first issue at the slot's own position in the next rotation (R93); a
sequencer's records are checked again (R228). -/
def State.seat (s : State) (tid : Nat) (t : Thread) : State :=
  s.setThread tid { t with wait := .ready, delivers := 0, start := (s.clock + 15) / 16 * 16 + slotOf tid, seq := t.seq.unchecked }

/-- The trace record of a binding (R373); none where it must be held. -/
def State.traceBind (s : State) (tid cx : Nat) (pc : Word) : Option State :=
  let c := coreOf tid
  s.traceSoft cx (coreDie c) 2 { ts := s.time c, src := srcOf tid, kind := 0x83, seq := 0, obj := pc.toNat, pc := 0, out := 0 }

/-- Binds a thread to a slot with its order-log record (R184): none where the log holds it, or where a replay's next record
of the slot is another (R368, R370). -/
def State.bind (s : State) (tid cx kind out : Nat) (t : Thread) : Option State :=
  let c := coreOf tid
  let matches_ : Bool := (s.ctx cx).replay != 2 ||
    match (s.ctx cx).dispatchedFor (slotObj tid) ((s.ctx cx).seqs.at 0 (slotObj tid)) with
    | some (_, _, r) => r.kind == kind && r.pc == t.pc.toNat % 2 ^ 32 && (kind != 7 || r.out % 4 == out % 4)
    | none => false
  if !matches_ then none
  else match s.logGate (s.ctx cx).replay false cx (coreDie c) c (srcOf tid) kind (slotObj tid) t.pc.toNat out with
    | .go s _ => ((s.unitGoes cx (srcOf tid) (slotObj tid)).traceBind tid cx t.pc).map fun s => s.seat tid t
    | _ => none

/-- A child as a thread (R168). -/
def Child.thread (k : Child) : Thread := Thread.ofWork k.packet k.pc k.ctx k.join k.sup

/-- Binds an arrival, or a child of the overflow queue, with its record: 9 for a migration, 7 for a handler message or a
child, none for the root (R167, R184, R318). -/
def State.bindArrival (s : State) (tid cx : Nat) : Arrival → Option State
  | .thread t origin => s.bind tid cx 9 (coreOf origin + slotOf origin * 2 ^ 24) t
  | .handler t => s.bind tid cx 7 1 t
  | .root t => (s.traceBind tid cx t.pc).map fun s => s.seat tid t
  | .child k => s.bind tid cx 7 0 k.thread

/-- Capacity of a context's overflow queue on a core (R206, R316). -/
def State.ovfCap (s : State) (c ctx : Nat) : Nat :=
  match s.resid (4 * corePkg c + ctx) c with | some r => r.ovfcap | none => 0

/-- Entries that a context's overflow queue on a core holds: arrivals, children, deliveries (R167, R206, R214). -/
def State.ovfHeld (s : State) (c ctx : Nat) : Nat :=
  let k := s.core c
  (k.overflow.at [] ctx).length + k.ports.foldl (fun n e => if e.2.ctx = ctx then n + e.2.spilled.length else n) 0

/-- Entries of the queue in use or reserved (R167). -/
def State.ovfUsed (s : State) (c ctx : Nat) : Nat := s.ovfHeld c ctx + (s.core c).overflowRes.at 0 ctx

/-- n entries join a context's overflow queue: each is written to the next place of its ring in HBM, once the page is walked for where
the TLB lacks it (R206, R288, R294). -/
def State.ovfWrite (s : State) (c ctx : Nat) : Nat → State
  | 0 => s
  | n + 1 =>
    match s.resid (4 * corePkg c + ctx) c with
    | none => s
    | some r =>
      let i := (s.core c).ovfAt.at 0 ctx
      let off := canonLa (corePkg c) (r.ovfbase + 512 * (i % r.ovfcap))
      let s := match s.portMiss (.ring c ctx i) (clusterOf c) [off] with
        | some o => s.askWalk (clusterOf c) o (.ring c ctx i)
        | none => s.ovfEntry c ctx i off
      State.ovfWrite (s.modCore c fun k => { k with ovfAt := k.ovfAt.put ctx (i + 1) }) c ctx n

/-- Work of a context waiting at a core, oldest first: at its ingress, then in its overflow queue (R205). -/
def State.waiting (s : State) (c ctx : Nat) : List Arrival :=
  (s.core c).ingress.at [] ctx ++ (s.core c).overflow.at [] ctx

/-- An entry of the list of waiting work leaves it. -/
def State.unwait (s : State) (c ctx i : Nat) : State :=
  let n := ((s.core c).ingress.at [] ctx).length
  s.modCore c fun k =>
    if i < n then { k with ingress := k.ingress.put ctx ((k.ingress.at [] ctx).eraseIdx i) }
    else { k with overflow := k.overflow.put ctx ((k.overflow.at [] ctx).eraseIdx (i - n)) }

/-- An arrival reaches a core (R205): into the slot that R172 chooses, the ingress or the overflow queue; none where that is
full (R173). -/
def State.arrive (s : State) (c ctx : Nat) (a : Arrival) : Option State :=
  let cx := 4 * corePkg c + ctx
  let direct : Option State :=
    if (s.waiting c ctx).isEmpty ∧ s.ovfHeld c ctx = 0 ∧ (s.ctx cx).replay ≠ 2 then
      match s.freeSlot c ctx with
      | some tid => s.bindArrival tid cx a
      | none => none
    else none
  match direct with
  | some s => some s
  | none =>
    if s.ovfHeld c ctx = 0 ∧ ((s.core c).ingress.at [] ctx).length < 4 then
      some (s.modCore c fun k => { k with ingress := k.ingress.put ctx (k.ingress.at [] ctx ++ [a]) })
    else if s.ovfUsed c ctx < s.ovfCap c ctx then
      some ((s.modCore c fun k => { k with overflow := k.overflow.put ctx (k.overflow.at [] ctx ++ [a]) }).ovfWrite c ctx 1)
    else none

/-- A reserved slot is free again (R173, R204). -/
def State.unreserve (s : State) (tid : Nat) : State :=
  s.modCore (coreOf tid) fun k => { k with reserved := NatSet.remove k.reserved (slotOf tid) }

/-- The answer to a message that a waiting thread sent (R167, R176): 1 accepted, 2 refused. -/
def State.answer (s : State) (from_ : Nat) (who : Option Nat) (kind : ReqKind) (code : Nat) : State :=
  match who with
  | none => s
  | some tid =>
    match s.thread tid with
    | some t => match t.wait with
      | .mem r =>
        if r.kind = kind ∧ r.n = 0 then
          (s.hear (coreOf tid) (s.time from_)).setThread tid { t with wait := .mem { r with n := code } }
        else s
      | _ => s
    | none => s

end Sys2Proof.Machine
end

