-- ==== Sys2Proof/Machine/Work.lean ====
section
/-! DEFINITION. Creating, waiting and moving threads: WORK-R (R165 to R184), the messages it sends, and binding to free slots (R172, R203 to R205, R324). -/

namespace Sys2Proof.Machine

/-! Spawning and joining (R167 to R171). -/

/-- Adds 1 to, or takes 1 from, a join counter; its full-empty bit stays (R167, R171). A counter word that holds uncorrectable data is
counted on its stored bytes, and the write makes it good: a message has no thread to trap (log 66). -/
def State.count (s : State) (la : Nat) (up : Bool) : State :=
  s.store la 8 ((s.mem.read la 8 + (if up then 1 else 2 ^ 64 - 1)) % 2 ^ 64)

/-- A child enters its core's deque or overflow queue; on the deque it lets a finished search of its context start again at once
(R167, R324). -/
def State.pushChild (s : State) (c : Nat) (k : Child) (ovf : Bool) : State :=
  let s := s.modCore c fun x =>
    if ovf then { x with overflow := x.overflow.put k.ctx (x.overflow.at [] k.ctx ++ [.child k]) }
    else { x with deque := x.deque ++ [k],
                  steal := match x.steal.find? k.ctx with
                    | some y => if y.asked then x.steal else x.steal.del k.ctx
                    | none => x.steal }
  if ovf then s.ovfWrite c k.ctx 1 else s

/-- The place that a spawn reserves: in the deque, in the overflow queue, or none (R167). -/
def State.childPlace (s : State) (c ctx : Nat) : Option Bool :=
  let k := s.core c
  if k.deque.length + (k.dequeRes.map (·.2)).sum < 64 then some false
  else if s.ovfUsed c ctx < s.ovfCap c ctx then some true else none

/-- Reserves, or gives back, a child's place. -/
def State.reservePlace (s : State) (c ctx : Nat) (ovf up : Bool) : State :=
  let f (m : NatMap Nat) : NatMap Nat := m.put ctx (if up then m.at 0 ctx + 1 else m.at 0 ctx - 1)
  s.modCore c fun k => if ovf then { k with overflowRes := f k.overflowRes } else { k with dequeRes := f k.dequeRes }

/-- spawn once its packet is read (R167): the flags, the place, the increment, the push. The increment of a counter of the own core too is a
message that executes in its DMA turn (R171, R201): the child's place is reserved until it has executed (DEDUCED, log 83). -/
def State.spawnGo (s0 s : State) (tid : Nat) (t : Thread) (word : Word32) (packet : List Byte) (pk e : Word)
    (lc : Option Nat) : State :=
  let c := coreOf tid
  let child : Child := { packet := packet, pc := e, join := lc.map (BitVec.ofNat 44), sup := t.sup, ctx := t.ctx }
  if !workLegal packet then s0.trap tid t 1 (word.setWidth 64)
  else match s.childPlace c t.ctx with
    | none => s0.trap tid t 0x0D pk
    | some ovf =>
      match lc with
      | none => (s.pushChild c child ovf).retire tid t
      | some la =>
        ((s.reservePlace c t.ctx ovf true).send c (laCore la) 1 (.counter la true (some tid))).wait tid t
          (.mem { kind := .spawnAck, vals := e :: (List.range 8).map (fun i => BitVec.ofNat 64 (field packet (8 * i) 8)),
                  locs := [.loc la], sgn := ovf })

/-- The owning core has acknowledged the increment (R167): the child goes into its reserved place. -/
def State.spawnAcked (s : State) (tid : Nat) (t : Thread) (r : Req) : State :=
  let c := coreOf tid
  let child : Child := { packet := r.vals.tail.flatMap fun v => leBytes 8 v.toNat, pc := nth r.vals 0,
                         join := r.locs.head?.map fun l => BitVec.ofNat 44 l.key, sup := t.sup, ctx := t.ctx }
  if r.n = 0 then s
  else ((s.reservePlace c t.ctx r.sgn false).pushChild c child r.sgn).retire tid t

/-- A packet that lies elsewhere has arrived (R167), read as a load reads, through the cluster's replica cache (R309). -/
def State.spawnPacket (s : State) (tid : Nat) (t : Thread) (r : Req) : State :=
  let l := s.place (r.locs.headD (.loc 0))
  let g := (s.heardAt (coreOf tid) l).readGood (clusterOf (coreOf tid)) l 64
  let s := g.2
  if !g.1 then s.trap tid t 8 (nth r.vals 1)
  else s.spawnGo s tid t ((nth r.vals 0).setWidth 32) (s.mem.bytes l.key 64) (nth r.vals 1) (nth r.vals 2)
    (if r.n = 0 then none else some (r.n - 1))

/-- SPAWN (R167): Reads a work packet, increments the join counter and pushes the child onto the deque or overflow queue. R131's checks of
a page, of uncorrectable data (0x08), of a host window's right (0x04) and of a proxy (0x07) belong here to the reading of the packet, so
that the entry pc's 0x06 and the counter's checks come before them; the spec gives them no rank (DESIGN CHOICE, log 90). -/
def execSpawn (p : BitVec 3) (q : BitVec 1) (d a b : BitVec 4) (s : State) : Out :=
  act (encR 34 p q (d.toNat) (a.toNat) (b.toNat) (0)) 4 p q [a, b, d] [] s fun tid t s0 v s =>
    let c := coreOf tid
    let pk := nth v 0
    let e := nth v 1
    let jc := nth v 2
    s0.drained tid t <|
      match s.check c t.ctx pk 64 segR 64 with
      | .error x => s0.trapAt tid t t.pc x
      | .ok la =>
        if e.toNat % 4 ≠ 0 then s0.trap tid t 6 e
        else
          match (if d = 10 then .ok none else (s.check c t.ctx jc 8 (segR ||| segW) 8).map some) with
          | .error x => s0.trapAt tid t t.pc x
          | .ok lc =>
            if (lc.map laRegion).getD 1 ≠ 1 then s0.trap tid t 0x0C jc
            else if (lc.map fun a => s.isBad a 8).getD false then s0.trap tid t 8 jc
            else
              let la := canonLa (corePkg c) la
              if laRegion la = 1 ∧ laCore la = c then
                if s.isBad la 64 then s0.trap tid t 8 pk
                else s0.spawnGo s tid t (encR 34 p q (d.toNat) (a.toNat) (b.toNat) (0)) (s.mem.bytes la 64) pk e lc
              else if s.windowLacks (corePkg c) la segR then s0.trap tid t 4 pk
              else if s.noProxy (corePkg c) la then s0.trap tid t 7 pk
              else match s.translate c la with
                | (.miss pkg off, _) => s0.pageMiss tid t pkg off pk
                | (.ok l, s) =>
                  s.wait tid t (.mem { kind := .spawnRead, vals := [BitVec.setWidth 64 (encR 34 p q (d.toNat) (a.toNat) (b.toNat) (0)), pk, e], locs := [l],
                                       n := match lc with | some a => a + 1 | none => 0 })

/-- JOIN (R169): Waits until the join counter reads zero. -/
def execJoin (p : BitVec 3) (q : BitVec 1) (a : BitVec 4) (s : State) : Out :=
  syncAt (encR 34 p q (0) (a.toNat) (0) (1)) p q [a] [] [a] segR s fun tid t s0 v la s =>
    if s.isBad la 8 then s0.trap tid t 8 (nth v 0)
    else if s.mem.read la 8 ≠ 0 then s0.wait tid t .sync
    else s0.logged s tid t (coreOf tid) 4 la 0 fun s _ => s.retire tid t

/-- JINIT (R169): Writes an initial value into a join counter. -/
def execJinit (p : BitVec 3) (q : BitVec 1) (a b : BitVec 4) (s : State) : Out :=
  syncAt (encR 34 p q (0) (a.toNat) (b.toNat) (2)) p q [a, b] [] [a] (segR ||| segW) s fun tid t _ v la s =>
    (s.store la 8 (nth v 1).toNat).retire tid t

/-- The end of a thread by exit (R170): its trace record, the decrement of its join counter, the Vacant slot. -/
def State.exitNow (s0 s : State) (tid : Nat) (t : Thread) : State :=
  let c := coreOf tid
  match s.traceSoft (cxOf c t) (coreDie c) 2 { ts := s.time c, src := srcOf tid, kind := 0x83, seq := 0, obj := 0,
                                               pc := t.pc.toNat % 2 ^ 32, out := 1 } with
  | none => s0.gateWait tid t .logFull 0
  | some s =>
    match t.join with
    | some j => (s.send c (laCore (2 ^ 56 + j.toNat)) 1 (.counter (2 ^ 56 + j.toNat) false none)).vacate tid
    | none => s.vacate tid

/-- EXIT (R170): Ends the thread, sending a decrement to its join counter; cause 0x01 while a body is open, in a frozen sequencer
too (R238, log 61). -/
def execExit (p : BitVec 3) (q : BitVec 1) (s : State) : Out :=
  frame (encR 34 p q (0) (0) (0) (3)) 4 p q s fun tid t s =>
    if t.seq.isOpen then s.trap tid t 1 (BitVec.setWidth 64 (encR 34 p q (0) (0) (0) (3)))
    else s.drained tid t <|
      if !t.seq.ents.isEmpty && !t.seq.frozen then s.wait tid t (.held .vwait)
      else s.exitNow s tid t

/-- COUNTER_MESSAGE (R171): A join-counter increment or decrement message executes on the owning core in its DMA turn. -/
def execCounterMessage (n : Nat) (s : State) : Out :=
  match s.deliver n with
  | some (m, s') =>
    match m.body with
    | .counter la up who => .next ((s'.count la up).answer m.dst who .spawnAck 1)
    | _ => .next s
  | none => .next s

/-! Yielding and moving (R174, R175). -/

/-- YIELD (R174): Holds the thread for its own positions in the next n rotations. -/
def execYield (p : BitVec 3) (q : BitVec 1) (a : BitVec 4) (s : State) : Out :=
  effect (encR 34 p q (0) (a.toNat) (0) (4)) 4 p q [a] s fun tid t v s =>
    s.wait tid t (.held (.yield (Nat.max 1 ((nth v 0).toNat % 65536))))

/-- YIELD_HOLD_END (R174): After the counted rotations the yielding thread issues again at its own position. -/
def execYieldHoldEnd (tid : Nat) (s : State) : Out :=
  match s.thread tid with
  | some t =>
    match t.wait with
    | .held (.yield k) => if k = 0 then .next (s.retire tid t) else .next s
    | _ => .next s
  | none => .next s

/-- MIGRATE (R175): Moves the thread to the named logical core. -/
def execMigrate (p : BitVec 3) (q : BitVec 1) (a : BitVec 4) (s : State) : Out :=
  act (encR 34 p q (0) (a.toNat) (0) (5)) 4 p q [a] [] s fun tid t s0 v s =>
    let target := (nth v 0).toNat % 2 ^ 24
    if s.coreOk target = false ∨ s.holdsSlots (4 * corePkg target + t.ctx) target = false then s0.trap tid t 7 (nth v 0)
    else if target = coreOf tid then s0.drained tid t (s.retire tid t)
    else if t.relaxed.isEmpty then s.ship tid t target (nth v 0) (past := true)
    else s0.drained tid t s0

/-! Messages and wakes (R176 to R179). -/

/-- The key of a slot position's wake state for a context (R178). -/
def wakeKey (tid ctx : Nat) : Nat := 4 * slotOf tid + ctx

/-- The thread that a handler message starts (R177). -/
def Thread.handlerOf (t : Thread) (pc : Word) : Thread :=
  { Thread.fresh pc t.ctx with g := Vector.ofFn (fun i => if i.val < 6 then t.g[i.val]'(i.isLt) else 0), rnd := t.rnd,
                               scl := t.scl, sup := t.sup, handler := true }

/-- SEND (R176): Sends a handler or wake message and waits for acceptance. -/
def execSend (p : BitVec 3) (q : BitVec 1) (a b : BitVec 4) (s : State) : Out :=
  act (encR 34 p q (0) (a.toNat) (b.toNat) (6)) 4 p q [a, b] [] s fun tid t s0 v s =>
    let m := (nth v 0).toNat
    let c := coreOf tid
    let target := m % 2 ^ 24
    s0.drained tid t <|
      if bits m 30 28 ≠ 0 ∨ (m.testBit 31 = false ∧ bits m 27 24 ≠ 0) then s0.trap tid t 1 (BitVec.setWidth 64 (encR 34 p q (0) (a.toNat) (b.toNat) (6)))
      else if s.coreOk target = false ∨ s.holdsSlots (4 * corePkg target + t.ctx) target = false then
        s0.trap tid t 7 (nth v 0)
      else
        (s.send c target 0
          (if m.testBit 31 then .wake (16 * target + bits m 27 24) t.ctx (nth v 1) (some tid)
           else .handler target (t.handlerOf (nth v 1)) (some tid))).wait tid t (.mem { kind := .send, vals := [nth v 0] })

/-- The destination has accepted a message, or refused it (R173, R176). -/
def State.sendAnswered (s : State) (tid : Nat) (t : Thread) (r : Req) : State :=
  if r.n = 0 then s else if r.n = 1 then s.retire tid t else s.trap tid t 0x0D (nth r.vals 0)

/-- WAKE_MESSAGE_ARRIVAL (R178): A wake sets the slot's pending bit and ORs its tag into the tag word. -/
def execWakeMessageArrival (n : Nat) (s : State) : Out :=
  match s.deliver n with
  | some (m, s') =>
    match m.body with
    | .wake tid ctx tag who =>
      let c := coreOf tid
      let s'' := if (s.resid (4 * corePkg c + ctx) c).isSome then
          s'.modCore c fun k =>
            { k with wakes := k.wakes.put (wakeKey tid ctx) (true, (k.wakes.at (false, 0) (wakeKey tid ctx)).2 ||| tag) }
        else s'
      .next (s''.answer c who .send 1)
    | _ => .next s
  | none => .next s

/-- HANDLER_MESSAGE_ARRIVAL (R177): A handler message is bound as a new thread or queued at the ingress or overflow queue. -/
def execHandlerMessageArrival (n : Nat) (s : State) : Out :=
  match s.deliver n with
  | some (m, s') =>
    match m.body with
    | .handler core t who =>
      let cx := 4 * corePkg core + t.ctx
      if !(s.running cx && s.holdsSlots cx core) then .next (s'.answer core who .send 1)
      else match s'.arrive core t.ctx (.handler t) with
        | some s'' => .next (s''.answer core who .send 1)
        | none => .next (s'.answer core who .send 2)
    | _ => .next s
  | none => .next s

/-- WAITM (R179): Waits for a pending wake, then takes and clears the tag. -/
def execWaitm (p : BitVec 3) (q : BitVec 1) (d : BitVec 4) (s : State) : Out :=
  act (encR 34 p q (d.toNat) (0) (0) (7)) 4 p q [] [d] s fun tid t s0 _ s =>
    let c := coreOf tid
    let k := wakeKey tid t.ctx
    let w := (s.core c).wakes.at (false, 0) k
    s0.drained tid t <|
      if !w.1 then s0.wait tid t .sync
      else s0.logged s tid t c 0x0C (slotObj tid) (w.2.toNat % 2 ^ 32) fun s _ =>
        s0.finish (s.modCore c fun x => { x with wakes := x.wakes.del k }) tid t (encR 34 p q (d.toNat) (0) (0) (7)) d w.2

/-! Arrival counters and barriers (R180 to R182). -/

/-- An arrival counter lies in a context's range on a core (R180, R207). -/
def State.ownsCounter (s : State) (c cx k : Nat) : Bool :=
  match s.resid cx c with
  | some r => decide (r.cfirst ≤ k) && decide (k < r.cfirst + r.ccount)
  | none => false

/-- An arrival counter as the object of its records (R361). -/
def counterObj (c k : Nat) : Nat := 0xF * 2 ^ 60 + 2 ^ 56 + k * 2 ^ 24 + c

/-- A counter has reached a value (R180). -/
def reached (ck v : BitVec 32) : Bool := decide ((ck - v).toNat < 2 ^ 31)

/-- WAITC (R180): Waits until an arrival counter reaches a threshold. -/
def execWaitc (p : BitVec 3) (q : BitVec 1) (d a b : BitVec 4) (s : State) : Out :=
  act (encR 34 p q (d.toNat) (a.toNat) (b.toNat) (8)) 4 p q [a, b] [d] s fun tid t s0 v s =>
    let c := coreOf tid
    let k := (nth v 0).toNat % 64
    let ck := (s.core c).counters.at 0 k
    if !s.ownsCounter c (cxOf c t) k then s0.trap tid t 4 (nth v 0)
    else s0.drained tid t <|
      if !reached ck ((nth v 1).setWidth 32) then s0.wait tid t .sync
      else s0.logged s tid t c 6 (counterObj c k) ck.toNat fun s o =>
        match o with
        | none => s0.finish s tid t (encR 34 p q (d.toNat) (a.toNat) (b.toNat) (8)) d (ck.setWidth 64)
        | some x =>
          -- in replay the recorded value is returned once the counter has reached it (R369)
          if reached ck (BitVec.ofNat 32 x) then s0.finish s tid t (encR 34 p q (d.toNat) (a.toNat) (b.toNat) (8)) d (BitVec.ofNat 64 x)
          else s0.wait tid t .sync

/-- CSET (R180): Sets an arrival counter. -/
def execCset (p : BitVec 3) (q : BitVec 1) (a b : BitVec 4) (s : State) : Out :=
  act (encR 34 p q (0) (a.toNat) (b.toNat) (9)) 4 p q [a, b] [] s fun tid t s0 v s =>
    let c := coreOf tid
    let k := (nth v 0).toNat % 64
    if !s.ownsCounter c (cxOf c t) k then s0.trap tid t 4 (nth v 0)
    else s0.drained tid t ((s.modCore c fun x => { x with counters := x.counters.put k ((nth v 1).setWidth 32) }).retire tid t)

/-- A barrier as the object of its records (R361): a core's, or that of a cluster's core at position 0. -/
def barObj (core key : Nat) (wide : Bool) : Nat :=
  0xF * 2 ^ 60 + 2 * 2 ^ 56 + wide.toNat * 2 ^ 28 + key % 16 * 2 ^ 24 + core

/-- What releasing waiters comes to: all of them are through, one must wait for its recorded position, or one diverges. -/
inductive Release where
  | done (s : State)
  | wait
  | diverge (tid reason expected : Nat)

/-- Whether a waiter of a barrier has its position: always, but in a replay (R369). -/
def State.barTurn (s : State) (obj tid : Nat) : Bool :=
  match s.thread tid with
  | some t => s.gateOpen tid t 5 obj
  | none => true

/-- A waiter leaves its barrier with its record (R181, R184): recorded without a test of its own, since the release tested. -/
def State.barLeave (s : State) (obj count tid : Nat) : Release :=
  match s.thread tid with
  | none => .done s
  | some t =>
    match s.servedGate tid t (coreOf tid) 5 obj count with
    | .go s _ => .done (s.retire tid { t with arrived := none })
    | .wait _ => .wait
    | .diverge r e => .diverge tid r e

/-- The waiters of a barrier in the order in which their records follow each other: by T, then by source (R365). -/
def State.barOrder (s : State) (l : List Nat) : List Nat :=
  sortBy (fun a b => decide (s.time (coreOf a) < s.time (coreOf b)) ||
    (s.time (coreOf a) == s.time (coreOf b) && decide (srcOf a < srcOf b))) l

/-- Releases the waiters of a barrier (R181): in the order of their records, each of which raises the T of its core, or in that of a
replay's records. -/
def State.barAll (obj count : Nat) : Nat → List Nat → State → Release
  | 0, _, s => .done s
  | n + 1, l, s =>
    match (s.barOrder l).find? (s.barTurn obj) with
    | none => if l.isEmpty then .done s else .wait
    | some tid =>
      match s.barLeave obj count tid with
      | .done s => State.barAll obj count n (l.erase tid) s
      | r => r

/-- The rings of the waiters' dies have room for their records, where they record (R368). -/
def State.barRoom (s : State) (l : List Nat) : Bool :=
  l.all fun tid => match s.thread tid with
    | some t => decide (s.logMode tid t ≠ 1) || s.logRoom (cxOf (coreOf tid) t) (coreDie (coreOf tid))
    | none => true

/-- An arrival leaves the generation that counted it; a generation without arrivals is over, so that the next arrival sets a new count
(log 67). -/
def dropArrival (m : NatMap (List Barrier)) (key tid : Nat) : NatMap (List Barrier) :=
  let l := ((m.at [] key).map fun b => { b with arrived := b.arrived.erase tid }).filter fun b => !b.arrived.isEmpty
  if l.isEmpty then m.del key else m.put key l

/-- A waiter's arrival is withdrawn (R90, R181, log 67). -/
def State.withdraw (s : State) (tid : Nat) (t : Thread) : State :=
  match t.arrived with
  | none => s
  | some k =>
    if k < 64 then s.modCore (coreOf tid) fun x => { x with bars := dropArrival x.bars k tid }
    else
      let s := s.modCluster (clusterOf (coreOf tid)) fun x => { x with bars := dropArrival x.bars (k - 64) tid }
      { s with net := s.net.filter fun m => match m.body with | .barArrive _ i _ => i != tid | _ => true }

/-- A waiter of a barrier diverges: its arrival is withdrawn, and it traps (R371). -/
def State.barDiverge (s : State) (obj tid reason expected : Nat) : State :=
  match s.thread tid with
  | some t => (s.withdraw tid t).diverge tid { t with arrived := none } obj reason expected
  | none => s

/-- The waiters of a barrier that wait for their recorded positions (R369). -/
def State.barNoted (s : State) (obj : Nat) (l : List Nat) : State :=
  l.foldl (fun s tid => if s.barTurn obj tid then s else s.noteReplay tid obj) s

/-- The waiters of a generation are released: f ends the generation where all of them have become Ready (R181). -/
def State.release (s : State) (obj : Nat) (b : Barrier) (f : State → State) : State :=
  match s.barAll obj b.count (b.arrived.length + 1) b.arrived with
  | .done s => f s
  | .wait => s.barNoted obj b.arrived
  | .diverge tid r e => s.barDiverge obj tid r e

/-- The arrivals of a generation have reached its count. -/
def Barrier.full (b : Barrier) : Bool := decide (b.count ≤ b.arrived.length)

/-- The oldest generation of a barrier is over. -/
def endGeneration (m : NatMap (List Barrier)) (key : Nat) : NatMap (List Barrier) :=
  if ((m.at [] key).drop 1).isEmpty then m.del key else m.put key ((m.at [] key).drop 1)

/-- A core barrier releases when its arrivals have reached the count: every waiter becomes Ready, the next generation
begins, and a pending slot table takes effect (R181, R199). -/
def State.coreRelease (s : State) (c key : Nat) : State :=
  match (s.core c).bars.at [] key with
  | [] => s
  | b :: _ =>
    if b.full = false ∨ s.barRoom b.arrived = false then s
    else s.release (barObj c key false) b fun s => s.modCore c fun k =>
      { k with bars := endGeneration k.bars key, slotTab := k.slotPend.getD k.slotTab, slotPend := none }

/-- An arrival among the generations of a barrier (R181): it joins the first whose count is not reached, or begins one, whose
count it sets. -/
def joinGeneration (tid count now t : Nat) : List Barrier → List Barrier
  | [] => [{ count := count, arrived := [tid], since := now, t := t }]
  | b :: r =>
    if b.full then b :: joinGeneration tid count now t r
    else { b with arrived := b.arrived ++ [tid], since := now, t := max b.t t } :: r

/-- Adds an arrival to a barrier. -/
def addArrival (m : NatMap (List Barrier)) (key tid count now t : Nat) : NatMap (List Barrier) :=
  m.put key (joinGeneration tid count now t (m.at [] key))

/-- A participant count clamped to 1 to a limit (R181). -/
def clampCount (v limit : Nat) : Nat := Nat.max 1 (Nat.min limit (v % 1024))

/-- BAR (R181): Arrives at a core or cluster barrier and waits for its release. -/
def execBar (p : BitVec 3) (q : BitVec 1) (a b : BitVec 4) (s : State) : Out :=
  act (encR 34 p q (0) (a.toNat) (b.toNat) (10)) 4 p q [a, b] [] s fun tid t s0 v s =>
    let c := coreOf tid
    let key := 16 * t.ctx + (nth v 0).toNat % 16
    s0.drained tid t <|
      if (nth v 0).getLsbD 8 then
        (s.send c (unitPlace (clusterOf c)) 0 (.barArrive key tid (clampCount (nth v 1).toNat 576))).setThread tid
          { t with wait := .sync, arrived := some (64 + key) }
      else
        let s' := (s.modCore c fun k =>
            { k with bars := addArrival k.bars key tid (clampCount (nth v 1).toNat 16) s.clock (s.time c) }).setThread
          tid { t with wait := .sync, arrived := some key }
        if ((s'.core c).bars.at [] key).any fun x => x.full && x.arrived.contains tid && !s'.barRoom x.arrived then
          s0.gateWait tid t .logFull 0
        else s'.coreRelease c key

/-- FENCE (R182): Waits until every earlier relaxed access of the thread has completed. -/
def execFence (p : BitVec 3) (q : BitVec 1) (sc : BitVec 4) (s : State) : Out :=
  frame (encR 34 p q (0) (0) (sc.toNat) (11)) 4 p q s fun tid t s => s.drained tid t (s.retire tid t)

/-- CLUSTER_BARRIER_ARRIVAL (R310): The cluster barrier hardware receives an arrival message and counts it. -/
def execClusterBarrierArrival (n : Nat) (s : State) : Out :=
  match s.deliver n with
  | some (m, s') =>
    match m.body with
    | .barArrive key tid count =>
      .next (s'.modCluster (clusterOf (coreOf tid)) fun k => { k with bars := addArrival k.bars key tid count s.clock (m.t + 1) })
    | _ => .next s
  | none => .next s

/-- CLUSTER_BARRIER_RELEASE (R310): The release reaches the waiting cores 24 cycles after the last arrival and every waiter becomes Ready.
-/
def execClusterBarrierRelease (cl bar : Nat) (s : State) : Out :=
  match (s.cluster cl).bars.at [] bar with
  | [] => .next s
  | b :: _ =>
    if b.full = false ∨ s.clock < b.since + 24 ∨ s.barRoom b.arrived = false then .next s
    else
      -- the release carries the arrivals' largest T to the waiting cores (R364)
      let heard := (b.arrived.map coreOf).foldl (fun s c => s.hear c b.t) s
      .next (heard.release (barObj (clBase cl) bar true) b fun s =>
        s.modCluster cl fun k => { k with bars := endGeneration k.bars bar })

/-! A change offered to the waiters (R148). -/

/-- Runs a waiting instruction of SYNC-R or WORK-R again: ldf, ldfe, ste, join, waitm or waitc (R147, R169, R179, R180). -/
def reissue (w : Word32) (s : State) : Out :=
  let p : BitVec 3 := (w >>> 23).setWidth 3
  let q : BitVec 1 := (w >>> 22).setWidth 1
  let d : BitVec 4 := (w >>> 18).setWidth 4
  let a : BitVec 4 := (w >>> 14).setWidth 4
  let b : BitVec 4 := (w >>> 10).setWidth 4
  match w.toNat / 2 ^ 26, w.toNat % 1024 with
  | 31, 0 => execLdf p q d a s
  | 31, 1 => execLdfe p q d a s
  | 31, 2 => execSte p q d a s
  | 34, 1 => execJoin p q a s
  | 34, 7 => execWaitm p q d s
  | 34, 8 => execWaitc p q d a b s
  | _, _ => .next s

/-- The slot positions after one, in rotation order. -/
def positionsAfter (c pos : Nat) : List Nat := (List.range 16).map fun j => 16 * c + (pos + 1 + j) % 16

/-- What the first satisfied waiter leaves; none where no waiter's condition holds. -/
def State.offer (s : State) (c : Nat) : List Nat → Option State
  | [] => none
  | tid :: rest =>
    match s.thread tid with
    | some t =>
      -- a fault found earlier is delivered before the instruction goes on (R143, R188)
      if t.wait = .sync ∧ t.arrived.isNone ∧ t.relFault.isNone ∧ (t.vecFault.isNone ∨ t.seq.frozen = true) then
        match s.wordAt c t t.pc with
        | some w =>
          match reissue w { s with cur := tid } with
          | .next s' => match s'.thread tid with
            | some u => if u.wait = .sync then State.offer s c rest else some s'
            | none => some s'
          | _ => State.offer s c rest
        | none => State.offer s c rest
      else State.offer s c rest
    | none => State.offer s c rest

/-- SYNC_WAIT_SATISFIED (R148): A change of a waited-on word, counter or barrier is offered to waiters in rotation order and the first
satisfied waiter performs its effect. -/
def execSyncWaitSatisfied (core pos : Nat) (s : State) : Out :=
  match s.offer core (positionsAfter core pos) with
  | some s' => .next s'
  | none => .next ((s.core core).bars.foldl (fun s e => s.coreRelease core e.1) s)

/-! Binding to a free slot (R172, R173, R203, R204, R324, R370). -/

/-- The victims of a steal search in order, as far as DOMAIN goes (R324). -/
def State.victims (s : State) (q ctx : Nat) : List Nat :=
  let cx := 4 * corePkg q + ctx
  let dom := (s.ctx cx).domain
  let die (d k : Nat) : List Nat := (List.range 36).map fun j => coreAt (corePkg q) d (36 * k + j)
  let k := coreNum q / 36
  let l1 := if 1 ≤ dom then (List.range 35).map fun j => coreAt (corePkg q) (coreDie q) (36 * k + (corePos q + 1 + j) % 36) else []
  let l2 := if 2 ≤ dom then (List.range 15).flatMap fun m => die (coreDie q) ((k + 1 + m) % 16) else []
  let l3 := if 3 ≤ dom then (List.range 16).flatMap fun m => die (1 - coreDie q) m else []
  (l1 ++ l2 ++ l3).filter fun c => (s.resid cx c).isSome

/-- The bottom-most entry of a context: its place in the deque (R168). -/
def bottomOf (l : List Child) (ctx : Nat) : Option Nat :=
  ((List.range l.length).reverse).find? fun i => match l[i]? with | some k => k.ctx == ctx | none => false

/-- The top-most entry of a context that may be stolen (R203). -/
def topOf (l : List Child) (ctx : Nat) : Option Nat :=
  (List.range l.length).find? fun i => match l[i]? with | some k => k.ctx == ctx && !workLocal k.packet | none => false

/-- Sends a steal request on behalf of a slot, which is reserved until the reply (R204). -/
def State.askSteal (s : State) (tid ctx victim : Nat) (rest : List Nat) : State :=
  let c := coreOf tid
  (s.modCore c fun k => { k with reserved := NatSet.insert k.reserved (slotOf tid),
                                 steal := k.steal.put ctx { victims := rest, asked := true, since := 0 } }).send
    c victim 0 (.steal victim c ctx (slotOf tid))

/-- Pops the deque into a slot, or searches for a steal (R172, R324). -/
def State.popOrSteal (s : State) (tid ctx : Nat) : State :=
  let c := coreOf tid
  let cx := 4 * corePkg c + ctx
  let k := s.core c
  match bottomOf k.deque ctx with
  | some i =>
    match k.deque[i]? with
    | some x => ((s.modCore c fun k => { k with deque := k.deque.eraseIdx i }).bind tid cx 7 0 x.thread).getD s
    | none => s
  | none =>
    match k.steal.find? ctx with
    | none => match s.victims c ctx with
      | [] => s
      | v :: r => s.askSteal tid ctx v r
    | some y => match y.asked, y.victims with
      | false, v :: r => s.askSteal tid ctx v r
      | _, _ => s

/-- The first of some waiting work that a slot can bind: what is left of the state (R370). -/
def State.firstBound (s : State) (tid ctx : Nat) : List (Nat × Arrival) → Option State
  | [] => none
  | (i, a) :: r =>
    match (s.unwait (coreOf tid) ctx i).bindArrival tid (4 * corePkg (coreOf tid) + ctx) a with
    | some s' => some s'
    | none => State.firstBound s tid ctx r

/-- In a replay, a slot binds what its next record names (R370); while nothing that waits matches, its wait is counted (R371). -/
def State.bindRecorded (s : State) (tid ctx : Nat) : State :=
  let c := coreOf tid
  let cx := 4 * corePkg c + ctx
  let work := s.waiting c ctx
  let waits (s : State) : State := if (s.thread tid).isSome then s else s.unitWaits cx c (srcOf tid) (slotObj tid)
  match s.firstBound tid ctx ((List.range work.length).zip work) with
  | some s' => s'
  | none => waits <|
    match (s.ctx cx).dispatchedFor (slotObj tid) ((s.ctx cx).seqs.at 0 (slotObj tid)) with
    | some (_, _, r) =>
      if r.kind = 8 then
        if ((s.core c).steal.find? ctx).isSome then s else s.askSteal tid ctx (r.out % 2 ^ 24) []
      else if r.kind = 7 then
        match bottomOf (s.core c).deque ctx with
        | some i => match (s.core c).deque[i]? with
          | some x => ((s.modCore c fun k => { k with deque := k.deque.eraseIdx i }).bind tid cx 7 0 x.thread).getD s
          | none => s
        | none => s
      else s
    | none => s

/-- SLOT_BIND (R172): A Vacant general slot takes an arrival, a deque entry or starts a steal. -/
def execSlotBind (tid : Nat) (s : State) : Out :=
  match (List.range 4).find? fun x => s.freeFor tid x with
  | none => .next s
  | some ctx =>
    let c := coreOf tid
    if (s.ctx (4 * corePkg c + ctx)).replay = 2 then .next (s.bindRecorded tid ctx)
    else match s.waiting c ctx with
      | [] => .next (s.popOrSteal tid ctx)
      | a :: _ =>
        if s.freeSlot c ctx = some tid then .next (((s.unwait c ctx 0).bindArrival tid (4 * corePkg c + ctx) a).getD s)
        else .next s

/-- STEAL_REQUEST (R203): A victim core serves a steal request in a DMA turn and returns an entry or empty. -/
def execStealRequest (n : Nat) (s : State) : Out :=
  match s.deliver n with
  | some (m, s') =>
    match m.body with
    | .steal victim core ctx slot =>
      match (if (s.core victim).disabled then none else topOf (s.core victim).deque ctx) with
      | some i =>
        .next ((s'.modCore victim fun k => { k with deque := k.deque.eraseIdx i }).send victim core 1
          (.stolen core ctx slot victim ((s.core victim).deque[i]?)))
      | none => .next (s'.send victim core 1 (.stolen core ctx slot victim none))
    | _ => .next s
  | none => .next s

/-- STEAL_REPLY (R204): A steal reply binds its entry into the reserved slot or frees the reservation. -/
def execStealReply (n : Nat) (s : State) : Out :=
  match s.deliver n with
  | some (m, s') =>
    match m.body with
    | .stolen core ctx slot victim c =>
      let tid := 16 * core + slot
      let cx := 4 * corePkg core + ctx
      let free := s'.unreserve tid
      match c with
      | some k =>
        if !s.running cx then .next (free.modCore core fun x => { x with steal := x.steal.del ctx })
        else match (free.modCore core fun x => { x with steal := x.steal.del ctx }).bind tid cx 8 victim k.thread with
          | some s'' => .next s''
          | none => .next s
      | none =>
        .next (free.modCore core fun x =>
          { x with steal := match x.steal.find? ctx with
                    | some y => if (s.ctx cx).replay = 2 then x.steal.del ctx
                                else x.steal.put ctx { y with asked := false, since := s.clock }
                    | none => x.steal })
    | _ => .next s
  | none => .next s

/-- STEAL_SEARCH_RETRY (R324): A search that found nothing starts again after 512 cycles. -/
def execStealSearchRetry (core cx : Nat) (s : State) : Out :=
  match (s.core core).steal.find? (cx % 4) with
  | some y =>
    if y.asked = false ∧ y.victims = [] ∧ y.since + 512 ≤ s.clock then
      .next (s.modCore core fun k => { k with steal := k.steal.del (cx % 4) })
    else .next s
  | none => .next s

/-- MIGRATION_ARRIVAL (R162): A migrated packet is bound to a free slot of the target core or queued, and its instruction reissues. -/
def execMigrationArrival (n : Nat) (s : State) : Out :=
  match s.deliver n with
  | some (m, s') =>
    match m.body with
    | .migrate core t origin ebad past =>
      let cx := 4 * corePkg core + t.ctx
      if !(s.running cx && s.holdsSlots cx core) then .next (s'.unreserve origin)
      else match s'.arrive core t.ctx (.thread (if past then t.past else t) origin) with
        | some s'' => .next (s''.unreserve origin)
        | none => .next (s'.send core (coreOf origin) 2 (.refused t origin ebad))
    | _ => .next s
  | none => .next s

/-- MIGRATION_REFUSED (R173): A migrated packet refused by a full overflow queue returns to its source slot and raises cause 0x0D; its
sequencer's records are checked again (R228). The return is no binding: the thread keeps the start of its binding there, and may issue in
the current rotation (DESIGN CHOICE, log 79). -/
def execMigrationRefused (n : Nat) (s : State) : Out :=
  match s.deliver n with
  | some (m, s') =>
    match m.body with
    | .refused t origin ebad =>
      let s'' := s'.unreserve origin
      if s.running (cxOf (coreOf origin) t) then .next (s''.trap origin { t with seq := t.seq.unchecked } 0x0D ebad) else .next s''
    | _ => .next s
  | none => .next s

end Sys2Proof.Machine
end

