-- ==== Sys2Proof/Machine/Stream.lean ====
section
/-! DEFINITION. PORT-R with the streams of a core (R209 to R214). -/

namespace Sys2Proof.Machine

/-! Streams (R209 to R214). -/

/-- The number of a port in the domain: 64 x core + 4 x slot + port. -/
def portCore (port : Nat) : Nat := port / 64

/-- A stream as the object of its records (R361). -/
def streamObj (port : Nat) : Nat :=
  0xF * 2 ^ 60 + 4 * 2 ^ 56 + port % 4 * 2 ^ 28 + port % 64 / 4 * 2 ^ 24 + portCore port

/-- The source word of a copy engine (R360). -/
def srcEngine (eng : Nat) : Nat := srcUnit (eng / 128) (eng / 64 % 2) (640 + eng % 64)

/-- The outcome of a delivery reaches the engine that sent it (R214, R302): its elements are counted, or REFUSED (bit 3) or UNC
(bit 1) is set. -/
def State.report (s : State) (core : Nat) (d : Delivery) (ok unc : Bool) : State :=
  (s.hear (engPlace d.eng) (s.time core)).modEngine d.eng fun k =>
    match k.queue with
    | j :: r => match j.run with
      | some x =>
        { k with queue := { j with run := some { x with waits := 0, done := true, nelem := if ok then d.nelem else 0,
                                                        flags := x.flags ||| (if ok then 0 else 8) ||| (if unc then 2 else 0) } } :: r }
      | none => k
    | [] => k

/-- Writes n words from a buffer offset, wrapping at the end, and sets them full; a word that came with uncorrectable data stays
empty (R145, R214, R224). -/
def State.ringWords (s : State) (c : Nat) (p : Port) (bad : NatSet) : Nat → Nat → Nat → List Byte → State
  | 0, _, _, _ => s
  | n + 1, i, off, l =>
    let la := lsAddr c off
    let s := if NatSet.has bad i then s.setFull la false else (s.store la 8 (leNat (l.take 8))).setFull la true
    State.ringWords s c p bad n (i + 1) (if off + 8 = p.base + p.size then p.base else off + 8) (l.drop 8)

/-- A delivery fits the free space of its stream (R214). -/
def Port.fits (p : Port) (d : Delivery) : Bool := decide (d.data.length ≤ p.size - p.unread)

/-- Places a delivery at the tail of its stream, with its record, and reports it (R214, R362); f takes it off the list it
waited on. -/
def State.enterStream (s : State) (port : Nat) (d : Delivery) (f : Port → Port) : State :=
  let c := portCore port
  match (s.core c).ports.find? (port % 64) with
  | none => s
  | some p =>
    s.unitLogged (4 * corePkg c + p.ctx) (d.eng / 64 % 2) c (srcEngine d.eng) 0x0A (streamObj port) d.data.length fun s =>
      let s := s.ringWords c p d.bad (d.data.length / 8) 0 p.tail d.data
      let n := p.base + (p.tail - p.base + d.data.length) % p.size
      (s.modCore c fun k =>
        { k with ports := k.ports.put (port % 64) (f { p with tail := n, unread := p.unread + d.data.length }) }).report
          c d true (!d.bad.isEmpty)

/-- A delivery reaches its port (R211, R214): refused where no stream of its context is bound there or its length breaks the
rule; behind what is held for the stream; else into the buffer, or waiting at the DMA port. -/
def State.deliverTo (s : State) (port ctx : Nat) (d : Delivery) : State :=
  let c := portCore port
  let refuse : State := s.report c d false false
  let d := { d with since := s.clock }
  let put (p : Port) : State := s.modCore c fun k => { k with ports := k.ports.put (port % 64) p }
  match (s.core c).ports.find? (port % 64) with
  | none => refuse
  | some p =>
    if p.out || p.ctx != ctx || d.data.length % 8 != 0 || decide (p.size < d.data.length) then refuse
    else if !p.spilled.isEmpty then
      if s.ovfUsed c p.ctx < s.ovfCap c p.ctx ∧ p.waiting.isEmpty then
        (put { p with spilled := p.spilled ++ [d] }).ovfWrite c p.ctx 1
      else put { p with waiting := p.waiting ++ [d] }
    else if !p.waiting.isEmpty then put { p with waiting := p.waiting ++ [d] }
    else
      let here := put { p with waiting := [d] }
      if p.fits d then here.enterStream port d fun p => { p with waiting := p.waiting.drop 1 } else here

/-- A delivery's place in its stream is the next that a replay recorded, or no replay orders it (R214, R369). -/
def State.entersNext (s : State) (port : Nat) (p : Port) (d : Delivery) : Bool :=
  s.unitMay (4 * corePkg (portCore port) + p.ctx) (d.eng / 64 % 2) (portCore port) (srcEngine d.eng) 0x0A (streamObj port) d.data.length

/-- The place on a list of the delivery that enters a stream next: the oldest, or in a replay the one that was recorded next (R214). -/
def State.nextIn (s : State) (port : Nat) (p : Port) (l : List Delivery) : Option Nat :=
  if (s.ctx (4 * corePkg (portCore port) + p.ctx)).replay = 2 then
    (List.range l.length).find? fun i => (l[i]?.map (s.entersNext port p)).getD false
  else some 0

/-- A delivery of a list may enter its stream now: its turn has come, and there is room for it (R214). -/
def State.mayEnter (s : State) (port : Nat) (p : Port) (l : List Delivery) : Bool :=
  match (s.nextIn port p l).bind (l[·]?) with
  | some d => p.fits d && s.entersNext port p d
  | none => false

/-- What waits for a stream on one of its lists enters as space frees (R214), in the order of nextIn; f takes away the entry at an index.
In a replay what does not enter is noted to wait (R371). -/
def State.enterFirst (s : State) (port : Nat) (p : Port) (l : List Delivery) (f : Nat → Port → Port) : State :=
  match s.nextIn port p l with
  | some i => match l[i]? with
    | some d => if p.fits d then s.enterStream port d (f i) else s
    | none => s
  | none => l.foldl (fun s d => s.enterStream port d id) s

/-- What waits at the DMA port goes on once there is room for it (R214). -/
def State.retryStream (s : State) (port : Nat) : State :=
  match (s.core (portCore port)).ports.find? (port % 64) with
  | some p =>
    if p.spilled.isEmpty = false ∧ (s.ctx (4 * corePkg (portCore port) + p.ctx)).replay ≠ 2 then s
    else s.enterFirst port p p.waiting fun i p => { p with waiting := p.waiting.eraseIdx i }
  | none => s

/-- STREAM_DELIVERY (R214): A delivery is written into an input stream's circular buffer or waits. n is a message; from 2^40 on, a port at
which a delivery waits. -/
def execStreamDelivery (n : Nat) (s : State) : Out :=
  if 2 ^ 40 ≤ n then .next (s.retryStream (n - 2 ^ 40))
  else match s.deliver n with
    | some (m, s') =>
      match m.body with
      | .delivery port ctx d => .next (s'.deliverTo port ctx d)
      | _ => .next s
    | none => .next s

/-- Moves waiting deliveries to the overflow queue as far as it has room (R206, R214). -/
def spillDeliveries (room : Nat) (p : Port) : Port :=
  { p with ovf := true, spilled := p.spilled ++ p.waiting.take room, waiting := p.waiting.drop room }

/-- STREAM_DELIVERY_TIMEOUT (R214): A delivery that waited 2,048 cycles goes with its successors to the overflow queue and OVF is set. -/
def execStreamDeliveryTimeout (port : Nat) (s : State) : Out :=
  let c := portCore port
  match (s.core c).ports.find? (port % 64) with
  | some p =>
    match p.waiting with
    | d :: _ =>
      if d.since + 2048 ≤ s.clock ∧ (p.fits d = false ∨ p.spilled.isEmpty = false) ∧ s.ovfUsed c p.ctx < s.ovfCap c p.ctx then
        let room := s.ovfCap c p.ctx - s.ovfUsed c p.ctx
        .next ((s.modCore c fun k => { k with ports := k.ports.put (port % 64) (spillDeliveries room p) }).ovfWrite c p.ctx
          (min room p.waiting.length))
      else .next s
    | [] => .next s
  | none => .next s

/-- OVERFLOW_DELIVERY_REENTRY (R214): Held deliveries re-enter the stream buffer oldest first as space frees. -/
def execOverflowDeliveryReentry (port : Nat) (s : State) : Out :=
  match (s.core (portCore port)).ports.find? (port % 64) with
  | some p => .next (s.enterFirst port p p.spilled fun i p => { p with spilled := p.spilled.eraseIdx i })
  | none => .next s

/-- Releases a port (R211): what is held for its stream is discarded and reported as refused. -/
def State.freePort (s : State) (c key : Nat) : State :=
  match (s.core c).ports.find? key with
  | none => s
  | some p =>
    (p.spilled ++ p.waiting).foldl (fun s d => s.report c d false false)
      (s.modCore c fun k => { k with ports := k.ports.del key })

/-- A stream descriptor is well formed for a core: its reserved fields and its buffer (R209, R211). -/
def streamLegal (c : Nat) (l : List Byte) : Bool :=
  let base := field l 0 4
  let size := field l 4 4
  field l 0x0A 6 == 0 && decide (field l 8 1 < 2) && decide (field l 9 1 < 8) && base % 8 == 0 && size % 8 == 0 &&
    decide (8 ≤ size) && decide (base + size ≤ lsSize c)

/-- The binding that a stream descriptor makes (R209, R211). -/
def Port.bound (ctx : Nat) (l : List Byte) : Port :=
  { ctx := ctx, base := field l 0 4, size := field l 4 4, out := field l 8 1 == 1, ew := 2 ^ (field l 9 1 % 4),
    sx := (field l 9 1).testBit 2, head := field l 0 4, tail := field l 0 4, unread := 0, ovf := false, waiting := [], spilled := [] }

/-- SBIND (R211): Binds a port to a stream descriptor and empties its buffer. A wait for the port that the operand names (R213) comes before
the slot is tested (R210), here as everywhere (DESIGN CHOICE, log 94). -/
def execSbind (p : BitVec 3) (q : BitVec 1) (x : BitVec 2) (a : BitVec 4) (s : State) : Out :=
  let word := encR 57 p q (12 + x.toNat) a.toNat 0 0
  act word 4 p q [a] [] s fun tid t s0 v s =>
    let c := coreOf tid
    let key := 4 * slotOf tid + x.toNat
    if slotOf tid = 15 then s0.trap tid t 1 (word.setWidth 64)
    else if s.seqNamesPort tid t x.toNat then s0.wait tid t .sync
    else match s.check c t.ctx (nth v 0) 16 segR 1 with
      | .error e => s0.trapAt tid t t.pc e
      | .ok la =>
        if laRegion la ≠ 1 ∨ laCore la ≠ c then s0.trap tid t 0x0C (nth v 0)
        else s0.drained tid t <|
          let l := s.mem.bytes la 16
          if s.isBad la 16 then s0.trap tid t 8 (nth v 0)
          else if !streamLegal c l then s0.trap tid t 4 (nth v 0)
          else
            let s := s.freePort c key
            let b := Port.bound t.ctx l
            ((s.modCore c fun k => { k with ports := k.ports.put key b }).setFullN (lsAddr c b.base) false (b.size / 8)).retire tid t

/-- SFREE (R211): Unbinds a port and discards its unread elements. -/
def execSfree (p : BitVec 3) (q : BitVec 1) (x : BitVec 2) (s : State) : Out :=
  let word := encR 57 p q (12 + x.toNat) 0 0 1
  frame word 4 p q s fun tid t s =>
    if slotOf tid = 15 then s.trap tid t 1 (word.setWidth 64)
    else if s.seqNamesPort tid t x.toNat then s.wait tid t .sync
    else s.drained tid t ((s.freePort (coreOf tid) (4 * slotOf tid + x.toNat)).retire tid t)

/-- How many elements in a row are ready, or places free, from a buffer offset (R212). -/
def State.portCount (s : State) (c : Nat) (p : Port) (full : Bool) : Nat → Nat → Nat
  | 0, _ => 0
  | n + 1, off => if s.isFull (Port.wordAt c off) == full then 1 + State.portCount s c p full n (p.step off) else 0

/-- The word that xstat reads (R212). -/
def State.portStatus (s : State) (tid x : Nat) : Nat :=
  let c := coreOf tid
  if slotOf tid = 15 then
    let n := ((s.core c).xq.at [] x).length
    2 ^ 32 + x % 2 * 2 ^ 34 + (if x % 2 = 1 then 64 - n else min 64 n)
  else match (s.core c).ports.find? (4 * slotOf tid + x) with
    | none => 0
    | some p =>
      let off := if p.out then p.tail else p.head
      p.ovf.toNat * 2 ^ 35 + p.out.toNat * 2 ^ 34 + 2 ^ 33 + s.portCount c p (!p.out) (p.size / p.ew - off % 8 / p.ew) off

/-- XSTAT (R212): Reads a port's status word. -/
def execXstat (p : BitVec 3) (q : BitVec 1) (d : BitVec 4) (x : BitVec 2) (s : State) : Out :=
  let word := encR 57 p q d.toNat (12 + x.toNat) 0 2
  act word 4 p q [] [d] s fun tid t s0 _ s =>
    if s.seqNamesPort tid t x.toNat then s0.wait tid t .sync
    else s0.finish s tid t word d (BitVec.ofNat 64 (s.portStatus tid x.toNat))

end Sys2Proof.Machine
end

