-- ==== Sys2Proof/Machine/Thin.lean ====
section
/-! DEFINITION. THIN-E: binding versions of a sparse layer (R336 to R341), and the thinning unit (R329 to R335, R342 to R348,
R351). -/

namespace Sys2Proof.Machine

/-! Members of THIN-E (R336 to R342). -/

/-- The access to an SLD (R337): its checks, a peer's migration, the wait for the request. -/
def sldAccess (word : Word32) (p : BitVec 3) (q : BitVec 1) (srcs dsts : List (BitVec 4)) (need : Nat) (peer : Bool)
    (s : State) (wait : Nat → Thread → State → List Word → Loc → State → State) : Out :=
  act word 4 p q srcs dsts s fun tid t s0 v s =>
    let c := coreOf tid
    let pkg := corePkg c
    let va := nth v 0
    match s.check c t.ctx va 128 need 128 with
    | .error x => s0.trapAt tid t t.pc x
    | .ok la =>
      let la := canonLa pkg la
      if laRegion la = 2 ∧ peer then
        let target := peerTarget (bits la 55 43) (bits la 42 0)
        if s.coreOk target ∧ s.holdsSlots (4 * corePkg target + t.ctx) target then s0.ship tid t target va
        else s0.trap tid t 0x11 va
      else if laRegion la ≠ 0 then s0.trap tid t 7 va
      else match s.translate c la with
        | (.miss q off, _) => s0.pageMiss tid t q off va
        | (.ok l, s) => wait tid t s0 v l s

/-- THIN (R342): Requests a thinning interval on a sparse layer. -/
def execThin (p : BitVec 3) (q : BitVec 1) (d a b : BitVec 4) (s : State) : Out :=
  let word := encR 55 p q d.toNat a.toNat b.toNat 0
  sldAccess word p q [a, b] [d] (segR ||| segW) false s fun tid t s0 v l s =>
    let go (tkt : Nat) : State :=
      s0.logTest s tid t l.linear
        (s.wait tid t (.mem { kind := .thin, word := word, d := d, vals := [nth v 0], locs := [l], n := tkt }))
    if nth v 1 = 0 then go 0
    else match s.check (coreOf tid) t.ctx (nth v 1) 8 segW 8 with
      | .error x => s0.trapAt tid t t.pc x
      | .ok la => if laRegion la ≠ 1 then s0.trap tid t 0x0C (nth v 1) else go la

/-- MREF (R338): Binds the current version of a sparse layer. -/
def execMref (p : BitVec 3) (q : BitVec 1) (d a b : BitVec 4) (s : State) : Out :=
  let word := encR 55 p q d.toNat a.toNat b.toNat 1
  sldAccess word p q [a] [d, b] (segR ||| segW) true s fun tid t s0 v l s =>
    s0.drained tid t (s0.logTest s tid t l.linear
      (s.wait tid t (.mem { kind := .mref, word := word, d := d, e := b, vals := [nth v 0], locs := [l] })))

/-- MREL (R339): Releases a sparse-layer binding. -/
def execMrel (p : BitVec 3) (q : BitVec 1) (d a b : BitVec 4) (s : State) : Out :=
  let word := encR 55 p q d.toNat a.toNat b.toNat 2
  sldAccess word p q [a, b] [d] (segR ||| segW) true s fun tid t s0 v l s =>
    s0.drained tid t (s.wait tid t (.mem { kind := .mrel, word := word, d := d, vals := [nth v 0, nth v 1], locs := [l] }))

/-- MVER (R341): Reads a sparse layer's version state. -/
def execMver (p : BitVec 3) (q : BitVec 1) (d a : BitVec 4) (s : State) : Out :=
  let word := encR 55 p q d.toNat a.toNat 0 3
  sldAccess word p q [a] [d] segR true s fun tid t s0 v l s =>
    if t.relaxed.any fun x => s.touches x l 128 then s0.wait tid t (.mem { kind := .drain })
    else s.wait tid t (.mem { kind := .mver, word := word, d := d, vals := [nth v 0], locs := [l] })

/-! The SLD (R333, R334). -/

def sldState (vword : Nat) : Nat := bits vword 15 8
def sldCur (vword : Nat) : Nat := vword % 2
def sldVersion (vword : Nat) : Nat := bits vword 63 32

/-- Readers of a copy. -/
def readers (rword c : Nat) : Nat := if c = 0 then bits rword 31 0 else bits rword 63 32
def setReaders (rword c n : Nat) : Nat :=
  if c = 0 then rword / 2 ^ 32 * 2 ^ 32 + n else n * 2 ^ 32 + rword % 2 ^ 32

/-- Fields of the bytes of an SLD. -/
abbrev sldK (l : List Byte) : Nat := field l 0 4
abbrev sldN (l : List Byte) : Nat := field l 4 4
abbrev sldV (l : List Byte) : Nat := field l 8 8
abbrev sldR (l : List Byte) : Nat := field l 0x10 8
abbrev sldFlags (l : List Byte) : Nat := field l 0x1D 1
abbrev sldDir (l : List Byte) (c : Nat) : Nat := field l (0x30 + 8 * c) 8
abbrev sldPool (l : List Byte) (c : Nat) : Nat := field l (0x40 + 8 * c) 8
def sldFmt (l : List Byte) : Fmt := (Fmt.ofCode (field l 0x1C 1)).getD .fp8

/-- A region-0 address that is a multiple of n. -/
def regionZero (pkg a n : Nat) : Bool := decide (a < 2 ^ 60) && decide (canonLa pkg a < 2 ^ 43) && a % n == 0

/-- A descriptor error (R333, R342). -/
def sldBad (pkg : Nat) (l : List Byte) : Bool :=
  let inSize (v : Nat) : Bool := decide (1 ≤ v) && decide (v ≤ 2 ^ 20)
  let f := field l 0x1C 1
  !(inSize (sldK l) && inSize (sldN l) && bits (sldV l) 31 16 == 0 && bits (sldV l) 7 1 == 0 && decide (sldState (sldV l) ≤ 2) &&
    (decide (1 ≤ f) && decide (f ≤ 4)) && decide (sldFlags l < 16) && field l 0x1E 2 == 0 &&
    (!(sldFlags l).testBit 0 || decide (field l 0x20 4 ≤ 65536)) && field l 0x2C 4 == 0 &&
    regionZero pkg (sldDir l 0) 8 && regionZero pkg (sldDir l 1) 8 && regionZero pkg (sldPool l 0) 256 &&
    regionZero pkg (sldPool l 1) 256 && field l 0x50 8 % 256 == 0 && regionZero pkg (field l 0x58 8) 1 && field l 0x6C 20 == 0)

/-- The thinning unit that serves a cluster: its own, or the next of the die that is not disabled (R342, R351). -/
def State.thinUnit (s : State) (cl : Nat) : Nat :=
  (((List.range 16).map fun i => cl / 16 * 16 + (cl + i) % 16).find? fun x => !(s.cluster x).thinOff).getD cl

/-- A request for an interval as its unit answers it (R342): the code, and the interval recorded. -/
def State.acceptThin (s : State) (cl cx pkg : Nat) (l : Loc) (tkt : Nat) : Nat × State :=
  let b := s.mem.bytes l.key 128
  if sldBad pkg b then (3, s)
  else if sldState (sldV b) ≠ 0 then (1, s)
  else if 4 ≤ (s.cluster cl).thin.length then (2, s)
  else
    (0, (s.store (l.key + 8) 8 (sldV b + 256)).modCluster cl fun k =>
      { k with thin := k.thin ++ [{ cx := cx, sld := l.linear, kept := b, ticket := tkt, build := false }] })

/-- The stamp place of an HBM word. -/
def Loc.bank : Loc → Nat
  | .hbm pkg _ phys => bankPlace pkg phys
  | _ => 0

/-- A logged event of a thread that waits in MemWait at an object's place. -/
def State.loggedAt (s0 s : State) (tid : Nat) (t : Thread) (place kind obj out : Nat) (k : State → State) : State :=
  match s.servedGate tid t place kind obj out with
  | .go s _ => k s
  | .wait .replay => s0.noteReplay tid obj
  | .wait _ => s0
  | .diverge r n => s0.diverge tid t obj r n

/-- The exchanges of a request of THIN-E (R364): thin is served by the thinning unit, which hears the core and the word's bank and answers;
the others by the bank. -/
def State.sldHeard (s : State) (c : Nat) (kind : ReqKind) (l : Loc) : State :=
  if kind = .thin then
    let u := thinPlace (s.thinUnit (clusterOf c))
    let s := (s.hear u (s.time c)).heardAt u l
    s.hear c (s.time u)
  else s.heardAt c l

/-- A request of THIN-E is served under the reservation of R334. -/
def State.sldServed (s : State) (tid : Nat) (t : Thread) (r : Req) : State :=
  let c := coreOf tid
  let va := nth r.vals 0
  let l := s.place (r.locs.headD (.loc 0))
  let s1 := s.sldHeard c r.kind l
  let vw := s.mem.read (l.key + 8) 8
  let rw := s.mem.read (l.key + 16) 8
  let cur := sldCur vw
  if r.kind ≠ .mver ∧ s.sealedAt l then s1.trap tid t 5 va
  else if s.isBad l.key 128 then s1.trap tid t 8 va
  else match r.kind with
    | .mref =>
      let full := readers rw cur = 0xFFFFFFFF
      let gd := if full then 2 ^ 64 - 1 else sldVersion vw * 2 ^ 32 + cur
      let gb := if full then 0 else s.mem.read (l.key + 0x30 + 8 * cur) 8
      if State.writeRefused tid r.d (BitVec.ofNat 64 gd) || State.writeRefused tid r.e (BitVec.ofNat 64 gb) then
        s1.trap tid t 1 (r.word.setWidth 64)
      else s.loggedAt s1 tid t l.bank 0x0D l.linear (gd / 2 ^ 32) fun s =>
        let s := if full then s else s.store (l.key + 16) 8 (setReaders rw cur (readers rw cur + 1))
        let w := s.writeReg tid t r.d (BitVec.ofNat 64 gd)
        s1.finish w.1 tid w.2 r.word r.e (BitVec.ofNat 64 gb)
    | .mrel =>
      let w := (nth r.vals 1).toNat
      let k := w % 2
      let h := if k = cur then sldVersion vw else (sldVersion vw + 2 ^ 32 - 1) % 2 ^ 32
      let st := if bits w 31 1 ≠ 0 ∨ bits w 63 32 ≠ h ∨ (k ≠ cur ∧ sldState vw = 2) then 2
                else if readers rw k = 0 then 1 else 0
      let s2 := if st = 0 then s1.store (l.key + 16) 8 (setReaders rw k (readers rw k - 1)) else s1
      s1.complete s2 tid t r st
    | .mver =>
      s1.complete s1 tid t r (sldVersion vw * 2 ^ 32 + sldState vw * 2 ^ 24 + cur * 2 ^ 16 + min 0xFFFF (readers rw (1 - cur)))
    | _ =>
      let x := s1.acceptThin (s.thinUnit (clusterOf c)) (cxOf c t) (corePkg c) l r.n
      s.loggedAt x.2 tid t l.bank 0x0E l.linear (2 ^ 31 + x.1) fun s => s1.complete s tid t r x.1

/-! Memory as the unit reaches it (R351). -/

/-- Place of a region-0 offset for a unit of a die, and 2 where no entry exists. -/
def State.unitPlace (s : State) (pkg die off : Nat) : Except Nat Loc :=
  match (s.pkg pkg).walk die off with
  | some (_, e) => .ok (.hbm pkg off (physOf e.vpn e.pfn off))
  | none => .error 2

/-- n bytes at a region-0 address: 2 where no entry exists, 3 where they are uncorrectable. -/
def State.unitRead (s : State) (pkg die off n : Nat) : Except Nat Nat := do
  let part (off n : Nat) : Except Nat Nat := do
    let l ← s.unitPlace pkg die (canonLa pkg off)
    if s.isBad l.key n then .error 3 else .ok (s.mem.read l.key n)
  -- what crosses a page lies in two frames
  let k := min n (65536 - off % 65536)
  if n = k then part off n else .ok ((← part off k) + 2 ^ (8 * k) * (← part (off + k) (n - k)))

/-- The unit and the banks of the 256-byte units that n bytes from a region-0 address lie in hear from each other (R364, R384). -/
def State.unitHears (s : State) (cl off n : Nat) : State :=
  (List.range ((off + n + 255) / 256 - off / 256)).foldl (fun s i =>
    match s.unitPlace (clPkg cl) (clDie cl) (canonLa (clPkg cl) (256 * (off / 256 + i))) with
    | .ok l => s.exchange (thinPlace cl) l.bank
    | .error _ => s) s

/-- Writes bytes from a region-0 address, page after page and as far as every page is mapped and unsealed: what was written, and the
failure. n bounds the pages. -/
def State.unitPages (s : State) (cl : Nat) : Nat → List Byte → Nat → State × Nat
  | 0, _, _ => (s, 0)
  | n + 1, l, off =>
    if l.isEmpty then (s, 0)
    else match s.unitPlace (clPkg cl) (clDie cl) (canonLa (clPkg cl) off) with
      | .error x => (s, x)
      | .ok x =>
        if s.sealedAt x then (s, 4)
        else
          let k := min l.length (65536 - off % 65536)
          State.unitPages ((s.unitHears cl off k).storeBytes x.key (l.take k)) cl n (l.drop k) (off + k)

def State.unitWrite (s : State) (cl : Nat) (l : List Byte) (off : Nat) : State × Nat :=
  s.unitPages cl (l.length / 65536 + 2) l off

/-- Writes a list of pieces in order, up to the first failure. -/
def State.unitWrites (s : State) (cl : Nat) : List (Nat × List Byte) → State × Nat
  | [] => (s, 0)
  | (off, l) :: r =>
    match s.unitWrite cl l off with
    | (s, 0) => State.unitWrites s cl r
    | x => x

/-! Tiles (R329 to R331). -/

/-- A live connection: its tile, tile row and column, its linear position, its weight pattern, master weight, moments, NEW. -/
structure Conn where
  tile : Nat
  row : Nat
  col : Nat
  lin : Nat
  weight : Nat
  master : Nat
  m1 : Nat
  m2 : Nat
  new : Bool
deriving DecidableEq, Repr

/-- Slot rows of a class and its cap (R330). -/
def classRows : Nat → Nat
  | 1 => 128 | 2 => 64 | 3 => 32 | _ => 0
def classCap : Nat → Nat
  | 1 => 4 | 2 => 2 | 3 => 1 | _ => 0
def classMeta : Nat → Nat
  | 2 => 2048 | 3 => 1024 | _ => 0

def align256 (n : Nat) : Nat := (n + 255) / 256 * 256

/-- Offsets in a block of its weights, metadata, live plane, new plane and optimiser plane, and the block's size (R331). -/
structure Parts where
  metadata : Nat
  live : Nat
  new : Nat
  opt : Nat
  size : Nat
deriving DecidableEq, Repr

def partsOf (cls w : Nat) : Parts :=
  let r := classRows cls
  let m := align256 (2 * r * 64 * w)
  let l := align256 (m + classMeta cls)
  let n := align256 (l + 16 * r)
  let o := align256 (n + 16 * r)
  { metadata := m, live := l, new := n, opt := o, size := o + 8 * (128 * r) }

/-- Offset of a weight in its block (R331, R262). -/
def weightOff (cls w slotRow col : Nat) : Nat := col / 64 * (classRows cls * 64 * w) + (slotRow * 64 + col % 64) * w

/-- Offset in its block of the metadata word that holds a group of a column, and the group's bit in it (R262, R331). -/
def metaWord (cls : Nat) (p : Parts) (col g : Nat) : Nat × Nat :=
  if cls = 2 then (p.metadata + 1024 * (col / 64) + 16 * (col % 64) + 8 * (g / 16), 4 * (g % 16))
  else (p.metadata + 512 * (col / 64) + 8 * (col % 64), 2 * g)

/-- The tile row of a slot (R262, R330): 6 for an illegal nibble (R332). -/
def State.slotRow (s : State) (pkg die block cls : Nat) (p : Parts) (col sr : Nat) : Except Nat Nat :=
  if cls = 1 then .ok sr
  else if cls = 2 then do
    let m := metaWord 2 p col (sr / 2)
    let nib := (← s.unitRead pkg die (block + m.1) 8) / 2 ^ m.2 % 16
    if nib / 4 ≤ nib % 4 then .error 6 else .ok (4 * (sr / 2) + if sr % 2 = 0 then nib % 4 else nib / 4)
  else do
    let m := metaWord 3 p col sr
    .ok (4 * sr + (← s.unitRead pkg die (block + m.1) 8) / 2 ^ m.2 % 4)

/-- The connection of a slot, if live (R331); a live slot outside the layer is 6 (R332). -/
def State.readSlot (s : State) (pkg die : Nat) (l : List Byte) (t block cls q : Nat) : Except Nat (Option Conn) := do
  let w := (sldFmt l).bytes
  let p := partsOf cls w
  let r := classRows cls
  let col := q / r
  let sr := q % r
  let row ← s.slotRow pkg die block cls p col sr
  let live ← s.unitRead pkg die (block + p.live + q / 8) 1
  let new ← s.unitRead pkg die (block + p.new + q / 8) 1
  let wt ← s.unitRead pkg die (block + weightOff cls w sr col) w
  let opt ← s.unitRead pkg die (block + p.opt + 8 * q) 8
  if !live.testBit (q % 8) then .ok none
  else
    let tn := (sldN l + 127) / 128
    let k := 128 * (t / tn) + row
    let n := 128 * (t % tn) + col
    if sldK l ≤ k ∨ sldN l ≤ n then .error 6
    else .ok (some { tile := t, row := row, col := col, lin := k * sldN l + n, weight := wt, master := bits opt 31 0,
                     m1 := bits opt 47 32, m2 := bits opt 63 48, new := new.testBit (q % 8) })

/-- Every tile of copy c: its class and its live connections (R335). -/
def State.readTiles (s : State) (pkg die : Nat) (l : List Byte) (c : Nat) : Nat → Except Nat (List (Nat × List Conn))
  | 0 => .ok []
  | n + 1 => do
    let r ← State.readTiles s pkg die l c n
    let e ← s.unitRead pkg die (sldDir l c + 8 * n) 8
    let cls := e % 4
    let conns ← (List.range (128 * classRows cls)).filterMapM fun q => s.readSlot pkg die l n (e / 4 * 4) cls q
    .ok (r ++ [(cls, conns)])

/-! Drop and regrowth (R344 to R347). -/

/-- Order of the drop candidates: least |master weight| first, NaR below zero, ties to the lower linear position (R344). -/
def dropsBefore (x y : Conn) : Bool :=
  let a := (Fmt.tf32.decode x.master).abs
  let b := (Fmt.tf32.decode y.master).abs
  if a.isNan ∧ b.isNan then decide (x.lin < y.lin)
  else if a.isNan then true else if b.isNan then false
  else a.lt b || (!b.lt a && decide (x.lin < y.lin))

/-- The connections dropped (R344). -/
def dropped (l : List Byte) (conns : List Conn) : List Conn :=
  let n := conns.length
  let d := if (sldFlags l).testBit 0 then n * field l 0x20 4 / 65536 else field l 0x20 4
  (sortBy dropsBefore (conns.filter fun x => !((sldFlags l).testBit 1 && x.new))).take d

/-- Tile t is sampled in the interval that starts from version v (R345). -/
def sampled (l : List Byte) (seed v t : Nat) : Bool :=
  let m := 2 ^ 64
  let z := ((seed ^^^ (field l 0x18 4 * 2 ^ 32 ||| v)) + t * 0x9E3779B97F4A7C15) % m
  let z := ((z ^^^ (z / 2 ^ 30)) * 0xBF58476D1CE4E5B9) % m
  let z := ((z ^^^ (z / 2 ^ 27)) * 0x94D049BB133111EB) % m
  let z := z ^^^ (z / 2 ^ 31)
  field l 0x24 4 == 0xFFFFFFFF || decide (bits z 63 32 < field l 0x24 4)

/-- A candidate for regrowth: its place and the magnitude of its gradient. -/
structure Cand where
  tile : Nat
  row : Nat
  col : Nat
  lin : Nat
  mag : Ex

/-- Order of the candidates: largest |gradient| first, ties to the lower linear position (R346). -/
def growsBefore (x y : Cand) : Bool := y.mag.lt x.mag || (!x.mag.lt y.mag && decide (x.lin < y.lin))

/-- The candidates of a sampled tile (R346): its dense gradient is read whole. -/
def State.tileCands (s : State) (pkg die : Nat) (l : List Byte) (t : Nat) (conns : List Conn) : Except Nat (List Cand) :=
  (List.range 16384).filterMapM fun i => do
    let row := i / 128
    let col := i % 128
    let g ← s.unitRead pkg die (field l 0x58 8 + 65536 * t + 4 * i) 4
    let tn := (sldN l + 127) / 128
    let k := 128 * (t / tn) + row
    let n := 128 * (t % tn) + col
    let x := Fmt.fp32.decode g
    if sldK l ≤ k ∨ sldN l ≤ n ∨ x.isNan ∨ (conns.any fun c => c.row == row && c.col == col) then .ok none
    else .ok (some { tile := t, row := row, col := col, lin := k * sldN l + n, mag := x.abs })

/-- Every candidate of the layer (R346). -/
def State.allCands (s : State) (pkg die : Nat) (l : List Byte) (seed v : Nat) :
    Nat → List (Nat × List Conn) → Except Nat (List Cand)
  | _, [] => .ok []
  | t, (cls, conns) :: r => do
    let rest ← State.allCands s pkg die l seed v (t + 1) r
    if !sampled l seed v t || (cls == 0 && (sldFlags l).testBit 3) then .ok rest
    else .ok ((← s.tileCands pkg die l t conns) ++ rest)

/-- Live connections of a group of a tile column. -/
def groupCount (l : List Conn) (tile col g : Nat) : Nat :=
  (l.filter fun c => c.tile == tile && c.col == col && c.row / 4 == g).length

/-- Regrows up to e candidates in order, each where its group is below the cap (R346, R347). -/
def regrow (cap : Nat → Nat) : Nat → List Cand → List Conn → List Conn → List Conn
  | 0, _, _, acc => acc
  | _, [], _, acc => acc
  | e + 1, x :: r, live, acc =>
    if groupCount live x.tile x.col (x.row / 4) < cap x.tile then
      let c : Conn := { tile := x.tile, row := x.row, col := x.col, lin := x.lin, weight := 0, master := 0, m1 := 0, m2 := 0, new := true }
      regrow cap e r (live ++ [c]) (acc ++ [c])
    else regrow cap (e + 1) r live acc

/-- The exact mean of the second moments that are numbers, rounded once to TF16 (R347). -/
def meanMoment (l : List Nat) : Nat :=
  let xs := (l.map Fmt.tf16.decode).filter fun x => !x.isNan
  if xs.isEmpty then 0
  else Fmt.tf16.round .rne 0 true ((xs.foldl Ex.add (.zero false)).div (Ex.ofInt xs.length))

/-- The class of a tile after the build (R347). -/
def newClass (l : List Byte) (old : Nat) (live : List Conn) : Nat :=
  if (sldFlags l).testBit 3 then old
  else
    let most := live.foldl (fun m c => max m (groupCount live c.tile c.col (c.row / 4))) 0
    if most = 0 then 0 else if most = 1 then 3 else if most = 2 then 2 else 1

/-! Blocks (R348). -/

/-- The tile rows of a group's slots: the live positions, made up with the lowest that are not live, ascending (R348). -/
def groupRows (cls : Nat) (live : List Nat) (g : Nat) : List Nat :=
  let rows := (List.range 4).map fun i => 4 * g + i
  if cls = 1 then rows
  else
    let n := classCap cls
    let on := rows.filter fun r => live.contains r
    let off := (rows.filter fun r => !live.contains r).take (n - on.length)
    rows.filter fun r => on.contains r || off.contains r

/-- The tile rows of a column's slots in slot order. -/
def columnRows (cls : Nat) (live : List Conn) (col : Nat) : List Nat :=
  let rows := (live.filter fun c => c.col == col).map (·.row)
  (List.range 32).flatMap fun g => groupRows cls rows g

/-- A metadata word of a column: groups from g on, as many as a word holds (R262). -/
def packMeta (cls : Nat) (rows : List Nat) (g n : Nat) : Nat :=
  ((List.range n).map fun j =>
    if cls = 2 then (rows.getD (2 * (g + j)) 0 % 4 + 4 * (rows.getD (2 * (g + j) + 1) 0 % 4)) * 16 ^ j
    else rows.getD (g + j) 0 % 4 * 4 ^ j).sum

/-- Packs bits into bytes, bit q in byte q / 8 (R331). -/
def packBits (l : List Bool) : List Byte :=
  (List.range (l.length / 8)).map fun i =>
    BitVec.ofNat 8 (((List.range 8).map fun j => (l.getD (8 * i + j) false).toNat * 2 ^ j).sum)

/-- The parts of a block with their offsets (R331, R332): dead slots hold zeros. -/
def blockParts (cls w : Nat) (live : List Conn) : List (Nat × List Byte) :=
  let p := partsOf cls w
  let r := classRows cls
  let rows := (List.range 128).map fun col => columnRows cls live col
  let conn (q : Nat) : Option Conn :=
    live.find? fun c => c.col == q / r && c.row == (rows.getD (q / r) []).getD (q % r) 0
  let slots := (List.range (128 * r)).map conn
  let weights := (List.range (2 * r * 64)).flatMap fun i =>
    let h := i / (r * 64)
    let sr := i % (r * 64) / 64
    let col := 64 * h + i % 64
    leBytes w (match slots.getD (col * r + sr) none with | some c => c.weight | none => 0)
  let metadata := (List.range 128).flatMap fun col =>
    let cr := rows.getD col []
    if cls = 2 then leBytes 8 (packMeta 2 cr 0 16) ++ leBytes 8 (packMeta 2 cr 16 16)
    else if cls = 3 then leBytes 8 (packMeta 3 cr 0 32) else []
  let opt := slots.flatMap fun c => match c with
    | some c => leBytes 4 c.master ++ leBytes 2 c.m1 ++ leBytes 2 c.m2
    | none => List.replicate 8 0
  [(0, weights), (p.metadata, metadata), (p.live, packBits (slots.map (·.isSome))),
   (p.new, packBits (slots.map fun c => match c with | some c => c.new | none => false)), (p.opt, opt)]

/-- What a build comes to: its failure code or 0, its writes in order, and the statistics. -/
structure Plan where
  istat : Nat
  writes : List (Nat × List Byte)
  live : Nat
  lost : Nat
  grown : Nat

/-- Places the blocks from a pool address upwards (R348): the writes, the directory, and whether the pool held them. -/
def placeBlocks (w top : Nat) : Nat → List (Nat × List Conn) → List (Nat × List Byte) × List Byte × Bool
  | _, [] => ([], [], true)
  | pos, (cls, live) :: r =>
    if cls = 0 then
      let x := placeBlocks w top pos r
      (x.1, leBytes 8 0 ++ x.2.1, x.2.2)
    else
      let pos := align256 pos
      let p := partsOf cls w
      if top < pos + p.size then ([], [], false)
      else
        let x := placeBlocks w top (pos + p.size) r
        ((blockParts cls w live).map (fun e => (pos + e.1, e.2)) ++ x.1, leBytes 8 (pos + cls) ++ x.2.1, x.2.2)

/-- The build of the next version (R344 to R348). -/
def State.plan (s : State) (pkg die : Nat) (iv : Interval) : Plan :=
  let l := iv.kept
  let fail (n : Nat) : Plan := { istat := n, writes := [], live := 0, lost := 0, grown := 0 }
  let body : Except Nat Plan := do
    let vw ← s.unitRead pkg die (iv.sld + 8) 8
    let c := sldCur vw
    let tiles ← s.readTiles pkg die l c ((sldK l + 127) / 128 * ((sldN l + 127) / 128))
    let conns := tiles.flatMap (·.2)
    let gone := dropped l conns
    let kept := (conns.filter fun x => !gone.contains x).map fun x => { x with new := false }
    let cands ← s.allCands pkg die l (s.ctx iv.cx).seed.toNat (sldVersion vw) 0 tiles
    let cap (t : Nat) : Nat := match (tiles.getD t (0, [])).1 with | 0 => 1 | k => classCap k
    let grown := regrow cap gone.length (sortBy growsBefore cands) kept []
    let tile (t : Nat) : Nat × List Conn :=
      let live := kept.filter fun x => x.tile == t
      let m := if (sldFlags l).testBit 2 then meanMoment (live.map (·.m2)) else 0
      let all := live ++ (grown.filter fun x => x.tile == t).map fun x => { x with m2 := m }
      (newClass l (tiles.getD t (0, [])).1 all, all)
    let out := (List.range tiles.length).map tile
    let pool := sldPool l (1 - c)
    let x := placeBlocks (sldFmt l).bytes (pool + field l 0x50 8) pool out
    .ok { istat := if x.2.2 then 0 else 1, writes := x.1 ++ (if x.2.2 then [(sldDir l (1 - c), x.2.1)] else []),
          live := kept.length + grown.length, lost := gone.length, grown := grown.length }
  match body with
  | .ok p => p
  | .error n => fail n

/-- What a build reads, as places and lengths (R344 to R346): the SLD, the directory of the current copy, the blocks of its tiles, and
the gradients of the sampled ones. -/
def State.planReads (s : State) (pkg die : Nat) (iv : Interval) : List (Nat × Nat) :=
  let l := iv.kept
  let vw := (s.unitRead pkg die (iv.sld + 8) 8).toOption.getD 0
  let dir := sldDir l (sldCur vw)
  let tiles := (sldK l + 127) / 128 * ((sldN l + 127) / 128)
  (iv.sld, 128) :: (dir, 8 * tiles) :: (List.range tiles).flatMap fun t =>
    match s.unitRead pkg die (dir + 8 * t) 8 with
    | .error _ => []
    | .ok e =>
      let grads := sampled l (s.ctx iv.cx).seed.toNat (sldVersion vw) t && !(e % 4 == 0 && (sldFlags l).testBit 3)
      (if e % 4 = 0 then [] else [(e / 4 * 4, (partsOf (e % 4) (sldFmt l).bytes).size)]) ++
        (if grads then [(field l 0x58 8 + 65536 * t, 65536)] else [])

/-- Carries a build out, with the SLD's statistics where it succeeds (R344 step 6): the state and the ISTAT code. The unit hears from
every bank that holds what it reads, and from each it writes (R364, log 75). -/
def State.build (s : State) (cl : Nat) (iv : Interval) : State × Nat :=
  let p := s.plan (clPkg cl) (clDie cl) iv
  let s := (s.planReads (clPkg cl) (clDie cl) iv).foldl (fun s x => s.unitHears cl x.1 x.2) s
  match s.unitWrites cl p.writes with
  | (s, 0) =>
    if p.istat ≠ 0 then (s, p.istat)
    else s.unitWrites cl [(iv.sld + 0x28, leBytes 4 p.live), (iv.sld + 0x60, leBytes 4 p.lost ++ leBytes 4 p.grown ++ leBytes 4 0)]
  | x => x

/-! The interval state machine (R343). -/

/-- Writes VWORD where its page is mapped. -/
def State.setVword (s : State) (pkg die sld v : Nat) : State :=
  match s.unitPlace pkg die sld with
  | .ok l => s.store (l.key + 8) 8 v
  | .error _ => s

def State.vwordOf (s : State) (pkg die sld : Nat) : Nat :=
  match s.unitPlace pkg die sld with
  | .ok l => s.mem.read (l.key + 8) 8
  | .error _ => 0

/-- The ticket of an interval that ends goes to its core (R342), which writes it in a DMA turn (R201); for an abandoned one only if its
core still belongs to a context (R343). -/
def State.thinTicket (s : State) (cl : Nat) (iv : Interval) (version istat : Nat) : State :=
  let c := laCore iv.ticket
  if iv.ticket = 0 ∨ (istat = 5 ∧ (s.present c).isEmpty = true) then s
  else s.modCluster cl fun k =>
    { k with tickets := k.tickets ++ [(iv.ticket, version * 2 ^ 32 + istat * 256 + 1, s.time (thinPlace cl))] }

/-- The oldest ticket of a thinning unit is written and its word set full (R342, R201): core and unit hear from each other (R364). -/
def State.writeTicket (s : State) (cl : Nat) : State :=
  match (s.cluster cl).tickets with
  | (la, v, t) :: r =>
    let s := (((s.modCluster cl fun k => { k with tickets := r }).hear (laCore la) t).store la 8 v).setFull la true
    s.hear (thinPlace cl) (s.time (laCore la))
  | [] => s

/-- Ends an interval without a publish (R343): ISTAT, STATE Idle, the ticket. -/
def State.endInterval (s : State) (cl : Nat) (iv : Interval) (istat : Nat) : State :=
  let pkg := clPkg cl
  let die := clDie cl
  let s := (s.unitWrite cl (leBytes 4 istat) (iv.sld + 0x68)).1
  let vw := s.vwordOf pkg die iv.sld
  (s.setVword pkg die iv.sld (vw / 2 ^ 16 * 2 ^ 16 + vw % 256)).thinTicket cl iv (sldVersion vw) istat

/-- The interval in Build at a unit, and the unit without it. -/
def Cluster.building (k : Cluster) : Option Interval := k.thin.find? (·.build)

def State.dropInterval (s : State) (cl : Nat) (iv : Interval) : State :=
  s.modCluster cl fun k => { k with thin := k.thin.erase iv }

/-- The source word of a thinning unit (R360). -/
def srcThin (cl : Nat) : Nat := srcUnit (clPkg cl) (clDie cl) (704 + cl % 16)

/-- INTERVAL_BUILD_START (R343): An interval in Drain whose other copy has no readers enters Build when the unit is free. -/
def execIntervalBuildStart (cl : Nat) (s : State) : Out :=
  let k := s.cluster cl
  let pkg := clPkg cl
  if k.building.isSome then .next s
  else
    let isReady (iv : Interval) : Bool := match s.unitPlace pkg (clDie cl) iv.sld with
      | .ok l => readers (s.mem.read (l.key + 16) 8) (1 - sldCur (s.mem.read (l.key + 8) 8)) == 0
      | .error _ => true
    match k.thin.find? isReady with
    | none => .next s
    | some iv =>
      let vw := s.vwordOf pkg (clDie cl) iv.sld
      .next (((s.unitHears cl iv.sld 128).setVword pkg (clDie cl) iv.sld (vw / 2 ^ 16 * 2 ^ 16 + 512 + vw % 256)).modCluster cl fun k =>
        { k with thin := k.thin.map fun x => if x = iv then { x with build := true } else x })

/-- INTERVAL_PUBLISH (R343): A completed build publishes the new version and sends the ticket. n is the unit's cluster; from 2^48 on, of a
unit whose oldest ticket has its DMA turn (R201). -/
def execIntervalPublish (n : Nat) (s : State) : Out :=
  let cl := n
  let pkg := clPkg cl
  let die := clDie cl
  if 2 ^ 48 ≤ n then .next (s.writeTicket (n - 2 ^ 48))
  else match (s.cluster cl).building with
  | none => .next s
  | some iv =>
    let vw := s.vwordOf pkg die iv.sld
    let v := (sldVersion vw + 1) % 2 ^ 32
    let place := match s.unitPlace pkg die iv.sld with | .ok l => l.bank | .error _ => 0
    if s.unitMay iv.cx die place (srcThin cl) 0x0E iv.sld (v % 2 ^ 31) then
      match s.build cl iv with
      | (s, 0) =>
        .next ((s.exchange (thinPlace cl) place).unitLogged iv.cx die place (srcThin cl) 0x0E iv.sld (v % 2 ^ 31) fun s =>
          ((s.setVword pkg die iv.sld (v * 2 ^ 32 + (1 - sldCur vw))).thinTicket cl iv v 0).dropInterval cl iv)
      | _ => .next s
    else .next (s.unitLogged iv.cx die place (srcThin cl) 0x0E iv.sld (v % 2 ^ 31) fun s => s)

/-- INTERVAL_FAILURE (R351): A build fails with an ISTAT code, publishing nothing, and writes the ticket. -/
def execIntervalFailure (cl : Nat) (s : State) : Out :=
  match (s.cluster cl).building with
  | none => .next s
  | some iv =>
    match s.build cl iv with
    | (_, 0) => .next s
    | (s', n) => .next ((s'.endInterval cl iv n).dropInterval cl iv)

/-- The intervals of a context that ends are abandoned with ISTAT 5 (R343). -/
def State.abandonIntervals (s : State) (cx : Nat) : State :=
  s.clusters.foldl (fun s e =>
    (e.2.thin.filter fun iv => iv.cx == cx).foldl (fun s iv => (s.endInterval e.1 iv 5).dropInterval e.1 iv) s) s

/-- THINNING_UNIT_ERROR (R351): An uncorrectable error in a thinning unit ends its intervals with ISTAT 3 and disables it. -/
def State.thinUnitFails (s : State) (cl : Nat) : State :=
  ((s.cluster cl).thin.foldl (fun s iv => (s.endInterval cl iv 3).dropInterval cl iv) s).modCluster cl fun k =>
    { k with thinOff := true }

end Sys2Proof.Machine
end

