-- ==== Sys2Proof/Machine/Copy.lean ====
section
/-! DEFINITION. CPY-E and the copy engines (R298 to R308): descriptors, range checks, the execution of a command, tickets, the
distributor and the combining node. -/

namespace Sys2Proof.Machine

/-! Copy descriptors (R299). -/

abbrev CopyDesc.fmts (d : CopyDesc) : Nat := field d.bytes 0x18 1
abbrev CopyDesc.flags (d : CopyDesc) : Nat := field d.bytes 0x19 1
abbrev CopyDesc.ndim (d : CopyDesc) : Nat := field d.bytes 0x1A 1
abbrev CopyDesc.ctr (d : CopyDesc) : Nat := field d.bytes 0x1B 1
abbrev CopyDesc.eng (d : CopyDesc) : Nat := field d.bytes 0x1C 4
def CopyDesc.expand (d : CopyDesc) : Bool := d.flags.testBit 0
def CopyDesc.compress (d : CopyDesc) : Bool := d.flags.testBit 1
def CopyDesc.combine (d : CopyDesc) : Bool := d.flags.testBit 2
def CopyDesc.stream (d : CopyDesc) : Bool := d.flags.testBit 3

/-- The descriptor names a ticket word: its TKT is not 0. -/
def CopyDesc.hasTkt (d : CopyDesc) : Bool := field d.bytes 0x10 8 != 0

/-- A 24-bit signed field. -/
def signed24 (v : Nat) : Int := if v < 2 ^ 23 then (v : Int) else (v : Int) - 2 ^ 24

/-- Dimensions as extent, source stride and destination stride, in elements. -/
def CopyDesc.dims (d : CopyDesc) : List (Nat × Int × Int) :=
  (List.range (min 12 d.ndim)).map fun i =>
    let v := field d.bytes (0x20 + 8 * i) 8
    (v % 2 ^ 16, signed24 (bits v 39 16), signed24 (bits v 63 40))

def CopyDesc.sdims (d : CopyDesc) : List (Nat × Int) := d.dims.map fun x => (x.1, x.2.1)
def CopyDesc.ddims (d : CopyDesc) : List (Nat × Int) := d.dims.map fun x => (x.1, x.2.2)

/-- Elements of a command (R300). -/
def CopyDesc.count (d : CopyDesc) : Nat := d.dims.foldl (fun n x => n * x.1) 1

/-- Element widths in bytes; a reserved code counts as one byte in the range check. -/
def fmtWidth (code : Nat) : Nat := match Fmt.ofCode code with | some f => f.bytes | none => 1
def CopyDesc.ws (d : CopyDesc) : Nat := fmtWidth (d.fmts % 16)
def CopyDesc.wd (d : CopyDesc) : Nat := fmtWidth (d.fmts / 16)

/-- The place of element n in elements from element 0, dimension 0 fastest (R226, R300). -/
def elemOff : List (Nat × Int) → Nat → Int
  | [], _ => 0
  | (ext, st) :: r, n => (n % ext : Nat) * st + elemOff r (n / ext)

/-- The lowest and the highest place that the extents and strides reach (R304). -/
def spanLow (l : List (Nat × Int)) : Int := (l.map fun e => min 0 (((e.1 - 1 : Nat) : Int) * e.2)).sum
def spanHigh (l : List (Nat × Int)) : Int := (l.map fun e => max 0 (((e.1 - 1 : Nat) : Int) * e.2)).sum

/-- The check of R131, and of the windows of a region-3 range (R328, R392), of the bytes from lo to hi about a segmented address: the
linear address of that address. -/
def State.checkSpan (s : State) (c ctx : Nat) (va : Word) (lo hi : Int) (need : Nat) : Except Trap Nat :=
  let low : Int := vaOff va + lo
  if low < 0 ∨ 2 ^ 61 ≤ low then .error ⟨if s.segRefuses c ctx (vaSeg va) then 4 else 3, va⟩
  else
    match s.check c ctx (BitVec.ofNat 64 (vaSeg va * 2 ^ 61 + low.toNat)) (hi - lo + 1).toNat need 1 with
    | .error x => .error ⟨x.cause, va⟩
    | .ok la =>
      let top := la + (hi - lo).toNat
      if laRegion top ≠ laRegion la ∨ s.decodes (corePkg c) top = false ∨ s.noProxy (corePkg c) la = true then .error ⟨7, va⟩
      else if s.windowLacks (corePkg c) la need || s.windowLacks (corePkg c) top need then .error ⟨4, va⟩
      else .ok ((la : Int) - lo).toNat

/-- Fields of the pattern word of cpyd (R307). -/
def patStep (v : Word) : Nat := bits v.toNat 29 24
def patCores (v : Word) : Nat := bits v.toNat 23 18
def patFirst (v : Word) : Nat := bits v.toNat 17 12
def patBlk (v : Word) : Nat := 256 * bits v.toNat 11 0
def patLegal (v : Word) : Bool :=
  decide (v.toNat < 2 ^ 30) && decide (1 ≤ patStep v) && decide (patStep v ≤ 35) && decide (1 ≤ patCores v) &&
    decide (patCores v ≤ 36) && decide (patFirst v ≤ 35) && decide (1 ≤ patBlk v)

/-- The most bytes of s0 that a dealt burst spans on one core (R307): its last row of blocks is whole, but for a last block that is short
and alone in it. -/
def dealtSpan (d : CopyDesc) (v : Word) : Nat :=
  let burst := d.count * d.wd
  let blk := max 1 (patBlk v)
  let last := (burst - 1) / blk
  let cores := max 1 (patCores v)
  if burst = 0 then 0 else last / cores * blk + (if last % cores = 0 then burst - last * blk else blk)

/-- The range checks of one descriptor (R304): the descriptor with its linear addresses. -/
def State.copyRanges (s : State) (c ctx kind : Nat) (v : Word) (l : List Byte) : Except Trap CopyDesc := do
  let d : CopyDesc := { bytes := l, src := 0, dst := 0, tkt := 0 }
  let sva := BitVec.ofNat 64 (field l 0 8)
  let dva := BitVec.ofNat 64 (field l 8 8)
  let tva := BitVec.ofNat 64 (field l 0x10 8)
  let src ← if kind = 2 then .ok 0
            else s.checkSpan c ctx sva (spanLow d.sdims * d.ws) (spanHigh d.sdims * d.ws + (d.ws - 1 : Nat)) segR
  let dst ← if d.stream then .ok 0
            else if kind = 1 then s.checkSpan c ctx dva 0 ((dealtSpan d v : Int) - 1) segW
            else s.checkSpan c ctx dva (spanLow d.ddims * d.wd) (spanHigh d.ddims * d.wd + (d.wd - 1 : Nat)) segW
  let tkt ← if tva = 0 then .ok 0 else s.check c ctx tva 8 segW 1
  return { d with src := canonLa (corePkg c) src, dst := canonLa (corePkg c) dst, tkt := tkt }

/-- Every descriptor of a chain. -/
def State.copyChain (s : State) (c ctx kind : Nat) (v : Word) (la : Nat) : Nat → Except Trap (List CopyDesc)
  | 0 => .ok []
  | n + 1 => do
    let d ← s.copyRanges c ctx kind v (s.mem.bytes la 128)
    let r ← State.copyChain s c ctx kind v (la + 128) n
    return d :: r

/-- The engines of a core's cluster, and the cluster of an engine (R298). -/
def clusterEngines (cl : Nat) : List Nat := (List.range 4).map fun i => 128 * clPkg cl + 64 * clDie cl + 4 * (cl % 16) + i
def engCluster (e : Nat) : Nat := 32 * (e / 128) + 16 * (e / 64 % 2) + e % 64 / 4

/-- The engine that a chain names: its first descriptor's, or with ANY the least occupied one of the cluster (R299). -/
def State.engineFor (s : State) (c : Nat) (d : CopyDesc) : Nat :=
  if d.eng.testBit 7 then
    match clusterEngines (clusterOf c) with
    | e :: r => r.foldl (fun b x => if (s.engine x).queue.length < (s.engine b).queue.length then x else b) e
    | [] => 0
  else 128 * corePkg c + d.eng % 128

/-- cpy, cpyd and cpyf (R304): the checks, and the command on its way to its engine. -/
def copyInstr (word : Word32) (p : BitVec 3) (q : BitVec 1) (d a b : BitVec 4) (kind : Nat) (s : State) : Out :=
  act word 4 p q [a, b] [d] s fun tid t s0 v s =>
    let c := coreOf tid
    let n := if kind = 0 then (nth v 1).toNat % 16 + 1 else 1
    match s.check c t.ctx (nth v 0) (128 * n) segR 128 with
    | .error x => s0.trapAt tid t t.pc x
    | .ok la =>
      if laRegion la ≠ 1 ∨ laCore la ≠ c then s0.trap tid t 0x0C (nth v 0)
      else if s.isBad la (128 * n) then s0.trap tid t 8 (nth v 0)
      else match s.copyChain c t.ctx kind (nth v 1) la n with
        | .error x => s0.trapAt tid t t.pc x
        | .ok ds =>
          let e := match ds with | x :: _ => s.engineFor c x | [] => 0
          let cmd : CopyCmd := { core := c, ctx := t.ctx, kind := kind, descs := ds, val := nth v 1, eng := e, seq := 0 }
          (s.send c (engPlace e) 0 (.copy e cmd tid)).wait tid t (.mem { kind := .cpy, word := word, d := d })

/-- CPY (R304): Sends a chain of copy descriptors to a copy engine. -/
def execCpy (p : BitVec 3) (q : BitVec 1) (d a b : BitVec 4) (s : State) : Out :=
  copyInstr (encR 54 p q d.toNat a.toNat b.toNat 0) p q d a b 0 s

/-- CPYD (R307): Sends a copy through the distributor to deal blocks across cores. -/
def execCpyd (p : BitVec 3) (q : BitVec 1) (d a b : BitVec 4) (s : State) : Out :=
  copyInstr (encR 54 p q d.toNat a.toNat b.toNat 1) p q d a b 1 s

/-- CPYF (R305): Fills destination elements with a value. -/
def execCpyf (p : BitVec 3) (q : BitVec 1) (d a b : BitVec 4) (s : State) : Out :=
  copyInstr (encR 54 p q d.toNat a.toNat b.toNat 2) p q d a b 2 s

/-- CPYQ (R306): Queries the state of a copy command by ticket number. -/
def execCpyq (p : BitVec 3) (q : BitVec 1) (d a : BitVec 4) (s : State) : Out :=
  let word := encR 54 p q d.toNat a.toNat 0 3
  act word 4 p q [a] [d] s fun tid t _ v s =>
    s.wait tid t (.mem { kind := .cpyq, word := word, d := d, vals := [nth v 0] })

/-- What a query answers (R306). -/
def State.copyState (s : State) (pkg : Nat) (ticket : Word) : Nat :=
  let e := 128 * pkg + ticket.toNat % 128
  let n := bits ticket.toNat 31 8
  let k := s.engine e
  let mine (c : CopyCmd) : Bool := c.eng == e && c.seq == n
  if !((List.range (min 256 k.seq)).any fun j => (k.seq - 1 - j) % 2 ^ 24 == n) then 3
  else
    let cl := engCluster e
    let es := (clusterEngines cl).map s.engine
    if (s.cluster cl).windows.any fun w => w.members.any mine then 0
    else if es.any fun x => match x.queue with | j :: _ => j.cmds.any mine | [] => false then 1
    else if es.any fun x => x.queue.any fun j => j.cmds.any mine then 0
    else 2

/-! Acceptance (R298, R308, R312). -/

/-- The engine that takes a command that names e: e itself, or the next enabled one of its cluster (R312). -/
def State.takesFor (s : State) (e : Nat) : Nat :=
  let base := e / 4 * 4
  (((List.range 4).map fun i => base + (e + i) % 4).find? fun x => !(s.engine x).disabled).getD e

/-- Two commands that a combining node may serve together (R308). -/
def sameCopy (x y : CopyCmd) : Bool :=
  match x.descs, y.descs with
  | [a], [b] => a.src == b.src && a.fmts == b.fmts && a.flags == b.flags && a.ndim == b.ndim && a.dims == b.dims &&
      vaOff (BitVec.ofNat 64 (field a.bytes 8 8)) == vaOff (BitVec.ofNat 64 (field b.bytes 8 8))
  | _, _ => false

/-- A command that passes through its cluster's combining node (R308). -/
def CopyCmd.combines (x : CopyCmd) : Bool :=
  match x.descs with
  | [d] => x.kind == 0 && d.combine && engCluster x.eng == clusterOf x.core && laRegion d.src == 0
  | _ => false

/-- A command may join another's window: its destination is an s0 address (R308). -/
def CopyCmd.joins (x : CopyCmd) : Bool :=
  match x.descs with
  | [d] => vaSeg (BitVec.ofNat 64 (field d.bytes 8 8)) == 0 && !d.stream
  | _ => false

/-- A window is open for 256 cycles (R308). -/
def CombWindow.isOpen (w : CombWindow) (now : Nat) : Bool := decide (now < w.since + 256)

/-- Joins an open window of identical commands with room (R308). -/
def joinWindow (x : CopyCmd) (now : Nat) : List CombWindow → Option (List CombWindow)
  | [] => none
  | w :: r =>
    if w.isOpen now && (match w.members with | y :: _ => sameCopy x y | [] => false) && decide (w.members.length < 36) then
      some ({ w with members := w.members ++ [x] } :: r)
    else (joinWindow x now r).map (w :: ·)

/-- Some open window holds a command identical to this one. -/
def hasWindow (x : CopyCmd) (now : Nat) (l : List CombWindow) : Bool :=
  l.any fun w => w.isOpen now && match w.members with | y :: _ => sameCopy x y | [] => false

/-- An earlier command of the same core and context that names the same engine, or goes to it, is in a window, or combined in the queue of
another engine of the cluster: a later one waits for it, so that commands to one engine keep their order (R298, R311). -/
def State.behindCombined (s : State) (x : CopyCmd) : Bool :=
  let mine (e : Nat) (l : List CopyCmd) : Bool := l.any fun y => y.core == x.core && y.ctx == x.ctx && (y.eng == x.eng || e == x.eng)
  let cl := engCluster x.eng
  ((s.cluster cl).windows.any fun w => mine ((w.members.head?.map (·.eng)).getD x.eng) w.members) ||
    (clusterEngines cl).any fun e => e != s.takesFor x.eng && (s.engine e).queue.any fun j => j.combined && mine e j.cmds

/-- An engine accepts a command, or the combining node takes it into a window: none while the engine's queue is full. -/
def State.acceptCopy (s : State) (cmd : CopyCmd) : Option State :=
  let e := cmd.eng
  let cl := engCluster e
  let s' := s.modEngine e fun k => { k with seq := k.seq + 1 }
  let alone : Option State :=
    if (s.engine (s.takesFor e)).queue.length < 64 then
      some (s'.modEngine (s.takesFor e) fun k => { k with queue := k.queue ++ [{ cmds := [cmd], combined := false, run := none, turns := [] }] })
    else none
  let windows := (s.cluster cl).windows
  match (if cmd.combines && cmd.joins then joinWindow cmd s.clock windows else none) with
  | some w => some (s'.modCluster cl fun k => { k with windows := w })
  | none =>
    if cmd.combines && (!(windows.any (·.isOpen s.clock)) || (cmd.joins && hasWindow cmd s.clock windows)) then
      some (s'.modCluster cl fun k => { k with windows := k.windows ++ [{ since := s.clock, members := [cmd] }] })
    else if s.behindCombined cmd then none
    else alone

/-- COPY_COMMAND_ACCEPT (R298): An engine accepts a command into its queue of 64. -/
def execCopyCommandAccept (n : Nat) (s : State) : Out :=
  match s.deliver n with
  | some (m, s') =>
    match m.body with
    | .copy e cmd tid =>
      let seq := (s.engine e).seq % 2 ^ 24
      match s'.acceptCopy { cmd with seq := seq } with
      | some s'' => .next (s''.answer m.dst (some tid) .cpy (seq * 256 + e % 128 + 1))
      | none => .next s
    | _ => .next s
  | none => .next s

/-- COMBINING_WINDOW_CLOSE (R308): After 256 cycles a combining window closes and the source is read once for every member. -/
def execCombiningWindowClose (cl : Nat) (s : State) : Out :=
  match (s.cluster cl).windows with
  | w :: r =>
    match w.members with
    | [] => .next s
    | m :: _ =>
      let e := s.takesFor m.eng
      if w.since + 256 ≤ s.clock ∧ (s.engine e).queue.length < 64 then
        .next ((s.modCluster cl fun k => { k with windows := r }).modEngine e fun k =>
          { k with queue := k.queue ++ [{ cmds := w.members, combined := true, run := none, turns := [] }] })
      else .next s
  | [] => .next s

/-! Execution (R300 to R302, R305, R307). -/

/-- A descriptor error, found by the engine (R299, R304, R305, R307). -/
def descBad (x : CopyCmd) (d : CopyDesc) : Bool :=
  let blocks := d.expand || d.compress
  let total := (d.dims.map (·.1)).headD 0 * d.wd
  decide (16 ≤ d.flags) || d.ndim == 0 || decide (12 < d.ndim) || d.dims.any (fun y => y.1 == 0) ||
    field d.bytes (0x20 + 8 * d.ndim) (96 - 8 * d.ndim) != 0 || (Fmt.ofCode (d.fmts / 16)).isNone ||
    (x.kind != 2 && (Fmt.ofCode (d.fmts % 16)).isNone) || d.ctr.testBit 6 || decide (256 ≤ d.eng) ||
    (d.eng.testBit 7 && d.eng % 128 != 0) || (d.ctr.testBit 7 && !d.hasTkt) || (d.hasTkt && laRegion d.tkt != 1) ||
    (d.stream && decide (2 ^ 30 ≤ field d.bytes 8 8)) ||
    (x.kind != 2 && d.expand && d.compress) ||
    (x.kind != 2 && blocks && (d.ndim != 1 || d.fmts % 16 != d.fmts / 16 || d.stream || (d.expand && laRegion d.dst != 1) ||
      (d.compress && (laRegion d.src != 1 || total % 32 != 0)))) ||
    (x.kind == 1 && (engCluster x.eng != clusterOf x.core || vaSeg (BitVec.ofNat 64 (field d.bytes 8 8)) != 0 || d.stream ||
      blocks || d.dims.any (fun y => y.2.2 != 0) || !patLegal x.val))

/-- An engine cannot access a linear address: it does not decode, or the host window that an element between the ends of its range
meets lacks the right that the access needs (R392, log 55). -/
def State.engDenied (s : State) (e need la : Nat) : Bool :=
  let pkg := engCluster e / 32
  !s.decodes pkg la || s.noProxy pkg la || s.windowLacks pkg la need

/-- The place of a linear address for an engine (R301): none where it has no access and where its walk found no entry. A page whose entry
has left the TLB since the engine's walk found it is filled again in the same step (log 35). -/
def State.engPlaceOf (s : State) (e need la : Nat) : Option Loc × State :=
  let c := clBase (engCluster e)
  if s.engDenied e need la then (none, s)
  else match s.translate c la with
    | (.ok l, s) => (some (s.place l), s)
    | (.miss q off, s) =>
      let cl := portOf c q off
      if s.noted (.engine e) cl off = some false then (none, s)
      else match (s.pkg q).walk (clDie cl) off with
      | none => (none, s)
      | some (i, en) =>
        let s := s.tlbFill cl { vpn := en.vpn, big := en.big, pfn := en.pfn, hot := 1, from_ := i }
        (some (.hbm q off (physOf en.vpn en.pfn off)), s)

/-- Whether an engine's access at a linear address has a place; or the port and the offset that it has to walk for first (R294, R301). -/
def State.engReady (s : State) (e need la : Nat) : Except (Nat × Nat) Bool :=
  let c := clBase (engCluster e)
  if s.engDenied e need la then .ok false
  else match (s.translate c la).1 with
    | .ok _ => .ok true
    | .miss q off =>
      match s.noted (.engine e) (portOf c q off) off with
      | some found => .ok found
      | none => .error (portOf c q off, off)

/-- How many of an engine's accesses, each a linear address and a length of at most a page, come before the first that has no place; or
the first page that it has to walk for. -/
def State.engPages (s : State) (e need : Nat) : List (Nat × Nat) → Except (Nat × Nat) Nat
  | [] => .ok 0
  | (la, n) :: r =>
    let k := 65536 - la % 65536
    match s.engReady e need la, (if n ≤ k then .ok true else s.engReady e need (la + k)) with
    | .error x, _ => .error x
    | .ok false, _ => .ok 0
    | .ok true, .error x => .error x
    | .ok true, .ok false => .ok 0
    | .ok true, .ok true => (State.engPages s e need r).map (· + 1)

/-- Engine, and the place that serves it, hear from each other (R364). -/
def State.engHears (s : State) (e : Nat) : Loc → State
  | .hbm pkg _ phys => s.exchange (engPlace e) (bankPlace pkg phys)
  | .loc la => s.exchange (engPlace e) (laCore la)
  | .host dk _ _ => match s.proxyOf dk with | some c => s.exchange (engPlace e) c | none => s

/-- The places of n bytes from a linear address for an engine, each with its length: two where they cross a page (R301); none where a
page has no entry. -/
def State.engPieces (s : State) (e need la n : Nat) : Option (List (Loc × Nat)) × State :=
  let k := min n (65536 - la % 65536)
  match s.engPlaceOf e need la with
  | (none, s) => (none, s)
  | (some l, s) =>
    if n = k then (some [(l, n)], s)
    else match s.engPlaceOf e need (la + k) with
      | (none, s) => (none, s)
      | (some m, s) => (some [(l, k), (m, n - k)], s)

/-- The bytes of an element's pieces, and whether one of them is uncorrectable, through the cluster's replica cache (R309). -/
def State.readPieces (s : State) (e : Nat) : List (Loc × Nat) → (List Byte × Bool) × State
  | [] => (([], false), s)
  | (l, n) :: r =>
    let g := (s.engHears e l).readGood (engCluster e) l n
    let x := State.readPieces g.2 e r
    ((s.mem.bytes l.key n ++ x.1.1, !g.1 || x.1.2), x.2)

/-- Stores bytes to an element's pieces. -/
def State.storePieces (s : State) (e : Nat) : List (Loc × Nat) → List Byte → State
  | [], _ => s
  | (l, n) :: r, b => State.storePieces ((s.engHears e l).storeBytes l.key (b.take n)) e r (b.drop n)

/-- Reads n elements from element i on: their patterns, whether each met uncorrectable data; fewer where a page has no entry. -/
def State.engRead (s : State) (e : Nat) (d : CopyDesc) : Nat → Nat → List (Nat × Bool) × State
  | 0, _ => ([], s)
  | n + 1, i =>
    match s.engPieces e segR (((d.src : Int) + elemOff d.sdims i * d.ws).toNat) d.ws with
    | (none, s) => ([], s)
    | (some l, s) =>
      let x := s.readPieces e l
      let r := State.engRead x.2 e d n (i + 1)
      ((leNat x.1.1, x.1.2) :: r.1, r.2)

/-- An element to write: its pieces, none where it is refused; its value, and whether its source was uncorrectable. -/
abbrev Target := Option (List (Loc × Nat)) × Nat × Bool

/-- A pattern converted for the destination (R42, R43, R300). -/
def CopyDesc.convert (d : CopyDesc) (v : Nat) : Nat :=
  if d.fmts % 16 = d.fmts / 16 then v
  else match Fmt.ofCode (d.fmts % 16), Fmt.ofCode (d.fmts / 16) with
    | some f, some g => g.round .rne 0 true (f.decode v)
    | _, _ => v

/-- Elements to write, each with its place, value and whether its source was uncorrectable, cut off at a page that has no
entry; at returns the linear address of element i, none where it is refused. -/
def State.engTargets (s : State) (e : Nat) (d : CopyDesc) (at_ : Nat → Option Nat) :
    Nat → List (Nat × Bool) → List Target × Bool × State
  | _, [] => ([], false, s)
  | i, (v, bad) :: r =>
    match at_ i with
    | none =>
      let x := State.engTargets s e d at_ (i + 1) r
      ((none, v, bad) :: x.1, x.2.1, x.2.2)
    | some la =>
      match s.engPieces e segW la d.wd with
      | (none, s) => ([], true, s)
      | (some l, s) =>
        let x := State.engTargets s e d at_ (i + 1) r
        ((some l, v, bad) :: x.1, x.2.1, x.2.2)

/-- A place is in local store. -/
def Loc.isLoc : Loc → Bool
  | .loc _ => true
  | _ => false

/-- Words that a write of n bytes at a place touches: the write's last byte in each of them is written with it (R145). -/
def wordsTouched (key n : Nat) : List Nat := (List.range ((key + n + 7) / 8 - key / 8)).map fun i => key / 8 + i

/-- The words of local store that an element's pieces touch. -/
def locWords (l : List (Loc × Nat)) : List Nat := l.flatMap fun x => if x.1.isLoc then wordsTouched x.1.key x.2 else []

/-- An element is written only where its source was good, no word it touches is spoiled by another's bad source, and no seal
refuses it (R158, R301). -/
def State.writable (s : State) (spoiled : NatSet) (x : Target) : Bool :=
  match x.1 with
  | some l => !x.2.2 && l.all fun y => !((wordsTouched y.1.key y.2).any (NatSet.has spoiled)) && !s.sealedAt y.1
  | none => false

/-- Writes the elements: the words of what is written become full, words spoiled by uncorrectable data are left empty
(R145, R301, R302). The state, the number written, and the bits UNC, SEALED and REFUSED. -/
def State.engWrite (s : State) (e : Nat) (d : CopyDesc) (l : List Target) : State × Nat × Nat :=
  let pieces (x : Target) : List (Loc × Nat) := x.1.getD []
  let spoiled : NatSet := l.foldl (fun m x =>
    if x.2.2 then ((pieces x).flatMap fun y => wordsTouched y.1.key y.2).foldl NatSet.insert m else m) []
  let good := l.filter (s.writable spoiled)
  let s1 := good.foldl (fun s x => s.storePieces e (pieces x) (leBytes d.wd x.2.1)) s
  let s2 := good.foldl (fun s x => (locWords (pieces x)).foldl (fun s w => s.setFull (8 * w) true) s) s1
  let s3 := l.foldl (fun s x => if x.2.2 then (locWords (pieces x)).foldl (fun s w => s.setFull (8 * w) false) s else s) s2
  let unc := if l.any (fun x => x.2.2) then 2 else 0
  let seald := if l.any (fun x => (pieces x).any fun y => s.sealedAt y.1) then 4 else 0
  let refused := if l.any (fun x => x.1.isNone) then 8 else 0
  (s3, good.length, unc ||| seald ||| refused)

/-- Where a dealt byte goes (R307): none on a core where the context holds no share that covers it. -/
def State.dealtTo (s : State) (e : Nat) (x : CopyCmd) (d : CopyDesc) (byte : Nat) : Option Nat :=
  let blk := patBlk x.val
  let b := byte / blk
  let c := clBase (engCluster e) + (patFirst x.val + patStep x.val * (b % patCores x.val)) % 36
  let off := vaOff (BitVec.ofNat 64 (field d.bytes 8 8)) + blk * (b / patCores x.val) + byte % blk
  if s.coreOk c = true ∧ off + d.wd ≤ s.shareSize c (4 * corePkg c + x.ctx) then
    some (s.s0Base c (4 * corePkg c + x.ctx) + off)
  else none

/-- Linear address of destination element i of a member. -/
def State.copyTarget (s : State) (e : Nat) (x : CopyCmd) (d : CopyDesc) (i : Nat) : Option Nat :=
  if x.kind = 1 then s.dealtTo e x d (i * d.wd)
  else some (((d.dst : Int) + elemOff d.ddims i * d.wd).toNat)

/-- Indexes of the words of a delivery that hold an uncorrectable element. -/
def badWords (wd : Nat) : Nat → List (Nat × Bool) → NatSet
  | _, [] => []
  | i, (_, b) :: r => if b then NatSet.insert (badWords wd (i + 1) r) (i * wd / 8) else badWords wd (i + 1) r

def CopyRun.start : CopyRun :=
  { block := 0, src := 0, dst := 0, nelem := 0, flags := 0, waits := 0, unc := false, back := [], done := false, counted := 0, parts := [] }

/-- Writes the elements read at the destination of every member of a group, in the order they joined (R308): one whose own ticket or
counter is at fault writes nothing (R304). -/
def State.copyMembers (s : State) (e : Nat) (rd : List (Nat × Bool)) : Nat → List CopyCmd → CopyRun → CopyRun × State
  | _, [], r => (r, s)
  | i, m :: l, r =>
    match m.descs with
    | [] => State.copyMembers s e rd (i + 1) l r
    | d :: _ =>
      if descBad m d then State.copyMembers s e rd (i + 1) l r
      else
        let tg := s.engTargets e d (s.copyTarget e m d) 0 rd
        let w := tg.2.2.engWrite e d tg.1
        State.copyMembers w.1 e rd (i + 1) l
          { r with parts := r.parts.put i (w.2.1, w.2.2 ||| (if tg.2.1 then 0x20 else 0)) }

/-- A copy of elements, for every member of a group, at one instant (R300, R301, R305, R307, R308). -/
def State.copyElements (s : State) (e : Nat) (j : Job) (x : CopyCmd) (d : CopyDesc) : CopyRun × State :=
  let n := d.count
  let rd := if x.kind = 2 then (List.replicate n (x.val.toNat % 2 ^ (8 * d.wd), false), s)
            else
              let r := s.engRead e d n 0
              (r.1.map fun v => (d.convert v.1, v.2), r.2)
  let short := if rd.1.length < n then 0x20 else 0
  if d.stream then
    let target := field d.bytes 8 8
    let port := target % 2 ^ 24 * 64 + bits target 27 24 * 4 + bits target 29 28
    let dl : Delivery := { data := rd.1.flatMap fun v => leBytes d.wd v.1, bad := badWords d.wd 0 rd.1,
                           eng := e, nelem := rd.1.length, since := 0 }
    if s.coreOk (portCore port) = true ∧ bits target 27 24 ≠ 15 then
      ({ CopyRun.start with waits := 1, flags := short },
       rd.2.send (engPlace e) (portCore port) 0 (.delivery port x.ctx dl))
    else ({ CopyRun.start with done := true, flags := 8 ||| short }, rd.2)
  else
    rd.2.copyMembers e rd.1 0 j.cmds { CopyRun.start with done := true, flags := short }

/-! Blocks (R215, R216, R300). -/

/-- Reads n bytes from a linear address: whether any is uncorrectable; none where a page has no entry. -/
def State.engBytes (s : State) (e : Nat) : Nat → Nat → Option (List Byte × Bool) × State
  | 0, _ => (some ([], false), s)
  | n + 1, la =>
    match s.engPlaceOf e segR la with
    | (none, s) => (none, s)
    | (some l, s) =>
      let g := (s.engHears e l).readGood (engCluster e) l 1
      match State.engBytes g.2 e n (la + 1) with
      | (some r, s') => (some (s.mem.byte l.key :: r.1, !g.1 || r.2), s')
      | (none, s') => (none, s')

/-- The context that owns slot 14 of a core (R198, R316). -/
def State.ownerOf (s : State) (c slot : Nat) : Option Nat :=
  (s.present c).find? fun x => match s.resid (4 * corePkg c + x) c with | some r => r.slots.testBit slot | none => false

/-- The transform queue of a core takes coded blocks: its owner's transform entry pc is not 0 (R217). -/
def State.transforms (s : State) (c : Nat) : Bool :=
  match s.ownerOf c 14 with
  | some x => (s.ctx (4 * corePkg c + x)).xfrmpc != 0
  | none => false

/-- The destinations of a group's members, each with its member's number: none for one at fault (R304, R308). -/
def goodDests : Nat → List CopyCmd → List (Nat × Nat)
  | _, [] => []
  | i, m :: l =>
    match m.descs with
    | d :: _ => if descBad m d then goodDests (i + 1) l else (i, d.dst) :: goodDests (i + 1) l
    | [] => goodDests (i + 1) l

/-- The next block of an expansion, read once: its header and sectors go to the DMA port of each core it is written at (R216, R300, R308).
-/
def State.expandNext (s : State) (e : Nat) (cmds : List CopyCmd) (d : CopyDesc) (r : CopyRun) : CopyRun × State :=
  if (d.dims.map (·.1)).headD 0 ≤ r.block then ({ r with done := true }, s)
  else
    let la := d.src + r.src
    match s.engBytes e 32 la with
    | (none, s) => ({ r with done := true, flags := r.flags ||| 0x20 }, s)
    | (some h, s) =>
      let nsec := field h.1 2 1
      match s.engBytes e (32 * nsec) (la + 32) with
      | (none, s) => ({ r with done := true, flags := r.flags ||| 0x20 }, s)
      | (some b, s) =>
        let stop := (la + 32 + 32 * nsec + 31) / 32 * 32
        let dests := goodDests 0 cmds
        ({ r with block := r.block + 1, src := stop - d.src, dst := r.dst + field h.1 0 2, waits := dests.length },
         dests.foldl (fun s x =>
           s.send (engPlace e) (laCore x.2) 0 (.block e x.1 (h.1 ++ b.1) (x.2 + r.dst) (h.2 || b.2))) s)

/-- Marks the words that n bytes from a local-store address touch full or empty (R145). -/
def State.markBlock (s : State) (la n : Nat) (full : Bool) : State :=
  (wordsTouched la n).foldl (fun s w => s.setFull (8 * w) full) s

/-- Writes a finished block at the destination: bytes up to a page that has no entry, or that a seal refuses. -/
def State.engPut (s : State) (e : Nat) : List Byte → Nat → Nat × State
  | [], _ => (0, s)
  | b :: r, la =>
    match s.engPlaceOf e segW la with
    | (none, s) => (0x20, s)
    | (some l, s) =>
      if s.sealedAt l then
        let x := State.engPut s e r (la + 1)
        (4 ||| x.1, x.2)
      else
        let s := (s.engHears e l).store l.key 1 b.toNat
        State.engPut (if l.isLoc ∧ (l.key % 8 = 7 ∨ r.isEmpty = true) then s.setFull l.key true else s) e r (la + 1)

/-- Bytes of the next block of a compression. -/
def CopyDesc.chunk (d : CopyDesc) (r : CopyRun) : Nat := min 4096 ((d.dims.map (·.1)).headD 0 * d.wd - r.src)

/-- The next block of a compression: queued for the transform thread, or what came back written (R216, R220, R300). -/
def State.compressNext (s : State) (e : Nat) (d : CopyDesc) (r : CopyRun) : CopyRun × State :=
  if !r.back.isEmpty then
    -- an uncorrectable source leaves the destination words empty (R145, R216)
    let w := if r.unc then (0, if laRegion d.dst = 1 then s.markBlock (d.dst + r.dst) r.back.length false else s)
             else s.engPut e r.back (d.dst + r.dst)
    ({ r with back := [], flags := r.flags ||| w.1, done := w.1.testBit 5, dst := r.dst + r.back.length,
              nelem := r.nelem + (if w.1 = 0 ∧ r.unc = false then d.chunk r / d.wd else 0), src := r.src + d.chunk r }, w.2)
  else if d.chunk r = 0 then ({ r with done := true }, s)
  else
    let c := laCore d.src
    let la := d.src + r.src
    if s.transforms c = false then ({ r with src := r.src + d.chunk r, flags := r.flags ||| 8 }, s)
    else if (s.core c).xform.length < 2 then
      let b : Block := { compress := true, lenx := d.chunk r, nsec := 0, param := 0, input := [], place := la, output := [],
                         inPos := 0, outPos := 0, err := false, unc := s.isBad la (d.chunk r), held := false, eng := e, member := 0 }
      ({ r with waits := 1, unc := b.unc }, (s.exchange (engPlace e) c).modCore c fun k => { k with xform := k.xform ++ [b] })
    else (r, s)

/-! Completion (R302). -/

/-- The ticket word (R302). -/
def ticketWord (r : CopyRun) (flags : Nat) (combined : Bool) : Nat :=
  r.nelem * 2 ^ 16 + combined.toNat * 128 + (r.flags ||| flags) % 128 / 2 * 2 + 1

/-- A member's increment may be made now: it has none, it is not its context's, or its record may be written or has its position (R302,
R369). -/
def State.countsNow (s : State) (e : Nat) (x : CopyCmd) (d : CopyDesc) : Bool :=
  let c := s.dutyOf (laCore d.tkt)
  let cx := 4 * corePkg x.core + x.ctx
  let k := d.ctr % 64
  !d.ctr.testBit 7 || !s.ownsCounter c (4 * corePkg c + x.ctx) k ||
    s.unitMay cx (e / 64 % 2) c (srcEngine e) 0x0A (counterObj c k) ((s.core c).counters.at 0 k + 1).toNat

/-- Counter and ticket of one member, by its number in its group (R302, R207): none while its increment waits for its recorded position
or the log. The core counts, and writes the record, once it has heard the engine's message, and the engine hears its answer (R364). Of a
combined group, a member whose own ticket or counter is at fault reports DESC (R308). Where the ticket's core is disabled, the core that
has its duty counts, and no ticket is written (R398, log 69). -/
def State.copyEnds (s : State) (e : Nat) (r : CopyRun) (combined : Bool) (i : Nat) (x : CopyCmd) (d : CopyDesc) : Except State State :=
  let p := r.parts.at (0, 0) i
  let r := if combined && descBad x d then { r with nelem := 0, flags := 0x40 }
           else { r with nelem := r.nelem + p.1, flags := r.flags ||| p.2 }
  if d.hasTkt = false ∨ laRegion d.tkt ≠ 1 then .ok s
  else
    let c := s.dutyOf (laCore d.tkt)
    let k := d.ctr % 64
    let cx := 4 * corePkg x.core + x.ctx
    let message (f : State → State) : State :=
      let s := f (s.hear c (s.time (engPlace e)))
      s.hear (engPlace e) (s.time c)
    let ticket (flags : Nat) (s : State) : State :=
      if s.coreOk (laCore d.tkt) then (s.store d.tkt 8 (ticketWord r flags combined % 2 ^ 64)).markBlock d.tkt 8 true else s
    let n := (s.core c).counters.at 0 k + 1
    let counted (s : State) : State :=
      s.unitLogged cx (e / 64 % 2) c (srcEngine e) 0x0A (counterObj c k) n.toNat fun s =>
        ticket 0 (s.modCore c fun y => { y with counters := y.counters.put k n })
    if !s.countsNow e x d then .error (counted s)
    else if d.ctr.testBit 7 = false then .ok (message (ticket 0))
    else if !s.ownsCounter c (4 * corePkg c + x.ctx) k then .ok (message (ticket 0x10))
    else .ok (message counted)

/-- The queue after the head's first descriptor is finished. -/
def nextJob : List Job → List Job
  | [] => []
  | j :: r =>
    let cmds := j.cmds.map fun x => { x with descs := x.descs.drop 1 }
    if cmds.any fun x => !x.descs.isEmpty then { j with cmds := cmds, run := none, turns := [] } :: r else r

/-- Puts the progress of the head job back; what it does next needs DMA turns of its own (R201). -/
def State.setRun (s : State) (e : Nat) (r : CopyRun) : State :=
  s.modEngine e fun k => match k.queue with | j :: l => { k with queue := { j with run := some r, turns := [] } :: l } | [] => k

/-- Ends the head's descriptor for its next member, in the order they joined: its counter and its ticket (R302). After the last member the
descriptor is finished. -/
def State.endDesc (s : State) (e : Nat) (j : Job) (r : CopyRun) : State :=
  let next (s : State) : State :=
    if j.cmds.length ≤ r.counted + 1 then s.modEngine e fun k => { k with queue := nextJob k.queue }
    else s.setRun e { r with counted := r.counted + 1 }
  match j.cmds[r.counted]? with
  | none => next s
  | some x => match x.descs with
    | [] => next s
    | d :: _ => match s.copyEnds e r j.combined r.counted x d with
      | .ok s' => next s'
      | .error s' => s'

/-- The fabric carries an engine's accesses to the package of a linear address (R401, R419). -/
def State.engLinked (s : State) (e la : Nat) : Bool :=
  let c := clBase (engCluster e)
  if laRegion la = 1 then s.fab.reaches (dieKey c) (dieKey (laCore la))
  else if laRegion la = 2 then
    let cl := portOf c (bits la 55 43) (bits la 42 0)
    s.fab.reaches (dieKey c) (2 * clPkg cl + clDie cl)
  else true

/-- The cores whose local store holds a byte of n from a linear address (R201). -/
def State.dmaCores (s : State) (la n : Nat) : NatSet :=
  [la, la + n - 1].foldl (fun m a => if laRegion a = 1 ∧ s.coreOk (laCore a) = true then NatSet.insert m (laCore a) else m) []

/-- Nothing of a job is to be done: its engine is disabled, or each of its descriptors is at fault (R304, R312). -/
def State.jobBad (s : State) (e : Nat) (j : Job) : Bool :=
  (s.engine e).disabled || j.cmds.all fun m => match m.descs with | d :: _ => descBad m d | [] => true

/-- The core whose DMA turn the next member's ticket needs (R201), once its increment may be made. -/
def State.ticketTurn (s : State) (e : Nat) (j : Job) (r : CopyRun) : NatSet :=
  match j.cmds[r.counted]? with
  | some x => match x.descs with
    | d :: _ => if d.hasTkt && laRegion d.tkt == 1 && s.countsNow e x d then s.dmaCores d.tkt 8 else []
    | [] => []
  | none => []

/-- The cores whose DMA turns the next piece of a job's descriptor needs (R201, log 73): before it moves its data, those of its source,
where blocks need only the one at which they begin, and those of the elements that every good member writes; a compressed block that
has come back, those of the words that it is written to; a ticket, its own. A delivery and an expansion's block take their own turns
where they arrive. -/
def State.dmaNeeds (s : State) (e : Nat) (j : Job) : NatSet :=
  match j.run, j.cmds with
  | none, x :: _ =>
    match x.descs with
    | d :: _ =>
      let blocks := x.kind == 0 && (d.expand || d.compress)
      let elems := List.range d.count
      if s.jobBad e j then []
      else
        let src :=
          if x.kind = 2 then []
          else if blocks then s.dmaCores d.src 1
          else elems.flatMap fun i => s.dmaCores ((d.src : Int) + elemOff d.sdims i * d.ws).toNat d.ws
        let dst :=
          if blocks || d.stream then []
          else j.cmds.flatMap fun m => match m.descs with
            | md :: _ => if descBad m md then [] else elems.flatMap fun i => match s.copyTarget e m md i with
              | some la => s.dmaCores la md.wd
              | none => []
            | [] => []
        (src ++ dst).foldl NatSet.insert []
    | [] => []
  | some r, x :: _ =>
    match x.descs with
    | d :: _ =>
      if r.done then s.ticketTurn e j r
      else if r.back.isEmpty then [] else s.dmaCores (d.dst + r.dst) r.back.length
    | [] => []
  | _, [] => []

/-- The page that the next piece of a job's descriptor has to walk for, as port and offset, in the order of its accesses: the elements
read and then those written for each good member, up to one that has no place; a block's header and its sectors; the words that a
compressed block is written to (R294, R301). -/
def State.engNeeds (s : State) (e : Nat) (j : Job) : Option (Nat × Nat) :=
  let miss (x : Except (Nat × Nat) Nat) : Option (Nat × Nat) := match x with | .error a => some a | .ok _ => none
  match j.run, j.cmds with
  | none, x :: _ =>
    match x.descs with
    | d :: _ =>
      if s.jobBad e j || (x.kind == 0 && (d.expand || d.compress)) then none
      else
        let source (i : Nat) : Nat × Nat := (((d.src : Int) + elemOff d.sdims i * d.ws).toNat, d.ws)
        match (if x.kind = 2 then .ok d.count else s.engPages e segR ((List.range d.count).map source)) with
        | .error a => some a
        | .ok n =>
          if d.stream then none
          else j.cmds.findSome? fun m => match m.descs with
            | md :: _ =>
              if descBad m md then none
              else miss (s.engPages e segW ((List.range n).filterMap fun i => (s.copyTarget e m md i).map fun la => (la, md.wd)))
            | [] => none
    | [] => none
  | some r, x :: _ =>
    match x.descs with
    | d :: _ =>
      if r.done || r.waits != 0 then none
      else if d.expand then
        let la := d.src + r.src
        if (d.dims.map (·.1)).headD 0 ≤ r.block then none
        else match s.engPages e segR [(la, 32)] with
          | .error a => some a
          | .ok _ =>
            let nsec := match (s.engBytes e 32 la).1 with | some h => field h.1 2 1 | none => 0
            if nsec = 0 then none else miss (s.engPages e segR [(la + 32, 32 * nsec)])
      else if r.back.isEmpty || r.unc then none
      else miss (s.engPages e segW [(d.dst + r.dst, r.back.length)])
    | [] => none
  | _, [] => none

/-- The cores whose turns the head of an engine's queue still waits for: none where the fabric does not carry its accesses. -/
def State.turnsLeft (s : State) (e : Nat) : List Nat :=
  match (s.engine e).queue with
  | j :: _ => (s.dmaNeeds e j).filter fun c => !NatSet.has j.turns c
  | [] => []

/-- The head of an engine's queue has no page to walk for. -/
def State.engWalked (s : State) (e : Nat) : Bool :=
  match (s.engine e).queue with
  | j :: _ => (s.engNeeds e j).isNone
  | [] => true

/-- The next piece of a job: its data moved, or its next block (R300). -/
def State.engPiece (s : State) (e : Nat) (j : Job) (x : CopyCmd) (d : CopyDesc) : CopyRun × State :=
  match j.run with
  | some r => if d.expand then s.expandNext e j.cmds d r else s.compressNext e d r
  | none =>
    if s.jobBad e j then ({ CopyRun.start with done := true, flags := 0x40 }, s)
    else if x.kind == 0 && (d.expand || d.compress) then (CopyRun.start, s)
    else s.copyElements e j x d

/-- The engine's next piece of work on the head of its queue (R298); what no plane of the fabric carries waits, and so does a piece
whose pages are not yet walked for (R294, R301), or that has not had the DMA turns it needs (R201). A descriptor that is done ends
in the same step where its ticket needs no turn. -/
def State.engineWork (s : State) (e : Nat) : State :=
  match (s.engine e).queue with
  | [] => s
  | j :: _ =>
    match j.cmds with
    | [] => s.modEngine e fun k => { k with queue := nextJob k.queue }
    | x :: _ =>
      match x.descs with
      | [] => s.modEngine e fun k => { k with queue := nextJob k.queue }
      | d :: _ =>
        let ends (s : State) (r : CopyRun) : State := if (s.turnsLeft e).isEmpty then s.endDesc e j r else s
        if !(s.engLinked e d.src && (d.stream || s.engLinked e d.dst)) then s
        else match s.engNeeds e j with
          | some a => s.askWalk a.1 a.2 (.engine e)
          | none =>
            if !(s.turnsLeft e).isEmpty then s
            else match j.run with
              | some r =>
                if r.done then ends s r
                else if r.waits != 0 then s
                else
                  let go := s.engPiece e j x d
                  let s' := (go.2.dropNotes (.engine e)).setRun e go.1
                  if go.1.done then ends s' go.1 else s'
              | none =>
                let go := s.engPiece e j x d
                let s' := (go.2.dropNotes (.engine e)).setRun e go.1
                if go.1.done then ends s' go.1 else s'

/-- COPY_COMMAND_COMPLETION (R302): A command finishes or stops; words are set full, the counter advances and the ticket is written. -/
def execCopyCommandCompletion (n : Nat) (s : State) : Out :=
  if 2 ^ 43 ≤ n then
    -- a DMA turn of a core serves the head of the engine's queue (R201)
    let e := (n - 2 ^ 43) / 2 ^ 24
    let c := (n - 2 ^ 43) % 2 ^ 24
    .next ((s.modEngine e fun k => match k.queue with
      | j :: l => { k with queue := { j with turns := NatSet.insert j.turns c } :: l }
      | [] => k).engineWork e)
  else .next (s.engineWork n)

/-- What became of a member's block reaches the engine that sent it (R216, R220): bytes written, ticket bits, and a compressed block. -/
def State.blockEnds (s : State) (core e member nbytes flags : Nat) (back : List Byte) : State :=
  (s.hear (engPlace e) (s.time core)).modEngine e fun k =>
    match k.queue with
    | j :: l => match j.run, j.cmds with
      | some r, x :: _ => match x.descs with
        | d :: _ =>
          let p := r.parts.at (0, 0) member
          { k with queue := { j with run := some { r with waits := r.waits - 1, back := back,
                                                          parts := r.parts.put member (p.1 + nbytes / d.wd, p.2 ||| flags) } } :: l }
        | [] => k
      | _, _ => k
    | [] => k

end Sys2Proof.Machine
end

