-- ==== Sys2Proof/Machine/Transform.lean ====
section
/-! DEFINITION. Compressed blocks at the DMA port, the transform thread's BITS-R (R215 to R220), and the binding of slots 14
and 15 (R198, R217). -/

namespace Sys2Proof.Machine

/-- What the DMA port does with an expansion's block (R216): refuses it, writes it, or queues it; none while the transform
queue is full. -/
def State.expandBlock (s : State) (c e member : Nat) (data : List Byte) (la : Nat) (unc : Bool) : Option State :=
  let lenx := field data 0 2
  let nsec := field data 2 1
  let method := field data 3 1
  let payload := data.drop 8
  let refuse := some (s.blockEnds c e member 0 8 [])
  let write (l : List Byte) : Option State :=
    let s := if unc then s.markBlock la l.length false else (s.storeBytes la l).markBlock la l.length true
    some (s.blockEnds c e member (if unc then 0 else l.length) (if unc then 2 else 0) [])
  if lenx % 32 ≠ 0 ∨ lenx < 32 ∨ 4096 < lenx ∨ 128 < nsec ∨ lsSize c < laOff la + lenx then refuse
  else match method with
    | 0 => if lenx = 32 * (nsec + 1) then write payload else refuse
    | 2 => if nsec = 0 then write (List.replicate lenx 0) else refuse
    | 1 =>
      if s.transforms c = false then refuse
      else if 2 ≤ (s.core c).xform.length then none
      else
        let b : Block := { compress := false, lenx := lenx, nsec := nsec, param := field data 4 4, input := payload, place := la,
                           output := [], inPos := 0, outPos := 0, err := false, unc := unc, held := false, eng := e, member := member }
        some (s.modCore c fun k => { k with xform := k.xform ++ [b] })
    | _ => refuse

/-- A DMA turn sends a core's oldest compressed block to its engine (R201, R220). -/
def State.sendBlock (s : State) (c : Nat) : State :=
  match (s.core c).xout with
  | b :: r => (s.modCore c fun k => { k with xout := r }).blockEnds c b.eng 0 0 b.flags b.data
  | [] => s

/-- BLOCK_EXPANSION (R216): The DMA port reads a compressed block header and writes, zeroes, queues or refuses the block; from 2^46 on
the number is that of a core whose DMA turn sends a compressed block (log 73). -/
def execBlockExpansion (n : Nat) (s : State) : Out :=
  if 2 ^ 46 ≤ n then .next (s.sendBlock (n - 2 ^ 46))
  else match s.deliver n with
  | some (m, s') =>
    match m.body with
    | .block e mem data la unc => .next ((s'.expandBlock m.dst e mem data la unc).getD s)
    | _ => .next s
  | none => .next s

/-! Binding slots 14 and 15 (R198, R217). -/

/-- Binds a thread at an entry pc, with every work-packet word 0 (R198, R217): none where the slot is taken, its context does not run, or
its trace record is held. Its SUP bit is 0 (DESIGN CHOICE, log 78). -/
def State.bindService (s : State) (tid : Nat) (entry : Context → Word) : Option State :=
  let c := coreOf tid
  match s.ownerOf c (slotOf tid) with
  | none => none
  | some x =>
    let cx := 4 * corePkg c + x
    let pc := entry (s.ctx cx)
    if (s.thread tid).isSome || pc == 0 || !s.running cx || (s.core c).disabled || ((s.ctx cx).saved.find? tid).isSome then none
    else (s.traceBind tid cx pc).map fun s => s.seat tid (Thread.fresh pc x)

/-- TRANSFORM_THREAD_BIND (R217): A Vacant slot 14 binds a thread at the transform entry pc when a block is queued. -/
def execTransformThreadBind (core : Nat) (s : State) : Out :=
  if (s.core core).xform.isEmpty then .next s
  else match s.bindService (16 * core + 14) (·.xfrmpc) with
    | some s' => .next (s'.modCore core fun k => { k with xholds := false })
    | none => .next s

/-- COMM_THREAD_BIND (R198): Slot 15 binds at the communication entry pc when Vacant and a queue holds an element. -/
def execCommThreadBind (core : Nat) (s : State) : Out :=
  let k := s.core core
  if (k.xq.at [] 0).isEmpty ∧ (k.xq.at [] 2).isEmpty then .next s
  else .next ((s.bindService (16 * core + 15) (·.commpc)).getD s)

/-! BITS-R (R218 to R220). -/

/-- Length of a block's input in bits (R219). -/
def Block.inBits (b : Block) : Nat := if b.compress then 8 * b.lenx else 8 * (24 + 32 * b.nsec)

/-- Capacity of a block's output in bytes (R219, R216). -/
def Block.room (b : Block) : Nat := if b.compress then 24 + 32 * 128 else b.lenx

/-- Bit i of the input: false past its end. -/
def State.inBit (s : State) (b : Block) (i : Nat) : Bool :=
  decide (i < b.inBits) &&
    ((if b.compress then s.mem.byte (b.place + i / 8) else b.input.getD (i / 8) 0).toNat.testBit (i % 8))

/-- n bits of the input from a position, the first the least significant. -/
def State.inNat (s : State) (b : Block) : Nat → Nat → Nat
  | 0, _ => 0
  | n + 1, i => (s.inBit b i).toNat + 2 * State.inNat s b n (i + 1)

/-- Takes n bits: ERR where the input ends before them (R219). -/
def State.takeBits (s : State) (b : Block) (n : Nat) : Nat × Block :=
  (s.inNat b n b.inPos, { b with inPos := b.inPos + n, err := b.err || decide (b.inBits < b.inPos + n) })

/-- Skips zero bits, at most n of them: how many (R219). -/
def State.zeros (s : State) (b : Block) : Nat → Nat → Nat
  | 0, _ => 0
  | n + 1, i => if s.inBit b i then 0 else 1 + State.zeros s b n (i + 1)

/-- Replaces one bit of a byte. -/
def setBitOf (v : Byte) (i : Nat) (x : Bool) : Byte := if x then v ||| ((1 : Byte) <<< i) else v &&& ~~~((1 : Byte) <<< i)

/-- Writes one bit of a block's output: into local store, or into the block (R219). -/
def State.outBit (s : State) (b : Block) (i : Nat) (x : Bool) : State × Block :=
  if b.room ≤ i / 8 then (s, { b with err := true })
  else if b.compress then
    let l := b.output ++ List.replicate (i / 8 + 1 - b.output.length) 0
    (s, { b with output := l.set (i / 8) (setBitOf (l.getD (i / 8) 0) (i % 8) x) })
  else (s.store (b.place + i / 8) 1 (setBitOf (s.mem.byte (b.place + i / 8)) (i % 8) x).toNat, b)

/-- Writes the low n bits of a value at out, and advances out (R219). -/
def State.putBits (s : State) (b : Block) : Nat → Nat → State × Block
  | 0, _ => (s, b)
  | n + 1, v =>
    let w := s.outBit b b.outPos (v % 2 == 1)
    State.putBits w.1 { w.2 with outPos := b.outPos + 1 } n (v / 2)

/-- The block that the thread of slot 14 holds (R218). -/
def State.heldBlock (s : State) (c : Nat) : Option Block :=
  if (s.core c).xholds then (s.core c).xform.head? else none

/-- Puts the held block back. -/
def State.setBlock (s : State) (c : Nat) (b : Block) : State := s.modCore c fun k => { k with xform := b :: k.xform.drop 1 }

/-- A member of BITS-R that needs a held block: cause 0x01 in another slot, or without one (R218). A port among its operands that has
nothing to read is waited for (R213) before this is tested, as in sbind; the spec ranks neither (DESIGN CHOICE, log 94). -/
def bitsInstr (word : Word32) (p : BitVec 3) (q : BitVec 1) (srcs dsts : List (BitVec 4)) (s : State)
    (f : Nat → Thread → State → Block → List Word → State → State) : Out :=
  act word 4 p q srcs dsts s fun tid t s0 v s =>
    match (if slotOf tid = 14 then s.heldBlock (coreOf tid) else none) with
    | none => s0.trap tid t 1 (word.setWidth 64)
    | some b => f tid t s0 b v s

/-- A bit count of bget, bpeek and bput (R219). -/
def bitCount (v : Word) : Nat := min (v.toNat % 128) 64

/-- BGET (R219): Takes n bits from the block's input. -/
def execBget (p : BitVec 3) (q : BitVec 1) (d a : BitVec 4) (s : State) : Out :=
  let word := encR 58 p q d.toNat a.toNat 0 0
  bitsInstr word p q [a] [d] s fun tid t s0 b v s =>
    let r := s.takeBits b (bitCount (nth v 0))
    s0.finish (s.setBlock (coreOf tid) r.2) tid t word d (BitVec.ofNat 64 r.1)

/-- BPEEK (R219): Reads n input bits without consuming them. -/
def execBpeek (p : BitVec 3) (q : BitVec 1) (d a : BitVec 4) (s : State) : Out :=
  let word := encR 58 p q d.toNat a.toNat 0 1
  bitsInstr word p q [a] [d] s fun tid t s0 b v s =>
    let r := s.takeBits b (bitCount (nth v 0))
    s0.finish (s.setBlock (coreOf tid) { r.2 with inPos := b.inPos }) tid t word d (BitVec.ofNat 64 r.1)

/-- BSKIP (R219): Skips input bits. -/
def execBskip (p : BitVec 3) (q : BitVec 1) (a : BitVec 4) (s : State) : Out :=
  bitsInstr (encR 58 p q 0 a.toNat 0 2) p q [a] [] s fun tid t _ b v s =>
    (s.setBlock (coreOf tid) (s.takeBits b ((nth v 0).toNat % 65536)).2).retire tid t

/-- BPUT (R219): Writes n bits to the block's output. -/
def execBput (p : BitVec 3) (q : BitVec 1) (a b : BitVec 4) (s : State) : Out :=
  bitsInstr (encR 58 p q 0 a.toNat b.toNat 3) p q [a, b] [] s fun tid t _ k v s =>
    let r := s.putBits k (bitCount (nth v 1)) (nth v 0).toNat
    (r.1.setBlock (coreOf tid) r.2).retire tid t

/-- BFLUSH (R219): Pads the output to a byte boundary and returns its length. -/
def execBflush (p : BitVec 3) (q : BitVec 1) (d : BitVec 4) (s : State) : Out :=
  let word := encR 58 p q d.toNat 0 0 4
  bitsInstr word p q [] [d] s fun tid t s0 b _ s =>
    let r := s.putBits b ((8 - b.outPos % 8) % 8) 0
    s0.finish (r.1.setBlock (coreOf tid) r.2) tid t word d (BitVec.ofNat 64 (r.2.outPos / 8))

/-- BHDR (R219): Waits for and takes the head block of the transform queue. -/
def execBhdr (p : BitVec 3) (q : BitVec 1) (d : BitVec 4) (s : State) : Out :=
  let word := encR 58 p q d.toNat 0 0 5
  act word 4 p q [] [d] s fun tid t s0 _ s =>
    let c := coreOf tid
    if slotOf tid ≠ 14 ∨ (s.heldBlock c).isSome then s0.trap tid t 1 (word.setWidth 64)
    else match (s.core c).xform with
      | b :: _ =>
        if b.held then s0.wait tid t .sync
        else
          let s := (s.setBlock c { b with held := true }).modCore c fun k => { k with xholds := true }
          s0.finish s tid t word d (BitVec.ofNat 64
            (b.lenx + b.nsec * 2 ^ 13 + b.compress.toNat * 2 ^ 21 + b.unc.toNat * 2 ^ 22 + b.param * 2 ^ 32))
      | [] => s0.wait tid t .sync

/-- BEXP (R219): Reads an exponential-Golomb code from the input. -/
def execBexp (p : BitVec 3) (q : BitVec 1) (d a : BitVec 4) (s : State) : Out :=
  let word := encR 58 p q d.toNat a.toNat 0 6
  bitsInstr word p q [a] [d] s fun tid t s0 b v s =>
    let k := (nth v 0).toNat % 32
    let z := s.zeros b 32 b.inPos
    let b := (s.takeBits b z).2
    if z = 32 then s0.finish (s.setBlock (coreOf tid) { b with err := true }) tid t word d (BitVec.ofNat 64 (2 ^ 64 - 1))
    else
      let b := (s.takeBits b 1).2
      let r := s.takeBits b (z + k)
      s0.finish (s.setBlock (coreOf tid) r.2) tid t word d (BitVec.ofNat 64 (2 ^ (z + k) - 2 ^ k + r.1))

/-- Finishes a block (R220): the status word, and the state in which the block has left the queue. R302 gives the ticket a place for UNC
alone of the status: ERR, SHORT and FALLBACK are not passed on (DESIGN CHOICE, log 39). A compressed block is sent in a DMA turn. -/
def State.syncBlock (s : State) (c : Nat) (b : Block) : Nat × State :=
  let out := (b.outPos + 7) / 8
  let s' := s.modCore c fun k => { k with xform := k.xform.drop 1, xholds := false }
  let word (short fallback : Bool) : Nat :=
    b.err.toNat + 2 * b.unc.toNat + 4 * short.toNat + 8 * fallback.toNat + out % 65536 * 65536
  if b.compress then
    let fallback := decide (b.room < out)
    let nsec := if fallback then b.lenx / 32 - 1 else if out ≤ 24 then 0 else (out - 24 + 31) / 32
    let body := if fallback then s.mem.bytes b.place (24 + 32 * nsec) else b.output
    let data := leBytes 2 b.lenx ++ leBytes 1 nsec ++ leBytes 1 (if fallback then 0 else 1) ++ leBytes 4 b.param ++
                  (body ++ List.replicate (24 + 32 * nsec - body.length) 0).take (24 + 32 * nsec)
    (word false fallback, s'.modCore c fun k => { k with xout := k.xout ++ [{ eng := b.eng, flags := if b.unc then 2 else 0, data := data }] })
  else
    let short := decide (out < b.lenx)
    let s' := if short then s'.storeBytes (b.place + out) (List.replicate (b.lenx - out) 0) else s'
    let s' := s'.markBlock b.place b.lenx (!b.unc)
    (word short false, s'.blockEnds c b.eng b.member (if b.unc then 0 else b.lenx) (if b.unc then 2 else 0) [])

/-- BSYNC (R220): Finishes the held block and returns its status. -/
def execBsync (p : BitVec 3) (q : BitVec 1) (d : BitVec 4) (s : State) : Out :=
  let word := encR 58 p q d.toNat 0 0 7
  bitsInstr word p q [] [d] s fun tid t s0 b _ s =>
    let r := s.syncBlock (coreOf tid) b
    s0.finish r.2 tid t word d (BitVec.ofNat 64 r.1)

end Sys2Proof.Machine
end

