-- ==== Sys2Proof/Machine/Fabric.lean ====
section
/-! DEFINITION. The fabric: groups and their trees (R403 to R407), FAB-E (R406 to R411, R415), reduction slots (R412, R413), the
communication thread's queues (R416), records (R417). -/

namespace Sys2Proof.Machine

/-! Groups (R403, R404). -/

abbrev specGroup (l : List Byte) : Nat := field l 0 4
abbrev specCount (l : List Byte) : Nat := field l 4 2
abbrev specSlots (l : List Byte) : Nat := field l 6 1
abbrev specOutf (l : List Byte) : Nat := field l 7 1
abbrev specTout (l : List Byte) : Nat := field l 8 4
abbrev specPlane (l : List Byte) : Nat := field l 0x0C 1

/-- Members in rank order: ascending package, then die (R404). -/
def specMembers (l : List Byte) : List Nat :=
  sortBy (fun x y => decide (x / 1024 < y / 1024))
    ((List.range (specCount l)).map fun i => field l (16 + 4 * i) 4)

/-- Packages that hold a member. -/
def specPkgs (l : List Byte) : List Nat := (specMembers l).foldl (fun a m => NatSet.insert a (corePkg m)) []

/-- A specification keeps R403: one member at most on a die. -/
def specLegal (l : List Byte) : Bool :=
  let ms := specMembers l
  specGroup l != 0 && decide (1 ≤ specCount l) && decide (specCount l ≤ 9216) && decide (1 ≤ specSlots l) &&
    decide (specSlots l ≤ 16) && decide (specOutf l < 2) && decide (1 ≤ specTout l) && decide (specTout l ≤ 65535) &&
    decide (specPlane l < 18) && field l 0x0D 3 == 0 && ms.all (fun m => decide (m < 2 ^ 24) && decide (coreNum m < 576) &&
      decide (corePkg m < Config.packages)) && decide ((ms.map dieKey).Nodup)

/-- Leaves of a group's tree, ascending (R404). -/
def treeLeaves (l : List Byte) : List Nat := (specMembers l).foldl (fun a m => NatSet.insert a (corePkg m / 256)) []

/-- The root switch of a group (R404). -/
def rootSw (l : List Byte) : Nat :=
  match treeLeaves l with
  | [x] => specPlane l * 32 + x
  | _ => spineSw (specPlane l) (specGroup l % 9)

/-- Every switch on a group's tree. -/
def treeSws (l : List Byte) : List Nat :=
  let leaves := (treeLeaves l).map fun x => specPlane l * 32 + x
  if leaves.length ≤ 1 then leaves else leaves ++ [rootSw l]

/-- The down port of a member at its leaf, and of a leaf at the spine (R400, R404). -/
def memberPort (m : Nat) : Nat := 2 * (corePkg m % 256) + coreDie m
def leafPort (l : List Byte) (leaf : Nat) : Nat := 56 * leaf + specGroup l % 56

/-- Child ports of a switch on the tree, ascending (R404). -/
def childPorts (l : List Byte) (sw : Nat) : List Nat :=
  if sw % 32 < 18 then ((specMembers l).filter fun m => corePkg m / 256 == sw % 32).map memberPort
  else (treeLeaves l).map (leafPort l)

/-- A member's fabric port (R404), and whether its way to its leaf is up (R419). -/
def memberLink (l : List Byte) (m : Nat) : Nat := specPlane l + 18 * coreDie m
def Fabric.linkUp (f : Fabric) (l : List Byte) (m : Nat) : Bool :=
  !NatSet.has f.down (downPort (corePkg m) (memberLink l m)) && !NatSet.has f.down (downSw (leafSw (specPlane l) (corePkg m)))

/-- The key of the up port that a leaf uses towards the root (R404), and whether that link is up. -/
def upKey (l : List Byte) (leaf : Nat) : Nat := downUp leaf (512 + 56 * (specGroup l % 9) + specGroup l % 56)
def Fabric.upLink (f : Fabric) (l : List Byte) (leaf : Nat) : Bool := leaf == rootSw l || !NatSet.has f.down (upKey l leaf)

/-- A member is connected to the root (R413). -/
def Fabric.connected (f : Fabric) (l : List Byte) (m : Nat) : Bool :=
  f.linkUp l m && !NatSet.has f.down (downSw (rootSw l)) && f.upLink l (leafSw (specPlane l) (corePkg m))

def Fabric.group (f : Fabric) (g : Nat) : Option Group := f.groups.find? g
def Fabric.member (f : Fabric) (g core : Nat) : Option Member := (f.members.at [] g).find? core

def State.modFab (s : State) (f : Fabric → Fabric) : State := { s with fab := f s.fab }
def State.setGroup (s : State) (g : Nat) (x : Group) : State := s.modFab fun f => { f with groups := f.groups.put g x }

/-- A status word (R409): OP only in events of slot 15; the numbers of multicasts read as SEQ 0. -/
def statusOf (seq op code : Nat) : Nat := (if seq < 2 ^ 24 then seq * 2 ^ 16 else 0) + op * 256 + code

/-- An element enters an inbound queue of slot 15 (R416, log 4). -/
def State.pushX (s : State) (core x : Nat) (l : List Nat) : State :=
  s.modCore core fun k => { k with xq := k.xq.put x (k.xq.at [] x ++ l.map (BitVec.ofNat 64)) }

/-- A control event to members of a group (R416): each hears the place that it comes from (R364). -/
def State.eventAll (s : State) (from_ : Nat → Nat) (g type : Nat) (ms : List Nat) : State :=
  ms.foldl (fun s m => (s.hear m (s.time (from_ m))).pushX m 2 [type * 2 ^ 56 + g]) s

/-- A group is broken for every member, which each member's x2 reports (R405, R419), as its own fabric port tells it. -/
def State.breakGroup (s : State) (g : Nat) : State :=
  match s.fab.group g with
  | some x =>
    if x.broken then s
    else
      let left := (specMembers x.spec).filter fun m => !NatSet.has x.cleared (corePkg m)
      let s := s.setGroup g { x with broken := true }
      if x.installed then s.eventAll (fun m => portPlace (corePkg m) (memberLink x.spec m)) g 3 left else s
  | none => s

/-- A group is gone from every switch (R405). -/
def State.dropGroup (s : State) (g : Nat) : State :=
  s.modFab fun f => { f with groups := f.groups.del g, members := f.members.del g,
                             slots := f.slots.mapVals fun _ m => m.keep fun k _ => k / 16 != g }

/-! Records of collectives (R417). -/

def groupObj (g : Nat) : Nat := 0xF5 * 2 ^ 56 + g

/-- The position of a collective's event: taken now, its record to be appended when its status returns (R417); or a wait, or a
divergence. -/
inductive FabGate where
  | go (s : State) (r : Option Rec)
  | wait (h : HeldWhy) (obj : Nat)
  | diverge (obj reason expected : Nat)

def State.fabGate (s : State) (mode : BitVec 2) (passed : Bool) (cx die place src g pc : Nat) : FabGate :=
  let k := s.ctx cx
  let n := k.seqs.at 0 (groupObj g)
  if mode = 1 then
    if passed = false ∧ s.logRoom cx die = false then .wait .logFull (groupObj g)
    else
      .go ((s.hear place (s.time place)).modCtx cx fun k => { k with seqs := k.seqs.put (groupObj g) ((n + 1) % 2 ^ 24) })
        (some { ts := s.time place, src := src, kind := 0x0B, seq := n % 2 ^ 24, obj := groupObj g, pc := pc % 2 ^ 32, out := 0 })
  else match s.logGate mode passed cx die place src 0x0B (groupObj g) pc 0 with
    | .go s _ => .go s none
    | .wait h => .wait h (groupObj g)
    | .diverge r e => .diverge (groupObj g) r e

/-- Appends the record of a collective with its outcome. -/
def State.fabRecord (s : State) (cx die seq code : Nat) (r : Option Rec) : State :=
  match r with
  | some r => s.append cx die { r with out := (if seq < 2 ^ 24 then seq else 0) + code * 2 ^ 24 }
  | none => s

/-! gset and gq (R405, R407, R415). -/

/-- The answer to a thread that waits in gset (R407), which comes from a place (R364). -/
def State.gsetAnswer (s : State) (from_ tid code : Nat) : State :=
  match s.thread tid with
  | some t =>
    match t.wait with
    | .mem r =>
      if r.kind = .gset then
        let c := coreOf tid
        let rec_ : Option Rec := match r.locs with
          | [.loc ts, .loc seq] => some { ts := ts, src := srcOf tid, kind := 0x0B, seq := seq, obj := groupObj r.n, pc := t.pc.toNat % 2 ^ 32, out := 0 }
          | _ => none
        s.complete ((s.hear c (s.time from_)).fabRecord (cxOf c t) (coreDie c) 0 code rec_) tid t r code
      else s
    | _ => s
  | none => s

/-- gset (R407): its checks, and the request to the switches. Bit 0 of B chooses set or clear. -/
def gsetInstr (word : Word32) (p : BitVec 3) (q : BitVec 1) (d a b : BitVec 4) (s : State) : Out :=
  act word 4 p q [a, b] [d] s (fun tid t s0 v s =>
    let c := coreOf tid
    s0.drained tid t <|
      if (nth v 1).getLsbD 0 then
        let g := (nth v 0).toNat % 2 ^ 32
        s0.logTest s tid t (groupObj g) (s.wait tid t (.mem { kind := .gset, word := word, d := d, sgn := true, n := g }))
      else match s.check c t.ctx (nth v 0) 16 segR 16 with
        | .error x => s0.trapAt tid t t.pc x
        | .ok la =>
          if laRegion la ≠ 1 ∨ laCore la ≠ c then s0.trap tid t 0x0C (nth v 0)
          else
            let n := 16 + 4 * s.mem.read (la + 4) 2
            match s.check c t.ctx (nth v 0) n segR 16 with
            | .error x => s0.trapAt tid t t.pc x
            | .ok _ =>
              if s.isBad la n then s0.trap tid t 8 (nth v 0)
              else
                s0.logTest s tid t (groupObj (s.mem.read la 4))
                  (s.wait tid t (.mem { kind := .gset, word := word, d := d, n := s.mem.read la 4,
                                        vals := (List.range (n / 4)).map fun i => BitVec.ofNat 64 (s.mem.read (la + 4 * i) 4) })))
    (priv := true)

/-- GSET_SET (R407): Registers a group specification and waits for installation. -/
def execGsetSet (p : BitVec 3) (q : BitVec 1) (d a b : BitVec 4) (s : State) : Out :=
  gsetInstr (encR 56 p q d.toNat a.toNat b.toNat 3) p q d a b s

/-- GSET_CLEAR (R407): Clears the package's member records of a group. -/
def execGsetClear (p : BitVec 3) (q : BitVec 1) (d a b : BitVec 4) (s : State) : Out :=
  gsetInstr (encR 56 p q d.toNat a.toNat b.toNat 3) p q d a b s

/-- Something about a group is on its way. -/
def State.groupBusy (s : State) (g : Nat) : Bool :=
  s.net.any fun m => match m.body with
    | .notice _ h _ _ _ => h == g
    | .write _ k _ _ => k.grp == g
    | .status _ h _ _ => h == g
    | _ => false

/-- Every member package has cleared a group. -/
def Group.over (x : Group) : Bool := x.installed && (specPkgs x.spec).all (NatSet.has x.cleared)

/-- A group that every member package has cleared goes from the switches once what the root had sent down has arrived (R405, R424). -/
def State.dropCleared (s : State) (g : Nat) : State :=
  match s.fab.group g with
  | some x => if x.over && !s.groupBusy g then s.dropGroup g else s
  | none => s

/-- Number a of a group is earlier than number b. -/
def seqLate (a b : Nat) : Bool := decide (1 ≤ (b + 2 ^ 24 - a) % 2 ^ 24) && decide ((b + 2 ^ 24 - a) % 2 ^ 24 < 2 ^ 23)

/-- A collective of a group whose sequence number has not left Collect at the root (R424): it is not decided, and not dead. -/
def State.undecided (s : State) (l : List Byte) (g : Nat) (o : Outstanding) : Bool :=
  let x := (s.fab.slots.at [] (rootSw l)).find? (16 * g + o.seq % specSlots l)
  o.grp == g && decide (o.seq < 2 ^ 24) && !o.cut && !o.decided &&
    !(match x with | some y => (decide (y.st = .dead) && y.seq == o.seq) || seqLate o.seq y.seq | none => false)

/-- The root decides a number of a group (R413): a result, a mismatch, or dead. -/
def State.decided (s : State) (g seq : Nat) : State :=
  s.modFab fun f => { f with flight := f.flight.map fun o => if o.grp = g ∧ o.seq = seq then { o with decided := true } else o }

/-- What would end a number of a group at some members is lost at a port or switch that is down: they are cut off (R413, R419). -/
def State.cutOff (s : State) (g seq : Nat) (ms : List Nat) : State :=
  s.modFab fun f =>
    { f with flight := f.flight.map fun o => if o.grp = g ∧ o.seq = seq ∧ ms.contains o.core = true then { o with cut := true } else o }

/-- A clear reaches the root (R424): sequence numbers that have not left Collect there are cut off from every member. -/
def State.cutGroup (s : State) (l : List Byte) (g : Nat) : State :=
  let lost := (s.fab.flight.filter (s.undecided l g)).map (·.seq)
  { s with
    net := s.net.filter fun m => match m.body with | .chunk _ _ k => !(k.grp == g && lost.contains k.seq) | _ => true,
    cores := s.cores.mapVals fun _ y => { y with fabOut := y.fabOut.filter fun p => !(p.chunk.grp == g && lost.contains p.chunk.seq) },
    fab := { s.fab with
      flight := s.fab.flight.map fun o => if s.undecided l g o then { o with cut := true } else o,
      slots := s.fab.slots.mapVals fun _ m => m.keep fun k x => !(k / 16 == g && lost.contains x.seq && decide (x.st ≠ .dead)) } }

/-- Clears a group for a package and context (R405, R407): the code. -/
def State.clearGroup (s : State) (pkg cx g : Nat) : Nat × State :=
  match s.fab.group g with
  | none => (3, s)
  | some x =>
    match x.regs.find? fun r => r.pkg == pkg with
    | none => (3, s)
    | some r =>
      if r.cx ≠ cx ∨ NatSet.has x.cleared pkg = true then (3, s)
      else if !x.installed then
        let x' := { x with regs := x.regs.filter fun y => y.pkg != pkg }
        (0, (if x'.regs.isEmpty then s.dropGroup g else s.setGroup g x').gsetAnswer (swPlace (rootSw x.spec)) r.tid 1)
      else
        let own := (specMembers x.spec).filter fun m => corePkg m == pkg
        let s := s.modFab fun f =>
          { f with members := f.members.put g ((f.members.at [] g).keep fun m _ => corePkg m != pkg) }
        let x' := { x with cleared := NatSet.insert x.cleared pkg }
        (0, ((((s.cutGroup x.spec g).setGroup g x').breakGroup g).eventAll (fun _ => swPlace (rootSw x.spec)) g 2 own).dropCleared g)

/-- A set that its own package refuses with code 6 (R407). -/
def State.setRefused (s : State) (pkg cx : Nat) (l : List Byte) : Bool :=
  let own := (specMembers l).filter fun m => corePkg m == pkg
  !specLegal l || own.isEmpty || own.any fun m => !s.holdsSlots cx m

/-- What the switches answer a clear of a group (R407), and the place that answers: the group's root, which has heard the request through
the package's port, or the port itself where no switch knows the group (R364). -/
def State.clearServed (s : State) (c cx g : Nat) : State × Nat × Nat :=
  let pkg := corePkg c
  let port (l : List Byte) : Nat := portPlace pkg (specPlane l)
  match s.fab.group g with
  | some x =>
    let s := s.hear (port x.spec) (s.time c)
    let s := s.hear (swPlace (rootSw x.spec)) (s.time (port x.spec))
    let y := s.clearGroup pkg cx g
    (y.2, swPlace (rootSw x.spec), y.1)
  | none => (s, c, 3)

/-- A gset request goes to the switches: its position is taken (R417), then a clear is made, a set is refused or registers. -/
def State.gsetServed (s : State) (tid : Nat) (t : Thread) (r : Req) : State :=
  let c := coreOf tid
  let cx := cxOf c t
  let pkg := corePkg c
  if r.e = 0 then s
  else match s.fabGate (s.logMode tid t) true cx (coreDie c) c (srcOf tid) r.n t.pc.toNat with
    | .wait .replay _ => s.noteReplay tid (groupObj r.n)
    | .wait _ _ => s
    | .diverge o x n => s.diverge tid t o x n
    | .go s k =>
      let locs := match k with | some k => [Loc.loc k.ts, Loc.loc k.seq] | none => []
      let s := s.setThread tid { t with wait := .mem { r with e := 0, locs := locs } }
      if r.sgn then
        let x := s.clearServed c cx r.n
        x.1.gsetAnswer x.2.1 tid x.2.2
      else
        let l := r.vals.flatMap fun v => leBytes 4 v.toNat
        if s.setRefused pkg cx l then s.gsetAnswer c tid 6
        else
          (s.hear (portPlace pkg (specPlane l)) (s.time c)).send (portPlace pkg (specPlane l)) (swPlace (rootSw l)) (16 + r.n)
            (.register r.n { pkg := pkg, cx := cx, tid := tid } l)

/-- Room for a group at every switch of its tree (R405): 16,384 entries, 65,536 slots. -/
def Fabric.hasRoom (f : Fabric) (l : List Byte) : Bool :=
  (treeSws l).all fun sw =>
    let on := f.groups.filter fun e => e.2.installed && (treeSws e.2.spec).contains sw
    decide (on.length < 16384) && decide ((on.map fun e => specSlots e.2.spec).sum + specSlots l ≤ 65536) &&
      !NatSet.has f.down (downSw sw)

/-- Installs a group once every member package has registered (R405). -/
def State.tryInstall (s : State) (g : Nat) : State :=
  match s.fab.group g with
  | none => s
  | some x =>
    if x.installed || !(specPkgs x.spec).all fun p => x.regs.any fun r => r.pkg == p then s
    else if !s.fab.hasRoom x.spec then x.regs.foldl (fun s r => s.gsetAnswer (swPlace (rootSw x.spec)) r.tid 5) (s.dropGroup g)
    else
      let cxFor (m : Nat) : Nat := match x.regs.find? fun r => r.pkg == corePkg m with | some r => r.cx | none => 0
      let s := s.modFab fun f =>
        { f with groups := f.groups.put g { x with installed := true },
                 members := f.members.put g ((specMembers x.spec).foldl (fun m c => m.put c { cx := cxFor c, next := 0 }) []) }
      (x.regs.foldl (fun s r => s.gsetAnswer (swPlace (rootSw x.spec)) r.tid 0) s).eventAll (fun _ => swPlace (rootSw x.spec)) g 1 (specMembers x.spec)

/-- GROUP_REGISTRATION (R405): The root receives a registration and installs the group once every member package has registered. -/
def execGroupRegistration (n : Nat) (s : State) : Out :=
  match s.deliver n with
  | some (m, s') =>
    match m.body with
    | .register g r l =>
      match s'.fab.group g with
      | none =>
        let x : Group := { spec := l, regs := [r], installed := false, broken := false, cleared := [], since := s.ticks, kept := [] }
        .next ((s'.setGroup g x).tryInstall g)
      | some x =>
        let answer (code : Nat) : Out := .next (s'.gsetAnswer m.dst r.tid code)
        -- a group that is cleared everywhere goes first
        if x.over then .next s
        else if x.broken then answer 7
        else if x.spec ≠ l then answer 2
        else if x.regs.any fun y => y.pkg == r.pkg then answer 6
        else .next ((s'.setGroup g { x with regs := x.regs ++ [r] }).tryInstall g)
    | _ => .next s
  | none => .next s

/-- GSET_TIMEOUT (R407): TOUT after the first registration the root removes every registration and answers peer absent. A group that is
cleared everywhere goes (R405). -/
def execGsetTimeout (grp : Nat) (s : State) : Out :=
  match s.fab.group grp with
  | some x =>
    if x.installed = false ∧ x.since + 1000 * specTout x.spec ≤ s.ticks then
      .next (x.regs.foldl (fun s r => s.gsetAnswer (swPlace (rootSw x.spec)) r.tid 1) (s.dropGroup grp))
    else .next (s.dropCleared grp)
  | none => .next s

/-- The member record of a core as gq reads it for a context (R415). -/
def Fabric.query (f : Fabric) (core cx g : Nat) : Nat :=
  match f.group g, f.member g core with
  | some x, some m =>
    if x.installed = false ∨ m.cx ≠ cx then 0
    else
      2 ^ 63 + x.broken.toNat * 2 ^ 62 + specOutf x.spec * 2 ^ 61 + (specSlots x.spec - 1) * 2 ^ 56 + m.next * 2 ^ 32 +
        specCount x.spec * 2 ^ 16 + (specMembers x.spec).idxOf core
  | _, _ => 0

/-- GQ (R415): Reads the executing core's member record of a group. -/
def execGq (p : BitVec 3) (q : BitVec 1) (d a : BitVec 4) (s : State) : Out :=
  let word := encR 56 p q d.toNat a.toNat 0 4
  act word 4 p q [a] [d] s fun tid t s0 v s =>
    let c := coreOf tid
    s0.drained tid t (s0.finish s tid t word d (BitVec.ofNat 64 (s.fab.query c (cxOf c t) ((nth v 0).toNat % 2 ^ 32))))

/-! Contribution descriptors (R408). -/

abbrev cdGroup (l : List Byte) : Nat := field l 0 4
abbrev cdCount (l : List Byte) : Nat := field l 4 2
abbrev cdFmt (l : List Byte) : Nat := field l 6 1
abbrev cdFlags (l : List Byte) : Nat := field l 7 1
abbrev cdSrc (l : List Byte) : Word := BitVec.ofNat 64 (field l 8 8)
abbrev cdDst (l : List Byte) : Nat := field l 0x10 4
abbrev cdDcore (l : List Byte) : Nat := field l 0x14 4
abbrev cdCtrn (l : List Byte) : Nat := field l 0x18 1
abbrev cdTkt (l : List Byte) : Word := BitVec.ofNat 64 (field l 0x20 8)
def cdWidth (l : List Byte) : Nat := fmtWidth (cdFmt l % 16)

/-- Code 6 (R408, R410): a reserved field, COUNT or the format out of range, DST misaligned, DCORE on a package without a
member. -/
def cdBad (spec : List Byte) (op : Nat) (l : List Byte) : Bool :=
  let bytes := cdCount l * cdWidth l
  decide (16 ≤ cdFmt l) || decide (2 ≤ cdFlags l) || decide (64 ≤ cdCtrn l) || field l 0x19 7 != 0 || field l 0x28 24 != 0 ||
    cdDst l % cdWidth l != 0 ||
    (if op = 2 then (Fmt.ofCode (cdFmt l)).isNone || bytes == 0 || decide (1024 < bytes)
     else cdCount l == 0 || decide (256 < cdCount l) || decide (2 ≤ cdFmt l)) ||
    (if op = 0 then !(specPkgs spec).contains (corePkg (cdDcore l)) || decide (2 ^ 24 ≤ cdDcore l) || decide (576 ≤ coreNum (cdDcore l))
     else cdDcore l != 0)

/-- A descriptor that has passed R410's checks: its bytes, the place of SRC, the ticket's linear address or 0. -/
structure Contribution where
  bytes : List Byte
  src : Nat
  tkt : Nat
deriving DecidableEq, Repr

/-- The checks of one descriptor (R410). -/
def State.cdCheck (s : State) (c ctx op : Nat) (l : List Byte) : Except Trap Contribution := do
  let own (va : Word) (la : Nat) : Except Trap Nat := if laRegion la = 1 ∧ laCore la = c then .ok la else .error ⟨0x0C, va⟩
  let src ← s.check c ctx (cdSrc l) (cdCount l * cdWidth l) segR 1
  let src := canonLa (corePkg c) src
  if laRegion src ≠ 0 ∧ ¬(laRegion src = 1 ∧ laCore src = c) then .error ⟨7, cdSrc l⟩
  else
    match s.fab.group (cdGroup l), s.fab.member (cdGroup l) c with
    | some x, some _ =>
      if op = 1 then
        let _ ← s.check c ctx (BitVec.ofNat 64 (cdDst l)) (cdCount l * (if specOutf x.spec = 1 then 2 else 4)) segW 1
    | _, _ => pure ()
    let tkt ← if cdTkt l = 0 then .ok 0 else (s.check c ctx (cdTkt l) 8 segW 8).bind (own (cdTkt l))
    return { bytes := l, src := src, tkt := tkt }

/-- Every descriptor of a chain. -/
def State.cdChain (s : State) (c ctx op la : Nat) : Nat → Except Trap (List Contribution)
  | 0 => .ok []
  | n + 1 => do
    let x ← s.cdCheck c ctx op (s.mem.bytes la 64)
    let r ← State.cdChain s c ctx op (la + 64) n
    return x :: r

/-- The first page of the sources that is not translated, with SRC (R410), and the state with the TLB touched. -/
def State.cdPages (s : State) (c : Nat) : List Contribution → Option (Nat × Nat × Word) × State
  | [] => (none, s)
  | x :: r =>
    let n := cdCount x.bytes * cdWidth x.bytes
    match s.translate c x.src with
    | (.miss q off, s) => (some (q, off, cdSrc x.bytes), s)
    | (.ok _, s) =>
      if x.src / 65536 = (x.src + n - 1) / 65536 ∨ n = 0 then State.cdPages s c r
      else match s.translate c (x.src + n - 1) with
        | (.miss q off, s) => (some (q, off, cdSrc x.bytes), s)
        | (.ok _, s) => State.cdPages s c r

/-- Bytes of a contribution's source, read by a core's fabric port (R410), from its local store or through the cluster's memory port
(R288): none where the read fails, its page having lost its entry or a word being uncorrectable. -/
def State.srcBytes (s : State) (port c n la : Nat) : Option (List Byte) × State :=
  if laRegion la = 1 then (if s.isBad la n then none else some (s.mem.bytes la n), s.exchange port c)
  else s.portBytes (.port c) port (clusterOf c) n la

/-- Elements of w bytes. -/
def elements (w : Nat) : Nat → List Byte → List Nat
  | 0, _ => []
  | n + 1, l => leNat (l.take w) :: elements w n (l.drop w)

/-! Issue (R410, R416, R417). -/

/-- The statuses of a thread's chain are all back: the first whose CODE is not 0, or else the last (R410). -/
def State.fabEnds (s : State) (tid : Nat) : State :=
  match s.thread tid with
  | some t =>
    if t.wait = .held .fabric ∧ t.fab.all (·.isSome) then
      let l := t.fab.filterMap id
      let v := (l.find? fun w => w.toNat % 256 != 0).getD (l.getLastD 0)
      s.finish s tid { t with fab := [] } ((s.wordAt (coreOf tid) t t.pc).getD 0) t.fabD v
    else s
  | none => s

/-- A status returns to its issuer (R410, R411, R416): the record, the ticket, and the thread or x0. -/
def State.returnStatus (s : State) (o : Outstanding) (code : Nat) : State :=
  let code := if o.code = 0 then code else o.code
  let s := s.fabRecord o.cx (coreDie o.core) o.seq code o.record
  let s := if o.ticket = 0 then s else (s.store o.ticket 8 (statusOf o.seq 0 code)).setFull o.ticket true
  if o.comm then s.pushX o.core 0 [statusOf o.seq o.op code]
  else
    (s.modThread o.tid fun t =>
      if t.wait = .held .fabric then { t with fab := t.fab.set o.place (some (BitVec.ofNat 64 (statusOf o.seq 0 code))) } else t).fabEnds o.tid

/-- Issues one descriptor (R410): a code at once, or its contribution, which leaves once the port has read SRC. -/
def State.contribute (s : State) (c cx op tid place : Nat) (comm : Bool) (x : Contribution) (r : Option Rec) : State :=
  let l := x.bytes
  let g := cdGroup l
  let o : Outstanding := { core := c, cx := cx, grp := g, seq := 2 ^ 24, op := op, tid := tid, place := place, comm := comm,
                           ticket := x.tkt, left := 1, code := 0, record := r, since := s.ticks,
                           tout := match s.fab.group g with | some x => specTout x.spec | none => 0, cut := false, decided := false }
  match s.fab.group g, s.fab.member g c with
  | some gr, some m =>
    if gr.installed = false ∨ m.cx ≠ cx then s.returnStatus o 3
    else if gr.broken then s.returnStatus o 7
    else
      let bad := cdBad gr.spec op l
      let pkg := corePkg c
      let port := portPlace pkg (memberLink gr.spec c)
      let k : Chunk := { grp := g, seq := if op = 2 then 2 ^ 24 + s.fab.casts else m.next, core := c, op := op, count := cdCount l,
                         fmt := cdFmt l, dst := cdDst l, dcore := if op = 2 then 0 else cdDcore l, vals := [], bad := bad,
                         ctr := if (cdFlags l).testBit 0 then some (cdCtrn l % 64) else none }
      let p : FabRead := { src := x.src, n := cdCount l * cdWidth l, port := port, sw := leafSw (specPlane gr.spec) pkg,
                           targets := if op = 2 then specMembers gr.spec else [], chunk := k }
      let leaves (s : State) : State := (s.hear port (s.time c)).modCore c fun y => { y with fabOut := y.fabOut ++ [p] }
      if op = 2 then
        if bad then s.returnStatus o 6
        else leaves (s.modFab fun f => { f with casts := f.casts + 1, flight := f.flight ++ [{ o with seq := k.seq, left := p.targets.length }] })
      else
        leaves (s.modFab fun f =>
          { f with members := f.members.put g ((f.members.at [] g).put c { m with next := (m.next + 1) % 2 ^ 24 }),
                   flight := f.flight ++ [{ o with seq := m.next, code := if bad then 6 else 0 }] })
  | _, _ => s.returnStatus o 3

/-- A contribution whose source could not be read (R410): a multicast sends nothing, and its status is 4; the issuer of any other has 4,
unless its descriptor has given it 6. -/
def State.readFails (s : State) (k : Chunk) : State :=
  match s.fab.flight.find? fun o => o.core == k.core && o.grp == k.grp && o.seq == k.seq with
  | some o =>
    if k.op = 2 then (s.modFab fun f => { f with flight := f.flight.erase o }).returnStatus o 4
    else s.modFab fun f => { f with flight := f.flight.map fun x => if x = o then { o with code := if o.code = 0 then 4 else o.code } else x }
  | none => s

/-- A contribution leaves its port (R410): a multicast's writes to every member, or a chunk on the tree; one whose source could not be read
is marked as failed. -/
def State.sendRead (s : State) (p : FabRead) (data : Option (List Byte)) : State :=
  let k := p.chunk
  match k.op, data with
  | 2, none => s.readFails k
  | 2, some b =>
    let k := { k with vals := b.map (·.toNat) }
    p.targets.foldl (fun s m => s.send p.port m (16 + k.grp) (.write m k b [k.core])) s
  | _, data =>
    let f := if k.fmt = 1 then Fmt.bf16 else Fmt.fp32
    let vals := (elements (fmtWidth (k.fmt % 16)) k.count (data.getD [])).map fun v => Fmt.fp32.round .rne 0 true (f.decode v)
    (if data.isNone then s.readFails k else s).send p.port (swPlace p.sw) (16 + k.grp)
      (.chunk p.sw (memberPort k.core) { k with vals := vals, bad := k.bad || data.isNone })

/-- The fabric port reads the source of a core's oldest contribution (R410): in HBM through the cluster's memory port, in local store in a
DMA turn of the core (R201). -/
def State.portReads (s : State) (c : Nat) : State :=
  match (s.core c).fabOut with
  | [] => s
  | p :: r =>
    let go (s : State) : State :=
      let rd := s.srcBytes p.port c p.n p.src
      (rd.2.modCore c fun y => { y with fabOut := r }).sendRead p rd.1
    if laRegion p.src = 1 then go s else s.withPages (.port c) (clusterOf c) (rangeOffs p.src p.n) go

/-- Takes the positions of every descriptor of a chain, or none of them (R417). -/
def State.fabGates (s : State) (mode : BitVec 2) (cx die place src pc : Nat) : List Contribution → Except FabGate (State × List (Option Rec))
  | [] => .ok (s, [])
  | x :: r =>
    match s.fabGate mode false cx die place src (cdGroup x.bytes) pc with
    | .go s k =>
      match State.fabGates s mode cx die place src pc r with
      | .ok (s, l) => .ok (s, k :: l)
      | .error e => .error e
    | e => .error e

/-- Issues a chain in descriptor order. -/
def State.issueChain (s : State) (c cx op tid : Nat) (comm : Bool) : Nat → List (Contribution × Option Rec) → State
  | _, [] => s
  | i, (x, r) :: l => State.issueChain (s.contribute c cx op tid i comm x r) c cx op tid comm (i + 1) l

/-- gred, gldr and gmc (R410). -/
def fabInstr (word : Word32) (p : BitVec 3) (q : BitVec 1) (d a b : BitVec 4) (op : Nat) (s : State) : Out :=
  act word 4 p q [a, b] [d] s fun tid t s0 v s =>
    let c := coreOf tid
    let cx := cxOf c t
    s0.drained tid t <|
      let n := (nth v 1).toNat % 16 + 1
      match s.check c t.ctx (nth v 0) (64 * n) segR 64 with
      | .error x => s0.trapAt tid t t.pc x
      | .ok la =>
        if laRegion la ≠ 1 ∨ laCore la ≠ c then s0.trap tid t 0x0C (nth v 0)
        else if s.isBad la (64 * n) then s0.trap tid t 8 (nth v 0)
        else match s.cdChain c t.ctx op la n with
          | .error x => s0.trapAt tid t t.pc x
          | .ok l =>
            match s.cdPages c l with
            | (some (q, off, va), _) => s0.pageMiss tid t q off va
            | (none, s) =>
              match s.fabGates (s.logMode tid t) cx (coreDie c) c (srcOf tid) t.pc.toNat l with
              | .ok (s, rs) =>
                ((s.setThread tid { t with wait := .held .fabric, fab := List.replicate n none, fabD := d }).issueChain c cx op tid
                  false 0 (l.zip rs)).fabEnds tid
              | .error (.wait h o) => s0.gateWait tid t h o
              | .error (.diverge o x e) => s0.diverge tid t o x e
              | .error (.go _ _) => s0

/-- GRED (R410): Contributes descriptors to a reduction written once at DCORE. -/
def execGred (p : BitVec 3) (q : BitVec 1) (d a b : BitVec 4) (s : State) : Out :=
  fabInstr (encR 56 p q d.toNat a.toNat b.toNat 0) p q d a b 0 s

/-- GLDR (R410): Contributes to an all-reduce written at every member. -/
def execGldr (p : BitVec 3) (q : BitVec 1) (d a b : BitVec 4) (s : State) : Out :=
  fabInstr (encR 56 p q d.toNat a.toNat b.toNat 1) p q d a b 1 s

/-- GMC (R410): Multicasts source bytes to every member. -/
def execGmc (p : BitVec 3) (q : BitVec 1) (d a b : BitVec 4) (s : State) : Out :=
  fabInstr (encR 56 p q d.toNat a.toNat b.toNat 2) p q d a b 2 s

/-- The offsets whose pages a contribution reads in region 0. -/
def Contribution.offs (x : Contribution) : List Nat :=
  if laRegion x.src = 1 then [] else rangeOffs x.src (cdCount x.bytes * cdWidth x.bytes)

/-- The first SRC of a chain issued from x1 whose page has no entry, for cause 0x07; the pages have been walked for (R288, R294, R410). -/
def State.commPages (s : State) (tid : Nat) (l : List Contribution) : Option Word :=
  (l.find? fun x => x.offs.any fun o => (s.portPlaceOf (.slot tid) (clusterOf (coreOf tid)) o).1.isNone).map fun x => cdSrc x.bytes

/-- The communication thread's hardware no longer waits for the positions of a chain's groups, but for that of one that it names (R369,
R371). -/
def State.chainGoes (s : State) (cx src : Nat) (l : List Contribution) (but : Option Nat) : State :=
  (l.map fun y => groupObj (cdGroup y.bytes)).foldl (fun s o => if some o = but then s else s.unitGoes cx src o) s

/-- COMM_X1_ELEMENT (R416): An element written to slot 15's x1 queue issues a collective chain without holding the thread, once the pages
of its sources have been walked for. A precise fault reaches the communication thread at its next issue turn. -/
def execCommX1Element (core : Nat) (s : State) : Out :=
  match (s.core core).xq.at [] 1, s.ownerOf core 15 with
  | w :: r, some x =>
    let tid := 16 * core + 15
    let cx := 4 * corePkg core + x
    let op := bits w.toNat 33 32
    let n := bits w.toNat 39 36 + 1
    let s' := s.modCore core fun k => { k with xq := k.xq.put 1 r }
    let fault (e : Trap) : Out := .next (s'.modThread tid (·.relFaulted e))
    let va : Word := w &&& 0xFFFFF
    match s'.check core x va (64 * n) segR 64 with
    | .error e => fault e
    | .ok la =>
      if s.isBad la (64 * n) then fault ⟨8, va⟩
      else match s'.cdChain core x op la n with
        | .error e => fault e
        | .ok l =>
          let pages := l.flatMap (·.offs)
          match s.portMiss (.slot tid) (clusterOf core) pages with
          | some o => .next (s.askWalk (clusterOf core) o (.slot tid))
          | none =>
            match s'.commPages tid l with
            | some va => .next ((s'.modThread tid (·.relFaulted ⟨7, va⟩)).dropNotes (.slot tid))
            | none =>
              let touched := pages.foldl (fun s o => (s.portPlaceOf (.slot tid) (clusterOf core) o).2) s'
              match touched.fabGates (s.ctx cx).replay cx (coreDie core) core (srcOf tid) 0 l with
              | .ok (s, rs) =>
                .next (((s.chainGoes cx (srcOf tid) l none).issueChain core cx op tid true 0 (l.zip rs)).dropNotes (.slot tid))
              | .error (.diverge o a e) => .next ((s.chainGoes cx (srcOf tid) l (some o)).unitDiverges cx (coreDie core) core (srcOf tid) o a e)
              | .error (.wait .replay o) => .next ((s.chainGoes cx (srcOf tid) l (some o)).unitWaits cx core (srcOf tid) o)
              | .error _ => .next s
  | _ :: r, none => .next (s.modCore core fun k => { k with xq := k.xq.put 1 r })
  | [], _ => .next s

/-- COMM_X3_QUERY (R416): A group number written to x3 is queried and the answer returns on x2. -/
def execCommX3Query (core : Nat) (s : State) : Out :=
  match (s.core core).xq.at [] 3 with
  | w :: r =>
    let g := w.toNat % 2 ^ 32
    let cx := 4 * corePkg core + (s.ownerOf core 15).getD 0
    .next ((s.modCore core fun k => { k with xq := k.xq.put 3 r }).pushX core 2 [4 * 2 ^ 56 + g, s.fab.query core cx g])
  | [] => .next s

/-! Reduction slots (R412, R413). -/

/-- The parent of a switch on a tree and the port there; none at the root. -/
def parentOf (l : List Byte) (sw : Nat) : Option (Nat × Nat) :=
  if sw = rootSw l then none else some (rootSw l, leafPort l (sw % 32))

/-- Combines the children of a slot in ascending port order (R51); a single child's chunk passes unchanged. -/
def combine (l : List Chunk) : List Nat :=
  match l with
  | [x] => x.vals
  | _ =>
    let n := ((l.head?.map (·.vals.length))).getD 0
    (List.range n).map fun i => Fmt.fp32.round .rne 0 true (switchSum (l.map fun c => Fmt.fp32.decode (c.vals.getD i 0)))

/-- Two chunks of a slot agree (R412). -/
def sameHeader (x y : Chunk) : Bool :=
  x.count == y.count && x.fmt == y.fmt && x.op == y.op && x.dst == y.dst && x.dcore == y.dcore

/-- The slot at a switch that serves a sequence number of a group. -/
def slotKey (l : List Byte) (g seq : Nat) : Nat := 16 * g + seq % specSlots l
def RedSlot.free : RedSlot := { st := .free, seq := 0, chunks := [], bad := false, since := 0 }
def State.slot (s : State) (sw key : Nat) : RedSlot := (s.fab.slots.at [] sw).at RedSlot.free key
def State.setSlot (s : State) (sw key : Nat) (x : RedSlot) : State :=
  s.modFab fun f => { f with slots := f.slots.put sw (if x.st = .free then (f.slots.at [] sw).del key else (f.slots.at [] sw).put key x) }

/-- Sends a notice to a child port of a switch: a member's status, or a notice to a leaf (R412). Nothing passes a switch or a link that is
down (R413, R419). -/
def State.notifyChild (s : State) (l : List Byte) (sw g seq code : Nat) (c : Option Chunk) (port : Nat) : State :=
  if NatSet.has s.fab.down (downSw sw) then s
  else if sw % 32 < 18 then
    match (specMembers l).find? fun m => corePkg m / 256 == sw % 32 && memberPort m == port with
    | none => s
    | some m =>
      if !s.fab.linkUp l m then s
      else match code, c with
        | 0, some k =>
          if k.op = 1 then
            let own := (s.slot sw (slotKey l g seq)).chunks.find? port
            let ctr := match own with | some o => o.ctr | none => none
            let outf := if specOutf l = 1 then Fmt.bf16 else Fmt.fp32
            s.send (swPlace sw) m (16 + g) (.write m { k with core := m, ctr := ctr } (k.vals.flatMap fun v => leBytes outf.bytes v) [m])
          else s
        | code, _ => s.send (swPlace sw) m (16 + g) (.status m g seq code)
  else
    let leaf := specPlane l * 32 + port / 56
    if NatSet.has s.fab.down (downSw leaf) || !s.fab.upLink l leaf then s
    else s.send (swPlace sw) (swPlace leaf) (16 + g) (.notice leaf g seq code c)

def State.notifyChildren (s : State) (l : List Byte) (sw g seq code : Nat) (c : Option Chunk) : State :=
  (childPorts l sw).foldl (fun s p => s.notifyChild l sw g seq code c p) s

/-- The root's decision (R411, R412): a mismatch notice, or the result rounded into OUTF and sent down; a gred's result is
written once, by the descriptor of the first member in rank order. -/
def State.rootDecides (s : State) (l : List Byte) (sw g : Nat) (x : RedSlot) : State :=
  let s := s.decided g x.seq
  let cs := x.chunks.map (·.2)
  if x.bad then s.notifyChildren l sw g x.seq 2 none
  else match cs with
    | [] => s
    | k :: _ =>
      let outf := if specOutf l = 1 then Fmt.bf16 else Fmt.fp32
      let vals := (combine cs).map fun v => outf.round .rne 0 true (Fmt.fp32.decode v)
      let s := s.notifyChildren l sw g x.seq 0 (some { k with vals := vals })
      if k.op = 0 then
        s.send (swPlace sw) k.dcore (16 + g) (.write k.dcore { k with vals := vals } (vals.flatMap fun v => leBytes outf.bytes v) (specMembers l))
      else s

/-- A chunk reaches a slot (R412): none where it waits on its link. -/
def State.chunkArrives (s : State) (l : List Byte) (sw port : Nat) (k : Chunk) : Option State :=
  let g := k.grp
  let key := slotKey l g k.seq
  let x := s.slot sw key
  let start : RedSlot := { st := .collect, seq := k.seq, chunks := [], bad := false, since := s.ticks }
  let add (x : RedSlot) : State :=
    let first := x.chunks.head?.map (·.2)
    let bad := x.bad || k.bad || (match first with | some f => !sameHeader f k | none => false)
    let x := { x with chunks := x.chunks.put port k, bad := bad }
    if x.chunks.length < (childPorts l sw).length then s.setSlot sw key x
    else match parentOf l sw with
      | some (up, upPort) =>
        let cs := x.chunks.map (·.2)
        let out : Chunk := match cs with | f :: _ => { f with vals := combine cs, bad := x.bad } | [] => k
        let s := s.setSlot sw key { x with st := .up }
        if s.fab.upLink l sw then s.send (swPlace sw) (swPlace up) (16 + g) (.chunk up upPort out) else s
      | none => ((s.setSlot sw key x).rootDecides l sw g x).setSlot sw key RedSlot.free
  -- a chunk whose number the slot has left behind: that number is dead (R413, log 70)
  let late := seqLate k.seq x.seq
  let dead := some (s.notifyChild l sw g k.seq 1 none port)
  match x.st with
  | .free => some (add start)
  | .collect => if x.seq = k.seq then some (add x) else if late then dead else none
  | .up => if late then dead else none
  | .dead => if x.seq = k.seq ∨ late = true then dead
             else if k.seq = (x.seq + specSlots l) % 2 ^ 24 then some (add start) else none

/-- A chunk gets to a switch (R413, R419): the switch is up, and where a member sent the chunk, the member's link. -/
def Fabric.chunkPasses (f : Fabric) (l : List Byte) (sw port : Nat) : Bool :=
  !NatSet.has f.down (downSw sw) && (decide (18 ≤ sw % 32) ||
    match (specMembers l).find? fun m => corePkg m / 256 == sw % 32 && memberPort m == port with
    | some m => f.linkUp l m
    | none => true)

/-- The root reaches a core (R404, R413, R419): over the link of the member on its die; where the group has none there, which is then no
part of its tree, over that of a member of its package. -/
def Fabric.wayTo (f : Fabric) (l : List Byte) (core : Nat) : Bool :=
  let ms := (specMembers l).filter fun m => corePkg m == corePkg core
  match ms.find? fun m => coreDie m == coreDie core with
  | some m => f.connected l m
  | none => ms.any (f.connected l)

/-- A write gets to its core (R413, R419): one that a leaf sends to a member over the member's link; a gred's from the root; a multicast's
from the member that issued it, by the root. -/
def Fabric.writePasses (f : Fabric) (k : Chunk) (core : Nat) : Bool :=
  match f.group k.grp with
  | none => true
  | some x => if k.op = 1 then f.linkUp x.spec core else f.wayTo x.spec core && (k.op != 2 || f.connected x.spec k.core)

/-- A status gets to a core (R413, R419): its own, a leaf's over its link, or another core's by the root. -/
def Fabric.statusPasses (f : Fabric) (g src core : Nat) : Bool :=
  match f.group g with
  | none => true
  | some x => src == core || (if src < 2 ^ 24 then f.wayTo x.spec src && f.connected x.spec core else f.linkUp x.spec core)

/-- REDUCTION_CHUNK_ARRIVAL (R412): A chunk arrives at a switch's reduction slot and is combined or passed up or down. n is a message; from
2^49 on, a core whose port reads the source of its next contribution and sends it (R410). -/
def execReductionChunkArrival (n : Nat) (s : State) : Out :=
  if 2 ^ 49 ≤ n then .next (s.portReads (n - 2 ^ 49))
  else match s.deliver n with
  | some (m, s') =>
    match m.body with
    | .chunk sw port k =>
      match s'.fab.group k.grp with
      | some x =>
        if !s.fab.chunkPasses x.spec sw port then .next s'
        else .next ((s'.chunkArrives x.spec sw port k).getD s)
      | none => .next s'
    | _ => .next s
  | none => .next s

/-- A slot dies: dead notices to the parent and to every child (R412, R419). One that has sent upward tells its parent only, and passes on
what the root decides, which is one decision for the whole group (R413, log 70). -/
def State.killSlot (s : State) (l : List Byte) (sw g key : Nat) (x : RedSlot) : State :=
  let s := if sw = rootSw l then s.decided g x.seq else s
  let s := if x.st = .up then s else (s.setSlot sw key { x with st := .dead, chunks := [] }).notifyChildren l sw g x.seq 1 none
  match parentOf l sw with
  | some (up, _) => if s.fab.upLink l sw then s.send (swPlace sw) (swPlace up) (16 + g) (.notice up g x.seq 1 none) else s
  | none => s

/-- SLOT_TIMER_EXPIRY (R412): A slot in Collect times out and sends dead notices to parent and children. -/
def execSlotTimerExpiry (sw grp slot : Nat) (s : State) : Out :=
  match s.fab.group grp with
  | some g =>
    let x := s.slot sw (16 * grp + slot)
    if x.st = .collect ∧ x.since + 1000 * specTout g.spec ≤ s.ticks ∧ NatSet.has s.fab.down (downSw sw) = false then .next (s.killSlot g.spec sw grp (16 * grp + slot) x)
    else .next s
  | none => .next s

/-- SLOT_NOTICE_ARRIVAL (R412): A result, mismatch or dead notice from the parent reaches a slot in Up and is passed to the children. A dead
notice of a child makes the root's number dead, where the root has not decided it (log 70). -/
def execSlotNoticeArrival (n : Nat) (s : State) : Out :=
  match s.deliver n with
  | some (m, s') =>
    match m.body with
    | .notice sw g seq code c =>
      match s'.fab.group g with
      | some x =>
        let key := slotKey x.spec g seq
        let y := s'.slot sw key
        if y.seq ≠ seq ∨ NatSet.has s.fab.down (downSw sw) = true then .next s'
        else if sw = rootSw x.spec then .next (if y.st = .collect then s'.killSlot x.spec sw g key y else s')
        else if y.st ≠ .up then .next s'
        else .next ((s'.notifyChildren x.spec sw g seq code c).setSlot sw key
          (if code = 1 then { y with st := .dead, chunks := [] } else RedSlot.free))
      | none => .next s'
    | _ => .next s
  | none => .next s

/-! Destination writes and statuses (R411, R413). -/

/-- The context that a group's write acts for at a core (R403): that of its package's registration. -/
def Fabric.contextAt (f : Fabric) (g core : Nat) : Option Nat :=
  match f.group g with
  | some x => (x.regs.find? fun r => r.pkg == corePkg core).map (·.cx)
  | none => none

/-- What a context that returned to Free had at a core that a result of a group is still to be written at (R424). -/
def Fabric.keptAt (f : Fabric) (g core : Nat) : Option (Resid × Seg) := (f.group g).bind fun x => x.kept.find? core

/-- The context of a result, or what is kept of it, owns an arrival counter (R207). -/
def State.writeCounts (s : State) (cx core g i : Nat) : Bool :=
  match s.fab.keptAt g core with
  | some (r, _) => decide (r.cfirst ≤ i) && decide (i < r.cfirst + r.ccount)
  | none => s.ownsCounter core cx i

/-- The place of a result of n bytes (R411): its offset checked against the context's s0, or against what is kept of it. -/
def State.writePlace (s : State) (cx core : Nat) (k : Chunk) (n : Nat) : Option Nat :=
  match s.fab.keptAt k.grp core with
  | some (r, d) =>
    if r.lssize < d.limit ∨ d.limit < k.dst + n ∨ segW &&& d.rights ≠ segW then none else some (lsAddr core r.lsbase + k.dst)
  | none => (s.check core (cx % 4) (BitVec.ofNat 64 k.dst) n segW 1).toOption

/-- Returns a code to every contributor of a write. -/
def State.writeAnswers (s : State) (core : Nat) (k : Chunk) (code : Nat) (targets : List Nat) : State :=
  targets.foldl (fun s m => s.send core m (16 + k.grp) (.status m k.grp k.seq code)) s

/-- The counter of a result, once its data are written (R411): its increment, and the status to the contributors; none while the
increment waits for its log or replay. A result of a context that has returned to Free is counted at once, whatever context has its number
now (R424). -/
def State.countWrite (s : State) (cx core : Nat) (k : Chunk) (targets : List Nat) : Option State :=
  match k.ctr with
  | none => some (s.writeAnswers core k 0 targets)
  | some i =>
    if !s.writeCounts cx core k.grp i then some (s.writeAnswers core k 4 targets)
    else
      let v := (s.core core).counters.at 0 i + 1
      let src := srcUnit (corePkg core) (coreDie core) (720 + match s.fab.group k.grp with | some x => specPlane x.spec | none => 0)
      let counted (s : State) : State := (s.modCore core fun y => { y with counters := y.counters.put i v }).writeAnswers core k 0 targets
      if (s.fab.keptAt k.grp core).isSome then some (counted s)
      else if s.unitMay cx (coreDie core) core src 0x0A (counterObj core i) v.toNat then
        some (s.unitLogged cx (coreDie core) core src 0x0A (counterObj core i) v.toNat counted)
      else none

/-- The waiting increment of a result: what the log unit notes of it (R371). -/
def State.countHeld (s : State) (cx core : Nat) (k : Chunk) : State :=
  let i := k.ctr.getD 0
  s.unitLogged cx (coreDie core) core
    (srcUnit (corePkg core) (coreDie core) (720 + match s.fab.group k.grp with | some x => specPlane x.spec | none => 0)) 0x0A
    (counterObj core i) ((s.core core).counters.at 0 i + 1).toNat fun s => s

/-- The elements of a result are written, and words become full as they complete (R145, R411): none where the check fails. -/
def State.writeElements (s : State) (cx core : Nat) (k : Chunk) (bytes : List Byte) : Option State :=
  if bytes.isEmpty then some s
  else match s.writePlace cx core k bytes.length with
    | none => none
    | some la => some ((s.storeBytes la bytes).markBlock la bytes.length true)

/-- DESTINATION_WRITE (R411): A result reaches a destination core, is checked, written, counted and its status returned. While the
increment waits, the message stays with its data already written. -/
def execDestinationWrite (n : Nat) (s : State) : Out :=
  match s.deliver n with
  | some (m, s') =>
    match m.body with
    | .write core k bytes targets =>
      if !s.fab.writePasses k core then .next (s'.cutOff k.grp k.seq targets)
      else match s.fab.contextAt k.grp core with
      | none => .next (s'.writeAnswers core k 4 targets)
      | some cx =>
        if s.coreOk core = false then .next (s'.writeAnswers core k 4 targets)
        else match s'.writeElements cx core k bytes with
          | none => .next (s'.writeAnswers core k 4 targets)
          | some w => match w.countWrite cx core k targets with
            | some t => .next t
            | none => .next ({ w with net := s.net.set n { m with body := .write core k [] targets } }.countHeld cx core k)
    | _ => .next s
  | none => .next s

/-- One status of a collective returns (R410, R411): a multicast waits for every member's. -/
def State.statusArrives (s : State) (core g seq code : Nat) : State :=
  match s.fab.flight.find? fun o => o.core == core && o.grp == g && o.seq == seq && !o.cut with
  | none => s
  | some o =>
    let rest := s.fab.flight.erase o
    if 1 < o.left then
      s.modFab fun f => { f with flight := rest ++ [{ o with left := o.left - 1, code := if o.code = 0 then code else o.code }] }
    else (s.modFab fun f => { f with flight := rest }).returnStatus o code

/-- STATUS_RETURN (R410): A collective status returns to the issuing member, writing any ticket and ending the Held wait when the last
returns. -/
def execStatusReturn (n : Nat) (s : State) : Out :=
  match s.deliver n with
  | some (m, s') =>
    match m.body with
    | .status core g seq code =>
      .next (if s.fab.statusPasses g m.src core then s'.statusArrives core g seq code else s'.cutOff g seq [core])
    | _ => .next s
  | none => .next s

/-- MEMBER_CUTOFF_TIMEOUT (R413): A member cut off from the root receives code 7 after 2 x TOUT. -/
def execMemberCutoffTimeout (core grp seq : Nat) (s : State) : Out :=
  let late (o : Outstanding) : Bool :=
    let off : Bool := match s.fab.group grp with
      | some x => !s.fab.connected x.spec core
      | none => true
    o.core == core && o.grp == grp && o.seq == seq && (o.cut || off) && decide (o.since + 2000 * o.tout ≤ s.ticks)
  match s.fab.flight.find? late with
  | none => .next s
  | some o => .next ((s.modFab fun f => { f with flight := f.flight.erase o }).returnStatus { o with code := 7 } 7)

/-- A port or a switch goes down (R419): every group whose tree uses it is broken. -/
def State.fabricDown (s : State) (key : Nat) : State :=
  let s := s.modFab fun f => { f with down := NatSet.insert f.down key }
  s.fab.groups.foldl (fun s e =>
    let l := e.2.spec
    let uses := (treeSws l).any (fun sw => downSw sw == key) ||
      (treeLeaves l).any (fun x => decide (2 ≤ (treeLeaves l).length) && upKey l (specPlane l * 32 + x) == key) ||
      (specMembers l).any fun m => downPort (corePkg m) (memberLink l m) == key
    if uses && e.2.installed then s.breakGroup e.1 else s) s

/-- A context returns to Free while something of a group is on its way: what the writes that the root has sent down need is kept (R424). -/
def State.keepWrites (s : State) (cx g : Nat) : State :=
  if !s.groupBusy g then s
  else
    let cores := (s.ctx cx).map.map fun e => mapCore (cx / 4) e.1
    let put (m : NatMap (Resid × Seg)) (c : Nat) : NatMap (Resid × Seg) :=
      match s.resid cx c with | some r => m.put c (r, s.seg c (cx % 4) 0) | none => m
    match s.fab.group g with
    | some x => s.setGroup g { x with kept := cores.foldl put x.kept }
    | none => s

/-- A package's groups when a context of it returns to Free (R405): its registrations are withdrawn or cleared. -/
def State.freeGroups (s : State) (cx : Nat) : State :=
  s.fab.groups.foldl (fun s e =>
    if e.2.regs.any fun r => r.cx == cx then ((s.keepWrites cx e.1).clearGroup (cx / 4) cx e.1).2 else s) s

end Sys2Proof.Machine
end

