-- ==== Sys2Proof/Machine/Matrix.lean ====
section
/-! DEFINITION. The matrix unit: tiles, rings, admission, k-steps, accumulator transfers (R254 to R278). -/

namespace Sys2Proof.Machine

/-! Fields of a matrix word (R264). -/

def mAcc (w : Word32) : Nat := bits w.toNat 21 19
def mRa (w : Word32) : Nat := bits w.toNat 18 16
def mRb (w : Word32) : Nat := bits w.toNat 15 13
def mFmt (w : Word32) : Fmt := match bits w.toNat 1 0 with | 0 => .fp8 | 1 => .tf8 | 2 => .bf16 | _ => .tf16
def mQuarter (w : Word32) : Bool := w.getLsbD 2
def mT (w : Word32) : Bool := w.getLsbD 3
def mKh (w : Word32) : Nat := (w.getLsbD 4).toNat
def mMsk (w : Word32) : Bool := w.getLsbD 5
def mZc (w : Word32) : Bool := w.getLsbD 6
def mSc (w : Word32) : Bool := w.getLsbD 7

/-- A ring that a k-step reads: its number, the bytes of its tile, how many slots it reads, whether the k-step pops them. -/
structure Pop where
  ring : Nat
  bytes : Nat
  n : Nat
  pops : Bool

/-- The rings of a matrix instruction, in order RA, RB, RB+1 (R262, R265). -/
def mPops (w : Word32) : List Pop :=
  let b := (mFmt w).bytes
  let comp := if mQuarter w then 2048 * b else 4096 * b
  let meta_ := if mQuarter w then 512 else 1024
  let n := if mT w then 2 else 1
  match vMajor w with
  | 48 => [⟨mRa w, 8192 * b, 1, true⟩, ⟨mRb w, 8192 * b, 1, true⟩]
  | 49 => [⟨mRa w, 8192 * b, 1, true⟩, ⟨mRb w, comp, 1, true⟩, ⟨mRb w + 1, meta_, 1, true⟩]
  | 50 => [⟨mRa w, 8192 * b, 1, true⟩, ⟨mRb w, comp, n, true⟩, ⟨mRb w + 1, meta_, n, true⟩]
  | _ =>
    if mMsk w then [⟨mRa w, 8192 * b, 2, true⟩, ⟨mRb w, 8192 * b, 1, true⟩, ⟨mRb w + 1, meta_, 1, false⟩]
    else [⟨mRa w, 8192 * b, 1, true⟩, ⟨mRb w, 8192 * b, 1, true⟩]

/-! Shares and faults at issue (R254, R257, R208). -/

/-- A context owns a tile, or a ring, on a core. -/
def State.ownsTile (s : State) (c cx n : Nat) : Bool := match s.resid cx c with | some r => r.accs.testBit n | none => false
def State.ownsRing (s : State) (c cx n : Nat) : Bool := match s.resid cx c with | some r => r.rings.testBit n | none => false

/-- ebad of cause 0x0B (R257). -/
def ringBad (ring reason : Nat) : Word := BitVec.ofNat 64 (ring + 256 * reason)

/-- The first ring that faults at issue: unbound or out of range, or with slots too small (R257). Which ring and reason ebad names where
two rings fault is open in the spec: RA, RB and RB + 1 are tested in turn, each for reason 0 and then 1 (DESIGN CHOICE, log 84). -/
def State.ringFault (s : State) (c cx : Nat) (l : List Pop) : Option Word :=
  l.findSome? fun p =>
    if !s.ownsRing c cx p.ring then some (ringBad p.ring 0)
    else match (s.core c).rings.find? p.ring with
      | none => some (ringBad p.ring 0)
      | some r => if r.tile < p.bytes then some (ringBad p.ring 1) else none

/-! Accumulator tiles. -/

/-- The key of an element of a tile. -/
def accKey (tile row col : Nat) : Nat := tile * 4096 + row * 64 + col

def Core.accAt (k : Core) (tile row col : Nat) : Nat := (k.acc.at 0 (accKey tile row col)).toNat

/-- Sets elements of tiles; +0 is not listed. -/
def Core.accPut (k : Core) (l : List (Nat × Nat)) : Core :=
  { k with acc := l.foldl (fun m e => if e.2 = 0 then m.del e.1 else m.put e.1 (BitVec.ofNat 32 e.2)) k.acc }

/-- Every element of a tile becomes +0. -/
def Core.accZero (k : Core) (tile : Nat) : Core := { k with acc := k.acc.keep fun i _ => i / 4096 != tile }

/-! The products of a k-step (R268 to R271). -/

/-- The elements of a slot of a ring: slot j after the head, in order (R256, R262). -/
def State.slotElems (s : State) (s0 : Nat) (r : Ring) (f : Fmt) (j n : Nat) : Array Ex :=
  let b := s0 + r.base + r.tile * ((r.head + j) % r.depth)
  ((List.range n).map fun i => f.decode (s.mem.read (b + i * f.bytes) f.bytes)).toArray

/-- The doublewords of a metadata slot. -/
def State.slotWords (s : State) (s0 : Nat) (r : Ring) (j n : Nat) : Array Nat :=
  let b := s0 + r.base + r.tile * ((r.head + j) % r.depth)
  ((List.range n).map fun i => s.mem.read (b + 8 * i) 8).toArray

def getE (a : Array Ex) (i : Nat) : Ex := a.getD i (.zero false)

/-- The positions that the metadata gives group g of a column: two for the half class, one for the quarter class (R262). -/
def metaAt (quarter : Bool) (m : Array Nat) (col g : Nat) : List Nat :=
  if quarter then [m.getD col 0 / 4 ^ g % 4]
  else
    let nib := m.getD (2 * col + g / 16) 0 / 16 ^ (g % 16) % 16
    [nib % 4, nib / 4]

/-- A half-class word holds an illegal nibble (R262). -/
def badWord (v : Nat) : Bool := (List.range 16).any fun g => decide (v / 16 ^ g % 4 ≥ v / 16 ^ g / 4 % 4)

/-- An element of the dense tile that a compressed tile expands to (R270). -/
def denseAt (quarter : Bool) (bc : Array Ex) (m : Array Nat) (k col : Nat) : Ex :=
  let g := k / 4
  match (metaAt quarter m col g).findIdx? (· == k % 4) with
  | some j => getE bc ((if quarter then g else 2 * g + j) * 64 + col)
  | none => .zero false

/-- What a k-step reads: A or X tiles, B tiles, metadata tiles. -/
structure Operand where
  a : Array Ex
  a1 : Array Ex
  b : Array Ex
  b1 : Array Ex
  m : Array Nat
  m1 : Array Nat

/-- The pairs of factors of an output element (R268 to R271). -/
def mProducts (w : Word32) (o : Operand) (row col : Nat) : List (Ex × Ex) :=
  let q := mQuarter w
  match vMajor w with
  | 48 => (List.range 128).map fun k => (getE o.a (row * 128 + k), getE o.b (k * 64 + col))
  | 49 => (List.range 32).flatMap fun g =>
      let is := metaAt q o.m col g
      (List.range is.length).map fun j =>
        (getE o.a (row * 128 + 4 * g + is.getD j 0), getE o.b ((if q then g else 2 * g + j) * 64 + col))
  | 50 =>
    if mT w then (List.range 128).map fun k =>
      (getE o.a (row * 128 + k),
       if k < 64 then denseAt q o.b o.m (64 * mKh w + col) k else denseAt q o.b1 o.m1 (64 * mKh w + col) (k - 64))
    else (List.range 128).map fun k => (getE o.a (row * 128 + k), denseAt q o.b o.m k col)
  | _ =>
    if mMsk w then
      let g := if q then row else row / 2
      let k := 4 * g + (metaAt q o.m col g).getD (if q then 0 else row % 2) 0
      (List.range 128).map fun m =>
        (if k < 64 then getE o.a (m * 64 + k) else getE o.a1 (m * 64 + k - 64), getE o.b (m * 64 + col))
    else (List.range 128).map fun m => (getE o.a (m * 64 + row), getE o.b (m * 64 + col))

/-- Index of the A scale of an output element (R266, R271). -/
def scaleIdx (w : Word32) (o : Operand) (row col : Nat) : Nat :=
  if vMajor w = 51 ∧ mMsk w then
    let q := mQuarter w
    let g := if q then row else row / 2
    4 * g + (metaAt q o.m col g).getD (if q then 0 else row % 2) 0
  else row

/-- Exact sum of products (R48, R49). -/
def exactSum (l : List (Ex × Ex)) : Ex :=
  match l with
  | [] => .zero false
  | p :: r => r.foldl (fun x e => x.add (e.1.mul e.2)) (p.1.mul p.2)

/-- The promotion of one element (R48, R49): the new pattern of C. Where one scale is infinite and the other zero, their product is
taken by IEEE 754, which makes t NaN also beside a non-zero sum (DESIGN CHOICE, log 77). -/
def promote (c : Nat) (sum sa sb : Ex) : Nat :=
  Fmt.fp32.round .rne 0 true ((Fmt.fp32.decode c).add ((sum.mul sa).mul sb).roundFp32)

/-- Rows that a matrix instruction writes (R271). -/
def mRows (w : Word32) : Nat := if vMajor w = 51 ∧ mMsk w ∧ mQuarter w then 32 else 64

/-! Admission (R255). -/

/-- The tile and the rings that an instruction needs: tiles 0 to 7, rings 8 to 15. -/
def mNeeds (w : Word32) : List Nat :=
  if vMajor w = 52 then (if w.toNat % 1024 = 3 then [8 + bits w.toNat 21 18] else [bits w.toNat 21 18])
  else mAcc w :: (mPops w).map fun p => 8 + p.ring

/-- An entry of the unit may be admitted: nothing it needs is held, or needed by an earlier one (R255). -/
def mayAdmit (q : List MatEntry) (i : Nat) : Bool :=
  match q[i]? with
  | some e => !e.admitted && !((q.take i).any fun x => (mNeeds x.word).any (mNeeds e.word).contains)
  | none => false

/-- An entry leaves the unit. -/
def State.matLeave (s : State) (c tid : Nat) : State :=
  s.modCore c fun k =>
    let i := k.matq.findIdx fun e => e.tid == tid
    if i < k.matq.length then
      { k with matq := k.matq.eraseIdx i, matNext := if i < k.matNext then k.matNext - 1 else k.matNext }
    else k

/-- An ACC-R instruction is complete: a suspended matrix operation of the thread stays as it was (R273). -/
def State.accDone (s : State) (c : Nat) (tid : Nat) (t : Thread) : State := (s.matLeave c tid).retire tid t

/-- A matrix operation is complete (R273): mprog holds n. -/
def State.matDone (s : State) (c : Nat) (tid : Nat) (t : Thread) : State :=
  (s.matLeave c tid).retire tid { t with mat := none }

/-- An operation that has run all its k-steps: a masked mmg pops its metadata, then it is complete (R266). -/
def State.matEnd (s : State) (c tid : Nat) (t : Thread) (w : Word32) (n : Nat) : State :=
  let s := if vMajor w = 51 ∧ mMsk w = true ∧ 0 < n then s.modCore c fun k =>
      match k.rings.find? (mRb w + 1) with
      | some r => { k with rings := k.rings.put (mRb w + 1) { r with head := (r.head + 1) % r.depth, fill := r.fill - 1 } }
      | none => k
    else s
  s.matDone c tid t

/-- What an instruction does as it is admitted (R259, R266, R275). -/
def State.admitted (s : State) (c : Nat) (e : MatEntry) : State :=
  match s.thread e.tid with
  | none => s.matLeave c e.tid
  | some t =>
    let w := e.word
    if vMajor w = 52 then
      match w.toNat % 1024 with
      | 0 => (s.modCore c fun k => k.accZero (bits w.toNat 21 18)).accDone c e.tid t
      | 3 =>
        let r : Ring :=
          { base := e.a.toNat % 2 ^ 32, tile := e.a.toNat / 2 ^ 32, depth := e.b.toNat, head := 0, tail := 0, fill := 0 }
        (s.modCore c fun k => { k with rings := k.rings.put (bits w.toNat 21 18) r }).accDone c e.tid t
      | _ => s
    else match t.mat with
      | some m =>
        -- zc is not applied again where a suspended operation goes on (R273)
        let zc := decide (t.mprog = 0) && mZc w && !m.zeroed
        let t := { t with mat := some { m with zeroed := m.zeroed || zc } }
        let s := (if zc then s.modCore c fun k => k.accZero (mAcc w) else s).setThread e.tid t
        if m.n ≤ t.mprog.toNat then s.matEnd c e.tid t w m.n else s
      | none => s

/-- Admits the entry in a place of the unit, after the admitted ones. -/
def State.admitAt (s : State) (c i : Nat) : State :=
  match (s.core c).matq[i]? with
  | none => s
  | some e =>
    let e := { e with admitted := true, since := s.clock }
    let rest := (s.core c).matq.eraseIdx i
    let n := (rest.takeWhile fun x => x.admitted).length
    (s.modCore c fun k => { k with matq := rest.take n ++ e :: rest.drop n }).admitted c e

/-- A thread enters MatWait with an instruction at the unit, admitted in this turn if it may be (R255). -/
def State.matIssue (s : State) (tid : Nat) (t : Thread) (w : Word32) (a b : Word) (la : Nat := 0) : State :=
  let c := coreOf tid
  let n := (s.core c).matq.length
  let s := (s.modCore c fun k => { k with matq := k.matq ++ [{ tid := tid, word := w, a := a, b := b, la := la, admitted := false, since := 0 }] }).wait
    tid t .mat
  if mayAdmit (s.core c).matq n then s.admitAt c n else s

/-- MATRIX_ADMISSION (R255): A waiting matrix or ACC-R instruction is admitted when its resources are free. -/
def execMatrixAdmission (core : Nat) (s : State) : Out :=
  let q := (s.core core).matq
  match (List.range q.length).find? (mayAdmit q) with
  | some i => .next (s.admitAt core i)
  | none => .next s

/-! Matrix instructions (R266). -/

/-- A matrix instruction's issue (R266, R273): the tile and the rings first; then it goes on with its own suspended operation,
or starts anew with K. -/
def matInstr (w : Word32) (p : BitVec 3) (q : BitVec 1) (k : BitVec 4) (s : State) : Out :=
  frame w 4 p q s (ext := some .matrix) fun tid t s =>
    let c := coreOf tid
    let cx := cxOf c t
    let again := match t.mat with | some m => m.word == w | none => false
    s.operands tid t w (if again then [] else [k]) [] fun v s' =>
      if !s.ownsTile c cx (mAcc w) then s.trap tid t 4 (BitVec.ofNat 64 (mAcc w))
      else match s.ringFault c cx (mPops w) with
        | some e => s.trap tid t 0x0B e
        | none => s.drained tid t <|
          match again, t.mat with
          | true, some m => s'.matIssue tid { t with mat := some { m with live := true } } w 0 0
          | _, _ =>
            s'.matIssue tid { t with mat := some { word := w, n := (nth v 0).toNat % 2 ^ 32, live := true }, mprog := 0 } w 0 0

/-- MMA (R268): Dense matrix multiply-accumulate over k-steps. -/
def execMma (p : BitVec 3) (q : BitVec 1) (acc ra rb : BitVec 3) (k : BitVec 4) (mf : BitVec 9) (s : State) : Out :=
  matInstr (encM 48 p q acc.toNat ra.toNat rb.toNat k.toNat mf.toNat) p q k s

/-- MMS (R269): Selector-sparse matrix multiply-accumulate with metadata. -/
def execMms (p : BitVec 3) (q : BitVec 1) (acc ra rb : BitVec 3) (k : BitVec 4) (mf : BitVec 9) (s : State) : Out :=
  matInstr (encM 49 p q acc.toNat ra.toNat rb.toNat k.toNat mf.toNat) p q k s

/-- MMX (R270): Matrix multiply with expanded, optionally transposed, compressed B. -/
def execMmx (p : BitVec 3) (q : BitVec 1) (acc ra rb : BitVec 3) (k : BitVec 4) (mf : BitVec 9) (s : State) : Out :=
  matInstr (encM 50 p q acc.toNat ra.toNat rb.toNat k.toNat mf.toNat) p q k s

/-- MMG (R271): Weight-gradient matrix operation, dense or masked. -/
def execMmg (p : BitVec 3) (q : BitVec 1) (acc ra rb : BitVec 3) (k : BitVec 4) (mf : BitVec 9) (s : State) : Out :=
  matInstr (encM 51 p q acc.toNat ra.toNat rb.toNat k.toNat mf.toNat) p q k s

/-! One k-step (R263, R267, R272, R273). -/

/-- The slots that a k-step needs are filled (R272). -/
def State.slotsFilled (s : State) (c : Nat) (w : Word32) : Bool :=
  (mPops w).all fun p => match (s.core c).rings.find? p.ring with
    | some r => decide (p.n ≤ r.fill)
    | none => false

/-- Faults of a slot: uncorrectable data, with the s0 address of the unit read, which is the slot (R273, log 32). -/
def State.slotBad (s : State) (s0 : Nat) (r : Ring) (j n : Nat) : Option Trap :=
  let o := r.base + r.tile * ((r.head + j) % r.depth)
  if s.isBad (s0 + o) n then some ⟨8, BitVec.ofNat 64 o⟩ else none

/-- The first illegal metadata word of a half-class slot (R267). -/
def State.metaBad (s : State) (s0 : Nat) (r : Ring) (j : Nat) : Option Trap :=
  let o := r.base + r.tile * ((r.head + j) % r.depth)
  ((List.range 128).find? fun i => badWord (s.mem.read (s0 + o + 8 * i) 8)).map fun i => ⟨0x0A, BitVec.ofNat 64 (o + 8 * i)⟩

/-- The ring that a pop reads. -/
def State.ringOf (s : State) (c n : Nat) : Ring :=
  ((s.core c).rings.find? n).getD { base := 0, tile := 0, depth := 1, head := 0, tail := 0, fill := 0 }

/-- The scale record of a k-step (R263): its local-store key, or its fault. -/
def State.scaleRecord (s : State) (c : Nat) (t : Thread) (j : Nat) : Except Trap Nat :=
  let va := t.scl + BitVec.ofNat 64 (528 * j)
  match s.check c t.ctx va 528 segR 16 with
  | .error x => .error x
  | .ok la =>
    if laRegion la ≠ 1 ∨ laCore la ≠ c then .error ⟨0x0C, va⟩
    else if s.isBad la 528 then .error ⟨8, va⟩
    else .ok la

/-- The instruction reads metadata from ring RB + 1 (R265). -/
def mHasMeta (w : Word32) : Bool := vMajor w == 49 || vMajor w == 50 || (vMajor w == 51 && mMsk w)

/-- The faults of a k-step's slots in order: metadata, then data (R267, R273). A half-class metadata slot that is uncorrectable and
holds an illegal nibble has no rank in the spec: the model tests 0x08 first (log 32). -/
def State.stepFault (s : State) (c : Nat) (s0 : Nat) (w : Word32) : Option Trap :=
  let isMeta (p : Pop) : Bool := mHasMeta w && p.ring == mRb w + 1
  let metas := (mPops w).filter isMeta
  let datas := (mPops w).filter fun p => !isMeta p
  let bad (l : List Pop) : Option Trap :=
    l.findSome? fun p => (List.range p.n).findSome? fun j => s.slotBad s0 (s.ringOf c p.ring) j p.bytes
  let illegal : Option Trap :=
    if mQuarter w then none
    else metas.findSome? fun p => (List.range p.n).findSome? fun j =>
      match s.slotBad s0 (s.ringOf c p.ring) j p.bytes with
      | some x => some x
      | none => s.metaBad s0 (s.ringOf c p.ring) j
  match illegal with
  | some x => some x
  | none => match bad metas with
    | some x => some x
    | none => bad datas

/-- Reads what a k-step reads. -/
def State.operandOf (s : State) (c s0 : Nat) (w : Word32) : Operand :=
  let f := mFmt w
  let ra := s.ringOf c (mRa w)
  let rb := s.ringOf c (mRb w)
  let rm := s.ringOf c (mRb w + 1)
  let nb := if vMajor w = 49 ∨ vMajor w = 50 then (if mQuarter w then 2048 else 4096) else 8192
  let nm := if mQuarter w then 64 else 128
  { a := s.slotElems s0 ra f 0 8192, a1 := if vMajor w = 51 ∧ mMsk w then s.slotElems s0 ra f 1 8192 else #[],
    b := s.slotElems s0 rb f 0 nb, b1 := if mT w then s.slotElems s0 rb f 1 nb else #[],
    m := if vMajor w = 48 then #[] else s.slotWords s0 rm 0 nm, m1 := if mT w then s.slotWords s0 rm 1 nm else #[] }

/-- The new elements of the tile (R266). -/
def State.stepTile (s : State) (c : Nat) (w : Word32) (o : Operand) (scale : Option Nat) : List (Nat × Nat) :=
  let one : Ex := .fin false 1 0
  let fp (k : Nat) : Ex := Fmt.fp32.decode (s.mem.read k 4)
  let sb := match scale with | some k => fp (k + 512) | none => one
  (List.range (mRows w)).flatMap fun row => (List.range 64).map fun col =>
    let sa := match scale with | some k => fp (k + 4 * scaleIdx w o row col) | none => one
    (accKey (mAcc w) row col, promote ((s.core c).accAt (mAcc w) row col) (exactSum (mProducts w o row col)) sa sb)

/-- Pops the slots of a k-step (R266). -/
def Core.popAll (k : Core) (w : Word32) : Core :=
  { k with rings := (mPops w).foldl (fun m p =>
      if p.pops then match m.find? p.ring with
        | some r => m.put p.ring { r with head := (r.head + p.n) % r.depth, fill := r.fill - p.n }
        | none => m
      else m) k.rings }

/-- A fault of a k-step (R273): the operation is suspended, and the thread traps. -/
def State.stepTrap (s : State) (c tid : Nat) (t : Thread) (m : MatOp) (x : Trap) : State :=
  (s.matLeave c tid).trapAt tid { t with mat := some { m with live := false } } t.pc x

/-- Runs the next k-step of an operation (R266). -/
def State.kStep (s : State) (c tid : Nat) (t : Thread) (m : MatOp) : State :=
  let w := m.word
  let s0 := s.s0Base c (cxOf c t)
  let scale : Except Trap (Option Nat) := if mSc w then (s.scaleRecord c t t.mprog.toNat).map some else .ok none
  match scale with
  | .error x => s.stepTrap c tid t m x
  | .ok scale =>
    match s.stepFault c s0 w with
    | some x => s.stepTrap c tid t m x
    | none =>
      let new := s.stepTile c w (s.operandOf c s0 w) scale
      let t := { t with mprog := t.mprog + 1 }
      let s := (s.modCore c fun k => (k.accPut new).popAll w).setThread tid t
      if m.n ≤ t.mprog.toNat then s.matEnd c tid t w m.n else s

/-- The admitted operations from a place on, wrapping round, that can run: place and slot position (R272). -/
def State.runnable (s : State) (c : Nat) : Option (Nat × Nat) :=
  let q := (s.core c).matq.takeWhile fun e => e.admitted
  (List.range q.length).findSome? fun j =>
    let i := ((s.core c).matNext + j) % q.length
    match q[i]? with
    | some e => if vMajor e.word ≠ 52 ∧ s.slotsFilled c e.word = true then some (i, e.tid) else none
    | none => none

/-- MATRIX_K_STEP (R272): The unit runs one k-step of an admitted operation whose slots are filled, completing or faulting it. -/
def execMatrixKStep (core : Nat) (s : State) : Out :=
  match s.runnable core with
  | none => .next s
  | some (i, tid) =>
    match s.thread tid with
    | some t => match t.mat with
      | some m => .next ((s.modCore core fun k => { k with matNext := i + 1 }).kStep core tid t m)
      | none => .next (s.matLeave core tid)
    | none => .next (s.matLeave core tid)

/-! ACC-R (R258 to R261, R275). -/

/-- An ACC-R instruction on a tile of its context (R254). -/
def tileInstr (w : Word32) (p : BitVec 3) (q : BitVec 1) (n : Nat) (srcs : List (BitVec 4)) (s : State)
    (f : Nat → Thread → State → List Word → State → State) : Out :=
  act w 4 p q srcs [] s (ext := some .matrix) fun tid t s0 v s =>
    if !s.ownsTile (coreOf tid) (cxOf (coreOf tid) t) n then s0.trap tid t 4 (BitVec.ofNat 64 n) else f tid t s0 v s

/-- ACCZ (R275): Sets an accumulator tile to +0. -/
def execAccz (p : BitVec 3) (q : BitVec 1) (t : BitVec 3) (s : State) : Out :=
  tileInstr (encR 52 p q (t.toNat) (0) (0) (0)) p q t.toNat [] s fun tid th _ _ s => s.matIssue tid th (encR 52 p q (t.toNat) (0) (0) (0)) 0 0

/-- The control word of accrd and accwr is legal (R275). -/
def accControl (v : Nat) (read : Bool) : Bool :=
  decide (v < 2 ^ 32) && bits v 15 8 == 0 && decide (v % 16 < 12) && (read || bits v 7 6 == 0)

/-- Bytes between the rows of a transfer (R275). -/
def accPitch (v : Nat) (f : Fmt) : Nat := if bits v 31 16 = 0 then 64 * f.bytes else bits v 31 16

/-- The first row of a transfer that fails its checks, uncorrectable data among them for accwr (R275, R131). -/
def State.rowFault (s : State) (c : Nat) (t : Thread) (a : Word) (v : Nat) (f : Fmt) (need : Nat) : Option Trap :=
  (List.range 64).findSome? fun row =>
    let va := a + BitVec.ofNat 64 (accPitch v f * row)
    match s.check c t.ctx va (64 * f.bytes) need f.bytes with
    | .error x => some x
    | .ok la =>
      if laRegion la ≠ 1 ∨ laCore la ≠ c then some ⟨0x0C, va⟩
      else if need = segR ∧ s.isBad la (64 * f.bytes) = true then some ⟨8, va⟩ else none

/-- The linear address of a segmented address that has passed its checks (R130, R131). -/
def State.s0Linear (s : State) (c : Nat) (t : Thread) (va : Word) : Nat :=
  (if vaSeg va = 0 then s.s0Base c (cxOf c t) else (s.seg c t.ctx (vaSeg va)).base) + vaOff va

/-- The issue of a transfer (R275): the place that its checks give its first row stays with it. -/
def transferInstr (w : Word32) (p : BitVec 3) (q : BitVec 1) (n : Nat) (a b : BitVec 4) (read : Bool) (s : State) : Out :=
  tileInstr w p q n [a, b] s fun tid t s0 v s =>
    let x := (nth v 1).toNat
    if !accControl x read then s0.trap tid t 1 (w.setWidth 64)
    else match Fmt.ofCode (x % 16) with
      | none => s0.trap tid t 1 (w.setWidth 64)
      | some f =>
        match s.rowFault (coreOf tid) t (nth v 0) x f (if read then segW else segR) with
        | some y => s0.trapAt tid t t.pc y
        | none =>
          s0.drained tid t (s.matIssue tid t w (nth v 0) (nth v 1) (s.s0Linear (coreOf tid) t (nth v 0)))

/-- ACCRD (R275): Converts a tile into local-store rows. -/
def execAccrd (p : BitVec 3) (q : BitVec 1) (t : BitVec 3) (a b : BitVec 4) (s : State) : Out :=
  transferInstr (encR 52 p q (t.toNat) (a.toNat) (b.toNat) (1)) p q t.toNat a b true s

/-- ACCWR (R275): Loads a tile from local-store rows. -/
def execAccwr (p : BitVec 3) (q : BitVec 1) (t : BitVec 3) (a b : BitVec 4) (s : State) : Out :=
  transferInstr (encR 52 p q (t.toNat) (a.toNat) (b.toNat) (2)) p q t.toNat a b false s

/-- Rounds values one after another, with one draw each when stochastic (R45, R275). -/
def State.roundAll (s : State) (tid cx : Nat) (f : Fmt) (mode : RMode) (sat : Bool) : List Ex → List Nat × State
  | [] => ([], s)
  | x :: r =>
    let a := s.roundTo tid cx f mode sat x
    let b := State.roundAll a.2 tid cx f mode sat r
    (a.1 :: b.1, b.2)

/-- Row and column in row-major order. -/
def tileOrder : List (Nat × Nat) := (List.range 4096).map fun i => (i / 64, i % 64)

/-- A transfer moves its elements (R275): its rows keep the local-store place that they were checked at, whatever has become of the
segment since. -/
def State.transfer (s : State) (c tid : Nat) (t : Thread) (e : MatEntry) (f : Fmt) : State :=
  let x := e.b.toNat
  let cx := cxOf c t
  let tile := bits e.word.toNat 21 18
  let read := e.word.toNat % 1024 == 1
  let key (i : Nat × Nat) : Nat := e.la + accPitch x f * i.1 + i.2 * f.bytes
  let mode := modeOf (BitVec.ofNat 2 (bits x 5 4)) t.rnd
  if read then
    let r := s.roundAll tid cx f mode (x.testBit 6) (tileOrder.map fun i => Fmt.fp32.decode ((s.core c).accAt tile i.1 i.2))
    let s := (tileOrder.zip r.1).foldl (fun s y => s.store (key y.1) f.bytes y.2) r.2
    (if x.testBit 7 then s.modCore c fun k => k.accZero tile else s).accDone c tid t
  else match tileOrder.find? fun i => s.isBad (key i) f.bytes with
    | some i => (s.matLeave c tid).trap tid t 8 (e.a + BitVec.ofNat 64 (accPitch x f * i.1))
    | none =>
      let r := s.roundAll tid cx .fp32 mode true (tileOrder.map fun i => f.decode (s.mem.read (key i) f.bytes))
      (r.2.modCore c fun k => k.accPut ((tileOrder.map fun i => accKey tile i.1 i.2).zip r.1)).accDone c tid t

/-- ACC_TRANSFER_DONE (R275): 72 cycles after admission an accumulator transfer writes its last element and the thread becomes Ready. -/
def execAccTransferDone (tid : Nat) (s : State) : Out :=
  match s.thread tid, (s.core (coreOf tid)).matq.find? fun e => e.tid == tid with
  | some t, some e =>
    if e.admitted = true ∧ vMajor e.word = 52 ∧ e.since + 72 ≤ s.clock then
      match Fmt.ofCode (e.b.toNat % 16) with
      | some f => .next (s.transfer (coreOf tid) tid t e f)
      | none => .next s
    else .next s
  | _, _ => .next s

/-- RINGSET (R259): Binds a ring register from a ring descriptor. -/
def execRingset (p : BitVec 3) (q : BitVec 1) (t : BitVec 3) (a : BitVec 4) (s : State) : Out :=
  act (encR 52 p q (t.toNat) (a.toNat) (0) (3)) 4 p q [a] [] s (ext := some .matrix) fun tid u s0 v s =>
    let c := coreOf tid
    let cx := cxOf c u
    let d := s.seg c u.ctx 0
    if !s.ownsRing c cx t.toNat then s0.trap tid u 0x0B (ringBad t.toNat 0)
    else match s.check c u.ctx (nth v 0) 16 segR 16 with
      | .error x => s0.trapAt tid u u.pc x
      | .ok la =>
        if laRegion la ≠ 1 ∨ laCore la ≠ c then s0.trap tid u 0x0C (nth v 0)
        else if s.isBad la 16 then s0.trap tid u 8 (nth v 0)
        else
          let base := s.mem.read la 4
          let tile := s.mem.read (la + 4) 4
          let depth := s.mem.read (la + 8) 2
          if s.mem.read (la + 10) 6 ≠ 0 ∨ base % 256 ≠ 0 ∨ tile % 256 ≠ 0 ∨ tile < 256 ∨ 65536 < tile ∨ depth < 1 ∨ 128 < depth ∨
              d.limit < base + tile * depth ∨ d.rights % 2 = 0 then s0.trap tid u 4 (nth v 0)
          else s0.drained tid u (s.matIssue tid u (encR 52 p q (t.toNat) (a.toNat) (0) (3)) (BitVec.ofNat 64 (base + tile * 2 ^ 32)) (BitVec.ofNat 64 depth))

/-- RINGST (R260): Marks n ring slots filled. -/
def execRingst (p : BitVec 3) (q : BitVec 1) (t : BitVec 3) (b : BitVec 4) (s : State) : Out :=
  act (encR 52 p q (t.toNat) (0) (b.toNat) (4)) 4 p q [b] [] s (ext := some .matrix) fun tid u s0 v s =>
    let c := coreOf tid
    let n := (nth v 0).toNat % 65536
    if !s.ownsRing c (cxOf c u) t.toNat then s0.trap tid u 0x0B (ringBad t.toNat 0)
    else match (s.core c).rings.find? t.toNat with
      | none => s0.trap tid u 0x0B (ringBad t.toNat 0)
      | some r =>
        if r.depth - r.fill < n then s0.trap tid u 0x0B (ringBad t.toNat 2)
        else s0.drained tid u ((s.modCore c fun k =>
          { k with rings := k.rings.put t.toNat { r with tail := (r.tail + n) % r.depth, fill := r.fill + n } }).retire tid u)

/-- A ring's state as mpget writes it (R261). -/
def Ring.word (r : Ring) (held : Bool) : Nat :=
  2 ^ 63 + held.toNat * 2 ^ 62 + r.depth * 2 ^ 24 + r.fill * 2 ^ 16 + r.tail * 2 ^ 8 + r.head

/-- An admitted instruction holds a ring (R255). -/
def Core.holdsRing (k : Core) (n : Nat) : Bool := k.matq.any fun e => e.admitted && (mNeeds e.word).contains (8 + n)

/-- MPGET (R261): Reads a ring register's state. -/
def execMpget (p : BitVec 3) (q : BitVec 1) (d : BitVec 4) (t : BitVec 3) (s : State) : Out :=
  act (encR 52 p q (d.toNat) (t.toNat) (0) (5)) 4 p q [] [d] s (ext := some .matrix) fun tid u s0 _ s =>
    let c := coreOf tid
    if !s.ownsRing c (cxOf c u) t.toNat then s0.trap tid u 0x0B (ringBad t.toNat 0)
    else
      let v := match (s.core c).rings.find? t.toNat with
        | some r => r.word ((s.core c).holdsRing t.toNat)
        | none => 0
      s0.drained tid u (s0.finish s tid u (encR 52 p q (d.toNat) (t.toNat) (0) (5)) d (BitVec.ofNat 64 v))

/-- A spill of a thread in MatWait (R274): its entry leaves the unit, and a matrix operation is suspended. -/
def State.matSuspend (s : State) (tid : Nat) (t : Thread) : State × Thread :=
  (s.matLeave (coreOf tid) tid, { t with mat := t.mat.map fun m => { m with live := false } })

end Sys2Proof.Machine
end

