-- ==== Sys2Proof/Machine/Switch.lean ====
section
/-! DEFINITION. Spilling and resuming threads (R90, R190, R191, R320 to R322). -/

namespace Sys2Proof.Machine

/-- A thread is at an instruction boundary with no access, request or collective outstanding (R90, R66). Only a collective that the thread
itself waits for counts: one that slot 15 issued through x1 (R416) does not hold its thread and is not its own (DESIGN CHOICE, log 85). -/
def Thread.quiet (t : Thread) : Bool :=
  t.relaxed.isEmpty && !t.prefixed && match t.wait with
    | .mem r => r.kind == .drain
    | .held .fabric => false
    | _ => true

/-- A thread may be taken from its slot, to be saved or stopped (R90, R66): at a boundary, with no fault found and not yet delivered,
which its next issue turn delivers (R143, R188, log 41). -/
def Thread.boundary (t : Thread) : Bool :=
  t.quiet && (t.wait == .stopped || (t.relFault.isNone && (t.vecFault.isNone || t.seq.frozen)))

/-- Abandons a wait (R90): an arrival at a barrier is withdrawn, a matrix operation suspended; the thread is as its packet
saves it. -/
def State.abandon (s : State) (tid : Nat) (t : Thread) : State × Thread :=
  let s := s.withdraw tid t
  let t := { t with arrived := none, noEntry := none, replayFrom := none }
  match t.wait with
  | .mat => s.matSuspend tid { t with wait := .ready }
  | .stopped => (s, t)
  | _ => (s, { t with wait := .ready })

/-- The access of a slot position's hardware to the thread's record in its context's save area, through the cluster's memory port (R288,
R316): what it does at the record's place once a page that misses the TLB is walked for (R294); it tries again where no entry covers
the page. -/
def State.atRecord (s : State) (tid cx : Nat) (k : Loc → State → State) : State :=
  let c := coreOf tid
  match s.resid cx c with
  | none => s
  | some r =>
    let off := canonLa (corePkg c) (r.savebase + 512 * slotOf tid)
    s.withPages (.slot tid) (clusterOf c) [off] fun s =>
      match s.portPlaceOf (.slot tid) (clusterOf c) off with
      | (none, _) => s
      | (some l, s) => k l (s.heardAt c l)

/-- A switch is complete on every core of a package (R321). -/
def State.switchDone (s : State) (pkg : Nat) : Bool :=
  (s.pkg pkg).prios.isEmpty && s.cores.all fun e => corePkg e.1 != pkg || e.2.toSpill.isEmpty

/-- Answers the priority commands of a package once their switch is complete (R321). -/
def State.answerSwitches (s : State) (pkg : Nat) : State :=
  if s.switchDone pkg then
    (s.pkg pkg).switches.foldl (fun s e => s.respond pkg e.1 e.2.1 2 e.2.2 0 []) (s.modPkg pkg fun k => { k with switches := [] })
  else s

/-- A slot is no longer to be spilled. -/
def State.spilt (s : State) (tid : Nat) : State :=
  (s.modCore (coreOf tid) fun k => { k with toSpill := NatSet.remove k.toSpill (slotOf tid) }).answerSwitches (corePkg (coreOf tid))

/-- SPILL (R190): The spill engine writes one slot's packet to its save record and the slot becomes Vacant. -/
def execSpill (tid : Nat) (s : State) : Out :=
  let c := coreOf tid
  if !NatSet.has (s.core c).toSpill (slotOf tid) then .next s
  else match s.thread tid with
    | none =>
      -- a slot whose migration or steal is under way may still get a thread (R173, R204)
      if NatSet.has (s.core c).reserved (slotOf tid) then .next s else .next (s.spilt tid)
    | some t =>
      let cx := cxOf c t
      if s.serves tid t.ctx then .next (s.spilt tid)
      else if !t.boundary then .next s
      else .next (s.atRecord tid cx fun l s =>
        if s.sealedAt l then s
        else
          let a := s.abandon tid t
          let s := a.1.storeBytes l.key (a.2.record c (s.wakePending tid t.ctx) 8)
          let m : SavedMark := { frozen := t.seq.frozen, row := t.row, handler := t.handler, passBp := t.passBp, zeroed := t.zeroed }
          ((s.vacate tid).modCtx cx fun k => { k with saved := k.saved.put tid m }).spilt tid)

/-- SPILL_RESUME (R191): A saved packet is resumed into its own slot, Ready, also one of a thread that was spilled Stopped (log 41), and
reissues its instruction. A record with uncorrectable data in its 128 or 512 bytes stays saved (log 41). -/
def execSpillResume (tid cx : Nat) (s : State) : Out :=
  let c := coreOf tid
  match (s.ctx cx).saved.find? tid with
  | none => .next s
  | some m =>
    if !(s.serves tid (cx % 4) && (s.thread tid).isNone && !NatSet.has (s.core c).reserved (slotOf tid) && s.running cx &&
        !(s.core c).disabled) then .next s
    else .next (s.atRecord tid cx fun l s =>
      let b := s.mem.bytes l.key 512
      if s.isBad l.key (if packetExt b then 512 else 128) then s
      else
        let t := Thread.ofRecord b m.frozen m.row m.zeroed
        let t := { t with ctx := cx % 4, handler := m.handler, passBp := m.passBp }
        let s' := s.modCtx cx fun k => { k with saved := k.saved.del tid }
        if (s.ctx cx).replay = 2 then ((s'.traceBind tid cx t.pc).map fun s => s.seat tid t).getD s
        else (s'.bind tid cx 7 2 t).getD s)

end Sys2Proof.Machine
end

