-- ==== Sys2Proof/Machine/Log.lean ====
section
/-! DEFINITION. The dies' log units and replay (R356 to R374, R381), time (R364, R402), the time account (R221, R222). -/

namespace Sys2Proof.Machine

/-! Rings (R356 to R359). -/

/-- A record's 32 bytes (R359). -/
def Rec.bytes (r : Rec) : List Byte :=
  leBytes 8 r.ts ++ leBytes 4 r.src ++ leBytes 1 r.kind ++ leBytes 3 r.seq ++ leBytes 8 r.obj ++ leBytes 4 r.pc ++ leBytes 4 r.out

/-- The record that 32 bytes hold (R359). -/
def Rec.ofBytes (l : List Byte) : Rec :=
  { ts := field l 0 8, src := field l 8 4, kind := field l 12 1, seq := field l 13 3, obj := field l 16 8, pc := field l 24 4,
    out := field l 28 4 }

/-- The linear address of record index i of a ring (R356). -/
def LogUnit.recordAt (l : LogUnit) (i : Nat) : Nat := l.base.toNat + 32 * (i % (l.size.toNat / 32))

/-- The place of a record of a die's ring, in region 0 or by the region-2 address that names this package (R132); none where its page has
no entry. -/
def State.recordPlace (s : State) (cx die i : Nat) : Option Loc :=
  let at_ := ((s.ctx cx).log die).recordAt i
  let la := canonLa (cx / 4) at_
  if 2 ^ 60 ≤ at_ then none
  else ((s.pkg (cx / 4)).walk die la).map fun (_, e) => .hbm (cx / 4) la (physOf e.vpn e.pfn la)

/-- An append at a place fails (R381): an unmapped page, uncorrectable data, or a seal (R158). -/
def State.appendFails (s : State) : Option Loc → Bool
  | none => true
  | some l => s.isBad l.key 32 || s.sealedAt l

/-- The source word of a die's log unit (R360). -/
def srcLog (pkg die : Nat) : Nat := srcUnit pkg die 760

/-- The next record that a die's log unit has to append: its unit appends, and the ring has a free slot (R358, R374). -/
def State.nextAppend (s : State) (cx die : Nat) : Option Rec :=
  let l := (s.ctx cx).log die
  if l.stopped || decide (l.size.toNat / 32 ≤ l.prod.toNat - l.cons.toNat) then none else l.pending.head?

/-- LOG_APPEND (R367): The die log unit writes a record into the ring and advances logprod. -/
def execLogAppend (cx die : Nat) (s : State) : Out :=
  let l := (s.ctx cx).log die
  match s.nextAppend cx die, s.recordPlace cx die l.prod.toNat with
  | some r, some p =>
    if s.appendFails (some p) then .next s
    else
      .next (((s.heardAt (diePlace (2 * (cx / 4) + die)) p).storeBytes p.key r.bytes).modCtx cx fun k =>
        k.setLog die { l with prod := l.prod + 1, pending := l.pending.drop 1 })
  | _, _ => .next s

/-- A context is reported to every host (R381, R398). -/
def State.reportCtx (s : State) (cx : Nat) : State :=
  (s.pkg (cx / 4)).hosts.foldl (fun s h => s.say (.report (cx / 4) h (cx % 4))) s

/-- A die's log unit stops appending for a context (R381): a record of kind 0x84 and detail 5 goes to the host. -/
def State.stopLog (s : State) (cx die : Nat) : State :=
  let l := (s.ctx cx).log die
  if l.stopped then s
  else
    let s := s.modCtx cx fun k => k.setLog die { l with stopped := true }
    let r : Rec := { ts := s.time (diePlace (2 * (cx / 4) + die)), src := srcLog (cx / 4) die, kind := 0x84, seq := 0,
                     obj := l.recordAt l.prod.toNat, pc := 0, out := 5 }
    -- in replay mode behind the records that come before it (R374)
    (if (s.ctx cx).replay = 2 then s.traceHost (cx / 4) r else s.say (.trace (cx / 4) r)).reportCtx cx

/-- LOG_APPEND_FAILURE (R381): An append that meets an unmapped or bad page stops appending and holds logging threads. -/
def execLogAppendFailure (cx die : Nat) (s : State) : Out :=
  match s.nextAppend cx die with
  | some _ =>
    if s.appendFails (s.recordPlace cx die ((s.ctx cx).log die).prod.toNat) then .next (s.stopLog cx die) else .next s
  | none => .next s

/-! Replay (R369 to R371). -/

/-- The first loaded record of a die that its log unit has not read yet (R358, R369). -/
def LogUnit.unread (l : LogUnit) : Option Nat :=
  let i := Nat.max l.nextRead l.prod.toNat
  if i < l.cons.toNat ∧ l.stopped = false then some i else none

/-- REPLAY_RECORD_DISPATCH (R369): The log unit reads a loaded record and passes it to the serialisation point of its object; one
of a KIND that is never written is retired without effect (R381). -/
def execReplayRecordDispatch (cx die : Nat) (s : State) : Out :=
  let l := (s.ctx cx).log die
  match (if (s.ctx cx).replay = 2 then l.unread else none) with
  | none => .next s
  | some i =>
    match s.recordPlace cx die i with
    | none => .next (s.stopLog cx die)
    | some p =>
      let s := s.heardAt (diePlace (2 * (cx / 4) + die)) p
      if s.isBad p.key 32 then .next (s.stopLog cx die)
      else
        let r := Rec.ofBytes (s.mem.bytes p.key 32)
        if r.kind = 0 ∨ 15 < r.kind then
          .next ((s.modCtx cx fun k => k.setLog die ({ l with nextRead := i + 1 }.retire i)).traceHard cx die
            { ts := s.time (diePlace (2 * (cx / 4) + die)), src := srcLog (cx / 4) die, kind := 0x86, seq := 0, obj := r.obj, pc := 0,
              out := 1 + (s.ctx cx).seqs.at 0 r.obj % 2 ^ 24 * 256 })
        else
          let s := s.modCtx cx fun k => k.setLog die { l with nextRead := i + 1, dispatched := l.dispatched ++ [(i, r)] }
          .next (s.passResumes cx r.obj ((s.ctx cx).log0.dispatched.length + (s.ctx cx).log1.dispatched.length))

/-- A wait since one time is longer than the context's limit (R371). -/
def State.tooLong (s : State) (cx place since : Nat) : Bool :=
  decide ((s.ctx cx).replay = 2) && (s.ctx cx).rtimeout != 0 && decide (since + (s.ctx cx).rtimeout.toNat < s.time place)

/-- The place of a source word: a core, an engine, a thinning unit, a fabric port's core or a log unit (R360). -/
def placeOfSrc (src : Nat) : Nat :=
  let pkg := bits src 31 19
  let die := bits src 18 18
  let n := bits src 17 8
  if n < 640 then coreAt pkg die n
  else if n < 704 then engPlace (128 * pkg + 64 * die + (n - 640))
  else if n < 720 then thinPlace (32 * pkg + 16 * die + (n - 704))
  else if n < 760 then portPlace pkg (n - 720 + 18 * die) else diePlace (2 * pkg + die)

/-- A thread's wait for its position ends in a divergence (R371): its requests and its arrival at a barrier are withdrawn. -/
def State.replayExpires (s : State) (tid : Nat) (t : Thread) (obj : Nat) : State :=
  let cx := cxOf (coreOf tid) t
  ((s.dropRequests tid).withdraw tid t).diverge tid { t with arrived := none } obj 3 ((s.ctx cx).seqs.at 0 obj)

/-- REPLAY_WAIT_TIMEOUT (R371): A replay wait exceeds rtimeout and raises divergence reason 3 or writes a trace record. tid is a slot
position's thread, or from 2^32 on a unit's or a Vacant slot's wait: the context and, from 2^48 on, the wait's key. -/
def execReplayWaitTimeout (tid : Nat) (s : State) : Out :=
  if tid < 2 ^ 32 then
    match s.thread tid with
    | some t =>
      match t.replayFrom with
      | some (since, obj) =>
        if s.tooLong (cxOf (coreOf tid) t) (coreOf tid) since then .next (s.replayExpires tid t obj) else .next s
      | none => .next s
    | none => .next s
  else
    let cx := tid / 2 ^ 32 % 2 ^ 16 - 1
    let key := tid / 2 ^ 48
    let src := key % 2 ^ 32
    let obj := key / 2 ^ 32
    match (s.ctx cx).waits.find? key with
    | some (since, _) =>
      if s.tooLong cx (placeOfSrc src) since then
        .next (s.unitDiverges cx (bits src 18 18) (placeOfSrc src) src obj 3 ((s.ctx cx).seqs.at 0 obj))
      else .next s
    | none => .next s

/-- The end of a replay (R366): every wait of R369 ends, and loaded records that were not retired are discarded. -/
def Context.replayEnds (k : Context) : Context :=
  let f (l : LogUnit) : LogUnit := { l with cons := l.prod, dispatched := [], retired := [], nextRead := l.prod.toNat }
  { k with log0 := f k.log0, log1 := f k.log1, waits := [] }

/-! Time (R364, R402). -/

/-- TIME_MESSAGE (R402): A domain time message arrives and advances D without letting it decrease. It carries a time that the master has
sent, and the measured delay keeps D within 50 ns of the master's (log 8). -/
def execTimeMessage (pkg carried delay : Nat) (s : State) : Out :=
  if carried ≤ s.fab.sent ∧ carried + delay ≤ s.ticks + 50 then
    .next (s.modPkg pkg fun k => { k with d := Nat.max k.d (carried + delay - s.ticks) })
  else .next s

/-- The master spine of plane 0 is up (R402). -/
def Fabric.masterUp (f : Fabric) : Bool := !NatSet.has f.down (downSw (spineSw 0 f.master))

/-- MASTER_TIME_FAILOVER (R402): The lowest-numbered up spine of plane 0 takes over as time master. -/
def execMasterTimeFailover (s : State) : Out :=
  if s.fab.masterUp = false then
    match (List.range 9).find? fun i => !NatSet.has s.fab.down (downSw (spineSw 0 i)) with
    | some i => .next (s.modFab fun f => { f with master := i })
    | none => .next s
  else .next s

/-- TIME_STAMP_COUNTER_TICK (R364): Each nanosecond every time-stamp counter T becomes max(T, D), and the domain counter D advances by
one nanosecond. Each microsecond the master sends its time (R402); trace records that no later one can come before go to the hosts
(R374). -/
def execTimeStampCounterTick (s : State) : Out :=
  let s : State := { s with ticks := s.ticks + 1 }
  let s := if s.ticks % 1000 = 0 ∧ s.fab.masterUp = true then s.modFab fun f => { f with sent := s.ticks } else s
  .next (s.pkgs.foldl (fun s e => if e.2.traces.isEmpty then s else s.flushTraces e.1) s)

/-! The time account (R221, R222). -/

/-- The class of a position by its occupant's state: issued 0, memory-wait 1, message-wait 2, held 3, vacant 4 (R88). -/
def acctClass (t : Option Thread) : Nat :=
  match t with
  | none => 4
  | some t => match t.wait with
    | .ready => 0 | .mem _ => 1 | .page _ _ => 1 | .sync => 2 | .mat => 3 | .held _ => 3 | .stopped => 4

/-- Adds 1 to a counter of the account: 6 x position + class, 5 for donated issues, 96 + bucket for the histogram. -/
def Core.count (k : Core) (i : Nat) : Core :=
  if k.acctRun then { k with acctCnt := k.acctCnt.put i ((k.acctCnt.at 0 i + 1) % 2 ^ 64) } else k

/-- Cycles from a to b - 1 that belong to a position. -/
def cyclesOf (p a b : Nat) : Nat := (b + 15 - p) / 16 - (a + 15 - p) / 16

/-- Counts the cycles that a core passed before it had work: every position Vacant, no slot Ready (R222). -/
def Core.countIdle (k : Core) (now : Nat) : Core :=
  if k.acctRun = false ∨ now ≤ k.counted then k
  else
    let add (m : NatMap Nat) (i n : Nat) : NatMap Nat := m.put i ((m.at 0 i + n) % 2 ^ 64)
    let m := (List.range 16).foldl (fun m p => add m (6 * p + 4) (cyclesOf p k.counted now)) k.acctCnt
    { k with acctCnt := add m 96 (now - k.counted) }

/-- Slots of a core whose thread is Ready. -/
def State.readySlots (s : State) (c : Nat) : Nat :=
  ((List.range 16).filter fun x => match s.thread (16 * c + x) with | some t => decide (t.wait = .ready) | none => false).length

/-- Counts one cycle of a core before its issue turn (R222). -/
def State.countCycle (s : State) (c : Nat) : State :=
  let cls := acctClass (s.thread (16 * c + s.clock % 16))
  s.modCore c fun k =>
    { (((k.countIdle s.clock).count (6 * (s.clock % 16) + cls)).count (96 + s.readySlots c)) with counted := s.clock + 1 }

/-- Takes back one count of a counter of the account. -/
def Core.uncount (k : Core) (i : Nat) : Core :=
  let v := (k.acctCnt.at 0 i + (2 ^ 64 - 1)) % 2 ^ 64
  { k with acctCnt := if v = 0 then k.acctCnt.del i else k.acctCnt.put i v }

/-- The thread of a position that waited as its cycle began turns Ready in it and issues: the cycle counts as issued, with one more slot
Ready (R88, R222). before is the state as the turn began. -/
def State.recount (s before : State) (c : Nat) : State :=
  let p := before.clock % 16
  let cls := acctClass (before.thread (16 * c + p))
  let n := before.readySlots c
  s.modCore c fun k =>
    if (before.core c).acctRun = true ∧ (before.core c).counted = before.clock + 1 then
      let k' := ((k.uncount (6 * p + cls)).uncount (96 + n))
      { k' with acctCnt := (k'.acctCnt.put (6 * p) ((k'.acctCnt.at 0 (6 * p) + 1) % 2 ^ 64)).put (96 + n + 1)
                             ((k'.acctCnt.at 0 (96 + n + 1) + 1) % 2 ^ 64) }
    else k

/-- TIME_ACCOUNT_CYCLE (R222): While RUN is 1, every core cycle adds 1 to the class counter of position c mod 16 and to the
Ready-count histogram bucket. A wait that ends in the position's own turn moves the count afterwards (State.recount). -/
def execTimeAccountCycle (core : Nat) (s : State) : Out := .next (s.countCycle core)

end Sys2Proof.Machine
end

