-- ==== Sys2Proof/Machine/Failures.lean ====
section
/-! DEFINITION. The health word (R399), and what each failure comes to (R224, R312, R328, R351, R381, R383, R385, R398, R419). -/

namespace Sys2Proof.Machine

/-! The health word (R399). -/

/-- The health word is sent to every host. -/
def State.tellHealth (s : State) (pkg : Nat) : State :=
  (s.pkg pkg).hosts.foldl (fun s h => s.say (.health pkg h (s.pkg pkg).health)) s

/-- Sets the health word; each change is sent to every host. -/
def State.setHealth (s : State) (pkg : Nat) (w : Word) : State :=
  if w = (s.pkg pkg).health then s else (s.modPkg pkg fun k => { k with health := w }).tellHealth pkg

/-- Adds n to the field hi..lo of a word, with saturation. -/
def addField (w : Word) (hi lo n : Nat) : Word :=
  let v := bits w.toNat hi lo
  BitVec.ofNat 64 (w.toNat - v * 2 ^ lo + min (2 ^ (hi + 1 - lo) - 1) (v + n) * 2 ^ lo)

/-- RREQ, SPX, THR. -/
def rreq : Word := 0x8000000000000000
def spx : Word := 0x4000000000000000
def thr : Word := 0x2000000000000000

/-- Something fails in a package: an earlier repair no longer covers all that has failed (R399, log 71). -/
def State.unrepaired (s : State) (pkg : Nat) : State := s.modPkg pkg fun k => { k with repaired := false }

/-- The replacement request is raised, and a count of what was lost advances. -/
def State.lost (s : State) (pkg hi lo n : Nat) : State :=
  (s.unrepaired pkg).setHealth pkg (addField ((s.pkg pkg).health ||| rreq) hi lo n)

/-- A channel of a stack among those of a package, and the channel that holds a physical address (R384). -/
def chanKey (stack chan : Nat) : Nat := 32 * stack + chan
def chanOfPhys (phys : Nat) : Nat := chanKey (phys / 2 ^ 36) (channelOf phys)

/-- Corrected errors that a channel reported within the last second (R385). -/
def State.chanErrors (s : State) (pkg key : Nat) : List Nat :=
  ((s.pkg pkg).chanErrs.at [] key).filter fun x => decide (s.ticks < x + 10 ^ 9)

/-- A channel reports a corrected error (R385). -/
def State.chanError (s : State) (pkg key : Nat) : State :=
  s.modPkg pkg fun k => { k with chanErrs := k.chanErrs.put key (s.chanErrors pkg key ++ [s.ticks]) }

/-- CORRECTED_ERROR (R224): A single-bit error is corrected and counted in the health status; one in HBM, at a physical address, is reported
by its channel (R385). -/
def execCorrectedError (pkg : Nat) (phys : Option Nat) (s : State) : Out :=
  let s := s.setHealth pkg (addField (s.pkg pkg).health 55 40 1)
  .next (match phys with | some a => s.chanError pkg (chanOfPhys a) | none => s)

/-! Threads that stop (R224, R312, R328, R381, R383, R398). -/

/-- A thread becomes Stopped at once with a trace record; what it waited for is withdrawn. -/
def State.stopNow (s : State) (tid detail : Nat) : State :=
  match s.thread tid with
  | none => s
  | some t =>
    if t.wait = .stopped then s
    else
      let a := (s.dropRequests tid).abandon tid t
      a.1.stopThread tid a.2 detail

/-- Every thread that satisfies a test stops. -/
def State.stopAll (s : State) (f : Nat → Thread → Bool) (detail : Nat) : State :=
  (s.threads.filter fun e => f e.1 e.2).foldl (fun s e => s.stopNow e.1 detail) s

/-- Contexts present on a core are reported. -/
def State.reportCore (s : State) (c : Nat) : State :=
  (s.present c).foldl (fun s x => s.reportCtx (4 * corePkg c + x)) s

/-- UNCORRECTABLE_THREAD_STATE (R224): An uncorrectable error in a thread's registers stops it and asks to disable the core. -/
def execUncorrectableThreadState (tid : Nat) (s : State) : Out :=
  if (s.thread tid).isSome then .next ((s.stopNow tid 3).modCore (coreOf tid) fun k => { k with asks := true }) else .next s

/-- UNCORRECTABLE_CORE_STATE (R224): An uncorrectable error in deque, port table or core register stops every resident thread. -/
def execUncorrectableCoreState (core : Nat) (s : State) : Out :=
  .next ((s.stopAll (fun tid _ => coreOf tid == core) 3).modCore core fun k => { k with asks := true })

/-- CORE_DISABLE (R398): A disabled core's threads stop and its logical duties move to the next enabled core. -/
def execCoreDisable (core : Nat) (s : State) : Out :=
  if (s.core core).disabled then .next s
  else
    let s := s.stopAll (fun tid _ => coreOf tid == core) 3
    .next (((s.modCore core fun k => { k with disabled := true, asks := false }).lost (corePkg core) 15 0 1).reportCore core)

/-! The cluster (R312, R351). -/

/-- TLB_ENTRY_ERROR (R312): An uncorrectable TLB entry is dropped without write-back. n is its place among the port's entries. -/
def execTlbEntryError (cl n : Nat) (s : State) : Out :=
  match ((s.cluster cl).tlb.flatMap (·.2))[n]? with
  | some e => .next (s.modCluster cl fun k => { k with tlb := k.tlb.mapVals fun _ l => l.filter fun x => x != e })
  | none => .next s

/-- REPLICA_LINE_ERROR (R312): An uncorrectable replica line, by its package and place, is dropped and refetched. -/
def execReplicaLineError (cl line : Nat) (s : State) : Out :=
  .next (s.modCluster cl fun k => { k with replica := k.replica.put (replicaSet line) ((k.replica.at [] (replicaSet line)).filter (· != line)) })

/-- A walk reads a bucket of a home on a die (R291, R294). -/
def Walk.reads (w : Walk) (pkg die home bucket : Nat) : Bool :=
  clPkg w.cl == pkg && clDie w.cl == die && homeOf w.off == home && (bucketBig w.off == bucket || bucketSmall w.off == bucket)

/-- SHARD_BUCKET_ERROR (R312): An uncorrectable shard bucket answers no entry and is repaired from the other die; the error is
reported. -/
def execShardBucketError (pkg die home bucket : Nat) (s : State) : Out :=
  let hit (w : Walk) : Bool := w.reads pkg die home bucket
  let asked := s.clusters.flatMap fun e => e.2.walks.filter fun w => w.st != .answered && hit w
  let s' := asked.foldl (fun s w =>
    (s.setWalk w.cl w.off .answered).send (s.dutyOf (homeCore w.cl w.off)) (unitPlace w.cl) 1 (.walkAnswer w.cl w.off none)) s
  let base := wayIndex die home bucket
  let other := wayIndex (1 - die) home bucket
  let fix (pt : NatMap Pte) (w : Nat) : NatMap Pte :=
    match (s.pkg pkg).pt.find? (other + w) with
    | some e => pt.put (base + w) e
    | none => pt.del (base + w)
  let s' := s'.modPkg pkg fun k => { k with pt := (List.range 8).foldl fix k.pt }
  .next (s'.tellHealth pkg)

/-- ENGINE_FAULT (R312): A faulting copy engine stops the command at the head of its queue with UNC and is disabled; the commands behind
it go to the next engine of the cluster. -/
def execEngineFault (eng : Nat) (s : State) : Out :=
  if (s.engine eng).disabled then .next s
  else
    let s' := s.modEngine eng fun k => { k with disabled := true }
    let queue := (s.engine eng).queue
    let stop (r : CopyRun) : CopyRun := { r with done := true, waits := 0, flags := r.flags ||| 2 }
    let stays : List Job := (queue.take 1).map fun j => { j with run := some (stop (j.run.getD CopyRun.start)) }
    let moved := queue.drop 1
    let e := s'.takesFor eng
    let s' := if e = eng then s'.modEngine eng fun k => { k with queue := stays ++ moved }
              else (s'.modEngine eng fun k => { k with queue := stays }).modEngine e fun k => { k with queue := k.queue ++ moved }
    .next (s'.lost (eng / 128) 23 16 1)

/-- BARRIER_STATE_ERROR (R312): Uncorrectable barrier state stops its waiters without release. -/
def execBarrierStateError (cl bar : Nat) (s : State) : Out :=
  .next ((((s.cluster cl).bars.at [] bar).flatMap (·.arrived)).foldl (fun s tid => s.stopNow tid 4) s)

/-- THINNING_UNIT_ERROR (R351): An uncorrectable error in a thinning unit ends its intervals with ISTAT 3 and disables it. -/
def execThinningUnitError (cl : Nat) (s : State) : Out :=
  if (s.cluster cl).thinOff then .next s else .next ((s.thinUnitFails cl).lost (clPkg cl) 23 16 1)

/-! The die (R328, R381). -/

/-- MAP_ENTRY_ERROR (R328): An uncorrectable residency-map entry stops the context's threads on the named cores. -/
def execMapEntryError (cx core : Nat) (s : State) : Out :=
  .next ((s.stopAll (fun tid t => coreOf tid == core && cxOf core t == cx) 4).reportCtx cx)

/-- MESH_LINK_FAULT (R328): Traffic is routed round a faulty mesh link. -/
def execMeshLinkFault (pkg die link : Nat) (s : State) : Out :=
  .next (s.modPkg pkg fun k => { k with linkFaults := NatSet.insert k.linkFaults (2 * link + die % 2) })

/-- The object that a waiting instruction of SYNC-R or WORK-R waits for (R147, R169, R179, R180), under the rights that its own check
needs: ldfe R and W, ste W, ldf and join R. -/
def State.syncObject (s : State) (tid : Nat) (t : Thread) : Option Nat :=
  let c := coreOf tid
  match s.wordAt c t t.pc with
  | none => none
  | some w =>
    let a := t.reg ((w >>> 14).setWidth 4)
    let fn := w.toNat % 1024
    match w.toNat / 2 ^ 26 with
    | 31 => (s.check c t.ctx a 8 (if fn = 1 then segR ||| segW else if fn = 2 then segW else segR) 8).toOption
    | 34 => if fn = 1 then (s.check c t.ctx a 8 segR 8).toOption
            else if fn = 7 then some (slotObj tid)
            else if fn = 8 then some (counterObj c (a.toNat % 64)) else none
    | _ => none

/-- A thread waits for an object (R362, R363). -/
def State.waitsOn (s : State) (tid : Nat) (t : Thread) (obj : Nat) : Bool :=
  let c := coreOf tid
  (match t.replayFrom with | some (_, o) => o == obj | none => false) ||
  match t.wait with
  | .mem r =>
    ((r.kind == .atomic || r.kind == .mref || r.kind == .thin) && r.locs.any fun l => l.linear == obj) ||
      (r.kind == .atomic && (nth r.vals 4).toNat == obj) || (r.kind == .gset && groupObj r.n == obj)
  | .sync =>
    match t.arrived with
    | some k => (if k < 64 then barObj c k false else barObj (clBase (clusterOf c)) (k - 64) true) == obj
    | none => s.syncObject tid t == some obj
  | .held .fabric => s.fab.flight.any fun o => o.tid == tid && !o.comm && groupObj o.grp == obj
  | _ => false

/-- SEQUENCE_STATE_ERROR (R381): Uncorrectable sequence state stops the object's waiters; the context is reported. -/
def execSequenceStateError (cx obj : Nat) (s : State) : Out :=
  .next ((s.stopAll (fun tid t => cxOf (coreOf tid) t == cx && s.waitsOn tid t obj) 3).reportCtx cx)

/-- LOG_UNIT_DISABLED (R381): A disabled log unit stops recording and replay of its die. -/
def execLogUnitDisabled (pkg die : Nat) (s : State) : Out :=
  if NatSet.has (s.pkg pkg).logOff die then .next s
  else
    let s := s.modPkg pkg fun k => { k with logOff := NatSet.insert k.logOff die }
    let s := (List.range 4).foldl (fun s x =>
      if (s.ctx (4 * pkg + x)).st = .free then s.modCtx (4 * pkg + x) fun k => k.setLog die { k.log die with stopped := true }
      else s.stopLog (4 * pkg + x) die) s
    .next (s.lost pkg 23 16 1)

/-! The package (R383, R385, R397, R398). -/

/-- A channel of a stack is retired: its copy onto the spare channel starts; a stack whose spare is in use retires nothing more (R385). -/
def State.retireChannel (s : State) (pkg stack chan : Nat) : State :=
  match (s.pkg pkg).spare.find? stack with
  | none => (s.modPkg pkg fun k => { k with spare := k.spare.put stack (chan, false) }).lost pkg 31 24 1
  | some (c, _) => if c = chan then s else s.setHealth pkg ((s.pkg pkg).health ||| spx)

/-- CHANNEL_RETIREMENT (R385): An HBM channel qualifying for retirement starts copying onto the spare channel. It qualifies by more than 64
corrected errors within one second, or, where unit names a 256-byte unit of the stack that scrubbing finds uncorrectable, when that is the
second find. -/
def execChannelRetirement (pkg stack chan : Nat) (unit : Option Nat) (s : State) : Out :=
  if 12 ≤ stack ∨ 32 ≤ chan then .next s
  else match unit with
    | none => .next (if 64 < (s.chanErrors pkg (chanKey stack chan)).length then s.retireChannel pkg stack chan else s)
    | some u =>
      let key := stack * 2 ^ 28 + u
      if u % 32 ≠ chan then .next s
      else if NatSet.has (s.pkg pkg).scrubbed key then .next (s.retireChannel pkg stack chan)
      else .next (s.modPkg pkg fun k => { k with scrubbed := NatSet.insert k.scrubbed key })

/-- SPARE_COPY_COMPLETE (R385): The copy of a retired channel onto the spare completes. -/
def execSpareCopyComplete (pkg stack : Nat) (s : State) : Out :=
  match (s.pkg pkg).spare.find? stack with
  | some (c, _) => .next (s.modPkg pkg fun k => { k with spare := k.spare.put stack (c, true) })
  | none => .next s

/-- Every sub-link is down: every context of the package stops (R383). -/
def State.linkLost (s : State) (pkg : Nat) : State :=
  ((s.modPkg pkg fun k => { k with sublinks := 0 }).stopAll (fun tid _ => corePkg (coreOf tid) == pkg) 6).lost pkg 39 32
    (s.pkg pkg).sublinks

/-- DIE_SUBLINK_FAILURE (R383): A failed die-link sub-link is dropped with no data lost. -/
def execDieSublinkFailure (pkg : Nat) (s : State) : Out :=
  let n := (s.pkg pkg).sublinks
  if n = 0 then .next s
  else if n = 1 then .next (s.linkLost pkg)
  else .next ((s.modPkg pkg fun k => { k with sublinks := n - 1 }).lost pkg 39 32 1)

/-- DIE_LINK_LOST (R383): Loss of all 16 sub-links stops every context of the package. -/
def execDieLinkLost (pkg : Nat) (s : State) : Out :=
  if (s.pkg pkg).sublinks = 0 then .next s else .next (s.linkLost pkg)

/-- FLIT_CRC_ERROR (R401): A flit that fails its CRC is retried on its link. -/
def execFlitCrcError (_pkg _port : Nat) (s : State) : Out := .next s

/-- A port of a package goes down (R419). -/
def State.portLost (s : State) (pkg port : Nat) : State :=
  if NatSet.has (s.pkg pkg).portsDown port then s
  else (s.modPkg pkg fun k => { k with portsDown := NatSet.insert k.portsDown port }).fabricDown (downPort pkg port)

/-- Lanes of a port still in use: 8 less those dropped (R398). -/
def Package.lanesOf (k : Package) (port : Nat) : Nat := 8 - k.lanes.at 0 port

/-- LANE_FAILURE (R398): A failing fabric lane is dropped and the port continues or, with fewer than 4 lanes, goes down. -/
def execLaneFailure (pkg port : Nat) (s : State) : Out :=
  let n := (s.pkg pkg).lanes.at 0 port
  if 8 ≤ n then .next s
  else
    let s := (s.modPkg pkg fun k => { k with lanes := k.lanes.put port (n + 1) }).lost pkg 39 32 1
    .next (if (s.pkg pkg).lanesOf port < 4 then s.portLost pkg port else s)

/-- A package's port is lost: the replacement request is raised (R419). -/
def State.packagePortLost (s : State) (pkg port : Nat) : State :=
  ((s.portLost pkg port).unrepaired pkg).setHealth pkg ((s.pkg pkg).health ||| rreq)

/-- PORT_DOWN (R419): A port or switch going down reroutes traffic and breaks groups using it. From 2^13 on, pkg stands for no package: at
2^13, port is a switch; beyond it, pkg is a switch's number added to 2^13 + 1, and port that switch's port. -/
def execPortDown (pkg port : Nat) (s : State) : Out :=
  if pkg < 2 ^ 13 then .next (s.packagePortLost pkg port)
  else if pkg = 2 ^ 13 then .next (s.fabricDown (downSw port))
  else match downSwPort (pkg - 2 ^ 13 - 1) port with
    | some key => .next (if key < 2 ^ 32 then s.packagePortLost (key / 64) (key % 64) else s.fabricDown key)
    | none => .next s

/-- SLOT_UNCORRECTABLE (R419): An uncorrectable error in a reduction slot makes its sequence number dead. -/
def execSlotUncorrectable (sw grp slot : Nat) (s : State) : Out :=
  match s.fab.group grp with
  | some g =>
    let x := s.slot sw (16 * grp + slot)
    if x.st = .collect ∨ x.st = .up then .next (s.killSlot g.spec sw grp (16 * grp + slot) x) else .next s
  | none => .next s

/-- TREE_ENTRY_ERROR (R419): An uncorrectable tree entry breaks its group. -/
def execTreeEntryError (sw grp : Nat) (s : State) : Out :=
  match s.fab.group grp with
  | some g => if (treeSws g.spec).contains sw ∧ g.installed = true then .next (s.breakGroup grp) else .next s
  | none => .next s

end Sys2Proof.Machine
end

