-- ==== Sys2Proof/Machine/Contexts.lean ====
section
/-! DEFINITION. The life of a context (R122, R313 to R321) and of a package (R397, R431): creation, halt, reset, priority. -/

namespace Sys2Proof.Machine

/-! The end of a context (R122, R314, R319). -/

/-- Message m belongs to a context (R162, R176, R203): a thread or a steal that would reach it. -/
def Payload.isFor (cx : Nat) : Payload → Bool
  | .wake tid ctx _ _ => 4 * corePkg (coreOf tid) + ctx == cx
  | .handler core t _ => 4 * corePkg core + t.ctx == cx
  | .migrate core t _ _ _ => 4 * corePkg core + t.ctx == cx
  | .refused t origin _ => 4 * corePkg (coreOf origin) + t.ctx == cx
  | .steal victim _ ctx _ => 4 * corePkg victim + ctx == cx
  | .stolen core ctx _ _ _ => 4 * corePkg core + ctx == cx
  | .register _ r _ => r.cx == cx
  | .barArrive key tid _ => 4 * corePkg (coreOf tid) + key / 16 == cx
  | _ => false

/-- What the loss of a message leaves to do: a reserved slot is free, a sender is answered (R162, R176, R204). -/
def Payload.dropped (s : State) : Payload → State
  | .wake tid _ _ who => s.answer (coreOf tid) who .send 1
  | .handler core _ who => s.answer core who .send 1
  | .migrate _ _ origin _ _ => s.unreserve origin
  | .refused _ origin _ => s.unreserve origin
  | .steal _ core _ slot => s.unreserve (16 * core + slot)
  | .stolen core _ slot _ _ => s.unreserve (16 * core + slot)
  | _ => s

/-- No thread: a number that names no slot position. -/
def noTid : Nat := 2 ^ 39

/-- A message, a move or a seal no longer answers a thread that is gone. -/
def forgetTid (f : Nat → Bool) (tid : Nat) : Nat := if f tid then noTid else tid
def Payload.forget (f : Nat → Bool) : Payload → Payload
  | .counter la up who => .counter la up (who.map (forgetTid f))
  | .wake tid ctx tag who => .wake tid ctx tag (who.map (forgetTid f))
  | .handler core t who => .handler core t (who.map (forgetTid f))
  | .copy eng cmd tid => .copy eng cmd (forgetTid f tid)
  | b => b
/-- A waiter is a thread of a slot position that satisfies a test, or its relaxed accesses. -/
def Waiter.isOf (f : Nat → Bool) : Waiter → Bool
  | .thread tid => f tid
  | .relaxed tid => f tid
  | _ => false
def State.forget (s : State) (f : Nat → Bool) : State :=
  { s with
    net := s.net.map fun m => { m with body := m.body.forget f },
    clusters := s.clusters.mapVals fun _ k =>
      { k with walks := k.walks.map fun w => { w with waiters := w.waiters.filter fun x => !x.1.isOf f } },
    pkgs := s.pkgs.mapVals fun _ k =>
      { k with moves := k.moves.map fun m => { m with tid := forgetTid f m.tid },
               seals := k.seals.map fun o => { o with tid := o.tid.map (forgetTid f) } } }

/-- Discards a thread: it is not saved, and does not decrement its join counter (R122, R314). -/
def State.discard (s : State) (tid : Nat) (t : Thread) : State :=
  (((((s.dropRequests tid).withdraw tid t).matLeave (coreOf tid) tid).forget (· == tid)).vacate tid).spilt tid

/-- The slot positions of a context's threads. -/
def State.threadsOf (s : State) (cx : Nat) : List (Nat × Thread) := s.threads.filter fun e => cxOf (coreOf e.1) e.2 == cx

/-- A walk's waiter, or what a walk told, is for a hardware unit that serves a context on a core, or any of the core's slot positions,
which ask again. -/
def Waiter.serves (c x : Nat) : Waiter → Bool
  | .slot tid => coreOf tid == c
  | .segs c' x' => c' == c && x' == x
  | .ring c' x' _ => c' == c && x' == x
  | _ => false

/-- What a core holds of a context is released (R319): waiting work, walks asked for, deque entries, searches, port bindings, barriers,
descriptors, and, where it owned them, the queues of slots 14 and 15. -/
def State.releaseCore (s : State) (cx c : Nat) : State :=
  let x := cx % 4
  let owner := s.ownerOf c 15 == some x
  let ports := ((s.core c).ports.filter fun e => e.2.ctx == x).map (·.1)
  let s := s.modCluster (clusterOf c) fun k =>
    { k with walks := k.walks.map fun w => { w with waiters := w.waiters.filter fun y => !y.1.serves c x },
             notes := k.notes.filter fun y => !y.who.serves c x }
  (ports.foldl (fun s p => s.freePort c p) s).modCore c fun k =>
    { k with ingress := k.ingress.del x, overflow := k.overflow.del x, dequeRes := k.dequeRes.del x,
             overflowRes := k.overflowRes.del x, deque := k.deque.filter fun y => y.ctx != x, steal := k.steal.del x,
             bars := k.bars.keep fun i _ => i / 16 != x, segs := k.segs.del x,
             xq := if owner then [] else k.xq, xholds := if owner then false else k.xholds,
             xform := if owner then k.xform.map fun b => { b with held := false } else k.xform }

/-- A collective of a context that has returned to Free (R424): its status is still written to its ticket, and answers no thread, queue or
record. -/
def Outstanding.orphan (o : Outstanding) : Outstanding := { o with cx := noTid, tid := noTid, comm := false, record := none }

/-- A context returns to Free (R319, R343, R405, R424). -/
def State.freeContext (s : State) (cx : Nat) : State :=
  let pkg := cx / 4
  let s := (s.threadsOf cx).foldl (fun s e => s.discard e.1 e.2) s
  let gone := s.net.filter fun m => m.body.isFor cx
  let s := gone.foldl (fun s m => m.body.dropped s) { s with net := s.net.filter fun m => !m.body.isFor cx }
  let s := (s.freeGroups cx).modFab fun f => { f with flight := f.flight.map fun o => if o.cx = cx then o.orphan else o }
  let s := (s.cores.filter fun e => corePkg e.1 == pkg).foldl (fun s e => s.releaseCore cx e.1) s
  let s := { s with clusters := s.clusters.mapVals fun cl k =>
               if clPkg cl = pkg then { k with bars := k.bars.keep fun i _ => i / 16 != cx % 4 } else k }
  -- its intervals end when its cores no longer belong to it (R343)
  State.abandonIntervals { s with ctxs := s.ctxs.put cx Context.reset } cx

/-- A copy command of a context is not yet done (R122, R298). -/
def State.copying (s : State) (cx : Nat) : Bool :=
  let mine (x : CopyCmd) : Bool := 4 * corePkg x.core + x.ctx == cx
  s.engines.any (fun e => e.2.queue.any fun j => j.cmds.any mine) ||
    s.clusters.any (fun e => e.2.windows.any fun w => w.members.any mine) ||
    s.net.any fun m => match m.body with | .copy _ x _ => mine x | _ => false

/-- Every record of a context is written, or can no longer be (R367, R381). -/
def Context.written (k : Context) : Bool :=
  (k.log0.pending.isEmpty || k.log0.stopped) && (k.log1.pending.isEmpty || k.log1.stopped)

/-- HALT_COMPLETION (R122): Once every thread is Vacant and commands are done, the package reports the exit code and the context
becomes Free. Threads at an instruction boundary are discarded first, with a fault
found and not yet delivered. -/
def execHaltCompletion (cx : Nat) (s : State) : Out :=
  let k := s.ctx cx
  if k.st ≠ .halting then .next s
  else
    let s := ((s.threadsOf cx).filter fun e => e.2.quiet).foldl (fun s e => s.discard e.1 e.2) s
    if (s.threadsOf cx).isEmpty = false ∨ s.copying cx = true ∨ (s.fab.flight.any fun o => o.cx == cx) = true ∨
        (s.ctx cx).written = false then .next s
    else .next ((s.freeContext cx).say (.exit (cx / 4) k.conn (cx % 4) k.exitCode))

/-! Creation (R315 to R318). -/

/-- Bytes of a range of a package's HBM read through the page table: none where a page has no entry or a word is
uncorrectable. -/
def State.hbmBytes (s : State) (pkg : Nat) : Nat → Nat → Option (List Byte)
  | 0, _ => some []
  | n + 1, off =>
    match (s.pkg pkg).walk 0 off with
    | none => none
    | some (_, e) =>
      let key := (Loc.hbm pkg off (physOf e.vpn e.pfn off)).key
      if s.isBad key 1 then none else (State.hbmBytes s pkg n (off + 1)).map (s.mem.byte key :: ·)

/-- A residency map entry (R316). -/
def Resid.ofBytes (l : List Byte) : Resid :=
  { lsbase := field l 0 4, lssize := field l 4 4, slots := field l 8 2, accs := field l 0x0A 1, rings := field l 0x0B 1,
    cfirst := field l 0x0C 1, ccount := field l 0x0D 1, ovfbase := field l 0x10 8, ovfcap := field l 0x18 4, savebase := field l 0x20 8 }

/-- Present entries of a map by core index 576 x die + core (R316). -/
def mapEntries : Nat → Nat → List Byte → List (Nat × List Byte)
  | 0, _, _ => []
  | n + 1, i, l => if field l 8 2 = 0 then mapEntries n (i + 1) (l.drop 64) else (i, l.take 64) :: mapEntries n (i + 1) (l.drop 64)

/-- The bytes are all 0. -/
def allZero (l : List Byte) : Bool := l.all (· == 0)

/-- Code 1 of R317 for a map entry: reserved fields, alignments, the overflow queue and save area. -/
def entryLegal (pkg : Nat) (l : List Byte) : Bool :=
  let r := Resid.ofBytes l
  field l 0x0E 2 == 0 && field l 0x1C 4 == 0 && allZero (l.drop 0x28) && r.lsbase % 4096 == 0 && r.lssize % 4096 == 0 &&
    ((List.range 11).any fun k => r.ovfcap == 2 ^ (6 + k)) && regionZero pkg r.ovfbase 512 && regionZero pkg r.savebase 512

/-- Code 1 of R317 for the descriptor's own fields. The rings lie in region 0, which a region-2 address that names this package counts
as (R132, R356). -/
def descLegal (pkg : Nat) (l : List Byte) : Bool :=
  let logbase := field l 0x30 8
  let logsize := field l 0x38 8
  field l 0x53 1 == 0 && decide (field l 0x54 1 < 4) && decide (field l 0x55 1 < 3) && decide (field l 0x56 1 < 4) &&
    (decide (field l 0x57 1 < 4) || field l 0x57 1 == 0xFF) && allZero ((l.drop 0x58).take 40) && workLegal (l.drop 0x80) &&
    logSizeLegal logsize && regionZero pkg logbase 65536 && decide (canonLa pkg logbase + 2 * logsize ≤ 2 ^ 43)

/-- Two ranges share a number. -/
def rangesMeet (a n b m : Nat) : Bool := decide (a < b + m) && decide (b < a + n) && n != 0 && m != 0

/-- Code 3 of R317 for a map entry on a core, against the contexts already there. -/
def State.entryFits (s : State) (c : Nat) (r : Resid) : Bool :=
  let others := (s.present c).filterMap fun x => s.resid (4 * corePkg c + x) c
  let bit (n : Nat) (r : Resid) : Bool := r.slots.testBit n
  decide (others.length < 2) && s.coreOk c && decide (r.lsbase + r.lssize ≤ lsSize c) && decide (r.cfirst + r.ccount ≤ 64) &&
    others.all (fun o => !rangesMeet r.lsbase r.lssize o.lsbase o.lssize && (r.accs &&& o.accs) == 0 && (r.rings &&& o.rings) == 0 &&
      !rangesMeet r.cfirst r.ccount o.cfirst o.ccount) &&
    (bit 14 r == bit 15 r) && ((r :: others).filter (bit 14)).length == 1 && ((r :: others).filter (bit 15)).length == 1 &&
    !(coreNum c == 33 && (bit 12 r || bit 13 r)) &&
    (if isService c then r.accs == 0 && r.rings == 0
     else (r.accs == 0x0F || r.accs == 0xF0 || r.accs == 0xFF) && r.rings == r.accs)

/-- The number that a descriptor asks for (R315), if it is Free. -/
def State.wantedCtx (s : State) (pkg n : Nat) : Option Nat :=
  let free (x : Nat) : Bool := decide ((s.ctx (4 * pkg + x)).st = .free)
  if n = 0xFF then (List.range 4).find? free else if free n then some n else none

/-- The checks of R317 in their order: the refusal code, or the descriptor, the map's present entries and the number. -/
def State.launchCheck (s : State) (pkg addr : Nat) : Except Nat (List Byte × List (Nat × List Byte) × Nat) :=
  if addr % 64 ≠ 0 then .error 1
  else match s.hbmBytes pkg 192 addr with
    | none => .error 5
    | some l =>
      let mapbase := field l 0x48 8
      let segbase := field l 0 8
      if !regionZero pkg mapbase 64 || !regionZero pkg segbase 16 then .error 1
      else match s.hbmBytes pkg 73728 (canonLa pkg mapbase), s.hbmBytes pkg 128 (canonLa pkg segbase) with
        | some m, some _ =>
          let es := mapEntries 1152 0 m
          let root := field l 0x50 4
          if !descLegal pkg l || !es.all (fun e => entryLegal pkg e.2) then .error 1
          else match s.wantedCtx pkg (field l 0x57 1) with
            | none => .error 2
            | some x =>
              if !es.all (fun e => s.entryFits (mapCore pkg e.1) (Resid.ofBytes e.2)) then .error 3
              else if corePkg root ≠ pkg ∨ !(es.any fun e => mapCore pkg e.1 == root && bits (field e.2 8 2) 13 0 != 0) then .error 4
              else .ok (l, es, x)
        | _, _ => .error 5

/-- Step 2 of R318 on one core; its full-empty bits apart. -/
def Core.resetFor (k : Core) (ctx : Nat) (r : Resid) : Core :=
  { k with acc := k.acc.keep fun i _ => !r.accs.testBit (i / 4096), rings := k.rings.keep fun i _ => !r.rings.testBit i,
           counters := k.counters.keep fun i _ => !(decide (r.cfirst ≤ i) && decide (i < r.cfirst + r.ccount)),
           wakes := k.wakes.keep fun i _ => i % 4 != ctx, ingress := k.ingress.del ctx, overflow := k.overflow.del ctx,
           bars := k.bars.keep fun i _ => i / 16 != ctx }

/-- Step 2 of R318: one core's share. -/
def State.resetShare (s : State) (c ctx : Nat) (r : Resid) : State :=
  let lo := lsAddr c r.lsbase / 8
  { s with full := s.full.filter fun w => !(decide (lo ≤ w) && decide (w < lo + r.lssize / 8)) }.modCore c (·.resetFor ctx r)

/-- A segment descriptor (R128). -/
def Seg.ofBytes (l : List Byte) : Seg := { base := field l 0 8, limit := field l 8 6, rights := field l 0x0E 1, kind := field l 0x0F 1 }
def segsOf : Nat → List Byte → List Seg
  | 0, _ => []
  | n + 1, l => Seg.ofBytes l :: segsOf n (l.drop 16)

/-- Every core where a context is present reads its segment descriptors through its cluster's port (R129, R288): s1 to s7 refuse where
they cannot be read. -/
def State.readSegs (s : State) (cx : Nat) : State :=
  let pkg := cx / 4
  let read (s : State) (c : Nat) : State :=
    let b := s.portBytes (.segs c (cx % 4)) c (clusterOf c) 128 (canonLa pkg (s.ctx cx).segbase.toNat)
    (b.2.dropNotes (.segs c (cx % 4))).modCore c fun k =>
      { k with segs := k.segs.put (cx % 4) (match b.1 with | some l => segsOf 8 l | none => (k.segs.at [] (cx % 4)).take 1) }
  ((s.ctx cx).map.map fun e => mapCore pkg e.1).foldl read s

/-- The cores where a context is present whose ports still have to walk for the pages of its segment descriptors, each with the offset
(R129, R294). -/
def State.segMisses (s : State) (cx : Nat) : List (Nat × Nat) :=
  (s.ctx cx).map.filterMap fun e =>
    let c := mapCore (cx / 4) e.1
    (s.portMiss (.segs c (cx % 4)) (clusterOf c) (rangeOffs (canonLa (cx / 4) (s.ctx cx).segbase.toNat) 128)).map fun o => (c, o)

/-- What follows once every core has read the descriptors at segbase: until their walks are answered the cores ask for them. -/
def State.withSegs (s : State) (cx : Nat) (k : State → State) : State :=
  let l := s.segMisses cx
  if l.isEmpty then k (s.readSegs cx) else l.foldl (fun s e => s.askWalk (clusterOf e.1) e.2 (.segs e.1 (cx % 4))) s

/-- The context registers that a descriptor loads (R315, R318, R356). -/
def Context.loadedFrom (l : List Byte) (es : List (Nat × List Byte)) (conn tag : Nat) (off0 off1 : Bool) : Context :=
  let w (o : Nat) : Word := BitVec.ofNat 64 (field l o 8)
  let log (b : Word) (off : Bool) : LogUnit := { LogUnit.reset with base := b, size := w 0x38, stopped := off }
  { Context.reset with
    st := .running, conn := conn, tag := tag, segbase := w 0 &&& ~~~15, trapvec := wordAligned (w 8), replay := BitVec.ofNat 2 (field l 0x55 1),
    rtimeout := w 0x40, seed := w 0x28, log0 := log (w 0x30) off0, log1 := log (w 0x30 + w 0x38) off1, commpc := wordAligned (w 0x18),
    xfrmpc := wordAligned (w 0x20), root := field l 0x50 4, prio := field l 0x54 1, domain := field l 0x56 1,
    map := es.foldl (fun m e => m.put e.1 (Resid.ofBytes e.2)) [] }

/-- The root thread's arrival (R318): into the lowest free slot, or at the ingress. -/
def State.rootArrives (s : State) (cx : Nat) (t : Thread) : State :=
  let c := (s.ctx cx).root
  let wait (s : State) : State := s.modCore c fun k => { k with ingress := k.ingress.put (cx % 4) [.root t] }
  match s.freeSlot c (cx % 4) with
  | some tid => (s.bindArrival tid cx (.root t)).getD (wait s)
  | none => wait s

/-- Creation of a context (R318). -/
def State.createContext (s : State) (pkg conn tag : Nat) (l : List Byte) (es : List (Nat × List Byte)) (x : Nat) : State :=
  let cx := 4 * pkg + x
  let s := es.foldl (fun s e => s.resetShare (mapCore pkg e.1) x (Resid.ofBytes e.2)) s
  let s := { s with clusters := s.clusters.mapVals fun cl k =>
               if clPkg cl = pkg then { k with bars := k.bars.keep fun i _ => i / 16 != x } else k }
  let off (d : Nat) : Bool := NatSet.has (s.pkg pkg).logOff d
  let s := { s with ctxs := s.ctxs.put cx (Context.loadedFrom l es conn tag (off 0) (off 1)) }
  let s := s.readSegs cx
  let comm := (es.filter fun e => (Resid.ofBytes e.2).slots.testBit 15).map fun e => 16 * mapCore pkg e.1 + 15
  let s := comm.foldl (fun s tid => (s.bindService tid (·.commpc)).getD s) s
  s.rootArrives cx (Thread.ofWork (l.drop 0x80) (wordAligned (BitVec.ofNat 64 (field l 0x10 8))) x none false)

/-! Priority (R321). -/

/-- Slots of a core that a switch spills: threads of other contexts in the new foreground's range, and the slots of that range that
are reserved for a thread to come (R204, R321). -/
def State.slotsToSpill (s : State) (c : Nat) : NatSet :=
  match s.foreground c with
  | none => []
  | some f => (List.range 14).filter fun x =>
      match s.thread (16 * c + x) with
      | some t => t.ctx != f && s.inRange (16 * c + x) f
      | none => NatSet.has (s.core c).reserved x && s.inRange (16 * c + x) f

/-- A context's priority changes, and a switch begins on every core where the foreground changes (R320, R321). -/
def State.setPriority (s : State) (cx prio : Nat) : State :=
  let s' := s.modCtx cx fun k => { k with prio := prio }
  ((s.ctx cx).map.map fun e => mapCore (cx / 4) e.1).foldl (fun s' c =>
    if s'.foreground c = s.foreground c then s' else s'.modCore c fun k => { k with toSpill := s'.slotsToSpill c }) s'

/-- The priorities that wait take effect (R321): the new order governs, the switches begin, and those with nothing to spill are
answered. -/
def State.newOrders (s : State) : State :=
  s.pkgs.foldl (fun s e =>
    if e.2.prios.isEmpty then s
    else
      let s := e.2.prios.foldl (fun s x => if (s.ctx x.1).st = .running then s.setPriority x.1 x.2 else s) s
      (s.modPkg e.1 fun k => { k with prios := [] }).answerSwitches e.1) s

/-! A package's reset (R395, R397, R431). -/

/-- The image of the root of trust with a number (R395): whether it verifies, its version, rollback index and digest. -/
def Package.image (k : Package) (pkg i : Nat) : Bool × Firmware :=
  match k.firmware.find? i with
  | some f => (true, f)
  | none =>
    let f := Config.factoryImage pkg i
    (f.1, { version := f.2.1, rollback := f.2.2.1, digest := f.2.2.2 })

/-- An image is refused (R395). -/
def Package.refuses (k : Package) (pkg : Nat) : Bool :=
  (List.range 4).any fun i => !(k.image pkg i).1 || decide ((k.image pkg i).2.rollback < k.fused)

/-- What is kept of the package's state over a reset (R431): disablings and retirements, unless they have been repaired (R399, log 71),
firmware, and the host table; the health word loses CORR and THR. -/
def Package.restart (k : Package) (pkg : Nat) (hosts : List Nat) (repaired : Bool) : Package :=
  let new : Package :=
    { Package.reset pkg with
      hosts := hosts, firmware := k.stored.foldl (fun m e => m.put e.1 e.2) k.firmware, fused := k.fused, resets := k.resets + 1,
      cap := k.cap, d := k.d, dropped := k.dropped, transfers := k.transfers }
  let new : Package :=
    if repaired then new
    else { new with health := k.health &&& 0xDF0000FFFFFFFFFF, spare := k.spare, sublinks := k.sublinks, linkFaults := k.linkFaults,
                    lanes := k.lanes, portsDown := k.portsDown, logOff := k.logOff, repaired := k.repaired }
  { new with recovery := new.refuses pkg }

/-- A message that a reset of a package loses: one between its own units. -/
def Payload.ofPackage (pkg : Nat) : Payload → Bool
  | .copy eng _ _ => eng / 128 == pkg
  | .block eng _ _ _ _ => eng / 128 == pkg
  | .walkAnswer cl _ _ => clPkg cl == pkg
  | _ => false

/-- The package as at power-on (R431): contexts Free, nothing mapped, units empty; disablings stay, unless they have been repaired; HBM
contents undefined. A health word that changes is sent to the hosts (R391, R399). -/
def State.resetPackage (s : State) (pkg : Nat) (hosts : List Nat) (repaired : Bool) : State :=
  let s := (List.range 4).foldl (fun s x => s.freeContext (4 * pkg + x)) s
  let s := s.modFab fun f => { f with flight := f.flight.filter fun o => corePkg o.core != pkg }
  let k := s.pkg pkg
  let s := (Config.training pkg k.resets).foldl (fun s e => s.storeBytes (2 ^ 61 + pkg * 2 ^ 40 + e.1 % 2 ^ 40) [e.2]) s
  let keep (b : Bool) : Bool := b && !repaired
  let new := k.restart pkg hosts repaired
  let s : State :=
    { s with
      net := s.net.filter fun m => !m.body.ofPackage pkg,
      cores := s.cores.mapVals fun c y => if corePkg c = pkg then { Core.reset with disabled := keep y.disabled, counted := s.clock } else y,
      clusters := s.clusters.mapVals fun cl y => if clPkg cl = pkg then { Cluster.reset with thinOff := keep y.thinOff } else y,
      engines := s.engines.mapVals fun e y => if e / 128 = pkg then { Engine.reset with disabled := keep y.disabled } else y,
      pkgs := s.pkgs.put pkg new }
  let s := if repaired then s.modFab fun f => { f with down := f.down.filter fun i => !(decide (i < 2 ^ 32) && i / 64 == pkg) } else s
  if new.health = k.health then s else s.tellHealth pkg

/-- POWER_ON (R431): Power-on brings the package to its initial state and verifies firmware; disablings stay in force. repaired: what had
failed was repaired while the power was off, so that the next RESET SCOPE 1 lifts them and clears RREQ (R399, log 71). -/
def execPowerOn (pkg : Nat) (repaired : Bool) (s : State) : Out :=
  .next ((s.resetPackage pkg [Config.boardEndpoint pkg] false).modPkg pkg fun k => { k with repaired := k.repaired || repaired })

/-- THERMAL_SHUTDOWN (R397): A junction at 105 C shuts the package down without an exit report. -/
def execThermalShutdown (pkg : Nat) (s : State) : Out :=
  .next ((s.resetPackage pkg (s.pkg pkg).hosts false).modPkg pkg fun k => { k with off := true })

/-- THROTTLE (R397): Exceeding the power cap or 95 C steps the core clock down by 100 MHz. -/
def execThrottle (pkg : Nat) (s : State) : Out :=
  if 20 ≤ (s.pkg pkg).steps then .next s
  else .next ((s.modPkg pkg fun k => { k with steps := k.steps + 1 }).setHealth pkg ((s.pkg pkg).health ||| thr))

/-- THROTTLE_RELEASE (R397): When the cause clears the clock steps back up. -/
def execThrottleRelease (pkg : Nat) (s : State) : Out :=
  let n := (s.pkg pkg).steps
  if n = 0 then .next s
  else
    let s := s.modPkg pkg fun k => { k with steps := n - 1 }
    .next (if n = 1 then s.setHealth pkg ((s.pkg pkg).health &&& ~~~thr) else s)

end Sys2Proof.Machine
end

