-- ==== Sys2Proof/Machine/Sha.lean ====
section
/-! DEFINITION. SHA-256 (R388, R395, R396), the digest of FIPS 180-4 that the spec names. -/

namespace Sys2Proof.Machine

/-- The largest number below 2^n times a unit whose k-th power does not exceed x, bit by bit from the top. -/
def rootBits (k x : Nat) : Nat → Nat → Nat
  | 0, r => r
  | n + 1, r => rootBits k x n (if (r + 2 ^ n) ^ k ≤ x then r + 2 ^ n else r)

/-- The first 32 bits of the fractional part of the k-th root of a number, as FIPS 180-4 defines its constants. -/
def rootFraction (k p : Nat) : BitVec 32 := BitVec.ofNat 32 (rootBits k (p * 2 ^ (32 * k)) 38 0)

/-- The first 64 prime numbers. -/
def shaPrimes : List Nat :=
  (List.range 312).filter fun n => decide (2 ≤ n) && (List.range n).all fun d => decide (d < 2) || n % d != 0

/-- The round constants: the cube roots of the first 64 primes. -/
def shaK : List (BitVec 32) := shaPrimes.map (rootFraction 3)

/-- The eight working words. -/
structure Sha where
  a : BitVec 32
  b : BitVec 32
  c : BitVec 32
  d : BitVec 32
  e : BitVec 32
  f : BitVec 32
  g : BitVec 32
  h : BitVec 32
deriving DecidableEq, Repr

/-- The initial words: the square roots of the first eight primes. -/
def Sha.init : Sha :=
  let w (p : Nat) : BitVec 32 := rootFraction 2 p
  { a := w 2, b := w 3, c := w 5, d := w 7, e := w 11, f := w 13, g := w 17, h := w 19 }

def ror32 (x : BitVec 32) (n : Nat) : BitVec 32 := x.rotateRight n

/-- One round with its constant and schedule word. -/
def Sha.round (x : Sha) (kw : BitVec 32 × BitVec 32) : Sha :=
  let s1 := ror32 x.e 6 ^^^ ror32 x.e 11 ^^^ ror32 x.e 25
  let ch := (x.e &&& x.f) ^^^ (~~~x.e &&& x.g)
  let t1 := x.h + s1 + ch + kw.1 + kw.2
  let s0 := ror32 x.a 2 ^^^ ror32 x.a 13 ^^^ ror32 x.a 22
  let maj := (x.a &&& x.b) ^^^ (x.a &&& x.c) ^^^ (x.b &&& x.c)
  { a := t1 + (s0 + maj), b := x.a, c := x.b, d := x.c, e := x.d + t1, f := x.e, g := x.f, h := x.g }

/-- The schedule: the last sixteen words, newest first, and how many words are still to come. -/
def shaSchedule : Nat → List (BitVec 32) → List (BitVec 32)
  | 0, _ => []
  | n + 1, l =>
    let w15 := l.getD 14 0
    let w2 := l.getD 1 0
    let s0 := ror32 w15 7 ^^^ ror32 w15 18 ^^^ (w15 >>> 3)
    let s1 := ror32 w2 17 ^^^ ror32 w2 19 ^^^ (w2 >>> 10)
    let w := l.getD 15 0 + s0 + l.getD 6 0 + s1
    w :: shaSchedule n ((w :: l).take 16)

/-- The n words that bytes hold, big-endian. -/
def shaWords : Nat → List Byte → List (BitVec 32)
  | 0, _ => []
  | n + 1, l => (l.getD 0 0 ++ l.getD 1 0 ++ l.getD 2 0 ++ l.getD 3 0) :: shaWords n (l.drop 4)

/-- One 64-byte block. -/
def Sha.block (x : Sha) (l : List Byte) : Sha :=
  let w := shaWords 16 l
  let y := (shaK.zip (w ++ shaSchedule 48 w.reverse)).foldl Sha.round x
  { a := x.a + y.a, b := x.b + y.b, c := x.c + y.c, d := x.d + y.d, e := x.e + y.e, f := x.f + y.f, g := x.g + y.g, h := x.h + y.h }

def Sha.blocks : Nat → List Byte → Sha → Sha
  | 0, _, x => x
  | n + 1, l, x => Sha.blocks n (l.drop 64) (x.block l)

/-- The four bytes of a word, big-endian. -/
def shaBytes (x : BitVec 32) : List Byte := (leBytes 4 x.toNat).reverse

/-- The digest of a message: 32 bytes. -/
def sha256 (l : List Byte) : List Byte :=
  let zeros := (119 - l.length % 64) % 64
  let m := l ++ [0x80] ++ List.replicate zeros 0 ++ (leBytes 8 (8 * l.length)).reverse
  let x := Sha.blocks (m.length / 64) m Sha.init
  [x.a, x.b, x.c, x.d, x.e, x.f, x.g, x.h].flatMap shaBytes

end Sys2Proof.Machine
end

