-- ==== Sys2Proof/Machine/Commands.lean ====
section
/-! DEFINITION. Command packets (R387 to R390), management messages (R386, R391, R392, R395), attestation (R396). -/

namespace Sys2Proof.Machine

/-! Command packets (R387 to R390). -/

/-- The command that a packet holds (R388). -/
inductive Cmd where
  | loadData (host addr len : Nat)
  | loadTable (host len : Nat)
  | launch (addr : Nat)
  | priority (cx prio : Nat)
  | snapshot (addr len host : Nat)
  | health
  | digest (addr len : Nat)
  | states
  | attest (nonce : List Byte)
  | seal (addr len : Nat) (undo : Bool)
  | resetCtx (cx : Nat)
  | resetPkg
deriving DecidableEq, Repr

/-- The command of an OP, the CTX of its header and its body, which is as long as its layout (R388, log 72): none where it is malformed. -/
def Cmd.ofBody (op ctx : Nat) (b : List Byte) : Option Cmd :=
  let w (o : Nat) : Nat := field b o 8
  match op, b.length with
  | 1, 25 => if field b 24 1 = 0 then some (.loadData (w 0) (w 8) (w 16)) else if field b 24 1 = 1 then some (.loadTable (w 0) (w 16)) else none
  | 2, 11 => if field b 8 1 = 0 then some (.launch (w 0)) else if field b 8 1 = 1 then some (.priority (field b 9 1) (field b 10 1)) else none
  | 3, 24 => some (.snapshot (w 0) (w 8) (w 16))
  | 4, 1 => if field b 0 1 = 0 then some .health else if field b 0 1 = 2 then some .states else none
  | 4, 17 => if field b 0 1 = 1 then some (.digest (w 1) (w 9)) else none
  | 4, 33 => if field b 0 1 = 3 then some (.attest (b.drop 1)) else none
  | 5, 17 => if field b 16 1 < 2 then some (.seal (w 0) (w 8) (field b 16 1 == 1)) else none
  | 6, 1 => if field b 0 1 = 0 then some (.resetCtx ctx) else if field b 0 1 = 1 then some .resetPkg else none
  | _, _ => none

/-- The 32-byte header of a command is legal: STATUS and the reserved fields 0, and LEN the length of the body, at most 4,064 (R387). -/
def headerLegal (l : List Byte) : Bool :=
  decide (32 ≤ l.length) && field l 1 1 == 0 && field l 3 5 == 0 && field l 0x14 12 == 0 && decide (field l 0x10 4 ≤ 4064) &&
    l.length == 32 + field l 0x10 4

/-- The command that a packet holds; none where it is malformed (R389). -/
def Cmd.parse (l : List Byte) : Option Cmd := if headerLegal l then Cmd.ofBody (field l 0 1) (field l 2 1) (l.drop 32) else none

/-- A packet of the connection has not had its response (R390). -/
def Package.busy (k : Package) (conn : Nat) : Bool :=
  k.seals.any (fun o => o.tid.isNone && o.conn == conn) || k.switches.any (fun e => e.1 == conn) || k.images.any fun e => e.conn == conn

/-- The oldest packet that waits for a connection (R390). -/
def Package.nextPacket (k : Package) (conn : Nat) : Option Packet := k.inbox.find? fun p => p.conn == conn

/-- A packet from an endpoint that is not in the host table is dropped and counted (R386). -/
def State.foreign (s : State) (pkg : Nat) : State := s.modPkg pkg fun k => { k with dropped := k.dropped + 1 }

/-- The answer to a packet (R387, R389). -/
def State.answerTo (s : State) (pkg conn : Nat) (bytes : List Byte) (ctx status : Nat) (body : List Byte) : State :=
  s.respond pkg conn (field bytes 8 8) (field bytes 0 1) ctx status body

/-- A command packet reaches the package, or, queued, is taken from those that wait for its connection. The package is on; an endpoint
outside the host table is not heard (R386); in recovery only QUERY kind 3 is (R395); a packet whose connection has not answered an
earlier one waits (R390); a malformed one has status 1 (R389); f is what a command of one kind does. -/
def receive (pkg ep conn : Nat) (queued : Bool) (bytes : List Byte) (s : State) (f : Cmd → Option (State → State)) : Out :=
  let k := s.pkg pkg
  let p : Packet := { conn := conn, ep := ep, bytes := bytes }
  let c := Cmd.parse bytes
  let run : Option (State → State) := match c with
    | none => some fun s => s.answerTo pkg conn bytes 0xFF 1 []
    | some c => f c
  let heard : Bool := !k.recovery || match c with | some (.attest _) => true | _ => false
  if k.off then .next s
  else if queued = false ∧ k.hosts.contains ep = false then .next (s.foreign pkg)
  else if !heard then
    -- what had waited is dropped as well: a query behind it is answered
    .next (if queued && k.nextPacket conn == some p then s.modPkg pkg fun k => { k with inbox := k.inbox.erase p } else s)
  else match run with
    | none => .next s
    | some g =>
      if queued then
        if k.busy conn = false ∧ k.nextPacket conn = some p then .next (g (s.modPkg pkg fun k => { k with inbox := k.inbox.erase p })) else .next s
      else if k.busy conn || (k.nextPacket conn).isSome then .next (s.modPkg pkg fun k => { k with inbox := k.inbox ++ [p] })
      else .next (g s)

/-- A range outside the region-0 offsets (R389). -/
def outside (addr len : Nat) : Bool := decide (2 ^ 43 < addr + len)

/-- A range outside the host addresses (R388). -/
def outsideHost (addr len : Nat) : Bool := decide (2 ^ 64 < addr + len)

/-- The next transfer with a host: how many words pass before it fails, if it does (R389). -/
def State.rmaTransfer (s : State) (pkg : Nat) : Option Nat × State :=
  (Config.rmaFails pkg (s.pkg pkg).transfers, s.modPkg pkg fun k => { k with transfers := k.transfers + 1 })

/-- The place of a region-0 offset through the page table. -/
def State.hbmPlace (s : State) (pkg off : Nat) : Option Loc :=
  ((s.pkg pkg).walk 0 off).map fun (_, e) => .hbm pkg off (physOf e.vpn e.pfn off)

/-- Writes a LOAD's words in ascending order from an endpoint's memory, each aligned word with one access, until the transport, a host
word that is uncorrectable, a page without an entry or a seal stops it, tested in this order for one word (R388, R389, log 54); left is
how many words still pass. Full-empty bits stay. -/
def State.loadWords (s : State) (pkg ep : Nat) : Nat → Nat → Nat → Option Nat → Nat → Nat × State
  | 0, _, _, _, _ => (0, s)
  | n + 1, off, host, left, len =>
    if len = 0 then (0, s)
    else if left = some 0 then (5, s)
    else if s.isBad (Loc.host 0 ep host).key (min len (8 - off % 8)) then (4, s)
    else match s.hbmPlace pkg off with
      | none => (2, s)
      | some p =>
        if s.sealedAt p then (3, s)
        else
          let k := min len (8 - off % 8)
          State.loadWords (s.storeBytes p.key (s.mem.bytes (Loc.host 0 ep host).key k)) pkg ep n (off + k) (host + k) (left.map (· - 1))
            (len - k)

/-- LOAD_DATA (R388): LOAD KIND 0 copies host bytes into mapped unsealed HBM. -/
def execLoadData (pkg ep conn : Nat) (queued : Bool) (bytes : List (BitVec 8)) (s : State) : Out :=
  receive pkg ep conn queued bytes s fun c => match c with
    | .loadData host addr len => some fun s =>
      if outside addr len || outsideHost host len || decide (2 ^ 40 < len) then s.answerTo pkg conn bytes 0xFF 1 []
      else
        let t := s.rmaTransfer pkg
        let r := t.2.loadWords pkg ep (len / 8 + 2) addr host t.1 len
        r.2.answerTo pkg conn bytes 0xFF r.1 []
    | _ => none

/-- How many of n page-table images from a place on are good before the first with uncorrectable data (R389). -/
def State.goodImages (s : State) (key : Nat) : Nat → Nat
  | 0 => 0
  | n + 1 =>
    let k := State.goodImages s key n
    if k = n ∧ s.isBad (key + 32 * n) 32 = false then n + 1 else k

/-- The page-table images of some bytes. -/
def imagesOf : Nat → List Byte → List (List Byte)
  | 0, _ => []
  | n + 1, l => l.take 32 :: imagesOf n (l.drop 32)

/-- Installs images in order as hins does (R388, R296), up to one whose replacement must wait: the state, what is left, the status bytes. -/
def State.installAll (s : State) (pkg : Nat) (done : List Byte) : List (List Byte) → State × List (List Byte) × List Byte
  | [] => (s, [], done)
  | l :: r =>
    match s.install pkg l with
    | none => (s, l :: r, done)
    | some (st, s) => State.installAll s pkg (done ++ [BitVec.ofNat 8 st]) r

/-- A LOAD of images goes on: it is answered once every image is installed (R388). -/
def State.loadImages (s : State) (pkg : Nat) (x : ImageLoad) : State :=
  let r := s.installAll pkg x.done x.rest
  if r.2.1.isEmpty then r.1.respond pkg x.conn x.tag 1 0xFF x.status r.2.2
  else r.1.modPkg pkg fun k => { k with images := k.images ++ [{ x with rest := r.2.1, done := r.2.2 }] }

/-- LOAD_PAGE_TABLE (R388): LOAD KIND 1 installs page-table images as hins does. Queued, with a LOAD of images under way on the
connection, it goes on with that one. -/
def execLoadPageTable (pkg ep conn : Nat) (queued : Bool) (bytes : List (BitVec 8)) (s : State) : Out :=
  match (if queued then (s.pkg pkg).images.find? fun x => x.conn == conn else none) with
  | some x => .next ((s.modPkg pkg fun k => { k with images := k.images.erase x }).loadImages pkg x)
  | none =>
    receive pkg ep conn queued bytes s fun c => match c with
      | .loadTable host len => some fun s =>
        if len % 32 ≠ 0 || outsideHost host len || decide (2 ^ 40 < len) then s.answerTo pkg conn bytes 0xFF 1 []
        else
          let t := s.rmaTransfer pkg
          let m := match t.1 with | some w => min (len / 32) (w / 4) | none => len / 32
          let n := s.goodImages (Loc.host 0 ep host).key m
          t.2.loadImages pkg
            { conn := conn, tag := field bytes 8 8, rest := imagesOf n (s.mem.bytes (Loc.host 0 ep host).key (32 * n)), done := [],
              status := if n < m then 4 else if m < len / 32 then 5 else 0 }
      | _ => none

/-- LAUNCH_CREATE (R318): LAUNCH OPT 0 checks a descriptor and creates a context. -/
def execLaunchCreate (pkg ep conn : Nat) (queued : Bool) (bytes : List (BitVec 8)) (s : State) : Out :=
  receive pkg ep conn queued bytes s fun c => match c with
    | .launch addr => some fun s =>
      match s.launchCheck pkg addr with
      | .error code => s.answerTo pkg conn bytes 0xFF (0x10 + code) []
      | .ok (l, es, x) => (s.createContext pkg conn (field bytes 8 8) l es x).answerTo pkg conn bytes x 0 []
    | _ => none

/-- LAUNCH_PRIORITY (R321): LAUNCH OPT 1 changes a context's priority and switches foreground contexts, from the next cycle that is a
multiple of 16. -/
def execLaunchPriority (pkg ep conn : Nat) (queued : Bool) (bytes : List (BitVec 8)) (s : State) : Out :=
  receive pkg ep conn queued bytes s fun c => match c with
    | .priority cx prio => some fun s =>
      if 4 ≤ cx ∨ 4 ≤ prio ∨ (s.ctx (4 * pkg + cx)).st ≠ .running then s.answerTo pkg conn bytes 0xFF 1 []
      else s.modPkg pkg fun k =>
        { k with switches := k.switches ++ [(conn, field bytes 8 8, cx)], prios := k.prios ++ [(4 * pkg + cx, prio)] }
    | _ => none

/-- What reading a range word by word comes to (R388, R389): the bytes below the point where it stops, and the status there. -/
def State.readWords (s : State) (pkg : Nat) : Nat → Nat → Option Nat → Nat → List Byte × Nat
  | 0, _, _, _ => ([], 0)
  | n + 1, off, left, len =>
    if len = 0 then ([], 0)
    else if left = some 0 then ([], 5)
    else match s.hbmPlace pkg off with
      | none => ([], 2)
      | some p =>
        let k := min len (8 - off % 8)
        if s.isBad p.key k then ([], 4)
        else
          let r := State.readWords s pkg n (off + k) (left.map (· - 1)) (len - k)
          (s.mem.bytes p.key k ++ r.1, r.2)

/-- SNAPSHOT (R388): Reads a region-0 range and RMA-writes it to the host. -/
def execSnapshot (pkg ep conn : Nat) (queued : Bool) (bytes : List (BitVec 8)) (s : State) : Out :=
  receive pkg ep conn queued bytes s fun c => match c with
    | .snapshot addr len host => some fun s =>
      if outside addr len || outsideHost host len then s.answerTo pkg conn bytes 0xFF 1 []
      else
        let t := s.rmaTransfer pkg
        let r := s.readWords pkg (len / 8 + 2) addr t.1 len
        (t.2.storeBytes (Loc.host 0 ep host).key r.1).answerTo pkg conn bytes 0xFF r.2 []
    | _ => none

/-- QUERY_HEALTH (R399): Returns the health word and clears CORR. -/
def execQueryHealth (pkg ep conn : Nat) (queued : Bool) (bytes : List (BitVec 8)) (s : State) : Out :=
  receive pkg ep conn queued bytes s fun c => match c with
    | .health => some fun s =>
      let w := (s.pkg pkg).health
      (s.answerTo pkg conn bytes 0xFF 0 (leBytes 8 w.toNat)).setHealth pkg (w &&& 0xFF0000FFFFFFFFFF)
    | _ => none

/-- QUERY_DIGEST (R388): Returns the SHA-256 digest of a range. -/
def execQueryDigest (pkg ep conn : Nat) (queued : Bool) (bytes : List (BitVec 8)) (s : State) : Out :=
  receive pkg ep conn queued bytes s fun c => match c with
    | .digest addr len => some fun s =>
      if outside addr len then s.answerTo pkg conn bytes 0xFF 1 []
      else
        let r := s.readWords pkg (len / 8 + 2) addr none len
        s.answerTo pkg conn bytes 0xFF r.2 (if r.2 = 0 then sha256 r.1 else [])
    | _ => none

/-- The code of a context's state (R314). -/
def CtxState.code : CtxState → Nat
  | .free => 0
  | .creating => 1
  | .running => 2
  | .halting => 3

/-- QUERY_CONTEXT_STATES (R314): Returns the states of contexts 0 to 3. -/
def execQueryContextStates (pkg ep conn : Nat) (queued : Bool) (bytes : List (BitVec 8)) (s : State) : Out :=
  receive pkg ep conn queued bytes s fun c => match c with
    | .states => some fun s =>
      s.answerTo pkg conn bytes 0xFF 0 ((List.range 4).map fun x => BitVec.ofNat 8 ((s.ctx (4 * pkg + x)).st.code))
    | _ => none

/-- n bytes of a list, with zeros where it is shorter. -/
def zeroPadded (n : Nat) (l : List Byte) : List Byte := (l ++ List.replicate n 0).take n

/-- The first 256 bytes of an attestation report (R396). -/
def State.report256 (s : State) (pkg : Nat) (nonce : List Byte) : List Byte :=
  let k := s.pkg pkg
  let fw := (List.range 4).map fun i => (k.image pkg i).2
  nonce ++ zeroPadded 16 (Config.serial pkg) ++ fw.flatMap (fun f => zeroPadded 32 f.digest) ++ fw.flatMap (fun f => leBytes 4 f.rollback) ++
    leBytes 8 k.health.toNat ++ leBytes 8 (s.domainTime pkg) ++ List.replicate 48 0

/-- QUERY_ATTESTATION (R396): Returns the signed attestation report and device certificate; in recovery too (R395). -/
def execQueryAttestation (pkg ep conn : Nat) (queued : Bool) (bytes : List (BitVec 8)) (s : State) : Out :=
  receive pkg ep conn queued bytes s fun c => match c with
    | .attest nonce => some fun s =>
      let l := s.report256 pkg nonce
      s.answerTo pkg conn bytes 0xFF 0 (l ++ zeroPadded 64 (Config.identitySign pkg (sha256 l)) ++ Config.certificate pkg)
    | _ => none

/-- The pages of a range in ascending order (R157), through the page table; none where a page has no entry. -/
def State.pagesFor (s : State) (pkg stop : Nat) : Nat → Nat → Option (List (Nat × Nat))
  | 0, _ => some []
  | n + 1, off =>
    if stop ≤ off then some []
    else match (s.pkg pkg).walk 0 off with
      | none => none
      | some (_, e) =>
        let size := 65536 * pageUnits e.big
        (State.pagesFor s pkg stop n (e.vpn * 65536 + size)).map fun l => (e.vpn * 65536, size) :: l

/-- SEAL with an OPSEL (R388, R157): the whole range is checked first; the seal or unseal is answered when it is complete. -/
def State.sealCommand (s : State) (pkg conn : Nat) (bytes : List Byte) (addr len : Nat) (undo : Bool) : State :=
  let answer (st : Nat) : State := s.answerTo pkg conn bytes 0xFF st []
  if outside addr len then answer 1
  else if len = 0 then answer 0
  else match s.pagesFor pkg (addr + len) (len / 65536 + 2) addr with
    | none => answer 2
    | some l =>
      if !wholePages addr (addr + len) l then answer 1
      else
        let op : SealOp := { pkg := pkg, undo := undo, pages := l.map (·.1), tid := none, conn := conn, tag := field bytes 8 8 }
        s.modPkg pkg fun k => { k with seals := k.seals ++ [op] }

/-- SEAL_COMMAND (R388): SEAL OPSEL 0 seals a range of whole pages. -/
def execSealCommand (pkg ep conn : Nat) (queued : Bool) (bytes : List (BitVec 8)) (s : State) : Out :=
  receive pkg ep conn queued bytes s fun c => match c with
    | .seal addr len false => some fun s => s.sealCommand pkg conn bytes addr len false
    | _ => none

/-- UNSEAL_COMMAND (R388): SEAL OPSEL 1 unseals a range of whole pages. -/
def execUnsealCommand (pkg ep conn : Nat) (queued : Bool) (bytes : List (BitVec 8)) (s : State) : Out :=
  receive pkg ep conn queued bytes s fun c => match c with
    | .seal addr len true => some fun s => s.sealCommand pkg conn bytes addr len true
    | _ => none

/-- RESET_CONTEXT (R314): RESET SCOPE 0 discards every thread of a context and frees it. -/
def execResetContext (pkg ep conn : Nat) (queued : Bool) (bytes : List (BitVec 8)) (s : State) : Out :=
  receive pkg ep conn queued bytes s fun c => match c with
    | .resetCtx cx => some fun s =>
      if 4 ≤ cx then s.answerTo pkg conn bytes 0xFF 1 []
      else (if (s.ctx (4 * pkg + cx)).st = .free then s else s.freeContext (4 * pkg + cx)).answerTo pkg conn bytes cx 0 []
    | _ => none

/-- RESET_PACKAGE (R431): RESET SCOPE 1 returns the package to its power-on state; the host table stays, and so do the packets that
wait for their connections (log 72). After a repair it lifts the disablings and clears RREQ (R399, log 71). -/
def execResetPackage (pkg ep conn : Nat) (queued : Bool) (bytes : List (BitVec 8)) (s : State) : Out :=
  receive pkg ep conn queued bytes s fun c => match c with
    | .resetPkg => some fun s =>
      ((s.resetPackage pkg (s.pkg pkg).hosts (s.pkg pkg).repaired).modPkg pkg fun k => { k with inbox := (s.pkg pkg).inbox }).answerTo pkg conn bytes 0xFF 0 []
    | _ => none

/-! Management (R386, R391, R392, R395). -/

/-- Answers a management message. -/
def State.managed (s : State) (pkg status : Nat) : State := s.say (.managed pkg status)

/-- A management message reaches a package that is on, from an endpoint of the host table (R386); in recovery only those that it answers
there (R395). -/
def manage (pkg ep : Nat) (s : State) (inRecovery : Bool) (f : State → State) : Out :=
  if (s.pkg pkg).off then .next s
  else if !(s.pkg pkg).hosts.contains ep then .next (s.foreign pkg)
  else if (s.pkg pkg).recovery && !inRecovery then .next s
  else .next (f s)

/-- FOREIGN_PACKET_DROP (R386): A packet from an endpoint not in the host table is dropped and counted. -/
def execForeignPacketDrop (pkg ep : Nat) (s : State) : Out :=
  if (s.pkg pkg).off || (s.pkg pkg).hosts.contains ep then .next s else .next (s.foreign pkg)

/-- HOSTSET (R386): Replaces the host table. -/
def execHostset (pkg ep : Nat) (eps : List Nat) (s : State) : Out :=
  manage pkg ep s false fun s =>
    if 16 < eps.length then s.managed pkg 1 else (s.modPkg pkg fun k => { k with hosts := eps }).managed pkg 0

/-- The window that 32 bytes describe (R392). -/
def Window.ofBytes (l : List Byte) : Window :=
  { base := field l 0 8, size := field l 8 8, haddr := field l 0x10 8, ep := field l 0x18 2, rights := field l 0x1A 1, atom := field l 0x1C 4 }

/-- A window's fields are legal (R392). -/
def windowLegal (l : List Byte) : Bool :=
  let w := Window.ofBytes l
  l.length == 32 && w.base % 65536 == 0 && w.size % 65536 == 0 && decide (w.rights < 4) && field l 0x1B 1 == 0 &&
    w.atom == bits w.atom 10 0 + bits w.atom 25 16 * 2 ^ 16

/-- WINDOW (R392): Writes one host window. -/
def execWindow (pkg ep n : Nat) (bytes : List (BitVec 8)) (s : State) : Out :=
  manage pkg ep s false fun s =>
    if 16 ≤ n ∨ windowLegal bytes = false then s.managed pkg 1
    else
      let w := Window.ofBytes bytes
      (s.modPkg pkg fun k => { k with windows := if w.size = 0 then k.windows.del n else k.windows.put n w }).managed pkg 0

/-- The slot position that a management message names; none outside the package (R379, R391). -/
def slotNamed (pkg lcn slot : Nat) : Option Nat :=
  if corePkg lcn = pkg ∧ coreNum lcn < 576 ∧ slot < 16 then some (16 * lcn + slot) else none

/-- The thread that a management message names, and its slot position. -/
def State.threadNamed (s : State) (pkg lcn slot : Nat) : Option (Nat × Thread) :=
  match slotNamed pkg lcn slot with
  | some tid => (s.thread tid).map fun t => (tid, t)
  | none => none

/-- Stops a thread as a STOP asks (R379): at its next instruction boundary, under the waits of R90. Until then the message waits; it is
answered once the thread is Stopped, or refused when no thread is left there. -/
def State.stopAsked (s : State) (pkg lcn slot : Nat) : State :=
  let ended (s : State) : State := s.modPkg pkg fun k => { k with stops := NatSet.remove k.stops (16 * lcn + slot) }
  match s.threadNamed pkg lcn slot with
  | none => (ended s).managed pkg 1
  | some (tid, t) =>
    if t.wait = .stopped then (ended s).managed pkg 0
    else if !t.boundary then s.modPkg pkg fun k => { k with stops := NatSet.insert k.stops tid }
    else
      let a := s.abandon tid t
      (ended (a.1.stopThread tid a.2 1)).managed pkg 0

/-- STOP (R379): Stops one thread at an instruction boundary. Queued, it goes on with a STOP that waits. -/
def execStop (pkg ep lcn slot : Nat) (queued : Bool) (s : State) : Out :=
  if queued then .next (if NatSet.has (s.pkg pkg).stops (16 * lcn + slot) then s.stopAsked pkg lcn slot else s)
  else manage pkg ep s false fun s => s.stopAsked pkg lcn slot

/-- RESUME (R379): Makes a Stopped thread Ready, so that it issues at its own positions at once (R91: its slot was not Vacant); a
sequencer's records are checked again (R228); its next instruction fires no hardware breakpoint (R376).
The spec says what sets DF and not what clears it: a thread that a double trap stopped keeps it after this, as after a resume from a
spill, until a PKWRITE changes it (DESIGN CHOICE, log 89). -/
def execResume (pkg ep lcn slot : Nat) (s : State) : Out :=
  manage pkg ep s false fun s =>
    match s.threadNamed pkg lcn slot with
    | some (tid, t) => if t.wait = .stopped then (s.setThread tid { t with wait := .ready, passBp := true, seq := t.seq.unchecked }).managed pkg 0 else s.managed pkg 1
    | none => s.managed pkg 1

/-- PKREAD (R391): Reads the packet of a Stopped thread. -/
def execPkread (pkg ep lcn slot : Nat) (s : State) : Out :=
  manage pkg ep s false fun s =>
    match s.threadNamed pkg lcn slot with
    | some (tid, t) =>
      if t.wait = .stopped then s.say (.packet pkg 0 (t.record lcn (s.wakePending tid t.ctx) 7)) else s.say (.packet pkg 1 [])
    | none => s.say (.packet pkg 1 [])

/-- PKWRITE (R391): Writes the packet of a Stopped thread. -/
def execPkwrite (pkg ep lcn slot : Nat) (bytes : List (BitVec 8)) (s : State) : Out :=
  manage pkg ep s false fun s =>
    match s.threadNamed pkg lcn slot with
    | some (tid, t) =>
      if t.wait ≠ .stopped ∨ bytes.length < (if packetExt bytes then 512 else 128) then s.managed pkg 1
      else
        let u := Thread.ofRecord bytes t.seq.frozen t.row t.zeroed
        (s.setThread tid { u with handler := t.handler, wait := .stopped }).managed pkg 0
    | none => s.managed pkg 1

/-- FWLOAD (R395): Verifies and stores a signed firmware image, raising the fused index. -/
def execFwload (pkg ep n : Nat) (bytes : List (BitVec 8)) (s : State) : Out :=
  manage pkg ep s true fun s =>
    let h := Config.firmwareHeader bytes
    if 4 ≤ n || !Config.firmwareVerifies bytes || decide (h.2.1 < (s.pkg pkg).fused) then s.managed pkg 1
    else
      (s.modPkg pkg fun k =>
        { k with stored := k.stored.put n { version := h.1, rollback := h.2.1, digest := sha256 h.2.2 },
                 fused := Nat.max k.fused h.2.1 }).managed pkg 0

/-- POWERCAP (R391): Sets the package power limit. -/
def execPowercap (pkg ep watts : Nat) (s : State) : Out :=
  manage pkg ep s false fun s =>
    if watts < 800 ∨ 1600 < watts then s.managed pkg 1 else (s.modPkg pkg fun k => { k with cap := watts }).managed pkg 0

end Sys2Proof.Machine
end

