-- ==== Sys2Proof/Machine/Debug.lean ====
section
/-! DEFINITION. DBG-R and hardware breakpoints (R375 to R378). -/

namespace Sys2Proof.Machine

/-- A change of the context's debug state: complete when every core of the context holds it (R325, R376, R377). -/
def debugWrite (word : Word32) (p : BitVec 3) (q : BitVec 1) (srcs : List (BitVec 4)) (n : Nat) (legal : List Word → Bool)
    (s : State) : Out :=
  act word 4 p q srcs [] s fun tid t s0 v s =>
    if !legal v then s0.trap tid t 1 (word.setWidth 64)
    else s0.drained tid t (s.wait tid t (.mem { kind := .dbg, vals := v, n := n }))

/-- BPSET (R376): Sets a hardware breakpoint of the context. -/
def execBpset (p : BitVec 3) (q : BitVec 1) (a b : BitVec 4) (s : State) : Out :=
  debugWrite (encR 60 p q 0 a.toNat b.toNat 0) p q [a, b] 0 (fun v => decide ((nth v 1).toNat % 4 < 2)) s

/-- BPCLR (R376): Invalidates a hardware breakpoint. -/
def execBpclr (p : BitVec 3) (q : BitVec 1) (a : BitVec 4) (s : State) : Out :=
  debugWrite (encR 60 p q 0 a.toNat 0 1) p q [a] 1 (fun _ => true) s

/-- TSTART (R377): Sets the context's trace mask. -/
def execTstart (p : BitVec 3) (q : BitVec 1) (a : BitVec 4) (s : State) : Out :=
  debugWrite (encR 60 p q 0 a.toNat 0 2) p q [a] 2 (fun _ => true) s

/-- TSTOP (R377): Clears the context's trace mask. -/
def execTstop (p : BitVec 3) (q : BitVec 1) (s : State) : Out :=
  debugWrite (encR 60 p q 0 0 0 3) p q [] 3 (fun _ => true) s

/-- A change to a register that the cores of a context share has reached every core where the context is present, and each has answered
(R325, R364). -/
def State.toldCores (s : State) (tid cx : Nat) : State :=
  (s.ctx cx).map.foldl (fun s e =>
    let c := coreAt (cx / 4) (e.1 / 576) (e.1 % 576)
    if c = coreOf tid then s else s.exchange (coreOf tid) c) s

/-- A change of the debug state is made on every core (R376, R377). -/
def State.debugServed (s : State) (tid : Nat) (t : Thread) (r : Req) : State :=
  let i := (nth r.vals 0).toNat % 16
  let b := nth r.vals 1
  let f (k : Context) : Context :=
    match r.n with
    | 0 => { k with bps := k.bps.put i (b &&& ~~~3, b.getLsbD 0) }
    | 1 => { k with bps := k.bps.del i }
    | 2 => { k with trace := (nth r.vals 0).setWidth 3 }
    | _ => { k with trace := 0 }
  ((s.modCtx (cxOf (coreOf tid) t) f).toldCores tid (cxOf (coreOf tid) t)).retire tid t

/-- SNAP (R378): Writes the thread's packet into local store and returns the time. -/
def execSnap (p : BitVec 3) (q : BitVec 1) (d a : BitVec 4) (s : State) : Out :=
  let word := encR 60 p q d.toNat a.toNat 0 4
  act word 4 p q [a] [d] s fun tid t s0 v s =>
    let c := coreOf tid
    match s.check c t.ctx (nth v 0) 128 segW 128 with
    | .error x => s0.trapAt tid t t.pc x
    | .ok la =>
      if laRegion la ≠ 1 ∨ laCore la ≠ c then s0.trap tid t 0x0C (nth v 0)
      else if t.relaxed.any fun x => s.touches x (.loc la) 128 then s0.wait tid t (.mem { kind := .drain })
      else
        let k := { t with pc := t.pc + 4 }
        let s := s.storeBytes la (k.packet c (s.wakePending tid t.ctx) 1)
        s0.finish s tid t word d (BitVec.ofNat 64 (s.time c))

/-- HARDWARE_BREAKPOINT (R376): A thread about to issue at a breakpoint pc traps or stops. -/
def execHardwareBreakpoint (n : Nat) (s : State) : Out :=
  match s.thread s.cur with
  | none => .next s
  | some t =>
    let tid := s.cur
    let c := coreOf tid
    match (s.ctx (cxOf c t)).bps.find? n with
    | some (_, stop) =>
      if !stop then .next (s.trap tid t 0x10 0)
      else if !t.relaxed.isEmpty then .next s
      else
        .next ((s.setThread tid { t with wait := .stopped }).traceHard (cxOf c t) (coreDie c)
          { ts := s.time c, src := srcOf tid, kind := 0x85, seq := 0, obj := n, pc := t.pc.toNat % 2 ^ 32, out := 0 })
    | none => .next s

end Sys2Proof.Machine
end

