-- ==== Sys2Proof/Machine/Reply.lean ====
section
/-! DEFINITION. The replies to what threads in MemWait asked for (R89, R139). -/

namespace Sys2Proof.Machine

/-- A plain load is served at its place (R139). -/
def State.loadServed (s : State) (tid : Nat) (t : Thread) (r : Req) : State :=
  let l := s.place (r.locs.headD (.loc 0))
  let s := s.heardAt (coreOf tid) l
  -- sealed data may come from the cluster's replica cache (R309)
  let g := s.readGood (clusterOf (coreOf tid)) l r.n
  if !g.1 then s.trap tid t 8 (nth r.vals 0)
  else s.finish g.2 tid t r.word r.d (extended r.n r.sgn (s.mem.read l.key r.n))

/-- A plain store is served at its place (R139, R158). -/
def State.storeServed (s : State) (tid : Nat) (t : Thread) (r : Req) : State :=
  let l := s.place (r.locs.headD (.loc 0))
  let s := s.heardAt (coreOf tid) l
  if s.sealedAt l then s.trap tid t 5 (nth r.vals 0)
  else (s.store l.key r.n (nth r.vals 1).toNat).retire tid t

/-- A write to segbase (R129): the writer's read through its cluster's port, the write, and every core's read, for which the thread
waits (sgn: the write is made). -/
def State.segServed (s : State) (tid : Nat) (t : Thread) (r : Req) : State :=
  let c := coreOf tid
  let cx := cxOf c t
  let who : Waiter := .slot tid
  let reads (s : State) : State := s.withSegs cx fun s => (s.toldCores tid cx).retire tid t
  if r.sgn then reads s
  else s.withPages who (clusterOf c) (rangeOffs r.n 128) fun s =>
    if (rangeOffs r.n 128).any fun o => (s.portPlaceOf who (clusterOf c) o).1.isNone then s.trap tid t 7 (nth r.vals 1)
    else match s.portBytes who c (clusterOf c) 128 r.n with
      | (none, s) => s.trap tid t 8 (nth r.vals 1)
      | (some _, s) =>
        reads ((s.modCtx cx fun k => { k with segbase := nth r.vals 0 }).setThread tid { t with wait := .mem { r with sgn := true } })

/-- A write to a register shared by the package is made (R325, R366). -/
def State.sharedServed (s : State) (tid : Nat) (t : Thread) (r : Req) : State :=
  let v := nth r.vals 0
  let f (k : Context) : Context :=
    match r.n with
    | 0x81 => { k with trapvec := v }
    | 0x86 => { (if k.replay = 2 then k.replayEnds else k) with replay := v.setWidth 2 }
    | 0x87 => { k with rtimeout := v }
    | 0x88 => { k with seed := v }
    | _ => k
  ((s.modCtx (cxOf (coreOf tid) t) f).toldCores tid (cxOf (coreOf tid) t)).retire tid t

/-- The reply to a request of a thread in MemWait; what another agent answers, or the thread tests itself, waits on. -/
def State.served (s : State) (tid : Nat) (t : Thread) (r : Req) : State :=
  match r.kind with
  | .drain => s
  | .load => s.loadServed tid t r
  | .store => s.storeServed tid t r
  | .atomic => s
  | .spawnRead => s.spawnPacket tid t r
  | .spawnAck => s.spawnAcked tid t r
  | .sealing => s
  | .sealq =>
    match r.locs.headD (.loc 0) with
    | .hbm pkg off _ =>
      let s1 := s.heardAt (coreOf tid) (s.place (r.locs.headD (.loc 0)))
      s1.complete s1 tid t r (s1.sealState pkg off)
    | _ => s.complete s tid t r 0
  | .send => s.sendAnswered tid t r
  | .segRead => s.segServed tid t r
  | .ctxWrite => s.sharedServed tid t r
  | .hwalk => s.svcServed tid t r
  | .hins => s.svcServed tid t r
  | .hdel => s.svcServed tid t r
  | .tlbi => s.svcServed tid t r
  | .hotr => s.svcServed tid t r
  | .pgmv => s.svcServed tid t r
  | .cpy => if r.n = 0 then s else s.complete s tid t r (r.n - 1)
  | .cpyq =>
    let s1 := s.exchange (coreOf tid) (engPlace (128 * corePkg (coreOf tid) + (nth r.vals 0).toNat % 128))
    s1.complete s1 tid t r (s1.copyState (corePkg (coreOf tid)) (nth r.vals 0))
  | .thin => s.sldServed tid t r
  | .mref => s.sldServed tid t r
  | .mrel => s.sldServed tid t r
  | .mver => s.sldServed tid t r
  | .gset => s.gsetServed tid t r
  | .dbg => s.debugServed tid t r

/-- MEMORY_REPLY (R139): The reply to an access or request that left the core arrives and the waiting thread becomes Ready. A request
that no plane of the fabric carried when it was issued leaves once one does; what has left is delivered (R401). -/
def execMemoryReply (tid : Nat) (s : State) : Out :=
  match s.thread tid with
  | some t =>
    match t.wait with
    | .mem r =>
      if r.held = false then .next (s.served tid t r)
      else if r.locs.any fun l => !s.linked (coreOf tid) (s.place l) then .next s
      else
        let r := { r with held := false }
        let t := { t with wait := .mem r }
        .next ((s.setThread tid t).served tid t r)
    | _ => .next s
  | none => .next s

end Sys2Proof.Machine
end

