-- ==== Sys2Proof/Machine/Trans.lean ====
section
/-! DEFINITION. The functions of VSFU (R243): exact where the value is a dyadic number; elsewhere to more than a hundred bits
beyond every rounding threshold of a destination format. -/

namespace Sys2Proof.Machine

/-! Fixed-point numbers: an integer v at precision p stands for v / 2^p. -/

/-- Sum of z^(2k+1) / (2k+1), the signs alternating when alt: term is the power so far, z2 the square, at precision p. -/
def oddSeries (p : Nat) (alt : Bool) (z2 : Nat) : Nat → Nat → Nat → Int → Int
  | 0, _, _, acc => acc
  | fuel + 1, k, term, acc =>
    if term = 0 then acc
    else
      let x : Int := (term / (2 * k + 1) : Nat)
      oddSeries p alt z2 fuel (k + 1) (term * z2 / 2 ^ p) (if alt && k % 2 == 1 then acc - x else acc + x)

/-- 2 × atanh of a/b. -/
def atanh2 (p a b : Nat) : Nat :=
  let z := a * 2 ^ p / b
  (2 * oddSeries p false (z * z / 2 ^ p) (p + 4) 0 z 0).toNat

/-- Arctangent of 1/n. -/
def atanInv (p n : Nat) : Int := oddSeries p true (2 ^ p / (n * n)) (p + 4) 0 (2 ^ p / n) 0

def ln2Fix (p : Nat) : Nat := atanh2 p 1 3
def piFix (p : Nat) : Nat := (16 * atanInv p 5 - 4 * atanInv p 239).toNat

/-- e^r by its series, for a small r at precision p. -/
def expSeries (p : Nat) (r : Int) : Nat → Nat → Int → Int → Int
  | 0, _, _, acc => acc
  | fuel + 1, n, term, acc => if term = 0 then acc else expSeries p r fuel (n + 1) (term * r / (2 ^ p * (n + 1) : Nat)) (acc + term)

/-- Repeated squaring. -/
def squares (p : Nat) : Nat → Int → Int
  | 0, v => v
  | k + 1, v => squares p k (v * v / (2 ^ p : Nat))

/-- e^a for a at precision p: a mantissa at precision p and a power of two. -/
def expFix (p : Nat) (a : Int) : Nat × Int :=
  let l : Int := ln2Fix p
  let k := (2 * a + l) / (2 * l)
  let r := a - k * l
  -- the argument is cut by 2^8, and the result squared back
  ((squares (p + 64) 8 (expSeries (p + 64) (r * 2 ^ 56) (p + 64) 0 (2 ^ (p + 64) : Nat) 0) / (2 ^ 64 : Nat)).toNat, k)

/-- Precision for an argument whose last bit has weight 2^e. -/
def precOf (e : Int) : Nat := 256 + 4 * (-e).toNat

/-- Magnitudes beyond this are as good as it: every result lies outside every format there. -/
def bigArg : Nat := 4096

/-- The argument m × 2^e as a number at precision p, at most bigArg. -/
def argFix (p m : Nat) (e : Int) : Nat := min (bigArg * 2 ^ p) (m * 2 ^ (e + p).toNat)

/-- e^a. -/
def Ex.exp : Ex → Ex
  | .nan => .nan
  | .inf n => if n then .zero false else .inf false
  | .zero _ => .fin false 1 0
  | .fin n m e =>
    let p := precOf e
    let a : Int := argFix p m e
    let r := expFix p (if n then -a else a)
    .fin false r.1 (r.2 - p)

/-- ln a (R243). -/
def Ex.log : Ex → Ex
  | .nan => .nan
  | .inf n => if n then .nan else .inf false
  | .zero _ => .inf true
  | .fin true _ _ => .nan
  | .fin false m e =>
    let p := 512
    let l := m.log2
    let k : Int := e + l
    if m = 2 ^ l ∧ k = 0 then .zero false
    else
      -- a = f × 2^k with f in [1, 2)
      let v : Int := k * ln2Fix p + atanh2 p (m - 2 ^ l) (m + 2 ^ l)
      Ex.mk (decide (v < 0)) v.natAbs (-(p : Int))

/-- 1/√a (R243). -/
def Ex.rsqrt : Ex → Ex
  | .nan => .nan
  | .inf n => if n then .nan else .zero false
  | .zero n => .inf n
  | .fin true _ _ => .nan
  | x => ((Ex.fin false 1 0).div x).sqrt

/-- An odd function f of the magnitude. -/
def oddOf (n : Bool) (x : Ex) : Ex := if n then x.neg else x

/-- tanh a. -/
def Ex.tanh : Ex → Ex
  | .nan => .nan
  | .inf n => .fin n 1 0
  | .zero n => .zero n
  | .fin n m e =>
    let p := precOf e
    let r := expFix p (-(2 * argFix p m e : Int))
    -- u = r.1 / 2^(p - k), tanh = (1 - u) / (1 + u)
    let one := 2 ^ ((p : Int) - r.2).toNat
    oddOf n ((Ex.ofInt ((one : Int) - r.1)).div (Ex.ofInt ((one : Int) + r.1)))

/-- 1/(1 + e^-a). -/
def Ex.sigm : Ex → Ex
  | .nan => .nan
  | .inf n => if n then .zero false else .fin false 1 0
  | .zero _ => .fin false 1 (-1)
  | .fin n m e =>
    let p := precOf e
    let r := expFix p (-(argFix p m e : Int))
    let one := 2 ^ ((p : Int) - r.2).toNat
    (Ex.ofInt (if n then r.1 else one)).div (Ex.ofInt ((one : Int) + r.1))

/-- a/(1 + e^-a). -/
def Ex.silu : Ex → Ex
  | .inf n => if n then .zero true else .inf false
  | x => x.mul x.sigm

/-- Sum of (-1)^n x^(2n+1) / (n! (2n+1)). -/
def erfSeries (p x2 : Nat) : Nat → Nat → Nat → Int → Int
  | 0, _, _, acc => acc
  | fuel + 1, n, term, acc =>
    if term = 0 then acc
    else
      let x : Int := (term / (2 * n + 1) : Nat)
      erfSeries p x2 fuel (n + 1) (term * x2 / (2 ^ p * (n + 1))) (if n % 2 = 1 then acc - x else acc + x)

/-- erf a: beyond 16 it differs from 1 by less than any threshold sees. -/
def Ex.erf : Ex → Ex
  | .nan => .nan
  | .inf n => .fin n 1 0
  | .zero n => .zero n
  | .fin n m e =>
    let p := 1400 + 4 * (-e).toNat
    let x := min (16 * 2 ^ p) (m * 2 ^ (e + p).toNat)
    let sum := erfSeries p (x * x / 2 ^ p) (p + 1000) 0 x 0
    let root := isqrt (piFix p * 2 ^ p) (p / 2 + p + 8) 0
    oddOf n (Ex.mk false ((2 * sum * (2 ^ p : Nat)) / (root : Int)).toNat (-(p : Int)))

end Sys2Proof.Machine
end

