-- ==== Sys2Proof/Machine/Vector.lean ====
section
/-! DEFINITION. The vector pipe (R200, R202, R225 to R239) and the instructions of majors 40 to 46 (R240 to R253). -/

namespace Sys2Proof.Machine

/-! Shape records (R225 to R229). -/

/-- A decoded shape record: for each dimension its extent, stride, wrap modulus and phase. portOk: with PORT, every STR, WRP and
PHASE is 0 and BASE only names the port, as the first group to use the operand asks (R229). -/
structure Shape where
  fmt : Fmt
  port : Option Nat
  portOk : Bool
  cond : Nat
  base : Nat
  dims : List (Nat × Int × Nat × Nat)

def Shape.count (h : Shape) : Nat := h.dims.foldl (fun n d => n * d.1) 1
def Shape.len (h : Shape) : Nat := (h.dims.headD (1, 0, 0, 0)).1
def Shape.rows (h : Shape) : Nat := h.dims.tail.foldl (fun n d => n * d.1) 1

/-- A 16-bit stride as a signed number. -/
def signed16 (v : Nat) : Int := if v < 2 ^ 15 then (v : Int) else (v : Int) - 2 ^ 16

/-- Element offset of an index of one dimension (R227). -/
def dimOff (d : Nat × Int × Nat × Nat) (i : Nat) : Int :=
  if d.2.2.1 = 0 then i * d.2.1 else ((d.2.2.2 : Int) + i * d.2.1) % d.2.2.1

/-- Element offset of an iteration index (R226, R227). -/
def elemSum : List (Nat × Int × Nat × Nat) → Nat → Int
  | [], _ => 0
  | d :: r, n => dimOff d (n % d.1) + elemSum r (n / d.1)

/-- Least and greatest offset of one dimension. -/
def dimSpan (d : Nat × Int × Nat × Nat) : Int × Int :=
  if d.2.2.1 = 0 then
    let x := ((d.1 : Int) - 1) * d.2.1
    (min 0 x, max 0 x)
  else (List.range d.1).foldl (fun r i => (min r.1 (dimOff d i), max r.2 (dimOff d i))) (dimOff d 0, dimOff d 0)

/-- Byte offset within s0 of an element (R227). -/
def Shape.off (h : Shape) (n : Nat) : Int := h.base + elemSum h.dims n * h.fmt.bytes

/-- Every element lies in [0, limit) (R228). -/
def Shape.fits (h : Shape) (limit : Nat) : Bool :=
  let lo := h.dims.foldl (fun x d => x + (dimSpan d).1) 0
  let hi := h.dims.foldl (fun x d => x + (dimSpan d).2) 0
  decide (0 ≤ (h.base : Int) + lo * h.fmt.bytes) && decide ((h.base : Int) + hi * h.fmt.bytes + h.fmt.bytes ≤ limit)

/-- Decodes a record, with the checks of R228 that need nothing else (R225, R227); what R229 asks of a record with PORT is kept in
portOk for the first group that uses the operand. -/
def parseShape (l : List Byte) : Option Shape :=
  let base := field l 0 4
  let f := field l 4 1
  let flags := field l 5 3
  let phase := flags / 2 ^ 8
  let raw := (List.range 4).map fun d =>
    (field l (8 + 6 * d) 2, signed16 (field l (10 + 6 * d) 2), field l (12 + 6 * d) 2)
  let wrapAt := raw.findIdx fun d => d.2.2 != 0
  let port := flags % 2 == 1
  let phaseOk := match raw[wrapAt]? with
    | some d => decide (phase < d.2.2)
    | none => phase == 0
  match (if f < 16 then Fmt.ofCode f else none) with
  | none => none
  | some fmt =>
    if bits flags 7 4 ≠ 0 ∨ (raw.any fun d => d.1 == 0) = true then none
    else if !port ∧ (base % fmt.bytes ≠ 0 ∨ phaseOk = false) then none
    else some { fmt := fmt, port := if port then some (base % 4) else none,
                portOk := phase == 0 && decide (base < 4) && raw.all fun d => d.2.1 == 0 && d.2.2 == 0, cond := bits flags 3 1, base := base,
                dims := (List.range 4).map fun d =>
                  let x := raw.getD d (1, 0, 0)
                  (x.1, x.2.1, x.2.2, if d = wrapAt then phase else 0) }

/-- Reads record h of the table at shb (R228): cause 0x09 outside s0 or without the R right, 0x08 for uncorrectable data. -/
def State.vRecord (s : State) (c cx : Nat) (shb : Word) (h : Nat) : Except Nat (List Byte) :=
  let d := s.seg c (cx % 4) 0
  if 31 < h ∨ s.shareSize c cx < d.limit ∨ d.limit < shb.toNat + 32 * h + 32 ∨ d.rights % 2 = 0 then .error 9
  else if s.isBad (s.shapeKey c cx shb h) 32 then .error 8
  else .ok (s.mem.bytes (s.shapeKey c cx shb h) 32)

/-- The member reads the old HD element (R231): vfma, vimac, vsel. -/
def readsD (w : Word32) : Bool :=
  (vMajor w == 40 && vFn w == 3) || (vMajor w == 42 && vFn w == 3) || (vMajor w == 43 && vFn w == 5)

/-- A row member: its destinations are per row (R230, R246, R249 to R252). -/
def perRow (w : Word32) : Bool := vMajor w == 44 || (vMajor w == 45 && vFn w != 0)

/-- How many of the shapes an instruction uses are destinations: they come first. -/
def destCount (w : Word32) : Nat := if vMajor w = 45 ∧ (vFn w = 2 ∨ vFn w = 3) then 3 else 1

/-- Operand checks of a shape without PORT (R228): an HD that its member also reads needs the R right beside W; with PORT, what can
never be bound so (R229): an HD that its member also reads is refused, with cause 0x09 (log 62). -/
def State.vOperand (s : State) (c cx : Nat) (w : Word32) (i : Nat) (h : Shape) : Bool :=
  let d := s.seg c (cx % 4) 0
  let dest := decide (i < destCount w)
  let need := if dest then (if readsD w then segR ||| segW else segW) else segR
  match h.port with
  | none => h.fits d.limit && (need &&& d.rights == need)
  | some _ => !(dest && readsD w) && !(vMajor w == 43 && ((vFn w == 3 && i == 1) || (vFn w == 4 && i == 0)))

def Fmt.is32 (f : Fmt) : Bool := f == .i32 || f == .ui32

/-- The formats and counts that a member accepts (R232, R241 to R252). -/
def vRule (w : Word32) (l : List Shape) : Bool :=
  let cond := vMajor w == 45 && vFn w == 0
  let condOk := (l.drop 1).all (fun h => h.cond == 0) && (cond || (l.take 1).all fun h => h.cond == 0)
  let equal := l.all fun h => h.count == (l.map Shape.count).headD 0
  condOk && match vMajor w, vFn w, l with
  | 40, _, l => l.all (fun h => h.fmt.isFloat) && equal
  | 41, _, l => l.all (fun h => h.fmt.isFloat) && equal
  | 42, _, l => l.all (fun h => h.fmt.isInt) && equal
  | 43, 0, [d, a] => a.fmt == d.fmt && equal
  | 43, 1, [_, _] => true
  | 43, 2, [_, _] => equal
  | 43, 3, [d, a, b] => a.fmt == d.fmt && b.fmt.isInt && d.count == b.count
  | 43, 4, [d, a, b] => a.fmt == d.fmt && b.fmt.isInt && a.count == b.count
  | 43, 5, [d, a, b] => a.fmt == d.fmt && b.fmt.isInt && equal
  | 44, _, d :: a :: r =>
    (l.all (fun h => h.fmt.isFloat) || l.all fun h => h.fmt.isInt) && d.count == a.rows && r.all fun b => b.count == a.count
  | 45, 0, [d, a, b] => d.fmt.isInt && (a.fmt.isFloat == b.fmt.isFloat) && equal
  | 45, 1, [d, a] => d.fmt.is32 && d.count == 256 * a.rows
  | 45, 2, [d, d1, d2, a, b] =>
    d.fmt == a.fmt && (d1.fmt == .ui32 || d1.fmt == .i64) && d2.fmt.is32 && b.fmt.is32 && d1.count == d.count &&
      d.rows == a.rows && d1.rows == a.rows && d2.rows == a.rows && b.count == 256 * a.rows
  | 45, 3, [d, d1, d2, a, a1, b, b1] =>
    d.fmt == a.fmt && d.fmt == b.fmt && d1.fmt == .i64 && a1.fmt == .i64 && b1.fmt == .i64 && d2.fmt.is32 &&
      d1.count == d.count && a1.count == a.count && b1.count == b.count &&
      d.rows == a.rows && d1.rows == a.rows && d2.rows == a.rows && b.rows == a.rows
  | 45, 4, [d, a] => d.fmt.is32 && d.count == a.rows
  | _, _, _ => false

/-- Reads and checks every record that an entry uses (R228): the record bytes, or the cause. -/
def State.vCheck (s : State) (c cx : Nat) (e : SeqEntry) (shift : Nat) : Except Nat (List (List Byte)) :=
  let hs := vShapes e.word shift
  match hs.mapM (s.vRecord c cx e.shb) with
  | .error x => .error x
  | .ok recs =>
    match recs.mapM parseShape with
    | none => .error 9
    | some l =>
      if vRule e.word l && (List.range l.length).all fun i => match l[i]? with
          | some h => s.vOperand c cx e.word i h
          | none => true
      then .ok recs else .error 9

/-! Lanes and groups (R230, R231). -/

/-- Elements of a group: by the widest format (R230). -/
def laneCount (w : Word32) (l : List Shape) : Nat :=
  2048 / ((if perRow w then l.drop (destCount w) else l).foldl (fun n h => max n h.fmt.width) 8)

/-- Elements that an instruction iterates over. -/
def iterCount (w : Word32) (l : List Shape) : Nat :=
  if perRow w ∨ (vMajor w = 43 ∧ vFn w = 4) then ((l.drop (destCount w)).map Shape.count).headD 0
  else (l.map Shape.count).headD 0

/-- What a group comes to: it waits for a port, it faults, or it is done, with the row read so far and the local-store
offsets that each operand touched, HA and what belongs to it before HB before HD. -/
inductive VGroup where
  | wait
  | fault (cause : Nat)
  | done (s : State) (acc : List Nat) (touched : List (List Nat))

/-- The port binding that a shape's port stands for (R229). -/
def State.vPort (s : State) (tid : Nat) (h : Shape) : Option Port :=
  match h.port with
  | some x => if slotOf tid = 15 then none else (s.core (coreOf tid)).ports.find? (4 * slotOf tid + x)
  | none => none

/-- A shape's stream is bound as the operand needs (R229). -/
def State.vBound (s : State) (tid : Nat) (h : Shape) (out : Bool) : Bool :=
  h.port.isNone || match s.vPort tid h with
    | some p => h.portOk && (p.out == out) && p.ew == h.fmt.bytes
    | none => false

/-- A shape's stream has n elements, or n free places (R229). -/
def State.vReady (s : State) (tid : Nat) (h : Shape) (out : Bool) (n : Nat) : Bool :=
  match s.vPort tid h with
  | some p => if out then p.inLap p.tail n && s.portRoom (coreOf tid) p n p.tail
              else p.inLap p.head n && s.portHas (coreOf tid) p n p.head
  | none => true

/-- The key of an element of a shape. -/
def Shape.key (h : Shape) (s0 n : Nat) : Nat := ((s0 : Int) + h.off n).toNat

/-- Takes n elements from a stream: their patterns, or none where a word of the buffer is uncorrectable (R224, R229). -/
def State.vTake (s : State) (tid x width : Nat) : Nat → Option (List Nat × State)
  | 0 => some ([], s)
  | n + 1 =>
    let bad := match (s.core (coreOf tid)).ports.find? (4 * slotOf tid + x) with
      | some p => s.isBad (lsAddr (coreOf tid) p.head) p.ew
      | none => false
    if bad then none
    else
      let v := s.portRead tid (BitVec.ofNat 4 (12 + x))
      (State.vTake v.2 tid x width n).map fun r => (v.1.toNat % 2 ^ width :: r.1, r.2)

/-- Reads elements (R231): patterns, or none for uncorrectable data. -/
def State.vRead (s : State) (tid s0 : Nat) (h : Shape) (ns : List Nat) : Option (List Nat × State) :=
  match h.port with
  | none =>
    if ns.any fun n => s.isBad (h.key s0 n) h.fmt.bytes then none
    else some (ns.map (fun n => s.mem.read (h.key s0 n) h.fmt.bytes), s)
  | some x => s.vTake tid x h.fmt.width ns.length

/-- Writes one element (R231, R253): full-empty bits stay, but through a port. -/
def State.vWrite (s : State) (tid s0 : Nat) (h : Shape) (n v : Nat) : State :=
  match h.port with
  | none => s.store (h.key s0 n) h.fmt.bytes v
  | some x => s.portWrite tid (BitVec.ofNat 4 (12 + x)) (BitVec.ofNat 64 v)

/-- Local-store offsets that elements of a shape touch; a port makes no bank access (R231). -/
def Shape.touched (h : Shape) (s0 : Nat) (ns : List Nat) : List Nat :=
  if h.port.isSome then [] else ns.map fun n => laOff (h.key s0 n)

/-! Element arithmetic (R240 to R248). -/

/-- SAT and RM of a vector instruction (R236). -/
def vSat (w : Word32) : Bool := w.getLsbD 4
def vMode (w : Word32) (rnd : BitVec 2) : RMode := modeOf (BitVec.ofNat 2 (bits w.toNat 6 5)) rnd

/-- The lesser or greater of two numbers, −0 below +0 (R241). -/
def Ex.least (x y : Ex) : Ex := if x.isNan || y.isNan then .nan else if y.lessIeee x then y else x
def Ex.most (x y : Ex) : Ex := if x.isNan || y.isNan then .nan else if x.lessIeee y then y else x

/-- vscale (R241). -/
def vScaled (a b : Ex) : Ex :=
  match b with
  | .nan => .nan
  | .inf n => a.scale (if n then -1024 else 1024)
  | b => a.scale (max (-1024) (min 1024 b.toInt))

/-- The exact result of a VFP member (R241). An infinity or a −0 of an IEEE operand beside a TF32 operand stays what it is, though the
wide format of R35 holds neither (log 63). -/
def vfpOp (vf : Nat) (a b d : Ex) : Ex :=
  match vf with
  | 0 => a.add b
  | 1 => a.sub b
  | 2 => a.mul b
  | 3 => (a.mul b).add d
  | 4 => a.least b
  | 5 => a.most b
  | 6 => a.abs
  | 7 => a.neg
  | 8 => vScaled a b
  | _ => b.abs.neg.most (a.least b.abs)

/-- The function of a VSFU member (R243). -/
def vsfuOp (vf : Nat) (a : Ex) : Ex :=
  match vf with
  | 0 => a.exp
  | 1 => a.log
  | 2 => (Ex.fin false 1 0).div a
  | 3 => a.rsqrt
  | 4 => a.tanh
  | 5 => a.sigm
  | 6 => a.silu
  | _ => a.erf

/-- vabs and vneg on the pattern (R242). -/
def vSignOp (vf : Nat) (f : Fmt) (p : Nat) : Nat :=
  let w := 2 ^ f.width
  let neg := decide (w / 2 ≤ p)
  if f.isTapered then (if vf = 7 ∨ neg = true then (w - p) % w else p)
  else if vf = 6 then p % (w / 2) else (p + w / 2) % w

/-- An integer read as a 64-bit two's complement. -/
def as64 (v : Int) : Word := BitVec.ofInt 64 v

/-- The exact integer of a VINT member (R244). -/
def vintOp (vf : Nat) (a b d : Int) : Int :=
  let n := (as64 b).toNat % 64
  match vf with
  | 0 => a + b
  | 1 => a - b
  | 2 => a * b
  | 3 => d + a * b
  | 4 => (as64 a &&& as64 b).toInt
  | 5 => (as64 a ||| as64 b).toInt
  | 6 => (as64 a ^^^ as64 b).toInt
  | 7 => a * 2 ^ n
  | 8 => a / 2 ^ n
  | 9 => if n = 0 then a else (a + 2 ^ (n - 1)) / 2 ^ n
  | _ => if b < 0 then 0 else min (max a 0) b

/-- An exact integer written to a format (R244). -/
def Fmt.putInt (f : Fmt) (sat : Bool) (y : Int) : Nat := if sat then f.saturate y else (y % 2 ^ f.width).toNat

/-- The integer value of a pattern. -/
def Fmt.int (f : Fmt) (p : Nat) : Int := (f.decode p).toInt

/-- The key of an element, none where it is not valid (R247). -/
def Fmt.key (f : Fmt) (p : Nat) : Option Nat :=
  let h := 2 ^ (f.width - 1)
  if f.isFloat && (f.decode p).isNan then none
  else if f.isFloat && !f.isTapered then some (if p < h then p + h else 2 * h - 1 - p)
  else if f.isTapered || f.isSigned then some ((p + h) % (2 * h))
  else some p

/-- The bucket of a key (R247). -/
def Fmt.bucket (f : Fmt) (k : Nat) : Nat := k / 2 ^ (f.width - 8)

/-- Outcome of a comparison from its less, equal and unordered (R248). -/
def condOf (cond : Nat) (lt eq un : Bool) : Bool :=
  match cond with
  | 0 => eq && !un
  | 1 => !eq || un
  | 2 => lt && !un
  | 3 => (lt || eq) && !un
  | 4 => !lt && !eq && !un
  | 5 => !lt && !un
  | 6 => un
  | _ => !un

/-- The test of vcmp (R248). -/
def vcmpTest (cond : Nat) (f g : Fmt) (pa pb : Nat) : Bool :=
  let a := f.decode pa
  let b := g.decode pb
  if f.isInt then condOf cond (decide (a.toInt < b.toInt)) (decide (a.toInt = b.toInt)) false
  else if f.isTapered && g.isTapered then
    -- NaR lies below every value and equals itself (R36)
    condOf cond (if b.isNan then false else a.isNan || a.lt b) ((a.isNan && b.isNan) || a.eqv b) false
  else condOf cond (a.lt b) (a.eqv b) (a.isNan || b.isNan)

/-- The empty value of a format (R250). -/
def Fmt.emptyVal (f : Fmt) : Nat := if f.isFloat then f.nanPat else if f.isSigned then 2 ^ (f.width - 1) else 0

/-- The empty index of a plane (R250). -/
def emptyIdx (f : Fmt) : Nat := 2 ^ f.width - 1

/-- Rounds with the captured mode, with one draw when it is stochastic (R240). -/
def State.vRound (s : State) (tid cx : Nat) (e : SeqEntry) (f : Fmt) (sat : Bool) (x : Ex) : Nat × State :=
  s.roundTo tid cx f (vMode e.word e.rnd) sat x

/-- One element of an element-wise member: the pattern to write (R240 to R245, R248). A tapered source beyond 448 gives 448 in FP8
whatever SAT holds: R42 says so of a conversion, and vfill, which R245 rounds under R240, is taken for one too (DESIGN CHOICE, log 92). -/
def State.vElem (s : State) (tid cx : Nat) (e : SeqEntry) (d a b : Shape) (pa pb pd : Nat) : Nat × State :=
  let w := e.word
  let xa := a.fmt.decode pa
  let xb := b.fmt.decode pb
  match vMajor w, vFn w with
  | 40, vf =>
    if (vf = 6 ∨ vf = 7) ∧ a.fmt = d.fmt then (vSignOp vf a.fmt pa, s)
    else s.vRound tid cx e d.fmt (vSat w) (vfpOp vf xa xb (d.fmt.decode pd))
  | 41, vf => s.vRound tid cx e d.fmt (vSat w) (vsfuOp vf xa)
  | 42, vf => (d.fmt.putInt (vSat w) (vintOp vf xa.toInt xb.toInt (d.fmt.int pd)), s)
  | 43, 1 => s.vRound tid cx e d.fmt (vSat w || a.fmt.isTapered) xa
  | 43, 2 => s.vRound tid cx e d.fmt (vSat w || a.fmt.isTapered) xa
  | 45, _ => ((vcmpTest d.cond a.fmt b.fmt pa pb).toNat, s)
  | _, _ => (pa, s)

/-- Element after element, in iteration order (R240). -/
def State.vElems (s : State) (tid cx : Nat) (e : SeqEntry) (d a b : Shape) : List (Nat × Nat × Nat) → List Nat × State
  | [] => ([], s)
  | (pa, pb, pd) :: r =>
    let x := s.vElem tid cx e d a b pa pb pd
    let y := State.vElems x.2 tid cx e d a b r
    (x.1 :: y.1, y.2)

/-! Row members (R246, R249 to R252). -/

/-- Exact row result of a reduction (R246, R50). -/
def redExact (vf : Nat) (wide : Bool) (l : List Ex) : Ex :=
  match vf with
  | 1 => l.tail.foldl Ex.most (l.headD .nan)
  | 2 => l.tail.foldl Ex.least (l.headD .nan)
  | _ => reduceSum wide l

/-- Exact row result of an integer reduction (R246). -/
def redInt (vf : Nat) (l : List Int) : Int :=
  match vf with
  | 1 => l.tail.foldl max (l.headD 0)
  | 2 => l.tail.foldl min (l.headD 0)
  | _ => l.sum

/-- T of vselk: the highest bucket from which on the histogram holds k elements; 0 if none (R250). -/
def selThreshold (k : Int) (h : List Int) : Nat :=
  ((List.range 256).reverse.find? fun c => decide (k ≤ (h.drop c).sum)).getD 0

/-- The elements that vselk selects from a row, as pattern and index, in the order of its two passes (R250). -/
def selRow (f : Fmt) (t k : Nat) (row : List Nat) : List (Nat × Nat) :=
  let cand := (List.range row.length).zip row
  let pick (g : Nat → Bool) := cand.filterMap fun e =>
    match f.key e.2 with
    | some y => if g (f.bucket y) then some (e.2, e.1) else none
    | none => none
  (pick (fun c => decide (t < c)) ++ pick fun c => c == t).take k

/-- vmrg of one row: entries as pattern and index word, those of HA first (R251). -/
def mergeRow (f : Fmt) (l : List (Nat × Nat)) : List (Nat × Nat) :=
  let idx (e : Nat × Nat) : Nat := e.2 % 2 ^ 32
  let org (e : Nat × Nat) : Nat := bits e.2 55 32
  let valid := l.filter fun e => idx e != 0xFFFFFFFF && (f.key e.1).isSome
  let best (e : Nat × Nat) : Option (Nat × Nat) :=
    (valid.filter fun x => idx x == idx e).foldl (fun b x => match b with
      | none => some x
      | some y => if org x < org y then some x else b) none
  let kept := valid.foldl (fun acc e => if acc.any (fun x => idx x == idx e) then acc else acc ++ (best e).toList) []
  let key (e : Nat × Nat) : Nat := (f.key e.1).getD 0
  sortBy (fun x y => if key x ≠ key y then decide (key y < key x)
    else if idx x ≠ idx y then decide (idx x < idx y) else decide (org x ≤ org y)) kept

/-- A list padded to k entries. -/
def padTo {α : Type} (k : Nat) (x : α) (l : List α) : List α := l.take k ++ List.replicate (k - l.length) x

/-- Cuts a list into full rows of len entries, and what is left over. -/
def fullRows (len : Nat) : Nat → List Nat → List (List Nat) × List Nat
  | 0, l => ([], l)
  | n + 1, l => if l.length < len then ([], l) else
      let r := fullRows len n (l.drop len)
      (l.take len :: r.1, r.2)

/-- Pairs of consecutive entries. -/
def pairsOf : List Nat → List (Nat × Nat)
  | a :: b :: r => (a, b) :: pairsOf r
  | _ => []

/-- A sequence of element writes to one shape. -/
def State.vWrites (s : State) (tid s0 : Nat) (h : Shape) (l : List (Nat × Nat)) : State :=
  l.foldl (fun s e => s.vWrite tid s0 h e.1 e.2) s

/-- The indices of a row of a shape (R226). -/
def Shape.rowIdx (h : Shape) (q : Nat) : List Nat := (List.range h.len).map fun i => q * h.len + i

/-- What the end of row q reads beside the row's own elements (R250, R251): each operand with its indices. -/
def rowExtras (w : Word32) (l : List Shape) (q : Nat) : List (Shape × List Nat) :=
  match vMajor w, vFn w, l with
  | 45, 2, [_, _, _, _, b] => [(b, (List.range 256).map fun c => 256 * q + c)]
  | 45, 3, [_, _, _, a, a1, b, b1] => [(a1, a.rowIdx q), (b, b.rowIdx q), (b1, b.rowIdx q)]
  | _, _, _ => []

/-- What the end of row q writes: each destination with its indices (R246, R249 to R252). The one count of a row is the first element of
HD + 2's row, whatever its EXT0 (DESIGN CHOICE, log 31). -/
def rowDests (w : Word32) (l : List Shape) (q : Nat) : List (Shape × List Nat) :=
  match vMajor w, vFn w, l with
  | 45, 1, d :: _ => [(d, (List.range 256).map fun c => 256 * q + c)]
  | 45, 2, d :: d1 :: d2 :: _ => [(d, d.rowIdx q), (d1, d1.rowIdx q), (d2, [q * d2.len])]
  | 45, 3, d :: d1 :: d2 :: _ => [(d, d.rowIdx q), (d1, d1.rowIdx q), (d2, [q * d2.len])]
  | _, _, d :: _ => [(d, [q])]
  | _, _, [] => []

/-- Reads operands one after another; none for uncorrectable data. -/
def State.vReads (s : State) (tid s0 : Nat) : List (Shape × List Nat) → Option (List (List Nat) × State)
  | [] => some ([], s)
  | x :: r =>
    match s.vRead tid s0 x.1 x.2 with
    | none => none
    | some (v, s) => (State.vReads s tid s0 r).map fun y => (v :: y.1, y.2)

/-- Reads what the ends of rows need, row after row. -/
def State.rowsRead (s : State) (tid s0 : Nat) (w : Word32) (l : List Shape) : List Nat → Option (List (List (List Nat)) × State)
  | [] => some ([], s)
  | q :: r =>
    match s.vReads tid s0 (rowExtras w l q) with
    | none => none
    | some (v, s) => (State.rowsRead s tid s0 w l r).map fun y => (v :: y.1, y.2)

/-- What a row comes to, from its elements and what its end read: the patterns for each destination (R246, R249 to R252). -/
def State.rowOut (s : State) (tid cx : Nat) (e : SeqEntry) (l : List Shape) (row : List Nat) (more : List (List Nat)) :
    List (List Nat) × State :=
  match vMajor e.word, vFn e.word, l, more with
  | 44, vf, d :: a :: r, _ =>
    let vals : List (Ex × Ex) :=
      if r.isEmpty then row.map fun p => (a.fmt.decode p, .fin false 1 0)
      else (pairsOf row).map fun p => (a.fmt.decode p.1, (r.headD a).fmt.decode p.2)
    if a.fmt.isInt then ([[d.fmt.putInt (vSat e.word) (redInt vf (vals.map fun v => v.1.toInt * v.2.toInt))]], s)
    else
      let wide := a.fmt == .tf32 || r.any fun b => b.fmt == .tf32
      let x := s.vRound tid cx e d.fmt (vSat e.word) (redExact vf wide (vals.map fun v => if r.isEmpty then v.1 else v.1.mul v.2))
      ([[x.1]], x.2)
  | 45, 1, [d, a], _ =>
    let keys := row.filterMap a.fmt.key
    ([(List.range 256).map fun c => (keys.filter fun y => a.fmt.bucket y == c).length % 2 ^ d.fmt.width], s)
  | 45, 2, [d, d1, _, a, b], [h] =>
    let sel := selRow a.fmt (selThreshold d.len (h.map b.fmt.int)) d.len row
    let word (j : Nat) : Nat := if d1.fmt = .i64 then j + coreOf tid % 2 ^ 24 * 2 ^ 32 else j
    ([padTo d.len d.fmt.emptyVal (sel.map (·.1)), padTo d.len (emptyIdx d1.fmt) (sel.map fun e => word e.2), [sel.length]], s)
  | 45, 3, [d, d1, _, a, _, _, _], [ia, vb, ib] =>
    let out := (mergeRow a.fmt (row.zip ia ++ vb.zip ib)).take d.len
    ([padTo d.len d.fmt.emptyVal (out.map (·.1)), padTo d.len (emptyIdx d1.fmt) (out.map (·.2)), [out.length]], s)
  | 45, _, [_, a], _ => ([[(row.filter fun p => (a.fmt.key p).isSome && !(a.fmt.decode p).isZero).length]], s)
  | _, _, _, _ => ([], s)

/-- Row after row: the draws of a stochastic rounding come in row order (R246). -/
def State.rowsOut (s : State) (tid cx : Nat) (e : SeqEntry) (l : List Shape) :
    List (List Nat × List (List Nat)) → List (List (List Nat)) × State
  | [] => ([], s)
  | x :: r =>
    let y := s.rowOut tid cx e l x.1 x.2
    let z := State.rowsOut y.2 tid cx e l r
    (y.1 :: z.1, z.2)

/-- Writes what rows come to, row after row, destination after destination. -/
def State.rowsWrite (s : State) (tid s0 : Nat) (w : Word32) (l : List Shape) : List (Nat × List (List Nat)) → State
  | [] => s
  | x :: r =>
    let s := ((rowDests w l x.1).zip x.2).foldl (fun s y => s.vWrites tid s0 y.1.1 (y.1.2.zip y.2)) s
    State.rowsWrite s tid s0 w l r

/-- The offsets that each of some operands touches over rows (R231). -/
def operandTouched (s0 : Nat) (f : Nat → List (Shape × List Nat)) (qs : List Nat) : List (List Nat) :=
  (List.range (f 0).length).map fun j => qs.flatMap fun q => match (f q)[j]? with
    | some x => x.1.touched s0 x.2
    | none => []

/-- Rows that end with the elements from idx up to hi. -/
def rowsEnding (len idx hi : Nat) : Nat := hi / len - idx / len

/-- The elements that each shape of a per-row member reads or gives when n rows end (R229). -/
def rowNeeds (w : Word32) (l : List Shape) (n : Nat) : List (Shape × Bool × Nat) :=
  match vMajor w, vFn w, l with
  | 44, _, d :: _ => [(d, true, n)]
  | 45, 1, d :: _ => [(d, true, 256 * n)]
  | 45, 2, [d, d1, d2, _, b] => [(d, true, d.len * n), (d1, true, d1.len * n), (d2, true, n), (b, false, 256 * n)]
  | 45, 3, [d, d1, d2, a, a1, b, b1] =>
    [(d, true, d.len * n), (d1, true, d1.len * n), (d2, true, n), (a1, false, a.len * n), (b, false, b.len * n),
     (b1, false, b.len * n)]
  | _, _, d :: _ => [(d, true, n)]
  | _, _, [] => []

/-! A group (R231). -/

/-- The elements from idx up to hi, and what each operand needs: checked before the group takes anything (R229). -/
def State.vNeeds (w : Word32) (l : List Shape) (idx hi : Nat) : List (Shape × Bool × Nat) :=
  let n := hi - idx
  if perRow w then
    let src := l.drop (destCount w)
    rowNeeds w l (rowsEnding ((src.map Shape.len).headD 1) idx hi) ++
      (src.take 1).map (fun a => (a, false, n)) ++ (if vMajor w = 44 then (src.drop 1).map (fun b => (b, false, n)) else [])
  else match vMajor w, vFn w, l with
    | 43, 1, [d, a] => [(d, true, n), (a, false, if idx = 0 then 1 else 0)]
    | _, _, d :: r => (d, true, n) :: r.map fun h => (h, false, n)
    | _, _, [] => []

/-- One group of an entry whose records are checked (R229, R231): it reads all that it reads, computes, and writes. Where HA and HB
name one stream, all of the group's HA elements come before its HB elements (log 62). -/
def State.vGroup (s : State) (tid cx s0 : Nat) (e : SeqEntry) (l : List Shape) (hi : Nat) : VGroup :=
  let w := e.word
  let idx := e.idx
  let ns := (List.range (hi - idx)).map (· + idx)
  let needs := (State.vNeeds w l idx hi).filter fun x => x.2.2 != 0
  -- an input that two operands share needs the elements of both
  let total (h : Shape) (out : Bool) : Nat := ((needs.filter fun x => x.1.port == h.port && x.2.1 == out).map (·.2.2)).sum
  if needs.any fun x => !s.vBound tid x.1 x.2.1 then .fault 9
  else if needs.any fun x => !s.vReady tid x.1 x.2.1 (total x.1 x.2.1) then .wait
  else if perRow w then
    let src := l.drop (destCount w)
    match src with
    | [] => .fault 9
    | a :: r =>
      match s.vRead tid s0 a ns with
      | none => .fault 8
      | some (pa, s) =>
        let second : Option (List Nat × State) := if vMajor w = 44 ∧ r ≠ [] then s.vRead tid s0 (r.headD a) ns else some ([], s)
        match second with
        | none => .fault 8
        | some (pb, s) =>
          let two := decide (vMajor w = 44) && !r.isEmpty
          let new := if two then (pa.zip pb).flatMap fun x => [x.1, x.2] else pa
          let len := if two then 2 * a.len else a.len
          let rows := fullRows len (hi + 1) (e.acc ++ new)
          let qs := (List.range rows.1.length).map (· + idx / a.len)
          match s.rowsRead tid s0 w l qs with
          | none => .fault 8
          | some (more, s) =>
            let out := s.rowsOut tid cx e l (rows.1.zip more)
            .done (out.2.rowsWrite tid s0 w l (qs.zip out.1)) rows.2
              (a.touched s0 ns :: ((if two then [(r.headD a).touched s0 ns] else []) ++ operandTouched s0 (rowExtras w l) qs ++
                operandTouched s0 (rowDests w l) qs))
  else match l with
    | [] => .fault 9
    | d :: r =>
      let a := r.headD d
      let b := (r.drop 1).headD d
      if vMajor w = 43 ∧ vFn w = 3 then
        match s.vRead tid s0 b ns with
        | none => .fault 8
        | some (pb, s) =>
          let at_ (p : Nat) : Option Nat :=
            let t := b.fmt.int p
            if 0 ≤ t ∧ t < a.count then some t.toNat else none
          let hit := pb.filterMap at_
          if hit.any fun t => s.isBad (a.key s0 t) a.fmt.bytes then .fault 8
          else
            let out := pb.map fun p => match at_ p with | some t => s.mem.read (a.key s0 t) a.fmt.bytes | none => 0
            .done (s.vWrites tid s0 d (ns.zip out)) [] [a.touched s0 hit, b.touched s0 ns, d.touched s0 ns]
      else
        let fill := vMajor w = 43 ∧ vFn w = 1
        let first : Option (List Nat × State) :=
          if fill then (if idx ≠ 0 ∧ a.port.isSome then some (e.acc, s) else s.vRead tid s0 a [0]) else s.vRead tid s0 a ns
        match first with
        | none => .fault 8
        | some (pa, s) =>
          let second : Option (List Nat × State) := if r.length = 2 then s.vRead tid s0 b ns else some ([], s)
          match second with
          | none => .fault 8
          | some (pb, s) =>
            let ha := if fill then a.touched s0 [0] else a.touched s0 ns
            let hb := if r.length = 2 then b.touched s0 ns else []
            if vMajor w = 43 ∧ (vFn w = 4 ∨ vFn w = 5) then
              let pick (x : Nat × Nat × Nat) : Option (Nat × Nat) :=
                let t := b.fmt.int x.2.2
                if vFn w = 5 then (if t ≠ 0 then some (x.1, x.2.1) else none)
                else if 0 ≤ t ∧ t < d.count then some (t.toNat, x.2.1) else none
              let ws := (ns.zip (pa.zip pb)).filterMap pick
              -- vsel accesses only the HD elements that it writes (R245)
              if (vFn w == 5 && ws.any fun x => s.isBad (d.key s0 x.1) d.fmt.bytes) then .fault 8
              else .done (s.vWrites tid s0 d ws) [] [ha, hb, d.touched s0 (ws.map (·.1))]
            else
              let third : Option (List Nat × State) := if readsD w then s.vRead tid s0 d ns else some ([], s)
              match third with
              | none => .fault 8
              | some (pd, s) =>
                let pa' := if fill then ns.map fun _ => pa.headD 0 else pa
                let out := s.vElems tid cx e d a b ((List.range ns.length).map fun i => (pa'.getD i 0, pb.getD i 0, pd.getD i 0))
                .done (out.2.vWrites tid s0 d (ns.zip out.1)) (if fill then pa else []) [ha, hb, d.touched s0 ns]

/-! Banks (R202, R231). -/

/-- The 16-byte units of some offsets, ascending, split into accesses of at most 16 units with no two in one bank. -/
def accesses (offs : List Nat) : List (List Nat) :=
  let units := offs.foldl (fun l o => NatSet.insert l (o / 16)) []
  (units.foldl (fun (a : List (List Nat)) u =>
    match a with
    | [] => [[u % 64]]
    | x :: r => if x.length = 16 ∨ x.contains (u % 64) = true then [u % 64] :: x :: r else (u % 64 :: x) :: r) []).reverse

/-- One cycle of the pipe: accesses served in order, at most three; the first that shares a bank waits, with all behind it. -/
def serveCycle : Nat → List Nat → List (List Nat) → List (List Nat) × Nat
  | _, _, [] => ([], 0)
  | 0, _, l => (l, 0)
  | k + 1, used, a :: r => if a.any used.contains then (a :: r, 1) else serveCycle k (used ++ a) r

/-- Cycles with a deferral (R202). -/
def stallCount : Nat → List (List Nat) → Nat
  | 0, _ => 0
  | n + 1, l => if l.isEmpty then 0 else
      let r := serveCycle 3 [] l
      r.2 + stallCount n r.1

/-! The sequencer (R233 to R238). -/

/-- The entry to run next: its place, its pass, the body's stagger. -/
def Seq.next (q : Seq) : Option (Nat × Nat × Nat) :=
  match q.ents with
  | [] => none
  | e :: r =>
    if e.isLoop then
      let body := r.takeWhile fun x => !x.isEnd
      let closed := r.any fun x => x.isEnd
      let m := body.foldl (fun n x => min n x.pass) e.passes
      match (List.range body.length).find? fun i => match body[i]? with | some x => x.pass == m | none => false with
      | some i => if m < e.passes ∧ (closed = true ∨ m = 0) then some (i + 1, m, e.stagger) else none
      | none => none
    else if e.isEnd then none else some (0, 0, 0)

/-- A loop whose body is closed and has run its last pass leaves the sequencer whole (R238). -/
def Seq.settle (q : Seq) : Seq :=
  match q.ents with
  | e :: r =>
    if e.isLoop ∧ r.any SeqEntry.isEnd ∧ (r.takeWhile fun x => !x.isEnd).all fun x => decide (e.passes ≤ x.pass) then
      { q with ents := (r.dropWhile fun x => !x.isEnd).drop 1 }
    else q
  | [] => q

/-- The entry in a place has run a pass: outside a loop it leaves. -/
def Seq.passed (q : Seq) (i : Nat) : Seq :=
  if i = 0 then { q with ents := q.ents.tail }
  else match q.ents[i]? with
    | some e => Seq.settle { q with ents := q.ents.set i { e with idx := 0, pass := e.pass + 1, acc := [], recs := [] } }
    | none => q

/-- A vector fault of the entry in a place: delivered at the thread's next issue turn (R188, R234). -/
def State.vFault (s : State) (tid : Nat) (t : Thread) (e : SeqEntry) (cause : Nat) : State :=
  s.setThread tid { t with vecFault := some (cause, e.pc) }

/-- One vector turn of a thread: none where it has nothing ready (R200, R231). -/
def State.vTurn (s : State) (tid : Nat) : Option State :=
  match s.thread tid with
  | none => none
  | some t =>
    let c := coreOf tid
    let cx := cxOf c t
    if t.seq.frozen ∨ t.vecFault.isSome ∨ t.wait = .stopped ∨ s.running cx = false then none
    else match t.seq.next with
      | none => none
      | some (i, pass, stagger) =>
        match t.seq.ents[i]? with
        | none => none
        | some e =>
          let recs : Except Nat (List (List Byte)) := if e.recs.isEmpty then s.vCheck c cx e (pass * stagger) else .ok e.recs
          match recs with
          | .error x => some (s.vFault tid t e x)
          | .ok recs =>
            let l := recs.filterMap parseShape
            let total := iterCount e.word l
            let hi := min total (e.idx + laneCount e.word l)
            match s.vGroup tid cx (s.s0Base c cx) e l hi with
            | .wait => none
            | .fault x => some (s.vFault tid { t with seq := { t.seq with ents := t.seq.ents.set i { e with recs := [] } } } e x)
            | .done s acc touched =>
              let q := if hi = total then t.seq.passed i
                       else { t.seq with ents := t.seq.ents.set i { e with idx := hi, acc := acc, recs := recs } }
              let l := touched.flatMap accesses
              let stalls := stallCount (l.length + 1) l
              some ((s.setThread tid { t with seq := q }).modCore c fun k => { k with vbstall := k.vbstall + BitVec.ofNat 64 stalls })

/-- The first of some slot positions that has a turn to take. -/
def State.vFirst (s : State) : List Nat → Option (Nat × State)
  | [] => none
  | tid :: r => match s.vTurn tid with
    | some s' => some (tid, s')
    | none => State.vFirst s r

/-- Handler threads of a core in slot order, after the one last served (R200). -/
def State.handlersAfter (s : State) (c : Nat) : List Nat :=
  ((List.range 16).map fun j => 16 * c + ((s.core c).lastHandler + 1 + j) % 16).filter fun tid =>
    match s.thread tid with | some t => t.handler | none => false

/-- VECTOR_GROUP (R231): In a vector turn the sequencer head entry reads, computes and writes one element group. -/
def execVectorGroup (core : Nat) (s : State) : Out :=
  let p := s.clock % 32
  let table := (List.range 32).filterMap fun j =>
    let i := (p + j) % 32
    let b := ((s.core core).slotTab.getD i 0xFF).toNat
    if i < 30 ∧ b < 16 then some (16 * core + b) else none
  let byTable : Out := match s.vFirst table with
    | some (_, s') => .next s'
    | none => .next s
  if p < 30 then byTable
  else match s.vFirst (s.handlersAfter core) with
    | some (tid, s') => .next (s'.modCore core fun k => { k with lastHandler := slotOf tid })
    | none => byTable

/-- VECTOR_FAULT_DELIVERY (R188): A vector fault is delivered as a trap at the thread's next issue turn and the sequencer freezes. -/
def execVectorFaultDelivery (tid : Nat) (s : State) : Out :=
  match s.thread tid with
  | some t =>
    match t.vecFault with
    | some (cause, pc) =>
      let s' := s.trapAt tid { t with vecFault := none, seq := { t.seq with frozen := true } } pc ⟨cause, t.pc⟩
      -- a trap held for room in the log is delivered later (R368)
      match s'.thread tid with
      | some u => if u.wait = .held .trap then .next (s.wait tid t (.held .trap)) else .next s'
      | none => .next s'
    | none => .next s
  | none => .next s

/-! Pushes (R233, R238, R239). -/

/-- Bits [63:48] of a pc (R86). -/
def pcHigh (w : Word) : Nat := w.toNat / 2 ^ 48

/-- The instructions of the open body, its markers left out. -/
def Seq.openLen (q : Seq) : Nat := (q.ents.reverse.takeWhile fun e => !e.isLoop).length

/-- A push (R233): cause 0x09 while the sequencer is frozen (R189), 0x01 where bad holds or the open body can take no more. Where
both hold the spec gives no rank: the model tests the frozen sequencer first (log 61). -/
def vPush (w : Word32) (p : BitVec 3) (q : BitVec 1) (s : State) (bad : Seq → Bool := fun q => q.isOpen && decide (14 ≤ q.openLen)) : Out :=
  frame w 4 p q s fun tid t s =>
    let other := t.seq.ents.any fun e => pcHigh e.pc != pcHigh t.pc
    if t.seq.frozen then s.trap tid t 9 (Config.frozenEbad t.pc)
    else if bad t.seq ∨ (other = true ∧ t.seq.isOpen = true) then s.trap tid t 1 (w.setWidth 64)
    else if other ∨ 16 ≤ t.seq.ents.length then s.wait tid t (.held .push)
    else
      let e : SeqEntry := { word := w, pc := t.pc, shb := t.shb, rnd := t.rnd, scl := t.scl, idx := 0, pass := 0, acc := [],
                            recs := [] }
      s.retire tid { t with seq := Seq.settle { t.seq with ents := t.seq.ents ++ [e] } }

/-- VADD (R241): Element-wise float addition. -/
def execVadd (p : BitVec 3) (q : BitVec 1) (hd ha hb : BitVec 5) (m : BitVec 2) (sat : BitVec 1) (s : State) : Out :=
  vPush (encV 40 p q (hd.toNat) (ha.toNat) (hb.toNat) (m.toNat) (sat.toNat) 0) p q s

/-- VSUB (R241): Element-wise float subtraction. -/
def execVsub (p : BitVec 3) (q : BitVec 1) (hd ha hb : BitVec 5) (m : BitVec 2) (sat : BitVec 1) (s : State) : Out :=
  vPush (encV 40 p q (hd.toNat) (ha.toNat) (hb.toNat) (m.toNat) (sat.toNat) 1) p q s

/-- VMUL (R241): Element-wise float multiplication. -/
def execVmul (p : BitVec 3) (q : BitVec 1) (hd ha hb : BitVec 5) (m : BitVec 2) (sat : BitVec 1) (s : State) : Out :=
  vPush (encV 40 p q (hd.toNat) (ha.toNat) (hb.toNat) (m.toNat) (sat.toNat) 2) p q s

/-- VFMA (R241): Element-wise fused multiply-add into HD. -/
def execVfma (p : BitVec 3) (q : BitVec 1) (hd ha hb : BitVec 5) (m : BitVec 2) (sat : BitVec 1) (s : State) : Out :=
  vPush (encV 40 p q (hd.toNat) (ha.toNat) (hb.toNat) (m.toNat) (sat.toNat) 3) p q s

/-- VMIN (R241): Element-wise float minimum. -/
def execVmin (p : BitVec 3) (q : BitVec 1) (hd ha hb : BitVec 5) (m : BitVec 2) (sat : BitVec 1) (s : State) : Out :=
  vPush (encV 40 p q (hd.toNat) (ha.toNat) (hb.toNat) (m.toNat) (sat.toNat) 4) p q s

/-- VMAX (R241): Element-wise float maximum. -/
def execVmax (p : BitVec 3) (q : BitVec 1) (hd ha hb : BitVec 5) (m : BitVec 2) (sat : BitVec 1) (s : State) : Out :=
  vPush (encV 40 p q (hd.toNat) (ha.toNat) (hb.toNat) (m.toNat) (sat.toNat) 5) p q s

/-- VABS (R242): Element-wise absolute value. -/
def execVabs (p : BitVec 3) (q : BitVec 1) (hd ha : BitVec 5) (m : BitVec 2) (sat : BitVec 1) (s : State) : Out :=
  vPush (encV 40 p q (hd.toNat) (ha.toNat) (0) (m.toNat) (sat.toNat) 6) p q s

/-- VNEG (R242): Element-wise negation. -/
def execVneg (p : BitVec 3) (q : BitVec 1) (hd ha : BitVec 5) (m : BitVec 2) (sat : BitVec 1) (s : State) : Out :=
  vPush (encV 40 p q (hd.toNat) (ha.toNat) (0) (m.toNat) (sat.toNat) 7) p q s

/-- VSCALE (R241): Scales elements by a power of two. -/
def execVscale (p : BitVec 3) (q : BitVec 1) (hd ha hb : BitVec 5) (m : BitVec 2) (sat : BitVec 1) (s : State) : Out :=
  vPush (encV 40 p q (hd.toNat) (ha.toNat) (hb.toNat) (m.toNat) (sat.toNat) 8) p q s

/-- VCLIP (R241): Clips elements to plus or minus |b|. -/
def execVclip (p : BitVec 3) (q : BitVec 1) (hd ha hb : BitVec 5) (m : BitVec 2) (sat : BitVec 1) (s : State) : Out :=
  vPush (encV 40 p q (hd.toNat) (ha.toNat) (hb.toNat) (m.toNat) (sat.toNat) 9) p q s

/-- VEXP (R243): Correctly rounded e^a per element. -/
def execVexp (p : BitVec 3) (q : BitVec 1) (hd ha : BitVec 5) (m : BitVec 2) (sat : BitVec 1) (s : State) : Out :=
  vPush (encV 41 p q (hd.toNat) (ha.toNat) (0) (m.toNat) (sat.toNat) 0) p q s

/-- VLOG (R243): Correctly rounded ln a per element. -/
def execVlog (p : BitVec 3) (q : BitVec 1) (hd ha : BitVec 5) (m : BitVec 2) (sat : BitVec 1) (s : State) : Out :=
  vPush (encV 41 p q (hd.toNat) (ha.toNat) (0) (m.toNat) (sat.toNat) 1) p q s

/-- VRCP (R243): Correctly rounded reciprocal per element. -/
def execVrcp (p : BitVec 3) (q : BitVec 1) (hd ha : BitVec 5) (m : BitVec 2) (sat : BitVec 1) (s : State) : Out :=
  vPush (encV 41 p q (hd.toNat) (ha.toNat) (0) (m.toNat) (sat.toNat) 2) p q s

/-- VRSQRT (R243): Correctly rounded reciprocal square root per element. -/
def execVrsqrt (p : BitVec 3) (q : BitVec 1) (hd ha : BitVec 5) (m : BitVec 2) (sat : BitVec 1) (s : State) : Out :=
  vPush (encV 41 p q (hd.toNat) (ha.toNat) (0) (m.toNat) (sat.toNat) 3) p q s

/-- VTANH (R243): Correctly rounded tanh per element. -/
def execVtanh (p : BitVec 3) (q : BitVec 1) (hd ha : BitVec 5) (m : BitVec 2) (sat : BitVec 1) (s : State) : Out :=
  vPush (encV 41 p q (hd.toNat) (ha.toNat) (0) (m.toNat) (sat.toNat) 4) p q s

/-- VSIGM (R243): Correctly rounded sigmoid per element. -/
def execVsigm (p : BitVec 3) (q : BitVec 1) (hd ha : BitVec 5) (m : BitVec 2) (sat : BitVec 1) (s : State) : Out :=
  vPush (encV 41 p q (hd.toNat) (ha.toNat) (0) (m.toNat) (sat.toNat) 5) p q s

/-- VSILU (R243): Correctly rounded SiLU per element. -/
def execVsilu (p : BitVec 3) (q : BitVec 1) (hd ha : BitVec 5) (m : BitVec 2) (sat : BitVec 1) (s : State) : Out :=
  vPush (encV 41 p q (hd.toNat) (ha.toNat) (0) (m.toNat) (sat.toNat) 6) p q s

/-- VERF (R243): Correctly rounded erf per element. -/
def execVerf (p : BitVec 3) (q : BitVec 1) (hd ha : BitVec 5) (m : BitVec 2) (sat : BitVec 1) (s : State) : Out :=
  vPush (encV 41 p q (hd.toNat) (ha.toNat) (0) (m.toNat) (sat.toNat) 7) p q s

/-- VIADD (R244): Element-wise integer addition. -/
def execViadd (p : BitVec 3) (q : BitVec 1) (hd ha hb : BitVec 5) (sat : BitVec 1) (s : State) : Out :=
  vPush (encV 42 p q (hd.toNat) (ha.toNat) (hb.toNat) (0) (sat.toNat) 0) p q s

/-- VISUB (R244): Element-wise integer subtraction. -/
def execVisub (p : BitVec 3) (q : BitVec 1) (hd ha hb : BitVec 5) (sat : BitVec 1) (s : State) : Out :=
  vPush (encV 42 p q (hd.toNat) (ha.toNat) (hb.toNat) (0) (sat.toNat) 1) p q s

/-- VIMUL (R244): Element-wise integer multiplication. -/
def execVimul (p : BitVec 3) (q : BitVec 1) (hd ha hb : BitVec 5) (sat : BitVec 1) (s : State) : Out :=
  vPush (encV 42 p q (hd.toNat) (ha.toNat) (hb.toNat) (0) (sat.toNat) 2) p q s

/-- VIMAC (R244): Element-wise integer multiply-accumulate into HD. -/
def execVimac (p : BitVec 3) (q : BitVec 1) (hd ha hb : BitVec 5) (sat : BitVec 1) (s : State) : Out :=
  vPush (encV 42 p q (hd.toNat) (ha.toNat) (hb.toNat) (0) (sat.toNat) 3) p q s

/-- VAND (R244): Element-wise bitwise and. -/
def execVand (p : BitVec 3) (q : BitVec 1) (hd ha hb : BitVec 5) (sat : BitVec 1) (s : State) : Out :=
  vPush (encV 42 p q (hd.toNat) (ha.toNat) (hb.toNat) (0) (sat.toNat) 4) p q s

/-- VOR (R244): Element-wise bitwise or. -/
def execVor (p : BitVec 3) (q : BitVec 1) (hd ha hb : BitVec 5) (sat : BitVec 1) (s : State) : Out :=
  vPush (encV 42 p q (hd.toNat) (ha.toNat) (hb.toNat) (0) (sat.toNat) 5) p q s

/-- VXOR (R244): Element-wise bitwise xor. -/
def execVxor (p : BitVec 3) (q : BitVec 1) (hd ha hb : BitVec 5) (sat : BitVec 1) (s : State) : Out :=
  vPush (encV 42 p q (hd.toNat) (ha.toNat) (hb.toNat) (0) (sat.toNat) 6) p q s

/-- VSHL (R244): Element-wise left shift. -/
def execVshl (p : BitVec 3) (q : BitVec 1) (hd ha hb : BitVec 5) (sat : BitVec 1) (s : State) : Out :=
  vPush (encV 42 p q (hd.toNat) (ha.toNat) (hb.toNat) (0) (sat.toNat) 7) p q s

/-- VSHR (R244): Element-wise arithmetic right shift. -/
def execVshr (p : BitVec 3) (q : BitVec 1) (hd ha hb : BitVec 5) (sat : BitVec 1) (s : State) : Out :=
  vPush (encV 42 p q (hd.toNat) (ha.toNat) (hb.toNat) (0) (sat.toNat) 8) p q s

/-- VRSH (R244): Element-wise rounding right shift, half up. -/
def execVrsh (p : BitVec 3) (q : BitVec 1) (hd ha hb : BitVec 5) (sat : BitVec 1) (s : State) : Out :=
  vPush (encV 42 p q (hd.toNat) (ha.toNat) (hb.toNat) (0) (sat.toNat) 9) p q s

/-- VCLAMPI (R244): Element-wise clamp to 0 to b. -/
def execVclampi (p : BitVec 3) (q : BitVec 1) (hd ha hb : BitVec 5) (sat : BitVec 1) (s : State) : Out :=
  vPush (encV 42 p q (hd.toNat) (ha.toNat) (hb.toNat) (0) (sat.toNat) 10) p q s

/-- VCOPY (R245): Copies element patterns. -/
def execVcopy (p : BitVec 3) (q : BitVec 1) (hd ha : BitVec 5) (s : State) : Out :=
  vPush (encV 43 p q (hd.toNat) (ha.toNat) (0) (0) (0) 0) p q s

/-- VFILL (R245): Fills HD with the rounded first element of HA. -/
def execVfill (p : BitVec 3) (q : BitVec 1) (hd ha : BitVec 5) (m : BitVec 2) (sat : BitVec 1) (s : State) : Out :=
  vPush (encV 43 p q (hd.toNat) (ha.toNat) (0) (m.toNat) (sat.toNat) 1) p q s

/-- VCVT (R245): Converts elements between formats. -/
def execVcvt (p : BitVec 3) (q : BitVec 1) (hd ha : BitVec 5) (m : BitVec 2) (sat : BitVec 1) (s : State) : Out :=
  vPush (encV 43 p q (hd.toNat) (ha.toNat) (0) (m.toNat) (sat.toNat) 2) p q s

/-- VGATH (R245): Gathers HA elements by index. -/
def execVgath (p : BitVec 3) (q : BitVec 1) (hd ha hb : BitVec 5) (s : State) : Out :=
  vPush (encV 43 p q (hd.toNat) (ha.toNat) (hb.toNat) (0) (0) 3) p q s

/-- VSCAT (R245): Scatters HA elements to HD by index. -/
def execVscat (p : BitVec 3) (q : BitVec 1) (hd ha hb : BitVec 5) (s : State) : Out :=
  vPush (encV 43 p q (hd.toNat) (ha.toNat) (hb.toNat) (0) (0) 4) p q s

/-- VSEL (R245): Writes HA elements where HB is non-zero. -/
def execVsel (p : BitVec 3) (q : BitVec 1) (hd ha hb : BitVec 5) (s : State) : Out :=
  vPush (encV 43 p q (hd.toNat) (ha.toNat) (hb.toNat) (0) (0) 5) p q s

/-- VSUM (R246): Reduces each row to its sum by the fixed tree. -/
def execVsum (p : BitVec 3) (q : BitVec 1) (hd ha : BitVec 5) (m : BitVec 2) (sat : BitVec 1) (s : State) : Out :=
  vPush (encV 44 p q (hd.toNat) (ha.toNat) (0) (m.toNat) (sat.toNat) 0) p q s

/-- VMAXR (R246): Reduces each row to its greatest element. -/
def execVmaxr (p : BitVec 3) (q : BitVec 1) (hd ha : BitVec 5) (m : BitVec 2) (sat : BitVec 1) (s : State) : Out :=
  vPush (encV 44 p q (hd.toNat) (ha.toNat) (0) (m.toNat) (sat.toNat) 1) p q s

/-- VMINR (R246): Reduces each row to its least element. -/
def execVminr (p : BitVec 3) (q : BitVec 1) (hd ha : BitVec 5) (m : BitVec 2) (sat : BitVec 1) (s : State) : Out :=
  vPush (encV 44 p q (hd.toNat) (ha.toNat) (0) (m.toNat) (sat.toNat) 2) p q s

/-- VDOT (R246): Reduces each row to a dot product. -/
def execVdot (p : BitVec 3) (q : BitVec 1) (hd ha hb : BitVec 5) (m : BitVec 2) (sat : BitVec 1) (s : State) : Out :=
  vPush (encV 44 p q (hd.toNat) (ha.toNat) (hb.toNat) (m.toNat) (sat.toNat) 3) p q s

/-- VCMP (R248): Compares elements under the COND of HD's record. -/
def execVcmp (p : BitVec 3) (q : BitVec 1) (hd ha hb : BitVec 5) (s : State) : Out :=
  vPush (encV 45 p q (hd.toNat) (ha.toNat) (hb.toNat) (0) (0) 0) p q s

/-- VHIST (R249): Counts valid elements of each row by bucket. -/
def execVhist (p : BitVec 3) (q : BitVec 1) (hd ha : BitVec 5) (s : State) : Out :=
  vPush (encV 45 p q (hd.toNat) (ha.toNat) (0) (0) (0) 1) p q s

/-- VSELK (R250): Selects up to k large values per row with their indices. -/
def execVselk (p : BitVec 3) (q : BitVec 1) (hd ha hb : BitVec 5) (s : State) : Out :=
  vPush (encV 45 p q (hd.toNat) (ha.toNat) (hb.toNat) (0) (0) 2) p q s

/-- VMRG (R251): Merges two partial top-k lists. -/
def execVmrg (p : BitVec 3) (q : BitVec 1) (hd ha hb : BitVec 5) (s : State) : Out :=
  vPush (encV 45 p q (hd.toNat) (ha.toNat) (hb.toNat) (0) (0) 3) p q s

/-- VCNT (R252): Counts non-zero valid elements of each row. -/
def execVcnt (p : BitVec 3) (q : BitVec 1) (hd ha : BitVec 5) (s : State) : Out :=
  vPush (encV 45 p q (hd.toNat) (ha.toNat) (0) (0) (0) 4) p q s

/-- VLOOP (R238): Opens a vector loop body of n passes with stagger s. -/
def execVloop (p : BitVec 3) (q : BitVec 1) (n k : BitVec 5) (s : State) : Out :=
  vPush (encV 46 p q (n.toNat) (k.toNat) (0) (0) (0) 0) p q s (bad := Seq.isOpen)

/-- VEND (R238): Closes the open vector loop body. -/
def execVend (p : BitVec 3) (q : BitVec 1) (s : State) : Out :=
  vPush (encV 46 p q (0) (0) (0) (0) (0) 1) p q s (bad := fun q => !q.isOpen || q.openLen == 0)

/-- VWAIT (R239): Holds the thread until its vector sequencer is empty. -/
def execVwait (p : BitVec 3) (q : BitVec 1) (s : State) : Out :=
  frame (encV 46 p q (0) (0) (0) (0) (0) 2) 4 p q s fun tid t s =>
    if t.seq.frozen then s.trap tid t 9 (Config.frozenEbad t.pc)
    else if t.seq.isOpen then s.trap tid t 1 (BitVec.setWidth 64 (encV 46 p q (0) (0) (0) (0) (0) 2))
    else if !t.seq.ents.isEmpty then s.wait tid t (.held .vwait)
    else s.retire tid t

end Sys2Proof.Machine
end

