-- ==== Sys2Proof/Machine/Dispatch.lean ====
section
/-! DEFINITION. One arm per step of the table: a direct call of its meaning, or its rejection by name. -/

namespace Sys2Proof.Machine

def exec (i : Instr) (s : State) : Host.Outcome State Fault Refusal :=
  match i with
  | .add p q d a b => Sys2Proof.Machine.execAdd p q d a b s
  | .sub p q d a b => Sys2Proof.Machine.execSub p q d a b s
  | .and p q d a b => Sys2Proof.Machine.execAnd p q d a b s
  | .or p q d a b => Sys2Proof.Machine.execOr p q d a b s
  | .xor p q d a b => Sys2Proof.Machine.execXor p q d a b s
  | .andn p q d a b => Sys2Proof.Machine.execAndn p q d a b s
  | .orn p q d a b => Sys2Proof.Machine.execOrn p q d a b s
  | .sll p q d a b => Sys2Proof.Machine.execSll p q d a b s
  | .srl p q d a b => Sys2Proof.Machine.execSrl p q d a b s
  | .sra p q d a b => Sys2Proof.Machine.execSra p q d a b s
  | .rol p q d a b => Sys2Proof.Machine.execRol p q d a b s
  | .ror p q d a b => Sys2Proof.Machine.execRor p q d a b s
  | .mul p q d a b => Sys2Proof.Machine.execMul p q d a b s
  | .mulh p q d a b => Sys2Proof.Machine.execMulh p q d a b s
  | .mulhu p q d a b => Sys2Proof.Machine.execMulhu p q d a b s
  | .div p q d a b => Sys2Proof.Machine.execDiv p q d a b s
  | .divu p q d a b => Sys2Proof.Machine.execDivu p q d a b s
  | .rem p q d a b => Sys2Proof.Machine.execRem p q d a b s
  | .remu p q d a b => Sys2Proof.Machine.execRemu p q d a b s
  | .min p q d a b => Sys2Proof.Machine.execMin p q d a b s
  | .max p q d a b => Sys2Proof.Machine.execMax p q d a b s
  | .minu p q d a b => Sys2Proof.Machine.execMinu p q d a b s
  | .maxu p q d a b => Sys2Proof.Machine.execMaxu p q d a b s
  | .clz p q d a => Sys2Proof.Machine.execClz p q d a s
  | .ctz p q d a => Sys2Proof.Machine.execCtz p q d a s
  | .popc p q d a => Sys2Proof.Machine.execPopc p q d a s
  | .brev p q d a => Sys2Proof.Machine.execBrev p q d a s
  | .sextb p q d a => Sys2Proof.Machine.execSextb p q d a s
  | .sexth p q d a => Sys2Proof.Machine.execSexth p q d a s
  | .sextw p q d a => Sys2Proof.Machine.execSextw p q d a s
  | .zextb p q d a => Sys2Proof.Machine.execZextb p q d a s
  | .zexth p q d a => Sys2Proof.Machine.execZexth p q d a s
  | .zextw p q d a => Sys2Proof.Machine.execZextw p q d a s
  | .bfx p q d a b => Sys2Proof.Machine.execBfx p q d a b s
  | .bfi p q d a b => Sys2Proof.Machine.execBfi p q d a b s
  | .addi p q d a imm => Sys2Proof.Machine.execAddi p q d a imm s
  | .addiI38 p q d a imm => Sys2Proof.Machine.execAddiI38 p q d a imm s
  | .andi p q d a imm => Sys2Proof.Machine.execAndi p q d a imm s
  | .andiI38 p q d a imm => Sys2Proof.Machine.execAndiI38 p q d a imm s
  | .ori p q d a imm => Sys2Proof.Machine.execOri p q d a imm s
  | .oriI38 p q d a imm => Sys2Proof.Machine.execOriI38 p q d a imm s
  | .xori p q d a imm => Sys2Proof.Machine.execXori p q d a imm s
  | .xoriI38 p q d a imm => Sys2Proof.Machine.execXoriI38 p q d a imm s
  | .slli p q d a n => Sys2Proof.Machine.execSlli p q d a n s
  | .srli p q d a n => Sys2Proof.Machine.execSrli p q d a n s
  | .srai p q d a n => Sys2Proof.Machine.execSrai p q d a n s
  | .li p q d imm => Sys2Proof.Machine.execLi p q d imm s
  | .liI38 p q d imm => Sys2Proof.Machine.execLiI38 p q d imm s
  | .lih p q d imm => Sys2Proof.Machine.execLih p q d imm s
  | .lihI38 p q d imm => Sys2Proof.Machine.execLihI38 p q d imm s
  | .eq p q pd c a b => Sys2Proof.Machine.execEq p q pd c a b s
  | .ne p q pd c a b => Sys2Proof.Machine.execNe p q pd c a b s
  | .lt p q pd c a b => Sys2Proof.Machine.execLt p q pd c a b s
  | .ge p q pd c a b => Sys2Proof.Machine.execGe p q pd c a b s
  | .ltu p q pd c a b => Sys2Proof.Machine.execLtu p q pd c a b s
  | .geu p q pd c a b => Sys2Proof.Machine.execGeu p q pd c a b s
  | .feq p q pd c a b => Sys2Proof.Machine.execFeq p q pd c a b s
  | .fne p q pd c a b => Sys2Proof.Machine.execFne p q pd c a b s
  | .flt p q pd c a b => Sys2Proof.Machine.execFlt p q pd c a b s
  | .fle p q pd c a b => Sys2Proof.Machine.execFle p q pd c a b s
  | .funord p q pd c a b => Sys2Proof.Machine.execFunord p q pd c a b s
  | .cmpeqi p q pd c a imm => Sys2Proof.Machine.execCmpeqi p q pd c a imm s
  | .cmpeqiI38 p q pd c a imm => Sys2Proof.Machine.execCmpeqiI38 p q pd c a imm s
  | .cmplti p q pd c a imm => Sys2Proof.Machine.execCmplti p q pd c a imm s
  | .cmpltiI38 p q pd c a imm => Sys2Proof.Machine.execCmpltiI38 p q pd c a imm s
  | .cmpltui p q pd c a imm => Sys2Proof.Machine.execCmpltui p q pd c a imm s
  | .cmpltuiI38 p q pd c a imm => Sys2Proof.Machine.execCmpltuiI38 p q pd c a imm s
  | .pand p q pd pa pb => Sys2Proof.Machine.execPand p q pd pa pb s
  | .por p q pd pa pb => Sys2Proof.Machine.execPor p q pd pa pb s
  | .pxor p q pd pa pb => Sys2Proof.Machine.execPxor p q pd pa pb s
  | .pandn p q pd pa pb => Sys2Proof.Machine.execPandn p q pd pa pb s
  | .pget p q d => Sys2Proof.Machine.execPget p q d s
  | .pput p q a => Sys2Proof.Machine.execPput p q a s
  | .br p q off => Sys2Proof.Machine.execBr p q off s
  | .jal p q off => Sys2Proof.Machine.execJal p q off s
  | .jr p q a => Sys2Proof.Machine.execJr p q a s
  | .jalr p q d a => Sys2Proof.Machine.execJalr p q d a s
  | .fadd p q d a b m => Sys2Proof.Machine.execFadd p q d a b m s
  | .fsub p q d a b m => Sys2Proof.Machine.execFsub p q d a b m s
  | .fmul p q d a b m => Sys2Proof.Machine.execFmul p q d a b m s
  | .fdiv p q d a b m => Sys2Proof.Machine.execFdiv p q d a b m s
  | .fsqrt p q d a m => Sys2Proof.Machine.execFsqrt p q d a m s
  | .fmin p q d a b => Sys2Proof.Machine.execFmin p q d a b s
  | .fmax p q d a b => Sys2Proof.Machine.execFmax p q d a b s
  | .fabs p q d a => Sys2Proof.Machine.execFabs p q d a s
  | .fneg p q d a => Sys2Proof.Machine.execFneg p q d a s
  | .fmadd p q d a b m => Sys2Proof.Machine.execFmadd p q d a b m s
  | .cvt p q d a m dst src => Sys2Proof.Machine.execCvt p q d a m dst src s
  | .rdsr p q d sys => Sys2Proof.Machine.execRdsr p q d sys s
  | .wrsr p q a sys => Sys2Proof.Machine.execWrsr p q a sys s
  | .wrsrVectorState p q a sys => Sys2Proof.Machine.execWrsrVectorState p q a sys s
  | .wrsrSegbase p q a => Sys2Proof.Machine.execWrsrSegbase p q a s
  | .wrsrRotmode p q a => Sys2Proof.Machine.execWrsrRotmode p q a s
  | .rotmodeSwitch core => Sys2Proof.Machine.execRotmodeSwitch core s
  | .wrsrDonord p q a => Sys2Proof.Machine.execWrsrDonord p q a s
  | .wrsrSlottab p q a => Sys2Proof.Machine.execWrsrSlottab p q a s
  | .wrsrAcct p q a => Sys2Proof.Machine.execWrsrAcct p q a s
  | .acctSnapshot core => Sys2Proof.Machine.execAcctSnapshot core s
  | .wrsrLogRing p q a sys => Sys2Proof.Machine.execWrsrLogRing p q a sys s
  | .wrsrLogcons p q a => Sys2Proof.Machine.execWrsrLogcons p q a s
  | .wrsrReplay p q a => Sys2Proof.Machine.execWrsrReplay p q a s
  | .ldb p q d a imm => Sys2Proof.Machine.execLdb p q d a imm s
  | .ldbu p q d a imm => Sys2Proof.Machine.execLdbu p q d a imm s
  | .ldh p q d a imm => Sys2Proof.Machine.execLdh p q d a imm s
  | .ldhu p q d a imm => Sys2Proof.Machine.execLdhu p q d a imm s
  | .ldw p q d a imm => Sys2Proof.Machine.execLdw p q d a imm s
  | .ldwu p q d a imm => Sys2Proof.Machine.execLdwu p q d a imm s
  | .ldd p q d a imm => Sys2Proof.Machine.execLdd p q d a imm s
  | .stb p q d a imm => Sys2Proof.Machine.execStb p q d a imm s
  | .sth p q d a imm => Sys2Proof.Machine.execSth p q d a imm s
  | .stw p q d a imm => Sys2Proof.Machine.execStw p q d a imm s
  | .std p q d a imm => Sys2Proof.Machine.execStd p q d a imm s
  | .ldbI38 p q d a imm => Sys2Proof.Machine.execLdbI38 p q d a imm s
  | .ldbuI38 p q d a imm => Sys2Proof.Machine.execLdbuI38 p q d a imm s
  | .ldhI38 p q d a imm => Sys2Proof.Machine.execLdhI38 p q d a imm s
  | .ldhuI38 p q d a imm => Sys2Proof.Machine.execLdhuI38 p q d a imm s
  | .ldwI38 p q d a imm => Sys2Proof.Machine.execLdwI38 p q d a imm s
  | .ldwuI38 p q d a imm => Sys2Proof.Machine.execLdwuI38 p q d a imm s
  | .lddI38 p q d a imm => Sys2Proof.Machine.execLddI38 p q d a imm s
  | .stbI38 p q d a imm => Sys2Proof.Machine.execStbI38 p q d a imm s
  | .sthI38 p q d a imm => Sys2Proof.Machine.execSthI38 p q d a imm s
  | .stwI38 p q d a imm => Sys2Proof.Machine.execStwI38 p q d a imm s
  | .stdI38 p q d a imm => Sys2Proof.Machine.execStdI38 p q d a imm s
  | .ldbRlx p q d a imm => Sys2Proof.Machine.execLdbRlx p q d a imm s
  | .ldbuRlx p q d a imm => Sys2Proof.Machine.execLdbuRlx p q d a imm s
  | .ldhRlx p q d a imm => Sys2Proof.Machine.execLdhRlx p q d a imm s
  | .ldhuRlx p q d a imm => Sys2Proof.Machine.execLdhuRlx p q d a imm s
  | .ldwRlx p q d a imm => Sys2Proof.Machine.execLdwRlx p q d a imm s
  | .ldwuRlx p q d a imm => Sys2Proof.Machine.execLdwuRlx p q d a imm s
  | .lddRlx p q d a imm => Sys2Proof.Machine.execLddRlx p q d a imm s
  | .stbRlx p q d a imm => Sys2Proof.Machine.execStbRlx p q d a imm s
  | .sthRlx p q d a imm => Sys2Proof.Machine.execSthRlx p q d a imm s
  | .stwRlx p q d a imm => Sys2Proof.Machine.execStwRlx p q d a imm s
  | .stdRlx p q d a imm => Sys2Proof.Machine.execStdRlx p q d a imm s
  | .relaxedAccessCompletion tid n => Sys2Proof.Machine.execRelaxedAccessCompletion tid n s
  | .deferredRelaxedFault tid => Sys2Proof.Machine.execDeferredRelaxedFault tid s
  | .ldf p q d a => Sys2Proof.Machine.execLdf p q d a s
  | .ldfe p q d a => Sys2Proof.Machine.execLdfe p q d a s
  | .ste p q d a => Sys2Proof.Machine.execSte p q d a s
  | .stf p q d a => Sys2Proof.Machine.execStf p q d a s
  | .fclr p q a => Sys2Proof.Machine.execFclr p q a s
  | .fset p q a => Sys2Proof.Machine.execFset p q a s
  | .fstat p q d a => Sys2Proof.Machine.execFstat p q d a s
  | .syncWaitSatisfied core pos => Sys2Proof.Machine.execSyncWaitSatisfied core pos s
  | .aadd p q d a b w => Sys2Proof.Machine.execAadd p q d a b w s
  | .aand p q d a b w => Sys2Proof.Machine.execAand p q d a b w s
  | .aor p q d a b w => Sys2Proof.Machine.execAor p q d a b w s
  | .axor p q d a b w => Sys2Proof.Machine.execAxor p q d a b w s
  | .amin p q d a b w => Sys2Proof.Machine.execAmin p q d a b w s
  | .amax p q d a b w => Sys2Proof.Machine.execAmax p q d a b w s
  | .aminu p q d a b w => Sys2Proof.Machine.execAminu p q d a b w s
  | .amaxu p q d a b w => Sys2Proof.Machine.execAmaxu p q d a b w s
  | .aswp p q d a b w => Sys2Proof.Machine.execAswp p q d a b w s
  | .acas p q d a b w => Sys2Proof.Machine.execAcas p q d a b w s
  | .afadd p q d a b => Sys2Proof.Machine.execAfadd p q d a b s
  | .bankReservationGrant key => Sys2Proof.Machine.execBankReservationGrant key s
  | .proxyHostAtomic die qn => Sys2Proof.Machine.execProxyHostAtomic die qn s
  | .sealPages p q a b => Sys2Proof.Machine.execSealPages p q a b s
  | .unsealPages p q a b => Sys2Proof.Machine.execUnsealPages p q a b s
  | .sealq p q d a => Sys2Proof.Machine.execSealq p q d a s
  | .sealComplete n => Sys2Proof.Machine.execSealComplete n s
  | .unsealComplete n => Sys2Proof.Machine.execUnsealComplete n s
  | .fetchHoldRelease tid => Sys2Proof.Machine.execFetchHoldRelease tid s
  | .spawn p q d a b => Sys2Proof.Machine.execSpawn p q d a b s
  | .join p q a => Sys2Proof.Machine.execJoin p q a s
  | .jinit p q a b => Sys2Proof.Machine.execJinit p q a b s
  | .exit p q => Sys2Proof.Machine.execExit p q s
  | .yield p q a => Sys2Proof.Machine.execYield p q a s
  | .yieldHoldEnd tid => Sys2Proof.Machine.execYieldHoldEnd tid s
  | .migrate p q a => Sys2Proof.Machine.execMigrate p q a s
  | .send p q a b => Sys2Proof.Machine.execSend p q a b s
  | .waitm p q d => Sys2Proof.Machine.execWaitm p q d s
  | .waitc p q d a b => Sys2Proof.Machine.execWaitc p q d a b s
  | .cset p q a b => Sys2Proof.Machine.execCset p q a b s
  | .bar p q a b => Sys2Proof.Machine.execBar p q a b s
  | .fence p q sc => Sys2Proof.Machine.execFence p q sc s
  | .clusterBarrierArrival n => Sys2Proof.Machine.execClusterBarrierArrival n s
  | .clusterBarrierRelease cl bar => Sys2Proof.Machine.execClusterBarrierRelease cl bar s
  | .counterMessage n => Sys2Proof.Machine.execCounterMessage n s
  | .wakeMessageArrival n => Sys2Proof.Machine.execWakeMessageArrival n s
  | .handlerMessageArrival n => Sys2Proof.Machine.execHandlerMessageArrival n s
  | .migrationArrival n => Sys2Proof.Machine.execMigrationArrival n s
  | .migrationRefused n => Sys2Proof.Machine.execMigrationRefused n s
  | .slotBind tid => Sys2Proof.Machine.execSlotBind tid s
  | .stealRequest n => Sys2Proof.Machine.execStealRequest n s
  | .stealReply n => Sys2Proof.Machine.execStealReply n s
  | .stealSearchRetry core cx => Sys2Proof.Machine.execStealSearchRetry core cx s
  | .trap p q a => Sys2Proof.Machine.execTrap p q a s
  | .eret p q => Sys2Proof.Machine.execEret p q s
  | .brk p q => Sys2Proof.Machine.execBrk p q s
  | .halt p q a => Sys2Proof.Machine.execHalt p q a s
  | .haltCompletion cx => Sys2Proof.Machine.execHaltCompletion cx s
  | .tsr p q d => Sys2Proof.Machine.execTsr p q d s
  | .rng p q d => Sys2Proof.Machine.execRng p q d s
  | .logm p q a b => Sys2Proof.Machine.execLogm p q a b s
  | .nop p q => Sys2Proof.Machine.execNop p q s
  | .illegalInstruction w => Sys2Proof.Machine.execIllegalInstruction w s
  | .extensionAbsent w => Sys2Proof.Machine.execExtensionAbsent w s
  | .extensionMigration w => Sys2Proof.Machine.execExtensionMigration w s
  | .memoryReply tid => Sys2Proof.Machine.execMemoryReply tid s
  | .pageWalk home => Sys2Proof.Machine.execPageWalk home s
  | .pageWake n => Sys2Proof.Machine.execPageWake n s
  | .vadd p q hd ha hb m sat => Sys2Proof.Machine.execVadd p q hd ha hb m sat s
  | .vsub p q hd ha hb m sat => Sys2Proof.Machine.execVsub p q hd ha hb m sat s
  | .vmul p q hd ha hb m sat => Sys2Proof.Machine.execVmul p q hd ha hb m sat s
  | .vfma p q hd ha hb m sat => Sys2Proof.Machine.execVfma p q hd ha hb m sat s
  | .vmin p q hd ha hb m sat => Sys2Proof.Machine.execVmin p q hd ha hb m sat s
  | .vmax p q hd ha hb m sat => Sys2Proof.Machine.execVmax p q hd ha hb m sat s
  | .vabs p q hd ha m sat => Sys2Proof.Machine.execVabs p q hd ha m sat s
  | .vneg p q hd ha m sat => Sys2Proof.Machine.execVneg p q hd ha m sat s
  | .vscale p q hd ha hb m sat => Sys2Proof.Machine.execVscale p q hd ha hb m sat s
  | .vclip p q hd ha hb m sat => Sys2Proof.Machine.execVclip p q hd ha hb m sat s
  | .vexp p q hd ha m sat => Sys2Proof.Machine.execVexp p q hd ha m sat s
  | .vlog p q hd ha m sat => Sys2Proof.Machine.execVlog p q hd ha m sat s
  | .vrcp p q hd ha m sat => Sys2Proof.Machine.execVrcp p q hd ha m sat s
  | .vrsqrt p q hd ha m sat => Sys2Proof.Machine.execVrsqrt p q hd ha m sat s
  | .vtanh p q hd ha m sat => Sys2Proof.Machine.execVtanh p q hd ha m sat s
  | .vsigm p q hd ha m sat => Sys2Proof.Machine.execVsigm p q hd ha m sat s
  | .vsilu p q hd ha m sat => Sys2Proof.Machine.execVsilu p q hd ha m sat s
  | .verf p q hd ha m sat => Sys2Proof.Machine.execVerf p q hd ha m sat s
  | .viadd p q hd ha hb sat => Sys2Proof.Machine.execViadd p q hd ha hb sat s
  | .visub p q hd ha hb sat => Sys2Proof.Machine.execVisub p q hd ha hb sat s
  | .vimul p q hd ha hb sat => Sys2Proof.Machine.execVimul p q hd ha hb sat s
  | .vimac p q hd ha hb sat => Sys2Proof.Machine.execVimac p q hd ha hb sat s
  | .vand p q hd ha hb sat => Sys2Proof.Machine.execVand p q hd ha hb sat s
  | .vor p q hd ha hb sat => Sys2Proof.Machine.execVor p q hd ha hb sat s
  | .vxor p q hd ha hb sat => Sys2Proof.Machine.execVxor p q hd ha hb sat s
  | .vshl p q hd ha hb sat => Sys2Proof.Machine.execVshl p q hd ha hb sat s
  | .vshr p q hd ha hb sat => Sys2Proof.Machine.execVshr p q hd ha hb sat s
  | .vrsh p q hd ha hb sat => Sys2Proof.Machine.execVrsh p q hd ha hb sat s
  | .vclampi p q hd ha hb sat => Sys2Proof.Machine.execVclampi p q hd ha hb sat s
  | .vcopy p q hd ha => Sys2Proof.Machine.execVcopy p q hd ha s
  | .vfill p q hd ha m sat => Sys2Proof.Machine.execVfill p q hd ha m sat s
  | .vcvt p q hd ha m sat => Sys2Proof.Machine.execVcvt p q hd ha m sat s
  | .vgath p q hd ha hb => Sys2Proof.Machine.execVgath p q hd ha hb s
  | .vscat p q hd ha hb => Sys2Proof.Machine.execVscat p q hd ha hb s
  | .vsel p q hd ha hb => Sys2Proof.Machine.execVsel p q hd ha hb s
  | .vsum p q hd ha m sat => Sys2Proof.Machine.execVsum p q hd ha m sat s
  | .vmaxr p q hd ha m sat => Sys2Proof.Machine.execVmaxr p q hd ha m sat s
  | .vminr p q hd ha m sat => Sys2Proof.Machine.execVminr p q hd ha m sat s
  | .vdot p q hd ha hb m sat => Sys2Proof.Machine.execVdot p q hd ha hb m sat s
  | .vcmp p q hd ha hb => Sys2Proof.Machine.execVcmp p q hd ha hb s
  | .vhist p q hd ha => Sys2Proof.Machine.execVhist p q hd ha s
  | .vselk p q hd ha hb => Sys2Proof.Machine.execVselk p q hd ha hb s
  | .vmrg p q hd ha hb => Sys2Proof.Machine.execVmrg p q hd ha hb s
  | .vcnt p q hd ha => Sys2Proof.Machine.execVcnt p q hd ha s
  | .vloop p q n k => Sys2Proof.Machine.execVloop p q n k s
  | .vend p q => Sys2Proof.Machine.execVend p q s
  | .vwait p q => Sys2Proof.Machine.execVwait p q s
  | .vectorGroup core => Sys2Proof.Machine.execVectorGroup core s
  | .vectorFaultDelivery tid => Sys2Proof.Machine.execVectorFaultDelivery tid s
  | .mma p q acc ra rb k mf => Sys2Proof.Machine.execMma p q acc ra rb k mf s
  | .mms p q acc ra rb k mf => Sys2Proof.Machine.execMms p q acc ra rb k mf s
  | .mmx p q acc ra rb k mf => Sys2Proof.Machine.execMmx p q acc ra rb k mf s
  | .mmg p q acc ra rb k mf => Sys2Proof.Machine.execMmg p q acc ra rb k mf s
  | .matrixAdmission core => Sys2Proof.Machine.execMatrixAdmission core s
  | .matrixKStep core => Sys2Proof.Machine.execMatrixKStep core s
  | .accz p q t => Sys2Proof.Machine.execAccz p q t s
  | .accrd p q t a b => Sys2Proof.Machine.execAccrd p q t a b s
  | .accwr p q t a b => Sys2Proof.Machine.execAccwr p q t a b s
  | .accTransferDone tid => Sys2Proof.Machine.execAccTransferDone tid s
  | .ringset p q t a => Sys2Proof.Machine.execRingset p q t a s
  | .ringst p q t b => Sys2Proof.Machine.execRingst p q t b s
  | .mpget p q d t => Sys2Proof.Machine.execMpget p q d t s
  | .cpy p q d a b => Sys2Proof.Machine.execCpy p q d a b s
  | .cpyd p q d a b => Sys2Proof.Machine.execCpyd p q d a b s
  | .cpyf p q d a b => Sys2Proof.Machine.execCpyf p q d a b s
  | .cpyq p q d a => Sys2Proof.Machine.execCpyq p q d a s
  | .copyCommandAccept n => Sys2Proof.Machine.execCopyCommandAccept n s
  | .copyCommandCompletion eng => Sys2Proof.Machine.execCopyCommandCompletion eng s
  | .combiningWindowClose cl => Sys2Proof.Machine.execCombiningWindowClose cl s
  | .streamDelivery n => Sys2Proof.Machine.execStreamDelivery n s
  | .streamDeliveryTimeout port => Sys2Proof.Machine.execStreamDeliveryTimeout port s
  | .overflowDeliveryReentry port => Sys2Proof.Machine.execOverflowDeliveryReentry port s
  | .blockExpansion n => Sys2Proof.Machine.execBlockExpansion n s
  | .transformThreadBind core => Sys2Proof.Machine.execTransformThreadBind core s
  | .commThreadBind core => Sys2Proof.Machine.execCommThreadBind core s
  | .thin p q d a b => Sys2Proof.Machine.execThin p q d a b s
  | .mref p q d a b => Sys2Proof.Machine.execMref p q d a b s
  | .mrel p q d a b => Sys2Proof.Machine.execMrel p q d a b s
  | .mver p q d a => Sys2Proof.Machine.execMver p q d a s
  | .intervalBuildStart cl => Sys2Proof.Machine.execIntervalBuildStart cl s
  | .intervalPublish cl => Sys2Proof.Machine.execIntervalPublish cl s
  | .intervalFailure cl => Sys2Proof.Machine.execIntervalFailure cl s
  | .gred p q d a b => Sys2Proof.Machine.execGred p q d a b s
  | .gldr p q d a b => Sys2Proof.Machine.execGldr p q d a b s
  | .gmc p q d a b => Sys2Proof.Machine.execGmc p q d a b s
  | .gsetSet p q d a b => Sys2Proof.Machine.execGsetSet p q d a b s
  | .gsetClear p q d a b => Sys2Proof.Machine.execGsetClear p q d a b s
  | .gq p q d a => Sys2Proof.Machine.execGq p q d a s
  | .groupRegistration n => Sys2Proof.Machine.execGroupRegistration n s
  | .gsetTimeout grp => Sys2Proof.Machine.execGsetTimeout grp s
  | .reductionChunkArrival n => Sys2Proof.Machine.execReductionChunkArrival n s
  | .slotTimerExpiry sw grp slot => Sys2Proof.Machine.execSlotTimerExpiry sw grp slot s
  | .slotNoticeArrival n => Sys2Proof.Machine.execSlotNoticeArrival n s
  | .destinationWrite n => Sys2Proof.Machine.execDestinationWrite n s
  | .statusReturn n => Sys2Proof.Machine.execStatusReturn n s
  | .memberCutoffTimeout core grp seq => Sys2Proof.Machine.execMemberCutoffTimeout core grp seq s
  | .commX1Element core => Sys2Proof.Machine.execCommX1Element core s
  | .commX3Query core => Sys2Proof.Machine.execCommX3Query core s
  | .sbind p q x a => Sys2Proof.Machine.execSbind p q x a s
  | .sfree p q x => Sys2Proof.Machine.execSfree p q x s
  | .xstat p q d x => Sys2Proof.Machine.execXstat p q d x s
  | .bget p q d a => Sys2Proof.Machine.execBget p q d a s
  | .bpeek p q d a => Sys2Proof.Machine.execBpeek p q d a s
  | .bskip p q a => Sys2Proof.Machine.execBskip p q a s
  | .bput p q a b => Sys2Proof.Machine.execBput p q a b s
  | .bflush p q d => Sys2Proof.Machine.execBflush p q d s
  | .bhdr p q d => Sys2Proof.Machine.execBhdr p q d s
  | .bexp p q d a => Sys2Proof.Machine.execBexp p q d a s
  | .bsync p q d => Sys2Proof.Machine.execBsync p q d s
  | .hwalk p q d a b => Sys2Proof.Machine.execHwalk p q d a b s
  | .hins p q d a => Sys2Proof.Machine.execHins p q d a s
  | .hdel p q d a => Sys2Proof.Machine.execHdel p q d a s
  | .tlbi p q a b => Sys2Proof.Machine.execTlbi p q a b s
  | .hotr p q d a b => Sys2Proof.Machine.execHotr p q d a b s
  | .pgmv p q d a b => Sys2Proof.Machine.execPgmv p q d a b s
  | .pageMoveSwitch n => Sys2Proof.Machine.execPageMoveSwitch n s
  | .bpset p q a b => Sys2Proof.Machine.execBpset p q a b s
  | .bpclr p q a => Sys2Proof.Machine.execBpclr p q a s
  | .tstart p q a => Sys2Proof.Machine.execTstart p q a s
  | .tstop p q => Sys2Proof.Machine.execTstop p q s
  | .snap p q d a => Sys2Proof.Machine.execSnap p q d a s
  | .hardwareBreakpoint n => Sys2Proof.Machine.execHardwareBreakpoint n s
  | .spill tid => Sys2Proof.Machine.execSpill tid s
  | .spillResume tid cx => Sys2Proof.Machine.execSpillResume tid cx s
  | .logAppend cx die => Sys2Proof.Machine.execLogAppend cx die s
  | .replayRecordDispatch cx die => Sys2Proof.Machine.execReplayRecordDispatch cx die s
  | .replayWaitTimeout tid => Sys2Proof.Machine.execReplayWaitTimeout tid s
  | .timeMessage pkg carried delay => Sys2Proof.Machine.execTimeMessage pkg carried delay s
  | .masterTimeFailover => Sys2Proof.Machine.execMasterTimeFailover s
  | .loadData pkg ep conn queued bytes => Sys2Proof.Machine.execLoadData pkg ep conn queued bytes s
  | .loadPageTable pkg ep conn queued bytes => Sys2Proof.Machine.execLoadPageTable pkg ep conn queued bytes s
  | .launchCreate pkg ep conn queued bytes => Sys2Proof.Machine.execLaunchCreate pkg ep conn queued bytes s
  | .launchPriority pkg ep conn queued bytes => Sys2Proof.Machine.execLaunchPriority pkg ep conn queued bytes s
  | .snapshot pkg ep conn queued bytes => Sys2Proof.Machine.execSnapshot pkg ep conn queued bytes s
  | .queryHealth pkg ep conn queued bytes => Sys2Proof.Machine.execQueryHealth pkg ep conn queued bytes s
  | .queryDigest pkg ep conn queued bytes => Sys2Proof.Machine.execQueryDigest pkg ep conn queued bytes s
  | .queryContextStates pkg ep conn queued bytes => Sys2Proof.Machine.execQueryContextStates pkg ep conn queued bytes s
  | .queryAttestation pkg ep conn queued bytes => Sys2Proof.Machine.execQueryAttestation pkg ep conn queued bytes s
  | .sealCommand pkg ep conn queued bytes => Sys2Proof.Machine.execSealCommand pkg ep conn queued bytes s
  | .unsealCommand pkg ep conn queued bytes => Sys2Proof.Machine.execUnsealCommand pkg ep conn queued bytes s
  | .resetContext pkg ep conn queued bytes => Sys2Proof.Machine.execResetContext pkg ep conn queued bytes s
  | .resetPackage pkg ep conn queued bytes => Sys2Proof.Machine.execResetPackage pkg ep conn queued bytes s
  | .foreignPacketDrop pkg ep => Sys2Proof.Machine.execForeignPacketDrop pkg ep s
  | .hostset pkg ep eps => Sys2Proof.Machine.execHostset pkg ep eps s
  | .window pkg ep n bytes => Sys2Proof.Machine.execWindow pkg ep n bytes s
  | .stop pkg ep lcn slot queued => Sys2Proof.Machine.execStop pkg ep lcn slot queued s
  | .resume pkg ep lcn slot => Sys2Proof.Machine.execResume pkg ep lcn slot s
  | .pkread pkg ep lcn slot => Sys2Proof.Machine.execPkread pkg ep lcn slot s
  | .pkwrite pkg ep lcn slot bytes => Sys2Proof.Machine.execPkwrite pkg ep lcn slot bytes s
  | .fwload pkg ep n bytes => Sys2Proof.Machine.execFwload pkg ep n bytes s
  | .powercap pkg ep watts => Sys2Proof.Machine.execPowercap pkg ep watts s
  | .powerOn pkg repaired => Sys2Proof.Machine.execPowerOn pkg repaired s
  | .throttle pkg => Sys2Proof.Machine.execThrottle pkg s
  | .throttleRelease pkg => Sys2Proof.Machine.execThrottleRelease pkg s
  | .thermalShutdown pkg => Sys2Proof.Machine.execThermalShutdown pkg s
  | .correctedError pkg phys => Sys2Proof.Machine.execCorrectedError pkg phys s
  | .uncorrectableThreadState tid => Sys2Proof.Machine.execUncorrectableThreadState tid s
  | .uncorrectableCoreState core => Sys2Proof.Machine.execUncorrectableCoreState core s
  | .coreDisable core => Sys2Proof.Machine.execCoreDisable core s
  | .tlbEntryError cl n => Sys2Proof.Machine.execTlbEntryError cl n s
  | .replicaLineError cl line => Sys2Proof.Machine.execReplicaLineError cl line s
  | .shardBucketError pkg die home bucket => Sys2Proof.Machine.execShardBucketError pkg die home bucket s
  | .engineFault eng => Sys2Proof.Machine.execEngineFault eng s
  | .barrierStateError cl bar => Sys2Proof.Machine.execBarrierStateError cl bar s
  | .mapEntryError cx core => Sys2Proof.Machine.execMapEntryError cx core s
  | .meshLinkFault pkg die link => Sys2Proof.Machine.execMeshLinkFault pkg die link s
  | .thinningUnitError cl => Sys2Proof.Machine.execThinningUnitError cl s
  | .logAppendFailure cx die => Sys2Proof.Machine.execLogAppendFailure cx die s
  | .sequenceStateError cx obj => Sys2Proof.Machine.execSequenceStateError cx obj s
  | .logUnitDisabled pkg die => Sys2Proof.Machine.execLogUnitDisabled pkg die s
  | .channelRetirement pkg stack chan unit => Sys2Proof.Machine.execChannelRetirement pkg stack chan unit s
  | .spareCopyComplete pkg stack => Sys2Proof.Machine.execSpareCopyComplete pkg stack s
  | .dieSublinkFailure pkg => Sys2Proof.Machine.execDieSublinkFailure pkg s
  | .dieLinkLost pkg => Sys2Proof.Machine.execDieLinkLost pkg s
  | .flitCrcError pkg port => Sys2Proof.Machine.execFlitCrcError pkg port s
  | .laneFailure pkg port => Sys2Proof.Machine.execLaneFailure pkg port s
  | .portDown pkg port => Sys2Proof.Machine.execPortDown pkg port s
  | .slotUncorrectable sw grp slot => Sys2Proof.Machine.execSlotUncorrectable sw grp slot s
  | .treeEntryError sw grp => Sys2Proof.Machine.execTreeEntryError sw grp s
  | .timeAccountCycle core => Sys2Proof.Machine.execTimeAccountCycle core s
  | .timeStampCounterTick => Sys2Proof.Machine.execTimeStampCounterTick s

end Sys2Proof.Machine
end

