-- ==== Sys2Proof/Machine/Turn.lean ====
section
/-! DEFINITION. Issue turns (R91 to R93, R193 to R197), fetching (R76 to R78), and the instruction at a pc (R70). -/

namespace Sys2Proof.Machine

noncomputable section

/-! Fetch from sealed code (R76 to R78). -/

/-- What a fetch of one word meets. -/
inductive Fetch where
  | word (w : Word32) (s : State)
  | trap (x : Trap)
  | hold
  | page (pkg off : Nat) (s : State)

/-- The lines that an instruction cache of 64 KiB holds (R5, log 17). -/
def icacheLines : Nat := 256

/-- Fetches the word at a segmented address for a thread (R76 to R78, R186): from the core's instruction cache, which holds good
sealed lines only (R224), or through the cluster's replica cache, which its line then fills (R309); an uncorrectable word raises cause
0x08 (log 17). A handler thread's pc may have bits [1:0] set, which raises cause 0x06 (R177). -/
def State.fetch (s : State) (c : Nat) (t : Thread) (pc : Word) : Fetch :=
  match s.check c t.ctx pc 4 segX 4 with
  | .error x =>
    if x.cause = 7 ∧ pc.toNat % 4 ≠ 0 then .trap ⟨6, t.pc⟩
    else if x.cause = 7 then
      let d := s.seg c t.ctx (vaSeg pc)
      let la := (if vaSeg pc = 0 then s.s0Base c (cxOf c t) else d.base) + vaOff pc
      if laRegion la = 0 then .trap ⟨7, t.pc⟩ else .trap ⟨0x13, t.pc⟩
    else .trap ⟨x.cause, t.pc⟩
  | .ok la =>
    let la := canonLa (corePkg c) la
    if pc.toNat % 4 ≠ 0 then .trap ⟨6, t.pc⟩
    else if laRegion la ≠ 0 then .trap ⟨0x13, t.pc⟩
    else
      let line := lineOf (corePkg c) la
      let use (s : State) : State := s.modCore c fun k => { k with icache := useLine icacheLines line k.icache }
      let rd (l : Loc) (s : State) : Fetch := .word (BitVec.ofNat 32 (s.mem.read l.key 4)) s
      if (s.core c).icache.contains line then rd (s.place (.hbm (corePkg c) la 0)) (use s)
      else match s.translate c la with
        | (.miss p off, s) => if t.noEntry = some (p, off / 65536) then .trap ⟨7, t.pc⟩ else .page p off s
        | (.ok l, s) =>
          let l := s.place l
          if !s.sealedAt l then .hold
          else
            -- a line that the replica cache lacks comes from the bank (R364)
            let s := if (s.cluster (clusterOf c)).holdsLine line then s else s.heardAt c l
            let g := s.readLine (clusterOf c) l 4
            if !g.1 then .trap ⟨8, t.pc⟩
            else rd l (if (g.2.cluster (clusterOf c)).holdsLine line then use g.2 else g.2)

/-- What an issue turn of a thread does: an instruction or a step of the table to run, or a wait. -/
inductive Choice where
  | run (i : Instr) (s : State)
  | idle (s : State)

/-- What a core's turn in a cycle comes to: a choice of its position's own thread, which if it goes on waiting leaves the
cycle to be donated; a donated turn; or the end of a hold, after which the position's thread has its turn (R174). -/
inductive Turn where
  | own (x : Choice)
  | donated (x : Choice)
  | held (i : Instr) (s : State)

/-- What the decoder's rejection of a word is as a step of the table (R70, R72, R73). -/
def rejected : Reject → Instr
  | .short => .illegalInstruction 0
  | .reservedMajor w => .illegalInstruction w
  | .badPair w => .illegalInstruction w
  | .negatedP0 w => .illegalInstruction w
  | .absentExtension w => .extensionAbsent w
  | .badField w => .illegalInstruction w

/-- The instruction at a thread's pc, after the fetch of its words (R66, R70). A breakpoint fires as the instruction is about to issue,
and again where its trap or its fetch was held; not where an instruction that has issued tests what it waits for (R376). Where the
fetch of a pair's second word faults, R66 puts the fault at the pair's first word and R76 says the address of the fetch; `epc` and
`ebad` both take the pc of the first word (DESIGN CHOICE, log 86). -/
def State.issueAt (s : State) (tid : Nat) (t : Thread) : Choice :=
  let c := coreOf tid
  let miss (pkg off : Nat) (s : State) : Choice :=
    .idle ((s.wait tid t (.page pkg off)).askWalk (portOf c pkg off) off (.thread tid))
  let ready (ws : List Word32) (s : State) : Choice :=
    let bp := List.find? (fun e : Nat × (Word × Bool) => e.2.1 == t.pc) (s.ctx (cxOf c t)).bps
    match bp with
    | some e => if t.passBp = false ∧ t.prefixed = false ∧ (t.wait = .ready ∨ t.wait = .held .trap ∨ t.wait = .held .fetch) then
                  .run (.hardwareBreakpoint e.1) { s with cur := tid }
                else go ws s
    | none => go ws s
  match s.fetch c t t.pc with
  | .trap x => .idle (s.trapAt tid t t.pc x)
  | .hold => .idle (s.wait tid t (.held .fetch))
  | .page p off s => miss p off s
  | .word w s =>
    if w.toNat / 2 ^ 26 ≠ 63 then ready [w] s
    else match s.fetch c t (t.pc + 4) with
      | .trap x => .idle (s.trapAt tid t t.pc x)
      | .hold => .idle (s.wait tid t (.held .fetch))
      | .page p off s => miss p off s
      | .word w2 s => ready [w, w2] s
where
  /-- Decodes the words; a prefix pair takes two issue turns (R66). -/
  go (ws : List Word32) (s : State) : Choice :=
    match decode (ws.flatMap fun w => leBytes 4 w.toNat) with
    | .ok (i, n) =>
      if n = 8 ∧ t.prefixed = false then .idle (s.setThread tid { t with prefixed := true })
      else .run i { s with cur := tid }
    | .error r => .run (rejected r) { s with cur := tid }

/-- The turn of a thread: none once its context has stopped (R122), but for the second word of a prefix pair (R66); a fault
found earlier is delivered first, but not between the words of a pair (R66, R143, R188); else its instruction. -/
def State.turnOf (s : State) (tid : Nat) (t : Thread) : Choice :=
  let s := { s with cur := tid }
  if s.running (cxOf (coreOf tid) t) = false ∧ t.prefixed = false then .idle s
  else if t.prefixed then s.issueAt tid t
  else if t.relFault.isSome then .run (.deferredRelaxedFault tid) s
  else if t.vecFault.isSome ∧ t.seq.frozen = false then .run (.vectorFaultDelivery tid) s
  else s.issueAt tid t

/-! The rotation (R91, R194 to R197). -/

/-- A thread that its own position gives a turn: Ready, or waiting for a condition that it tests again. -/
def Thread.tests (t : Thread) : Bool :=
  match t.wait with
  | .ready => true
  | .sync => t.arrived.isNone
  | .held .fabric => false
  | .held _ => true
  | .mem r => r.kind == .drain
  | _ => false

/-- Delivery latency of R197 from the instruction word, by its largest outcome. spawn, exit, yield, migrate, send, halt, the copy,
sparse-layer and fabric requests, accrd, accwr, SVC-R, the changes of the debug state, and the writes of registers that the package
shares always take the thread out of the rotation at issue. -/
def latency (w : Word32) : Nat :=
  let m := w.toNat / 2 ^ 26
  let fn := bits w.toNat 9 0
  if m = 63 then 1
  else if m = 1 then
    if fn = 12 ∨ fn = 13 ∨ fn = 14 then 8 else if 15 ≤ fn ∧ fn ≤ 18 then 16 else 4
  else if (2 ≤ m ∧ m ≤ 8) ∨ (9 ≤ m ∧ m ≤ 16) ∨ m = 19 then 4
  else if 20 ≤ m ∧ m ≤ 32 then 8
  else if m = 34 ∧ (fn = 0 ∨ (3 ≤ fn ∧ fn ≤ 6)) then 1
  else if m = 35 ∧ fn = 3 then 1
  else if m = 54 ∨ m = 55 ∨ (m = 56 ∧ fn ≠ 4) ∨ m = 59 ∨ (m = 60 ∧ fn < 4) then 1
  else if m = 52 ∧ (fn = 1 ∨ fn = 2) then 1
  else if m = 36 ∧ [0x80, 0x81, 0x86, 0x87, 0x88].contains (bits w.toNat 13 0) then 1
  else if m = 35 ∧ fn = 7 then 4
  else if 40 ≤ m ∧ m ≤ 46 then (if m = 46 ∧ bits w.toNat 3 0 = 2 then 16 else 4)
  else if 48 ≤ m ∧ m ≤ 51 then 1
  else if m = 57 ∧ fn = 2 then 4
  else if m = 58 then 8
  else 16

/-- L of the instruction at a thread's pc. A thread whose fetch traps, is held or misses has no instruction word to judge: L is 1
(DESIGN CHOICE, log 82). -/
def State.latencyAt (s : State) (tid : Nat) (t : Thread) : Nat :=
  let c := coreOf tid
  match s.fetch c t t.pc with
  | .word w s =>
    if w.toNat / 2 ^ 26 = 63 ∧ t.prefixed = true then
      match s.fetch c t (t.pc + 4) with
      | .word w2 _ => latency w2
      | _ => 1
    else latency w
  | _ => 1

/-- The next cycle after c that belongs to slot x (R91). -/
def nextOwn (c x : Nat) : Nat := c + 1 + (x + 16 - (c + 1) % 16) % 16

/-- R196: the thread in slot x may take cycle s.clock donated from a position. -/
def State.takesDonation (s : State) (c x : Nat) : Bool :=
  match s.thread (16 * c + x) with
  | some t =>
    decide (t.wait = .ready) && decide (t.start ≤ s.clock) && x != 15 && x != s.clock % 16 && decide (t.delivers ≤ s.clock) &&
      decide (s.clock + s.latencyAt (16 * c + x) t ≤ nextOwn s.clock x)
  | none => false

/-- Field i of donord (R193). -/
def donField (w : Word) (i : Nat) : Nat := bits w.toNat (4 * i + 3) (4 * i)

/-- The donation search (R195): the slot that takes the turn, and the field that named it. -/
def State.donee (s : State) (c : Nat) : Option (Nat × Nat) :=
  let k := s.core c
  let order := (List.range 16).map fun j => (donField k.donord ((k.lastDon + 1 + j) % 16), (k.lastDon + 1 + j) % 16)
  let fg (e : Nat × Nat) : Bool :=
    match s.thread (16 * c + e.1), s.foreground c with
    | some t, some f => t.ctx == f
    | _, _ => false
  let first := order.filter fg ++ order.filter fun e => !fg e
  first.find? fun e => s.takesDonation c e.1

/-- A core's position that may be donated: not 15, and Vacant or in a state other than Ready and Stopped (R195). -/
def State.donates (s : State) (c : Nat) : Bool :=
  s.clock % 16 != 15 && match s.thread (16 * c + s.clock % 16) with
    | none => true
    | some t => !decide (t.wait = .ready) && !decide (t.wait = .stopped)

/-! The turns of one cycle (log 1). -/

/-- The first core from the turn that has a thread. -/
def State.nextCore (s : State) : Option Nat :=
  (List.find? (fun e : Nat × Thread => decide (s.turn ≤ coreOf e.1)) s.threads).map fun e => coreOf e.1

/-- A core's turn in the cycle (R194, R195): its position's own thread, or the thread that a donation gives the turn to.
A waiting thread tests its condition at its own position; if it goes on waiting, the cycle may still be donated. -/
def State.coreTurn (s : State) (c : Nat) : Turn :=
  let own := 16 * c + s.clock % 16
  match s.thread own with
  | some t =>
    match t.wait with
    | .held (.yield 0) => .held (.yieldHoldEnd own) (State.recount { s with cur := own } s c)
    | .held (.yield (n + 1)) => .donated (donate (s.wait own t (.held (.yield n))))
    | _ => if t.tests = true ∧ t.start ≤ s.clock ∧ s.tested = false then .own (s.turnOf own t)
           else .donated (donate s)
  | none => .donated (donate s)
where
  /-- In shared mode, the donation search of a position that may be donated (R195). -/
  donate (s : State) : Choice :=
    if (s.core c).rotShr = true ∧ s.donates c = true then
      match s.donee c with
      | some d => donated s d
      | none => .idle s
    else .idle s
  /-- The donated turn, counted for the slot that receives it (R222). -/
  donated (s : State) (d : Nat × Nat) : Choice :=
    match s.thread (16 * c + d.1) with
    | some t =>
      (s.modCore c fun k => { (k.count (6 * d.1 + 5)) with lastDon := d.2 }).turnOf (16 * c + d.1) t
    | none => .idle s

/-- A slot position's thread waits. -/
def State.waits (s : State) (tid : Nat) : Bool :=
  match s.thread tid with
  | some t => !decide (t.wait = .ready)
  | none => false

/-- The end of a core's turn: the next core's turn. -/
def State.turnEnds (s : State) (c : Nat) : State := { s with tested := false, turn := c + 1 }

/-- A thread that waited as its turn began has issued in it (R88): it is gone, or waits for nothing any more, or for what an instruction
that has issued waits for. What only fails its test again, or its fetch, has not; after a held fetch the instruction issues, whatever
it then waits for. -/
def Wait.hasIssued (before : Wait) : Option Wait → Bool
  | none => true
  | some .ready => true
  | some .mat => true
  | some .stopped => true
  | some (.page _ _) => false
  | some (.mem r) => r.kind != .drain || decide (before = .held .fetch)
  | some .sync => decide (before = .held .fetch)
  | some (.held h) => h == .fabric || (decide (before = .held .fetch) && h != .fetch && h != .trap) ||
      match h with | .yield _ => true | _ => false

/-- The thread of a slot position waited before a turn, and has issued in it. -/
def State.waiterIssued (s before : State) (own : Nat) : Bool :=
  match before.thread own with
  | some t => !decide (t.wait = .ready) && t.wait.hasIssued ((s.thread own).map (·.wait))
  | none => false

/-- The end of the own thread's turn: the same core's turn again while a waiter's failed test leaves the cycle to be donated. One that
waited and has issued counts as issued (R222). -/
def State.ownEnds (s : State) (c : Nat) (before : State) : State :=
  let own := 16 * c + before.clock % 16
  if s.waiterIssued before own then (s.recount before c).turnEnds c
  else if before.waits own ∧ s.waits own then { s with tested := true, turn := c }
  else s.turnEnds c

/-- An instruction's results are delivered L cycles after its issue (R92): L is 1 where it took the thread out of the rotation (R197). -/
def State.delivered (s before : State) (tid : Nat) : State :=
  match before.thread tid with
  | some t => s.modThread tid fun u =>
      { u with delivers := before.clock + (if u.wait = .ready then before.latencyAt tid t else 1) }
  | none => s

end

end Sys2Proof.Machine
end

