-- ==== Sys2Proof/Machine/Due.lean ====
section
/-! DEFINITION. The end of a cycle: the clock, and the agenda of the steps of the other agents that may come before the next
cycle's issue turns (log 1). A step whose condition does not hold leaves the state as it is. -/

namespace Sys2Proof.Machine

noncomputable section

/-- Indexes of a list, the last first: taking one away leaves the others where they are. -/
def downTo (n : Nat) : List Nat := (List.range n).reverse

/-- The step of the table that a message's arrival is. -/
def arrivalOf (n : Nat) : Payload → Instr
  | .counter _ _ _ => .counterMessage n
  | .wake _ _ _ _ => .wakeMessageArrival n
  | .handler _ _ _ => .handlerMessageArrival n
  | .migrate _ _ _ _ _ => .migrationArrival n
  | .refused _ _ _ => .migrationRefused n
  | .steal _ _ _ _ => .stealRequest n
  | .stolen _ _ _ _ _ => .stealReply n
  | .copy _ _ _ => .copyCommandAccept n
  | .delivery _ _ _ => .streamDelivery n
  | .block _ _ _ _ _ => .blockExpansion n
  | .barArrive _ _ _ => .clusterBarrierArrival n
  | .walkAnswer _ _ _ => .pageWake n
  | .register _ _ _ => .groupRegistration n
  | .chunk _ _ _ => .reductionChunkArrival n
  | .notice _ _ _ _ _ => .slotNoticeArrival n
  | .write _ _ _ _ => .destinationWrite n
  | .status _ _ _ _ => .statusReturn n

/-! The DMA turns (R201): one request of each core in each cycle. -/

/-- A status of one collective. -/
def Payload.isStatus (core g seq : Nat) : Payload → Bool
  | .status c h n _ => c == core && h == g && n == seq
  | _ => false

/-- The class of a message that needs a DMA turn of its core, in the order of service: counter messages, stream deliveries, engine and
fabric data, ingress writes, steal requests. A fabric write whose data are written only waits to be counted; a collective's status is
written where it may be the last that its ticket waits for. -/
def State.dmaClass (s : State) : Payload → Option Nat
  | .counter _ _ _ => some 0
  | .delivery _ _ _ => some 1
  | .block _ _ _ _ _ => some 2
  | .write _ _ b _ => if b.isEmpty then none else some 2
  | .status core g seq _ =>
    if s.fab.flight.any fun o => o.core == core && o.grp == g && o.seq == seq && !o.cut && o.ticket != 0 &&
        decide (o.left ≤ (s.net.filter fun m => m.body.isStatus core g seq).length) then some 2
    else none
  | .handler _ _ _ => some 3
  | .migrate _ _ _ _ _ => some 3
  | .steal _ _ _ _ => some 4
  | _ => none

/-- A message that has come to its core and may be served there: a block finds room in the transform queue (R216). -/
def State.arrived (s : State) (n : Nat) : Option Msg :=
  match s.deliver n with
  | some (m, s') =>
    match m.body with
    | .block e mem data la unc => if (s'.expandBlock m.dst e mem data la unc).isSome then some m else none
    | _ => some m
  | none => none

/-- A delivery that waits at the DMA port may enter now: behind what the overflow queue holds, but in a replay (R214). -/
def State.waitingEnters (s : State) (port : Nat) (p : Port) : Bool :=
  (p.spilled.isEmpty || decide ((s.ctx (4 * corePkg (portCore port) + p.ctx)).replay = 2)) && s.mayEnter port p p.waiting

/-- Deliveries that wait at a core's ports and may enter now, as the steps' numbers: at the port, and from 2^41 on in the overflow queue. -/
def State.portRequests (s : State) (c : Nat) (k : Core) : List Nat :=
  k.ports.flatMap fun e =>
    let port := 64 * c + e.1
    (if s.mayEnter port e.2 e.2.spilled then [2 ^ 41 + port] else []) ++
      (if s.waitingEnters port e.2 then [2 ^ 40 + port] else [])

/-- Relaxed accesses to another core's local store that may execute there (R144): the core, and the steps' numbers, from 2^42 on. -/
def State.relaxedRequests (s : State) (tid : Nat) (t : Thread) : List (Nat × Nat) :=
  (downTo t.relaxed.length).filterMap fun n => match s.relaxedReady t.relaxed n with
    | some r => match r.place with
      | .loc la => if !r.held || s.linked (coreOf tid) r.place then some (laCore la, 2 ^ 42 + 8 * tid + n) else none
      | _ => none
    | none => none

/-- The head of an engine's queue asks for the turns it still needs, once its pages are walked for (R201): the steps' numbers are from
2^43 on. -/
def State.engineRequests (s : State) (e : Nat) : List (Nat × Nat) :=
  if s.engWalked e then (s.turnsLeft e).map fun c => (c, 2 ^ 43 + 2 ^ 24 * e + c) else []

/-- The requests that wait for DMA turns: core, class, and the message's place or the step's number: transform output from 2^46 on, words
of a time-account snapshot from 2^47 on, tickets of thinning units from 2^48 on, sources in local store that the fabric port reads from 2^49
on. R201 does not class relaxed accesses and tickets of
thinning units, which go with the data of engines and fabric, nor a snapshot's words, which come last (DESIGN CHOICE, log 73). -/
def State.dmaRequests (s : State) : List (Nat × Nat × Nat) :=
  (s.threads.flatMap fun e => (s.relaxedRequests e.1 e.2).map fun x => (x.1, 2, x.2)) ++
    (s.engines.flatMap fun e => (s.engineRequests e.1).map fun x => (x.1, 2, x.2)) ++
    (s.cores.filterMap fun e => if e.2.xout.isEmpty then none else some (e.1, 5, 2 ^ 46 + e.1)) ++
    (s.cores.filterMap fun e => if e.2.acctOut.isEmpty then none else some (e.1, 5, 2 ^ 47 + e.1)) ++
    (s.cores.filterMap fun e => if e.2.fabOut.head?.any (laRegion ·.src == 1) then some (e.1, 2, 2 ^ 49 + e.1) else none) ++
    (s.clusters.filterMap fun e => e.2.tickets.head?.map fun x => (laCore x.1, 2, 2 ^ 48 + e.1)) ++
    (s.cores.flatMap fun e => (s.portRequests e.1 e.2).map fun n => (e.1, 1, n)) ++
    (List.range s.net.length).filterMap fun n => (s.arrived n).bind fun m => (s.dmaClass m.body).map fun k => (m.dst, k, n)

/-- The request that a core's DMA turn serves: of a class that has waited for 8 turns, else of the first class that has one. -/
def dmaPick (waited : NatMap Nat) (l : List (Nat × Nat)) : Option (Nat × Nat) :=
  let first (k : Nat) : Option (Nat × Nat) := l.find? fun e => e.1 == k
  match ((List.range 6).filter fun k => decide (8 ≤ waited.at 0 k)).findSome? first with
  | some e => some e
  | none => (List.range 6).findSome? first

/-- The turns that each class has waited, after a turn that served one. -/
def dmaWaited (waited : NatMap Nat) (l : List (Nat × Nat)) (served : Option Nat) : NatMap Nat :=
  (List.range 6).foldl (fun m k =>
    if served ≠ some k ∧ (l.any fun e => e.1 == k) = true then m.put k (waited.at 0 k + 1) else m) []

/-- One DMA turn of each core that has requests: the numbers served, and the state with the waits counted. -/
def State.dmaTurns (s : State) : List Nat × State :=
  let reqs := s.dmaRequests
  let cores := (reqs.map (·.1) ++ (s.cores.filter fun e => !e.2.dmaWait.isEmpty).map (·.1)).foldl NatSet.insert []
  cores.foldl (fun acc c =>
    let l := (reqs.filter fun e => e.1 == c).map (·.2)
    let pick := dmaPick (s.core c).dmaWait l
    ((pick.map (·.2)).toList ++ acc.1,
     acc.2.modCore c fun k => { k with dmaWait := dmaWaited (s.core c).dmaWait l (pick.map (·.1)) })) ([], s)

/-- Arrivals of the messages in flight, and what enters a stream: those that need a DMA turn only where it is theirs. -/
def State.dueMessages (s : State) (dma : List Nat) : List Instr :=
  ((downTo s.net.length).filterMap fun n => match s.net[n]? with
    | some m => if (s.dmaClass m.body).isNone || dma.contains n then some (arrivalOf n m.body) else none
    | none => none) ++
    dma.filterMap fun n =>
      if 2 ^ 49 ≤ n then some (.reductionChunkArrival n)
      else if 2 ^ 48 ≤ n then some (.intervalPublish n)
      else if 2 ^ 47 ≤ n then some (.acctSnapshot n)
      else if 2 ^ 46 ≤ n then some (.blockExpansion n)
      else if 2 ^ 43 ≤ n then some (.copyCommandCompletion n)
      else if 2 ^ 42 ≤ n then none
      else if 2 ^ 41 ≤ n then some (.overflowDeliveryReentry (n - 2 ^ 41)) else if 2 ^ 40 ≤ n then some (.streamDelivery n) else none

/-- A relaxed access that executes in another core's DMA turn (R144): it waits for that turn. -/
def Relaxed.remote (c : Nat) (r : Relaxed) : Bool :=
  match r.place with
  | .loc la => laCore la != c
  | _ => false

/-- What the threads wait for. -/
def State.dueThreads (s : State) (dma : List Nat) : List Instr :=
  s.threads.flatMap fun e =>
    [.memoryReply e.1, .fetchHoldRelease e.1, .accTransferDone e.1] ++
      ((downTo e.2.relaxed.length).filterMap fun n =>
        if (e.2.relaxed[n]?.any (Relaxed.remote (coreOf e.1))) && !dma.contains (2 ^ 42 + 8 * e.1 + n) then none
        else some (.relaxedAccessCompletion e.1 n)) ++
      (if e.2.replayFrom.isSome then [.replayWaitTimeout e.1] else [])

/-- Cores that have something to do: with state of their own, a thread, or a context present. -/
def State.activeCores (s : State) : NatSet :=
  let l := s.cores.map (·.1) ++ s.threads.map (fun e => coreOf e.1) ++
    s.ctxs.flatMap fun e => e.2.map.map fun m => coreAt (e.1 / 4) (m.1 / 576) (m.1 % 576)
  l.foldl (fun a c => NatSet.insert a c) []

/-- What comes before the DMA turns on one core: changes that take effect, the offer of what the issue turn changed (R148), and the
binding of free slots, whose pops come before the steals of the same cycle (R203). The choice of waiters starts after the position of the
cycle, clock mod 16, also where a donated turn or a DMA turn made the change (DESIGN CHOICE, log 26). -/
def State.dueIssue (s : State) (c : Nat) : List Instr :=
  let k := s.core c
  (if k.asks then [.coreDisable c] else []) ++ (if k.rotPend.isSome then [.rotmodeSwitch c] else []) ++
    [.syncWaitSatisfied c (s.clock % 16)] ++ ((List.range 14).map fun x => .slotBind (16 * c + x)) ++
    [.transformThreadBind c, .commThreadBind c]

/-- The units of one core: what the DMA turn changed is offered first (R148); spills come before resumes (R322). -/
def State.dueCore (s : State) (c : Nat) : List Instr :=
  let k := s.core c
  [.syncWaitSatisfied c (s.clock % 16)] ++ (k.toSpill.map fun x => .spill (16 * c + x)) ++
    (s.ctxs.flatMap fun e => (e.2.saved.filter fun m => coreOf m.1 == c).map fun m => .spillResume m.1 e.1) ++
    [.vectorGroup c, .matrixAdmission c, .matrixKStep c] ++
    (k.steal.map fun e => .stealSearchRetry c (4 * corePkg c + e.1)) ++
    (if k.fabOut.head?.any (laRegion ·.src != 1) then [.reductionChunkArrival (2 ^ 49 + c)] else []) ++
    (if (k.xq.at [] 1).isEmpty then [] else [.commX1Element c]) ++ (if (k.xq.at [] 3).isEmpty then [] else [.commX3Query c]) ++
    (k.ports.flatMap fun e =>
      let port := 64 * c + e.1
      (if s.mayEnter port e.2 e.2.spilled then [] else [.overflowDeliveryReentry port]) ++
        (if s.waitingEnters port e.2 then [] else [.streamDelivery (2 ^ 40 + port)]) ++ [.streamDeliveryTimeout port]) ++
    (if k.acctSnap then [.acctSnapshot c] else []) ++ [.timeAccountCycle c]

/-- The units of one cluster. -/
def dueCluster (cl : Nat) (k : Cluster) : List Instr :=
  (k.bars.map fun e => .clusterBarrierRelease cl e.1) ++
    (if k.windows.isEmpty then [] else [.combiningWindowClose cl]) ++
    (if k.thin.isEmpty then [] else [.intervalBuildStart cl, .intervalPublish cl, .intervalFailure cl])

/-- The home cores that have walks to begin or to answer (R294). -/
def State.dueWalks (s : State) : List Instr :=
  ((s.clusters.flatMap fun e => (e.2.walks.filter fun w => w.st != .answered).map fun w => homeCore e.1 w.off).foldl NatSet.insert []).map
    fun h => .pageWalk h

/-- A context's log units, its waits in a replay, its end. -/
def dueContext (cx : Nat) (k : Context) : List Instr :=
  ((List.range 2).flatMap fun die =>
    ((k.log die).pending.flatMap fun _ => [.logAppend cx die, .logAppendFailure cx die]) ++
      (if k.replay = 2 then [.replayRecordDispatch cx die] else [])) ++
    (k.waits.map fun e => .replayWaitTimeout (2 ^ 32 * (cx + 1) + 2 ^ 48 * e.1)) ++
    (if k.st = .halting then [.haltCompletion cx] else [])

/-- The step of the table that a packet which waits for its connection is (R390). -/
def Packet.row (pkg : Nat) (p : Packet) : Instr :=
  match Cmd.parse p.bytes with
  | none => .loadData pkg p.ep p.conn true p.bytes
  | some c => match c with
    | .loadData _ _ _ => .loadData pkg p.ep p.conn true p.bytes
    | .loadTable _ _ => .loadPageTable pkg p.ep p.conn true p.bytes
    | .launch _ => .launchCreate pkg p.ep p.conn true p.bytes
    | .priority _ _ => .launchPriority pkg p.ep p.conn true p.bytes
    | .snapshot _ _ _ => .snapshot pkg p.ep p.conn true p.bytes
    | .health => .queryHealth pkg p.ep p.conn true p.bytes
    | .digest _ _ => .queryDigest pkg p.ep p.conn true p.bytes
    | .states => .queryContextStates pkg p.ep p.conn true p.bytes
    | .attest _ => .queryAttestation pkg p.ep p.conn true p.bytes
    | .seal _ _ false => .sealCommand pkg p.ep p.conn true p.bytes
    | .seal _ _ true => .unsealCommand pkg p.ep p.conn true p.bytes
    | .resetCtx _ => .resetContext pkg p.ep p.conn true p.bytes
    | .resetPkg => .resetPackage pkg p.ep p.conn true p.bytes

/-- A package's seals, page moves and proxies, the commands and images that wait, and the channels with corrected errors (R385). -/
def duePackage (pkg : Nat) (k : Package) : List Instr :=
  ((downTo k.seals.length).flatMap fun i => [.sealComplete (pkg + 8192 * i), .unsealComplete (pkg + 8192 * i)]) ++
    ((downTo k.moves.length).map fun i => .pageMoveSwitch (pkg + 8192 * i)) ++
    (k.proxy.map fun e => .proxyHostAtomic (2 * pkg + e.1 / 64) (e.1 % 64)) ++
    (k.images.map fun x => .loadPageTable pkg 0 x.conn true []) ++ (k.inbox.map (Packet.row pkg)) ++
    ((k.chanErrs.filter fun e => decide (64 < e.2.length)).map fun e => .channelRetirement pkg (e.1 / 32) (e.1 % 32) none)

/-- The threads that a STOP waits for (R379). -/
def State.dueStops (s : State) : List Instr :=
  s.pkgs.flatMap fun e => e.2.stops.map fun tid => .stop e.1 0 (coreOf tid) (slotOf tid) true

/-- The fabric's timers. -/
def State.dueFabric (s : State) : List Instr :=
  (s.fab.groups.map fun e => .gsetTimeout e.1) ++
    (s.fab.slots.flatMap fun e => e.2.map fun x => .slotTimerExpiry e.1 (x.1 / 16) (x.1 % 16)) ++
    (s.fab.flight.map fun o => .memberCutoffTimeout o.core o.grp o.seq) ++ [.masterTimeFailover]

/-- A nanosecond ends between the start of a cycle and the next, at 2.1 GHz (R91). -/
def tickAfter (clock : Nat) : Bool := decide (10 * clock / 21 < 10 * (clock + 1) / 21)

/-- The time messages that the master's last sending becomes, one for each package (R402). -/
def State.dueTime (s : State) : List Instr :=
  if tickAfter s.clock then
    .timeStampCounterTick ::
      (if (s.ticks + 1) % 1000 = 0 then s.pkgs.map fun e => .timeMessage e.1 (s.ticks + 1) 0 else [])
  else []

/-- The steps that the agents of the part have before them; dma: what the DMA turns serve. -/
def State.due (s : State) (dma : List Nat) : List Instr :=
  s.dueTime ++ s.dueStops ++ s.activeCores.flatMap s.dueIssue ++ s.dueMessages dma ++ s.dueThreads dma ++ s.dueWalks ++
    (s.clusters.flatMap fun e => dueCluster e.1 e.2) ++ (s.banks.map fun e => .bankReservationGrant e.1) ++
    (s.engines.flatMap fun e => if e.2.queue.isEmpty then [] else [.copyCommandCompletion e.1]) ++
    (s.pkgs.flatMap fun e => duePackage e.1 e.2) ++ s.dueFabric ++ (s.ctxs.flatMap fun e => dueContext e.1 e.2) ++
    s.activeCores.flatMap s.dueCore

/-- The end of a cycle of the core clock (R91); priorities change before a cycle that is a multiple of 16 (R321). -/
def State.endCycle (s : State) : State :=
  let s := if (s.clock + 1) % 16 = 0 then s.newOrders else s
  let dma := s.dmaTurns
  { dma.2 with clock := s.clock + 1, turn := 0, tested := false, agenda := dma.2.due dma.1 }

end

end Sys2Proof.Machine
end

