-- ==== Sys2Proof/Machine/Loader.lean ====
section
/-! DEFINITION. A program in place: what the host's LOAD, SEAL and LAUNCH bring about for one thread (log 9), used to put one
instruction where the next step fetches it. -/

namespace Sys2Proof.Machine

noncomputable section

/-- Context 0 of package 0 running on core 0 with every general slot and the whole local store. -/
def loadedContext (k : Context) : Context :=
  { k with st := .running,
           map := k.map.put 0 { lsbase := 0, lssize := 0x100000, slots := 0xFFFF, accs := 0xFF, rings := 0xFF, cfirst := 0,
                                ccount := 64, ovfbase := 0, ovfcap := 64, savebase := 0 } }

/-- A sealed 64 KiB page at region-0 offset 0, frame 0, in both replicas (R291, R293). -/
def loadedPackage (k : Package) : Package :=
  let e : Pte := { tagw := 0x8000000000000000, frame := 0, sw := 0 }
  { k with pt := (k.pt.put (wayIndex 0 0 0) e).put (wayIndex 1 0 0) e, sealed := k.sealed.put 0 1 }

/-- The code segment s1 of the loaded program: offset 0 on, read and execute; s0 the whole share, read and write. -/
def loadedSegs : List Seg :=
  [{ base := 0, limit := 0x100000, rights := 3, kind := 1 }, { base := 0, limit := 0x10000, rights := 5, kind := 1 }]

/-- Bytes of a program at the start of segment s1, a thread of context 0 at its first byte in the slot whose turn is
next. -/
def State.loaded (s : State) (bytes : List Byte) (pair : Bool) : State :=
  let tid := s.clock % 16
  let s := { s with agenda := [], turn := 0, tested := false, mem := s.mem.writeBytes (2 ^ 61) bytes }
  let s := s.modPkg 0 loadedPackage
  let s := s.modCtx 0 loadedContext
  let s := s.modCore 0 fun k => { k with segs := k.segs.put 0 loadedSegs, icache := useLine 256 (lineOf 0 0) k.icache }
  s.setThread tid { Thread.fresh (BitVec.ofNat 64 (2 ^ 61)) 0 with prefixed := pair }

end

end Sys2Proof.Machine
end

