-- ==== Sys2Proof/Machine/Step.lean ====
section
/-! DEFINITION. One step of the machine (log 1): the next step on the agenda, or the issue turn of the next core of the
cycle, or the end of the cycle. -/

namespace Sys2Proof.Machine

noncomputable section

/-- Changes the next state of an outcome. -/
def onNext (o : Host.Outcome State Fault Refusal) (f : State → State) : Host.Outcome State Fault Refusal :=
  match o with
  | .next s => .next (f s)
  | .fault r => .fault r
  | .refused r => .refused r

/-- A choice of a core's turn, run; f ends the turn. -/
def runChoice (s : State) (f : State → State) : Choice → Host.Outcome State Fault Refusal
  | .run i s' => onNext (exec i s') fun t => f (t.delivered s s'.cur)
  | .idle s' => .next (f s')

/-- What a core's turn does, run. -/
def runTurn (c : Nat) (s : State) : Turn → Host.Outcome State Fault Refusal
  | .own x => runChoice s (fun t => t.ownEnds c s) x
  | .donated x => runChoice s (fun t => t.turnEnds c) x
  | .held i s' => exec i s'

/-- One step. -/
def step (s : State) : Host.Outcome State Fault Refusal :=
  match s.agenda with
  | e :: r => exec e { s with agenda := r }
  | [] =>
    match s.nextCore with
    | some c => runTurn c s (s.coreTurn c)
    | none => .next s.endCycle

/-- The state with one instruction stored where the next step fetches it: the bits above nbits are 0. -/
def State.withFetchWord (s : State) (nbits w : Nat) : State :=
  s.loaded (leBytes 8 (w % 2 ^ nbits)) (w % 2 ^ 32 / 2 ^ 26 == 63)

end

end Sys2Proof.Machine
end

