-- ==== Sys2Proof/Safety.lean ====
section
/-! DEFINITION. What counts as a safe state, and the words that the statements use: an instruction's issue in a state, its
operands as it reads them, its result as it leaves it. -/

namespace Sys2Proof.Machine

/-- A safe state: memory in its canonical form. -/
def State.Safe (s : State) : Prop := s.mem.wf

/-- The current slot position holds a thread whose predicate lets the instruction execute (R70 step 8, R71); t is that thread
as it enters the instruction. -/
def State.Issues (s : State) (p : BitVec 3) (q : BitVec 1) (len : Nat) (t : Thread) : Prop :=
  ∃ u, s.thread s.cur = some u ∧ u.holds p q = true ∧ t = s.turned u len

/-- The registers that an instruction names can be read and written now (R213, R229, R416): v are the operands it reads, s1 is
the state with its port elements taken. -/
def State.Reads (s : State) (t : Thread) (srcs dsts : List (BitVec 4)) (v : List Word) (s1 : State) : Prop :=
  srcs.all (s.portLegal s.cur false) = true ∧ dsts.all (s.portLegal s.cur true) = true ∧
  ((srcs ++ dsts).any fun c => decide (12 ≤ c.toNat) && s.seqNamesPort s.cur t (c.toNat % 4)) = false ∧
  (srcs.all fun c => s.portReady s.cur false c (countCode srcs c)) = true ∧
  (dsts.all fun c => s.portReady s.cur true c (countCode dsts c)) = true ∧
  s.readRegs s.cur t srcs = (v, s1)

/-- The state that an instruction leaves whose result v goes to destination field d: the register or the port written (R54), the
pc past the instruction (R95). -/
def State.result (s : State) (tid : Nat) (t : Thread) (d : BitVec 4) (v : Word) : State :=
  (s.writeReg tid t d v).1.retire tid (s.writeReg tid t d v).2

/-- An instruction that computes one result from its operands and completes with it, on every operand whose registers can be
read and written, and whose result its destination accepts. -/
def Computes (i : Instr) (p : BitVec 3) (q : BitVec 1) (len : Nat) (d : BitVec 4) (srcs : List (BitVec 4))
    (f : Thread → List Word → Word) : Prop :=
  ∀ s t v s1, s.Issues p q len t → s.Reads t srcs [d] v s1 → State.writeRefused s.cur d (f t v) = false →
    exec i s = .next (s1.result s.cur t d (f t v))

/-- A sync instruction, a join or a jinit that has come to the local store of the executing core: its address, in read(A), passes the
checks of R131 with n = 8 for the rights it needs, no relaxed access of the thread is outstanding, and la is the linear address. -/
def State.SyncHere (s : State) (p : BitVec 3) (q : BitVec 1) (srcs dsts : List (BitVec 4)) (need : Nat) (t : Thread) (v : List Word)
    (s1 : State) (la : Nat) : Prop :=
  s.Issues p q 4 t ∧ s.Reads t srcs dsts v s1 ∧ s1.check (coreOf s.cur) t.ctx (nth v 0) 8 need 8 = .ok la ∧ laRegion la = 1 ∧
  laCore la = coreOf s.cur ∧ t.relaxed = []

/-- The event of a thread that the order log or a replay lets perform now (R366 to R369): s2 is the state with its record written, or
with its recorded position passed; with neither recording nor replay, s2 is s1. -/
def State.Permits (s1 s2 : State) (tid : Nat) (t : Thread) (kind obj out : Nat) : Prop :=
  ∃ o, s1.logGate (s1.logMode tid t) false (cxOf (coreOf tid) t) (coreDie (coreOf tid)) (coreOf tid) (srcOf tid) kind obj t.pc.toNat out = .go s2 o

end Sys2Proof.Machine
end

