-- ==== Sys2Proof/Certificates/Slice0/Obligations.lean ====
section
/-! DEFINITION. The statements for the provers. A step of another agent that is stated here takes effect at one instant, at the step
that the table names for it (log 1, log 6). -/

section

open Sys2Proof Sys2Proof.Machine

/-- R66, R70, R91, R376 (the agenda and the order of the cores' turns are the model's own, log 1): a step. With nothing on the
agenda, the core whose turn is next issues the instruction at its position's thread: when the fetch of its word, or of the two
words of a pair in its second turn, gives bytes that decode to i, or that the decoder rejects as i, and no breakpoint names its pc,
the step is exec of i, after which the delivery time of its results is noted and the turn ends; the first turn of a pair that
decodes only notes that its second turn is to come (log 11). The fetch of a word of a line that the core's instruction cache holds
gives the four bytes at its place, and the line becomes the most recently used (log 17). A step of another agent that stands first
on the agenda is exec of it. -/
def Obligations.StepRunsDecoded : Prop :=
  (∀ (s s1 s2 : State) (c : Nat) (t : Thread) (i : Instr) (w w2 : Word32), s.agenda = [] → s.nextCore = some c →
    let tid := 16 * c + s.clock % 16
    let now : State := { s with cur := tid }
    let reads (l : List Byte) (n : Nat) : Prop := decode l = .ok (i, n) ∨ ∃ e, decode l = .error e ∧ i = rejected e
    let runs (s1 : State) : Prop :=
      step s = onNext (exec i { s1 with cur := tid }) fun u => (u.delivered s tid).ownEnds c s
    s.thread tid = some t → t.wait = .ready → t.start ≤ s.clock → s.tested = false → s.running (cxOf c t) = true →
    t.relFault = none → (t.vecFault = none ∨ t.seq.frozen = true) → (∀ e ∈ (s1.ctx (cxOf c t)).bps, e.2.1 ≠ t.pc) →
    (∀ e ∈ (s2.ctx (cxOf c t)).bps, e.2.1 ≠ t.pc) → now.fetch c t t.pc = .word w s1 →
    (w.toNat / 2 ^ 26 ≠ 63 → reads (leBytes 4 w.toNat) 4 → runs s1) ∧
    (w.toNat / 2 ^ 26 = 63 → t.prefixed = true → s1.fetch c t (t.pc + 4) = .word w2 s2 →
      reads (leBytes 4 w.toNat ++ leBytes 4 w2.toNat) 8 → runs s2) ∧
    (w.toNat / 2 ^ 26 = 63 → t.prefixed = false → s1.fetch c t (t.pc + 4) = .word w2 s2 →
      decode (leBytes 4 w.toNat ++ leBytes 4 w2.toNat) = .ok (i, 8) →
      step s = .next ((s2.setThread tid { t with prefixed := true }).ownEnds c s))) ∧
  (∀ (s : State) (c la : Nat) (t : Thread) (pc : Word), s.check c t.ctx pc 4 segX 4 = .ok la →
    let off := canonLa (corePkg c) la
    let line := lineOf (corePkg c) off
    laRegion off = 0 → pc.toNat % 4 = 0 → line ∈ (s.core c).icache →
    s.fetch c t pc = .word (BitVec.ofNat 32 (s.mem.read (s.place (.hbm (corePkg c) off 0)).key 4))
      (s.modCore c fun k => { k with icache := useLine icacheLines line k.icache })) ∧
  (∀ (s : State) (e : Instr) (r : List Instr), s.agenda = e :: r → step s = exec e { s with agenda := r }) ∧
  (∀ s : State, s.agenda = [] → s.nextCore = none → step s = .next s.endCycle)

/-- R53 to R68, R70, R72: words of the spec's own worked encodings, as the decoder reads them and as it refuses them: a major that
is reserved, PS = 0 with PN = 1, an unassigned function, KIND = 11 of a shift, an absent extension, and words of major 63 that
stand before the wrong word. -/
def Obligations.ExampleWords : Prop :=
  decodeTableWord 32 0x04048C00 = some (.add 0 0 1 2 3) ∧ decodeTableWord 32 0x61D08010 = some (.ldw 3 1 4 2 16) ∧
  decodeTableWord 64 (0xFD000000 + 0x60108000 * 2 ^ 32) = some (.ldwRlx 0 0 4 2 0) ∧
  decodeTableWord 64 (0xFC040000 + 0x1C140000 * 2 ^ 32) = some (.liI38 0 0 5 0x100000000) ∧
  decodeTableWord 32 0x24145800 = some (.eq 0 0 2 1 1 6) ∧ decodeTableWord 32 0x3C3FFFFD = some (.jal 0 0 0x3FFFFD) ∧
  decodeTableWord 32 0xA0061170 = some (.vadd 0 0 3 1 2 3 1) ∧ decodeTableWord 32 0xC4104600 = some (.mms 0 0 2 0 2 3 0) ∧
  decode (leBytes 4 0x00000000) = .error (.reservedMajor 0) ∧ decode (leBytes 4 0x04400000) = .error (.negatedP0 0x04400000) ∧
  decode (leBytes 4 0x04000023) = .error (.badField 0x04000023) ∧ decode (leBytes 4 0x18003000) = .error (.badField 0x18003000) ∧
  decode (leBytes 4 0x94000000) = .error (.absentExtension 0x94000000) ∧
  decode (leBytes 4 0xBC000000) = .error (.reservedMajor 0xBC000000) ∧
  decode (leBytes 4 0xFE000000 ++ leBytes 4 0x04048C00) = .error (.badPair 0xFE000000) ∧
  decode (leBytes 4 0xFD000000 ++ leBytes 4 0x04048C00) = .error (.badPair 0xFD000000)

/-- R55, R63, R64, R65, R70: decoding and encoding agree. The bytes of every well-formed instruction that a word or a pair names
decode to it, with every operand at every value, whatever bytes follow; and bytes that decode to an instruction are its own bytes,
and it is well-formed. The word of gset names set and clear alike, and its decoding is named set (log 2). -/
def Obligations.DecodeEncode : Prop :=
  (∀ (i : Instr) (r : List Byte), i.wf = true → i.isWord = true → decode (encodeBytes i ++ r) = .ok (i, i.size)) ∧
  (∀ (l : List Byte) (i : Instr) (n : Nat), decode l = .ok (i, n) →
    i.wf = true ∧ i.isWord = true ∧ n = i.size ∧ encodeBytes i = l.take n) ∧
  (∀ (p : BitVec 3) (q : BitVec 1) (d a b : BitVec 4), encodeBytes (.gsetClear p q d a b) = encodeBytes (.gsetSet p q d a b))

/-- R79, R193, R199 to R202, R431: the state after reset. Every context is Free, every slot Vacant; no page is mapped or sealed,
every window is disabled, each package's host table is its board's endpoint; TLBs, replica caches and instruction caches are empty,
no group is registered; donord, slottab and rotmode hold their reset values. The model's choice, where the spec gives no reset
value, are that the engines are enabled with empty queues, that no port or switch is down and that no message is in flight (log 4),
and that memory has its canonical form (log 3). -/
def Obligations.ResetState : Prop :=
  let s := State.reset
  s.Safe ∧ (∀ cx, (s.ctx cx).st = .free) ∧ (∀ tid, s.thread tid = none) ∧
  (∀ pkg, (s.pkg pkg).pt = [] ∧ (s.pkg pkg).shadow = [] ∧ (s.pkg pkg).sealed = [] ∧ (s.pkg pkg).windows = [] ∧
    (s.pkg pkg).hosts = [Config.boardEndpoint pkg]) ∧
  (∀ cl, (s.cluster cl).tlb = [] ∧ (s.cluster cl).replica = []) ∧
  (∀ c, (s.core c).icache = [] ∧ (s.core c).donord = 0xFEDCBA9876543210 ∧ (s.core c).rotShr = false ∧
    ∀ i, i < 30 → ((s.core c).slotTab.getD i 0).toNat = i % 15) ∧
  s.fab.groups = [] ∧ s.fab.down = [] ∧ s.net = [] ∧ ∀ e, (s.engine e).queue = [] ∧ (s.engine e).disabled = false

/-- R22, R24 (memory's canonical form is the model's own, log 3): memory keeps its canonical form. From every state that has it, a
step that answers a next state leaves it so, whatever instruction, event, command or failure the step is. -/
def Obligations.StepKeepsMemory : Prop :=
  (∀ s s' : State, s.Safe → step s = .next s' → s'.Safe) ∧ (∀ (i : Instr) (s s' : State), s.Safe → exec i s = .next s' → s'.Safe)

/-- Every instruction and every event of the opcode table answers: none is refused, and none stops in a state in which it can
issue. An instruction of a word (gset's names set and clear alike, log 2) stops only where no thread occupies the slot position
that it is to run in. A step that is no instruction of a word (an event, a command, a failure) answers a next state in every state;
that it leaves the state as it is where it does not apply is the model's (log 10). -/
def Obligations.EveryInstructionAnswers : Prop :=
  (∀ (i : Instr) (s : State) (r : Refusal), exec i s ≠ .refused r) ∧
  (∀ (i : Instr) (s : State) (f : Fault), exec i s = .fault f → s.thread s.cur = none ∧ f = .noThread) ∧
  (∀ (i : Instr) (s : State), (∃ t, s.thread s.cur = some t) → ∃ s', exec i s = .next s') ∧
  (∀ (i : Instr) (s : State), i.isWord = false → (∀ p q d a b, i ≠ .gsetClear p q d a b) → ∃ s', exec i s = .next s')

/-- R96, R97, R98, R99: each INT-R member completes with the value of its row as the result, written to gD. The values that are no
single operation on words are stated after them. -/
def Sys2Proof.integerRows : Prop :=
  ∀ (p : BitVec 3) (q : BitVec 1) (d a b : BitVec 4),
    Computes (.add p q d a b) p q 4 d [a, b] (fun _ v => nth v 0 + nth v 1) ∧
    Computes (.sub p q d a b) p q 4 d [a, b] (fun _ v => nth v 0 - nth v 1) ∧
    Computes (.and p q d a b) p q 4 d [a, b] (fun _ v => nth v 0 &&& nth v 1) ∧
    Computes (.or p q d a b) p q 4 d [a, b] (fun _ v => nth v 0 ||| nth v 1) ∧
    Computes (.xor p q d a b) p q 4 d [a, b] (fun _ v => nth v 0 ^^^ nth v 1) ∧
    Computes (.andn p q d a b) p q 4 d [a, b] (fun _ v => nth v 0 &&& ~~~nth v 1) ∧
    Computes (.orn p q d a b) p q 4 d [a, b] (fun _ v => nth v 0 ||| ~~~nth v 1) ∧
    Computes (.sll p q d a b) p q 4 d [a, b] (fun _ v => nth v 0 <<< ((nth v 1).toNat % 64)) ∧
    Computes (.srl p q d a b) p q 4 d [a, b] (fun _ v => nth v 0 >>> ((nth v 1).toNat % 64)) ∧
    Computes (.sra p q d a b) p q 4 d [a, b] (fun _ v => BitVec.ofInt 64 ((nth v 0).toInt / 2 ^ ((nth v 1).toNat % 64))) ∧
    Computes (.rol p q d a b) p q 4 d [a, b] (fun _ v => rotLeft (nth v 0) (nth v 1)) ∧
    Computes (.ror p q d a b) p q 4 d [a, b] (fun _ v => rotRight (nth v 0) (nth v 1)) ∧
    Computes (.mul p q d a b) p q 4 d [a, b] (fun _ v => nth v 0 * nth v 1) ∧
    Computes (.mulh p q d a b) p q 4 d [a, b] (fun _ v => mulHigh (nth v 0) (nth v 1)) ∧
    Computes (.mulhu p q d a b) p q 4 d [a, b] (fun _ v => mulHighU (nth v 0) (nth v 1)) ∧
    Computes (.div p q d a b) p q 4 d [a, b] (fun _ v => divSigned (nth v 0) (nth v 1)) ∧
    Computes (.divu p q d a b) p q 4 d [a, b] (fun _ v => divUnsigned (nth v 0) (nth v 1)) ∧
    Computes (.rem p q d a b) p q 4 d [a, b] (fun _ v => remSigned (nth v 0) (nth v 1)) ∧
    Computes (.remu p q d a b) p q 4 d [a, b] (fun _ v => remUnsigned (nth v 0) (nth v 1)) ∧
    Computes (.min p q d a b) p q 4 d [a, b] (fun _ v => if (nth v 0).toInt < (nth v 1).toInt then nth v 0 else nth v 1) ∧
    Computes (.max p q d a b) p q 4 d [a, b] (fun _ v => if (nth v 1).toInt < (nth v 0).toInt then nth v 0 else nth v 1) ∧
    Computes (.minu p q d a b) p q 4 d [a, b] (fun _ v => if nth v 0 < nth v 1 then nth v 0 else nth v 1) ∧
    Computes (.maxu p q d a b) p q 4 d [a, b] (fun _ v => if nth v 1 < nth v 0 then nth v 0 else nth v 1) ∧
    Computes (.clz p q d a) p q 4 d [a] (fun _ v => BitVec.ofNat 64 (leadingZeros (nth v 0) 64)) ∧
    Computes (.ctz p q d a) p q 4 d [a] (fun _ v => BitVec.ofNat 64 (trailingZeros (nth v 0) 64)) ∧
    Computes (.popc p q d a) p q 4 d [a] (fun _ v => BitVec.ofNat 64 (oneBits (nth v 0) 64)) ∧
    Computes (.brev p q d a) p q 4 d [a] (fun _ v => BitVec.ofNat 64 (reverseBits (nth v 0) 64)) ∧
    Computes (.sextb p q d a) p q 4 d [a] (fun _ v => ((nth v 0).setWidth 8).signExtend 64) ∧
    Computes (.sexth p q d a) p q 4 d [a] (fun _ v => ((nth v 0).setWidth 16).signExtend 64) ∧
    Computes (.sextw p q d a) p q 4 d [a] (fun _ v => ((nth v 0).setWidth 32).signExtend 64) ∧
    Computes (.zextb p q d a) p q 4 d [a] (fun _ v => nth v 0 &&& 0xFF) ∧
    Computes (.zexth p q d a) p q 4 d [a] (fun _ v => nth v 0 &&& 0xFFFF) ∧
    Computes (.zextw p q d a) p q 4 d [a] (fun _ v => nth v 0 &&& 0xFFFFFFFF) ∧
    Computes (.bfx p q d a b) p q 4 d [a, b] (fun _ v => extractField (nth v 0) (nth v 1)) ∧
    Computes (.bfi p q d a b) p q 4 d [a, b, d] (fun _ v => insertField (nth v 2) (nth v 0) (nth v 1))

/-- R97, R98, R99: what those values are. The rotates, the bit counts and the reversal bit by bit; the high halves of the 128-bit
products; division with its two fixed cases; the field of bfx, and the bits that bfi replaces. -/
def Sys2Proof.integerValues : Prop :=
  ∀ a b c : Word,
    (∀ i : Nat, i < 64 → (rotLeft a b).getLsbD ((i + b.toNat % 64) % 64) = a.getLsbD i ∧
      (rotRight a b).getLsbD i = a.getLsbD ((i + b.toNat % 64) % 64)) ∧
    ((mulHigh a b).toInt = a.toInt * b.toInt / 2 ^ 64 ∧ (mulHighU a b).toNat = a.toNat * b.toNat / 2 ^ 64) ∧
    (divSigned a 0 = 0xFFFFFFFFFFFFFFFF ∧ divUnsigned a 0 = 0xFFFFFFFFFFFFFFFF ∧ remSigned a 0 = a ∧ remUnsigned a 0 = a) ∧
    (divSigned 0x8000000000000000 0xFFFFFFFFFFFFFFFF = 0x8000000000000000 ∧
      remSigned 0x8000000000000000 0xFFFFFFFFFFFFFFFF = 0) ∧
    (b ≠ 0 → ¬ (a = 0x8000000000000000 ∧ b = 0xFFFFFFFFFFFFFFFF) →
      (divSigned a b).toInt = a.toInt.tdiv b.toInt ∧
      (remSigned a b).toInt = a.toInt - b.toInt * a.toInt.tdiv b.toInt) ∧
    (b ≠ 0 → (divUnsigned a b).toNat = a.toNat / b.toNat ∧
      (remUnsigned a b).toNat = a.toNat - b.toNat * (a.toNat / b.toNat)) ∧
    (leadingZeros a 64 ≤ 64 ∧ (∀ i : Nat, i < leadingZeros a 64 → a.getLsbD (63 - i) = false) ∧
      (leadingZeros a 64 < 64 → a.getLsbD (63 - leadingZeros a 64) = true)) ∧
    (trailingZeros a 64 ≤ 64 ∧ (∀ i : Nat, i < trailingZeros a 64 → a.getLsbD i = false) ∧
      (trailingZeros a 64 < 64 → a.getLsbD (trailingZeros a 64) = true)) ∧
    oneBits a 64 = ((List.range 64).filter fun i => a.getLsbD i).length ∧
    (∀ i : Nat, i < 64 → (BitVec.ofNat 64 (reverseBits a 64)).getLsbD i = a.getLsbD (63 - i)) ∧
    (∀ i : Nat, i < 64 → (extractField a b).getLsbD i =
      (decide (i < min (b.toNat / 256 % 128) 64) && a.getLsbD (b.toNat % 64 + i))) ∧
    (∀ i : Nat, i < 64 → (insertField c a b).getLsbD i =
      if b.toNat % 64 ≤ i ∧ i < b.toNat % 64 + min (b.toNat / 256 % 128) 64 then a.getLsbD (i - b.toNat % 64) else c.getLsbD i)

/-- R98, R99 (with R96 and R97): every INT-R member completes with the value of its row as the result, written to gD, and these are
the values: division truncates and has its two fixed cases, a bit field is taken or replaced, and the rotates, counts and high
halves are as their rows say. -/
def Obligations.IntegerResults : Prop := integerRows ∧ integerValues

/-- R57, R100 to R104: each instruction with an immediate completes with its value as the result; the immediate has 14 bits, or 38
with a kind-00 prefix, and is sign-extended but for andi, ori and xori. -/
def Obligations.ImmediateResults : Prop :=
  ∀ (p : BitVec 3) (q : BitVec 1) (d a : BitVec 4) (imm : BitVec 14) (wide : BitVec 38) (n : BitVec 6),
    Computes (.addi p q d a imm) p q 4 d [a] (fun _ v => nth v 0 + imm.signExtend 64) ∧
    Computes (.addiI38 p q d a wide) p q 8 d [a] (fun _ v => nth v 0 + wide.signExtend 64) ∧
    Computes (.andi p q d a imm) p q 4 d [a] (fun _ v => nth v 0 &&& imm.setWidth 64) ∧
    Computes (.andiI38 p q d a wide) p q 8 d [a] (fun _ v => nth v 0 &&& wide.setWidth 64) ∧
    Computes (.ori p q d a imm) p q 4 d [a] (fun _ v => nth v 0 ||| imm.setWidth 64) ∧
    Computes (.oriI38 p q d a wide) p q 8 d [a] (fun _ v => nth v 0 ||| wide.setWidth 64) ∧
    Computes (.xori p q d a imm) p q 4 d [a] (fun _ v => nth v 0 ^^^ imm.setWidth 64) ∧
    Computes (.xoriI38 p q d a wide) p q 8 d [a] (fun _ v => nth v 0 ^^^ wide.setWidth 64) ∧
    Computes (.slli p q d a n) p q 4 d [a] (fun _ v => nth v 0 <<< n.toNat) ∧
    Computes (.srli p q d a n) p q 4 d [a] (fun _ v => nth v 0 >>> n.toNat) ∧
    Computes (.srai p q d a n) p q 4 d [a] (fun _ v => BitVec.ofInt 64 ((nth v 0).toInt / 2 ^ n.toNat)) ∧
    Computes (.li p q d imm) p q 4 d [] (fun _ _ => imm.signExtend 64) ∧
    Computes (.liI38 p q d wide) p q 8 d [] (fun _ _ => wide.signExtend 64) ∧
    Computes (.lih p q d imm) p q 4 d [d] (fun _ v =>
      BitVec.ofNat 64 ((imm.signExtend 38).toNat % 2 ^ 26 * 2 ^ 38 + (nth v 0).toNat % 2 ^ 38)) ∧
    Computes (.lihI38 p q d wide) p q 8 d [d] (fun _ v =>
      BitVec.ofNat 64 (wide.toNat % 2 ^ 26 * 2 ^ 38 + (nth v 0).toNat % 2 ^ 38))

/-- A compare that completes: pD takes the condition on the operands read, or under the and form the condition and pD (R105); the
pc moves past it, and nothing else changes. -/
def Sys2Proof.Compares (i : Instr) (p : BitVec 3) (q : BitVec 1) (len : Nat) (pd : BitVec 3) (c : BitVec 1) (srcs : List (BitVec 4))
    (f : List Word → Prop) : Prop :=
  ∀ s t v s1, s.Issues p q len t → s.Reads t srcs [] v s1 →
    ∃ r : Bool, (r = true ↔ f v ∧ (c = 1 → t.pred pd.toNat = true)) ∧
      exec i s = .next (s1.retire s.cur (t.setPred pd.toNat r))

/-- R105, R106, R107: every compare completes with the condition of its row; the f-members take bits [31:0] as binary32. -/
def Sys2Proof.compareRows : Prop :=
  ∀ (p : BitVec 3) (q : BitVec 1) (pd : BitVec 3) (c : BitVec 1) (a b : BitVec 4) (imm : BitVec 14) (wide : BitVec 38),
    Compares (.eq p q pd c a b) p q 4 pd c [a, b] (fun v => nth v 0 = nth v 1) ∧
    Compares (.ne p q pd c a b) p q 4 pd c [a, b] (fun v => nth v 0 ≠ nth v 1) ∧
    Compares (.lt p q pd c a b) p q 4 pd c [a, b] (fun v => (nth v 0).toInt < (nth v 1).toInt) ∧
    Compares (.ge p q pd c a b) p q 4 pd c [a, b] (fun v => (nth v 1).toInt ≤ (nth v 0).toInt) ∧
    Compares (.ltu p q pd c a b) p q 4 pd c [a, b] (fun v => (nth v 0).toNat < (nth v 1).toNat) ∧
    Compares (.geu p q pd c a b) p q 4 pd c [a, b] (fun v => (nth v 1).toNat ≤ (nth v 0).toNat) ∧
    Compares (.feq p q pd c a b) p q 4 pd c [a, b] (fun v => (asFp32 (nth v 0)).eqv (asFp32 (nth v 1)) = true) ∧
    Compares (.fne p q pd c a b) p q 4 pd c [a, b] (fun v => (asFp32 (nth v 0)).eqv (asFp32 (nth v 1)) = false) ∧
    Compares (.flt p q pd c a b) p q 4 pd c [a, b] (fun v => (asFp32 (nth v 0)).lt (asFp32 (nth v 1)) = true) ∧
    Compares (.fle p q pd c a b) p q 4 pd c [a, b]
      (fun v => (asFp32 (nth v 0)).lt (asFp32 (nth v 1)) = true ∨ (asFp32 (nth v 0)).eqv (asFp32 (nth v 1)) = true) ∧
    Compares (.funord p q pd c a b) p q 4 pd c [a, b] (fun v => (asFp32 (nth v 0)).isNan = true ∨ (asFp32 (nth v 1)).isNan = true) ∧
    Compares (.cmpeqi p q pd c a imm) p q 4 pd c [a] (fun v => nth v 0 = imm.signExtend 64) ∧
    Compares (.cmpeqiI38 p q pd c a wide) p q 8 pd c [a] (fun v => nth v 0 = wide.signExtend 64) ∧
    Compares (.cmplti p q pd c a imm) p q 4 pd c [a] (fun v => (nth v 0).toInt < imm.toInt) ∧
    Compares (.cmpltiI38 p q pd c a wide) p q 8 pd c [a] (fun v => (nth v 0).toInt < wide.toInt) ∧
    Compares (.cmpltui p q pd c a imm) p q 4 pd c [a] (fun v => (nth v 0).toNat < (imm.signExtend 64).toNat) ∧
    Compares (.cmpltuiI38 p q pd c a wide) p q 8 pd c [a] (fun v => (nth v 0).toNat < (wide.signExtend 64).toNat)

/-- R79, R108: the predicate instructions complete. The combining members write pD from pA and pB; pget writes the eight predicates
as a word with bit 0 set; pput sets p1 to p7 from gA and leaves p0 true. -/
def Sys2Proof.predicateRows : Prop :=
  ∀ (p : BitVec 3) (q : BitVec 1) (pd pa pb : BitVec 3) (d a : BitVec 4),
    (∀ s t, s.Issues p q 4 t →
      exec (.pand p q pd pa pb) s = .next (s.retire s.cur (t.setPred pd.toNat (t.pred pa.toNat && t.pred pb.toNat))) ∧
      exec (.por p q pd pa pb) s = .next (s.retire s.cur (t.setPred pd.toNat (t.pred pa.toNat || t.pred pb.toNat))) ∧
      exec (.pxor p q pd pa pb) s = .next (s.retire s.cur (t.setPred pd.toNat (t.pred pa.toNat ^^ t.pred pb.toNat))) ∧
      exec (.pandn p q pd pa pb) s = .next (s.retire s.cur (t.setPred pd.toNat (t.pred pa.toNat && !t.pred pb.toNat)))) ∧
    Computes (.pget p q d) p q 4 d [] (fun t _ =>
      BitVec.ofNat 64 (((List.range 8).map fun i => (t.pred i).toNat * 2 ^ i).sum)) ∧
    (∀ s t v s1, s.Issues p q 4 t → s.Reads t [a] [] v s1 →
      ∃ u : Thread, exec (.pput p q a) s = .next (s1.retire s.cur u) ∧ u = { t with p := u.p } ∧
        ∀ i : Nat, i < 8 → u.pred i = (i == 0 || (nth v 0).getLsbD i))

/-- R79, R105 to R108: every compare and every predicate instruction completes with the condition of its row. -/
def Obligations.CompareResults : Prop := compareRows ∧ predicateRows

/-- R12, R54: the registers that are no ports. A source field of code below 12 is read in the state itself: a general register, 0
for gz, the instruction's address for pc. A result whose destination code is below 10 replaces that register and nothing else of
the thread; one for gz is discarded; either way the pc moves past the instruction (R95) and everything else of the state stays. -/
def Sys2Proof.plainOperands : Prop :=
  (∀ (s : State) (t : Thread) (srcs dsts : List (BitVec 4)), (∀ c ∈ srcs ++ dsts, c.toNat < 12) →
    s.Reads t srcs dsts (srcs.map t.reg) s) ∧
  (∀ (t : Thread) (c : BitVec 4), (∀ h : c.toNat < 10, t.reg c = t.g[c.toNat]) ∧ t.reg 10 = 0 ∧ t.reg 11 = t.pc) ∧
  (∀ (s : State) (tid : Nat) (t : Thread) (d : BitVec 4) (v : Word), d.toNat < 11 → State.writeRefused tid d v = false ∧
    ∃ u, s.result tid t d v = s.setThread tid u ∧
      u = { t with g := u.g, pc := t.pc + BitVec.ofNat 64 t.ilen, wait := .ready, passBp := false, prefixed := false,
                   noEntry := none, replayFrom := none } ∧
      ∀ c : BitVec 4, c.toNat < 10 → u.reg c = if c = d then v else t.reg c)

/-- R54, R213, R416: port registers. In a slot below 15 a read takes the oldest element of the port's buffer, extended to the
register, and a write appends one: the elements on either side stay where they are, and the word that the element ends in turns
empty or full. In slot 15 a read takes the head of the network queue and a write joins its end. -/
def Sys2Proof.portOperands : Prop :=
  ∀ (s : State) (tid : Nat) (t : Thread) (c : BitVec 4) (v : Word), 12 ≤ c.toNat →
    (slotOf tid = 15 → ∀ x l, (s.core (coreOf tid)).xq.at [] (c.toNat % 4) = x :: l →
      s.readReg tid t c = (x, s.modCore (coreOf tid) fun k => { k with xq := k.xq.put (c.toNat % 4) l })) ∧
    (slotOf tid = 15 →
      s.result tid t c v = (s.modCore (coreOf tid) fun k =>
        { k with xq := k.xq.put (c.toNat % 4) (k.xq.at [] (c.toNat % 4) ++ [v]) }).retire tid t) ∧
    (slotOf tid ≠ 15 → ∀ p, (s.core (coreOf tid)).ports.find? (portKey (slotOf tid) c) = some p →
      (∃ s' : State, s.readReg tid t c = (extended p.ew p.sx (s.mem.read (lsAddr (coreOf tid) p.head) p.ew), s') ∧ s'.mem = s.mem ∧
        (((s'.core (coreOf tid)).ports.find? (portKey (slotOf tid) c)).map (·.head) = some (p.step p.head)) ∧
        (s'.isFull (lsAddr (coreOf tid) (p.head / 8 * 8)) =
          (s.isFull (lsAddr (coreOf tid) (p.head / 8 * 8)) && decide ((p.head + p.ew) % 8 ≠ 0)))) ∧
      (∃ s' : State, s.result tid t c v = s'.retire tid t ∧ s'.mem = s.mem.write (lsAddr (coreOf tid) p.tail) p.ew v.toNat ∧
        (((s'.core (coreOf tid)).ports.find? (portKey (slotOf tid) c)).map (·.tail) = some (p.step p.tail)) ∧
        (s'.isFull (lsAddr (coreOf tid) (p.tail / 8 * 8)) =
          (s.isFull (lsAddr (coreOf tid) (p.tail / 8 * 8)) || decide ((p.tail + p.ew) % 8 = 0)))))

/-- R12, R54, R95, R213, R416: what a register field reads and what a result does, for the registers that are no ports and for the
port registers. -/
def Obligations.RegisterOperands : Prop := plainOperands ∧ portOperands

/-- An instruction that rounds an exact value once into a format (R39) under the mode that its RM field and RND give (R37, R38),
and writes the image of the pattern. A stochastic mode draws 16 bits once from the counter of the slot position and advances it,
whether or not the value needs rounding (R45, R46). -/
def Sys2Proof.Rounds (i : Instr) (p : BitVec 3) (q : BitVec 1) (d : BitVec 4) (srcs : List (BitVec 4)) (m : BitVec 2) (f : Fmt)
    (x : List Word → Ex) (image : Nat → Word) : Prop :=
  ∀ s t v s1, s.Issues p q 4 t → s.Reads t srcs [d] v s1 →
    let cx := cxOf (coreOf s.cur) t
    let u := drawBits (coreOf s.cur) (slotOf s.cur) (s1.ctx cx).seed ((s1.ctx cx).draws.at 0 s.cur)
    let mode := if m = 3 then t.rnd else m
    let drawn := s1.modCtx cx fun k => { k with draws := k.draws.put s.cur (k.draws.at 0 s.cur + 1) }
    (mode = 2 → State.writeRefused s.cur d (image (f.round .sr u true (x v))) = false →
      exec i s = .next (drawn.result s.cur t d (image (f.round .sr u true (x v))))) ∧
    (mode = 1 → State.writeRefused s.cur d (image (f.round .rtz 0 true (x v))) = false →
      exec i s = .next (s1.result s.cur t d (image (f.round .rtz 0 true (x v))))) ∧
    (mode ≠ 1 → mode ≠ 2 → State.writeRefused s.cur d (image (f.round .rne 0 true (x v))) = false →
      exec i s = .next (s1.result s.cur t d (image (f.round .rne 0 true (x v)))))

/-- R111, R112, R113: the binary32 instructions complete. The members that round give the FP32 pattern of their exact value, bits
[63:32] zero; fabs and fneg act on the pattern; fmin and fmax give one operand's pattern, a NaN the other's. -/
def Obligations.FloatResults : Prop :=
  ∀ (p : BitVec 3) (q : BitVec 1) (d a b : BitVec 4) (m : BitVec 2),
    Rounds (.fadd p q d a b m) p q d [a, b] m .fp32 (fun v => (asFp32 (nth v 0)).add (asFp32 (nth v 1))) (BitVec.ofNat 64) ∧
    Rounds (.fsub p q d a b m) p q d [a, b] m .fp32 (fun v => (asFp32 (nth v 0)).add (asFp32 (nth v 1)).neg) (BitVec.ofNat 64) ∧
    Rounds (.fmul p q d a b m) p q d [a, b] m .fp32 (fun v => (asFp32 (nth v 0)).mul (asFp32 (nth v 1))) (BitVec.ofNat 64) ∧
    Rounds (.fdiv p q d a b m) p q d [a, b] m .fp32 (fun v => (asFp32 (nth v 0)).div (asFp32 (nth v 1))) (BitVec.ofNat 64) ∧
    Rounds (.fsqrt p q d a m) p q d [a] m .fp32 (fun v => (asFp32 (nth v 0)).sqrt) (BitVec.ofNat 64) ∧
    Rounds (.fmadd p q d a b m) p q d [a, b, d] m .fp32
      (fun v => ((asFp32 (nth v 0)).mul (asFp32 (nth v 1))).add (asFp32 (nth v 2))) (BitVec.ofNat 64) ∧
    Computes (.fabs p q d a) p q 4 d [a] (fun _ v => BitVec.ofNat 64 ((nth v 0).toNat % 2 ^ 31)) ∧
    Computes (.fneg p q d a) p q 4 d [a] (fun _ v => BitVec.ofNat 64 (((nth v 0).toNat + 2 ^ 31) % 2 ^ 32)) ∧
    Computes (.fmin p q d a b) p q 4 d [a, b] (fun _ v =>
      let x := asFp32 (nth v 0)
      let y := asFp32 (nth v 1)
      if x.isNan ∧ y.isNan then 0x7FC00000
      else BitVec.ofNat 64 ((if x.isNan ∨ (y.isNan = false ∧ y.lessIeee x) then nth v 1 else nth v 0).toNat % 2 ^ 32)) ∧
    Computes (.fmax p q d a b) p q 4 d [a, b] (fun _ v =>
      let x := asFp32 (nth v 0)
      let y := asFp32 (nth v 1)
      if x.isNan ∧ y.isNan then 0x7FC00000
      else BitVec.ofNat 64 ((if x.isNan ∨ (y.isNan = false ∧ x.lessIeee y) then nth v 1 else nth v 0).toNat % 2 ^ 32))

/-- R114, R115: cvt takes the low bits of gA as a value of the source format and writes its one rounding into the destination
format: the pattern zero-extended, a signed integer sign-extended. -/
def Obligations.ConvertResults : Prop :=
  ∀ (p : BitVec 3) (q : BitVec 1) (d a : BitVec 4) (m : BitVec 2) (dst src : BitVec 4) (f g : Fmt),
    Fmt.ofCode src.toNat = some f → Fmt.ofCode dst.toNat = some g →
    Rounds (.cvt p q d a m dst src) p q d [a] m g (fun v => f.decode ((nth v 0).toNat % 2 ^ f.width))
      (fun w => if g = .i8 ∨ g = .i16 ∨ g = .i32 then (BitVec.ofNat g.width w).signExtend 64 else BitVec.ofNat 64 w)

/-- R28, R39, R40, R41: a value that a format of 8 bits holds rounds to its own pattern in every mode, whatever is drawn; a NaN
gives the canonical pattern of the format. In a tapered format every non-zero finite value rounds, in every mode and whatever is
drawn, to a pattern that is neither zero nor NaR and that keeps its sign; a magnitude of maxpos or more gives maxpos, and one of
minpos or less gives minpos; exact zero gives the zero pattern, and a NaN or an infinity NaR. -/
def Sys2Proof.byteFormats : Prop :=
  (∀ (f : Fmt) (w u : Nat) (mode : RMode), f ∈ [Fmt.fp8, .tf8, .i8, .ui8] → w < 256 →
    ((f.decode w).isNan = false → f.round mode u true (f.decode w) = w) ∧
    ((f.decode w).isNan = true → f.round mode u true (f.decode w) = if f = .fp8 then 0x7F else 0x80)) ∧
  (∀ (f : Fmt) (u m : Nat) (mode : RMode) (sat neg : Bool) (e : Int), f ∈ [Fmt.tf8, .tf16, .tf32] → m ≠ 0 →
    let w := f.round mode u sat (.fin neg m e)
    let size (P : Nat) : ℚ := (f.posVal P).1 * 2 ^ (f.posVal P).2
    let patternOf (P : Nat) : Nat := if neg then 2 ^ f.width - P else P
    (w ≠ 0 ∧ w < 2 ^ f.width ∧ w ≠ 2 ^ (f.width - 1) ∧ w.testBit (f.width - 1) = neg) ∧
    (size (2 ^ (f.width - 1) - 1) ≤ (m : ℚ) * 2 ^ e → w = patternOf (2 ^ (f.width - 1) - 1)) ∧
    ((m : ℚ) * 2 ^ e ≤ size 1 → w = patternOf 1)) ∧
  (∀ (f : Fmt) (u : Nat) (mode : RMode) (sat neg : Bool), f ∈ [Fmt.tf8, .tf16, .tf32] →
    f.round mode u sat (.zero neg) = 0 ∧ f.round mode u sat .nan = 2 ^ (f.width - 1) ∧
    f.round mode u sat (.inf neg) = 2 ^ (f.width - 1))

/-- R106, R44: comparisons and sums of binary32 values: a NaN compares with nothing and makes every sum and product NaN; the two
zeros are equal; an exact zero sum is −0 only of two −0; order is strict. -/
def Sys2Proof.binary32Values : Prop :=
  (∀ x y : Ex, (x.isNan = true ∨ y.isNan = true) → x.lt y = false ∧ x.eqv y = false ∧ x.add y = .nan ∧ x.mul y = .nan) ∧
  (∀ a b : Bool, (Ex.zero a).eqv (.zero b) = true ∧ (Ex.zero a).lt (.zero b) = false ∧
    (Ex.zero a).add (.zero b) = .zero (a && b)) ∧
  (∀ a b : Bool, (Ex.inf a).mul (.zero b) = .nan ∧ (a ≠ b → (Ex.inf a).add (.inf b) = .nan)) ∧
  (∀ x y : Ex, x.lt y = true → y.lt x = false ∧ x.eqv y = false) ∧
  (∀ (n : Bool) (m : Nat) (e : Int), m ≠ 0 → (Ex.fin n m e).add (.fin (!n) m e) = .zero false)

/-- R28, R39 to R41, R44, R106: rounding into the formats of 8 bits, and comparisons and sums of binary32 values. -/
def Obligations.FloatValues : Prop := byteFormats ∧ binary32Values

/-- The trace record of a taken branch (R373). -/
def Sys2Proof.jumpRecord (s : State) (tid : Nat) (t : Thread) (target : Word) : Rec :=
  { ts := s.time (coreOf tid), src := srcOf tid, kind := 0x81, seq := 0, obj := target.toNat, pc := t.pc.toNat % 2 ^ 32, out := 0 }

/-- R59, R109, R110, R368, R373, R374: branches and jumps complete with the pc at their target: pc + 4 x sext(OFF22), or the
address read, which must be a multiple of 4 or jr and jalr trap with cause 0x06 and write nothing; the linking forms write pc + 4,
after A is read. The trace record of the jump, where the context asks for one, has been written (s2); with no room for it in the
log the thread is Held (R368, R374). -/
def Obligations.BranchResults : Prop :=
  ∀ (p : BitVec 3) (q : BitVec 1) (d a : BitVec 4) (off : BitVec 22) (s : State) (t : Thread), s.Issues p q 4 t →
    let cx := cxOf (coreOf s.cur) t
    let die := coreDie (coreOf s.cur)
    let target := t.pc + 4 * off.signExtend 64
    (∀ s2, s.traceSoft cx die 0 (jumpRecord s s.cur t target) = some s2 →
      exec (.br p q off) s = .next (s2.setThread s.cur { t.past with pc := target }) ∧
      exec (.jal p q off) s = .next (s2.setThread s.cur { (t.setReg 9 (t.pc + 4)).past with pc := target })) ∧
    (∀ v s1 s2, s.Reads t [a] [10] v s1 → (nth v 0).toNat % 4 = 0 →
      s1.traceSoft cx die 0 (jumpRecord s1 s.cur t (nth v 0)) = some s2 → s.jumpHeld s.cur t = false →
      exec (.jr p q a) s = .next (s2.setThread s.cur { t.past with pc := nth v 0 })) ∧
    (∀ v s1 s2, s.Reads t [a] [d] v s1 → (nth v 0).toNat % 4 = 0 → State.writeRefused s.cur d (t.pc + 4) = false →
      let w := s1.writeReg s.cur t d (t.pc + 4)
      w.1.traceSoft cx die 0 (jumpRecord w.1 s.cur t (nth v 0)) = some s2 → s.jumpHeld s.cur t = false →
      exec (.jalr p q d a) s = .next (s2.setThread s.cur { w.2.past with pc := nth v 0 })) ∧
    (∀ v s1, s.Reads t [a] [10] v s1 → (nth v 0).toNat % 4 ≠ 0 →
      exec (.jr p q a) s = .next (s.trap s.cur t 6 (nth v 0))) ∧
    (∀ v s1, s.Reads t [a] [d] v s1 → (nth v 0).toNat % 4 ≠ 0 →
      exec (.jalr p q d a) s = .next (s.trap s.cur t 6 (nth v 0))) ∧
    (s.jumpHeld s.cur t = true →
      exec (.br p q off) s = .next (s.wait s.cur t (.held .logFull)) ∧
      exec (.jal p q off) s = .next (s.wait s.cur t (.held .logFull)) ∧
      (∀ v s1, s.Reads t [a] [10] v s1 → (nth v 0).toNat % 4 = 0 →
        exec (.jr p q a) s = .next (s.wait s.cur t (.held .logFull))) ∧
      (∀ v s1, s.Reads t [a] [d] v s1 → (nth v 0).toNat % 4 = 0 → State.writeRefused s.cur d (t.pc + 4) = false →
        exec (.jalr p q d a) s = .next (s.wait s.cur t (.held .logFull))))

/-- The privileged instructions of a word: eret, gset, the functions of SVC-R, and wrsr of every register but fmt, scl and shb. -/
def Sys2Proof.isPrivileged : Instr → Bool
  | .eret .. | .gsetSet .. | .gsetClear .. | .hwalk .. | .hins .. | .hdel .. | .tlbi .. | .hotr .. | .pgmv .. | .wrsr ..
  | .wrsrSegbase .. | .wrsrRotmode .. | .wrsrDonord .. | .wrsrSlottab .. | .wrsrAcct .. | .wrsrLogRing .. | .wrsrLogcons ..
  | .wrsrReplay .. => true
  | _ => false

/-- R71: an instruction whose predicate is false takes its turn and the pc advances past it; nothing else of the state changes. It
holds for every word of the table, whatever it names. A false predicate hides no fault of an earlier check of R70: a privileged
instruction of a thread outside supervisor state traps all the same, and so does a word that is no instruction or whose extension
no core has, whatever its predicate field names; those of the fetch come before the instruction is known (StepRunsDecoded). -/
def Obligations.FalsePredicate : Prop :=
  ∀ (i : Instr) (w : Word32) (s : State) (u : Thread), s.thread s.cur = some u →
    (i.isWord = true → u.holds (fP (wordOf i).toNat) (fQ (wordOf i).toNat) = false →
      exec i s = if isPrivileged i = true ∧ u.sup = false then .next (s.trap s.cur (s.turned u i.size) 2 ((wordOf i).setWidth 64))
                 else .next (s.retire s.cur (s.turned u i.size))) ∧
    exec (.illegalInstruction w) s = .next (s.trap s.cur u 1 (w.setWidth 64)) ∧
    exec (.extensionAbsent w) s = .next (s.trap s.cur u 0x12 (w.setWidth 64))

/-- R79, R95: the frame of the instructions that work on general registers and predicates alone, in the forms that name no port: at
most the registers and predicates of the destination change (d, pd), with the pc and the bookkeeping of the issue. Every other
register, status, trap and vector register of the thread, every other thread, every core, context, package and engine, the order
log and the trace, and every byte of memory stay. -/
def Obligations.RegisterFrame : Prop :=
  ∀ (p : BitVec 3) (q : BitVec 1) (d a b : BitVec 4) (pd pa pb : BitVec 3) (c : BitVec 1) (imm : BitVec 14) (wide : BitVec 38)
    (n : BitVec 6), d.toNat < 11 → a.toNat < 12 → b.toNat < 12 →
    (∀ i ∈ ([.add p q d a b, .sub p q d a b, .and p q d a b, .or p q d a b, .xor p q d a b, .andn p q d a b, .orn p q d a b,
          .sll p q d a b, .srl p q d a b, .sra p q d a b, .rol p q d a b, .ror p q d a b, .mul p q d a b, .mulh p q d a b,
          .mulhu p q d a b, .div p q d a b, .divu p q d a b, .rem p q d a b, .remu p q d a b, .min p q d a b, .max p q d a b,
          .minu p q d a b, .maxu p q d a b, .clz p q d a, .ctz p q d a, .popc p q d a, .brev p q d a, .sextb p q d a,
          .sexth p q d a, .sextw p q d a, .zextb p q d a, .zexth p q d a, .zextw p q d a, .bfx p q d a b, .bfi p q d a b,
          .addi p q d a imm, .addiI38 p q d a wide, .andi p q d a imm, .andiI38 p q d a wide, .ori p q d a imm,
          .oriI38 p q d a wide, .xori p q d a imm, .xoriI38 p q d a wide, .slli p q d a n, .srli p q d a n, .srai p q d a n,
          .li p q d imm, .liI38 p q d wide, .lih p q d imm, .lihI38 p q d wide, .fmin p q d a b, .fmax p q d a b, .fabs p q d a,
          .fneg p q d a, .pget p q d] : List Instr),
      ∀ s u s', s.thread s.cur = some u → exec i s = .next s' →
        ∃ w : Thread, s' = s.setThread s.cur w ∧ s'.mem = s.mem ∧
          w = { u with pc := u.pc + BitVec.ofNat 64 i.size, g := w.g, wait := .ready, ilen := i.size, passBp := false, prefixed := false,
                       rmode := (s.ctx (cxOf (coreOf s.cur) u)).replay, noEntry := none, replayFrom := none } ∧
          ∀ r : BitVec 4, r.toNat < 10 → r ≠ d → w.reg r = u.reg r) ∧
    (∀ i ∈ ([.eq p q pd c a b, .ne p q pd c a b, .lt p q pd c a b, .ge p q pd c a b, .ltu p q pd c a b, .geu p q pd c a b,
          .feq p q pd c a b, .fne p q pd c a b, .flt p q pd c a b, .fle p q pd c a b, .funord p q pd c a b,
          .cmpeqi p q pd c a imm, .cmpeqiI38 p q pd c a wide, .cmplti p q pd c a imm, .cmpltiI38 p q pd c a wide,
          .cmpltui p q pd c a imm, .cmpltuiI38 p q pd c a wide, .pand p q pd pa pb, .por p q pd pa pb, .pxor p q pd pa pb,
          .pandn p q pd pa pb] : List Instr),
      ∀ s u s', s.thread s.cur = some u → exec i s = .next s' →
        ∃ w : Thread, s' = s.setThread s.cur w ∧ s'.mem = s.mem ∧
          w = { u with pc := u.pc + BitVec.ofNat 64 i.size, p := w.p, wait := .ready, ilen := i.size, passBp := false, prefixed := false,
                       rmode := (s.ctx (cxOf (coreOf s.cur) u)).replay, noEntry := none, replayFrom := none } ∧
          ∀ k : Nat, k ≠ pd.toNat → w.pred k = u.pred k)

/-- R60, R73, R80, R81, R116, R192, R193, R199, R221, R325: what rdsr writes into gD for every numbered system register; it
completes in any state of the thread. -/
def Obligations.SystemRegisterReads : Prop :=
  ∀ (p : BitVec 3) (q : BitVec 1) (d : BitVec 4) (s : State) (t : Thread), s.Issues p q 4 t → s.Reads t [] [d] [] s →
    let c := coreOf s.cur
    let k := s.core c
    let x := s.ctx (4 * (c / 2048) + t.ctx)
    let l := if coreDie c = 0 then x.log0 else x.log1
    ∀ e ∈ ([(0x00, BitVec.ofNat 64 (1 + 16 * t.sup.toNat + 32 * t.tfl.toNat + 64 * (decide (t.seq.ents ≠ []) || t.mat.isSome).toNat +
              128 * t.df.toNat + 512 * (k.wakes.at (false, 0) (4 * slotOf s.cur + t.ctx)).1.toNat)),
            (0x01, t.cause.setWidth 64), (0x02, t.epc), (0x03, t.ebad), (0x04, t.rnd.setWidth 64), (0x05, t.scl), (0x06, t.shb),
            (0x07, t.mprog.setWidth 64), (0x08, BitVec.ofNat 64 c), (0x09, BitVec.ofNat 64 (s.cur % 16)), (0x0A, BitVec.ofNat 64 c),
            (0x0B, BitVec.ofNat 64 t.ctx), (0x0C, x.replay.setWidth 64),
            (0x40, if k.rotPend.getD k.rotShr then 1 else 0),
            (0x41, BitVec.ofNat 64 ((if k.slotPend = none then 0 else 2 ^ 63) + k.slotOff.toNat)), (0x42, k.donord),
            (0x43, if 32 ≤ c % 1024 % 36 then 0x0D else 0x07), (0x44, k.vbstall),
            (0x45, BitVec.ofNat 64 (k.acctArea.toNat * 1024 + 4 * k.acctClr.toNat + 2 * k.acctSnap.toNat + k.acctRun.toNat)),
            (0x80, x.segbase), (0x81, x.trapvec), (0x82, l.base), (0x83, l.size), (0x84, l.prod), (0x85, l.cons),
            (0x86, x.replay.setWidth 64), (0x87, x.rtimeout), (0x88, x.seed)] : List (Nat × Word)),
      State.writeRefused s.cur d e.2 = false →
      exec (.rdsr p q d (BitVec.ofNat 14 e.1)) s = .next (s.result s.cur t d e.2)

/-- R38, R80, R81, R117, R202: wrsr to the thread's own registers and to vbstall completes. In status only TFL is written; cause
keeps 8 bits; epc drops bits [1:0]; fmt keeps RND; shb keeps bits [19:5]. The first five need supervisor state; fmt, scl and shb
any state, once the vector sequencer is empty: until then the thread is Held. -/
def Obligations.ThreadRegisterWrites : Prop :=
  ∀ (p : BitVec 3) (q : BitVec 1) (a : BitVec 4) (s : State) (t : Thread) (v : List Word) (s1 : State), s.Issues p q 4 t →
    s.Reads t [a] [] v s1 →
    let x := nth v 0
    (t.sup = true →
      exec (.wrsr p q a 0x00) s = .next (s1.retire s.cur { t with tfl := x.getLsbD 5 }) ∧
      exec (.wrsr p q a 0x01) s = .next (s1.retire s.cur { t with cause := x.setWidth 8 }) ∧
      exec (.wrsr p q a 0x02) s = .next (s1.retire s.cur { t with epc := BitVec.ofNat 64 (x.toNat / 4 * 4) }) ∧
      exec (.wrsr p q a 0x03) s = .next (s1.retire s.cur { t with ebad := x }) ∧
      exec (.wrsr p q a 0x44) s = .next ((s1.modCore (coreOf s.cur) fun k => { k with vbstall := x }).retire s.cur t)) ∧
    (t.seq.ents = [] →
      exec (.wrsrVectorState p q a 0x04) s = .next (s1.retire s.cur { t with rnd := x.setWidth 2 }) ∧
      exec (.wrsrVectorState p q a 0x05) s = .next (s1.retire s.cur { t with scl := x }) ∧
      exec (.wrsrVectorState p q a 0x06) s =
        .next (s1.retire s.cur { t with shb := BitVec.ofNat 64 (x.toNat % 2 ^ 20 / 32 * 32) })) ∧
    (t.seq.ents ≠ [] → ∀ n, exec (.wrsrVectorState p q a n) s = .next (s.wait s.cur t (.held .push)))

/-- R193, R199, R221: wrsr to the core's registers completes in supervisor state. rotmode is pending until the next cycle that is a
multiple of 16, when ROTMODE_SWITCH puts it into effect; donord takes a permutation of the slots and nothing else (cause 0x01);
slottab copies 32 legal bytes of the core's own local store into the pending table; acct sets AREA, CLR and RUN, and SNAP only ever
to 1, until the snapshot is written. ACCT_SNAPSHOT takes the 113 counters at one instant, their places one after the other in the
dump area, and with CLR they start anew; in a DMA turn of the core it writes the next word, which becomes full, and with the last
one SNAP clears. That a snapshot is taken at one instant and written a word a turn is the model's (log 73). -/
def Obligations.CoreRegisterWrites : Prop :=
  (∀ (p : BitVec 3) (q : BitVec 1) (a : BitVec 4) (s : State) (t : Thread) (v : List Word) (s1 : State), s.Issues p q 4 t →
    s.Reads t [a] [] v s1 → t.sup = true →
    let x := nth v 0
    let c := coreOf s.cur
    exec (.wrsrRotmode p q a) s = .next ((s1.modCore c fun k => { k with rotPend := some (x.getLsbD 0) }).retire s.cur t) ∧
    ((∀ y, y < 16 → ∃ i, i < 16 ∧ x.toNat / 2 ^ (4 * i) % 16 = y) →
      exec (.wrsrDonord p q a) s = .next ((s1.modCore c fun k => { k with donord := x }).retire s.cur t)) ∧
    (¬ (∀ y, y < 16 → ∃ i, i < 16 ∧ x.toNat / 2 ^ (4 * i) % 16 = y) →
      exec (.wrsrDonord p q a) s = .next (s.trap s.cur t 1 ((wordOf (.wrsrDonord p q a)).setWidth 64))) ∧
    (∀ la, s1.check c t.ctx x 32 segR 1 = .ok la → laRegion la = 1 → laCore la = c → s1.isBad la 32 = false →
      (∀ b ∈ (s1.mem.bytes la 32).take 30, b.toNat < 16 ∨ b.toNat = 255) →
      exec (.wrsrSlottab p q a) s = .next ((s1.modCore c fun k =>
        { k with slotPend := some (s1.mem.bytes la 32), slotOff := BitVec.ofNat 20 (laOff la) }).retire s.cur t)) ∧
    exec (.wrsrAcct p q a) s = .next ((s1.modCore c fun k =>
      { k with acctArea := BitVec.ofNat 10 (x.toNat / 1024), acctClr := x.getLsbD 2, acctSnap := k.acctSnap || x.getLsbD 1,
               acctRun := x.getLsbD 0 }).retire s.cur t)) ∧
  (∀ (s : State) (c : Nat) (b : Bool), s.clock % 16 = 0 → (s.core c).rotPend = some b →
    exec (.rotmodeSwitch c) s = .next (s.setCore c { s.core c with rotShr := b, rotPend := none })) ∧
  (∀ (s : State) (c : Nat), c < 2 ^ 47 → (s.core c).acctSnap = true → (s.core c).acctOut = [] →
    1024 * (s.core c).acctArea.toNat + 1024 ≤ lsSize c →
    exec (.acctSnapshot c) s = .next (s.setCore c { s.core c with
      acctOut := (List.range 113).map fun i => (lsAddr c (1024 * (s.core c).acctArea.toNat + 8 * i), (s.core c).acctCnt.at 0 i),
      acctCnt := if (s.core c).acctClr then [] else (s.core c).acctCnt })) ∧
  (∀ (s : State) (c la v : Nat) (r : List (Nat × Nat)), s.mem.wf → (s.core c).acctOut = (la, v) :: r →
    ∃ s' : State, exec (.acctSnapshot (2 ^ 47 + c)) s = .next s' ∧ (s'.core c).acctOut = r ∧ s'.threads = s.threads ∧
      (s'.core c).acctSnap = ((s.core c).acctSnap && !r.isEmpty) ∧ (s'.core c).acctCnt = (s.core c).acctCnt ∧
      s'.mem.read la 8 = v % 2 ^ 64 ∧ s'.isFull la = true ∧
      ∀ k, (k < la ∨ la + 8 ≤ k) → s'.mem.byte k = s.mem.byte k)

/-- R325, R357, R358, R366: wrsr to the context's registers in supervisor state. The log registers of the writer's die change at
once: logbase and logsize (a legal size, outside a recording or a replay) zero both indices, logcons moves within its bounds. A
write of logbase or logsize while the context records or replays, an illegal size, and a logcons below or above its bounds trap
with cause 0x01. -/
def Sys2Proof.logRegisterWrites : Prop :=
  ∀ (p : BitVec 3) (q : BitVec 1) (a : BitVec 4) (s : State) (t : Thread) (v : List Word) (s1 : State), s.Issues p q 4 t →
    s.Reads t [a] [] v s1 → t.sup = true →
    let x := nth v 0
    let die := coreDie (coreOf s.cur)
    let cx := cxOf (coreOf s.cur) t
    let u := (s1.ctx cx).log die
    ((s1.ctx cx).replay = 0 →
      exec (.wrsrLogRing p q a 0x82) s = .next ((s1.modCtx cx fun k => k.setLog die
        { u with base := BitVec.ofNat 64 (x.toNat / 65536 * 65536), prod := 0, cons := 0, retired := [], nextRead := 0 }).retire s.cur t)) ∧
    ((s1.ctx cx).replay = 0 → (∃ k, k ≤ 24 ∧ x.toNat = 2 ^ (16 + k)) →
      exec (.wrsrLogRing p q a 0x83) s = .next ((s1.modCtx cx fun k => k.setLog die
        { u with size := x, prod := 0, cons := 0, retired := [], nextRead := 0 }).retire s.cur t)) ∧
    ((s1.ctx cx).replay ≠ 0 →
      exec (.wrsrLogRing p q a 0x82) s = .next (s.trap s.cur t 1 ((wordOf (.wrsrLogRing p q a 0x82)).setWidth 64)) ∧
      exec (.wrsrLogRing p q a 0x83) s = .next (s.trap s.cur t 1 ((wordOf (.wrsrLogRing p q a 0x83)).setWidth 64))) ∧
    ((∀ k, k ≤ 24 → x.toNat ≠ 2 ^ (16 + k)) →
      exec (.wrsrLogRing p q a 0x83) s = .next (s.trap s.cur t 1 ((wordOf (.wrsrLogRing p q a 0x83)).setWidth 64))) ∧
    (u.cons.toNat ≤ x.toNat → x.toNat ≤ u.prod.toNat + (if (s1.ctx cx).replay = 2 then u.size.toNat / 32 else 0) →
      exec (.wrsrLogcons p q a) s = .next ((s1.modCtx cx fun k => k.setLog die { u with cons := x }).retire s.cur t)) ∧
    (x.toNat < u.cons.toNat ∨ u.prod.toNat + (if (s1.ctx cx).replay = 2 then u.size.toNat / 32 else 0) < x.toNat →
      exec (.wrsrLogcons p q a) s = .next (s.trap s.cur t 1 ((wordOf (.wrsrLogcons p q a)).setWidth 64)))

/-- R128, R129, R325, R366: a wrsr to a register that the package shares puts its thread in MemWait, and completes when every core
holds the value: MEMORY_REPLY then makes the write, tells the cores, and the thread goes on. trapvec drops bits [1:0]; a write of 0
to replay ends a replay: each die's logcons becomes its logprod, and the waits end; a write of 2 or 3, and a write of 1 during a
replay, trap with cause 0x01. segbase drops bits [3:0]; a value whose 128 bytes do not all lie in region 0 traps with cause 0x07
and ebad = the value, a region-2 address that names the own package counts as its region-0 offset, a translation miss puts the
thread in PageWait, a page with no entry is cause 0x07 and uncorrectable data 0x08; once the writer has read the eight descriptors
the write is made, every core of the context reads them again, and the thread goes on when all have. -/
def Sys2Proof.sharedRegisterWrites : Prop :=
  (∀ (p : BitVec 3) (q : BitVec 1) (a : BitVec 4) (s : State) (t : Thread) (v : List Word) (s1 : State), s.Issues p q 4 t →
    s.Reads t [a] [] v s1 → t.sup = true →
    let x := nth v 0
    let cx := cxOf (coreOf s.cur) t
    exec (.wrsr p q a 0x81) s =
      .next (s1.wait s.cur t (.mem { kind := .ctxWrite, vals := [BitVec.ofNat 64 (x.toNat / 4 * 4)], n := 0x81 })) ∧
    exec (.wrsr p q a 0x87) s = .next (s1.wait s.cur t (.mem { kind := .ctxWrite, vals := [x], n := 0x87 })) ∧
    exec (.wrsr p q a 0x88) s = .next (s1.wait s.cur t (.mem { kind := .ctxWrite, vals := [x], n := 0x88 })) ∧
    ((x.toNat % 4 = 0 ∨ (x.toNat % 4 = 1 ∧ (s1.ctx cx).replay ≠ 2)) →
      exec (.wrsrReplay p q a) s =
        .next (s1.wait s.cur t (.mem { kind := .ctxWrite, vals := [BitVec.ofNat 64 (x.toNat % 4)], n := 0x86 }))) ∧
    (2 ≤ x.toNat % 4 ∨ (x.toNat % 4 = 1 ∧ (s1.ctx cx).replay = 2) →
      exec (.wrsrReplay p q a) s = .next (s.trap s.cur t 1 ((wordOf (.wrsrReplay p q a)).setWidth 64))) ∧
    let c := coreOf s.cur
    let la := canonLa (corePkg c) (x.toNat / 16 * 16)
    (∀ l s2, x.toNat < 2 ^ 60 → la + 127 < 2 ^ 43 → s1.reach c la 128 = (.ok l, s2) →
      exec (.wrsrSegbase p q a) s = .next (s2.wait s.cur t
        (.mem { kind := .segRead, vals := [BitVec.ofNat 64 (x.toNat / 16 * 16), x], n := la }))) ∧
    (∀ pkg off s2, x.toNat < 2 ^ 60 → la + 127 < 2 ^ 43 → s1.reach c la 128 = (.miss pkg off, s2) →
      (t.noEntry = some (pkg, off / 65536) → exec (.wrsrSegbase p q a) s = .next (s.trap s.cur t 7 x)) ∧
      (t.noEntry ≠ some (pkg, off / 65536) → exec (.wrsrSegbase p q a) s =
        .next ((s.wait s.cur t (.page pkg off)).askWalk (portOf c pkg off) off (.thread s.cur)))) ∧
    (2 ^ 60 ≤ x.toNat ∨ 2 ^ 43 ≤ la + 127 → exec (.wrsrSegbase p q a) s = .next (s.trap s.cur t 7 x))) ∧
  (∀ pkg other off : Nat, pkg < 2 ^ 13 → other < 2 ^ 13 → other ≠ pkg → off < 2 ^ 43 → canonLa pkg off = off ∧
    canonLa pkg (2 ^ 57 + pkg * 2 ^ 43 + off) = off ∧ 2 ^ 43 ≤ canonLa pkg (2 ^ 57 + other * 2 ^ 43 + off)) ∧
  (∀ (s : State) (tid : Nat) (t : Thread) (x : Word) (n : Nat), s.thread tid = some t →
    t.wait = .mem { kind := .ctxWrite, vals := [x], n := n } →
    let cx := cxOf (coreOf tid) t
    let made (f : Context → Context) : State := ((s.modCtx cx f).toldCores tid cx).retire tid t
    (n = 0x81 → exec (.memoryReply tid) s = .next (made fun k => { k with trapvec := x })) ∧
    (n = 0x87 → exec (.memoryReply tid) s = .next (made fun k => { k with rtimeout := x })) ∧
    (n = 0x88 → exec (.memoryReply tid) s = .next (made fun k => { k with seed := x })) ∧
    (n = 0x86 → (s.ctx cx).replay ≠ 2 → exec (.memoryReply tid) s = .next (made fun k => { k with replay := x.setWidth 2 })) ∧
    (n = 0x86 → (s.ctx cx).replay = 2 → x = 0 →
      exec (.memoryReply tid) s = .next (made fun k => { k.replayEnds with replay := 0 }))) ∧
  (∀ (k : Context) (die : Nat), k.replayEnds.waits = [] ∧
    let u := k.replayEnds.log die
    u.cons = (k.log die).prod ∧ u.prod = (k.log die).prod ∧ u.dispatched = [] ∧ u.retired = []) ∧
  (∀ (s : State) (tid : Nat) (t : Thread) (x y : Word) (n : Nat), s.thread tid = some t →
    t.wait = .mem { kind := .segRead, vals := [x, y], n := n } →
    let c := coreOf tid
    let cl := clusterOf c
    let w := Waiter.slot tid
    (∀ o, s.portMiss w cl (rangeOffs n 128) = some o → exec (.memoryReply tid) s = .next (s.askWalk cl o w)) ∧
    (s.portMiss w cl (rangeOffs n 128) = none → (∃ o, o ∈ rangeOffs n 128 ∧ (s.portPlaceOf w cl o).1 = none) →
      exec (.memoryReply tid) s = .next ((s.trap tid t 7 y).dropNotes w)) ∧
    (∀ s1, s.portMiss w cl (rangeOffs n 128) = none → (∀ o ∈ rangeOffs n 128, (s.portPlaceOf w cl o).1 ≠ none) →
      s.portBytes w c cl 128 n = (none, s1) → exec (.memoryReply tid) s = .next ((s1.trap tid t 8 y).dropNotes w)) ∧
    (∀ s1 b, s.portMiss w cl (rangeOffs n 128) = none → (∀ o ∈ rangeOffs n 128, (s.portPlaceOf w cl o).1 ≠ none) →
      s.portBytes w c cl 128 n = (some b, s1) →
      let u := (s1.modCtx (cxOf c t) fun k => { k with segbase := x }).setThread tid
        { t with wait := .mem { kind := .segRead, vals := [x, y], n := n, sgn := true } }
      u.segMisses (cxOf c t) = [] →
      exec (.memoryReply tid) s =
        .next ((((u.readSegs (cxOf c t)).toldCores tid (cxOf c t)).retire tid t).dropNotes w))) ∧
  (∀ (s : State) (tid : Nat) (t : Thread) (x y : Word) (n : Nat), s.thread tid = some t →
    t.wait = .mem { kind := .segRead, vals := [x, y], n := n, sgn := true } → s.segMisses (cxOf (coreOf tid) t) = [] →
    exec (.memoryReply tid) s =
      .next (((s.readSegs (cxOf (coreOf tid) t)).toldCores tid (cxOf (coreOf tid) t)).retire tid t))

/-- R128, R129, R325, R357, R358, R366: wrsr to the registers of the context: those of the writer's die at once, those that the
package shares when every core holds them. -/
def Obligations.ContextRegisterWrites : Prop := logRegisterWrites ∧ sharedRegisterWrites

/-- The record that the trace unit writes of a trap (R373). -/
def Sys2Proof.trapRecord (s : State) (tid : Nat) (t : Thread) (cause : Nat) (ebad : Word) : Rec :=
  { ts := s.time (coreOf tid), src := srcOf tid, kind := 0x82, seq := 0, obj := ebad.toNat, pc := t.pc.toNat % 2 ^ 32, out := cause }

/-- R83, R72, R119, R121, R185: taking a trap. With TFL clear it sets TFL and SUP, writes cause, epc (the instruction's address)
and ebad, and the pc becomes trapvec; the general registers, predicates and every other register of the thread stay, and so does
all else but the trace, a stream that gA names included. trap gA does so with cause 0x0F and gA, brk with 0x10 and 0, a word that
is no instruction with cause 0x01, a word of majors 37 to 39 with cause 0x12, both with the word in ebad. -/
def Sys2Proof.trapTaken : Prop :=
  ∀ (p : BitVec 3) (q : BitVec 1) (a : BitVec 4) (w : BitVec 32) (s s2 : State) (t : Thread),
    let taken (s2 : State) (t : Thread) (cause : Nat) (ebad : Word) : State := s2.setThread s.cur
      { t with tfl := true, sup := true, cause := BitVec.ofNat 8 cause, epc := t.pc, ebad := ebad,
               pc := (s2.ctx (cxOf (coreOf s.cur) t)).trapvec, wait := .ready, passBp := false, prefixed := false, arrived := none,
               noEntry := none, replayFrom := none }
    let traced (s1 : State) (cause : Nat) (ebad : Word) (s2 : State) : Prop :=
      s1.traceSoft (cxOf (coreOf s.cur) t) (coreDie (coreOf s.cur)) 1 (trapRecord s1 s.cur t cause ebad) = some s2
    t.tfl = false →
    (∀ cause ebad, traced s cause ebad s2 → s.trap s.cur t cause ebad = taken s2 t cause ebad) ∧
    (∀ v s1, s.Issues p q 4 t → s.Reads t [a] [] v s1 → traced s 0x0F (nth v 0) s2 →
      exec (.trap p q a) s = .next (taken s2 t 0x0F (nth v 0))) ∧
    (s.Issues p q 4 t → traced s 0x10 0 s2 → exec (.brk p q) s = .next (taken s2 t 0x10 0)) ∧
    (s.thread s.cur = some t → traced s 1 (w.setWidth 64) s2 →
      exec (.illegalInstruction w) s = .next (taken s2 t 1 (w.setWidth 64))) ∧
    (s.thread s.cur = some t → traced s 0x12 (w.setWidth 64) s2 →
      exec (.extensionAbsent w) s = .next (taken s2 t 0x12 (w.setWidth 64)))

/-- R83, R373: a trap while TFL is set writes no register: the thread becomes Stopped with DF set and its pc at the instruction,
and a trace record of kind 0x84 with detail 2 is written, in a replay to the host. A handler clears TFL with wrsr to status, after
which traps are taken as with TFL clear. -/
def Sys2Proof.doubleTrap : Prop :=
  (∀ (s : State) (tid : Nat) (t : Thread) (cause : Nat) (ebad : Word), t.tfl = true →
    let cx := cxOf (coreOf tid) t
    let r : Rec := { ts := s.time (coreOf tid), src := srcOf tid, kind := 0x84, seq := 0, obj := t.ebad.toNat,
                     pc := t.pc.toNat % 2 ^ 32, out := 2 }
    let stopped := s.setThread tid { t with df := true, wait := .stopped, prefixed := false, arrived := none, noEntry := none,
                                            replayFrom := none }
    s.trap tid t cause ebad =
      if (s.ctx cx).replay = 2 then stopped.traceHost (cx / 4) r
      else stopped.modCtx cx fun k => k.setLog (coreDie (coreOf tid))
        { k.log (coreDie (coreOf tid)) with pending := (k.log (coreDie (coreOf tid))).pending ++ [r] }) ∧
  (∀ (p : BitVec 3) (q : BitVec 1) (a : BitVec 4) (s s1 : State) (t : Thread) (v : List Word), s.Issues p q 4 t →
    s.Reads t [a] [] v s1 → t.sup = true → (nth v 0).getLsbD 5 = false →
    exec (.wrsr p q a 0) s = .next (s1.retire s.cur { t with tfl := false }))

/-- R83: taking a trap. What it writes and where it goes, for every cause and on the instructions whose effect it is; what a trap
does while TFL is set, and how a handler clears TFL. -/
def Obligations.TrapEntry : Prop := trapTaken ∧ doubleTrap

/-- R69, R80, R120, R325: the privileged instructions of a thread outside supervisor state trap with cause 0x02 and the word in
ebad, whatever their operands and their predicate: eret, gset, every SVC-R function, and wrsr of every privileged register. -/
def Obligations.PrivilegedInUserState : Prop :=
  ∀ (p : BitVec 3) (q : BitVec 1) (d a b : BitVec 4) (sys : BitVec 14) (s : State) (u : Thread), s.thread s.cur = some u →
    u.sup = false →
    ∀ i ∈ ([.eret p q, .gsetSet p q d a b, .gsetClear p q d a b, .hwalk p q d a b, .hins p q d a, .hdel p q d a, .tlbi p q a b,
            .hotr p q d a b, .pgmv p q d a b, .wrsr p q a sys, .wrsrSegbase p q a, .wrsrRotmode p q a, .wrsrDonord p q a,
            .wrsrSlottab p q a, .wrsrAcct p q a, .wrsrLogRing p q a sys, .wrsrLogcons p q a, .wrsrReplay p q a] : List Instr),
      exec i s = .next (s.trap s.cur (s.turned u 4) 2 ((wordOf i).setWidth 64))

/-- R120, R122 to R126, R189, R314: eret returns to epc and clears SUP and TFL in one step, whatever TFL was, and lets a frozen
sequencer go on, the shape records of its entries to be checked again (R189, R228); nop only advances the pc; tsr writes the
time-stamp counter of the core and rng four draws of the slot position's counter, which advances by 4; halt makes the thread leave
its slot and its context Halting with the exit code, unless an earlier halt has been accepted; with an open body it traps with
cause 0x01 (R238), also in a frozen sequencer; outside a recording or a replay logm only reads its operands. That a halt counts as
accepted once the thread's relaxed accesses have completed, and that R238 holds in a frozen sequencer, is the model's reading (log
61). -/
def Obligations.SystemGroup : Prop :=
  ∀ (p : BitVec 3) (q : BitVec 1) (d a b : BitVec 4) (s : State) (t : Thread), s.Issues p q 4 t →
    let c := coreOf s.cur
    let cx := cxOf c t
    (t.sup = true → exec (.eret p q) s = .next (s.setThread s.cur
      { t with pc := t.epc, sup := false, tfl := false, wait := .ready, passBp := true, prefixed := false,
               seq := if t.seq.frozen then { ents := t.seq.ents.map fun e => { e with recs := [] }, frozen := false } else t.seq })) ∧
    exec (.nop p q) s = .next (s.retire s.cur t) ∧
    (s.Reads t [] [d] [] s → State.writeRefused s.cur d (BitVec.ofNat 64 (s.time c)) = false →
      exec (.tsr p q d) s = .next (s.result s.cur t d (BitVec.ofNat 64 (s.time c)))) ∧
    (s.Reads t [] [d] [] s →
      let n := (s.ctx cx).draws.at 0 s.cur
      let u (k : Word) : Nat := drawBits c (slotOf s.cur) (s.ctx cx).seed (n + k)
      let v := BitVec.ofNat 64 (u 0 + u 1 * 2 ^ 16 + u 2 * 2 ^ 32 + u 3 * 2 ^ 48)
      State.writeRefused s.cur d v = false →
      ∃ s' : State, exec (.rng p q d) s = .next (s'.result s.cur t d v) ∧ s'.mem = s.mem ∧ s'.threads = s.threads ∧ s'.cores = s.cores ∧
        (s'.ctx cx).draws.at 0 s.cur = n + 4) ∧
    (∀ v s1, s.Reads t [a] [] v s1 → t.seq.isOpen = true →
      exec (.halt p q a) s = .next (s.trap s.cur t 1 ((wordOf (.halt p q a)).setWidth 64))) ∧
    (∀ v s1, s.Reads t [a] [] v s1 → t.seq.isOpen = false → t.relaxed = [] →
      exec (.halt p q a) s = .next ((s1.modCtx cx fun k =>
        if k.st = .running then { k with st := .halting, exitCode := BitVec.ofNat 32 (nth v 0).toNat } else k).vacate s.cur)) ∧
    (∀ v s1, s.Reads t [a] [] v s1 → t.seq.isOpen = false → t.relaxed ≠ [] →
      exec (.halt p q a) s = .next (s.wait s.cur t (.mem { kind := .drain }))) ∧
    (∀ v s1, s.Reads t [a, b] [] v s1 → (s1.ctx cx).replay = 0 →
      exec (.logm p q a b) s = .next (s1.retire s.cur t))

/-- R125, R359 to R363, R367: a logged event of a thread while its context records. logm shows it: with room in the ring of the
writer's die its record goes on its way, stamped with the core's time, with the slot's source word, the object gA with its next
sequence number, the pc and the outcome gB; the object's sequence number advances; the thread goes on. With no room it is Held.
That the core's T passes the record's time is the model's (log 75). -/
def Obligations.RecordedEvent : Prop :=
  ∀ (p : BitVec 3) (q : BitVec 1) (a b : BitVec 4) (s : State) (t : Thread) (v : List Word) (s1 : State), s.Issues p q 4 t →
    s.Reads t [a, b] [] v s1 →
    let c := coreOf s.cur
    let cx := cxOf c t
    let obj := (nth v 0).toNat
    let n := (s1.ctx cx).seqs.at 0 obj
    let r : Rec := { ts := s1.time c, src := srcOf s.cur, kind := 0x0F, seq := n % 2 ^ 24, obj := obj, pc := t.pc.toNat % 2 ^ 32,
                     out := (nth v 1).toNat % 2 ^ 32 }
    (s1.ctx cx).replay = 1 →
    (64 ≤ ((s1.ctx cx).log (coreDie c)).room → ((s1.ctx cx).log (coreDie c)).stopped = false →
      exec (.logm p q a b) s = .next ((((s1.append cx (coreDie c) r).hear c r.ts).modCtx cx fun k =>
        { k with seqs := k.seqs.put obj ((n + 1) % 2 ^ 24) }).retire s.cur t)) ∧
    (((s1.ctx cx).log (coreDie c)).room < 64 ∨ ((s1.ctx cx).log (coreDie c)).stopped = true → ∃ u, exec (.logm p q a b) s = .next (s.setThread s.cur u) ∧ u.pc = t.pc ∧
      u.wait = .held .logFull)

/-- R73, R74, R162: an instruction of an extension that the core lacks moves its thread to the first candidate core of the die, in
the order of R74: the slot is left Vacant and reserved, and the packet is on its way; with no candidate it traps with cause 0x12.
migrate moves the thread to the core that gA names, where it goes on after the instruction; naming its own core it only goes on. -/
def Obligations.Migrations : Prop :=
  (∀ (w : BitVec 32) (x : Ext) (s : State) (t : Thread), s.thread s.cur = some t → extOfWord w = some x →
    hasExt (coreOf s.cur) x = false → t.relaxed = [] →
    (∀ y, ((extOrder (coreOf s.cur)).find? fun y => hasExt y x && s.coreOk y && s.holdsSlots (cxOf (coreOf s.cur) t) y) = some y →
      exec (.extensionMigration w) s = .next (((s.vacate s.cur).modCore (coreOf s.cur) fun k =>
        { k with reserved := NatSet.insert k.reserved (slotOf s.cur) }).send (coreOf s.cur) y 2
          (.migrate y { t with wait := .ready, mat := none, prefixed := false } s.cur (BitVec.ofNat 64 y) false))) ∧
    (((extOrder (coreOf s.cur)).find? fun y => hasExt y x && s.coreOk y && s.holdsSlots (cxOf (coreOf s.cur) t) y) = none →
      exec (.extensionMigration w) s = .next (s.trap s.cur t 0x12 (w.setWidth 64)))) ∧
  (∀ (p : BitVec 3) (q : BitVec 1) (a : BitVec 4) (s : State) (t : Thread) (v : List Word) (s1 : State), s.Issues p q 4 t →
    s.Reads t [a] [] v s1 →
    let y := (nth v 0).toNat % 2 ^ 24
    (s1.coreOk y = true → s1.holdsSlots (4 * corePkg y + t.ctx) y = true → t.relaxed = [] → y ≠ coreOf s.cur →
      exec (.migrate p q a) s = .next (((s1.vacate s.cur).modCore (coreOf s.cur) fun k =>
        { k with reserved := NatSet.insert k.reserved (slotOf s.cur) }).send (coreOf s.cur) y 2
          (.migrate y { t with wait := .ready, mat := none, prefixed := false } s.cur (nth v 0) true))) ∧
    (s1.coreOk y = true → s1.holdsSlots (4 * corePkg y + t.ctx) y = true → t.relaxed = [] → y = coreOf s.cur →
      exec (.migrate p q a) s = .next (s1.retire s.cur t)) ∧
    ((s1.coreOk y = false ∨ s1.holdsSlots (4 * corePkg y + t.ctx) y = false) →
      exec (.migrate p q a) s = .next (s.trap s.cur t 7 (nth v 0))))

/-- R22, R24: memory as bytes. A store of n bytes keeps the canonical form, puts byte i of the value (the least significant first)
at its i-th address and leaves every other byte alone; a read of n bytes gives them back in the same order; memories in canonical
form that read the same everywhere are the same. That memory holds sorted cells, none 0, is the model's (log 3). -/
def Obligations.MemoryBytes : Prop :=
  (∀ (m : Mem) (k n v : Nat), m.wf → (m.write k n v).wf ∧ (m.write k n v).read k n = v % 256 ^ n ∧
    (∀ i, i < n → (m.write k n v).byte (k + i) = BitVec.ofNat 8 (v / 256 ^ i)) ∧
    (∀ j, j < k ∨ k + n ≤ j → (m.write k n v).byte j = m.byte j)) ∧
  (∀ (m : Mem) (k : Nat) (l : List Byte), m.wf → (m.writeBytes k l).wf ∧ (m.writeBytes k l).bytes k l.length = l ∧
    (∀ j, j < k ∨ k + l.length ≤ j → (m.writeBytes k l).byte j = m.byte j)) ∧
  (∀ (m : Mem) (k n : Nat), m.read k n = ((List.range n).map fun i => (m.byte (k + i)).toNat * 256 ^ i).sum) ∧
  (∀ m w : Mem, m.wf → w.wf → (∀ k, m.byte k = w.byte k) → m = w)

/-- R127, R128, R130, R131, R132: the checks of a data access in their order, with the fault of the first that fails. d is the
descriptor that va selects as the core holds it; s0 adds the base of the context's share. That a window whose EP lies beyond the
host table covers nothing is the model's (log 65). -/
def Obligations.AccessChecks : Prop :=
  ∀ (s : State) (c ctx n need al : Nat) (va : Word),
    let i := va.toNat / 2 ^ 61
    let off := va.toNat % 2 ^ 61
    let d := s.seg c ctx i
    let la := (if i = 0 then s.s0Base c (4 * corePkg c + ctx) else d.base) + off
    let r := s.check c ctx va n need al
    (i ≠ 0 → d.kind ≠ 1 ∨ 2 ^ 60 ≤ d.base ∨ 8 ≤ d.rights → r = .error ⟨4, va⟩) ∧
    ((i ≠ 0 → d.kind = 1 ∧ d.base < 2 ^ 60 ∧ d.rights < 8) → (i = 0 → d.limit ≤ s.shareSize c (4 * corePkg c + ctx)) →
      (d.limit < off + n → r = .error ⟨3, va⟩) ∧
      (off + n ≤ d.limit → need &&& d.rights ≠ need → r = .error ⟨4, va⟩) ∧
      (off + n ≤ d.limit → need &&& d.rights = need →
        (2 ^ 60 ≤ la ∨ 3 < la / 2 ^ 56 % 16 → r = .error ⟨3, va⟩) ∧
        (la < 2 ^ 60 → la / 2 ^ 56 % 16 ≤ 3 →
          (la % al ≠ 0 → r = .error ⟨6, va⟩) ∧
          (la % al = 0 → s.decodes (corePkg c) la = false → r = .error ⟨7, va⟩) ∧
          (la % al = 0 → s.decodes (corePkg c) la = true → r = .ok la)))) ∧
    (∀ pkg l, (l / 2 ^ 56 % 16 = 0 → (s.decodes pkg l = true ↔ l / 2 ^ 43 % 2 ^ 13 = 0)) ∧
      (l / 2 ^ 56 % 16 = 1 → (s.decodes pkg l = true ↔ l / 2 ^ 44 % 2 ^ 12 = 0 ∧ l / 2 ^ 31 % 2 ^ 13 < Config.packages ∧
        l / 2 ^ 20 % 1024 < 576 ∧ (s.core (l / 2 ^ 20 % 2 ^ 24)).disabled = false ∧
        l % 2 ^ 20 < if 32 ≤ l / 2 ^ 20 % 1024 % 36 then 0x80000 else 0x100000)) ∧
      (l / 2 ^ 56 % 16 = 2 → (s.decodes pkg l = true ↔ l / 2 ^ 43 % 2 ^ 13 < Config.packages)) ∧
      (l / 2 ^ 56 % 16 = 3 → (s.decodes pkg l = true ↔ ∃ w ∈ (s.pkg pkg).windows, w.2.base ≤ l % 2 ^ 56 ∧
        l % 2 ^ 56 < w.2.base + w.2.size ∧ w.2.ep < (s.pkg pkg).hosts.length)))

/-- A plain load of n bytes whose address lies in the local store of the executing core: it completes with the bytes extended. -/
def Sys2Proof.LoadsHere (i : Instr) (p : BitVec 3) (q : BitVec 1) (len : Nat) (d a : BitVec 4) (imm : Word) (n : Nat) (ext : Nat → Word) :
    Prop :=
  ∀ s t v s1 la, s.Issues p q len t → s.Reads t [a] [d] v s1 →
    s1.check (coreOf s.cur) t.ctx (nth v 0 + imm) n segR n = .ok la → laRegion la = 1 → laCore la = coreOf s.cur →
    (∀ x ∈ t.relaxed, s1.touches x (.loc la) n = false) → s1.isBad la n = false →
    State.writeRefused s.cur d (ext (s1.mem.read la n)) = false →
    exec i s = .next (s1.result s.cur t d (ext (s1.mem.read la n)))

/-- R57, R135, R136, R137, R139: plain loads from the local store of the executing core complete within the turn: gD is the byte,
half, word or doubleword at read(A) + IMM, sign- or zero-extended as its member says. -/
def Obligations.LocalLoads : Prop :=
  ∀ (p : BitVec 3) (q : BitVec 1) (d a : BitVec 4) (imm : BitVec 14) (wide : BitVec 38),
    LoadsHere (.ldb p q d a imm) p q 4 d a (imm.signExtend 64) 1 (fun x => (BitVec.ofNat 8 x).signExtend 64) ∧
    LoadsHere (.ldbu p q d a imm) p q 4 d a (imm.signExtend 64) 1 (BitVec.ofNat 64) ∧
    LoadsHere (.ldh p q d a imm) p q 4 d a (imm.signExtend 64) 2 (fun x => (BitVec.ofNat 16 x).signExtend 64) ∧
    LoadsHere (.ldhu p q d a imm) p q 4 d a (imm.signExtend 64) 2 (BitVec.ofNat 64) ∧
    LoadsHere (.ldw p q d a imm) p q 4 d a (imm.signExtend 64) 4 (fun x => (BitVec.ofNat 32 x).signExtend 64) ∧
    LoadsHere (.ldwu p q d a imm) p q 4 d a (imm.signExtend 64) 4 (BitVec.ofNat 64) ∧
    LoadsHere (.ldd p q d a imm) p q 4 d a (imm.signExtend 64) 8 (BitVec.ofNat 64) ∧
    LoadsHere (.ldbI38 p q d a wide) p q 8 d a (wide.signExtend 64) 1 (fun x => (BitVec.ofNat 8 x).signExtend 64) ∧
    LoadsHere (.ldbuI38 p q d a wide) p q 8 d a (wide.signExtend 64) 1 (BitVec.ofNat 64) ∧
    LoadsHere (.ldhI38 p q d a wide) p q 8 d a (wide.signExtend 64) 2 (fun x => (BitVec.ofNat 16 x).signExtend 64) ∧
    LoadsHere (.ldhuI38 p q d a wide) p q 8 d a (wide.signExtend 64) 2 (BitVec.ofNat 64) ∧
    LoadsHere (.ldwI38 p q d a wide) p q 8 d a (wide.signExtend 64) 4 (fun x => (BitVec.ofNat 32 x).signExtend 64) ∧
    LoadsHere (.ldwuI38 p q d a wide) p q 8 d a (wide.signExtend 64) 4 (BitVec.ofNat 64) ∧
    LoadsHere (.lddI38 p q d a wide) p q 8 d a (wide.signExtend 64) 8 (BitVec.ofNat 64)

/-- A plain store of n bytes whose address lies in the local store of the executing core: it completes; the n bytes at the address
that the check gives hold the low bytes of the data register, every other byte of memory reads as before; of the rest of the state
only the pc of the thread moves, and marks of uncorrectable data go from words written whole. -/
def Sys2Proof.StoresHere (i : Instr) (p : BitVec 3) (q : BitVec 1) (len : Nat) (d a : BitVec 4) (imm : Word) (n : Nat) : Prop :=
  ∀ s t v s1 la, s.mem.wf → s.Issues p q len t → s.Reads t [a, d] [] v s1 →
    s1.check (coreOf s.cur) t.ctx (nth v 0 + imm) n segW n = .ok la → laRegion la = 1 → laCore la = coreOf s.cur →
    (∀ x ∈ t.relaxed, s1.touches x (.loc la) n = false) →
    ∃ s' : State, exec i s = .next (s'.retire s.cur t) ∧ s' = { s1 with mem := s'.mem, bad := s'.bad } ∧
      s'.mem.read la n = (nth v 1).toNat % 256 ^ n ∧ (∀ k, k < la ∨ la + n ≤ k → s'.mem.byte k = s.mem.byte k) ∧
      ∀ w ∈ s1.bad, w ∉ s'.bad → la ≤ 8 * w ∧ 8 * w + 8 ≤ la + n

/-- R57, R135, R136, R137, R139: plain stores to the local store of the executing core complete within the turn. That a word's mark
of uncorrectable data goes only where a store writes the whole word is the model's (log 15). -/
def Obligations.LocalStores : Prop :=
  ∀ (p : BitVec 3) (q : BitVec 1) (d a : BitVec 4) (imm : BitVec 14) (wide : BitVec 38),
    StoresHere (.stb p q d a imm) p q 4 d a (imm.signExtend 64) 1 ∧
    StoresHere (.sth p q d a imm) p q 4 d a (imm.signExtend 64) 2 ∧
    StoresHere (.stw p q d a imm) p q 4 d a (imm.signExtend 64) 4 ∧
    StoresHere (.std p q d a imm) p q 4 d a (imm.signExtend 64) 8 ∧
    StoresHere (.stbI38 p q d a wide) p q 8 d a (wide.signExtend 64) 1 ∧
    StoresHere (.sthI38 p q d a wide) p q 8 d a (wide.signExtend 64) 2 ∧
    StoresHere (.stwI38 p q d a wide) p q 8 d a (wide.signExtend 64) 4 ∧
    StoresHere (.stdI38 p q d a wide) p q 8 d a (wide.signExtend 64) 8

/-- R89, R131, R138, R139, R158, R162, R163, R401: plain accesses that do not end in the turn, shown on the word forms of load and
store. A failed check traps with its cause and leaves the operands' streams as they were. An access that leaves the core puts the
thread in MemWait; MEMORY_REPLY then reads the place, or writes it, and the thread goes on; a sealed page refuses the store with
cause 0x05, uncorrectable data the load with cause 0x08. A request that no plane of the fabric carried as it was issued waits until
one does; one that has left is served whatever the fabric does afterwards (R401). Data of a page that is not sealed are read at
their place; those of a sealed page may come from the cluster's replica cache, where they are good (R309). An access to another
core's window moves the thread there; one that names a port traps with cause 0x01, its elements read, or left where the trap has to
wait for room in the log. That the access happens at one instant, at MEMORY_REPLY, is the model's (log 6), and so is the order in
which a move of the thread finds cause 0x01 for a port before cause 0x07 for the target (log 12). -/
def Obligations.RemoteAccess : Prop :=
  (∀ (p : BitVec 3) (q : BitVec 1) (d a : BitVec 4) (imm : BitVec 14) (s : State) (t : Thread) (v : List Word) (s1 : State) (la : Nat),
    s.Issues p q 4 t →
    let va := nth v 0 + imm.signExtend 64
    let c := coreOf s.cur
    (∀ x, s.Reads t [a] [d] v s1 → s1.check c t.ctx va 4 segR 4 = .error x →
      exec (.ldw p q d a imm) s = .next (s.trapAt s.cur t t.pc x)) ∧
    (∀ x, s.Reads t [a, d] [] v s1 → s1.check c t.ctx va 4 segW 4 = .error x →
      exec (.stw p q d a imm) s = .next (s.trapAt s.cur t t.pc x)) ∧
    (∀ l s2, s.Reads t [a] [d] v s1 → s1.check c t.ctx va 4 segR 4 = .ok la → laRegion la = 0 → s1.translate c la = (.ok l, s2) →
      (∀ x ∈ t.relaxed, s2.touches x l 4 = false) →
      exec (.ldw p q d a imm) s = .next (s2.wait s.cur t (.mem { kind := .load, word := wordOf (.ldw p q d a imm), d := d, vals := [va],
                                                                 locs := [l], n := 4, sgn := true }))) ∧
    (∀ l s2, s.Reads t [a, d] [] v s1 → s1.check c t.ctx va 4 segW 4 = .ok la → laRegion la = 0 → s1.translate c la = (.ok l, s2) →
      (∀ x ∈ t.relaxed, s2.touches x l 4 = false) →
      exec (.stw p q d a imm) s =
        .next (s2.wait s.cur t (.mem { kind := .store, vals := [va, nth v 1], locs := [l], n := 4 }))) ∧
    (s.Reads t [a] [d] v s1 → s1.check c t.ctx va 4 segR 4 = .ok la → laRegion la = 1 → laCore la ≠ c → a.toNat < 12 → d.toNat < 12 →
      s1.holdsSlots (4 * corePkg (laCore la) + t.ctx) (laCore la) = true →
      exec (.ldw p q d a imm) s = .next (s.ship s.cur t (laCore la) va)) ∧
    (s.Reads t [a] [d] v s1 → s1.check c t.ctx va 4 segR 4 = .ok la → laRegion la = 1 → laCore la ≠ c →
      12 ≤ a.toNat ∨ 12 ≤ d.toNat →
      let trapped := s1.trap s.cur t 1 ((wordOf (.ldw p q d a imm)).setWidth 64)
      ((∀ u, trapped.thread s.cur = some u → u.wait ≠ .held .trap) → exec (.ldw p q d a imm) s = .next trapped) ∧
      (∀ u, trapped.thread s.cur = some u → u.wait = .held .trap →
        exec (.ldw p q d a imm) s = .next (s.trap s.cur t 1 ((wordOf (.ldw p q d a imm)).setWidth 64))))) ∧
  (∀ (s : State) (tid n : Nat) (t : Thread) (d : BitVec 4) (va x : Word) (l : Loc) (sgn : Bool) (word : Word32), s.thread tid = some t →
    let l' := s.place l
    let s1 := s.heardAt (coreOf tid) l'
    let g := s1.readGood (clusterOf (coreOf tid)) l' n
    let v := extended n sgn (s1.mem.read l'.key n)
    (∀ r : Req, t.wait = .mem r → r.held = true → r.locs = [l] →
      (s.linked (coreOf tid) l' = false → exec (.memoryReply tid) s = .next s) ∧
      (s.linked (coreOf tid) l' = true →
        exec (.memoryReply tid) s = exec (.memoryReply tid) (s.setThread tid { t with wait := .mem { r with held := false } }))) ∧
    (t.wait = .mem { kind := .load, word := word, d := d, vals := [va], locs := [l], n := n, sgn := sgn } → g.1 = true →
      State.writeRefused tid d v = false → exec (.memoryReply tid) s = .next (g.2.result tid t d v)) ∧
    (t.wait = .mem { kind := .load, word := word, d := d, vals := [va], locs := [l], n := n, sgn := sgn } → g.1 = false →
      exec (.memoryReply tid) s = .next (s1.trap tid t 8 va)) ∧
    (t.wait = .mem { kind := .store, vals := [va, x], locs := [l], n := n } → s1.sealedAt l' = false →
      exec (.memoryReply tid) s = .next ((s1.store l'.key n x.toNat).retire tid t)) ∧
    (t.wait = .mem { kind := .store, vals := [va, x], locs := [l], n := n } → s1.sealedAt l' = true →
      exec (.memoryReply tid) s = .next (s1.trap tid t 5 va))) ∧
  (∀ (s : State) (cl pkg off phys n : Nat), off % 256 + n ≤ 256 →
    let l := Loc.hbm pkg off phys
    (s.sealState pkg off = 0 → s.readGood cl l n = (!s.isBad l.key n, s)) ∧
    (s.isBad l.key n = false → (s.readGood cl l n).1 = true) ∧ (s.readGood cl l n).2.mem = s.mem)

/-- R145 to R149: the sync instructions at a word of the executing core's local store. ldf and ldfe complete when the word is full,
ldfe leaving it empty; ste when it is empty, leaving it full; stf, fclr, fset and fstat at once. Until its condition holds a thread
is in SyncWait. An address outside every local store traps with cause 0x0C. Completes: ldf, ldfe, ste, stf, fclr, fset, fstat. -/
def Sys2Proof.syncRows : Prop :=
  ∀ (p : BitVec 3) (q : BitVec 1) (d a : BitVec 4) (s s1 s2 : State) (t : Thread) (v : List Word) (la : Nat),
    let x := s1.mem.read la 8
    (s.SyncHere p q [a] [d] segR t v s1 la → s1.isFull la = true → s1.isBad la 8 = false →
      s1.Permits s2 s.cur t 2 la (x % 2 ^ 32) → State.writeRefused s.cur d (BitVec.ofNat 64 x) = false →
      exec (.ldf p q d a) s = .next (s2.result s.cur t d (BitVec.ofNat 64 x))) ∧
    (s.SyncHere p q [a] [d] (segR ||| segW) t v s1 la → s1.isFull la = true → s1.isBad la 8 = false →
      s1.Permits s2 s.cur t 2 la (x % 2 ^ 32) → State.writeRefused s.cur d (BitVec.ofNat 64 x) = false →
      exec (.ldfe p q d a) s = .next ((s2.setFull la false).result s.cur t d (BitVec.ofNat 64 x))) ∧
    (s.SyncHere p q [a] [d] segR t v s1 la → s1.isFull la = false → exec (.ldf p q d a) s = .next (s.wait s.cur t .sync)) ∧
    (s.SyncHere p q [a, d] [] segW t v s1 la → s1.isFull la = false → s1.Permits s2 s.cur t 3 la ((nth v 1).toNat % 2 ^ 32) →
      exec (.ste p q d a) s = .next (((s2.store la 8 (nth v 1).toNat).setFull la true).retire s.cur t)) ∧
    (s.SyncHere p q [a, d] [] segW t v s1 la → s1.isFull la = true → exec (.ste p q d a) s = .next (s.wait s.cur t .sync)) ∧
    (s.SyncHere p q [a, d] [] segW t v s1 la → s1.Permits s2 s.cur t 3 la ((nth v 1).toNat % 2 ^ 32) →
      exec (.stf p q d a) s = .next (((s2.store la 8 (nth v 1).toNat).setFull la true).retire s.cur t)) ∧
    (s.SyncHere p q [a] [] segW t v s1 la → s1.Permits s2 s.cur t 3 la 0 →
      exec (.fclr p q a) s = .next ((s2.setFull la false).retire s.cur t) ∧
      exec (.fset p q a) s = .next ((s2.setFull la true).retire s.cur t)) ∧
    (s.SyncHere p q [a] [d] segR t v s1 la →
      State.writeRefused s.cur d (if s1.isFull la then 1 else 0) = false →
      exec (.fstat p q d a) s = .next (s1.result s.cur t d (if s1.isFull la then 1 else 0))) ∧
    (s.Issues p q 4 t → s.Reads t [a] [d] v s1 → s1.check (coreOf s.cur) t.ctx (nth v 0) 8 segR 8 = .ok la → laRegion la ≠ 1 →
      exec (.ldf p q d a) s = .next (s.trap s.cur t 0x0C (nth v 0)) ∧ exec (.fstat p q d a) s = .next (s.trap s.cur t 0x0C (nth v 0)))

/-- R145, R147: what setting a word's full-empty bit does: the word's own bit alone, and no byte of memory. -/
def Sys2Proof.fullEmptyBits : Prop :=
  ∀ (s : State) (la k : Nat) (b : Bool),
    (s.setFull la b).isFull k = (if k / 8 = la / 8 then b else s.isFull k) ∧ (s.setFull la b).mem = s.mem ∧
    (s.setFull la b).threads = s.threads ∧ (s.setFull la b).cores = s.cores

/-- R145 to R147, R149: the sync instructions at a word of local store, and what setting its full-empty bit does. -/
def Obligations.SyncResults : Prop := syncRows ∧ fullEmptyBits

/-- R169, R148, R184: join completes when the counter reads 0 and waits in SyncWait until then; jinit writes the initial value. A
change of a word is offered to the waiters of its core in rotation order after a position: SYNC_WAIT_SATISFIED completes the
waiting ldf, ldfe, ste, join, waitm or waitc of the first of them whose condition holds, with the effect that it has in its issue
turn; a fault of its thread found earlier comes first (R143). Completes: syncWaitSatisfied, join, jinit. -/
def Obligations.JoinResults : Prop :=
  (∀ (p : BitVec 3) (q : BitVec 1) (a b : BitVec 4) (s s1 s2 : State) (t : Thread) (v : List Word) (la : Nat),
    (s.SyncHere p q [a] [] segR t v s1 la → s1.isBad la 8 = false → s1.mem.read la 8 = 0 → s1.Permits s2 s.cur t 4 la 0 →
      exec (.join p q a) s = .next (s2.retire s.cur t)) ∧
    (s.SyncHere p q [a] [] segR t v s1 la → s1.isBad la 8 = false → s1.mem.read la 8 ≠ 0 →
      exec (.join p q a) s = .next (s.wait s.cur t .sync)) ∧
    (s.SyncHere p q [a, b] [] (segR ||| segW) t v s1 la →
      exec (.jinit p q a b) s = .next ((s1.store la 8 (nth v 1).toNat).retire s.cur t))) ∧
  (∀ (core pos tid : Nat) (p : BitVec 3) (q : BitVec 1) (d a b : BitVec 4) (i : Instr) (s s' : State) (t : Thread),
    tid = 16 * core + (pos + 1) % 16 → s.thread tid = some t → t.wait = .sync → t.arrived = none → t.relFault = none →
    t.vecFault = none →
    i ∈ ([.ldf p q d a, .ldfe p q d a, .ste p q d a, .join p q a, .waitm p q d, .waitc p q d a b] : List Instr) →
    s.wordAt core t t.pc = some (wordOf i) → exec i { s with cur := tid } = .next s' →
    (∀ u, s'.thread tid = some u → u.wait ≠ .sync) →
    exec (.syncWaitSatisfied core pos) s = .next s') ∧
  (∀ (core pos tid : Nat) (p : BitVec 3) (q : BitVec 1) (d a b : BitVec 4) (s s1 s2 : State) (w t : Thread) (v : List Word) (la : Nat),
    tid = 16 * core + (pos + 1) % 16 → s.thread tid = some w → w.wait = .sync → w.arrived = none → w.relFault = none →
    w.vecFault = none →
    let now : State := { s with cur := tid }
    let at_ (i : Instr) : Prop := s.wordAt core w w.pc = some (wordOf i)
    let x := s1.mem.read la 8
    let ck := (s1.core core).counters.at 0 ((nth v 0).toNat % 64)
    let wake := (s1.core core).wakes.at (false, 0) (wakeKey tid t.ctx)
    (at_ (.join p q a) → now.SyncHere p q [a] [] segR t v s1 la → s1.isBad la 8 = false → x = 0 → s1.Permits s2 tid t 4 la 0 →
      exec (.syncWaitSatisfied core pos) s = .next (s2.retire tid t)) ∧
    (at_ (.ste p q d a) → now.SyncHere p q [a, d] [] segW t v s1 la → s1.isFull la = false →
      s1.Permits s2 tid t 3 la ((nth v 1).toNat % 2 ^ 32) →
      exec (.syncWaitSatisfied core pos) s = .next (((s2.store la 8 (nth v 1).toNat).setFull la true).retire tid t)) ∧
    (at_ (.ldf p q d a) → now.SyncHere p q [a] [d] segR t v s1 la → s1.isFull la = true → s1.isBad la 8 = false →
      s1.Permits s2 tid t 2 la (x % 2 ^ 32) → State.writeRefused tid d (BitVec.ofNat 64 x) = false →
      exec (.syncWaitSatisfied core pos) s = .next (s2.result tid t d (BitVec.ofNat 64 x))) ∧
    (at_ (.ldfe p q d a) → now.SyncHere p q [a] [d] (segR ||| segW) t v s1 la → s1.isFull la = true → s1.isBad la 8 = false →
      s1.Permits s2 tid t 2 la (x % 2 ^ 32) → State.writeRefused tid d (BitVec.ofNat 64 x) = false →
      exec (.syncWaitSatisfied core pos) s = .next ((s2.setFull la false).result tid t d (BitVec.ofNat 64 x))) ∧
    (at_ (.waitm p q d) → now.Issues p q 4 t → now.Reads t [] [d] v s1 → t.relaxed = [] → wake.1 = true →
      s1.logMode tid t = 0 → State.writeRefused tid d wake.2 = false → exec (.syncWaitSatisfied core pos) s =
        .next ((s1.modCore core fun k => { k with wakes := k.wakes.del (wakeKey tid t.ctx) }).result tid t d wake.2)) ∧
    (at_ (.waitc p q d a b) → now.Issues p q 4 t → now.Reads t [a, b] [d] v s1 → t.relaxed = [] →
      s1.ownsCounter core (cxOf core t) ((nth v 0).toNat % 64) = true → 0 ≤ (ck - (nth v 1).setWidth 32).toInt →
      s1.logMode tid t = 0 → State.writeRefused tid d (ck.setWidth 64) = false →
      exec (.syncWaitSatisfied core pos) s = .next (s1.result tid t d (ck.setWidth 64))))

/-- An atomic on a word of n bytes of the executing core's local store: it completes in the turn; gD takes the old value,
zero-extended, and the word takes the member's value of the old one, read(B) and, for acas, read(D), each cut to n bytes (R150 to
R152). -/
def Sys2Proof.AtomicHere (i : Instr) (p : BitVec 3) (q : BitVec 1) (d : BitVec 4) (srcs : List (BitVec 4)) (n : Nat)
    (f : Nat → Nat → Nat → Nat) : Prop :=
  ∀ s t v s1 s2 la, s.Issues p q 4 t → s.Reads t srcs [d] v s1 →
    s1.check (coreOf s.cur) t.ctx (nth v 0) n (segR ||| segW) n = .ok la → laRegion la = 1 → laCore la = coreOf s.cur →
    t.relaxed = [] → s1.isBad la n = false →
    let old := s1.mem.read la n
    let new := f old ((nth v 1).toNat % 256 ^ n) ((nth v 2).toNat % 256 ^ n)
    s1.Permits s2 s.cur t 1 la old → State.writeRefused s.cur d (BitVec.ofNat 64 old) = false →
    exec i s = .next ((s2.store la n new).result s.cur t d (BitVec.ofNat 64 old))

/-- The signed value of an n-byte number. -/
def Sys2Proof.signedOf (n x : Nat) : Int := if 2 * x < 256 ^ n then (x : Int) else (x : Int) - 256 ^ n

/-- R150, R151, R152: the atomics of 32 and 64 bits on the executing core's local store. Completes: aadd, aand, aor, axor, amin,
amax, aminu, amaxu, aswp, acas, afadd. -/
def Obligations.AtomicResults : Prop :=
  ∀ (p : BitVec 3) (q : BitVec 1) (d a b : BitVec 4) (w : BitVec 2), w.toNat < 2 →
    let n := if w = 0 then 4 else 8
    AtomicHere (.aadd p q d a b w) p q d [a, b] n (fun o x _ => (o + x) % 256 ^ n) ∧
    AtomicHere (.aand p q d a b w) p q d [a, b] n (fun o x _ => o &&& x) ∧
    AtomicHere (.aor p q d a b w) p q d [a, b] n (fun o x _ => o ||| x) ∧
    AtomicHere (.axor p q d a b w) p q d [a, b] n (fun o x _ => o ^^^ x) ∧
    AtomicHere (.amin p q d a b w) p q d [a, b] n (fun o x _ => if signedOf n x < signedOf n o then x else o) ∧
    AtomicHere (.amax p q d a b w) p q d [a, b] n (fun o x _ => if signedOf n o < signedOf n x then x else o) ∧
    AtomicHere (.aminu p q d a b w) p q d [a, b] n (fun o x _ => min o x) ∧
    AtomicHere (.amaxu p q d a b w) p q d [a, b] n (fun o x _ => max o x) ∧
    AtomicHere (.aswp p q d a b w) p q d [a, b] n (fun _ x _ => x) ∧
    AtomicHere (.acas p q d a b w) p q d [a, b, d] n (fun o x y => if o = y then x else o) ∧
    AtomicHere (.afadd p q d a b) p q d [a, b] 4 (fun o x _ =>
      Fmt.fp32.round .rne 0 true ((Fmt.fp32.decode o).add (Fmt.fp32.decode x)))

/-- R152, R153, R155, R326: atomics that leave the core, while no context of the waiting threads records or replays, but for the
last clause. On this package's HBM the thread waits in the queue of its bank's word; BANK_RESERVATION_GRANT performs the atomic of
the queue's head, which leaves the queue: the old value goes to its destination. On host memory it waits in a proxy queue, and
PROXY_HOST_ATOMIC performs it where the window offers it, or traps with cause 0x11. In a replay too, an atomic at the head of its
bank's queue whose page is sealed (cause 0x05) or whose word is uncorrectable (0x08) waits for no record: its checks come first
(R369). Completes: bankReservationGrant, proxyHostAtomic. That the atomic happens at one instant is the model's (log 6). -/
def Obligations.SerialisedAtomics : Prop :=
  (∀ (p : BitVec 3) (q : BitVec 1) (d a b : BitVec 4) (s s1 s2 : State) (t : Thread) (v : List Word) (la : Nat) (l : Loc),
    s.Issues p q 4 t → s.Reads t [a, b] [d] v s1 →
    s1.check (coreOf s.cur) t.ctx (nth v 0) 8 (segR ||| segW) 8 = .ok la → laRegion la = 0 → t.relaxed = [] →
    s1.translate (coreOf s.cur) la = (.ok l, s2) →
    s2.logMode s.cur t ≠ 1 ∨ s2.logRoom (cxOf (coreOf s.cur) t) (coreDie (coreOf s.cur)) = true →
    exec (.aadd p q d a b 1) s = .next (({ s2 with banks := s2.banks.put (l.key / 8) (s2.banks.at [] (l.key / 8) ++ [s.cur]) }).wait
      s.cur t (.mem { kind := .atomic, word := wordOf (.aadd p q d a b 1), d := d,
                      vals := [nth v 0, nth v 1, nth v 2, 0, BitVec.ofNat 64 la], locs := [l], n := 8 }))) ∧
  (∀ (s : State) (key tid : Nat) (rest : List Nat) (t : Thread) (r : Req), s.banks.at [] key = tid :: rest →
    s.thread tid = some t → t.wait = .mem r → r.kind = .atomic → s.logMode tid t = 0 →
    (∀ x ∈ rest, ∀ u : Thread, s.thread x = some u → s.logMode x u ≠ 2) →
    let left := { s with banks := if rest.isEmpty then s.banks.del key else s.banks.put key rest }
    let l := s.place (r.locs.headD (.loc 0))
    let s1 := left.heardAtomic (coreOf tid) l
    let old := s1.mem.read l.key r.n
    let new := atomNew (nth r.vals 3).toNat r.n old (nth r.vals 1).toNat (nth r.vals 2).toNat
    (r.held = false ∨ s.linked (coreOf tid) l = true) →
    s1.sealedAt l = false → s1.isBad l.key r.n = false → State.writeRefused tid r.d (BitVec.ofNat 64 old) = false →
    exec (.bankReservationGrant key) s = .next ((s1.store l.key r.n new).result tid t r.d (BitVec.ofNat 64 old))) ∧
  (∀ (s : State) (key tid : Nat) (t0 t : Thread) (r0 r : Req), s.banks.at [] key = [tid] → s.atomicOf tid = some (t0, r0) →
    let u := s.atomicNoted (r0.locs.headD (.loc 0)).linear tid
    let l := u.place (r.locs.headD (.loc 0))
    let s1 := ({ u with banks := u.banks.del key } : State).heardAtomic (coreOf tid) l
    u.atomicOf tid = some (t, r) → (r.held = false ∨ u.linked (coreOf tid) l = true) →
    (u.sealedAt l = true → exec (.bankReservationGrant key) s = .next (s1.trap tid t 5 (nth r.vals 0))) ∧
    (u.sealedAt l = false → u.isBad l.key r.n = true → exec (.bankReservationGrant key) s = .next (s1.trap tid t 8 (nth r.vals 0)))) ∧
  (∀ (s : State) (die qn tid : Nat) (rest : List Nat) (t : Thread) (r : Req) (hd ep addr : Nat),
    (s.pkg (die / 2)).proxy.at [] (64 * (die % 2) + qn % 64) = tid :: rest → s.thread tid = some t → t.wait = .mem r →
    r.kind = .atomic → r.locs = [.host hd ep addr] → s.logMode tid t = 0 →
    (∀ x ∈ rest, ∀ u : Thread, s.thread x = some u → s.logMode x u ≠ 2) →
    let qi := 64 * (die % 2) + qn % 64
    let left := s.modPkg (die / 2) fun k => { k with proxy := if rest.isEmpty then k.proxy.del qi else k.proxy.put qi rest }
    let l := Loc.host hd ep addr
    let s1 := left.heardAtomic (coreOf tid) l
    let old := s1.mem.read l.key r.n
    let new := atomNew (nth r.vals 3).toNat r.n old (nth r.vals 1).toNat (nth r.vals 2).toNat
    let through := s.window (die / 2) ((nth r.vals 4).toNat % 2 ^ 56)
    (∀ w, through = some w → w.offers (nth r.vals 3).toNat r.n = true → s1.isBad l.key r.n = false →
      State.writeRefused tid r.d (BitVec.ofNat 64 old) = false →
      exec (.proxyHostAtomic die qn) s = .next ((s1.store l.key r.n new).result tid t r.d (BitVec.ofNat 64 old))) ∧
    ((through = none ∨ ∃ w, through = some w ∧ w.offers (nth r.vals 3).toNat r.n = false) →
      exec (.proxyHostAtomic die qn) s = .next (left.trap tid t 0x11 (nth r.vals 0))))

/-- A relaxed load of n bytes that passes its checks, on the data address va (la) and on the landing word in read(D) (lw), which
lies in the executing core's local store: the thread goes on at once. Where the data lie in that store too, and nothing outstanding
touches them or the landing word, the word holds the value and is full (that it waits where something does is the model's, log 64);
where they lie in HBM, the word is empty and the access is outstanding. -/
def Sys2Proof.LoadsRelaxed (i : Instr) (p : BitVec 3) (q : BitVec 1) (d a : BitVec 4) (imm : Word) (n : Nat) (sgn : Bool) : Prop :=
  ∀ s t v s1 la lw, s.Issues p q 8 t → s.Reads t [a, d] [] v s1 →
    let c := coreOf s.cur
    let va := nth v 0 + imm
    s1.check c t.ctx va n segR n = .ok la → s1.check c t.ctx (nth v 1) 8 segW 8 = .ok lw → laRegion lw = 1 → laCore lw = c →
    (8 ≤ t.relaxed.length → exec i s = .next (s.wait s.cur t (.mem { kind := .drain }))) ∧
    (t.relaxed.length < 8 → laRegion la = 1 → laCore la = c →
      (∃ x ∈ t.relaxed, s1.touches x (.loc la) n = true ∨ s1.touches x (.loc lw) 8 = true) →
      exec i s = .next (s.wait s.cur t (.mem { kind := .drain }))) ∧
    (t.relaxed.length < 8 → laRegion la = 1 → laCore la = c →
      (∀ x ∈ t.relaxed, s1.touches x (.loc la) n = false ∧ s1.touches x (.loc lw) 8 = false) → s1.isBad la n = false →
      exec i s = .next ((((s1.setFull lw false).store lw 8 (extended n sgn (s1.mem.read la n)).toNat).setFull lw true).setThread s.cur
        t.past)) ∧
    (∀ l s2, t.relaxed.length < 8 → laRegion la = 0 → (s1.setFull lw false).translate c la = (.ok l, s2) →
      exec i s = .next (s2.retire s.cur { t with relaxed := t.relaxed ++
        [{ store := false, place := l, va := va, n := n, sgn := sgn, data := 0, land := lw, missed := false }] }))

/-- A relaxed store of n bytes that passes its checks: the thread goes on at once, with the bytes stored in its own local store, or
with the access outstanding. -/
def Sys2Proof.StoresRelaxed (i : Instr) (p : BitVec 3) (q : BitVec 1) (d a : BitVec 4) (imm : Word) (n : Nat) : Prop :=
  ∀ s t v s1 la, s.Issues p q 8 t → s.Reads t [a, d] [] v s1 →
    let c := coreOf s.cur
    let va := nth v 0 + imm
    s1.check c t.ctx va n segW n = .ok la →
    (8 ≤ t.relaxed.length → exec i s = .next (s.wait s.cur t (.mem { kind := .drain }))) ∧
    (t.relaxed.length < 8 → laRegion la = 1 → laCore la = c → (∀ x ∈ t.relaxed, s1.touches x (.loc la) n = false) →
      exec i s = .next ((s1.store la n (nth v 1).toNat).setThread s.cur t.past)) ∧
    (∀ l s2, t.relaxed.length < 8 → laRegion la = 0 → s1.translate c la = (.ok l, s2) →
      exec i s = .next (s2.retire s.cur { t with relaxed := t.relaxed ++
        [{ store := true, place := l, va := va, n := n, sgn := false, data := nth v 1, land := 0, missed := false }] }))

/-- R140, R141, R142: the relaxed loads and stores. Completes: ldbRlx, ldbuRlx, ldhRlx, ldhuRlx, ldwRlx, ldwuRlx, lddRlx, stbRlx,
sthRlx, stwRlx, stdRlx. -/
def Sys2Proof.relaxedRows : Prop :=
  ∀ (p : BitVec 3) (q : BitVec 1) (d a : BitVec 4) (imm : BitVec 14),
    LoadsRelaxed (.ldbRlx p q d a imm) p q d a (imm.signExtend 64) 1 true ∧
    LoadsRelaxed (.ldbuRlx p q d a imm) p q d a (imm.signExtend 64) 1 false ∧
    LoadsRelaxed (.ldhRlx p q d a imm) p q d a (imm.signExtend 64) 2 true ∧
    LoadsRelaxed (.ldhuRlx p q d a imm) p q d a (imm.signExtend 64) 2 false ∧
    LoadsRelaxed (.ldwRlx p q d a imm) p q d a (imm.signExtend 64) 4 true ∧
    LoadsRelaxed (.ldwuRlx p q d a imm) p q d a (imm.signExtend 64) 4 false ∧
    LoadsRelaxed (.lddRlx p q d a imm) p q d a (imm.signExtend 64) 8 false ∧
    StoresRelaxed (.stbRlx p q d a imm) p q d a (imm.signExtend 64) 1 ∧
    StoresRelaxed (.sthRlx p q d a imm) p q d a (imm.signExtend 64) 2 ∧
    StoresRelaxed (.stwRlx p q d a imm) p q d a (imm.signExtend 64) 4 ∧
    StoresRelaxed (.stdRlx p q d a imm) p q d a (imm.signExtend 64) 8

/-- R141, R142, R143, R158: RELAXED_ACCESS_COMPLETION of the oldest outstanding access of a thread: a load writes its landing word
and sets it full, or, on uncorrectable data, leaves it and notes cause 0x08; a store writes its bytes, or on a sealed page notes
cause 0x05. Data of a sealed page may come from the cluster's replica cache (R309). An access that no plane of the fabric carried
as it was issued stays outstanding until one does (R401). The thread's next issue turn delivers the first fault noted as a trap at
the instruction that would have issued. Completes: relaxedAccessCompletion, deferredRelaxedFault. -/
def Sys2Proof.relaxedCompletion : Prop :=
  (∀ (s : State) (tid : Nat) (t : Thread) (r : Relaxed) (rest : List Relaxed), s.thread tid = some t → t.relaxed = r :: rest →
    r.missed = false →
    let l := s.place r.place
    let s1 := s.heardAt (coreOf tid) l
    let g := s1.readGood (clusterOf (coreOf tid)) l r.n
    let u := { t with relaxed := rest }
    let noted (s : State) (cause : Nat) : State := s.setThread tid { u with relFault := some (t.relFault.getD ⟨cause, r.va⟩) }
    (r.held = true → s.linked (coreOf tid) l = false → exec (.relaxedAccessCompletion tid 0) s = .next s) ∧
    ((r.held = false ∨ s.linked (coreOf tid) l = true) →
    (r.store = false → g.1 = true →
      exec (.relaxedAccessCompletion tid 0) s =
        .next (((g.2.store r.land 8 (extended r.n r.sgn (s1.mem.read l.key r.n)).toNat).setFull r.land true).setThread tid u)) ∧
    (r.store = false → g.1 = false → exec (.relaxedAccessCompletion tid 0) s = .next (noted g.2 8)) ∧
    (r.store = true → s1.sealedAt l = false →
      exec (.relaxedAccessCompletion tid 0) s = .next ((s1.store l.key r.n r.data.toNat).setThread tid u)) ∧
    (r.store = true → s1.sealedAt l = true → exec (.relaxedAccessCompletion tid 0) s = .next (noted s1 5)))) ∧
  (∀ (s : State) (tid : Nat) (t : Thread) (x : Trap), s.thread tid = some t → t.relFault = some x → t.tfl = false →
    (s.ctx (cxOf (coreOf tid) t)).trace = 0 →
    ∃ u, exec (.deferredRelaxedFault tid) s = .next (s.setThread tid u) ∧ u.cause = BitVec.ofNat 8 x.cause ∧ u.ebad = x.ebad ∧
      u.epc = t.pc ∧ u.pc = (s.ctx (cxOf (coreOf tid) t)).trapvec ∧ u.tfl = true ∧ u.sup = true ∧ u.relFault = none ∧ u.g = t.g)

/-- R140 to R143, R158: the relaxed loads and stores at their issue, and their completion in order. That an access happens at one
instant is the model's (log 6). -/
def Obligations.RelaxedAccesses : Prop := relaxedRows ∧ relaxedCompletion

/-- R76, R77, R156 to R160: sealing. seal and unseal check the range, translate its pages and wait in MemWait; a page is sealed, or
its replicas are dropped and it is unsealed, one at a time; with the last page done the thread goes on. sealq reports the state: 0
where nothing can be sealed, else what the page's record says. A fetch held on an unsealed page becomes Ready once it is sealed
again. Completes: sealPages, unsealPages, sealq, sealComplete, unsealComplete, fetchHoldRelease. -/
def Obligations.Sealing : Prop :=
  (∀ (p : BitVec 3) (q : BitVec 1) (a b : BitVec 4) (s s1 : State) (t : Thread) (v : List Word) (lx la : Nat) (l : List (Nat × Nat)),
    s.Issues p q 4 t → s.Reads t [a, b] [] v s1 → t.relaxed = [] →
    let n := (nth v 1).toNat
    let pkg := corePkg (coreOf s.cur)
    let wt : Wait := .mem { kind := .sealing, vals := [nth v 0], n := la }
    let waits (undo : Bool) : State := ((s1.modCluster (clusterOf (coreOf s.cur)) fun k => k.touchPages l).modPkg pkg fun k =>
      { k with seals := k.seals ++ [{ pkg := pkg, undo := undo, pages := l.map (·.1), tid := some s.cur, conn := 0, tag := 0 }] }).wait
        s.cur t wt
    s1.check (coreOf s.cur) t.ctx (nth v 0) n segW 1 = .ok lx → la = canonLa pkg lx → laRegion la = 0 → la + n ≤ 2 ^ 43 →
    (n = 0 → exec (.sealPages p q a b) s = .next (s1.retire s.cur t) ∧ exec (.unsealPages p q a b) s = .next (s1.retire s.cur t)) ∧
    (n ≠ 0 → (s1.cluster (clusterOf (coreOf s.cur))).pagesOf (la + n) (n / 65536 + 2) la [] = .all l → wholePages la (la + n) l = true →
      exec (.sealPages p q a b) s = .next (waits false) ∧ exec (.unsealPages p q a b) s = .next (waits true) ∧
      ∀ (off w : Nat) (e : Pte), pkg < 8192 → l.map (·.1) = [off] →
        ((s1.pkg pkg).seals.any fun o => o.pages.head? == some off) = false → (s1.pkg pkg).walk 0 off = some (w, e) → e.moving = false →
        let i := (s1.pkg pkg).seals.length
        let ends (u : State) : State := (u.modPkg pkg fun k => { k with seals := k.seals.eraseIdx i }).retire s.cur (t.waiting wt)
        ((s1.pkg pkg).sealed.at 0 e.vpn ≠ 2 → exec (.sealComplete (pkg + 8192 * i)) (waits false) =
          .next (ends ((waits false).modPkg pkg fun k => { k with sealed := k.sealed.put e.vpn 1 }))) ∧
        ((s1.pkg pkg).sealed.at 0 e.vpn = 0 → exec (.unsealComplete (pkg + 8192 * i)) (waits true) = .next (ends (waits true))) ∧
        ((s1.pkg pkg).sealed.at 0 e.vpn = 1 →
          let u := (waits true).modPkg pkg fun k => { k with sealed := k.sealed.put e.vpn 2 }
          exec (.unsealComplete (pkg + 8192 * i)) (waits true) = .next u ∧
          exec (.unsealComplete (pkg + 8192 * i)) u = .next (ends ((u.modPkg pkg fun k => { k with sealed := k.sealed.del e.vpn }).dropReplicas
            pkg (e.vpn * 65536) (65536 * pageUnits e.big)))))) ∧
  (∀ (p : BitVec 3) (q : BitVec 1) (d a : BitVec 4) (s s1 s2 : State) (t : Thread) (v : List Word) (la pkg off phys : Nat),
    s.Issues p q 4 t → s.Reads t [a] [d] v s1 → t.relaxed = [] → s1.check (coreOf s.cur) t.ctx (nth v 0) 1 segR 1 = .ok la →
    let wt : Wait := .mem { kind := .sealq, word := wordOf (.sealq p q d a), d := d, vals := [nth v 0], locs := [.hbm pkg off phys] }
    let u := s2.wait s.cur t wt
    (laRegion (canonLa (corePkg (coreOf s.cur)) la) ≠ 0 → State.writeRefused s.cur d 0 = false →
      exec (.sealq p q d a) s = .next (s1.result s.cur t d 0)) ∧
    (laRegion (canonLa (corePkg (coreOf s.cur)) la) = 0 → s1.translate (coreOf s.cur) la = (.ok (.hbm pkg off phys), s2) →
      exec (.sealq p q d a) s = .next u ∧
      (u.linked (coreOf s.cur) (u.place (.hbm pkg off phys)) = true →
        State.writeRefused s.cur d (BitVec.ofNat 64 (u.sealState pkg off)) = false →
        exec (.memoryReply s.cur) u =
          .next ((u.heardAt (coreOf s.cur) (u.place (.hbm pkg off phys))).result s.cur (t.waiting wt) d (BitVec.ofNat 64 (u.sealState pkg off)))))) ∧
  (∀ (s : State) (pkg off w : Nat) (e : Pte), (s.pkg pkg).walk 0 off = some (w, e) → s.sealState pkg off = (s.pkg pkg).sealed.at 0 e.vpn) ∧
  (∀ (s : State) (pkg i off tid : Nat) (op : SealOp) (rest : List Nat) (w : Nat) (e : Pte) (t : Thread) (r : Req), pkg < 8192 →
    (s.pkg pkg).seals[i]? = some op → op.pages = off :: rest → op.tid = some tid → s.thread tid = some t → t.wait = .mem r →
    r.kind = .sealing →
    let taken (u : State) : State := if rest = [] then (u.modPkg pkg fun k => { k with seals := k.seals.eraseIdx i }).retire tid t
      else u.modPkg pkg fun k => { k with seals := k.seals.set i { op with pages := rest } }
    let st (e : Pte) := (s.pkg pkg).sealed.at 0 e.vpn
    ((s.pkg pkg).walk 0 off = none →
      (op.undo = false → exec (.sealComplete (pkg + 8192 * i)) s =
        .next ((s.modPkg pkg fun k => { k with seals := k.seals.eraseIdx i }).trap tid t 7 (nth r.vals 0 + BitVec.ofNat 64 (off - r.n)))) ∧
      (op.undo = true → exec (.unsealComplete (pkg + 8192 * i)) s =
        .next ((s.modPkg pkg fun k => { k with seals := k.seals.eraseIdx i }).trap tid t 7 (nth r.vals 0 + BitVec.ofNat 64 (off - r.n))))) ∧
    ((s.pkg pkg).walk 0 off = some (w, e) → e.moving = false → (((s.pkg pkg).seals.take i).any fun o => o.pages.head? == some off) = false →
      (op.undo = false → st e ≠ 2 →
        exec (.sealComplete (pkg + 8192 * i)) s = .next (taken (s.modPkg pkg fun k => { k with sealed := k.sealed.put e.vpn 1 }))) ∧
      (op.undo = false → st e = 2 → exec (.sealComplete (pkg + 8192 * i)) s = .next s) ∧
      (op.undo = true → st e = 0 → exec (.unsealComplete (pkg + 8192 * i)) s = .next (taken s)) ∧
      (op.undo = true → st e = 1 →
        exec (.unsealComplete (pkg + 8192 * i)) s = .next (s.modPkg pkg fun k => { k with sealed := k.sealed.put e.vpn 2 }))) ∧
    ((s.pkg pkg).walk 0 off = some (w, e) → e.moving = false → op.undo = true → st e = 2 →
      exec (.unsealComplete (pkg + 8192 * i)) s = .next (taken ((s.modPkg pkg fun k => { k with sealed := k.sealed.del e.vpn }).dropReplicas
        pkg (e.vpn * 65536) (65536 * pageUnits e.big))))) ∧
  (∀ (s : State) (tid : Nat) (t : Thread), s.thread tid = some t → t.wait = .held .fetch → s.fetchOpen tid t t.pc = true →
    ((∀ w, s.wordAt (coreOf tid) t t.pc = some w → w.toNat / 2 ^ 26 = 63 → s.fetchOpen tid t (t.pc + 4) = true) →
      exec (.fetchHoldRelease tid) s = .next (s.setThread tid { t with wait := .ready }))) ∧
  (∀ (s : State) (tid la : Nat) (t : Thread) (pc : Word), s.check (coreOf tid) t.ctx pc 4 segX 4 = .ok la →
    (s.fetchOpen tid t pc = true ↔ s.sealState (corePkg (coreOf tid)) (canonLa (corePkg (coreOf tid)) la) ≠ 0))

/-- R167, R170, R171, R184: creating and ending threads. spawn, with its packet in the executing core's local store: the child goes
onto the deque, or into the overflow queue where the deque is full, after the increment of the join counter that gD names (none
where D is gz); with both full it traps with cause 0x0D and nothing changes. With a counter, on its own core or on another, it
reserves the place, sends the increment to the owning core, and waits with the packet and the entry pc for its acknowledgement,
after which the child, with that counter, goes into the reserved place (that the own core's counter too is incremented by a message
is the model's reading, log 83). exit leaves the slot Vacant and sends the decrement to the thread's join counter; it waits for a
sequencer that still has entries, traps with an open body (R238, log 61), and discards a frozen sequencer. COUNTER_MESSAGE adds 1
to, or takes 1 from, the counter and acknowledges, on the stored bytes whatever they are (log 66). Completes: spawn, exit,
counterMessage. The order of spawn's faults is the model's (log 90). -/
def Obligations.SpawnAndExit : Prop :=
  (∀ (p : BitVec 3) (q : BitVec 1) (d a b : BitVec 4) (s s1 : State) (t : Thread) (v : List Word) (la : Nat),
    s.Issues p q 4 t → s.Reads t [a, b, d] [] v s1 → t.relaxed = [] →
    let c := coreOf s.cur
    let child (j : Option (BitVec 44)) : Child :=
      { packet := s1.mem.bytes la 64, pc := nth v 1, join := j, sup := t.sup, ctx := t.ctx }
    s1.check c t.ctx (nth v 0) 64 segR 64 = .ok la → laRegion la = 1 → laCore la = c → (nth v 1).toNat % 4 = 0 →
    s1.isBad la 64 = false → workLegal (s1.mem.bytes la 64) = true →
    (∀ ovf, s1.childPlace c t.ctx = some ovf → d = 10 →
      exec (.spawn p q d a b) s = .next ((s1.pushChild c (child none) ovf).retire s.cur t)) ∧
    (∀ ovf lc, s1.childPlace c t.ctx = some ovf → d ≠ 10 → s1.check c t.ctx (nth v 2) 8 (segR ||| segW) 8 = .ok lc →
      laRegion lc = 1 → s1.isBad lc 8 = false → exec (.spawn p q d a b) s =
        .next (((s1.reservePlace c t.ctx ovf true).send c (laCore lc) 1 (.counter lc true (some s.cur))).wait s.cur t
          (.mem { kind := .spawnAck, locs := [.loc lc], sgn := ovf,
                  vals := nth v 1 :: (List.range 8).map fun i => BitVec.ofNat 64 (field (s1.mem.bytes la 64) (8 * i) 8) }))) ∧
    (∀ lc, d ≠ 10 → s1.check c t.ctx (nth v 2) 8 (segR ||| segW) 8 = .ok lc →
      (laRegion lc ≠ 1 → exec (.spawn p q d a b) s = .next (s.trap s.cur t 0x0C (nth v 2))) ∧
      (laRegion lc = 1 → s1.isBad lc 8 = true → exec (.spawn p q d a b) s = .next (s.trap s.cur t 8 (nth v 2)))) ∧
    (s1.childPlace c t.ctx = none → d = 10 → exec (.spawn p q d a b) s = .next (s.trap s.cur t 0x0D (nth v 0)))) ∧
  (∀ (s : State) (tid lc : Nat) (t : Thread) (r : Req) (e : Word) (packet : List Byte), s.thread tid = some t → t.wait = .mem r →
    r.kind = .spawnAck → r.held = false → r.locs = [.loc lc] → packet.length = 64 →
    r.vals = e :: (List.range 8).map (fun i => BitVec.ofNat 64 (field packet (8 * i) 8)) →
    (r.n = 0 → exec (.memoryReply tid) s = .next s) ∧
    (r.n ≠ 0 → exec (.memoryReply tid) s =
        .next (((s.reservePlace (coreOf tid) t.ctx r.sgn false).pushChild (coreOf tid)
          { packet := packet, pc := e, join := some (BitVec.ofNat 44 lc), sup := t.sup, ctx := t.ctx } r.sgn).retire tid t))) ∧
  (∀ (s : State) (c ctx : Nat) (ovf : Bool),
    ((s.reservePlace c ctx ovf true).core c).dequeRes.at 0 ctx = (s.core c).dequeRes.at 0 ctx + (if ovf then 0 else 1) ∧
    ((s.reservePlace c ctx ovf true).core c).overflowRes.at 0 ctx = (s.core c).overflowRes.at 0 ctx + (if ovf then 1 else 0)) ∧
  (∀ (s : State) (c : Nat) (k : Child),
    ((s.pushChild c k false).core c).deque = (s.core c).deque ++ [k] ∧
    ((s.pushChild c k true).core c).deque = (s.core c).deque ∧
    ((s.pushChild c k true).core c).overflow.at [] k.ctx = (s.core c).overflow.at [] k.ctx ++ [.child k] ∧
    (((s.core c).deque.length + ((s.core c).dequeRes.map (·.2)).sum < 64) → s.childPlace c k.ctx = some false)) ∧
  (∀ (p : BitVec 3) (q : BitVec 1) (s : State) (t : Thread), s.Issues p q 4 t →
    (t.seq.isOpen = true →
      exec (.exit p q) s = .next (s.trap s.cur t 1 ((wordOf (.exit p q)).setWidth 64))) ∧
    (t.seq.isOpen = false → t.relaxed = [] → t.seq.ents ≠ [] → t.seq.frozen = false →
      exec (.exit p q) s = .next (s.wait s.cur t (.held .vwait)))) ∧
  (∀ (p : BitVec 3) (q : BitVec 1) (s s2 : State) (t : Thread), s.Issues p q 4 t →
    t.seq.isOpen = false → t.seq.frozen = true ∨ t.seq.ents = [] → t.relaxed = [] →
    let c := coreOf s.cur
    s.traceSoft (cxOf c t) (coreDie c) 2 { ts := s.time c, src := srcOf s.cur, kind := 0x83, seq := 0, obj := 0,
                                           pc := t.pc.toNat % 2 ^ 32, out := 1 } = some s2 →
    (t.join = none → exec (.exit p q) s = .next (s2.vacate s.cur)) ∧
    (∀ j, t.join = some j → exec (.exit p q) s =
      .next ((s2.send c (laCore (2 ^ 56 + j.toNat)) 1 (.counter (2 ^ 56 + j.toNat) false none)).vacate s.cur))) ∧
  (∀ (s s1 : State) (n : Nat) (m : Msg) (la : Nat) (up : Bool) (who : Option Nat), s.deliver n = some (m, s1) →
    m.body = .counter la up who → exec (.counterMessage n) s =
      .next ((s1.store la 8 ((s1.mem.read la 8 + (if up then 1 else 2 ^ 64 - 1)) % 2 ^ 64)).answer m.dst who .spawnAck 1))

/-- R173, R176 to R179: messages. send to a core that exists and where the context holds slots puts its message on its way and
waits; 1 means accepted, after which the thread goes on, and 2 refused, cause 0x0D. A wake sets the pending bit of its slot
position for the context, whether a thread is there or not, and ORs its tag in. A handler message is taken by the destination, or
refused where its overflow queue is full. A wake that send sends goes through all three: the sender is past its send, and the tag
is pending. waitm waits in SyncWait until a wake is pending, then takes the tag and clears both. Completes: send, waitm,
wakeMessageArrival, handlerMessageArrival. -/
def Obligations.MessagesAndWakes : Prop :=
  (∀ (p : BitVec 3) (q : BitVec 1) (a b : BitVec 4) (s s1 : State) (t : Thread) (v : List Word),
    s.Issues p q 4 t → s.Reads t [a, b] [] v s1 → t.relaxed = [] →
    let m := (nth v 0).toNat
    let y := m % 2 ^ 24
    (bits m 30 28 = 0 → s1.coreOk y = true → s1.holdsSlots (4 * corePkg y + t.ctx) y = true →
      (m.testBit 31 = true → exec (.send p q a b) s = .next ((s1.send (coreOf s.cur) y 0
        (.wake (16 * y + bits m 27 24) t.ctx (nth v 1) (some s.cur))).wait s.cur t (.mem { kind := .send, vals := [nth v 0] }))) ∧
      (m.testBit 31 = false → bits m 27 24 = 0 → exec (.send p q a b) s = .next ((s1.send (coreOf s.cur) y 0
        (.handler y (t.handlerOf (nth v 1)) (some s.cur))).wait s.cur t (.mem { kind := .send, vals := [nth v 0] })))) ∧
    (bits m 30 28 ≠ 0 ∨ m.testBit 31 = false ∧ bits m 27 24 ≠ 0 →
      exec (.send p q a b) s = .next (s.trap s.cur t 1 ((wordOf (.send p q a b)).setWidth 64)))) ∧
  (∀ (p : BitVec 3) (q : BitVec 1) (a b : BitVec 4) (s s1 : State) (t : Thread) (v : List Word),
    s.Issues p q 4 t → s.Reads t [a, b] [] v s1 → t.relaxed = [] →
    let m := (nth v 0).toNat
    let y := m % 2 ^ 24
    bits m 30 28 = 0 → m.testBit 31 = true → s1.coreOk y = true → s1.holdsSlots (4 * corePkg y + t.ctx) y = true →
    (∀ e ∈ s1.net, ¬ (e.src = coreOf s.cur ∧ e.dst = y ∧ e.chan = 0)) → s1.fab.reaches (placeDie (coreOf s.cur)) (placeDie y) = true →
    ∃ u w x, exec (.send p q a b) s = .next u ∧ exec (.wakeMessageArrival s1.net.length) u = .next w ∧
      exec (.memoryReply s.cur) w = .next x ∧ x.thread s.cur = some t.past ∧ x.net = s1.net ∧
      (x.core y).wakes.at (false, 0) (wakeKey (16 * y + bits m 27 24) t.ctx) =
        (true, ((s1.core y).wakes.at (false, 0) (wakeKey (16 * y + bits m 27 24) t.ctx)).2 ||| nth v 1)) ∧
  (∀ (s : State) (tid : Nat) (t : Thread) (r : Req), s.thread tid = some t → t.wait = .mem r → r.kind = .send → r.locs = [] →
    (r.n = 1 → exec (.memoryReply tid) s = .next (s.retire tid t)) ∧
    (r.n = 2 → exec (.memoryReply tid) s = .next (s.trap tid t 0x0D (nth r.vals 0)))) ∧
  (∀ (s s1 : State) (n : Nat) (m : Msg) (tid ctx : Nat) (tag : Word) (who : Option Nat), s.deliver n = some (m, s1) →
    m.body = .wake tid ctx tag who → (s.resid (4 * corePkg (coreOf tid) + ctx) (coreOf tid)).isSome = true →
    exec (.wakeMessageArrival n) s = .next ((s1.modCore (coreOf tid) fun k =>
      { k with wakes := k.wakes.put (wakeKey tid ctx) (true, (k.wakes.at (false, 0) (wakeKey tid ctx)).2 ||| tag) }).answer
        (coreOf tid) who .send 1)) ∧
  (∀ (s s1 : State) (n : Nat) (m : Msg) (core : Nat) (t : Thread) (who : Option Nat), s.deliver n = some (m, s1) →
    m.body = .handler core t who → s.running (4 * corePkg core + t.ctx) = true →
    s.holdsSlots (4 * corePkg core + t.ctx) core = true →
    (∀ s2, s1.arrive core t.ctx (.handler t) = some s2 → exec (.handlerMessageArrival n) s = .next (s2.answer core who .send 1)) ∧
    (s1.arrive core t.ctx (.handler t) = none → exec (.handlerMessageArrival n) s = .next (s1.answer core who .send 2))) ∧
  (∀ (p : BitVec 3) (q : BitVec 1) (d : BitVec 4) (s s2 : State) (t : Thread), s.Issues p q 4 t → s.Reads t [] [d] [] s → t.relaxed = [] →
    let c := coreOf s.cur
    let w := (s.core c).wakes.at (false, 0) (wakeKey s.cur t.ctx)
    (w.1 = true → s.Permits s2 s.cur t 0x0C (slotObj s.cur) (w.2.toNat % 2 ^ 32) → State.writeRefused s.cur d w.2 = false →
      exec (.waitm p q d) s = .next ((s2.modCore c fun x => { x with wakes := x.wakes.del (wakeKey s.cur t.ctx) }).result s.cur t d
        w.2)) ∧
    (w.1 = false → exec (.waitm p q d) s = .next (s.wait s.cur t .sync)))

/-- R174, R162, R173: yield holds its thread for its own positions of the next n rotations, n the low 16 bits of gA and at least 1,
after which it goes on: the position's own turn in a rotation takes the hold from k + 1 to k, and with 0 left it ends the hold, the
cycle then counting as issued in the time account (R222). A migrated thread that the target takes frees the slot position it left;
one that the target refuses goes back to that position and traps with cause 0x0D, the shape records of its sequencer's entries to
be checked again (R228). Completes: yield, yieldHoldEnd, migrationArrival, migrationRefused. That a refused thread keeps its old
start is the model's (log 79). -/
def Obligations.YieldsAndArrivals : Prop :=
  (∀ (p : BitVec 3) (q : BitVec 1) (a : BitVec 4) (s s1 : State) (t : Thread) (v : List Word),
    s.Issues p q 4 t → s.Reads t [a] [] v s1 →
    exec (.yield p q a) s = .next (s1.wait s.cur t (.held (.yield (max 1 ((nth v 0).toNat % 65536)))))) ∧
  (∀ (s : State) (tid k : Nat) (t : Thread), s.thread tid = some t → t.wait = .held (.yield k) →
    exec (.yieldHoldEnd tid) s = .next (if k = 0 then s.retire tid t else s)) ∧
  (∀ (s : State) (c k : Nat) (t : Thread), let own := 16 * c + s.clock % 16
    s.thread own = some t → t.wait = .held (.yield k) →
    (k = 0 → s.coreTurn c = .held (.yieldHoldEnd own) (State.recount { s with cur := own } s c)) ∧
    (∀ j, k = j + 1 → s.coreTurn c = .donated (State.coreTurn.donate c (s.wait own t (.held (.yield j))))) ∧
    (s.agenda = [] → s.nextCore = some c →
      (k = 0 → step s = .next ((State.recount { s with cur := own } s c).retire own t)) ∧
      (∀ j, k = j + 1 → (s.core c).rotShr = false → step s = .next ((s.wait own t (.held (.yield j))).turnEnds c)))) ∧
  (∀ (s s1 : State) (n : Nat) (m : Msg) (core : Nat) (t : Thread) (origin : Nat) (ebad : Word) (past : Bool),
    s.deliver n = some (m, s1) → m.body = .migrate core t origin ebad past → s.running (4 * corePkg core + t.ctx) = true →
    s.holdsSlots (4 * corePkg core + t.ctx) core = true →
    let a := s1.arrive core t.ctx (.thread (if past then t.past else t) origin)
    (∀ s2, a = some s2 → exec (.migrationArrival n) s = .next (s2.unreserve origin)) ∧
    (a = none → exec (.migrationArrival n) s = .next (s1.send core (coreOf origin) 2 (.refused t origin ebad)))) ∧
  (∀ (s s1 : State) (n : Nat) (m : Msg) (t : Thread) (origin : Nat) (ebad : Word), s.deliver n = some (m, s1) →
    m.body = .refused t origin ebad → s.running (cxOf (coreOf origin) t) = true →
    exec (.migrationRefused n) s = .next ((s1.unreserve origin).trap origin
      { t with seq := { t.seq with ents := t.seq.ents.map fun e => { e with recs := [] } } } 0x0D ebad))

/-- R180 to R182, R310: waitc completes once its counter has reached the threshold, by the signed 32-bit difference, with the
counter's value; cset sets a counter of the context; a counter outside its range traps with cause 0x04. bar counts an arrival in
the first generation that is not full (log 67): at a core barrier the last one releases every waiter, and a cluster barrier's
arrival goes to the cluster as a message. The cluster releases its waiters 24 cycles after the last arrival. fence completes once
no relaxed access of the thread is outstanding. Completes: waitc, cset, bar, fence, clusterBarrierArrival, clusterBarrierRelease.
-/
def Obligations.CountersAndBarriers : Prop :=
  (∀ (p : BitVec 3) (q : BitVec 1) (d a b sc : BitVec 4) (s s1 : State) (t : Thread) (v : List Word), s.Issues p q 4 t →
    let c := coreOf s.cur
    let k := (nth v 0).toNat % 64
    let ck := (s1.core c).counters.at 0 k
    (s.Reads t [a, b] [d] v s1 → s1.ownsCounter c (cxOf c t) k = true → t.relaxed = [] →
      (∀ s2, 0 ≤ (ck - (nth v 1).setWidth 32).toInt → s1.logMode s.cur t ≠ 2 →
        s1.Permits s2 s.cur t 6 (counterObj c k) ck.toNat → State.writeRefused s.cur d (ck.setWidth 64) = false →
        exec (.waitc p q d a b) s = .next (s2.result s.cur t d (ck.setWidth 64))) ∧
      ((ck - (nth v 1).setWidth 32).toInt < 0 → exec (.waitc p q d a b) s = .next (s.wait s.cur t .sync))) ∧
    (s.Reads t [a, b] [d] v s1 → s1.ownsCounter c (cxOf c t) k = false →
      exec (.waitc p q d a b) s = .next (s.trap s.cur t 4 (nth v 0))) ∧
    (s.Reads t [a, b] [] v s1 → s1.ownsCounter c (cxOf c t) k = true → t.relaxed = [] → exec (.cset p q a b) s =
      .next ((s1.modCore c fun x => { x with counters := x.counters.put k ((nth v 1).setWidth 32) }).retire s.cur t)) ∧
    (s.Reads t [a, b] [] v s1 → s1.ownsCounter c (cxOf c t) k = false →
      exec (.cset p q a b) s = .next (s.trap s.cur t 4 (nth v 0))) ∧
    (t.relaxed = [] → exec (.fence p q sc) s = .next (s.retire s.cur t)) ∧
    (t.relaxed ≠ [] → exec (.fence p q sc) s = .next (s.wait s.cur t (.mem { kind := .drain })))) ∧
  (∀ (p : BitVec 3) (q : BitVec 1) (a b : BitVec 4) (s s1 : State) (t : Thread) (v : List Word), s.Issues p q 4 t →
    s.Reads t [a, b] [] v s1 → t.relaxed = [] →
    let c := coreOf s.cur
    let key := 16 * t.ctx + (nth v 0).toNat % 16
    let n (limit : Nat) : Nat := max 1 (min limit ((nth v 1).toNat % 1024))
    let waits (s2 : State) : State := s2.setThread s.cur { t with wait := .sync, arrived := some key }
    ((nth v 0).getLsbD 8 = true → exec (.bar p q a b) s = .next ((s1.send c (clBase (clusterOf c)) 0 (.barArrive key s.cur
      (n 576))).setThread s.cur { t with wait := .sync, arrived := some (64 + key) })) ∧
    ((nth v 0).getLsbD 8 = false →
      ((s1.core c).bars.at [] key = [] → n 16 ≠ 1 → exec (.bar p q a b) s = .next (waits (s1.modCore c fun k =>
        { k with bars := k.bars.put key [{ count := n 16, arrived := [s.cur], since := s1.clock, t := s1.time c }] }))) ∧
      (∀ x, (s1.core c).bars.at [] key = [x] → x.arrived.length + 1 < x.count → exec (.bar p q a b) s =
        .next (waits (s1.modCore c fun k =>
          { k with bars := k.bars.put key [{ x with arrived := x.arrived ++ [s.cur], since := s1.clock, t := max x.t (s1.time c) }] }))) ∧
      (s1.logMode s.cur t = 0 →
        ((s1.core c).bars.at [] key = [] → n 16 = 1 → ∃ s2 : State,
          exec (.bar p q a b) s = .next s2 ∧ s2.thread s.cur = some ({ t with arrived := none } : Thread).past ∧
          (s2.core c).bars.find? key = none ∧ (s2.core c).slotTab = (s1.core c).slotPend.getD (s1.core c).slotTab ∧ s2.mem = s1.mem) ∧
        (∀ x, (s1.core c).bars.at [] key = [x] → x.arrived.length + 1 = x.count → x.arrived.Nodup →
          (∀ i ∈ x.arrived, i ≠ s.cur ∧ ∃ u, s1.thread i = some u ∧ s1.logMode i u = 0) → ∃ s2 : State,
          exec (.bar p q a b) s = .next s2 ∧ s2.thread s.cur = some ({ t with arrived := none } : Thread).past ∧
          (∀ i ∈ x.arrived, ∀ u, s1.thread i = some u → s2.thread i = some ({ u with arrived := none } : Thread).past) ∧
          (s2.core c).bars.find? key = none ∧ (s2.core c).slotTab = (s1.core c).slotPend.getD (s1.core c).slotTab ∧ s2.mem = s1.mem)))) ∧
  (∀ (tid n now tm : Nat) (l : List Barrier), (∀ b ∈ l, b.count ≤ b.arrived.length) →
    joinGeneration tid n now tm l = l ++ [{ count := n, arrived := [tid], since := now, t := tm }] ∧
    ∀ (x : Barrier) (r : List Barrier), x.arrived.length < x.count → joinGeneration tid n now tm (l ++ x :: r) =
      l ++ { x with arrived := x.arrived ++ [tid], since := now, t := max x.t tm } :: r) ∧
  (∀ (s s1 : State) (n : Nat) (m : Msg) (key tid count : Nat), s.deliver n = some (m, s1) → m.body = .barArrive key tid count →
    exec (.clusterBarrierArrival n) s = .next (s1.modCluster (clusterOf (coreOf tid)) fun k =>
      { k with bars := k.bars.put key (joinGeneration tid count s.clock (m.t + 1) (k.bars.at [] key)) })) ∧
  (∀ (s : State) (cl bar : Nat) (x : Barrier) (r : List Barrier), (s.cluster cl).bars.at [] bar = x :: r →
    (x.arrived.length < x.count ∨ s.clock < x.since + 24 → exec (.clusterBarrierRelease cl bar) s = .next s) ∧
    (x.count ≤ x.arrived.length → x.since + 24 ≤ s.clock → x.arrived.Nodup →
      (∀ i ∈ x.arrived, ∃ u, s.thread i = some u ∧ s.logMode i u = 0) → ∃ s2 : State,
      exec (.clusterBarrierRelease cl bar) s = .next s2 ∧ (s2.cluster cl).bars.at [] bar = r ∧ s2.mem = s.mem ∧
      ∀ i ∈ x.arrived, ∀ u, s.thread i = some u → s2.thread i = some ({ u with arrived := none } : Thread).past))

/-- R168, R172, R203, R204, R324, R122: finding work. A Vacant slot of a running context binds the oldest work that waits at its
core, if it is the slot that R172 chooses; with none it pops the bottom-most child of its context off the deque; with none it
starts a search, asking the first victim. The victim gives its top-most child that may be stolen, or answers empty. A reply binds
its child into the reserved slot; an empty one leaves the search to go on, and a search that found nothing ends after 512 cycles. A
Halting context whose last thread has gone becomes Free and its exit code goes to the host. While the context neither records,
replays nor traces a binding, binding puts the thread into the slot, Ready. Completes: slotBind, stealRequest, stealReply,
stealSearchRetry, haltCompletion. -/
def Obligations.FindingWork : Prop :=
  (∀ (s : State) (tid ctx : Nat), ((List.range 4).find? fun x => s.freeFor tid x) = some ctx →
    let c := coreOf tid
    let cx := 4 * corePkg c + ctx
    (s.ctx cx).replay ≠ 2 →
    (∀ a r s2, s.waiting c ctx = a :: r → s.freeSlot c ctx = some tid → (s.unwait c ctx 0).bindArrival tid cx a = some s2 →
      exec (.slotBind tid) s = .next s2) ∧
    (∀ i k s2, s.waiting c ctx = [] → bottomOf (s.core c).deque ctx = some i → (s.core c).deque[i]? = some k →
      (s.modCore c fun x => { x with deque := x.deque.eraseIdx i }).bind tid cx 7 0 k.thread = some s2 →
      exec (.slotBind tid) s = .next s2) ∧
    ((s.ctx cx).replay = 0 → (s.ctx cx).trace.getLsbD 2 = false →
      let takes (u : State) (x : Thread) : State := (u.unitGoes cx (srcOf tid) (slotObj tid)).seat tid x
      (∀ a r x, s.waiting c ctx = a :: r → s.freeSlot c ctx = some tid →
        ((∃ o, a = .thread x o) ∨ a = .handler x ∨ (∃ k, a = .child k ∧ x = k.thread) →
          exec (.slotBind tid) s = .next (takes (s.unwait c ctx 0) x)) ∧
        (a = .root x → exec (.slotBind tid) s = .next ((s.unwait c ctx 0).seat tid x))) ∧
      (∀ i k, s.waiting c ctx = [] → bottomOf (s.core c).deque ctx = some i → (s.core c).deque[i]? = some k →
        exec (.slotBind tid) s = .next (takes (s.modCore c fun x => { x with deque := x.deque.eraseIdx i }) k.thread))) ∧
    (∀ y r, s.waiting c ctx = [] → bottomOf (s.core c).deque ctx = none → (s.core c).steal.find? ctx = none →
      s.victims c ctx = y :: r → exec (.slotBind tid) s = .next ((s.modCore c fun k =>
        { k with reserved := NatSet.insert k.reserved (slotOf tid),
                 steal := k.steal.put ctx { victims := r, asked := true, since := 0 } }).send c y 0
          (.steal y c ctx (slotOf tid))))) ∧
  (∀ (l : List Child) (k : Child) (ctx : Nat), k.ctx = ctx → bottomOf (l ++ [k]) ctx = some l.length ∧
    (workLocal k.packet = false → topOf (k :: l) ctx = some 0) ∧ (workLocal k.packet = true → topOf [k] ctx = none)) ∧
  (∀ (s s1 : State) (n : Nat) (m : Msg) (y c ctx slot : Nat), s.deliver n = some (m, s1) → m.body = .steal y c ctx slot →
    (s.core y).disabled = false →
    (∀ i, topOf (s.core y).deque ctx = some i → exec (.stealRequest n) s =
      .next ((s1.modCore y fun k => { k with deque := k.deque.eraseIdx i }).send y c 1
        (.stolen c ctx slot y ((s.core y).deque[i]?)))) ∧
    (topOf (s.core y).deque ctx = none → exec (.stealRequest n) s = .next (s1.send y c 1 (.stolen c ctx slot y none)))) ∧
  (∀ (s s1 : State) (n : Nat) (m : Msg) (y c ctx slot : Nat), s.deliver n = some (m, s1) →
    (∀ k s2, m.body = .stolen c ctx slot y (some k) → s.running (4 * corePkg c + ctx) = true →
      ((s1.unreserve (16 * c + slot)).modCore c fun x => { x with steal := x.steal.del ctx }).bind (16 * c + slot)
        (4 * corePkg c + ctx) 8 y k.thread = some s2 → exec (.stealReply n) s = .next s2) ∧
    (∀ k, m.body = .stolen c ctx slot y (some k) → s.running (4 * corePkg c + ctx) = true →
      (s.ctx (4 * corePkg c + ctx)).replay = 0 → (s.ctx (4 * corePkg c + ctx)).trace.getLsbD 2 = false →
      exec (.stealReply n) s = .next (((((s1.unreserve (16 * c + slot)).modCore c fun x => { x with steal := x.steal.del ctx }).unitGoes
        (4 * corePkg c + ctx) (srcOf (16 * c + slot)) (slotObj (16 * c + slot))).seat (16 * c + slot) k.thread))) ∧
    (∀ z, m.body = .stolen c ctx slot y none → ((s1.unreserve (16 * c + slot)).core c).steal.find? ctx = some z →
      (s.ctx (4 * corePkg c + ctx)).replay ≠ 2 → exec (.stealReply n) s =
        .next ((s1.unreserve (16 * c + slot)).modCore c fun x =>
          { x with steal := x.steal.put ctx { z with asked := false, since := s.clock } }))) ∧
  (∀ (s : State) (c cx : Nat) (y : Steal), (s.core c).steal.find? (cx % 4) = some y → y.asked = false → y.victims = [] →
    exec (.stealSearchRetry c cx) s = .next (if y.since + 512 ≤ s.clock then
      s.modCore c fun k => { k with steal := k.steal.del (cx % 4) } else s)) ∧
  (∀ (s : State) (cx : Nat), (s.ctx cx).st = .halting →
    (s.threadsOf cx = [] → s.copying cx = false → (∀ o ∈ s.fab.flight, o.cx ≠ cx) → (s.ctx cx).written = true →
      exec (.haltCompletion cx) s = .next ((s.freeContext cx).say (.exit (cx / 4) (s.ctx cx).conn (cx % 4) (s.ctx cx).exitCode)) ∧
      ((s.freeContext cx).ctx cx).st = .free) ∧
    (s.copying cx = true → s.threadsOf cx = [] → exec (.haltCompletion cx) s = .next s))

/-- R186, R291, R294: the walks at a home core, made by the core that has its duty: a walk that runs is answered with the entry
that covers the offset in its own die's replica, or with none, and stays at its port until the answer arrives; up to three that are
queued begin, the oldest first. PAGE_WAKE ends the walk, fills the port's TLB and makes the waiting slot Ready, wherever in the
page it missed, to issue its instruction again; without an entry a slot that missed in the unit walked notes the page, and its
instruction will trap. A hardware unit (an engine, a slot position, a port) asks for a walk as a slot does and keeps its answer for
its next try. Misses on one page at one port share one walk. Completes: pageWalk, pageWake. -/
def Sys2Proof.pageWalks : Prop :=
  (∀ (s : State) (home : Nat) (w : Walk),
    (s.walksAt home .walking = [w] → s.walksAt home .queued = [] → (s.setWalk w.cl w.off .answered).walksAt home .queued = [] →
      exec (.pageWalk home) s = .next ((s.setWalk w.cl w.off .answered).send (s.dutyOf home) (unitPlace w.cl) 1
        (.walkAnswer w.cl w.off (((s.pkg (clPkg w.cl)).walk (clDie w.cl) w.off).map fun x =>
          { vpn := x.2.vpn, big := x.2.big, pfn := x.2.pfn, hot := 0, from_ := x.1 })))) ∧
    (s.walksAt home .walking = [] →
      (∀ r, s.walksAt home .queued = [w] → r = s.setWalk w.cl w.off .walking →
        exec (.pageWalk home) s = .next (r.hear (s.dutyOf home) w.t)) ∧
      ∀ (x y z : Walk) (l : List Walk), s.walksAt home .queued = x :: y :: z :: l → exec (.pageWalk home) s =
        .next ((((((s.setWalk x.cl x.off .walking).hear (s.dutyOf home) x.t).setWalk y.cl y.off .walking).hear (s.dutyOf home) y.t).setWalk
          z.cl z.off .walking).hear (s.dutyOf home) z.t))) ∧
  (∀ (s s1 : State) (n : Nat) (m : Msg) (cl off tid its : Nat) (t : Thread) (e : Option TlbEntry), s.deliver n = some (m, s1) →
    m.body = .walkAnswer cl off e → s.thread tid = some t → t.wait = .page (clPkg cl) its →
    let mine (w : Walk) : Bool := w.off / 65536 == off / 65536
    let ended := s1.modCluster cl fun k => { k with walks := k.walks.filter fun w => !mine w }
    ((s.cluster cl).walks.filter mine).flatMap (·.waiters) = [(.thread tid, its)] →
    (∀ x, e = some x → (s1.cluster cl).tlbFind off = none → exec (.pageWake n) s = .next (((ended.tlbFill cl x).hear (coreOf tid) m.t).setThread tid
      { t with wait := .ready, noEntry := none })) ∧
    (e = none → exec (.pageWake n) s = .next ((ended.hear (coreOf tid) m.t).setThread tid
      { t with wait := .ready, noEntry := if off / 65536 = its / 65536 then some (clPkg cl, its / 65536) else none }))) ∧
  (∀ (s s1 : State) (n : Nat) (m : Msg) (cl off its : Nat) (who : Waiter) (e : Option TlbEntry), s.deliver n = some (m, s1) →
    m.body = .walkAnswer cl off e →
    ((∃ x, who = .engine x) ∨ (∃ x, who = .slot x) ∨ (∃ c x, who = .segs c x) ∨ ∃ c, who = .port c) →
    let mine (w : Walk) : Bool := w.off / 65536 == off / 65536
    let ended := s1.modCluster cl fun k => { k with walks := k.walks.filter fun w => !mine w }
    let noted (u : State) (found : Bool) : State := (u.hear who.place m.t).modCluster cl fun k =>
      { k with notes := k.notes ++ [{ who := who, unit := its / 65536, found := found }] }
    ((s.cluster cl).walks.filter mine).flatMap (·.waiters) = [(who, its)] →
    (∀ x, e = some x → (s1.cluster cl).tlbFind off = none → x.covers its = true →
      exec (.pageWake n) s = .next (noted (ended.tlbFill cl x) true)) ∧
    (e = none → off / 65536 = its / 65536 → exec (.pageWake n) s = .next (noted ended false))) ∧
  (∀ (s : State) (cl off : Nat) (who : Waiter),
    ((s.cluster cl).walks = [] → s.askWalk cl off who = s.modCluster cl fun k => { k with walks :=
      [{ cl := cl, off := off, since := s.clock, st := .queued, waiters := [(who, off)], t := s.time who.place }] }) ∧
    ∀ w : Walk, (s.cluster cl).walks = [w] → (s.pkg (clPkg cl)).samePage (clDie cl) off w.off = true → (who, off) ∉ w.waiters →
      s.askWalk cl off who = s.modCluster cl fun k => { k with walks :=
        [{ w with waiters := w.waiters ++ [(who, off)], t := max w.t (s.time who.place) }] })

/-- R295 to R297: the page-table instructions of a service core's thread in supervisor state. Each sends its request to the home of
the offset that gA names, whatever its region, waits in MemWait and completes with its reply; an address outside region 0 has no
entry: its reply is 0, pgmv's 1, hwalk's image is 32 zero bytes, and tlbi does nothing (log 40). hwalk's reply is the TAGW of the
entry, 0 for none, and its image goes to gB's place unless gB is 0; hdel gives 1 and hotr the sum where a page has its entry, 0
without; pgmv begins a move, or gives its code; tlbi of length 0 invalidates every entry. hins takes its image from local store;
served, it answers 4 for an image that is not valid, and installs a page that neither replica holds where both have room and no
entry of the other size overlaps, unsealed, with answer 0. A page move begun by pgmv ends with PAGE_MOVE_SWITCH: the frame's bytes
stand in the new frame, the page's entries name it and are no longer moving, and pgmv completes with 0. Completes: memoryReply,
hwalk, hins, hdel, tlbi, hotr, pgmv, pageMoveSwitch. -/
def Sys2Proof.pageTableChanges : Prop :=
  (∀ (p : BitVec 3) (q : BitVec 1) (d a b : BitVec 4) (s s1 : State) (t : Thread) (v : List Word), s.Issues p q 4 t → t.sup = true →
    isService (coreOf s.cur) = true →
    let c := coreOf s.cur
    let pkg := corePkg c
    let la := canonLa pkg (nth v 0).toNat
    let req (k : ReqKind) (i : Instr) (e : BitVec 4) (n : Nat) : Req :=
      { kind := k, word := wordOf i, d := e, vals := [BitVec.ofNat 64 la, nth v 1], n := n }
    let asks (r : Req) : State := s1.wait s.cur t (.mem r)
    let at_ (r : Req) : State := (asks r).exchange c ((asks r).dutyOf (homeCore (clusterOf c) (la % 2 ^ 43)))
    let through (i : Instr) (r : Req) (w : State) : Prop := exec i s = .next (asks r) ∧ exec (.memoryReply s.cur) (asks r) = .next w
    let gives (i : Instr) (r : Req) (x : State) (n : Nat) : Prop := State.writeRefused s.cur r.d (BitVec.ofNat 64 n) = false →
      through i r (x.result s.cur (t.waiting (.mem r)) r.d (BitVec.ofNat 64 n))
    let tagOf (x : State) : Nat := (((x.pkg pkg).walk (coreDie c) la).map fun e => e.2.tagw.toNat).getD 0
    (s.Reads t [a, b] [d] v s1 → laRegion la = 0 →
      (nth v 1 = 0 → let r := req .hwalk (.hwalk p q d a b) d 0;
        gives (.hwalk p q d a b) r (at_ r) (tagOf (at_ r))) ∧
      (∀ out, nth v 1 ≠ 0 → s1.check c t.ctx (nth v 1) 32 segW 32 = .ok out → laRegion out = 1 → laCore out = c →
        let r := req .hwalk (.hwalk p q d a b) d out;
        gives (.hwalk p q d a b) r ((at_ r).storeBytes out (((((at_ r).pkg pkg).walk (coreDie c) la).map fun e => e.2.image).getD
          (List.replicate 32 0))) (tagOf (at_ r))) ∧
      (let r := req .hotr (.hotr p q d a b) d 0;
        gives (.hotr p q d a b) r ((at_ r).hotness pkg la ((nth v 1).getLsbD 0)).2 ((at_ r).hotness pkg la ((nth v 1).getLsbD 0)).1) ∧
      (let r := req .pgmv (.pgmv p q d a b) d 0;
        let m := (at_ r).beginMove pkg (coreDie c) la ((nth v 1).toNat % 2 ^ 24) s.cur d
        (∀ st, m = .error st → gives (.pgmv p q d a b) r (at_ r) st) ∧
        (∀ x, m = .ok x → through (.pgmv p q d a b) r
          (x.setThread s.cur { t.waiting (.mem r) with wait := .mem { r with n := 1 } })))) ∧
    (s.Reads t [a] [d] v s1 → laRegion la = 0 → let r := req .hdel (.hdel p q d a) d 0;
      ∀ st x, (at_ r).uninstall pkg (coreDie c) la = some (st, x) → gives (.hdel p q d a) r x st) ∧
    (s.Reads t [a, b] [10] v s1 → laRegion la = 0 → let r := req .tlbi (.tlbi p q a b) 10 0;
      let n := (nth v 1).toNat
      through (.tlbi p q a b) r (((at_ r).invalidate pkg fun e => n == 0 || (decide (e.vpn * 65536 < la + n) &&
        decide (la < (e.vpn + pageUnits e.big) * 65536))).retire s.cur (t.waiting (.mem r)))) ∧
    (laRegion la ≠ 0 →
      (s.Reads t [a, b] [d] v s1 →
        (let r := req .hotr (.hotr p q d a b) d 0; gives (.hotr p q d a b) r (at_ r) 0) ∧
        (nth v 1 = 0 → let r := req .hwalk (.hwalk p q d a b) d 0; gives (.hwalk p q d a b) r (at_ r) 0) ∧
        (∀ out, nth v 1 ≠ 0 → s1.check c t.ctx (nth v 1) 32 segW 32 = .ok out → laRegion out = 1 → laCore out = c →
          let r := req .hwalk (.hwalk p q d a b) d out;
          gives (.hwalk p q d a b) r ((at_ r).storeBytes out (List.replicate 32 0)) 0) ∧
        (let r := req .pgmv (.pgmv p q d a b) d 0; gives (.pgmv p q d a b) r (at_ r) 1)) ∧
      (s.Reads t [a] [d] v s1 → let r := req .hdel (.hdel p q d a) d 0; gives (.hdel p q d a) r (at_ r) 0) ∧
      (s.Reads t [a, b] [10] v s1 → let r := req .tlbi (.tlbi p q a b) 10 0;
        through (.tlbi p q a b) r ((at_ r).retire s.cur (t.waiting (.mem r))))) ∧
    (∀ x, s.Reads t [a] [d] v s1 → s1.check c t.ctx (nth v 0) 32 segR 32 = .ok x → laRegion x = 1 → laCore x = c → s1.isBad x 32 = false →
      let image := (List.range 4).map fun i => BitVec.ofNat 64 (s1.mem.read (x + 8 * i) 8)
      let r : Req := { kind := .hins, word := wordOf (.hins p q d a), d := d, vals := image }
      let y := (asks r).exchange c ((asks r).dutyOf (homeCore (clusterOf c) ((nth image 0).toNat % 2 ^ 27 * 65536)))
      ∀ st z, y.install pkg (image.flatMap fun v => leBytes 8 v.toNat) = some (st, z) → gives (.hins p q d a) r z st)) ∧
  (∀ (s : State) (tid : Nat) (t : Thread) (r : Req), s.thread tid = some t → t.wait = .mem r → r.held = false →
    let c := coreOf tid
    let pkg := corePkg c
    let la := (nth r.vals 0).toNat
    let s1 := s.exchange c (s.dutyOf (homeCore (clusterOf c) (la % 2 ^ 43)))
    let s3 := s.exchange c (s.dutyOf (homeCore (clusterOf c) (la % 2 ^ 27 * 65536)))
    (∀ v, r.kind = .hwalk → nth r.vals 1 = 0 → laRegion la = 0 →
      v = (((s1.pkg pkg).walk (coreDie c) la).map fun x => x.2.tagw).getD 0 → State.writeRefused tid r.d v = false →
      exec (.memoryReply tid) s = .next (s1.result tid t r.d v)) ∧
    (∀ st s2, r.kind = .hins → s3.install pkg (r.vals.flatMap fun v => leBytes 8 v.toNat) = some (st, s2) →
      State.writeRefused tid r.d (BitVec.ofNat 64 st) = false →
      exec (.memoryReply tid) s = .next (s2.result tid t r.d (BitVec.ofNat 64 st))) ∧
    (State.writeRefused tid r.d 0 = false → laRegion la = 0 →
      (r.kind = .hdel → (s1.pkg pkg).walk (coreDie c) la = none → exec (.memoryReply tid) s = .next (s1.result tid t r.d 0)) ∧
      (r.kind = .hotr → (s1.pkg pkg).walk 0 la = none → exec (.memoryReply tid) s = .next (s1.result tid t r.d 0))) ∧
    (r.kind = .tlbi → nth r.vals 1 = 0 → laRegion la = 0 → exec (.memoryReply tid) s = .next ((s1.invalidate pkg fun _ => true).retire tid t)) ∧
    (r.kind = .pgmv → r.n = 0 → laRegion la = 0 → (s1.pkg pkg).walk (coreDie c) la = none → State.writeRefused tid r.d 1 = false →
      exec (.memoryReply tid) s = .next (s1.result tid t r.d 1))) ∧
  (∀ (s : State) (pkg die la i j : Nat) (x y : Pte), (s.pkg pkg).walk 0 la = some (i, x) → (s.pkg pkg).walk 1 la = some (j, y) →
    (s.hotness pkg la false).1 = shadowSum ((s.pkg pkg).shadow.at 0 i).toNat ((s.pkg pkg).shadow.at 0 j).toNat ∧
    (s.hotness pkg la false).2 = s ∧ ((s.hotness pkg la true).2.pkg pkg).shadow = ((s.pkg pkg).shadow.del i).del j ∧
    ∀ w e, (s.pkg pkg).walk die la = some (w, e) →
      (e.moving = false → (s.uninstall pkg die la).map (·.1) = some 1) ∧ (e.moving = true → s.uninstall pkg die la = none)) ∧
  (∀ (s : State) (pkg : Nat) (l : List Byte),
    (imageLegal l = false → s.install pkg l = some (4, s)) ∧
    (∀ i j, imageLegal l = true → sameWay (s.pkg pkg).pt ((Pte.ofImage l).base 0) (Pte.ofImage l) = none →
      freeWay (s.pkg pkg).pt ((Pte.ofImage l).base 0) = some i → freeWay (s.pkg pkg).pt ((Pte.ofImage l).base 1) = some j →
      overlapsOther (s.pkg pkg).pt (Pte.ofImage l) = false → s.install pkg l = some (0, s.modPkg pkg fun k =>
        { k with pt := (k.pt.put i (Pte.ofImage l)).put j (Pte.ofImage l), sealed := k.sealed.del (Pte.ofImage l).vpn }))) ∧
  (∀ (s : State) (n i : Nat) (m : Move) (e : Pte) (t : Thread) (r : Req),
    let pkg := n % 8192
    let frame (f : Nat) : Nat := 2 ^ 61 + pkg * 2 ^ 40 + f * 65536
    let moved (x : Pte) : Pte := if x.valid && x.vpn == m.vpn && x.big == e.big then
      { x with tagw := x.tagw &&& ~~~0x2000000000000000, frame := BitVec.ofNat 64 m.new } else x
    (s.pkg pkg).moves[n / 8192]? = some m → (s.pkg pkg).walk 0 (m.vpn * 65536) = some (i, e) → s.thread m.tid = some t →
    t.wait = .mem r → r.kind = .pgmv → r.n = 1 → State.writeRefused m.tid r.d 0 = false →
    ∃ s2 : State, exec (.pageMoveSwitch n) s = .next (s2.result m.tid t r.d 0) ∧ s2.threads = s.threads ∧
      s2.mem = s.mem.writeBytes (frame m.new) (s.mem.bytes (frame m.old) (65536 * pageUnits e.big)) ∧
      (s2.pkg pkg).moves = (s.pkg pkg).moves.eraseIdx (n / 8192) ∧
      (s2.pkg pkg).pt = (s.pkg pkg).pt.map fun x => (x.1, moved x.2))

/-- R186, R291, R294 to R297: page walks and the page-table instructions. The order of the error codes, and a page's move at one
instant, are the model's (log 20, log 40). -/
def Obligations.PageTable : Prop := pageWalks ∧ pageTableChanges

/-- A push: the instruction enters its thread's sequencer at the end, with its pc and the state that it captures, and the thread
goes on; a full sequencer of 16 entries holds it, and a 15th instruction of an open body traps with cause 0x01 (R233, R235, R238).
-/
def Sys2Proof.Pushes (i : Instr) (p : BitVec 3) (q : BitVec 1) : Prop :=
  ∀ s t, s.Issues p q 4 t → t.seq.frozen = false → (∀ x ∈ t.seq.ents, pcHigh x.pc = pcHigh t.pc) →
    let e : SeqEntry := { word := wordOf i, pc := t.pc, shb := t.shb, rnd := t.rnd, scl := t.scl, idx := 0, pass := 0, acc := [],
                          recs := [] }
    ((t.seq.isOpen = true → t.seq.openLen < 14) →
      (t.seq.ents.length < 16 →
        exec i s = .next (s.retire s.cur { t with seq := Seq.settle { t.seq with ents := t.seq.ents ++ [e] } })) ∧
      (16 ≤ t.seq.ents.length → exec i s = .next (s.wait s.cur t (.held .push)))) ∧
    (t.seq.isOpen = true → 14 ≤ t.seq.openLen → exec i s = .next (s.trap s.cur t 1 ((wordOf i).setWidth 64)))

/-- The 44 vector instructions of majors 40 to 45. -/
def Sys2Proof.Machine.PushedMember (p : BitVec 3) (q : BitVec 1) (hd ha hb : BitVec 5) (m : BitVec 2) (sat : BitVec 1) (i : Instr) : Prop :=
  i ∈ [Instr.vadd p q hd ha hb m sat, .vsub p q hd ha hb m sat, .vmul p q hd ha hb m sat, .vfma p q hd ha hb m sat,
   .vmin p q hd ha hb m sat, .vmax p q hd ha hb m sat, .vabs p q hd ha m sat, .vneg p q hd ha m sat,
   .vscale p q hd ha hb m sat, .vclip p q hd ha hb m sat, .vexp p q hd ha m sat, .vlog p q hd ha m sat,
   .vrcp p q hd ha m sat, .vrsqrt p q hd ha m sat, .vtanh p q hd ha m sat, .vsigm p q hd ha m sat,
   .vsilu p q hd ha m sat, .verf p q hd ha m sat, .viadd p q hd ha hb sat, .visub p q hd ha hb sat,
   .vimul p q hd ha hb sat, .vimac p q hd ha hb sat, .vand p q hd ha hb sat, .vor p q hd ha hb sat,
   .vxor p q hd ha hb sat, .vshl p q hd ha hb sat, .vshr p q hd ha hb sat, .vrsh p q hd ha hb sat,
   .vclampi p q hd ha hb sat, .vcopy p q hd ha, .vfill p q hd ha m sat, .vcvt p q hd ha m sat, .vgath p q hd ha hb,
   .vscat p q hd ha hb, .vsel p q hd ha hb, .vsum p q hd ha m sat, .vmaxr p q hd ha m sat, .vminr p q hd ha m sat,
   .vdot p q hd ha hb m sat, .vcmp p q hd ha hb, .vhist p q hd ha, .vselk p q hd ha hb, .vmrg p q hd ha hb,
   .vcnt p q hd ha]

/-- R233, R235, R240 to R252: the 44 vector instructions of majors 40 to 45 are pushed. Completes: every vector instruction but
vloop, vend and vwait. -/
def Obligations.VectorPushes : Prop :=
  ∀ (p : BitVec 3) (q : BitVec 1) (hd ha hb : BitVec 5) (m : BitVec 2) (sat : BitVec 1),
    ∀ i, PushedMember p q hd ha hb m sat i → Pushes i p q

/-- R234, R237 to R239, R188, R189: vloop opens a body and vend closes it, both in the sequencer's order; vend with no open body,
and vloop in one, trap with cause 0x01. vwait holds its thread until the sequencer is empty. While the sequencer is frozen a push
of any of the 44 vector instructions, of vloop and of vend, and vwait, trap with cause 0x09; the spec names no ebad, which is free
(log 7). A vector fault is delivered as a trap at the thread's next issue turn, with epc the instruction's own pc and ebad the pc
of the instruction that would have issued; it freezes the sequencer, and eret lets it go on, from the entries that it holds and
their saved elements, the shape records checked again. Completes: vloop, vend, vwait, vectorFaultDelivery. -/
def Obligations.VectorLoops : Prop :=
  (∀ (p : BitVec 3) (q : BitVec 1) (n k : BitVec 5) (s : State) (t : Thread), s.Issues p q 4 t → t.seq.frozen = false →
    let e (i : Instr) : SeqEntry := { word := wordOf i, pc := t.pc, shb := t.shb, rnd := t.rnd, scl := t.scl, idx := 0, pass := 0,
                                      acc := [], recs := [] }
    let pushed (i : Instr) : State := s.retire s.cur { t with seq := Seq.settle { t.seq with ents := t.seq.ents ++ [e i] } }
    (t.seq.isOpen = true → exec (.vloop p q n k) s = .next (s.trap s.cur t 1 ((wordOf (.vloop p q n k)).setWidth 64))) ∧
    (t.seq.isOpen = false → exec (.vend p q) s = .next (s.trap s.cur t 1 ((wordOf (.vend p q)).setWidth 64))) ∧
    (t.seq.ents.length < 16 → (∀ x ∈ t.seq.ents, pcHigh x.pc = pcHigh t.pc) →
      (t.seq.isOpen = false → exec (.vloop p q n k) s = .next (pushed (.vloop p q n k))) ∧
      (t.seq.isOpen = true → t.seq.openLen ≠ 0 → exec (.vend p q) s = .next (pushed (.vend p q)))) ∧
    (t.seq.ents = [] → exec (.vwait p q) s = .next (s.retire s.cur t)) ∧
    (t.seq.ents ≠ [] → t.seq.isOpen = false → exec (.vwait p q) s = .next (s.wait s.cur t (.held .vwait)))) ∧
  (∀ (p : BitVec 3) (q : BitVec 1) (hd ha hb n k : BitVec 5) (m : BitVec 2) (sat : BitVec 1) (s : State) (t : Thread), s.Issues p q 4 t →
    t.seq.frozen = true → ∀ i, (PushedMember p q hd ha hb m sat i ∨ i ∈ [.vloop p q n k, .vend p q, .vwait p q]) →
      exec i s = .next (s.trap s.cur t 9 (Config.frozenEbad t.pc))) ∧
  (∀ (p : BitVec 3) (q : BitVec 1) (s : State) (t : Thread), s.Issues p q 4 t → t.sup = true → t.seq.frozen = true →
    ∃ u : Thread, exec (.eret p q) s = .next (s.setThread s.cur u) ∧ u.pc = t.epc ∧ u.sup = false ∧ u.tfl = false ∧ u.wait = .ready ∧
      u.seq.frozen = false ∧ u.seq.ents = t.seq.ents.map fun e => { e with recs := [] }) ∧
  (∀ (s : State) (tid cause : Nat) (t : Thread) (pc : Word), s.thread tid = some t → t.vecFault = some (cause, pc) → t.tfl = false →
    (s.ctx (cxOf (coreOf tid) t)).trace = 0 → ∃ u, exec (.vectorFaultDelivery tid) s = .next (s.setThread tid u) ∧ u.epc = pc ∧
      u.ebad = t.pc ∧ u.cause = BitVec.ofNat 8 cause ∧ u.pc = (s.ctx (cxOf (coreOf tid) t)).trapvec ∧ u.sup = true ∧ u.tfl = true ∧
      u.vecFault = none ∧ u.seq.frozen = true ∧ u.seq.ents = t.seq.ents ∧ u.g = t.g)

/-- A vector turn that serves slot position b of a core: the slot table gives it the cycle, its thread's sequencer holds the one
entry e, which is about to begin (R200, R235), and whose records are read and checked as the shapes l (R228). -/
def Sys2Proof.Machine.State.VectorTurn (s : State) (core b : Nat) (t : Thread) (e : SeqEntry) (l : List Shape) : Prop :=
  s.clock % 32 < 30 ∧ (s.core core).slotTab.getD (s.clock % 32) 0xFF = BitVec.ofNat 8 b ∧ b < 16 ∧ s.thread (16 * core + b) = some t ∧
  s.running (cxOf core t) = true ∧ t.wait ≠ .stopped ∧ t.vecFault = none ∧ t.seq = ⟨[e], false⟩ ∧ e.recs = [] ∧ e.acc = [] ∧ e.idx = 0 ∧
  e.pass = 0 ∧ 40 ≤ vMajor e.word ∧ vMajor e.word ≤ 45 ∧
  ∃ recs, s.vCheck core (cxOf core t) e 0 = .ok recs ∧ recs.map parseShape = l.map some

/-- A shape of one element of local store. -/
def Sys2Proof.Machine.Shape.single (h : Shape) : Prop := h.port = none ∧ h.dims.map (·.1) = [1, 1, 1, 1]

/-- The patterns of elements of a shape in local store. -/
def Sys2Proof.Machine.State.elems (s : State) (s0 : Nat) (h : Shape) (ns : List Nat) : List Nat := ns.map fun n => s.mem.read (h.key s0 n) h.fmt.bytes

/-- None of the elements lies in a word that holds uncorrectable data. -/
def Sys2Proof.Machine.State.goodElems (s : State) (s0 : Nat) (h : Shape) (ns : List Nat) : Prop := ∀ n ∈ ns, s.isBad (h.key s0 n) h.fmt.bytes = false

/-- A vector turn answers a state with the entry gone from the sequencer, memory m, and every other thread as it was. -/
def Sys2Proof.Machine.State.TurnGives (s : State) (core b : Nat) (t : Thread) (m : Mem) : Prop :=
  ∃ s2 : State, exec (.vectorGroup core) s = .next s2 ∧ s2.thread (16 * core + b) = some { t with seq := Seq.empty } ∧ s2.mem = m ∧
    ∀ j, j ≠ 16 * core + b → s2.thread j = s.thread j

/-- R200, R225 to R231: a vector turn. The slot that the table gives the cycle runs one group of its sequencer's head entry: shape
records are read from the table at shb and checked, and element i of HD takes the result of the elements i of HA and HB; a row
member takes a whole row, and writes its destinations at the row's end. Stated for entries that one group ends: one element of
every element-wise member, vfill, vgath, vscat and vsel, and one row of every row member. A record that cannot be read notes cause
0x09 for its thread's next issue turn. Completes: vectorGroup. -/
def Sys2Proof.vectorTurns : Prop :=
  (∀ (s : State) (core b : Nat) (t : Thread) (e : SeqEntry) (l : List Shape), s.VectorTurn core b t e l →
    let tid := 16 * core + b
    let cx := cxOf core t
    let w := e.word
    let s0 := s.s0Base core cx
    let pat (h : Shape) (n : Nat) : Nat := s.mem.read (h.key s0 n) h.fmt.bytes
    let old (x : Shape) : Nat := if readsD w then pat x 0 else 0
    let elementWise : Prop := vMajor w = 40 ∨ vMajor w = 41 ∨ vMajor w = 42 ∨ vMajor w = 43 ∧ (vFn w = 0 ∨ vFn w = 2) ∨
      vMajor w = 45 ∧ vFn w = 0
    (∀ x y, l = [x, y] → x.single → y.single → elementWise → s.goodElems s0 y [0] → (readsD w = true → s.goodElems s0 x [0]) →
      s.TurnGives core b t (s.mem.write (x.key s0 0) x.fmt.bytes (s.vElem tid cx e x y x (pat y 0) 0 (old x)).1)) ∧
    (∀ x y z, l = [x, y, z] → x.single → y.single → z.single → elementWise → s.goodElems s0 y [0] → s.goodElems s0 z [0] →
      (readsD w = true → s.goodElems s0 x [0]) →
      s.TurnGives core b t (s.mem.write (x.key s0 0) x.fmt.bytes (s.vElem tid cx e x y z (pat y 0) (pat z 0) (old x)).1)) ∧
    (∀ x y, l = [x, y] → x.single → y.port = none → vMajor w = 43 → vFn w = 1 → s.goodElems s0 y [0] →
      s.TurnGives core b t (s.mem.write (x.key s0 0) x.fmt.bytes (s.vElem tid cx e x y x (pat y 0) 0 0).1)) ∧
    (∀ x y z, l = [x, y, z] → x.port = none → y.port = none → z.single → vMajor w = 43 → s.goodElems s0 z [0] →
      let i := z.fmt.int (pat z 0)
      (vFn w = 3 → x.single → (0 ≤ i → i < y.count → s.goodElems s0 y [i.toNat]) →
        s.TurnGives core b t (s.mem.write (x.key s0 0) x.fmt.bytes (if 0 ≤ i ∧ i < y.count then pat y i.toNat else 0))) ∧
      (vFn w = 4 → y.single → s.goodElems s0 y [0] → s.TurnGives core b t
        (if 0 ≤ i ∧ i < x.count then s.mem.write (x.key s0 i.toNat) x.fmt.bytes (pat y 0) else s.mem)) ∧
      (vFn w = 5 → x.single → y.single → s.goodElems s0 y [0] → (i ≠ 0 → s.goodElems s0 x [0]) → s.TurnGives core b t
        (if i ≠ 0 then s.mem.write (x.key s0 0) x.fmt.bytes (pat y 0) else s.mem))) ∧
    (∀ (ds : List Shape) (a : Shape) (r : List Shape), l = ds ++ a :: r → ds.length = destCount w → perRow w = true →
      (∀ h ∈ l, h.port = none) → a.dims.tail.map (·.1) = [1, 1, 1] → a.len ≤ laneCount w l →
      let ns := List.range a.len
      let two := decide (vMajor w = 44) && !r.isEmpty
      let row := if two then ((s.elems s0 a ns).zip (s.elems s0 (r.headD a) ns)).flatMap fun x => [x.1, x.2] else s.elems s0 a ns
      let more := (rowExtras w l 0).map fun x => s.elems s0 x.1 x.2
      s.goodElems s0 a ns → (two = true → s.goodElems s0 (r.headD a) ns) → (∀ x ∈ rowExtras w l 0, s.goodElems s0 x.1 x.2) →
      s.TurnGives core b t (s.rowsWrite tid s0 w l [(0, (s.rowOut tid cx e l row more).1)]).mem)) ∧
  (∀ (s : State) (core b cause : Nat) (t : Thread) (e : SeqEntry),
    let tid := 16 * core + b
    let cx := cxOf core t
    s.clock % 32 < 30 → (s.core core).slotTab.getD (s.clock % 32) 0xFF = BitVec.ofNat 8 b → b < 16 → s.thread tid = some t →
    s.running cx = true → t.wait ≠ .stopped → t.vecFault = none → t.seq = ⟨[e], false⟩ → e.recs = [] → e.pass = 0 → e.isLoop = false →
    e.isEnd = false → s.vCheck core cx e 0 = .error cause → ∃ s2 : State, exec (.vectorGroup core) s = .next s2 ∧
      s2.thread tid = some { t with vecFault := some (cause, e.pc) } ∧ s2.mem = s.mem)

/-- R36, R240 to R245, R248: the element that each element-wise member writes. A float member's exact result is rounded once, in
the mode that the instruction captured, with one draw when it is stochastic; vabs and vneg between equal formats act on the
pattern. An integer member's exact result is saturated or cut to HD's width. vcopy writes the pattern, vfill and vcvt the converted
value, vcmp 1 or 0. -/
def Sys2Proof.vectorValues : Prop :=
  (∀ (s : State) (tid cx : Nat) (e : SeqEntry) (d a b : Shape) (pa pb pd : Nat),
    let w := e.word
    let mode := vMode w e.rnd
    let x := a.fmt.decode pa
    let y := b.fmt.decode pb
    let gives (r : Nat × State) : Prop := s.vElem tid cx e d a b pa pb pd = r
    let float (sat : Bool) (v : Ex) : Prop :=
      (mode ≠ .sr → gives (d.fmt.round mode 0 sat v, s)) ∧
      (mode = .sr → gives (d.fmt.round .sr (s.draw tid cx).1 sat v, (s.draw tid cx).2))
    let int (v : Int) : Prop := gives (if vSat w then d.fmt.saturate v else (v % 2 ^ d.fmt.width).toNat, s)
    let f := vFn w
    (vMajor w = 40 →
      (f = 0 → float (vSat w) (x.add y)) ∧ (f = 1 → float (vSat w) (x.sub y)) ∧ (f = 2 → float (vSat w) (x.mul y)) ∧
      (f = 3 → float (vSat w) ((x.mul y).add (d.fmt.decode pd))) ∧
      (f = 4 ∨ f = 5 → x.isNan = true ∨ y.isNan = true → float (vSat w) .nan) ∧
      (x.isNan = false → y.isNan = false →
        (f = 4 → float (vSat w) (if y.lessIeee x then y else x)) ∧ (f = 5 → float (vSat w) (if x.lessIeee y then y else x))) ∧
      (a.fmt ≠ d.fmt → (f = 6 → float (vSat w) x.abs) ∧ (f = 7 → float (vSat w) x.neg)) ∧
      (a.fmt = d.fmt → let h := 2 ^ (d.fmt.width - 1)
        (d.fmt.isTapered = false → (f = 6 → gives (pa % h, s)) ∧ (f = 7 → gives ((pa + h) % (2 * h), s))) ∧
        (d.fmt.isTapered = true → (f = 6 → gives (if h ≤ pa then (2 * h - pa) % (2 * h) else pa, s)) ∧
          (f = 7 → gives ((2 * h - pa) % (2 * h), s)))) ∧
      (f = 8 → (y = .nan → float (vSat w) .nan) ∧ (∀ n, y = .inf n → float (vSat w) (x.scale (if n then -1024 else 1024))) ∧
        (y.isNan = false → (∀ n, y ≠ .inf n) → float (vSat w) (x.scale (max (-1024) (min 1024 y.toInt))))) ∧
      (f = 9 → float (vSat w) (y.abs.neg.most (x.least y.abs)))) ∧
    (vMajor w = 41 → (f = 0 → float (vSat w) x.exp) ∧ (f = 1 → float (vSat w) x.log) ∧
      (f = 2 → float (vSat w) ((Ex.fin false 1 0).div x)) ∧ (f = 3 → float (vSat w) x.rsqrt) ∧ (f = 4 → float (vSat w) x.tanh) ∧
      (f = 5 → float (vSat w) x.sigm) ∧ (f = 6 → float (vSat w) x.silu) ∧ (f = 7 → float (vSat w) x.erf)) ∧
    (vMajor w = 42 → let i := x.toInt; let j := y.toInt; let n := (BitVec.ofInt 64 j).toNat % 64
      (f = 0 → int (i + j)) ∧ (f = 1 → int (i - j)) ∧ (f = 2 → int (i * j)) ∧ (f = 3 → int (d.fmt.int pd + i * j)) ∧
      (f = 4 → int (BitVec.ofInt 64 i &&& BitVec.ofInt 64 j).toInt) ∧ (f = 5 → int (BitVec.ofInt 64 i ||| BitVec.ofInt 64 j).toInt) ∧
      (f = 6 → int (BitVec.ofInt 64 i ^^^ BitVec.ofInt 64 j).toInt) ∧ (f = 7 → int (i * 2 ^ n)) ∧ (f = 8 → int (i / 2 ^ n)) ∧
      (f = 9 → int (if n = 0 then i else (i + 2 ^ (n - 1)) / 2 ^ n)) ∧ (f = 10 → int (if j < 0 then 0 else min (max i 0) j))) ∧
    (vMajor w = 43 → (f = 0 → gives (pa, s)) ∧ (f = 1 ∨ f = 2 → float (vSat w || a.fmt.isTapered) x)) ∧
    (vMajor w = 45 → f = 0 → gives ((vcmpTest d.cond a.fmt b.fmt pa pb).toNat, s))) ∧
  (∀ (f g : Fmt) (pa pb : Nat),
    let x := f.decode pa
    let y := g.decode pb
    let is (l : List Bool) : Prop := ∀ c, c < 8 → vcmpTest c f g pa pb = l.getD c false
    (f.isInt = true → is [x.toInt == y.toInt, x.toInt != y.toInt, decide (x.toInt < y.toInt), decide (x.toInt ≤ y.toInt),
      decide (y.toInt < x.toInt), decide (y.toInt ≤ x.toInt), false, true]) ∧
    (f.isInt = false → (f.isTapered && g.isTapered) = false → x.isNan = true ∨ y.isNan = true →
      is [false, true, false, false, false, false, true, false]) ∧
    (f.isInt = false → x.isNan = false → y.isNan = false →
      is [x.eqv y, !x.eqv y, x.lt y, x.lt y || x.eqv y, !x.lt y && !x.eqv y, !x.lt y, false, true]) ∧
    (f.isTapered = true → g.isTapered = true → f.isInt = false →
      (x.isNan = true → y.isNan = true → is [true, false, false, true, false, true, false, true]) ∧
      (x.isNan = true → y.isNan = false → is [false, true, true, true, false, false, false, true]) ∧
      (x.isNan = false → y.isNan = true → is [false, true, false, false, true, true, false, true])))

/-- R50, R246, R247, R249 to R252: what each row member writes for a row. A float reduction sums by the fixed tree and rounds once,
an integer one is exact; vhist counts the valid elements by bucket; vcnt counts those that are valid and not 0; vselk takes the
elements of the buckets above the threshold, then of its bucket, up to k, and pads; vmrg keeps one entry of each index, of the
lowest origin, in the order of key and index, and pads. -/
def Sys2Proof.vectorRows : Prop :=
  (∀ (s : State) (tid cx : Nat) (e : SeqEntry) (d a b : Shape) (row : List Nat),
    let w := e.word
    let one (l : List Shape) (v : Nat) (u : State) : Prop := s.rowOut tid cx e l row [] = ([[v]], u)
    let float (l : List Shape) (v : Ex) : Prop := let r := s.roundTo tid cx d.fmt (vMode w e.rnd) (vSat w) v; one l r.1 r.2
    let int (l : List Shape) (v : Int) : Prop := one l (if vSat w then d.fmt.saturate v else (v % 2 ^ d.fmt.width).toNat) s
    let xs := row.map a.fmt.decode
    let pairs := (pairsOf row).map fun p => (a.fmt.decode p.1, b.fmt.decode p.2)
    (vMajor w = 44 → a.fmt.isInt = false →
      (vFn w = 0 → float [d, a] (reduceSum (a.fmt == .tf32) xs)) ∧
      (vFn w = 1 → float [d, a] (xs.tail.foldl Ex.most (xs.headD .nan))) ∧
      (vFn w = 2 → float [d, a] (xs.tail.foldl Ex.least (xs.headD .nan))) ∧
      (vFn w = 3 → float [d, a, b] (reduceSum (a.fmt == .tf32 || b.fmt == .tf32) (pairs.map fun p => p.1.mul p.2)))) ∧
    (vMajor w = 44 → a.fmt.isInt = true →
      (vFn w = 0 → int [d, a] (xs.map Ex.toInt).sum) ∧
      (vFn w = 1 → int [d, a] ((xs.map Ex.toInt).tail.foldl max ((xs.map Ex.toInt).headD 0))) ∧
      (vFn w = 2 → int [d, a] ((xs.map Ex.toInt).tail.foldl min ((xs.map Ex.toInt).headD 0))) ∧
      (vFn w = 3 → int [d, a, b] (pairs.map fun p => p.1.toInt * p.2.toInt).sum)) ∧
    (vMajor w = 45 → vFn w = 1 → s.rowOut tid cx e [d, a] row [] = ([(List.range 256).map fun c =>
      ((row.filterMap a.fmt.key).filter fun y => y / 2 ^ (a.fmt.width - 8) == c).length % 2 ^ d.fmt.width], s)) ∧
    (vMajor w = 45 → vFn w = 4 → one [d, a] (row.filter fun p => (a.fmt.key p).isSome && !(a.fmt.decode p).isZero).length s)) ∧
  (∀ (s : State) (tid cx : Nat) (e : SeqEntry) (d d1 d2 a a1 b b1 : Shape) (row h ia vb ib : List Nat), vMajor e.word = 45 →
    (vFn e.word = 2 →
      let l := selRow a.fmt (selThreshold d.len (h.map b.fmt.int)) d.len row
      s.rowOut tid cx e [d, d1, d2, a, b] row [h] = ([padTo d.len d.fmt.emptyVal (l.map (·.1)), padTo d.len (2 ^ d1.fmt.width - 1)
        (l.map fun x => if d1.fmt = .i64 then x.2 + coreOf tid % 2 ^ 24 * 2 ^ 32 else x.2), [l.length]], s)) ∧
    (vFn e.word = 3 →
      let l := (mergeRow a.fmt (row.zip ia ++ vb.zip ib)).take d.len
      s.rowOut tid cx e [d, d1, d2, a, a1, b, b1] row [ia, vb, ib] = ([padTo d.len d.fmt.emptyVal (l.map (·.1)),
        padTo d.len (2 ^ d1.fmt.width - 1) (l.map (·.2)), [l.length]], s))) ∧
  (∀ (k : Int) (h : List Int), selThreshold k h ≤ 255 ∧ (∀ c, c ≤ 255 → k ≤ (h.drop c).sum → c ≤ selThreshold k h ∧
    k ≤ (h.drop (selThreshold k h)).sum) ∧ ((∀ c, c ≤ 255 → (h.drop c).sum < k) → selThreshold k h = 0)) ∧
  (∀ (f : Fmt) (t k : Nat) (row : List Nat),
    let j (g : Nat → Bool) : List (Nat × Nat) := ((List.range row.length).zip row).filterMap fun x =>
      (f.key x.2).bind fun y => if g (y / 2 ^ (f.width - 8)) then some (x.2, x.1) else none
    selRow f t k row = (j (fun c => decide (t < c)) ++ j fun c => c == t).take k) ∧
  (∀ (f : Fmt) (l : List (Nat × Nat)),
    let idx (x : Nat × Nat) : Nat := x.2 % 2 ^ 32
    let org (x : Nat × Nat) : Nat := bits x.2 55 32
    let key (x : Nat × Nat) : Nat := (f.key x.1).getD 0
    let ok (x : Nat × Nat) : Prop := idx x ≠ 0xFFFFFFFF ∧ (f.key x.1).isSome = true
    (∀ x ∈ mergeRow f l, x ∈ l ∧ ok x ∧ ∀ y ∈ l, ok y → idx y = idx x → org x ≤ org y) ∧
    (∀ y ∈ l, ok y → ∃ x ∈ mergeRow f l, idx x = idx y) ∧
    (mergeRow f l).Pairwise fun x y => idx x ≠ idx y ∧ (key y < key x ∨ key y = key x ∧ idx x < idx y)) ∧
  (∀ (f : Fmt) (p : Nat), p < 2 ^ f.width →
    (f.isInt = true → f.isSigned = false → f.key p = some p) ∧
    (f.isInt = true → f.isSigned = true → f.key p = some ((p + 2 ^ (f.width - 1)) % 2 ^ f.width)) ∧
    (f.isFloat = true → (f.decode p).isNan = true → f.key p = none) ∧
    (f.isTapered = true → (f.decode p).isNan = false → f.key p = some ((p + 2 ^ (f.width - 1)) % 2 ^ f.width)) ∧
    (f.isFloat = true → f.isTapered = false → (f.decode p).isNan = false →
      f.key p = some (if p < 2 ^ (f.width - 1) then p + 2 ^ (f.width - 1) else 2 ^ f.width - 1 - p)))

/-- R36, R200, R225 to R231, R240 to R252: a vector turn runs one group of the head entry. What an entry that one group ends does,
for every member, and the value that each member writes. The values of the transcendental members are the model's (log 21), and so
are the destinations of vselk and vmrg and the rounding of vfill (log 31), a destination that is also read (log 62), an infinity or
-0 beside TF32 (log 63), and vfill of a tapered source beyond 448 (log 92). -/
def Obligations.VectorGroups : Prop := vectorTurns ∧ vectorValues ∧ vectorRows

/-- R254, R255, R257, R266, R273: a matrix instruction on a tile and rings of its context, all bound with slots large enough, takes
K from gK and enters the unit's queue in MatWait with mprog 0; the unit takes it at once where nothing it needs is held or needed
by an earlier one. A tile of another context traps with cause 0x04. An operation that has run its K steps is complete: with K = 0
at its admission. Completes: mma, mms, mmx, mmg, matrixAdmission. That the unit's work happens at one instant is the model's (log
57), and so is which of two ring faults ebad names (log 84). -/
def Obligations.MatrixIssue : Prop :=
  (∀ (p : BitVec 3) (q : BitVec 1) (acc ra rb : BitVec 3) (k : BitVec 4) (mf : BitVec 9) (s s1 : State) (t : Thread) (v : List Word),
    s.Issues p q 4 t → isService (coreOf s.cur) = false → s.Reads t [k] [] v s1 → t.mat = none → t.relaxed = [] →
    let c := coreOf s.cur
    ∀ i ∈ ([.mma p q acc ra rb k mf, .mms p q acc ra rb k mf, .mmx p q acc ra rb k mf, .mmg p q acc ra rb k mf] : List Instr),
      let w := wordOf i
      (s.ownsTile c (cxOf c t) acc.toNat = false → exec i s = .next (s.trap s.cur t 4 (BitVec.ofNat 64 acc.toNat))) ∧
      (s.ownsTile c (cxOf c t) acc.toNat = true → s.ringFault c (cxOf c t) (mPops w) = none →
        let entry : MatEntry := { tid := s.cur, word := w, a := 0, b := 0, la := 0, admitted := false, since := 0 }
        let queued := (s1.modCore c fun k => { k with matq := k.matq ++ [entry] }).wait s.cur
          { t with mat := some { word := w, n := (nth v 0).toNat % 2 ^ 32, live := true }, mprog := 0 } .mat
        let n := (s1.core c).matq.length
        exec i s = .next (if mayAdmit (queued.core c).matq n then queued.admitAt c n else queued) ∧
        ((s1.core c).matq = [] → (nth v 0).toNat % 2 ^ 32 = 0 → ∃ s2 : State, exec i s = .next s2 ∧
          s2.thread s.cur = some ({ t with mat := none, mprog := 0 } : Thread).past ∧ (s2.core c).matq = []))) ∧
  (∀ (s : State) (core i : Nat), ((List.range (s.core core).matq.length).find? (mayAdmit (s.core core).matq)) = some i →
    exec (.matrixAdmission core) s = .next (s.admitAt core i)) ∧
  (∀ (s : State) (core tid : Nat) (e : MatEntry) (t : Thread) (m : MatOp), (s.core core).matq = [e] → e.tid = tid →
    s.thread tid = some t → vMajor e.word = 48 → t.mat = some m → t.mprog = 0 → m.n = 0 → mZc e.word = false →
    ∃ s2 : State, s.admitAt core 0 = s2.retire tid { t with mat := none } ∧ (s2.core core).matq = [] ∧
      (s2.core core).acc = (s.core core).acc)

/-- The s0 offset of slot j after the head of a ring (R256, R262). -/
def Sys2Proof.stepSlot (r : Ring) (j : Nat) : Nat := r.base + r.tile * ((r.head + j) % r.depth)

/-- Element i, in format f, of slot j after the head of a ring whose s0 base is s0 (R262). -/
def Sys2Proof.stepElem (s : State) (s0 : Nat) (f : Fmt) (r : Ring) (j i : Nat) : Ex :=
  f.decode (s.mem.read (s0 + stepSlot r j + i * f.bytes) f.bytes)

/-- Doubleword i of metadata tile j. -/
def Sys2Proof.stepMeta (s : State) (s0 : Nat) (z : Ring) (j i : Nat) : Nat := s.mem.read (s0 + stepSlot z j + 8 * i) 8

/-- The position in its group that metadata tile j gives slot h of group g in column col: i of the quarter class, i0 or i1 of the
half class (R262). -/
def Sys2Proof.stepPos (s : State) (s0 : Nat) (w : Word32) (z : Ring) (j col g h : Nat) : Nat :=
  if mQuarter w then stepMeta s s0 z j col / 4 ^ g % 4
  else if h = 0 then stepMeta s s0 z j (2 * col + g / 16) / 16 ^ (g % 16) % 4
  else stepMeta s s0 z j (2 * col + g / 16) / 16 ^ (g % 16) / 4 % 4

/-- Slot h of group g in column col of compressed tile j. -/
def Sys2Proof.stepCompressed (s : State) (s0 : Nat) (w : Word32) (y : Ring) (j col g h : Nat) : Ex :=
  stepElem s s0 (mFmt w) y j ((if mQuarter w then g else 2 * g + h) * 64 + col)

/-- Element (k, col) of the dense tile that compressed tile j expands to: a slot's value at its position, zero elsewhere (R270). -/
def Sys2Proof.stepExpanded (s : State) (s0 : Nat) (w : Word32) (y z : Ring) (j k col : Nat) : Ex :=
  if stepPos s s0 w z j col (k / 4) 0 = k % 4 then stepCompressed s s0 w y j col (k / 4) 0
  else if mQuarter w = false ∧ stepPos s s0 w z j col (k / 4) 1 = k % 4 then stepCompressed s s0 w y j col (k / 4) 1
  else .zero false

/-- mmg with msk=1. -/
def Sys2Proof.stepMasked (w : Word32) : Bool := decide (vMajor w = 51) && mMsk w

/-- The K position of slot row of the metadata's column (R271). -/
def Sys2Proof.stepMaskedK (s : State) (s0 : Nat) (w : Word32) (z : Ring) (row col : Nat) : Nat :=
  if mQuarter w then 4 * row + stepPos s s0 w z 0 col row 0
  else 4 * (row / 2) + stepPos s s0 w z 0 col (row / 2) (row % 2)

/-- P(row, col): the products of a k-step of mma (R268), mms (R269), mmx (R270) and mmg (R271) on the rings RA, RB and RB + 1. -/
def Sys2Proof.stepProducts (s : State) (s0 : Nat) (w : Word32) (x y z : Ring) (row col : Nat) : List (Ex × Ex) :=
  let a (j i : Nat) : Ex := stepElem s s0 (mFmt w) x j i
  let b (i : Nat) : Ex := stepElem s s0 (mFmt w) y 0 i
  if vMajor w = 48 then (List.range 128).map fun k => (a 0 (row * 128 + k), b (k * 64 + col))
  else if vMajor w = 49 then (List.range 32).flatMap fun g => (List.range (if mQuarter w then 1 else 2)).map fun h =>
    (a 0 (row * 128 + 4 * g + stepPos s s0 w z 0 col g h), stepCompressed s s0 w y 0 col g h)
  else if vMajor w = 50 then
    if mT w then (List.range 128).map fun n => (a 0 (row * 128 + n), stepExpanded s s0 w y z (n / 64) (64 * mKh w + col) (n % 64))
    else (List.range 128).map fun k => (a 0 (row * 128 + k), stepExpanded s s0 w y z 0 k col)
  else if stepMasked w then (List.range 128).map fun m =>
    (a (stepMaskedK s s0 w z row col / 64) (m * 64 + stepMaskedK s s0 w z row col % 64), b (m * 64 + col))
  else (List.range 128).map fun m => (a 0 (m * 64 + row), b (m * 64 + col))

/-- Metadata tiles that a k-step reads. -/
def Sys2Proof.stepMetaTiles (w : Word32) : Nat :=
  if vMajor w = 49 then 1 else if vMajor w = 50 then (if mT w then 2 else 1) else if stepMasked w then 1 else 0

/-- An operation of thread tid, alone and admitted at the unit, with the rings x, y and z of RA, RB and RB + 1, whose slots for the
next k-step are filled (R265, R272). -/
def Sys2Proof.Machine.State.StepReady (s : State) (core tid : Nat) (w : Word32) (t : Thread) (m : MatOp) (x y z : Ring) : Prop :=
  (∃ e : MatEntry, (s.core core).matq = [e] ∧ e.admitted = true ∧ e.tid = tid ∧ e.word = w) ∧ s.thread tid = some t ∧ t.mat = some m ∧
  m.word = w ∧ 48 ≤ vMajor w ∧ vMajor w ≤ 51 ∧ mRa w ≠ mRb w ∧
  (s.core core).rings.find? (mRa w) = some x ∧ (if stepMasked w then 2 else 1) ≤ x.fill ∧
  (s.core core).rings.find? (mRb w) = some y ∧ max 1 (if vMajor w = 50 then stepMetaTiles w else 1) ≤ y.fill ∧
  (stepMetaTiles w ≠ 0 → mRa w ≠ mRb w + 1 ∧ (s.core core).rings.find? (mRb w + 1) = some z ∧ stepMetaTiles w ≤ z.fill)

/-- The scale record of the next k-step lies at key rec of the own local store (R263). -/
def Sys2Proof.Machine.State.ScalesAt (s : State) (core : Nat) (t : Thread) (rec : Nat) : Prop :=
  s.check core t.ctx (t.scl + BitVec.ofNat 64 (528 * t.mprog.toNat)) 528 segR 16 = .ok rec ∧ laRegion rec = 1 ∧ laCore rec = core ∧
  s.isBad rec 528 = false

/-- A half-class metadata word in which i0 < i1 does not hold everywhere (R262). -/
def Sys2Proof.stepIllegal (v : Nat) : Prop := ∃ g, g < 16 ∧ v / 16 ^ g / 4 % 4 ≤ v / 16 ^ g % 4

/-- R258 to R263, R266 to R273, R275: the accumulator and the rings. accz waits at the unit and sets its tile to +0; accrd and
accwr wait there with their operands. ringset binds the ring that it names to the descriptor in local store, empty; ringst marks n
slots filled and ringset's state is read by mpget. A k-step of the admitted operation adds, to each element of the tile that its
member writes, the exact sum of the member's product set, times the scales of its record (1 without sc), rounded once to FP32 and
once more by the addition, and pops its rings; the last step of an operation completes it, and pops the metadata of a masked mmg.
With an illegal nibble in half-class metadata the k-step applies nothing and traps with cause 0x0A and the s0 address of the first
word that holds one; a scale record that fails its checks traps with their cause. A transfer completes 72 cycles after its
admission: accrd has then written the tile, converted, to its rows, and accwr loaded it from them, at the place that was checked at
issue. Completes: matrixKStep, accz, accrd, accwr, accTransferDone, ringset, ringst, mpget. The unit that ebad names for
uncorrectable data, and its rank, are the model's (log 32). -/
def Obligations.MatrixState : Prop :=
  (∀ (p : BitVec 3) (q : BitVec 1) (n : BitVec 3) (a b d : BitVec 4) (s s1 : State) (t : Thread) (v : List Word),
    s.Issues p q 4 t → isService (coreOf s.cur) = false → t.relaxed = [] →
    let c := coreOf s.cur
    let cx := cxOf c t
    (s.Reads t [] [] v s1 → s1.ownsTile c cx n.toNat = true →
      exec (.accz p q n) s = .next (s1.matIssue s.cur t (wordOf (.accz p q n)) 0 0) ∧
      ((s1.core c).matq = [] → ∃ s2 : State, exec (.accz p q n) s = .next s2 ∧
        s2.thread s.cur = some t.past ∧
        (s2.core c).acc = (s1.core c).acc.filter fun x => x.1 / 4096 != n.toNat)) ∧
    (∀ f, s.Reads t [a, b] [] v s1 → s1.ownsTile c cx n.toNat = true → Fmt.ofCode ((nth v 1).toNat % 16) = some f →
      let i := (nth v 0).toNat / 2 ^ 61
      let la := (if i = 0 then s1.s0Base c cx else (s1.seg c t.ctx i).base) + (nth v 0).toNat % 2 ^ 61
      (accControl (nth v 1).toNat true = true → s1.rowFault c t (nth v 0) (nth v 1).toNat f segW = none →
        exec (.accrd p q n a b) s = .next (s1.matIssue s.cur t (wordOf (.accrd p q n a b)) (nth v 0) (nth v 1) la)) ∧
      (accControl (nth v 1).toNat false = true → s1.rowFault c t (nth v 0) (nth v 1).toNat f segR = none →
        exec (.accwr p q n a b) s = .next (s1.matIssue s.cur t (wordOf (.accwr p q n a b)) (nth v 0) (nth v 1) la)) ∧
      (∀ j, (s1.core c).matq = [] → 72 ≤ j →
        (accControl (nth v 1).toNat true = true → s1.rowFault c t (nth v 0) (nth v 1).toNat f segW = none →
          ∃ u w : State, exec (.accrd p q n a b) s = .next u ∧
            exec (.accTransferDone s.cur) { u with clock := u.clock + j } = .next w ∧ w.thread s.cur = some t.past) ∧
        (accControl (nth v 1).toNat false = true → s1.rowFault c t (nth v 0) (nth v 1).toNat f segR = none →
          (∀ i ∈ tileOrder, s1.isBad (la + accPitch (nth v 1).toNat f * i.1 + i.2 * f.bytes) f.bytes = false) →
          ∃ u w : State, exec (.accwr p q n a b) s = .next u ∧
            exec (.accTransferDone s.cur) { u with clock := u.clock + j } = .next w ∧ w.thread s.cur = some t.past))) ∧
    (∀ la, s.Reads t [a] [] v s1 → s1.ownsRing c cx n.toNat = true → s1.check c t.ctx (nth v 0) 16 segR 16 = .ok la →
      laRegion la = 1 → laCore la = c → s1.isBad la 16 = false →
      let base := s1.mem.read la 4
      let tile := s1.mem.read (la + 4) 4
      let depth := s1.mem.read (la + 8) 2
      s1.mem.read (la + 10) 6 = 0 → base % 256 = 0 → tile % 256 = 0 → 256 ≤ tile → tile ≤ 65536 → 1 ≤ depth → depth ≤ 128 →
      base + tile * depth ≤ (s1.seg c t.ctx 0).limit → (s1.seg c t.ctx 0).rights % 2 = 1 →
      exec (.ringset p q n a) s = .next (s1.matIssue s.cur t (wordOf (.ringset p q n a)) (BitVec.ofNat 64 (base + tile * 2 ^ 32))
        (BitVec.ofNat 64 depth)) ∧
      ((s1.core c).matq = [] → ∃ s2 : State, exec (.ringset p q n a) s = .next s2 ∧
        s2.thread s.cur = some t.past ∧
        (s2.core c).rings.find? n.toNat = some ⟨base, tile, depth, 0, 0, 0⟩)) ∧
    (∀ r, s.Reads t [b] [] v s1 → s1.ownsRing c cx n.toNat = true → (s1.core c).rings.find? n.toNat = some r →
      let k := (nth v 0).toNat % 65536
      (r.fill + k ≤ r.depth → exec (.ringst p q n b) s = .next ((s1.modCore c fun x =>
        { x with rings := x.rings.put n.toNat { r with tail := (r.tail + k) % r.depth, fill := r.fill + k } }).retire s.cur t)) ∧
      (r.fill ≤ r.depth → r.depth < r.fill + k →
        exec (.ringst p q n b) s = .next (s.trap s.cur t 0x0B (BitVec.ofNat 64 (n.toNat + 512))))) ∧
    (s.Reads t [] [d] [] s → s.ownsRing c cx n.toNat = true → ((s.core c).rings.find? n.toNat = none →
        State.writeRefused s.cur d 0 = false → exec (.mpget p q d n) s = .next (s.result s.cur t d 0)) ∧
      (∀ r, (s.core c).rings.find? n.toNat = some r → (s.core c).matq = [] →
        let w := BitVec.ofNat 64 (2 ^ 63 + r.depth * 2 ^ 24 + r.fill * 2 ^ 16 + r.tail * 2 ^ 8 + r.head)
        State.writeRefused s.cur d w = false → exec (.mpget p q d n) s = .next (s.result s.cur t d w)))) ∧
  (∀ (s : State) (core tid rec : Nat) (w : Word32) (t : Thread) (m : MatOp) (x y z : Ring), s.StepReady core tid w t m x y z →
    let s0 := s.s0Base core (cxOf core t)
    let bytes := (mFmt w).bytes
    let na := if stepMasked w then 2 else 1
    let nb := if vMajor w = 50 then stepMetaTiles w else 1
    let compact := vMajor w = 49 ∨ vMajor w = 50
    let fp (k : Nat) : Ex := Fmt.fp32.decode (s.mem.read k 4)
    let sa (row col : Nat) : Ex :=
      if mSc w then fp (rec + 4 * if stepMasked w then stepMaskedK s s0 w z row col else row) else .fin false 1 0
    let sb : Ex := if mSc w then fp (rec + 512) else .fin false 1 0
    let popped (r : Ring) (n : Nat) : Ring := { r with head := (r.head + n) % r.depth, fill := r.fill - n }
    let last := t.mprog.toNat + 1 = m.n
    (mSc w = true → s.ScalesAt core t rec) → m.n < 2 ^ 32 → t.mprog.toNat + 1 ≤ m.n → (s.core core).acc.Sorted →
    (∀ j, j < stepMetaTiles w → s.isBad (s0 + stepSlot z j) (if mQuarter w then 512 else 1024) = false ∧
      (mQuarter w = false → ∀ i, i < 128 → ¬ stepIllegal (stepMeta s s0 z j i))) →
    (∀ j, j < na → s.isBad (s0 + stepSlot x j) (8192 * bytes) = false) →
    (∀ j, j < nb → s.isBad (s0 + stepSlot y j) (if compact then (if mQuarter w then 2048 else 4096) * bytes else 8192 * bytes) = false) →
    ∃ s2 : State, exec (.matrixKStep core) s = .next s2 ∧ s2.mem = s.mem ∧ (∀ i, i ≠ tid → s2.thread i = s.thread i) ∧
      (∀ row col, row < 64 → col < 64 →
        (row < 32 ∨ stepMasked w = false ∨ mQuarter w = false → (s2.core core).accAt (mAcc w) row col =
          Fmt.fp32.round .rne 0 true ((Fmt.fp32.decode ((s.core core).accAt (mAcc w) row col)).add
            (((exactSum (stepProducts s s0 w x y z row col)).mul (sa row col)).mul sb).roundFp32) % 2 ^ 32) ∧
        (32 ≤ row → stepMasked w = true → mQuarter w = true →
          (s2.core core).accAt (mAcc w) row col = (s.core core).accAt (mAcc w) row col) ∧
        ∀ tile, tile < 8 → tile ≠ mAcc w → (s2.core core).accAt tile row col = (s.core core).accAt tile row col) ∧
      (s2.core core).rings.find? (mRa w) = some (popped x na) ∧ (s2.core core).rings.find? (mRb w) = some (popped y nb) ∧
      (compact → (s2.core core).rings.find? (mRb w + 1) = some (popped z nb)) ∧
      (stepMasked w = true → (last → (s2.core core).rings.find? (mRb w + 1) = some (popped z 1)) ∧
        (¬ last → (s2.core core).rings.find? (mRb w + 1) = some z)) ∧
      (¬ last → s2.thread tid = some { t with mprog := t.mprog + 1 } ∧ (s2.core core).matq = (s.core core).matq) ∧
      (last → s2.thread tid = some ({ t with mat := none, mprog := t.mprog + 1 } : Thread).past ∧ (s2.core core).matq = [])) ∧
  (∀ (s : State) (core tid rec : Nat) (w : Word32) (t : Thread) (m : MatOp) (x y z : Ring), s.StepReady core tid w t m x y z →
    t.tfl = false → (s.ctx (cxOf (coreOf tid) t)).trace = 0 →
    let s0 := s.s0Base core (cxOf core t)
    let va := t.scl + BitVec.ofNat 64 (528 * t.mprog.toNat)
    let at_ := s.check core t.ctx va 528 segR 16
    let faults (cause : Nat) (ebad : Word) : Prop := ∃ (s2 : State) (u : Thread), exec (.matrixKStep core) s = .next s2 ∧
      s2.mem = s.mem ∧ (s2.core core).acc = (s.core core).acc ∧ (s2.core core).rings = (s.core core).rings ∧ (s2.core core).matq = [] ∧
      s2.thread tid = some u ∧ u.cause = BitVec.ofNat 8 cause ∧ u.ebad = ebad ∧ u.epc = t.pc ∧ u.mprog = t.mprog ∧ u.tfl = true ∧
      u.sup = true ∧ u.mat = some { m with live := false }
    ((mSc w = true → s.ScalesAt core t rec) → mQuarter w = false → ∀ j i, j < stepMetaTiles w → i < 128 →
      (∀ k, k ≤ j → s.isBad (s0 + stepSlot z k) 1024 = false) →
      (∀ k l, k < stepMetaTiles w → l < 128 → k < j ∨ k = j ∧ l < i → ¬ stepIllegal (stepMeta s s0 z k l)) →
      stepIllegal (stepMeta s s0 z j i) → faults 0x0A (BitVec.ofNat 64 (stepSlot z j + 8 * i))) ∧
    (mSc w = true →
      (∀ f, at_ = .error f → faults f.cause f.ebad) ∧
      (∀ la, at_ = .ok la → laRegion la ≠ 1 ∨ laCore la ≠ core → faults 0x0C va) ∧
      (∀ la, at_ = .ok la → laRegion la = 1 → laCore la = core → s.isBad la 528 = true → faults 8 va))) ∧
  (∀ (s : State) (core tid : Nat) (e : MatEntry) (t : Thread), (s.core core).matq = [e] → e.tid = tid → s.thread tid = some t →
    e.word.toNat / 2 ^ 26 = 52 →
    (e.word.toNat % 1024 = 0 → ∃ s2 : State, s.admitAt core 0 = s2.retire tid t ∧
      (s2.core core).acc = (s.core core).acc.filter fun x => x.1 / 4096 != bits e.word.toNat 21 18) ∧
    (e.word.toNat % 1024 = 3 → ∃ s2 : State, s.admitAt core 0 = s2.retire tid t ∧
      (s2.core core).rings.find? (bits e.word.toNat 21 18) =
        some ⟨e.a.toNat % 2 ^ 32, e.a.toNat / 2 ^ 32, e.b.toNat, 0, 0, 0⟩)) ∧
  (∀ (s : State) (tid : Nat) (e : MatEntry) (t : Thread) (f : Fmt), s.thread tid = some t →
    ((s.core (coreOf tid)).matq.find? fun e => e.tid == tid) = some e → e.admitted = true → vMajor e.word = 52 →
    Fmt.ofCode (e.b.toNat % 16) = some f →
    let c := coreOf tid
    let x := e.b.toNat
    let tile := bits e.word.toNat 21 18
    let mode := modeOf (BitVec.ofNat 2 (bits x 5 4)) t.rnd
    (s.clock < e.since + 72 → exec (.accTransferDone tid) s = .next s) ∧
    (e.since + 72 ≤ s.clock →
      let key (i : Nat × Nat) : Nat := e.la + accPitch x f * i.1 + i.2 * f.bytes
      (e.word.toNat % 1024 = 1 → ∃ s2 : State, exec (.accTransferDone tid) s = .next s2 ∧ s2.thread tid = some t.past ∧
        (∀ j, j ≠ tid → s2.thread j = s.thread j) ∧
        (mode ≠ .sr → s2.mem = (tileOrder.map fun i => (key i, f.round mode 0 (x.testBit 6)
          (Fmt.fp32.decode ((s.core c).accAt tile i.1 i.2)))).foldl (fun m y => m.write y.1 f.bytes y.2) s.mem) ∧
        (s2.core c).acc = if x.testBit 7 then (s.core c).acc.filter fun y => y.1 / 4096 != tile else (s.core c).acc) ∧
      (e.word.toNat % 1024 = 2 → (∀ i ∈ tileOrder, s.isBad (key i) f.bytes = false) → ∃ s2 : State,
        exec (.accTransferDone tid) s = .next s2 ∧ s2.thread tid = some t.past ∧ (∀ j, j ≠ tid → s2.thread j = s.thread j) ∧
        s2.mem = s.mem ∧ (mode ≠ .sr → (s.core c).acc.Sorted → ∀ row col, row < 64 → col < 64 → (s2.core c).accAt tile row col =
          Fmt.fp32.round mode 0 true (f.decode (s.mem.read (key (row, col)) f.bytes)) % 2 ^ 32))))

/-- R298, R299, R302, R304 to R306, R308, R312: copy commands. cpy, cpyd and cpyf read their descriptors from local store, check
their ranges and send the command to its engine; the thread waits, and its destination takes the ticket number with which the
engine accepted it: sequence number and engine. A full queue, or a combined command of its core in front, leaves the command
waiting. cpyq gives the state of a command. A command that combines opens a window, or joins an open one of its like; a window
closes 256 cycles after it opened, and its members go to the engine as one group. A command of one element of a local store, by
cpyf or by cpy without a conversion, writes that element in a DMA turn of its core, then the ticket, 1 element and DONE, in a DMA
turn of the ticket's core (log 73). An engine that lacks a page asks for its walk and waits (R294). Completes: cpy, cpyd, cpyf,
cpyq, copyCommandAccept, copyCommandCompletion, combiningWindowClose. That a copy is made at one instant, and its order of reads
and writes, is the model's (log 35), and so is that a command waits behind a combined command of its core (log 37), and which DMA
turns it takes (log 73). -/
def Obligations.CopyCommands : Prop :=
  (∀ (p : BitVec 3) (q : BitVec 1) (d a b : BitVec 4) (s s1 : State) (t : Thread) (v : List Word) (la : Nat) (x : CopyDesc)
      (r : List CopyDesc), s.Issues p q 4 t → s.Reads t [a, b] [d] v s1 →
    let c := coreOf s.cur
    let n (kind : Nat) : Nat := if kind = 0 then (nth v 1).toNat % 16 + 1 else 1
    let e := s1.engineFor c x
    let cmd (kind : Nat) : CopyCmd := { core := c, ctx := t.ctx, kind := kind, descs := x :: r, val := nth v 1, eng := e, seq := 0 }
    let word (kind : Nat) : Word32 := match kind with
      | 0 => wordOf (.cpy p q d a b)
      | 1 => wordOf (.cpyd p q d a b)
      | _ => wordOf (.cpyf p q d a b)
    let req (kind n : Nat) : Wait := .mem { kind := .cpy, word := word kind, d := d, n := n }
    let goes (kind : Nat) : State := (s1.send c (engPlace e) 0 (.copy e (cmd kind) s.cur)).wait s.cur t (req kind 0)
    let good (kind : Nat) : Prop := s1.check c t.ctx (nth v 0) (128 * n kind) segR 128 = .ok la ∧ laRegion la = 1 ∧ laCore la = c ∧
      s1.isBad la (128 * n kind) = false ∧ s1.copyChain c t.ctx kind (nth v 1) la (n kind) = .ok (x :: r)
    let ticket := (s1.engine e).seq % 2 ^ 24 * 256 + e % 128
    let free (kind : Nat) : Prop := (cmd kind).combines = false ∧ s1.behindCombined (cmd kind) = false ∧
      (s1.engine (s1.takesFor e)).queue.length < 64 ∧ (∀ m ∈ s1.net, ¬ (m.src = c ∧ m.dst = engPlace e ∧ m.chan = 0)) ∧
      s1.fab.reaches (placeDie c) (placeDie (engPlace e)) = true ∧ State.writeRefused s.cur d (BitVec.ofNat 64 ticket) = false
    let gives (kind : Nat) (i : Instr) : Prop := exec i s = .next (goes kind) ∧ (free kind → ∃ w : State,
      exec (.copyCommandAccept s1.net.length) (goes kind) = .next w ∧ w.thread s.cur = some (t.waiting (req kind (ticket + 1))) ∧
      exec (.memoryReply s.cur) w = .next (w.result s.cur (t.waiting (req kind (ticket + 1))) d (BitVec.ofNat 64 ticket)))
    (good 0 → gives 0 (.cpy p q d a b)) ∧ (good 1 → gives 1 (.cpyd p q d a b)) ∧ (good 2 → gives 2 (.cpyf p q d a b))) ∧
  (∀ (p : BitVec 3) (q : BitVec 1) (d a : BitVec 4) (s s1 : State) (t : Thread) (v : List Word), s.Issues p q 4 t →
    s.Reads t [a] [d] v s1 →
    let w : Wait := .mem { kind := .cpyq, word := wordOf (.cpyq p q d a), d := d, vals := [nth v 0] }
    let u := s1.wait s.cur t w
    let pkg := corePkg (coreOf s.cur)
    let n := BitVec.ofNat 64 (u.copyState pkg (nth v 0))
    exec (.cpyq p q d a) s = .next u ∧ (State.writeRefused s.cur d n = false → exec (.memoryReply s.cur) u =
      .next ((u.exchange (coreOf s.cur) (engPlace (128 * pkg + (nth v 0).toNat % 128))).result s.cur (t.waiting w) d n))) ∧
  (∀ (s : State) (tid : Nat) (t : Thread) (r : Req), s.thread tid = some t → t.wait = .mem r → r.locs = [] →
    (r.kind = .cpy → r.n ≠ 0 → State.writeRefused tid r.d (BitVec.ofNat 64 (r.n - 1)) = false →
      exec (.memoryReply tid) s = .next (s.result tid t r.d (BitVec.ofNat 64 (r.n - 1)))) ∧
    (∀ n, r.kind = .cpyq → n = BitVec.ofNat 64 (s.copyState (corePkg (coreOf tid)) (nth r.vals 0)) →
      State.writeRefused tid r.d n = false → exec (.memoryReply tid) s =
        .next ((s.exchange (coreOf tid) (engPlace (128 * corePkg (coreOf tid) + (nth r.vals 0).toNat % 128))).result tid t r.d n))) ∧
  (∀ (s s1 : State) (n : Nat) (m : Msg) (e : Nat) (cmd : CopyCmd) (tid : Nat), s.deliver n = some (m, s1) →
    m.body = .copy e cmd tid → cmd.eng = e →
    let seq := (s.engine e).seq % 2 ^ 24
    let job : Job := { cmds := [{ cmd with seq := seq }], combined := false, run := none, turns := [] }
    let open_ := (s1.cluster (engCluster e)).windows.any fun w => w.isOpen s1.clock
    let alone : Prop := cmd.combines = false ∨ (cmd.joins = false ∧ open_ = true)
    (alone → s1.behindCombined cmd = false → (s1.engine (s1.takesFor e)).queue.length < 64 →
      exec (.copyCommandAccept n) s =
      .next (((s1.modEngine e fun k => { k with seq := k.seq + 1 }).modEngine (s1.takesFor e) fun k =>
        { k with queue := k.queue ++ [job] }).answer m.dst (some tid) .cpy (seq * 256 + e % 128 + 1))) ∧
    (alone → s1.behindCombined cmd = true ∨ 64 ≤ (s1.engine (s1.takesFor e)).queue.length →
      exec (.copyCommandAccept n) s = .next s) ∧
    (cmd.combines = true → open_ = false → exec (.copyCommandAccept n) s =
      .next (((s1.modEngine e fun k => { k with seq := k.seq + 1 }).modCluster (engCluster e) fun k =>
        { k with windows := k.windows ++ [{ since := s1.clock, members := [{ cmd with seq := seq }] }] }).answer m.dst (some tid) .cpy
          (seq * 256 + e % 128 + 1))) ∧
    (∀ w y l r, cmd.combines = true → cmd.joins = true → (s1.cluster (engCluster e)).windows = w :: r → w.members = y :: l → w.isOpen s1.clock = true →
      sameCopy { cmd with seq := seq } y = true → w.members.length < 36 → exec (.copyCommandAccept n) s =
      .next (((s1.modEngine e fun k => { k with seq := k.seq + 1 }).modCluster (engCluster e) fun k =>
        { k with windows := { w with members := w.members ++ [{ cmd with seq := seq }] } :: r }).answer m.dst (some tid) .cpy
          (seq * 256 + e % 128 + 1)))) ∧
  (∀ (s : State) (cl : Nat) (w : CombWindow) (r : List CombWindow) (m : CopyCmd) (l : List CopyCmd), (s.cluster cl).windows = w :: r →
    w.members = m :: l →
    (w.since + 256 ≤ s.clock → (s.engine (s.takesFor m.eng)).queue.length < 64 → exec (.combiningWindowClose cl) s =
      .next ((s.modCluster cl fun k => { k with windows := r }).modEngine (s.takesFor m.eng) fun k =>
        { k with queue := k.queue ++ [{ cmds := w.members, combined := true, run := none, turns := [] }] })) ∧
    (s.clock < w.since + 256 → exec (.combiningWindowClose cl) s = .next s)) ∧
  (∀ (s : State) (e : Nat) (j : Job) (x : CopyCmd) (d : CopyDesc), (s.engine e).queue = [j] → j.cmds = [x] → x.descs = [d] →
    j.run = none → j.combined = false → (s.engine e).disabled = false → descBad x d = false → d.stream = false → d.count = 1 →
    let pkg := corePkg (clBase (engCluster e))
    laRegion d.dst = 1 → s.decodes pkg d.dst = true → d.dst % 65536 + d.wd ≤ 65536 → s.engLinked e d.dst = true →
    s.engLinked e d.src = true → d.hasTkt = true → laRegion d.tkt = 1 → d.tkt % 8 = 0 → s.coreOk (laCore d.tkt) = true → d.ctr.testBit 7 = false →
    let left := s.turnsLeft e
    (s.engNeeds e j = none → left ≠ [] → e < 2 ^ 43 → exec (.copyCommandCompletion e) s = .next s) ∧
    ∀ n, ((n = e ∧ e < 2 ^ 43 ∧ left = []) ∨ ∃ c, n = 2 ^ 43 + 2 ^ 24 * e + c ∧ c < 2 ^ 24 ∧ left = [c]) →
    let wrote (v : Nat) : Prop := ∃ s1 s2 : State, exec (.copyCommandCompletion n) s = .next s1 ∧
      s1.mem = s.mem.write d.dst d.wd v ∧ s1.threads = s.threads ∧ s1.turnsLeft e = [laCore d.tkt] ∧
      exec (.copyCommandCompletion (2 ^ 43 + 2 ^ 24 * e + laCore d.tkt)) s1 = .next s2 ∧
      s2.mem = s1.mem.write d.tkt 8 (1 * 2 ^ 16 + 1) ∧ s2.isFull d.tkt = true ∧ (s2.engine e).queue = [] ∧ s2.threads = s.threads
    (x.kind = 2 → wrote (x.val.toNat % 2 ^ (8 * d.wd))) ∧
    (x.kind = 0 → d.expand = false → d.compress = false → d.fmts % 16 = d.fmts / 16 → laRegion d.src = 1 →
      s.decodes pkg d.src = true → d.src % 65536 + d.ws ≤ 65536 → s.isBad d.src d.ws = false → wrote (s.mem.read d.src d.ws))) ∧
  (∀ (s : State) (e : Nat) (j : Job) (l : List Job) (x : CopyCmd) (y : List CopyCmd) (d : CopyDesc) (r : List CopyDesc) (a : Nat × Nat),
    e < 2 ^ 43 → (s.engine e).queue = j :: l → j.cmds = x :: y → x.descs = d :: r → s.engLinked e d.src = true →
    (d.stream = true ∨ s.engLinked e d.dst = true) → s.engNeeds e j = some a →
    exec (.copyCommandCompletion e) s = .next (s.askWalk a.1 a.2 (.engine e)))

/-- The buffer of an input stream in whole words, its tail at one of them. -/
def Sys2Proof.Machine.Port.Laid (y : Port) : Prop :=
  y.base % 8 = 0 ∧ y.size % 8 = 0 ∧ y.tail % 8 = 0 ∧ y.base ≤ y.tail ∧ y.tail < y.base + y.size

/-- A delivery has entered the buffer of a stream (R145, R214): from the tail on, wrapping at the end, each of its words that came
good holds its eight bytes and is full, each that came uncorrectable is left as it was and empty; no other byte of memory and no
other word's full-empty bit has changed. -/
def Sys2Proof.Machine.State.Entered (s s2 : State) (c : Nat) (y : Port) (d : Delivery) : Prop :=
  let la (i : Nat) : Nat := lsAddr c (y.base + (y.tail - y.base + 8 * i) % y.size)
  let word (i : Nat) : Prop := 8 * i + 8 ≤ d.data.length
  (∀ i, word i →
    (NatSet.has d.bad i = false → s2.isFull (la i) = true ∧ ∀ j, j < 8 → s2.mem.byte (la i + j) = d.data.getD (8 * i + j) 0) ∧
    (NatSet.has d.bad i = true → s2.isFull (la i) = false ∧ ∀ j, j < 8 → s2.mem.byte (la i + j) = s.mem.byte (la i + j))) ∧
  (∀ k, (∀ i, word i → k < la i ∨ la i + 8 ≤ k) → s2.mem.byte k = s.mem.byte k) ∧
  (∀ k, (∀ i, word i → k / 8 ≠ la i / 8) → s2.isFull k = s.isFull k)

/-- R198, R209, R211, R212, R214, R217, R229: streams, while their context neither records nor replays. sbind binds a port to the
descriptor in local store and empties the words of its buffer, sfree unbinds it and reports what was held for it as refused, xstat
reads its status: 0 where nothing is bound; each waits in SyncWait while a pending entry of the sequencer names the port, and slot
15 binds no stream. A delivery goes in at the tail, where its words take its bytes and become full and nothing else of memory
changes, or waits for room; one that breaks a rule, or finds no stream, is refused; one that waited 2,048 cycles goes to the
overflow queue, from which it enters again in order. A Vacant slot 14 binds a thread at the transform entry pc once a block is
queued, slot 15 at the communication entry pc. Completes: sbind, sfree, xstat, streamDelivery, streamDeliveryTimeout,
overflowDeliveryReentry, transformThreadBind, commThreadBind. What xstat reads in slot 15, the refusal of a delivery for another
context and the report of discarded deliveries as refused are the model's (log 34), and so is the ring that the overflow queue is
written to (log 23). -/
def Obligations.Streams : Prop :=
  (∀ (p : BitVec 3) (q : BitVec 1) (d a : BitVec 4) (x : BitVec 2) (s s1 : State) (t : Thread) (v : List Word) (la : Nat),
    s.Issues p q 4 t →
    let c := coreOf s.cur
    let key := 4 * slotOf s.cur + x.toNat
    let free (s : State) : Prop := s.seqNamesPort s.cur t x.toNat = false
    (slotOf s.cur ≠ 15 → s.Reads t [a] [] v s1 → free s1 → t.relaxed = [] → s1.check c t.ctx (nth v 0) 16 segR 1 = .ok la → laRegion la = 1 →
      laCore la = c → s1.isBad la 16 = false → streamLegal c (s1.mem.bytes la 16) = true →
      let b := Port.bound t.ctx (s1.mem.bytes la 16)
      exec (.sbind p q x a) s = .next ((((s1.freePort c key).modCore c fun k => { k with ports := k.ports.put key b }).setFullN
        (lsAddr c b.base) false (b.size / 8)).retire s.cur t)) ∧
    (slotOf s.cur ≠ 15 → free s → t.relaxed = [] → exec (.sfree p q x) s = .next ((s.freePort c key).retire s.cur t)) ∧
    (slotOf s.cur = 15 → exec (.sfree p q x) s = .next (s.trap s.cur t 1 ((wordOf (.sfree p q x)).setWidth 64))) ∧
    (slotOf s.cur = 15 → s.Reads t [a] [] v s1 →
      exec (.sbind p q x a) s = .next (s.trap s.cur t 1 ((wordOf (.sbind p q x a)).setWidth 64))) ∧
    (slotOf s.cur ≠ 15 → s.seqNamesPort s.cur t x.toNat = true → exec (.sfree p q x) s = .next (s.wait s.cur t .sync) ∧
      (s.Reads t [a] [] v s → exec (.sbind p q x a) s = .next (s.wait s.cur t .sync)) ∧
      (s.Reads t [] [d] [] s → exec (.xstat p q d x) s = .next (s.wait s.cur t .sync))) ∧
    (s.Reads t [] [d] [] s → free s → slotOf s.cur = 15 →
      let n := ((s.core c).xq.at [] x.toNat).length
      let w := BitVec.ofNat 64 (2 ^ 32 + x.toNat % 2 * 2 ^ 34 + if x.toNat % 2 = 1 then 64 - n else min 64 n)
      State.writeRefused s.cur d w = false → exec (.xstat p q d x) s = .next (s.result s.cur t d w)) ∧
    (s.Reads t [] [d] [] s → free s → slotOf s.cur ≠ 15 → (s.core c).ports.find? key = none → exec (.xstat p q d x) s =
      .next (s.result s.cur t d 0)) ∧
    (∀ y, s.Reads t [] [d] [] s → free s → slotOf s.cur ≠ 15 → (s.core c).ports.find? key = some y →
      let off := if y.out then y.tail else y.head
      exec (.xstat p q d x) s = .next (s.result s.cur t d (BitVec.ofNat 64 (y.ovf.toNat * 2 ^ 35 + y.out.toNat * 2 ^ 34 + 2 ^ 33 +
        s.portCount c y (!y.out) (y.size / y.ew - off % 8 / y.ew) off))))) ∧
  (∀ (s : State) (c key : Nat) (y : Port),
    ((s.core c).ports.find? key = none → s.freePort c key = s) ∧
    ((s.core c).ports.find? key = some y → s.freePort c key = (y.spilled ++ y.waiting).foldl (fun s d => s.report c d false false)
      (s.modCore c fun k => { k with ports := k.ports.del key }))) ∧
  (∀ (s s1 : State) (n : Nat) (m : Msg) (port ctx : Nat) (d : Delivery) (y : Port), n < 2 ^ 40 → s.deliver n = some (m, s1) →
    m.body = .delivery port ctx d →
    ((s.core (portCore port)).ports.find? (port % 64) = none →
      exec (.streamDelivery n) s = .next (s1.report (portCore port) d false false)) ∧
    ((s.core (portCore port)).ports.find? (port % 64) = some y →
      (y.out = true ∨ y.ctx ≠ ctx ∨ d.data.length % 8 ≠ 0 ∨ y.size < d.data.length) →
      exec (.streamDelivery n) s = .next (s1.report (portCore port) d false false)) ∧
    ((s.core (portCore port)).ports.find? (port % 64) = some y → y.out = false → y.ctx = ctx → d.data.length % 8 = 0 →
      y.size - y.unread < d.data.length → d.data.length ≤ y.size → y.spilled = [] → y.waiting = [] →
      exec (.streamDelivery n) s = .next (s1.modCore (portCore port) fun k =>
        { k with ports := k.ports.put (port % 64) { y with waiting := [{ d with since := s.clock }] } })) ∧
    ((s.core (portCore port)).ports.find? (port % 64) = some y → y.out = false → y.ctx = ctx → d.data.length % 8 = 0 →
      d.data.length ≤ y.size - y.unread → y.spilled = [] → y.waiting = [] →
      (s.ctx (4 * corePkg (portCore port) + ctx)).replay = 0 →
      ∃ s2 : State, exec (.streamDelivery n) s = .next s2 ∧ s2.threads = s.threads ∧
        (s.mem.wf → y.Laid → s.Entered s2 (portCore port) y d) ∧
        (s2.core (portCore port)).ports.find? (port % 64) = some { y with tail := y.base + (y.tail - y.base + d.data.length) % y.size,
                                                                          unread := y.unread + d.data.length })) ∧
  (∀ (s : State) (port : Nat) (d : Delivery) (r : List Delivery) (y : Port), (s.core (portCore port)).ports.find? (port % 64) = some y →
    let c := portCore port
    (y.waiting = d :: r → d.since + 2048 ≤ s.clock → y.fits d = false ∨ y.spilled ≠ [] → s.ovfUsed c y.ctx < s.ovfCap c y.ctx →
      let n := s.ovfCap c y.ctx - s.ovfUsed c y.ctx
      let y' : Port := { y with ovf := true, spilled := y.spilled ++ y.waiting.take n, waiting := y.waiting.drop n }
      exec (.streamDeliveryTimeout port) s =
        .next ((s.modCore c fun k => { k with ports := k.ports.put (port % 64) y' }).ovfWrite c y.ctx (min n y.waiting.length))) ∧
    (y.spilled = [] → y.waiting = d :: r → y.fits d = true → (s.ctx (4 * corePkg c + y.ctx)).replay = 0 →
      ∃ s2 : State, exec (.streamDelivery (2 ^ 40 + port)) s = .next s2 ∧ s2.threads = s.threads ∧
        (s.mem.wf → y.Laid → d.data.length ≤ y.size → s.Entered s2 c y d) ∧
        (s2.core c).ports.find? (port % 64) = some { y with tail := y.base + (y.tail - y.base + d.data.length) % y.size,
                                                            unread := y.unread + d.data.length, waiting := r }) ∧
    (y.spilled = d :: r → y.fits d = true → (s.ctx (4 * corePkg c + y.ctx)).replay = 0 →
      ∃ s2 : State, exec (.overflowDeliveryReentry port) s = .next s2 ∧ s2.threads = s.threads ∧
        (s.mem.wf → y.Laid → d.data.length ≤ y.size → s.Entered s2 c y d) ∧
        (s2.core c).ports.find? (port % 64) = some { y with tail := y.base + (y.tail - y.base + d.data.length) % y.size,
                                                            unread := y.unread + d.data.length, spilled := r })) ∧
  (∀ (c ctx : Nat) (l : List Byte) (y : Port) (n : Nat), (streamLegal c l = true → (Port.bound ctx l).Laid) ∧
    (y.Laid → n % 8 = 0 → ({ y with tail := y.base + (y.tail - y.base + n) % y.size } : Port).Laid)) ∧
  (∀ (s : State) (core x slot : Nat),
    let tid := 16 * core + slot
    let k := s.ctx (4 * corePkg core + x)
    slot < 16 → s.ownerOf core slot = some x → s.thread tid = none → s.running (4 * corePkg core + x) = true →
    (s.core core).disabled = false → k.saved.find? tid = none → k.trace = 0 →
    (slot = 14 → (s.core core).xform ≠ [] → k.xfrmpc ≠ 0 → exec (.transformThreadBind core) s =
      .next ((s.seat tid (Thread.fresh k.xfrmpc x)).modCore core fun k => { k with xholds := false })) ∧
    (slot = 15 → (s.core core).xq.at [] 0 ≠ [] → k.commpc ≠ 0 → exec (.commThreadBind core) s =
      .next (s.seat tid (Thread.fresh k.commpc x))))

/-- R215, R216, R218 to R220: coded blocks. At the DMA port a block of METHOD 2 writes LENX zeros and one of METHOD 0 its payload,
and LENX outside the rules is refused, as METHOD 1 is at a core that does no transforms; else METHOD 1 joins the transform queue,
where there is room. The transform thread takes the head of its core's queue with bhdr, which waits in SyncWait while there is
none, and traps with cause 0x01 while a block is held; bget takes up to 64 bits of the input, the first the least significant,
bpeek reads them, bskip skips; bexp reads an exponential-Golomb code, all ones after 32 zeros; bput writes bits to the output and
bflush pads them to a byte; bsync finishes the block. Without a held block each of bget, bpeek, bskip, bexp, bput, bflush and bsync
traps with cause 0x01, and so does each member in a slot other than 14. Completes: blockExpansion, bget, bpeek, bskip, bput,
bflush, bhdr, bexp, bsync. What of bsync's status the ticket receives, and the DMA turn that sends a compressed block, are the
model's (log 39, log 73). -/
def Obligations.CodedBlocks : Prop :=
  (∀ (s s1 : State) (n : Nat) (m : Msg) (e mem la : Nat) (data : List Byte), n < 2 ^ 46 → s.deliver n = some (m, s1) →
    m.body = .block e mem data la false →
    let lenx := field data 0 2
    let wrote (l : List Byte) : State := (((s1.storeBytes la l).markBlock la l.length true).blockEnds m.dst e mem l.length 0 [])
    (lenx % 32 = 0 → 32 ≤ lenx → lenx ≤ 4096 → laOff la + lenx ≤ lsSize m.dst →
      (field data 3 1 = 2 → field data 2 1 = 0 → exec (.blockExpansion n) s = .next (wrote (List.replicate lenx 0))) ∧
      (field data 3 1 = 0 → field data 2 1 ≤ 128 → lenx = 32 * (field data 2 1 + 1) →
        exec (.blockExpansion n) s = .next (wrote (data.drop 8))) ∧
      (field data 3 1 = 1 → field data 2 1 ≤ 128 →
        (s1.transforms m.dst = false → exec (.blockExpansion n) s = .next (s1.blockEnds m.dst e mem 0 8 [])) ∧
        (s1.transforms m.dst = true → (s1.core m.dst).xform.length < 2 →
          let b : Block := { compress := false, lenx := lenx, nsec := field data 2 1, param := field data 4 4, input := data.drop 8,
                             place := la, output := [], inPos := 0, outPos := 0, err := false, unc := false, held := false, eng := e, member := mem }
          exec (.blockExpansion n) s = .next (s1.modCore m.dst fun k => { k with xform := k.xform ++ [b] })) ∧
        (s1.transforms m.dst = true → 2 ≤ (s1.core m.dst).xform.length → exec (.blockExpansion n) s = .next s))) ∧
    ((lenx % 32 ≠ 0 ∨ lenx < 32 ∨ 4096 < lenx) → exec (.blockExpansion n) s = .next (s1.blockEnds m.dst e mem 0 8 []))) ∧
  (∀ (p : BitVec 3) (q : BitVec 1) (d a b : BitVec 4) (s s1 : State) (t : Thread) (v : List Word) (k : Block), s.Issues p q 4 t →
    slotOf s.cur = 14 → s1.heldBlock (coreOf s.cur) = some k →
    let c := coreOf s.cur
    let now (k : Block) : State := s1.modCore c fun x => { x with xform := k :: x.xform.drop 1 }
    let n := min ((nth v 0).toNat % 128) 64
    let got (n : Nat) : Block := { k with inPos := k.inPos + n, err := k.err || decide (k.inBits < k.inPos + n) }
    (s.Reads t [a] [d] v s1 →
      exec (.bget p q d a) s = .next ((now (got n)).result s.cur t d (BitVec.ofNat 64 (s1.inNat k n k.inPos))) ∧
      exec (.bpeek p q d a) s =
        .next ((now { got n with inPos := k.inPos }).result s.cur t d (BitVec.ofNat 64 (s1.inNat k n k.inPos))) ∧
      (let z := s1.zeros k 32 k.inPos
       let g := (nth v 0).toNat % 32
       (z = 32 → exec (.bexp p q d a) s = .next
         ((now { k with inPos := k.inPos + 32, err := true }).result s.cur t d (BitVec.ofNat 64 (2 ^ 64 - 1)))) ∧
       (z < 32 → ∃ s2 : State, exec (.bexp p q d a) s =
         .next (s2.result s.cur t d (BitVec.ofNat 64 (2 ^ (z + g) - 2 ^ g + s1.inNat k (z + g) (k.inPos + z + 1)))) ∧
         (s2.core c).xform.head?.map (·.inPos) = some (k.inPos + z + 1 + (z + g))))) ∧
    (s.Reads t [a] [] v s1 → exec (.bskip p q a) s = .next ((now (got ((nth v 0).toNat % 65536))).retire s.cur t)) ∧
    (s.Reads t [a, b] [] v s1 →
      let r := s1.putBits k (min ((nth v 1).toNat % 128) 64) (nth v 0).toNat
      exec (.bput p q a b) s = .next ((r.1.modCore c fun x => { x with xform := r.2 :: x.xform.drop 1 }).retire s.cur t)) ∧
    (s.Reads t [] [d] v s1 →
      (∃ s2 : State, exec (.bflush p q d) s = .next (s2.result s.cur t d (BitVec.ofNat 64 ((k.outPos + 7) / 8))) ∧
        (s2.core c).xform.head?.map (·.outPos) = some (8 * ((k.outPos + 7) / 8))) ∧
      (let out := (k.outPos + 7) / 8
        ∃ s2 : State, exec (.bsync p q d) s = .next (s2.result s.cur t d (BitVec.ofNat 64 (k.err.toNat + 2 * k.unc.toNat +
          4 * (!k.compress && decide (out < k.lenx)).toNat + 8 * (k.compress && decide (k.room < out)).toNat +
          out % 65536 * 65536))) ∧ (s2.core c).xform = (s1.core c).xform.drop 1 ∧
          (s2.core c).xholds = false ∧
          (k.compress = true → ∃ o : BlockOut, (s2.core c).xout = (s1.core c).xout ++ [o] ∧ o.eng = k.eng ∧
            o.flags = (if k.unc then 2 else 0))))) ∧
  (∀ (s : State) (c : Nat) (o : BlockOut) (r : List BlockOut), (s.core c).xout = o :: r → exec (.blockExpansion (2 ^ 46 + c)) s =
    .next ((s.modCore c fun k => { k with xout := r }).blockEnds c o.eng 0 0 o.flags o.data)) ∧
  (∀ (p : BitVec 3) (q : BitVec 1) (d : BitVec 4) (s : State) (t : Thread), s.Issues p q 4 t → s.Reads t [] [d] [] s →
    let c := coreOf s.cur
    (slotOf s.cur = 14 → s.heldBlock c = none →
      ((s.core c).xform = [] → exec (.bhdr p q d) s = .next (s.wait s.cur t .sync)) ∧
      (∀ k r, (s.core c).xform = k :: r → k.held = false → exec (.bhdr p q d) s = .next (((s.modCore c fun x =>
        { x with xform := { k with held := true } :: x.xform.drop 1 }).modCore c fun x => { x with xholds := true }).result s.cur t d
          (BitVec.ofNat 64 (k.lenx + k.nsec * 2 ^ 13 + k.compress.toNat * 2 ^ 21 + k.unc.toNat * 2 ^ 22 + k.param * 2 ^ 32))))) ∧
    (slotOf s.cur ≠ 14 ∨ s.heldBlock c ≠ none → exec (.bhdr p q d) s =
      .next (s.trap s.cur t 1 ((wordOf (.bhdr p q d)).setWidth 64)))) ∧
  (∀ (p : BitVec 3) (q : BitVec 1) (d a b : BitVec 4) (s s1 : State) (t : Thread) (v : List Word), s.Issues p q 4 t →
    slotOf s.cur ≠ 14 ∨ s1.heldBlock (coreOf s.cur) = none →
    let traps (i : Instr) : Prop := exec i s = .next (s.trap s.cur t 1 ((wordOf i).setWidth 64))
    (s.Reads t [a] [d] v s1 → traps (.bget p q d a) ∧ traps (.bpeek p q d a) ∧ traps (.bexp p q d a)) ∧
    (s.Reads t [a] [] v s1 → traps (.bskip p q a)) ∧ (s.Reads t [a, b] [] v s1 → traps (.bput p q a b)) ∧
    (s.Reads t [] [d] v s1 → traps (.bflush p q d) ∧ traps (.bsync p q d))) ∧
  (∀ (s : State) (k : Block) (n v : Nat), (s.putBits k n v).2.outPos = k.outPos + n)

/-- R338 to R342: what the reply to a request of THIN-E gives a thread whose binding is neither recorded nor replayed: the
instruction's result, once the SLD's page is unsealed and good; the thinning unit, or for the others the word's bank, has exchanged
T with the core (R364). mref binds the current copy and gives its directory, mrel releases a binding of either copy or says why
not, mver reads, and the thinning unit answers thin with 3, 1, 2 or 0, in that order. -/
def Sys2Proof.Machine.State.SldGives (s : State) (tid : Nat) (t : Thread) (r : Req) : Prop :=
  let l := s.place (r.locs.headD (.loc 0))
  let unit := thinPlace (s.thinUnit (clusterOf (coreOf tid)))
  let asked := (s.hear unit (s.time (coreOf tid))).heardAt unit l
  let s1 := if r.kind = .thin then asked.hear (coreOf tid) (asked.time unit) else s.heardAt (coreOf tid) l
  let vw := s.mem.read (l.key + 8) 8
  let rw := s.mem.read (l.key + 16) 8
  let cur := vw % 2
  let version := vw / 2 ^ 32 % 2 ^ 32
  let state := vw / 2 ^ 8 % 2 ^ 8
  let count (k : Nat) : Nat := if k = 0 then rw % 2 ^ 32 else rw / 2 ^ 32 % 2 ^ 32
  let counts (k n : Nat) : State := s1.store (l.key + 16) 8 (if k = 0 then rw / 2 ^ 32 * 2 ^ 32 + n else n * 2 ^ 32 + rw % 2 ^ 32)
  let gives (n : Nat) (z : State) : Prop := State.writeRefused tid r.d (BitVec.ofNat 64 n) = false →
    exec (.memoryReply tid) s = .next (z.result tid t r.d (BitVec.ofNat 64 n))
  r.held = false → (r.kind ≠ .mver → s.sealedAt l = false) → s.isBad l.key 128 = false →
  s1.logMode tid t = 0 →
  (r.kind = .mref →
    (count cur ≠ 2 ^ 32 - 1 →
      let gd := BitVec.ofNat 64 (version * 2 ^ 32 + cur)
      let gb := BitVec.ofNat 64 (s.mem.read (l.key + 0x30 + 8 * cur) 8)
      let w := (counts cur (count cur + 1)).writeReg tid t r.d gd
      State.writeRefused tid r.d gd = false → State.writeRefused tid r.e gb = false →
      exec (.memoryReply tid) s = .next (w.1.result tid w.2 r.e gb)) ∧
    (count cur = 2 ^ 32 - 1 →
      let w := s1.writeReg tid t r.d (BitVec.ofNat 64 (2 ^ 64 - 1))
      State.writeRefused tid r.d (BitVec.ofNat 64 (2 ^ 64 - 1)) = false → State.writeRefused tid r.e 0 = false →
      exec (.memoryReply tid) s = .next (w.1.result tid w.2 r.e 0))) ∧
  (r.kind = .mrel → ∀ k v, k < 2 → nth r.vals 1 = BitVec.ofNat 64 (v * 2 ^ 32 + k) → v < 2 ^ 32 →
    let h := if k = cur then version else (version + 2 ^ 32 - 1) % 2 ^ 32
    (v ≠ h ∨ (k ≠ cur ∧ state = 2) → gives 2 s1) ∧
    (v = h → k = cur ∨ state ≠ 2 → count k = 0 → gives 1 s1) ∧
    (v = h → k = cur ∨ state ≠ 2 → count k ≠ 0 → gives 0 (counts k (count k - 1)))) ∧
  (r.kind = .mrel → (nth r.vals 1).toNat / 2 % 2 ^ 31 ≠ 0 → gives 2 s1) ∧
  (r.kind = .mver → gives (version * 2 ^ 32 + state * 2 ^ 24 + cur * 2 ^ 16 + min 0xFFFF (count (1 - cur))) s1) ∧
  (r.kind = .thin →
    let b := s.mem.bytes l.key 128
    let cl := s1.thinUnit (clusterOf (coreOf tid))
    let held := (s1.cluster cl).thin.length
    (sldBad (corePkg (coreOf tid)) b = true → gives 3 s1) ∧
    (sldBad (corePkg (coreOf tid)) b = false → state ≠ 0 → gives 1 s1) ∧
    (sldBad (corePkg (coreOf tid)) b = false → state = 0 → 4 ≤ held → gives 2 s1) ∧
    (sldBad (corePkg (coreOf tid)) b = false → state = 0 → held < 4 → gives 0 ((s1.store (l.key + 8) 8 (vw + 256)).modCluster cl
      fun k => { k with thin := k.thin ++
        [{ cx := cxOf (coreOf tid) t, sld := l.linear, kept := b, ticket := r.n, build := false }] })))

/-- R333, R334, R337 to R343, R351: sparse layers, while their contexts neither record nor replay. thin, mref, mrel and mver check
their descriptor's address: region 0 is this package, region 2 migrates mref, mrel and mver and ends in cause 0x11 where the peer's
core cannot take the thread, any other region is cause 0x07. Then the thread waits for the request's turn, and its reply gives the
result: mref the version, the copy and the copy's directory, with 1 added to the copy's readers; mrel takes 1 off and gives 0, or 1
where there is none, or 2 for another version or a copy in Build, whichever copy is bound; mver version, state, copy and the other
copy's readers; thin its code. A sealed SLD is cause 0x05 for all but mver. A unit takes an interval into Build once the other copy
has no readers; a build that succeeds publishes the next version in the other copy, one that fails ends with its code; the ticket
word is written, and set full, in a DMA turn of its core. Completes: thin, mref, mrel, mver, intervalBuildStart, intervalPublish,
intervalFailure. What the spec leaves open of the unit's order is the model's (log 43), and so is the turn that writes a ticket
(log 73). -/
def Obligations.SparseLayers : Prop :=
  (∀ (p : BitVec 3) (q : BitVec 1) (d a b : BitVec 4) (s s1 s2 : State) (t : Thread) (v : List Word) (la : Nat) (l : Loc),
    s.Issues p q 4 t → t.relaxed = [] → t.rmode = 0 →
    let c := coreOf s.cur
    let gives (i : Instr) (r : Req) : Prop := exec i s = .next (s2.wait s.cur t (.mem r)) ∧
      (s2.wait s.cur t (.mem r)).SldGives s.cur (t.waiting (.mem r)) r
    laRegion (canonLa (corePkg c) la) = 0 → s1.translate c (canonLa (corePkg c) la) = (.ok l, s2) →
    (s1.check c t.ctx (nth v 0) 128 (segR ||| segW) 128 = .ok la →
      (s.Reads t [a, b] [d] v s1 →
        let asks (n : Nat) : Req := { kind := .thin, word := wordOf (.thin p q d a b), d := d, vals := [nth v 0], locs := [l], n := n }
        (nth v 1 = 0 → gives (.thin p q d a b) (asks 0)) ∧
        (∀ n, nth v 1 ≠ 0 → s2.check c t.ctx (nth v 1) 8 segW 8 = .ok n →
          (laRegion n = 1 → gives (.thin p q d a b) (asks n)) ∧
          (laRegion n ≠ 1 → exec (.thin p q d a b) s = .next (s.trap s.cur t 0x0C (nth v 1))))) ∧
      (s.Reads t [a] [d, b] v s1 → gives (.mref p q d a b)
        { kind := .mref, word := wordOf (.mref p q d a b), d := d, e := b, vals := [nth v 0], locs := [l] }) ∧
      (s.Reads t [a, b] [d] v s1 → gives (.mrel p q d a b)
        { kind := .mrel, word := wordOf (.mrel p q d a b), d := d, vals := [nth v 0, nth v 1], locs := [l] })) ∧
    (s1.check c t.ctx (nth v 0) 128 segR 128 = .ok la → s.Reads t [a] [d] v s1 → gives (.mver p q d a)
      { kind := .mver, word := wordOf (.mver p q d a), d := d, vals := [nth v 0], locs := [l] })) ∧
  (∀ (p : BitVec 3) (q : BitVec 1) (d a b : BitVec 4) (s s1 : State) (t : Thread) (v : List Word) (la : Nat), s.Issues p q 4 t →
    let c := coreOf s.cur
    let x := canonLa (corePkg c) la
    let core := peerTarget (bits x 55 43) (bits x 42 0)
    let takes : Bool := s1.coreOk core && s1.holdsSlots (4 * corePkg core + t.ctx) core
    let goes (i : Instr) : Prop := (laRegion x = 2 → takes = true → exec i s = .next (s.ship s.cur t core (nth v 0))) ∧
      (laRegion x = 2 → takes = false → exec i s = .next (s.trap s.cur t 0x11 (nth v 0))) ∧
      (laRegion x = 1 ∨ laRegion x = 3 → exec i s = .next (s.trap s.cur t 7 (nth v 0)))
    (s1.check c t.ctx (nth v 0) 128 (segR ||| segW) 128 = .ok la →
      (s.Reads t [a] [d, b] v s1 → goes (.mref p q d a b)) ∧ (s.Reads t [a, b] [d] v s1 → goes (.mrel p q d a b) ∧
        (laRegion x ≠ 0 → exec (.thin p q d a b) s = .next (s.trap s.cur t 7 (nth v 0))))) ∧
    (s1.check c t.ctx (nth v 0) 128 segR 128 = .ok la → s.Reads t [a] [d] v s1 → goes (.mver p q d a))) ∧
  (∀ (s : State) (tid : Nat) (t : Thread) (r : Req), s.thread tid = some t → t.wait = .mem r → s.SldGives tid t r) ∧
  (∀ (s : State) (tid : Nat) (t : Thread) (r : Req) (x : Loc), s.thread tid = some t → t.wait = .mem r → r.locs = [x] → r.held = false →
    s.sealedAt (s.place x) = true → r.kind = .mref ∨ r.kind = .mrel ∨ r.kind = .thin →
    exec (.memoryReply tid) s = .next ((s.sldHeard (coreOf tid) r.kind (s.place x)).trap tid t 5 (nth r.vals 0))) ∧
  (∀ (s : State) (cl : Nat) (iv : Interval) (l : Loc), (s.cluster cl).thin = [iv] → iv.build = false →
    s.unitPlace (clPkg cl) (clDie cl) iv.sld = .ok l → s.mem.read (l.key + 8) 8 % 2 = 0 →
    (s.mem.read (l.key + 16) 8 / 2 ^ 32 % 2 ^ 32 = 0 → exec (.intervalBuildStart cl) s =
      .next (((s.unitHears cl iv.sld 128).store (l.key + 8) 8 (s.mem.read (l.key + 8) 8 / 2 ^ 16 * 2 ^ 16 + 512 + s.mem.read (l.key + 8) 8 % 256)).modCluster cl
        fun k => { k with thin := [{ iv with build := true }] })) ∧
    (s.mem.read (l.key + 16) 8 / 2 ^ 32 % 2 ^ 32 ≠ 0 → exec (.intervalBuildStart cl) s = .next s)) ∧
  (∀ (s s2 : State) (cl n : Nat) (iv : Interval) (l : Loc), cl < 2 ^ 48 → (s.cluster cl).building = some iv → s.build cl iv = (s2, n) →
    s.unitPlace (clPkg cl) (clDie cl) iv.sld = .ok l → (s.ctx iv.cx).replay = 0 → (s2.ctx iv.cx).replay = 0 →
    (n ≠ 0 → exec (.intervalFailure cl) s = .next ((s2.endInterval cl iv n).dropInterval cl iv) ∧
      exec (.intervalPublish cl) s = .next s) ∧
    (n = 0 →
      let vw := s.mem.read (l.key + 8) 8
      let v := (vw / 2 ^ 32 % 2 ^ 32 + 1) % 2 ^ 32
      exec (.intervalFailure cl) s = .next s ∧ exec (.intervalPublish cl) s =
        .next ((((((s2.exchange (thinPlace cl) l.bank).unitGoes iv.cx (srcThin cl) iv.sld).setVword (clPkg cl) (clDie cl) iv.sld
          (v * 2 ^ 32 + (1 - vw % 2)))).thinTicket cl iv v 0).dropInterval cl iv))) ∧
  (∀ (s : State) (cl v n : Nat) (iv : Interval), iv.ticket ≠ 0 → n ≠ 5 →
    s.thinTicket cl iv v n = s.modCluster cl fun k =>
      { k with tickets := k.tickets ++ [(iv.ticket, v * 2 ^ 32 + n * 256 + 1, s.time (thinPlace cl))] }) ∧
  (∀ (s : State) (cl la v t : Nat) (r : List (Nat × Nat × Nat)), (s.cluster cl).tickets = (la, v, t) :: r →
    ∃ s2 : State, exec (.intervalPublish (2 ^ 48 + cl)) s = .next s2 ∧ s2.mem = s.mem.write la 8 v ∧ s2.isFull la = true ∧
      (s2.cluster cl).tickets = r ∧ s2.threads = s.threads)

/-- R405, R407, R415: groups. gset, in supervisor state, sends a set with its specification, or a clear with the group's number,
and waits. The root of a group's tree keeps the first registration, adds one with the same bytes from another package, answers 2
for other bytes, 6 for a package that has registered, and 7 while the group is broken. Once every member package has registered,
and every switch of the tree has room, the group is installed with a record for every member, and each waiting gset returns 0;
without room all return 5 and nothing stays; TOUT after the first registration all return 1 and nothing stays. A clear of a group
that the package has not registered gives 3; of one that is not installed it gives 0, withdraws the registration, and the waiting
set returns 1; of one that is installed it gives 0. A group that every member package has cleared goes once nothing of it is on its
way (R424, log 70). gq reads the member record, 0 where there is none. Completes: gsetSet, gsetClear, gq, groupRegistration,
gsetTimeout. The order of the checks is the model's (log 45). -/
def Obligations.Groups : Prop :=
  (∀ (p : BitVec 3) (q : BitVec 1) (d a b : BitVec 4) (s s1 : State) (t : Thread) (v : List Word) (la : Nat), s.Issues p q 4 t →
    s.Reads t [a, b] [d] v s1 → t.sup = true → t.relaxed = [] → t.rmode = 0 →
    let c := coreOf s.cur
    let pkg := corePkg c
    let cx := cxOf c t
    let sent (r : Req) : Thread := t.waiting (.mem { r with e := 0, locs := [] })
    let asked (r : Req) : State := (s1.wait s.cur t (.mem r)).setThread s.cur (sent r)
    ((nth v 1).getLsbD 0 = true →
      let g := (nth v 0).toNat % 2 ^ 32
      let r : Req := { kind := .gset, word := wordOf (.gsetClear p q d a b), d := d, sgn := true, n := g }
      exec (.gsetSet p q d a b) s = .next (s1.wait s.cur t (.mem r)) ∧
      exec (.gsetClear p q d a b) s = .next (s1.wait s.cur t (.mem r)) ∧
      (∀ z place code, (asked r).clearServed c cx g = (z, place, code) → z.thread s.cur = some (sent r) →
        State.writeRefused s.cur d (BitVec.ofNat 64 code) = false → exec (.memoryReply s.cur) (s1.wait s.cur t (.mem r)) =
          .next ((z.hear c (z.time place)).result s.cur (sent r) d (BitVec.ofNat 64 code)))) ∧
    ((nth v 1).getLsbD 0 = false → s1.check c t.ctx (nth v 0) 16 segR 16 = .ok la → laRegion la = 1 → laCore la = c →
      let n := 16 + 4 * s1.mem.read (la + 4) 2
      s1.check c t.ctx (nth v 0) n segR 16 = .ok la → s1.isBad la n = false →
      let g := s1.mem.read la 4
      let r : Req := { kind := .gset, word := wordOf (.gsetSet p q d a b), d := d, n := g,
                       vals := (List.range (n / 4)).map fun i => BitVec.ofNat 64 (s1.mem.read (la + 4 * i) 4) }
      let l := r.vals.flatMap fun v => leBytes 4 v.toNat
      let port := portPlace pkg (specPlane l)
      let root := swPlace (rootSw l)
      let w := ((asked r).hear port ((asked r).time c)).send port root (16 + g) (.register g { pkg := pkg, cx := cx, tid := s.cur } l)
      exec (.gsetSet p q d a b) s = .next (s1.wait s.cur t (.mem r)) ∧
      exec (.gsetClear p q d a b) s = .next (s1.wait s.cur t (.mem r)) ∧
      ((asked r).setRefused pkg cx l = true → State.writeRefused s.cur d 6 = false → exec (.memoryReply s.cur) (s1.wait s.cur t (.mem r)) =
        .next (((asked r).hear c ((asked r).time c)).result s.cur (sent r) d 6)) ∧
      ((asked r).setRefused pkg cx l = false → exec (.memoryReply s.cur) (s1.wait s.cur t (.mem r)) = .next w ∧
        let x : Group := { spec := l, regs := [{ pkg := pkg, cx := cx, tid := s.cur }], installed := false, broken := false,
                           cleared := [], since := w.ticks, kept := [] }
        (specPkgs l = [pkg] → w.fab.group g = none → Fabric.hasRoom { w.fab with groups := w.fab.groups.put g x } l = true →
          (∀ m ∈ s1.net, ¬ (m.src = port ∧ m.dst = root ∧ m.chan = 16 + g)) → State.writeRefused s.cur d 0 = false →
          ∃ y : State, exec (.groupRegistration s1.net.length) w = .next ((y.result s.cur (sent r) d 0).eventAll
              (fun _ => root) g 1 (specMembers l)) ∧
            y.fab.group g = some { x with installed := true })))) ∧
  (∀ (p : BitVec 3) (q : BitVec 1) (d a : BitVec 4) (s s1 : State) (t : Thread) (v : List Word), s.Issues p q 4 t →
    s.Reads t [a] [d] v s1 → t.relaxed = [] →
    let x := BitVec.ofNat 64 (s1.fab.query (coreOf s.cur) (cxOf (coreOf s.cur) t) ((nth v 0).toNat % 2 ^ 32))
    State.writeRefused s.cur d x = false → exec (.gq p q d a) s = .next (s1.result s.cur t d x)) ∧
  (∀ (f : Fabric) (core cx g : Nat) (x : Group) (m : Member),
    (f.group g = none → f.query core cx g = 0) ∧ (f.member g core = none → f.query core cx g = 0) ∧
    (f.group g = some x → f.member g core = some m → x.installed = true → m.cx = cx → f.query core cx g =
      2 ^ 63 + x.broken.toNat * 2 ^ 62 + specOutf x.spec * 2 ^ 61 + (specSlots x.spec - 1) * 2 ^ 56 + m.next * 2 ^ 32 +
        specCount x.spec * 2 ^ 16 + (specMembers x.spec).idxOf core)) ∧
  (∀ (s s1 : State) (n : Nat) (m : Msg) (g : Nat) (r : Registration) (l : List Byte), s.deliver n = some (m, s1) →
    m.body = .register g r l →
    (s1.fab.group g = none → exec (.groupRegistration n) s = .next ((s1.setGroup g
      { spec := l, regs := [r], installed := false, broken := false, cleared := [], since := s.ticks, kept := [] }).tryInstall g)) ∧
    (∀ x, s1.fab.group g = some x →
      (x.over = true → exec (.groupRegistration n) s = .next s) ∧
      (x.over = false → x.broken = true → exec (.groupRegistration n) s = .next (s1.gsetAnswer m.dst r.tid 7)) ∧
      (x.over = false → x.broken = false → x.spec ≠ l → exec (.groupRegistration n) s = .next (s1.gsetAnswer m.dst r.tid 2)) ∧
      (x.over = false → x.broken = false → x.spec = l → (∃ y ∈ x.regs, y.pkg = r.pkg) →
        exec (.groupRegistration n) s = .next (s1.gsetAnswer m.dst r.tid 6)) ∧
      (x.over = false → x.broken = false → x.spec = l → (∀ y ∈ x.regs, y.pkg ≠ r.pkg) → exec (.groupRegistration n) s =
        .next ((s1.setGroup g { x with regs := x.regs ++ [r] }).tryInstall g)))) ∧
  (∀ (s : State) (g : Nat) (x : Group), s.fab.group g = some x →
    let all := (specPkgs x.spec).all fun p => x.regs.any fun r => r.pkg == p
    (all = false → s.tryInstall g = s) ∧
    let answer (code : Nat) (s : State) : State := x.regs.foldl (fun s r => s.gsetAnswer (swPlace (rootSw x.spec)) r.tid code) s
    let cxFor (m : Nat) : Nat := ((x.regs.find? fun r => r.pkg == corePkg m).map (·.cx)).getD 0
    let records : NatMap Member := (specMembers x.spec).foldl (fun l m => l.put m { cx := cxFor m, next := 0 }) []
    (x.installed = false → all = true → s.fab.hasRoom x.spec = true → s.tryInstall g = (answer 0 (s.modFab fun f =>
      { f with groups := f.groups.put g { x with installed := true }, members := f.members.put g records })).eventAll
        (fun _ => swPlace (rootSw x.spec)) g 1 (specMembers x.spec)) ∧
    (x.installed = false → all = true → s.fab.hasRoom x.spec = false → s.tryInstall g = answer 5 (s.dropGroup g)) ∧
    (x.installed = false → x.since + 1000 * specTout x.spec ≤ s.ticks → exec (.gsetTimeout g) s = .next (answer 1 (s.dropGroup g))) ∧
    (x.over = true → s.groupBusy g = false → exec (.gsetTimeout g) s = .next (s.dropGroup g)) ∧
    (x.over = false → x.installed = true ∨ s.ticks < x.since + 1000 * specTout x.spec → exec (.gsetTimeout g) s = .next s)) ∧
  -- a clear goes by the package's port to the root, which answers (R364)
  (∀ (s : State) (c cx g : Nat), (s.fab.group g = none → s.clearServed c cx g = (s, c, 3)) ∧
    ∀ x, s.fab.group g = some x →
      let port := portPlace (corePkg c) (specPlane x.spec)
      let root := swPlace (rootSw x.spec)
      let s1 := s.hear port (s.time c)
      let y := (s1.hear root (s1.time port)).clearGroup (corePkg c) cx g
      s.clearServed c cx g = (y.2, root, y.1)) ∧
  (∀ (s : State) (pkg cx g : Nat), (s.fab.group g = none → s.clearGroup pkg cx g = (3, s)) ∧
    (∀ x, s.fab.group g = some x → (∀ r ∈ x.regs, r.pkg ≠ pkg) → s.clearGroup pkg cx g = (3, s)) ∧
    (∀ x r, s.fab.group g = some x → x.regs.find? (fun r => r.pkg == pkg) = some r → r.cx = cx → NatSet.has x.cleared pkg = false →
      (x.installed = true → (s.clearGroup pkg cx g).1 = 0) ∧
      (x.installed = false → let left := x.regs.filter fun y => y.pkg != pkg
        s.clearGroup pkg cx g = (0, (if left.isEmpty then s.dropGroup g else s.setGroup g { x with regs := left }).gsetAnswer
          (swPlace (rootSw x.spec)) r.tid 1)))) ∧
  (∀ (s : State) (place tid code : Nat) (t : Thread) (r : Req), s.thread tid = some t → t.wait = .mem r → r.kind = .gset → r.locs = [] →
    State.writeRefused tid r.d (BitVec.ofNat 64 code) = false →
    s.gsetAnswer place tid code = (s.hear (coreOf tid) (s.time place)).result tid t r.d (BitVec.ofNat 64 code))

/-- R410, R411, R413, R416, R417: collectives. gred, gldr and gmc read their chain of descriptors from local store; once every
check passes they take the positions of their sequence numbers, send the contributions in order and wait in Held, and the
destination takes the first status whose CODE is not 0, or else the last. A descriptor of a group that is not set, or of which the
core is not a member, has code 3, one of a broken group 7. A status writes its ticket and completes the thread, or goes to x0 of
the communication thread; a multicast waits for every member's, and one whose source cannot be read sends nothing and has code 4. A
member cut off from the root has 7 after 2 x TOUT. A group number on x3 is answered on x2, a chain on x1 is issued without holding
the thread, once the pages of its sources have been walked for. Completes: gred, gldr, gmc, statusReturn, memberCutoffTimeout,
commX1Element, commX3Query. When sources are read and results are written is the model's (log 44, log 46, log 73), and so is what
an x1 chain waits for (log 47). -/
def Obligations.Collectives : Prop :=
  (∀ (p : BitVec 3) (q : BitVec 1) (d a b : BitVec 4) (s s1 s2 : State) (t : Thread) (v : List Word) (la : Nat), s.Issues p q 4 t →
    s.Reads t [a, b] [d] v s1 → t.relaxed = [] →
    let c := coreOf s.cur
    let n := (nth v 1).toNat % 16 + 1
    let held : Thread := { t with wait := .held .fabric, fab := List.replicate n none, fabD := d }
    let sends (op : Nat) (l : List Contribution) (s3 : State) (rs : List (Option Rec)) : State :=
      ((s3.setThread s.cur held).issueChain c (cxOf c t) op s.cur false 0 (l.zip rs)).fabEnds s.cur
    let good (op : Nat) (l : List Contribution) (s3 : State) (rs : List (Option Rec)) : Prop := s1.cdChain c t.ctx op la n = .ok l ∧
      s1.cdPages c l = (none, s2) ∧ s2.fabGates (s2.logMode s.cur t) (cxOf c t) (coreDie c) c (srcOf s.cur) t.pc.toNat l = .ok (s3, rs)
    s1.check c t.ctx (nth v 0) (64 * n) segR 64 = .ok la → laRegion la = 1 → laCore la = c → s1.isBad la (64 * n) = false →
    (∀ l s3 rs, (good 0 l s3 rs → exec (.gred p q d a b) s = .next (sends 0 l s3 rs)) ∧
      (good 1 l s3 rs → exec (.gldr p q d a b) s = .next (sends 1 l s3 rs)) ∧
      (good 2 l s3 rs → exec (.gmc p q d a b) s = .next (sends 2 l s3 rs))) ∧
    ∀ (u u1 : State) (k g seq code : Nat) (m : Msg) (o : Outstanding), u.deliver k = some (m, u1) → m.body = .status c g seq code →
      (u1.fab.flight.find? fun o => o.core == c && o.grp == g && o.seq == seq && !o.cut) = some o → u1.thread s.cur = some held → n = 1 →
      o.tid = s.cur → o.left = 1 → o.place = 0 → o.code = 0 → o.comm = false → o.record = none → o.ticket = 0 →
      let status := BitVec.ofNat 64 (statusOf seq 0 code)
      o.seq = seq → u.fab.statusPasses g m.src c = true → State.writeRefused s.cur d status = false → exec (.statusReturn k) u =
        .next (((u1.modFab fun f => { f with flight := u1.fab.flight.erase o }).setThread s.cur { held with fab := [some status] }).result
          s.cur { held with fab := [] } d status)) ∧
  (∀ (s : State) (c cx op tid place : Nat) (comm : Bool) (x : Contribution) (r : Option Rec),
    let answered (code : Nat) : Prop := ∃ o : Outstanding, s.contribute c cx op tid place comm x r = s.returnStatus o code ∧
      o.core = c ∧ o.tid = tid ∧ o.place = place ∧ o.comm = comm ∧ o.ticket = x.tkt ∧ o.code = 0
    (s.fab.group (cdGroup x.bytes) = none → answered 3) ∧ (s.fab.member (cdGroup x.bytes) c = none → answered 3) ∧
    (∀ g m, s.fab.group (cdGroup x.bytes) = some g → s.fab.member (cdGroup x.bytes) c = some m → g.installed = true → m.cx = cx →
      (g.broken = true → answered 7) ∧
      (g.broken = false → op ≠ 2 →
        ((s.contribute c cx op tid place comm x r).fab.member (cdGroup x.bytes) c).map (·.next) = some ((m.next + 1) % 2 ^ 24)) ∧
      (g.broken = false → op = 2 → cdBad g.spec 2 x.bytes = true → answered 6) ∧
      -- the core's port reads the source of what is issued, in order of issue
      (g.broken = false → op ≠ 2 ∨ cdBad g.spec 2 x.bytes = false →
        ∃ p : FabRead, ((s.contribute c cx op tid place comm x r).core c).fabOut = (s.core c).fabOut ++ [p] ∧ p.src = x.src ∧
          p.n = cdCount x.bytes * cdWidth x.bytes ∧ p.port = portPlace (corePkg c) (memberLink g.spec c) ∧
          p.sw = leafSw (specPlane g.spec) (corePkg c) ∧ p.chunk.grp = cdGroup x.bytes ∧ p.chunk.core = c ∧ p.chunk.op = op ∧
          p.chunk.count = cdCount x.bytes ∧ p.chunk.fmt = cdFmt x.bytes ∧ p.chunk.dst = cdDst x.bytes ∧
          (op = 2 → p.targets = specMembers g.spec) ∧
          (op ≠ 2 → p.chunk.seq = m.next ∧ p.chunk.dcore = cdDcore x.bytes ∧ p.chunk.bad = cdBad g.spec op x.bytes)))) ∧
  -- the port reads a source in local store, and its contribution leaves; one that holds an uncorrectable word has code 4
  (∀ (s : State) (c : Nat) (p : FabRead) (l : List FabRead), (s.core c).fabOut = p :: l → laRegion p.src = 1 →
    let s1 := (s.exchange p.port c).modCore c fun y => { y with fabOut := l }
    let k := p.chunk
    let reads (z : State) : Prop := exec (.reductionChunkArrival (2 ^ 49 + c)) s = .next z
    let mine (o : Outstanding) : Prop :=
      (s1.fab.flight.find? fun o => o.core == k.core && o.grp == k.grp && o.seq == k.seq) = some o
    (k.op = 2 → s.isBad p.src p.n = false → let b := s.mem.bytes p.src p.n
      reads (p.targets.foldl (fun z m => z.send p.port m (16 + k.grp)
        (.write m { k with vals := b.map (·.toNat) } b [k.core])) s1)) ∧
    (∀ o, k.op = 2 → s.isBad p.src p.n = true → mine o →
      reads ((s1.modFab fun f => { f with flight := f.flight.erase o }).returnStatus o 4)) ∧
    (k.op ≠ 2 → k.fmt < 2 → k.bad = false → s.isBad p.src p.n = false →
      let f := if k.fmt = 1 then Fmt.bf16 else Fmt.fp32
      let v := (elements f.bytes k.count (s.mem.bytes p.src p.n)).map fun v => Fmt.fp32.round .rne 0 true (f.decode v)
      reads (s1.send p.port (swPlace p.sw) (16 + k.grp) (.chunk p.sw (memberPort k.core) { k with vals := v }))) ∧
    (∀ o, k.op ≠ 2 → s.isBad p.src p.n = true → mine o → o.code = 0 → ∃ v : List Nat,
      reads ((s1.modFab fun f => { f with flight := f.flight.map fun x => if x = o then { o with code := 4 } else x }).send p.port
        (swPlace p.sw) (16 + k.grp) (.chunk p.sw (memberPort k.core) { k with vals := v, bad := true })))) ∧
  (∀ (s : State) (o : Outstanding) (t : Thread), s.thread o.tid = some t → t.wait = .held .fabric → o.comm = false → o.record = none →
    o.code = 0 → ∀ code,
    let v := statusOf o.seq 0 code
    let s1 := if o.ticket = 0 then s else (s.store o.ticket 8 v).setFull o.ticket true
    let back := t.fab.set o.place (some (BitVec.ofNat 64 v))
    (none ∈ back → s.returnStatus o code = s1.setThread o.tid { t with fab := back }) ∧
    (∀ (w : Word) (l : List Word), back = (w :: l).map some →
      let good (w : Word) : Prop := w.toNat % 256 = 0
      let ends (z : Word) : Prop := State.writeRefused o.tid t.fabD z = false →
        s.returnStatus o code = (s1.setThread o.tid { t with fab := back }).result o.tid { t with fab := [] } t.fabD z
      ((∀ x ∈ w :: l, good x) → ends ((w :: l).getLastD 0)) ∧
      (∀ l1 x l2, w :: l = l1 ++ x :: l2 → (∀ y ∈ l1, good y) → ¬ good x → ends x))) ∧
  (∀ (s : State) (o : Outstanding) (code : Nat), o.comm = true → o.record = none → o.code = 0 → o.ticket = 0 →
    s.returnStatus o code = s.pushX o.core 0 [statusOf o.seq o.op code]) ∧
  (∀ (s s1 : State) (n : Nat) (m : Msg) (core g seq code : Nat) (o : Outstanding), s.deliver n = some (m, s1) →
    m.body = .status core g seq code →
    (s.fab.statusPasses g m.src core = false → exec (.statusReturn n) s = .next (s1.cutOff g seq [core])) ∧
    (s.fab.statusPasses g m.src core = true →
    (s1.fab.flight.find? fun o => o.core == core && o.grp == g && o.seq == seq && !o.cut) = some o →
    (o.left ≤ 1 → exec (.statusReturn n) s =
      .next ((s1.modFab fun f => { f with flight := s1.fab.flight.erase o }).returnStatus o code)) ∧
    (1 < o.left → exec (.statusReturn n) s = .next (s1.modFab fun f =>
      { f with flight := s1.fab.flight.erase o ++ [{ o with left := o.left - 1, code := if o.code = 0 then code else o.code }] })))) ∧
  (∀ (s : State) (core g seq : Nat) (o : Outstanding) (x : Group), s.fab.flight = [o] → o.core = core → o.grp = g → o.seq = seq →
    s.fab.group g = some x →
    (s.fab.connected x.spec core = false → o.since + 2000 * o.tout ≤ s.ticks → exec (.memberCutoffTimeout core g seq) s =
      .next ((s.modFab fun f => { f with flight := [] }).returnStatus { o with code := 7 } 7)) ∧
    (s.fab.connected x.spec core = true → o.cut = false → exec (.memberCutoffTimeout core g seq) s = .next s) ∧
    (s.ticks < o.since + 2000 * o.tout → exec (.memberCutoffTimeout core g seq) s = .next s)) ∧
  (∀ (s : State) (core : Nat) (w : Word) (r : List Word), (s.core core).xq.at [] 3 = w :: r →
    let g := w.toNat % 2 ^ 32
    exec (.commX3Query core) s = .next ((s.modCore core fun k => { k with xq := k.xq.put 3 r }).pushX core 2
      [4 * 2 ^ 56 + g, s.fab.query core (4 * corePkg core + (s.ownerOf core 15).getD 0) g])) ∧
  (∀ (s : State) (core x : Nat) (w : Word) (r : List Word), (s.core core).xq.at [] 1 = w :: r → s.ownerOf core 15 = some x →
    let s1 := s.modCore core fun k => { k with xq := k.xq.put 1 r }
    let cx := 4 * corePkg core + x
    let op := bits w.toNat 33 32
    let n := bits w.toNat 39 36 + 1
    let tid := 16 * core + 15
    let src := srcOf tid
    let answers (z : State) : Prop := exec (.commX1Element core) s = .next z
    (∀ e, s1.check core x (w &&& 0xFFFFF) (64 * n) segR 64 = .error e → answers (s1.modThread tid (·.relFaulted e))) ∧
    ∀ la l, s1.check core x (w &&& 0xFFFFF) (64 * n) segR 64 = .ok la → s.isBad la (64 * n) = false → s1.cdChain core x op la n = .ok l →
      let pages := l.flatMap (·.offs)
      -- a page of a source that has no entry is walked for first
      (∀ o, s.portMiss (.slot tid) (clusterOf core) pages = some o → answers (s.askWalk (clusterOf core) o (.slot tid))) ∧
      (s.portMiss (.slot tid) (clusterOf core) pages = none →
        (∀ va, s1.commPages tid l = some va → answers ((s1.modThread tid (·.relFaulted ⟨7, va⟩)).dropNotes (.slot tid))) ∧
        (s1.commPages tid l = none →
          let s2 := pages.foldl (fun s o => (s.portPlaceOf (.slot tid) (clusterOf core) o).2) s1
          let gates := s2.fabGates (s.ctx cx).replay cx (coreDie core) core src 0 l
          (∀ s3 rs, gates = .ok (s3, rs) →
            answers (((s3.chainGoes cx src l none).issueChain core cx op tid true 0 (l.zip rs)).dropNotes (.slot tid))) ∧
          -- the wait, and a divergence, name the group whose record does not come (R369, R371)
          (∀ o, gates = .error (.wait .replay o) → answers ((s.chainGoes cx src l (some o)).unitWaits cx core src o)) ∧
          (∀ o a e, gates = .error (.diverge o a e) →
            answers ((s.chainGoes cx src l (some o)).unitDiverges cx (coreDie core) core src o a e)))))

/-- R51, R411, R412, R413: reduction slots. The first chunk of a sequence number starts a Free slot's timer; chunks of the other
children join it, and one of another COUNT, FMT, op, DST or DCORE, or marked bad, marks a mismatch. The last child's chunk sends
the chunks, combined in ascending port order, to the parent, or lets the root decide and frees the slot. A slot that is busy leaves
the chunk waiting, and a late number, which it has left behind, has a dead notice (log 70); a Dead one answers 1 to a late chunk of
its number, and begins again with the number NSLOT further. In Collect the timer's expiry makes the slot Dead and sends dead
notices to the children and the parent; a notice from the parent frees a slot in Up, or makes it Dead, and is passed to every
child; a child's dead notice makes the root's undecided number dead (log 70). A result at its destination is checked there,
written, its words set full, its counter increased; a failed check writes nothing and gives 4, and a refused counter gives 4 with
the data written. Completes: reductionChunkArrival, slotTimerExpiry, slotNoticeArrival, destinationWrite. What a clear cuts off is
the model's (log 46). -/
def Obligations.ReductionSlots : Prop :=
  (∀ (s s1 : State) (n sw port : Nat) (m : Msg) (k : Chunk) (x : Group), n < 2 ^ 49 → s.deliver n = some (m, s1) →
    m.body = .chunk sw port k → s1.fab.group k.grp = some x →
    (s.fab.chunkPasses x.spec sw port = false → exec (.reductionChunkArrival n) s = .next s1) ∧
    (s.fab.chunkPasses x.spec sw port = true →
    let key := slotKey x.spec k.grp k.seq
    let y := s1.slot sw key
    let children := (childPorts x.spec sw).length
    let first (st : SlotState) : RedSlot := ⟨st, k.seq, [(port, k)], k.bad, s1.ticks⟩
    let behind := (y.seq + 2 ^ 24 - k.seq) % 2 ^ 24
    let late : Prop := 1 ≤ behind ∧ behind < 2 ^ 23
    let runs (z : State) : Prop := exec (.reductionChunkArrival n) s = .next z
    let sends (z : State) (up upPort : Nat) (c : Chunk) : State := z.send (swPlace sw) (swPlace up) (16 + k.grp) (.chunk up upPort c)
    (y.st = .free → 1 < children → runs (s1.setSlot sw key (first .collect))) ∧
    (y.st = .free → children = 1 → ∀ up upPort, parentOf x.spec sw = some (up, upPort) → s1.fab.upLink x.spec sw = true →
      runs (sends (s1.setSlot sw key (first .up)) up upPort k)) ∧
    (y.st = .collect → y.seq = k.seq →
      let chunks := y.chunks.put port k
      let bad := y.bad || k.bad || (match y.chunks.head? with | some f => !sameHeader f.2 k | none => false)
      let z : RedSlot := { y with chunks := chunks, bad := bad }
      (chunks.length < children → runs (s1.setSlot sw key z)) ∧
      (children ≤ chunks.length → ∀ f l up upPort, chunks.map (·.2) = f :: l → parentOf x.spec sw = some (up, upPort) →
        s1.fab.upLink x.spec sw = true →
        runs (sends (s1.setSlot sw key { z with st := .up }) up upPort { f with vals := combine (f :: l), bad := bad })) ∧
      (∀ p0 k0, y.chunks = [(p0, k0)] → port ≠ p0 → chunks.map (·.2) = if port < p0 then [k, k0] else [k0, k]) ∧
      (children ≤ chunks.length → parentOf x.spec sw = none →
        runs (((s1.setSlot sw key z).rootDecides x.spec sw k.grp z).setSlot sw key RedSlot.free))) ∧
    (y.st = .collect → y.seq ≠ k.seq → ¬ late → runs s) ∧ (y.st = .up → ¬ late → runs s) ∧
    (y.st = .collect ∧ y.seq ≠ k.seq ∧ late ∨ y.st = .up ∧ late ∨ y.st = .dead ∧ (y.seq = k.seq ∨ late) →
      runs (s1.notifyChild x.spec sw k.grp k.seq 1 none port)) ∧
    (y.st = .dead → y.seq ≠ k.seq → ¬ late →
      (k.seq = (y.seq + specSlots x.spec) % 2 ^ 24 → 1 < children → runs (s1.setSlot sw key (first .collect))) ∧
      (k.seq ≠ (y.seq + specSlots x.spec) % 2 ^ 24 → runs s)))) ∧
  (∀ (k : Chunk) (l : List Chunk), combine [k] = k.vals ∧
    (l ≠ [] → combine (k :: l) = (List.range k.vals.length).map fun i =>
      Fmt.fp32.round .rne 0 true (switchSum ((k :: l).map fun c => Fmt.fp32.decode (c.vals.getD i 0))))) ∧
  (∀ (s : State) (sw g slot : Nat) (x : Group), s.fab.group g = some x →
    let y := s.slot sw (16 * g + slot)
    let root := if sw = rootSw x.spec then s.decided g y.seq else s
    let dead := (root.setSlot sw (16 * g + slot) { y with st := .dead, chunks := [] }).notifyChildren x.spec sw g y.seq 1 none
    (y.st = .collect → y.since + 1000 * specTout x.spec ≤ s.ticks → NatSet.has s.fab.down (downSw sw) = false →
      exec (.slotTimerExpiry sw g slot) s = .next (s.killSlot x.spec sw g (16 * g + slot) y)) ∧
    (y.st ≠ .collect ∨ s.ticks < y.since + 1000 * specTout x.spec ∨ NatSet.has s.fab.down (downSw sw) = true →
      exec (.slotTimerExpiry sw g slot) s = .next s) ∧
    (y.st = .collect → parentOf x.spec sw = none → s.killSlot x.spec sw g (16 * g + slot) y = dead) ∧
    (∀ up upPort, y.st = .collect → parentOf x.spec sw = some (up, upPort) → dead.fab.upLink x.spec sw = true →
      s.killSlot x.spec sw g (16 * g + slot) y = dead.send (swPlace sw) (swPlace up) (16 + g) (.notice up g y.seq 1 none))) ∧
  (∀ (s s1 : State) (n sw g seq code : Nat) (m : Msg) (c : Option Chunk) (x : Group), s.deliver n = some (m, s1) →
    m.body = .notice sw g seq code c → s1.fab.group g = some x → NatSet.has s.fab.down (downSw sw) = false →
    let key := slotKey x.spec g seq
    let y := s1.slot sw key
    (sw ≠ rootSw x.spec → y.st = .up → y.seq = seq → exec (.slotNoticeArrival n) s =
      .next ((s1.notifyChildren x.spec sw g seq code c).setSlot sw key
        (if code = 1 then { y with st := .dead, chunks := [] } else RedSlot.free))) ∧
    (sw = rootSw x.spec → y.st = .collect → y.seq = seq → exec (.slotNoticeArrival n) s = .next (s1.killSlot x.spec sw g key y)) ∧
    (sw ≠ rootSw x.spec → y.st ≠ .up ∨ y.seq ≠ seq → exec (.slotNoticeArrival n) s = .next s1)) ∧
  (∀ (s s1 : State) (n core : Nat) (m : Msg) (k : Chunk) (bytes : List Byte) (l : List Nat), s.deliver n = some (m, s1) →
    m.body = .write core k bytes l →
    (s.fab.writePasses k core = false → exec (.destinationWrite n) s = .next (s1.cutOff k.grp k.seq l)) ∧
    (s.fab.writePasses k core = true →
    (s.fab.contextAt k.grp core = none → exec (.destinationWrite n) s = .next (s1.writeAnswers core k 4 l)) ∧
    (∀ cx e, s.fab.contextAt k.grp core = some cx → s.fab.keptAt k.grp core = none → s.coreOk core = true → bytes ≠ [] →
      s1.check core (cx % 4) (BitVec.ofNat 64 k.dst) bytes.length segW 1 = .error e →
      exec (.destinationWrite n) s = .next (s1.writeAnswers core k 4 l)) ∧
    (∀ cx la, s.fab.contextAt k.grp core = some cx → s.fab.keptAt k.grp core = none → s.coreOk core = true → bytes ≠ [] →
      s1.check core (cx % 4) (BitVec.ofNat 64 k.dst) bytes.length segW 1 = .ok la →
      let w := (s1.storeBytes la bytes).markBlock la bytes.length true
      (k.ctr = none → exec (.destinationWrite n) s = .next (w.writeAnswers core k 0 l)) ∧
      (∀ i, k.ctr = some i → w.ownsCounter core cx i = false → exec (.destinationWrite n) s = .next (w.writeAnswers core k 4 l)) ∧
      (∀ i, k.ctr = some i → w.ownsCounter core cx i = true → (w.ctx cx).replay = 0 → ∃ z : State, exec (.destinationWrite n) s = .next z ∧
        (z.core core).counters.at 0 i = (w.core core).counters.at 0 i + 1 ∧ z.mem = w.mem)) ∧
    -- a result of a context that has returned to Free is written where its store was (R424)
    (∀ cx r d, s.fab.contextAt k.grp core = some cx → s.fab.keptAt k.grp core = some (r, d) → s.coreOk core = true → bytes ≠ [] →
      (d.limit ≤ r.lssize → k.dst + bytes.length ≤ d.limit → segW &&& d.rights = segW →
        let la := lsAddr core r.lsbase + k.dst
        let w := (s1.storeBytes la bytes).markBlock la bytes.length true
        (k.ctr = none → exec (.destinationWrite n) s = .next (w.writeAnswers core k 0 l)) ∧
        -- and counted at once, whatever context has its number now
        (∀ i, k.ctr = some i → r.cfirst ≤ i → i < r.cfirst + r.ccount → exec (.destinationWrite n) s = .next ((w.modCore core fun y =>
          { y with counters := y.counters.put i ((w.core core).counters.at 0 i + 1) }).writeAnswers core k 0 l))) ∧
      (d.limit < k.dst + bytes.length → exec (.destinationWrite n) s = .next (s1.writeAnswers core k 4 l)))))

/-- R222, R364, R375 to R378, R402: debugging and time. bpset, bpclr, tstart and tstop send their change to every core where the
context is present and wait; made, breakpoint i holds read(B) with bits [1:0] cleared and the action, or is invalid, and the trace
mask is bits [2:0] of read(A), or 0. An action of 10 or 11 raises cause 0x01. snap writes the thread's packet, with pc past the
snap, into its own local store and gives the time. A breakpoint of action 00 raises cause 0x10 with ebad 0; one of action 01 makes
the thread Stopped. A time message that carries a time the master has sent, and a delay within 50 ns (log 8), sets D to the carried
time plus the delay, never below what D holds; the lowest spine of plane 0 that is up takes over as time master; a tick adds 1 ns,
and each microsecond the master sends its time; a cycle of a running account adds 1 to its position's class and to the bucket of
Ready slots. Completes: bpset, bpclr, tstart, tstop, snap, hardwareBreakpoint, timeMessage, masterTimeFailover,
timeStampCounterTick, timeAccountCycle. -/
def Obligations.DebugAndTime : Prop :=
  (∀ (p : BitVec 3) (q : BitVec 1) (a b : BitVec 4) (s s1 : State) (t : Thread) (v : List Word), s.Issues p q 4 t → t.relaxed = [] →
    let cx := cxOf (coreOf s.cur) t
    let asks (n : Nat) : State := s1.wait s.cur t (.mem { kind := .dbg, vals := v, n := n })
    let gives (i : Instr) (n : Nat) (f : Context → Context) : Prop := exec i s = .next (asks n) ∧ exec (.memoryReply s.cur) (asks n) =
      .next ((((asks n).modCtx cx f).toldCores s.cur cx).retire s.cur (t.waiting (.mem { kind := .dbg, vals := v, n := n })))
    let i := (nth v 0).toNat % 16
    (s.Reads t [a, b] [] v s1 →
      ((nth v 1).toNat % 4 < 2 →
        gives (.bpset p q a b) 0 fun k => { k with bps := k.bps.put i (nth v 1 &&& ~~~3, (nth v 1).getLsbD 0) }) ∧
      (2 ≤ (nth v 1).toNat % 4 → exec (.bpset p q a b) s = .next (s.trap s.cur t 1 ((wordOf (.bpset p q a b)).setWidth 64)))) ∧
    (s.Reads t [a] [] v s1 → gives (.bpclr p q a) 1 (fun k => { k with bps := k.bps.del i }) ∧
      gives (.tstart p q a) 2 (fun k => { k with trace := (nth v 0).setWidth 3 })) ∧
    (s.Reads t [] [] v s1 → gives (.tstop p q) 3 fun k => { k with trace := 0 })) ∧
  (∀ (s : State) (tid : Nat) (t : Thread) (r : Req), s.thread tid = some t → t.wait = .mem r → r.kind = .dbg → r.locs = [] →
    let i := (nth r.vals 0).toNat % 16
    let b := nth r.vals 1
    let cx := cxOf (coreOf tid) t
    let made (f : Context → Context) : State := ((s.modCtx cx f).toldCores tid cx).retire tid t
    (r.n = 0 → exec (.memoryReply tid) s = .next (made fun k => { k with bps := k.bps.put i (b &&& ~~~3, b.getLsbD 0) })) ∧
    (r.n = 1 → exec (.memoryReply tid) s = .next (made fun k => { k with bps := k.bps.del i })) ∧
    (r.n = 2 → exec (.memoryReply tid) s = .next (made fun k => { k with trace := (nth r.vals 0).setWidth 3 })) ∧
    (r.n = 3 → exec (.memoryReply tid) s = .next (made fun k => { k with trace := 0 }))) ∧
  (∀ (p : BitVec 3) (q : BitVec 1) (d a : BitVec 4) (s s1 : State) (t : Thread) (v : List Word) (la : Nat), s.Issues p q 4 t →
    s.Reads t [a] [d] v s1 → s1.check (coreOf s.cur) t.ctx (nth v 0) 128 segW 128 = .ok la →
    (laRegion la = 1 → laCore la = coreOf s.cur → (t.relaxed.any fun x => s1.touches x (.loc la) 128) = true →
      exec (.snap p q d a) s = .next (s.wait s.cur t (.mem { kind := .drain }))) ∧
    (laRegion la = 1 → laCore la = coreOf s.cur → (t.relaxed.any fun x => s1.touches x (.loc la) 128) = false →
      let s2 := s1.storeBytes la ({ t with pc := t.pc + 4 }.packet (coreOf s.cur) (s1.wakePending s.cur t.ctx) 1)
      let now := BitVec.ofNat 64 (s2.time (coreOf s.cur))
      State.writeRefused s.cur d now = false → exec (.snap p q d a) s = .next (s2.result s.cur t d now)) ∧
    (laRegion la ≠ 1 → exec (.snap p q d a) s = .next (s.trap s.cur t 0x0C (nth v 0)))) ∧
  (∀ (s : State) (n : Nat) (t : Thread) (x : Word), s.thread s.cur = some t →
    let c := coreOf s.cur
    ((s.ctx (cxOf c t)).bps.find? n = some (x, false) → exec (.hardwareBreakpoint n) s = .next (s.trap s.cur t 0x10 0)) ∧
    ((s.ctx (cxOf c t)).bps.find? n = some (x, true) → t.relaxed = [] → ∃ r : Rec, r.kind = 0x85 ∧ r.src = srcOf s.cur ∧
      exec (.hardwareBreakpoint n) s =
        .next ((s.setThread s.cur { t with wait := .stopped }).traceHard (cxOf c t) (coreDie c) r))) ∧
  (∀ (s : State) (pkg carried delay : Nat), (s.fab.sent < carried ∨ s.ticks + 50 < carried + delay →
      exec (.timeMessage pkg carried delay) s = .next s) ∧
    (s.ticks ≤ carried + delay → carried ≤ s.fab.sent → carried + delay ≤ s.ticks + 50 → ∃ s2 : State, exec (.timeMessage pkg carried delay) s = .next s2 ∧
      s2.ticks + (s2.pkg pkg).d = Nat.max (s.ticks + (s.pkg pkg).d) (carried + delay) ∧ s2.mem = s.mem ∧ s2.threads = s.threads)) ∧
  (∀ s : State, ((∀ e ∈ s.pkgs, e.2.traces = []) →
      let n : State := { s with ticks := s.ticks + 1 }
      ((s.ticks + 1) % 1000 ≠ 0 ∨ s.fab.masterUp = false → exec .timeStampCounterTick s = .next n) ∧
      ((s.ticks + 1) % 1000 = 0 → s.fab.masterUp = true →
        exec .timeStampCounterTick s = .next (n.modFab fun f => { f with sent := s.ticks + 1 }))) ∧
    (NatSet.has s.fab.down (downSw (spineSw 0 s.fab.master)) = false → exec .masterTimeFailover s = .next s) ∧
    (NatSet.has s.fab.down (downSw (spineSw 0 s.fab.master)) = true →
      ∀ i, i < 9 → NatSet.has s.fab.down (downSw (spineSw 0 i)) = false →
        (∀ j, j < i → NatSet.has s.fab.down (downSw (spineSw 0 j)) = true) →
        exec .masterTimeFailover s = .next (s.modFab fun f => { f with master := i }))) ∧
  (∀ (s : State) (c : Nat),
    let pos := s.clock % 16
    let cls := acctClass (s.thread (16 * c + pos))
    let bucket := 96 + ((List.range 16).filter fun x =>
      match s.thread (16 * c + x) with | some t => decide (t.wait = .ready) | none => false).length
    (s.core c).counted = s.clock → (s.core c).acctRun = true →
    ∃ s2 : State, exec (.timeAccountCycle c) s = .next s2 ∧ s2.threads = s.threads ∧ s2.mem = s.mem ∧
      (s2.core c).acctCnt.at 0 (6 * pos + cls) = ((s.core c).acctCnt.at 0 (6 * pos + cls) + 1) % 2 ^ 64 ∧
      (s2.core c).acctCnt.at 0 bucket = ((s.core c).acctCnt.at 0 bucket + 1) % 2 ^ 64 ∧
      ∀ i, i ≠ 6 * pos + cls → i ≠ bucket → (s2.core c).acctCnt.at 0 i = (s.core c).acctCnt.at 0 i)

/-- A thread's record in its context's save area is at place l: its page is in the cluster's TLB, or has been walked for; s0 is the
state with the TLB touched and the bank's time heard (R288, R294, R364). -/
def Sys2Proof.Machine.State.RecordAt (s : State) (tid cx : Nat) (l : Loc) (s0 : State) : Prop :=
  ∃ (r : Resid) (s1 : State),
    let c := coreOf tid
    let off := canonLa (corePkg c) (r.savebase + 512 * slotOf tid)
    s.resid cx c = some r ∧ s.portMiss (.slot tid) (clusterOf c) [off] = none ∧
      s.portPlaceOf (.slot tid) (clusterOf c) off = (some l, s1) ∧ s0 = s1.heardAt c l

/-- R190, R191, R288, R294, R357, R358, R367, R369, R371, R381: spilling, the order log and replay. The spill engine asks for the
page of the thread's record where it has no entry, and writes the packet of a thread at an instruction boundary to its record in
the save area, after which the slot is Vacant; with neither recording nor replay, the thread resumes from its record into the same
slot, Ready, where the record's 128 or 512 bytes are good (log 41). The log unit writes the oldest pending record into the ring and
advances logprod by one; an append that meets an unmapped, bad or sealed page stops the unit. In replay a loaded record goes to its
object, and one of a KIND that is never written is retired without effect, with a trace record of kind 0x86 and reason 1. A wait
beyond rtimeout is a divergence. Completes: spill, spillResume, logAppend, logAppendFailure, replayRecordDispatch,
replayWaitTimeout. What stops and what resumes where the spec leaves it open is the model's (log 41, log 48). -/
def Obligations.SpillLogReplay : Prop :=
  (∀ (s s0 : State) (tid : Nat) (t : Thread) (l : Loc), NatSet.has (s.core (coreOf tid)).toSpill (slotOf tid) = true →
    s.thread tid = some t →
    let c := coreOf tid
    s.serves tid t.ctx = false →
    (t.boundary = false → exec (.spill tid) s = .next s) ∧
    (∀ r o, t.boundary = true → s.resid (cxOf c t) c = some r →
      s.portMiss (.slot tid) (clusterOf c) [canonLa (corePkg c) (r.savebase + 512 * slotOf tid)] = some o →
      exec (.spill tid) s = .next (s.askWalk (clusterOf c) o (.slot tid))) ∧
    (t.boundary = true → s.RecordAt tid (cxOf c t) l s0 → s0.sealedAt l = false →
      let a := s0.abandon tid t
      let s1 := a.1.storeBytes l.key (a.2.record c (s0.wakePending tid t.ctx) 8)
      let m : SavedMark := { frozen := t.seq.frozen, row := t.row, handler := t.handler, passBp := t.passBp,
                             zeroed := t.zeroed }
      exec (.spill tid) s =
        .next ((((s1.vacate tid).modCtx (cxOf c t) fun k => { k with saved := k.saved.put tid m }).spilt tid).dropNotes (.slot tid)))) ∧
  (∀ (s s0 : State) (tid cx : Nat) (m : SavedMark) (l : Loc), (s.ctx cx).saved.find? tid = some m → s.serves tid (cx % 4) = true →
    s.thread tid = none → NatSet.has (s.core (coreOf tid)).reserved (slotOf tid) = false → s.running cx = true →
    (s.core (coreOf tid)).disabled = false → s.RecordAt tid cx l s0 → (s0.ctx cx).replay = 0 →
    (s0.ctx cx).trace = 0 →
    let b := s0.mem.bytes l.key 512
    let t := if packetExt b then (Thread.ofPacket b).withExt b m.frozen m.row m.zeroed else Thread.ofPacket b
    (s0.isBad l.key (if packetExt b then 512 else 128) = true → exec (.spillResume tid cx) s = .next (s0.dropNotes (.slot tid))) ∧
    (s0.isBad l.key (if packetExt b then 512 else 128) = false → exec (.spillResume tid cx) s =
      .next ((((s0.modCtx cx fun k => { k with saved := k.saved.del tid }).unitGoes cx (srcOf tid)
      (slotObj tid)).seat tid { t with ctx := cx % 4, handler := m.handler, passBp := m.passBp }).dropNotes (.slot tid)))) ∧
  (∀ (s : State) (cx die : Nat) (r : Rec), s.nextAppend cx die = some r →
    let l := (s.ctx cx).log die
    (∀ p, s.recordPlace cx die l.prod.toNat = some p → s.isBad p.key 32 = false → s.sealedAt p = false →
      exec (.logAppend cx die) s = .next (((s.heardAt (diePlace (2 * (cx / 4) + die)) p).storeBytes p.key r.bytes).modCtx cx fun k =>
        k.setLog die { l with prod := l.prod + 1, pending := l.pending.drop 1 }) ∧
      exec (.logAppendFailure cx die) s = .next s) ∧
    ((∀ p, s.recordPlace cx die l.prod.toNat = some p → s.isBad p.key 32 = true ∨ s.sealedAt p = true) →
      exec (.logAppend cx die) s = .next s ∧ exec (.logAppendFailure cx die) s = .next (s.stopLog cx die))) ∧
  (∀ (s : State) (cx die i : Nat) (p : Loc), (s.ctx cx).replay = 2 → ((s.ctx cx).log die).unread = some i →
    s.recordPlace cx die i = some p → s.isBad p.key 32 = false →
    let l := (s.ctx cx).log die
    let r := Rec.ofBytes (s.mem.bytes p.key 32)
    let s2 := s.heardAt (diePlace (2 * (cx / 4) + die)) p
    (1 ≤ r.kind → r.kind ≤ 15 →
      let s1 := s2.modCtx cx fun k => k.setLog die { l with nextRead := i + 1, dispatched := l.dispatched ++ [(i, r)] }
      exec (.replayRecordDispatch cx die) s =
        .next (s1.passResumes cx r.obj ((s1.ctx cx).log0.dispatched.length + (s1.ctx cx).log1.dispatched.length))) ∧
    (r.kind = 0 ∨ 15 < r.kind → ∃ x : Rec, x.kind = 0x86 ∧ x.obj = r.obj ∧ x.out % 256 = 1 ∧ exec (.replayRecordDispatch cx die) s =
      .next ((s2.modCtx cx fun k => k.setLog die ({ l with nextRead := i + 1 }.retire i)).traceHard cx die x))) ∧
  (∀ (s : State) (tid since obj : Nat) (t : Thread), tid < 2 ^ 32 → s.thread tid = some t → t.replayFrom = some (since, obj) →
    let k := s.ctx (cxOf (coreOf tid) t)
    (k.replay = 2 → k.rtimeout ≠ 0 → since + k.rtimeout.toNat < s.time (coreOf tid) →
      exec (.replayWaitTimeout tid) s = .next (s.replayExpires tid t obj)) ∧
    (k.rtimeout = 0 → exec (.replayWaitTimeout tid) s = .next s) ∧
    (s.time (coreOf tid) ≤ since + k.rtimeout.toNat → exec (.replayWaitTimeout tid) s = .next s))

/-- R386, R387, R389, R390, R395: how a package that is on receives a command packet in a step i. From an endpoint outside the host
table it is dropped and counted; in recovery only an attestation query is heard; while its connection has a packet that is not
answered it waits, and the queued step takes the oldest one that waits; else what it gives is done at once. -/
def Sys2Proof.Receives (i : Bool → Instr) (pkg ep conn : Nat) (bytes : List Byte) (attest : Bool) (gives : State → State → Prop) : Prop :=
  ∀ s z : State,
    let k := s.pkg pkg
    let p : Packet := { conn := conn, ep := ep, bytes := bytes }
    k.off = false →
    (k.hosts.contains ep = false → exec (i false) s = .next (s.modPkg pkg fun k => { k with dropped := k.dropped + 1 })) ∧
    (k.hosts.contains ep = true → k.recovery = true → attest = false → exec (i false) s = .next s) ∧
    (k.recovery = false ∨ attest = true →
      (k.hosts.contains ep = true → k.busy conn = false → k.nextPacket conn = none → gives s z → exec (i false) s = .next z) ∧
      (k.hosts.contains ep = true → k.busy conn = true ∨ k.nextPacket conn ≠ none →
        exec (i false) s = .next (s.modPkg pkg fun k => { k with inbox := k.inbox ++ [p] })) ∧
      (k.busy conn = false → k.nextPacket conn = some p → gives (s.modPkg pkg fun k => { k with inbox := k.inbox.erase p }) z →
        exec (i true) s = .next z))

/-- R388, R296: images installed in order as hins installs them, with the status byte of each: what comes of a list of them. -/
def Sys2Proof.Installs (pkg : Nat) : List (List Byte) → State → List Byte → State → Prop
  | [], s, done, z => done = [] ∧ z = s
  | l :: r, s, done, z => ∃ st s1 rest, s.install pkg l = some (st, s1) ∧ done = BitVec.ofNat 8 st :: rest ∧ Sys2Proof.Installs pkg r s1 rest z

/-- R387, R388: the bytes of a command packet. -/
def Sys2Proof.packetBytes (op ctx tag : Nat) (body : List Byte) : List Byte :=
  leBytes 1 op ++ [0] ++ leBytes 1 ctx ++ leBytes 5 0 ++ leBytes 8 tag ++ leBytes 4 body.length ++ leBytes 12 0 ++ body

/-- R314, R317, R318, R321, R386 to R390, R395, R396, R399: command packets. A packet is its 32-byte header and its body, which is
as long as its layout (log 72); any other has status 1, and a response has the same layout. LOAD copies host bytes into mapped,
unsealed pages, with status 1 for a range outside region 0, the host addresses or 2^40 bytes, 2 at a page without an entry, 3 at a
seal, 4 where the host's data are uncorrectable, 5 where the transport fails, and installs images in order with a status byte each;
LAUNCH refuses with 0x10 + the code of R317, or creates the context and answers its number, or changes the priority of a running
one before the next cycle that is a multiple of 16; SNAPSHOT writes the range to host memory, QUERY reads; the health query clears
CORR; SEAL checks the whole range, then seals or unseals its pages in turn; RESET frees a context, or returns the package to its
power-on state. Completes: loadData, loadPageTable, launchCreate, launchPriority, snapshot, queryHealth, queryDigest,
queryContextStates, queryAttestation, sealCommand, unsealCommand, resetContext, resetPackage. That a launch happens at one instant,
the answer 0 to a RESET of a Free context, and the order of LOAD's codes are the model's (log 54); so are a packet's exact layout,
the packets dropped in recovery and the inbox kept over RESET SCOPE 1 (log 72). -/
def Obligations.HostCommands : Prop :=
  (∀ (pkg ep conn : Nat) (bytes : List Byte),
    let answer (s : State) (ctx st : Nat) (body : List Byte) : State := s.answerTo pkg conn bytes ctx st body
    let malformed (s z : State) : Prop := z = answer s 0xFF 1 []
    let takes (i : Nat → Nat → Nat → Bool → List Byte → Instr) (c : Cmd) (gives : State → State → Prop) : Prop :=
      Cmd.parse bytes = some c → Receives (fun q => i pkg ep conn q bytes) pkg ep conn bytes false gives
    (Cmd.parse bytes = none → ∀ i : Nat → Nat → Nat → Bool → List Byte → Instr,
      i ∈ [.loadData, .loadPageTable, .launchCreate, .launchPriority, .snapshot, .queryHealth, .queryDigest, .queryContextStates,
           .queryAttestation, .sealCommand, .unsealCommand, .resetContext, .resetPackage] →
      Receives (fun q => i pkg ep conn q bytes) pkg ep conn bytes false malformed) ∧
    (∀ host addr len, takes .loadData (.loadData host addr len) fun s z =>
      (2 ^ 43 < addr + len ∨ 2 ^ 64 < host + len ∨ 2 ^ 40 < len) ∧ malformed s z ∨
      addr + len ≤ 2 ^ 43 ∧ host + len ≤ 2 ^ 64 ∧ len ≤ 2 ^ 40 ∧
        (let r := (s.rmaTransfer pkg).2.loadWords pkg ep (len / 8 + 2) addr host (Config.rmaFails pkg (s.pkg pkg).transfers) len
         z = answer r.2 0xFF r.1 [])) ∧
    (∀ host len, takes .loadPageTable (.loadTable host len) fun s z =>
      (len % 32 ≠ 0 ∨ 2 ^ 64 < host + len ∨ 2 ^ 40 < len) ∧ malformed s z ∨
      len % 32 = 0 ∧ host + len ≤ 2 ^ 64 ∧ len ≤ 2 ^ 40 ∧ ∃ n done s2,
        let key := (Loc.host 0 ep host).key
        let passed := match Config.rmaFails pkg (s.pkg pkg).transfers with | some w => min (len / 32) (w / 4) | none => len / 32
        n ≤ passed ∧ (∀ i < n, s.isBad (key + 32 * i) 32 = false) ∧ (n < passed → s.isBad (key + 32 * n) 32 = true) ∧
        Installs pkg ((List.range n).map fun i => s.mem.bytes (key + 32 * i) 32) (s.rmaTransfer pkg).2 done s2 ∧
        z = s2.respond pkg conn (field bytes 8 8) 1 0xFF (if n < passed then 4 else if passed < len / 32 then 5 else 0) done) ∧
    (∀ addr, takes .launchCreate (.launch addr) fun s z =>
      (∃ code, s.launchCheck pkg addr = .error code ∧ z = answer s 0xFF (0x10 + code) []) ∨
      ∃ l es x, s.launchCheck pkg addr = .ok (l, es, x) ∧ z = answer (s.createContext pkg conn (field bytes 8 8) l es x) x 0 []) ∧
    (∀ cx prio, takes .launchPriority (.priority cx prio) fun s z =>
      (4 ≤ cx ∨ 4 ≤ prio ∨ (s.ctx (4 * pkg + cx)).st ≠ .running) ∧ malformed s z ∨
      cx < 4 ∧ prio < 4 ∧ (s.ctx (4 * pkg + cx)).st = .running ∧ z = s.modPkg pkg fun k =>
        { k with switches := k.switches ++ [(conn, field bytes 8 8, cx)], prios := k.prios ++ [(4 * pkg + cx, prio)] }) ∧
    (∀ addr len host, takes .snapshot (.snapshot addr len host) fun s z =>
      (2 ^ 43 < addr + len ∨ 2 ^ 64 < host + len) ∧ malformed s z ∨
      addr + len ≤ 2 ^ 43 ∧ host + len ≤ 2 ^ 64 ∧
        (let r := s.readWords pkg (len / 8 + 2) addr (Config.rmaFails pkg (s.pkg pkg).transfers) len
         z = answer ((s.rmaTransfer pkg).2.storeBytes (Loc.host 0 ep host).key r.1) 0xFF r.2 [])) ∧
    (∀ addr len, takes .queryDigest (.digest addr len) fun s z =>
      2 ^ 43 < addr + len ∧ malformed s z ∨ addr + len ≤ 2 ^ 43 ∧
        (let r := s.readWords pkg (len / 8 + 2) addr none len
         z = answer s 0xFF r.2 (if r.2 = 0 then sha256 r.1 else []))) ∧
    (takes .queryHealth .health fun s z => z = (answer s 0xFF 0 (leBytes 8 (s.pkg pkg).health.toNat)).setHealth pkg
      ((s.pkg pkg).health &&& 0xFF0000FFFFFFFFFF)) ∧
    (takes .queryContextStates .states fun s z => z = answer s 0xFF 0
      ((List.range 4).map fun x => match (s.ctx (4 * pkg + x)).st with | .free => 0 | .creating => 1 | .running => 2 | .halting => 3)) ∧
    (∀ nonce, nonce.length = 32 → Cmd.parse bytes = some (.attest nonce) →
      Receives (fun q => .queryAttestation pkg ep conn q bytes) pkg ep conn bytes true fun s z =>
        let l := s.report256 pkg nonce
        z = answer s 0xFF 0 (l ++ zeroPadded 64 (Config.identitySign pkg (sha256 l)) ++ Config.certificate pkg)) ∧
    (∀ addr len undo, takes (if undo then .unsealCommand else .sealCommand) (.seal addr len undo) fun s z =>
      2 ^ 43 < addr + len ∧ malformed s z ∨ addr + len ≤ 2 ^ 43 ∧ len = 0 ∧ z = answer s 0xFF 0 [] ∨
      addr + len ≤ 2 ^ 43 ∧ 0 < len ∧
        ((s.pagesFor pkg (addr + len) (len / 65536 + 2) addr = none ∧ z = answer s 0xFF 2 []) ∨
         ∃ l, s.pagesFor pkg (addr + len) (len / 65536 + 2) addr = some l ∧
           (wholePages addr (addr + len) l = false ∧ malformed s z ∨ wholePages addr (addr + len) l = true ∧ z = s.modPkg pkg fun k =>
             { k with seals := k.seals ++ [⟨pkg, undo, l.map (·.1), none, conn, field bytes 8 8⟩] }))) ∧
    (∀ cx, takes .resetContext (.resetCtx cx) fun s z => 4 ≤ cx ∧ malformed s z ∨
      cx < 4 ∧ (s.ctx (4 * pkg + cx)).st ≠ .free ∧ z = answer (s.freeContext (4 * pkg + cx)) cx 0 [] ∨
      cx < 4 ∧ (s.ctx (4 * pkg + cx)).st = .free ∧ z = answer s cx 0 []) ∧
    (takes .resetPackage .resetPkg fun s z => z = answer ((s.resetPackage pkg (s.pkg pkg).hosts (s.pkg pkg).repaired).modPkg pkg fun k =>
      { k with inbox := (s.pkg pkg).inbox }) 0xFF 0 [])) ∧
  (∀ (s : State) (pkg ep addr host len : Nat) (left : Option Nat), 0 < len → len ≤ 8 - addr % 8 →
    let gives (st : Nat) (z : State) : Prop := s.loadWords pkg ep (len / 8 + 2) addr host left len = (st, z)
    let bad : Bool := s.isBad (Loc.host 0 ep host).key len
    (left = some 0 → gives 5 s) ∧ (left ≠ some 0 → bad = true → gives 4 s) ∧
    (left ≠ some 0 → bad = false → s.hbmPlace pkg addr = none → gives 2 s) ∧
    (∀ p, left ≠ some 0 → bad = false → s.hbmPlace pkg addr = some p → s.sealedAt p = true → gives 3 s) ∧
    (∀ p, left ≠ some 0 → bad = false → s.hbmPlace pkg addr = some p → s.sealedAt p = false →
      gives 0 (s.storeBytes p.key (s.mem.bytes (Loc.host 0 ep host).key len)))) ∧
  (∀ (s : State) (pkg conn tag op ctx st : Nat) (body : List Byte), s.respond pkg conn tag op ctx st body = s.say (.response pkg conn
    (leBytes 1 op ++ leBytes 1 st ++ leBytes 1 ctx ++ leBytes 5 0 ++ leBytes 8 tag ++ leBytes 4 (min 4064 body.length) ++ leBytes 12 0 ++
      body.take 4064))) ∧
  (∀ (tag host addr len cx prio : Nat) (nonce : List Byte), tag < 2 ^ 64 → host < 2 ^ 64 → addr < 2 ^ 64 → len < 2 ^ 64 → cx < 256 →
    prio < 256 → nonce.length = 32 →
    let reads (op ctx : Nat) (body : List Byte) (c : Cmd) : Prop := Cmd.parse (packetBytes op ctx tag body) = some c
    reads 1 0xFF (leBytes 8 host ++ leBytes 8 addr ++ leBytes 8 len ++ [0]) (.loadData host addr len) ∧
    reads 1 0xFF (leBytes 8 host ++ leBytes 8 addr ++ leBytes 8 len ++ [1]) (.loadTable host len) ∧
    reads 2 0xFF (leBytes 8 addr ++ [0, 0, 0]) (.launch addr) ∧
    reads 2 0xFF (leBytes 8 addr ++ [1] ++ leBytes 1 cx ++ leBytes 1 prio) (.priority cx prio) ∧
    reads 3 0xFF (leBytes 8 addr ++ leBytes 8 len ++ leBytes 8 host) (.snapshot addr len host) ∧
    reads 4 0xFF [0] .health ∧ reads 4 0xFF ([1] ++ leBytes 8 addr ++ leBytes 8 len) (.digest addr len) ∧ reads 4 0xFF [2] .states ∧
    reads 4 0xFF ([3] ++ nonce) (.attest nonce) ∧ reads 5 0xFF (leBytes 8 addr ++ leBytes 8 len ++ [0]) (.seal addr len false) ∧
    reads 5 0xFF (leBytes 8 addr ++ leBytes 8 len ++ [1]) (.seal addr len true) ∧ reads 6 cx [0] (.resetCtx cx) ∧
    reads 6 0xFF [1] .resetPkg) ∧
  (∀ l : List Byte, (l.length < 32 ∨ field l 1 1 ≠ 0 ∨ field l 3 5 ≠ 0 ∨ field l 0x14 12 ≠ 0 ∨ 4064 < field l 0x10 4 ∨
    field l 0 1 = 0 ∨ 6 < field l 0 1) → Cmd.parse l = none) ∧
  (∀ (s : State) (pkg addr : Nat), (addr % 64 ≠ 0 → s.launchCheck pkg addr = .error 1) ∧
    (addr % 64 = 0 → s.hbmBytes pkg 192 addr = none → s.launchCheck pkg addr = .error 5)) ∧
  (∀ (s : State) (k : Package) (pkg cx prio : Nat), s.pkgs = [(pkg, k)] → k.prios = [(cx, prio)] → (s.ctx cx).st = .running →
    let next (z : State) : Prop := s.endCycle.ctxs = z.ctxs ∧
      ∀ c, s.endCycle.core c = { z.core c with dmaWait := (s.endCycle.core c).dmaWait }
    s.newOrders = ((s.setPriority cx prio).modPkg pkg fun k => { k with prios := [] }).answerSwitches pkg ∧
    ((s.clock + 1) % 16 = 0 → next s.newOrders) ∧ ((s.clock + 1) % 16 ≠ 0 → next s)) ∧
  (∀ (s : State) (pkg : Nat) (nonce : List Byte), nonce.length = 32 → (s.report256 pkg nonce).take 32 = nonce) ∧
  (∀ (s : State) (cx : Nat), (s.freeContext cx).ctx cx = Context.reset)

/-- R386, R395: how a package that is on receives a management message in a step i. From an endpoint outside the host table it is
dropped and counted; in recovery only one that recovery answers is heard; else what it gives is done. -/
def Sys2Proof.Manages (i : Instr) (pkg ep : Nat) (always : Bool) (gives : State → State → Prop) : Prop :=
  ∀ s z : State, (s.pkg pkg).off = false →
    ((s.pkg pkg).hosts.contains ep = false → exec i s = .next (s.modPkg pkg fun k => { k with dropped := k.dropped + 1 })) ∧
    ((s.pkg pkg).hosts.contains ep = true → (s.pkg pkg).recovery = true → always = false → exec i s = .next s) ∧
    ((s.pkg pkg).hosts.contains ep = true → (s.pkg pkg).recovery = false ∨ always = true → gives s z → exec i s = .next z)

/-- R376, R379, R386, R391, R392, R395, R397, R431: management, from an endpoint of the host table: it replaces the host table,
drops and counts a foreign packet, writes a window, sets a power cap from 800 to 1,600 W, and stores a verified image whose index
is not below the fused one, which rises to it, also in recovery. stop makes a thread Stopped at its next instruction boundary, and
waits until then; a Stopped thread's packet is read and written, and resume makes it Ready, its next instruction firing no
breakpoint. The clock steps down with THR set, and up until THR clears. After power-on the host table is the board's endpoint, no
page is mapped or sealed, every window is disabled, and TLBs, replica caches and instruction caches are empty; a shutdown leaves
the package so, with its host table, and off. Completes: hostset, window, powercap, foreignPacketDrop, fwload, stop, resume,
pkread, pkwrite, throttle, throttleRelease, powerOn, thermalShutdown. When a new image and a write of a frozen package take effect
is the model's (log 55). -/
def Obligations.Management : Prop :=
  (∀ pkg ep : Nat,
    (∀ eps, Manages (.hostset pkg ep eps) pkg ep false fun s z => 16 < eps.length ∧ z = s.managed pkg 1 ∨
      eps.length ≤ 16 ∧ z = (s.modPkg pkg fun k => { k with hosts := eps }).managed pkg 0) ∧
    (∀ n l, let w := Window.ofBytes l
      Manages (.window pkg ep n l) pkg ep false fun s z => (16 ≤ n ∨ windowLegal l = false) ∧ z = s.managed pkg 1 ∨
        n < 16 ∧ windowLegal l = true ∧ z = (s.modPkg pkg fun k =>
          { k with windows := if w.size = 0 then k.windows.del n else k.windows.put n w }).managed pkg 0) ∧
    (∀ w, Manages (.powercap pkg ep w) pkg ep false fun s z => (w < 800 ∨ 1600 < w) ∧ z = s.managed pkg 1 ∨
      800 ≤ w ∧ w ≤ 1600 ∧ z = (s.modPkg pkg fun k => { k with cap := w }).managed pkg 0) ∧
    (∀ n l, let h := Config.firmwareHeader l
      Manages (.fwload pkg ep n l) pkg ep true fun s z =>
        let ok : Bool := decide (n < 4) && Config.firmwareVerifies l && decide ((s.pkg pkg).fused ≤ h.2.1)
        let image : Firmware := { version := h.1, rollback := h.2.1, digest := sha256 h.2.2 }
        z = if ok then (s.modPkg pkg fun k => { k with stored := k.stored.put n image, fused := Nat.max k.fused h.2.1 }).managed pkg 0
            else s.managed pkg 1)) ∧
  (∀ (s : State) (pkg ep : Nat), (s.pkg pkg).off = false → (s.pkg pkg).hosts.contains ep = false →
    exec (.foreignPacketDrop pkg ep) s = .next (s.modPkg pkg fun k => { k with dropped := k.dropped + 1 })) ∧
  (∀ pkg ep lcn slot : Nat,
    let tid := 16 * lcn + slot
    let named (s : State) (t : Thread) : Prop := s.threadNamed pkg lcn slot = some (tid, t)
    let ended (s : State) : State := s.modPkg pkg fun k => { k with stops := NatSet.remove k.stops tid }
    let stops (s z : State) : Prop := (s.threadNamed pkg lcn slot = none ∧ z = (ended s).managed pkg 1) ∨
      (∃ t, named s t ∧ t.wait = .stopped ∧ z = (ended s).managed pkg 0) ∨
      (∃ t, named s t ∧ t.wait ≠ .stopped ∧ t.boundary = false ∧ z = s.modPkg pkg fun k => { k with stops := NatSet.insert k.stops tid }) ∨
      ∃ t, named s t ∧ t.wait ≠ .stopped ∧ t.boundary = true ∧
        z = (ended ((s.abandon tid t).1.stopThread tid (s.abandon tid t).2 1)).managed pkg 0
    let whole (l : List Byte) : Prop := (if packetExt l then 512 else 128) ≤ l.length
    Manages (.stop pkg ep lcn slot false) pkg ep false stops ∧
    (∀ s z, NatSet.has (s.pkg pkg).stops tid = true → stops s z → exec (.stop pkg ep lcn slot true) s = .next z) ∧
    (Manages (.resume pkg ep lcn slot) pkg ep false fun s z =>
      (∃ t, named s t ∧ t.wait = .stopped ∧ z = (s.setThread tid { t with wait := .ready, passBp := true, seq :=
        { t.seq with ents := t.seq.ents.map fun e => { e with recs := [] } } }).managed pkg 0) ∨
      (∀ t, named s t → t.wait ≠ .stopped) ∧ z = s.managed pkg 1) ∧
    (Manages (.pkread pkg ep lcn slot) pkg ep false fun s z =>
      (∃ t, named s t ∧ t.wait = .stopped ∧ z = s.say (.packet pkg 0 (t.record lcn (s.wakePending tid t.ctx) 7))) ∨
      (∀ t, named s t → t.wait ≠ .stopped) ∧ z = s.say (.packet pkg 1 [])) ∧
    (∀ l, Manages (.pkwrite pkg ep lcn slot l) pkg ep false fun s z =>
      (∃ t, named s t ∧ t.wait = .stopped ∧ whole l ∧ z = (s.setThread tid
        { Thread.ofRecord l t.seq.frozen t.row t.zeroed with handler := t.handler, wait := .stopped }).managed pkg 0) ∨
      (∀ t, named s t → t.wait ≠ .stopped ∨ ¬ whole l) ∧ z = s.managed pkg 1)) ∧
  (∀ (s : State) (pkg : Nat),
    ((s.pkg pkg).steps < 20 → exec (.throttle pkg) s =
      .next ((s.modPkg pkg fun k => { k with steps := k.steps + 1 }).setHealth pkg ((s.pkg pkg).health ||| thr))) ∧
    ((s.pkg pkg).steps = 0 → exec (.throttleRelease pkg) s = .next s) ∧
    ((s.pkg pkg).steps = 1 → exec (.throttleRelease pkg) s =
      .next ((s.modPkg pkg fun k => { k with steps := 0 }).setHealth pkg ((s.pkg pkg).health &&& ~~~thr))) ∧
    (2 ≤ (s.pkg pkg).steps →
      exec (.throttleRelease pkg) s = .next (s.modPkg pkg fun k => { k with steps := (s.pkg pkg).steps - 1 }))) ∧
  (∀ (s : State) (pkg : Nat) (repaired : Bool),
    let like (s2 : State) (hosts : List Nat) (off : Bool) : Prop :=
      (s2.pkg pkg).pt = [] ∧ (s2.pkg pkg).shadow = [] ∧ (s2.pkg pkg).sealed = [] ∧ (s2.pkg pkg).windows = [] ∧
      (s2.pkg pkg).hosts = hosts ∧ (s2.pkg pkg).off = off ∧
      (∀ cl, clPkg cl = pkg → (s2.cluster cl).tlb = [] ∧ (s2.cluster cl).replica = []) ∧ ∀ c, corePkg c = pkg → (s2.core c).icache = []
    (∃ s2 : State, exec (.powerOn pkg repaired) s = .next s2 ∧ like s2 [Config.boardEndpoint pkg] false ∧
      (s2.pkg pkg).logOff = (s.pkg pkg).logOff ∧ (repaired = true → (s2.pkg pkg).repaired = true)) ∧
    (∃ s2 : State, exec (.thermalShutdown pkg) s = .next s2 ∧ like s2 (s.pkg pkg).hosts true))

/-- R224, R312, R328, R351, R381, R383, R384, R385, R398, R399, R401, R419: what a failure comes to. Threads whose state is lost
are Stopped, each with a trace record of kind 0x84, at a core, in a barrier, or on an object; a unit that fails is disabled, the
health word counts it and asks for replacement; an entry or line that fails is dropped; the last sub-link's loss stops every thread
of the package, fewer than 4 lanes take a port down, a port or switch that is down breaks the installed groups whose trees use it,
a reduction slot with an uncorrectable error is Dead; a flit error is retried, a corrected error counted, at its channel too. A
channel is retired after more than 64 corrected errors within a second, or when scrubbing finds a unit of it uncorrectable for the
second time. Completes: every form of a failure, uncorrectableThreadState to treeEntryError. What the spec leaves open of a failure
is the model's (log 52, log 53). -/
def Obligations.Failures : Prop :=
  (∀ (s : State) (core cx tid : Nat),
    let stops (f : Nat → Thread → Bool) (detail : Nat) : State := s.stopAll f detail
    ((s.thread tid).isSome = true → exec (.uncorrectableThreadState tid) s =
      .next ((s.stopNow tid 3).modCore (coreOf tid) fun k => { k with asks := true })) ∧
    exec (.uncorrectableCoreState core) s =
      .next ((stops (fun x _ => coreOf x == core) 3).modCore core fun k => { k with asks := true }) ∧
    ((s.core core).disabled = false → exec (.coreDisable core) s =
      .next ((((stops (fun x _ => coreOf x == core) 3).modCore core fun k => { k with disabled := true, asks := false }).lost
        (corePkg core) 15 0 1).reportCore core)) ∧
    ((s.core core).disabled = true → exec (.coreDisable core) s = .next s) ∧
    exec (.mapEntryError cx core) s = .next ((stops (fun x t => coreOf x == core && cxOf core t == cx) 4).reportCtx cx) ∧
    (∀ obj, exec (.sequenceStateError cx obj) s =
      .next ((stops (fun x t => cxOf (coreOf x) t == cx && s.waitsOn x t obj) 3).reportCtx cx))) ∧
  (∀ (s : State) (tid detail : Nat) (t : Thread), s.thread tid = some t → t.wait ≠ .stopped →
    ∃ (s1 : State) (u : Thread), s.stopNow tid detail = s1.stopThread tid u detail ∧ u.pc = t.pc ∧
      ((s.stopNow tid detail).thread tid).map (·.wait) = some .stopped) ∧
  (∀ (s : State) (cl bar : Nat) (l : List Barrier), (s.cluster cl).bars.find? bar = some l →
    exec (.barrierStateError cl bar) s = .next ((l.flatMap (·.arrived)).foldl (fun s tid => s.stopNow tid 4) s)) ∧
  (∀ (s : State) (cl n line : Nat) (e : TlbEntry), ((s.cluster cl).tlb.flatMap (·.2))[n]? = some e →
    exec (.tlbEntryError cl n) s =
      .next (s.modCluster cl fun k => { k with tlb := k.tlb.mapVals fun _ l => l.filter fun x => x != e }) ∧
    exec (.replicaLineError cl line) s = .next (s.modCluster cl fun k =>
      { k with replica := k.replica.put (line % 6144) ((k.replica.at [] (line % 6144)).filter (· ≠ line)) })) ∧
  (∀ (s : State) (pkg die home bucket : Nat), s.clusters = [] → die < 2 →
    ∃ s2 : State, exec (.shardBucketError pkg die home bucket) s = .next s2 ∧ s2.mem = s.mem ∧ s2.threads = s.threads ∧
      ∀ w, w < 8 → (s.pkg pkg).pt.Sorted →
        (s2.pkg pkg).pt.find? (wayIndex die home bucket + w) = (s.pkg pkg).pt.find? (wayIndex (1 - die) home bucket + w)) ∧
  (∀ (s : State) (eng : Nat), (s.engine eng).disabled = false → (s.engine eng).queue = [] →
    ∃ s1 : State, exec (.engineFault eng) s = .next (s1.lost (eng / 128) 23 16 1) ∧ (s1.engine eng).disabled = true ∧
      s1.threads = s.threads ∧ s1.mem = s.mem ∧ s1.pkgs = s.pkgs) ∧
  (∀ (s : State) (eng : Nat) (j : Job) (r : List Job), (s.engine eng).disabled = false → (s.engine eng).queue = j :: r →
    let off := s.modEngine eng fun k => { k with disabled := true }
    let run := j.run.getD CopyRun.start
    let stopped : Job := { j with run := some { run with done := true, waits := 0, flags := run.flags ||| 2 } }
    off.takesFor eng ≠ eng → exec (.engineFault eng) s = .next (((off.modEngine eng fun k => { k with queue := [stopped] }).modEngine
      (off.takesFor eng) fun k => { k with queue := k.queue ++ r }).lost (eng / 128) 23 16 1)) ∧
  (∀ (s : State) (cl : Nat),
    ((s.cluster cl).thinOff = false → exec (.thinningUnitError cl) s = .next ((s.thinUnitFails cl).lost (clPkg cl) 23 16 1)) ∧
    ((s.cluster cl).thinOff = true → exec (.thinningUnitError cl) s = .next s)) ∧
  (∀ (s : State) (pkg die link : Nat), exec (.meshLinkFault pkg die link) s =
      .next (s.modPkg pkg fun k => { k with linkFaults := NatSet.insert k.linkFaults (2 * link + die % 2) }) ∧
    exec (.flitCrcError pkg link) s = .next s ∧
    (let counted := s.setHealth pkg (addField (s.pkg pkg).health 55 40 1)
     exec (.correctedError pkg none) s = .next counted ∧ ∀ a, exec (.correctedError pkg (some a)) s =
       .next (counted.chanError pkg (32 * (a / 2 ^ 36) + a / 256 % 32))) ∧
    (NatSet.has (s.pkg pkg).logOff die = true → exec (.logUnitDisabled pkg die) s = .next s) ∧
    (NatSet.has (s.pkg pkg).logOff die = false →
      ∃ s1 : State, exec (.logUnitDisabled pkg die) s = .next (s1.lost pkg 23 16 1) ∧ s1.threads = s.threads ∧ s1.mem = s.mem)) ∧
  (∀ (s : State) (pkg stack chan : Nat),
    let copying (done : Bool) (c : Nat) : State := s.modPkg pkg fun k => { k with spare := k.spare.put stack (c, done) }
    let retires (unit : Option Nat) : Prop :=
      ((s.pkg pkg).spare.find? stack = none → exec (.channelRetirement pkg stack chan unit) s = .next ((copying false chan).lost pkg 31 24 1)) ∧
      (∀ c done, (s.pkg pkg).spare.find? stack = some (c, done) →
        (c = chan → exec (.channelRetirement pkg stack chan unit) s = .next s) ∧
        (c ≠ chan → exec (.channelRetirement pkg stack chan unit) s = .next (s.setHealth pkg ((s.pkg pkg).health ||| spx))))
    (stack < 12 → chan < 32 →
      (64 < (((s.pkg pkg).chanErrs.at [] (32 * stack + chan)).filter fun x => s.ticks < x + 10 ^ 9).length → retires none) ∧
      ((((s.pkg pkg).chanErrs.at [] (32 * stack + chan)).filter fun x => s.ticks < x + 10 ^ 9).length ≤ 64 →
        exec (.channelRetirement pkg stack chan none) s = .next s) ∧
      ∀ u, u % 32 = chan →
        (NatSet.has (s.pkg pkg).scrubbed (stack * 2 ^ 28 + u) = true → retires (some u)) ∧
        (NatSet.has (s.pkg pkg).scrubbed (stack * 2 ^ 28 + u) = false → exec (.channelRetirement pkg stack chan (some u)) s =
          .next (s.modPkg pkg fun k => { k with scrubbed := NatSet.insert k.scrubbed (stack * 2 ^ 28 + u) }))) ∧
    (∀ c done, (s.pkg pkg).spare.find? stack = some (c, done) → exec (.spareCopyComplete pkg stack) s = .next (copying true c))) ∧
  (∀ (s : State) (pkg : Nat),
    let gone : State := ((s.modPkg pkg fun k => { k with sublinks := 0 }).stopAll (fun x _ => corePkg (coreOf x) == pkg) 6).lost pkg 39 32
      (s.pkg pkg).sublinks
    ((s.pkg pkg).sublinks ≠ 0 → exec (.dieLinkLost pkg) s = .next gone) ∧
    ((s.pkg pkg).sublinks = 1 → exec (.dieSublinkFailure pkg) s = .next gone) ∧
    (2 ≤ (s.pkg pkg).sublinks → exec (.dieSublinkFailure pkg) s =
      .next ((s.modPkg pkg fun k => { k with sublinks := (s.pkg pkg).sublinks - 1 }).lost pkg 39 32 1)) ∧
    ((s.pkg pkg).sublinks = 0 → exec (.dieSublinkFailure pkg) s = .next s ∧ exec (.dieLinkLost pkg) s = .next s)) ∧
  (∀ (s : State) (pkg port : Nat), NatSet.has (s.pkg pkg).portsDown port = false →
    let n := (s.pkg pkg).lanes.at 0 port
    let downs (s : State) : State :=
      (s.modPkg pkg fun k => { k with portsDown := NatSet.insert k.portsDown port }).fabricDown (downPort pkg port)
    let drops : State := (s.modPkg pkg fun k => { k with lanes := k.lanes.put port (n + 1) }).lost pkg 39 32 1
    (n < 4 → exec (.laneFailure pkg port) s = .next drops) ∧
    (n = 4 → exec (.laneFailure pkg port) s = .next (downs drops)) ∧
    (8 ≤ n → exec (.laneFailure pkg port) s = .next s) ∧
    (pkg < 2 ^ 13 →
      exec (.portDown pkg port) s = .next (((downs s).unrepaired pkg).setHealth pkg ((s.pkg pkg).health ||| rreq))) ∧
    exec (.portDown (2 ^ 13) port) s = .next (s.fabricDown (downSw port)) ∧
    (∀ sw key, downSwPort sw port = some key → 2 ^ 32 ≤ key → exec (.portDown (2 ^ 13 + 1 + sw) port) s = .next (s.fabricDown key))) ∧
  (∀ (s : State) (sw g slot : Nat) (x : Group), s.fab.group g = some x →
    let y := s.slot sw (16 * g + slot)
    (y.st = .collect ∨ y.st = .up → exec (.slotUncorrectable sw g slot) s = .next (s.killSlot x.spec sw g (16 * g + slot) y)) ∧
    (y.st = .free ∨ y.st = .dead → exec (.slotUncorrectable sw g slot) s = .next s) ∧
    ((treeSws x.spec).contains sw = true → x.installed = true → exec (.treeEntryError sw g) s = .next (s.breakGroup g)) ∧
    ((treeSws x.spec).contains sw = false → exec (.treeEntryError sw g) s = .next s)) ∧
  (∀ (s : State) (pkg hi lo n : Nat), (s.pkg pkg).hosts = [] →
    ((s.lost pkg hi lo n).pkg pkg).health = addField ((s.pkg pkg).health ||| rreq) hi lo n) ∧
  (∀ (s : State) (g : Nat) (x : Group), s.fab.group g = some x → (s.breakGroup g).fab.group g = some { x with broken := true })

end
end

