-- ==== Sys2Proof/Laws/Decode.lean ====
section
/-! SUPPORT. The words that the encoders build as numbers, and the fields that the decoder takes from them (R55 to R59, R65). -/

namespace Sys2Proof

theorem encR_nat {maj d a b fn : Nat} {p : BitVec 3} {q : BitVec 1} (hm : maj < 64) (hd : d < 16) (ha : a < 16) (hb : b < 16)
    (hf : fn < 1024) :
    (encR maj p q d a b fn).toNat =
      maj * 2 ^ 26 + p.toNat * 2 ^ 23 + q.toNat * 2 ^ 22 + d * 2 ^ 18 + a * 2 ^ 14 + b * 2 ^ 10 + fn := by
  have := p.isLt; have := q.isLt
  simp only [encR, encHead, BitVec.toNat_ofNat]; omega

theorem encI_nat {maj d a imm : Nat} {p : BitVec 3} {q : BitVec 1} (hm : maj < 64) (hd : d < 16) (ha : a < 16) (hf : imm < 16384) :
    (encI maj p q d a imm).toNat = maj * 2 ^ 26 + p.toNat * 2 ^ 23 + q.toNat * 2 ^ 22 + d * 2 ^ 18 + a * 2 ^ 14 + imm := by
  have := p.isLt; have := q.isLt
  simp only [encI, encHead, BitVec.toNat_ofNat]; omega

theorem encJ_nat {maj imm : Nat} {p : BitVec 3} {q : BitVec 1} (hm : maj < 64) (hf : imm < 2 ^ 22) :
    (encJ maj p q imm).toNat = maj * 2 ^ 26 + p.toNat * 2 ^ 23 + q.toNat * 2 ^ 22 + imm := by
  have := p.isLt; have := q.isLt
  simp only [encJ, encHead, BitVec.toNat_ofNat]; omega

theorem encV_nat {maj d a b rm sat fn : Nat} {p : BitVec 3} {q : BitVec 1} (hm : maj < 64) (hd : d < 32) (ha : a < 32)
    (hb : b < 32) (hr : rm < 4) (hs : sat < 2) (hf : fn < 16) :
    (encV maj p q d a b rm sat fn).toNat = maj * 2 ^ 26 + p.toNat * 2 ^ 23 + q.toNat * 2 ^ 22 + d * 2 ^ 17 + a * 2 ^ 12 + b * 2 ^ 7 +
      rm * 2 ^ 5 + sat * 2 ^ 4 + fn := by
  have := p.isLt; have := q.isLt
  simp only [encV, encHead, BitVec.toNat_ofNat]; omega

theorem encM_nat {maj acc ra rb k mf : Nat} {p : BitVec 3} {q : BitVec 1} (hm : maj < 64) (hd : acc < 8) (ha : ra < 8)
    (hb : rb < 8) (hr : k < 16) (hf : mf < 512) :
    (encM maj p q acc ra rb k mf).toNat = maj * 2 ^ 26 + p.toNat * 2 ^ 23 + q.toNat * 2 ^ 22 + acc * 2 ^ 19 + ra * 2 ^ 16 + rb * 2 ^ 13 +
      k * 2 ^ 9 + mf := by
  have := p.isLt; have := q.isLt
  simp only [encM, encHead, BitVec.toNat_ofNat]; omega

/-- A field of a number is a value of its width where the number's low bits are that value. -/
theorem ofNat_of (n : Nat) (x : BitVec n) (v : Nat) (h : v % 2 ^ n = x.toNat) : BitVec.ofNat n v = x := by
  apply BitVec.eq_of_toNat_eq; simpa using h

/-- The fields of a word in R format. -/
theorem encR_fields {maj fn : Nat} {p : BitVec 3} {q : BitVec 1} {d a b : BitVec 4} (hm : maj < 64) (hf : fn < 1024) :
    let w := (encR maj p q d.toNat a.toNat b.toNat fn).toNat
    fMajor w = maj ∧ fP w = p ∧ fQ w = q ∧ fD w = d ∧ fA w = a ∧ fB w = b ∧ fFn w = fn := by
  have := p.isLt; have := q.isLt; have := d.isLt; have := a.isLt; have := b.isLt
  intro w
  have hw : w = _ := encR_nat hm d.isLt a.isLt b.isLt hf
  clear_value w; subst hw
  refine ⟨?_, ofNat_of _ _ _ ?_, ofNat_of _ _ _ ?_, ofNat_of _ _ _ ?_, ofNat_of _ _ _ ?_, ofNat_of _ _ _ ?_, ?_⟩ <;>
    (try simp only [fMajor, fFn]) <;> omega

/-- The fields of a word in I format. -/
theorem encI_fields {maj : Nat} {p : BitVec 3} {q : BitVec 1} {d a : BitVec 4} {imm : BitVec 14} (hm : maj < 64) :
    let w := (encI maj p q d.toNat a.toNat imm.toNat).toNat
    fMajor w = maj ∧ fP w = p ∧ fQ w = q ∧ fD w = d ∧ fA w = a ∧ fImm14 w = imm := by
  have := p.isLt; have := q.isLt; have := d.isLt; have := a.isLt; have := imm.isLt
  intro w
  have hw : w = _ := encI_nat hm d.isLt a.isLt imm.isLt
  clear_value w; subst hw
  refine ⟨?_, ofNat_of _ _ _ ?_, ofNat_of _ _ _ ?_, ofNat_of _ _ _ ?_, ofNat_of _ _ _ ?_, ofNat_of _ _ _ ?_⟩ <;>
    (try simp only [fMajor]) <;> omega

/-- The fields of a word in V format. -/
theorem encV_fields {maj fn : Nat} {p : BitVec 3} {q : BitVec 1} {d a b : BitVec 5} {m : BitVec 2} {sat : BitVec 1} (hm : maj < 64)
    (hf : fn < 16) :
    let w := (encV maj p q d.toNat a.toNat b.toNat m.toNat sat.toNat fn).toNat
    fMajor w = maj ∧ fP w = p ∧ fQ w = q ∧ fHd w = d ∧ fHa w = a ∧ fHb w = b ∧ fSat w = sat := by
  have := p.isLt; have := q.isLt; have := d.isLt; have := a.isLt; have := b.isLt; have := m.isLt; have := sat.isLt
  intro w
  have hw : w = _ := encV_nat hm d.isLt a.isLt b.isLt m.isLt sat.isLt hf
  clear_value w; subst hw
  refine ⟨?_, ofNat_of _ _ _ ?_, ofNat_of _ _ _ ?_, ofNat_of _ _ _ ?_, ofNat_of _ _ _ ?_, ofNat_of _ _ _ ?_, ofNat_of _ _ _ ?_⟩ <;>
    (try simp only [fMajor]) <;> omega

theorem leNat_leBytes (n v : Nat) : leNat (leBytes n v) = v % 256 ^ n := by
  induction n generalizing v with
  | zero => simp [leBytes, leNat, Nat.mod_one]
  | succ n ih =>
    simp only [leBytes, leNat, ih, BitVec.toNat_ofNat]
    rw [show 256 ^ (n + 1) = 256 * 256 ^ n by rw [Nat.pow_succ, Nat.mul_comm], Nat.mod_mul]

/-- The decoder on the bytes of one word that is no word of major 63. -/
theorem decode_word (w : Word32) (r : List Byte) (h : fMajor w.toNat ≠ 63) :
    decode (leBytes 4 w.toNat ++ r) = (decodeWord w.toNat).map (·, 4) := by
  have e : leNat (leBytes 4 w.toNat) = w.toNat := by rw [leNat_leBytes]; exact Nat.mod_eq_of_lt w.isLt
  simp only [leBytes] at e
  simp only [leBytes, List.cons_append, List.nil_append, decode, e]
  rw [if_neg h]

/-- The decoder on the bytes of a word of major 63 and its successor. -/
theorem decode_pair (w w2 : Word32) (r : List Byte) (h : fMajor w.toNat = 63) :
    decode (leBytes 4 w.toNat ++ leBytes 4 w2.toNat ++ r) = (decodePair w.toNat w2.toNat).map (·, 8) := by
  have e : leNat (leBytes 4 w.toNat) = w.toNat := by rw [leNat_leBytes]; exact Nat.mod_eq_of_lt w.isLt
  have e2 : leNat (leBytes 4 w2.toNat) = w2.toNat := by rw [leNat_leBytes]; exact Nat.mod_eq_of_lt w2.isLt
  simp only [leBytes] at e e2
  simp only [leBytes, List.cons_append, List.nil_append, decode, e, e2]
  rw [if_pos h]

end Sys2Proof
end

