-- ==== Sys2Proof/Laws/Exec.lean ====
section
/-! SUPPORT. What each arm of exec calls: one equation per constructor, so that no proof unfolds exec. -/

namespace Sys2Proof.Machine

@[simp] theorem exec_add (p : BitVec 3) (q : BitVec 1) (d a b : BitVec 4) (s : State) :
    exec (.add p q d a b) s = execAdd p q d a b s := rfl
@[simp] theorem exec_sub (p : BitVec 3) (q : BitVec 1) (d a b : BitVec 4) (s : State) :
    exec (.sub p q d a b) s = execSub p q d a b s := rfl
@[simp] theorem exec_and (p : BitVec 3) (q : BitVec 1) (d a b : BitVec 4) (s : State) :
    exec (.and p q d a b) s = execAnd p q d a b s := rfl
@[simp] theorem exec_or (p : BitVec 3) (q : BitVec 1) (d a b : BitVec 4) (s : State) :
    exec (.or p q d a b) s = execOr p q d a b s := rfl
@[simp] theorem exec_xor (p : BitVec 3) (q : BitVec 1) (d a b : BitVec 4) (s : State) :
    exec (.xor p q d a b) s = execXor p q d a b s := rfl
@[simp] theorem exec_andn (p : BitVec 3) (q : BitVec 1) (d a b : BitVec 4) (s : State) :
    exec (.andn p q d a b) s = execAndn p q d a b s := rfl
@[simp] theorem exec_orn (p : BitVec 3) (q : BitVec 1) (d a b : BitVec 4) (s : State) :
    exec (.orn p q d a b) s = execOrn p q d a b s := rfl
@[simp] theorem exec_sll (p : BitVec 3) (q : BitVec 1) (d a b : BitVec 4) (s : State) :
    exec (.sll p q d a b) s = execSll p q d a b s := rfl
@[simp] theorem exec_srl (p : BitVec 3) (q : BitVec 1) (d a b : BitVec 4) (s : State) :
    exec (.srl p q d a b) s = execSrl p q d a b s := rfl
@[simp] theorem exec_sra (p : BitVec 3) (q : BitVec 1) (d a b : BitVec 4) (s : State) :
    exec (.sra p q d a b) s = execSra p q d a b s := rfl
@[simp] theorem exec_rol (p : BitVec 3) (q : BitVec 1) (d a b : BitVec 4) (s : State) :
    exec (.rol p q d a b) s = execRol p q d a b s := rfl
@[simp] theorem exec_ror (p : BitVec 3) (q : BitVec 1) (d a b : BitVec 4) (s : State) :
    exec (.ror p q d a b) s = execRor p q d a b s := rfl
@[simp] theorem exec_mul (p : BitVec 3) (q : BitVec 1) (d a b : BitVec 4) (s : State) :
    exec (.mul p q d a b) s = execMul p q d a b s := rfl
@[simp] theorem exec_mulh (p : BitVec 3) (q : BitVec 1) (d a b : BitVec 4) (s : State) :
    exec (.mulh p q d a b) s = execMulh p q d a b s := rfl
@[simp] theorem exec_mulhu (p : BitVec 3) (q : BitVec 1) (d a b : BitVec 4) (s : State) :
    exec (.mulhu p q d a b) s = execMulhu p q d a b s := rfl
@[simp] theorem exec_div (p : BitVec 3) (q : BitVec 1) (d a b : BitVec 4) (s : State) :
    exec (.div p q d a b) s = execDiv p q d a b s := rfl
@[simp] theorem exec_divu (p : BitVec 3) (q : BitVec 1) (d a b : BitVec 4) (s : State) :
    exec (.divu p q d a b) s = execDivu p q d a b s := rfl
@[simp] theorem exec_rem (p : BitVec 3) (q : BitVec 1) (d a b : BitVec 4) (s : State) :
    exec (.rem p q d a b) s = execRem p q d a b s := rfl
@[simp] theorem exec_remu (p : BitVec 3) (q : BitVec 1) (d a b : BitVec 4) (s : State) :
    exec (.remu p q d a b) s = execRemu p q d a b s := rfl
@[simp] theorem exec_min (p : BitVec 3) (q : BitVec 1) (d a b : BitVec 4) (s : State) :
    exec (.min p q d a b) s = execMin p q d a b s := rfl
@[simp] theorem exec_max (p : BitVec 3) (q : BitVec 1) (d a b : BitVec 4) (s : State) :
    exec (.max p q d a b) s = execMax p q d a b s := rfl
@[simp] theorem exec_minu (p : BitVec 3) (q : BitVec 1) (d a b : BitVec 4) (s : State) :
    exec (.minu p q d a b) s = execMinu p q d a b s := rfl
@[simp] theorem exec_maxu (p : BitVec 3) (q : BitVec 1) (d a b : BitVec 4) (s : State) :
    exec (.maxu p q d a b) s = execMaxu p q d a b s := rfl
@[simp] theorem exec_clz (p : BitVec 3) (q : BitVec 1) (d a : BitVec 4) (s : State) :
    exec (.clz p q d a) s = execClz p q d a s := rfl
@[simp] theorem exec_ctz (p : BitVec 3) (q : BitVec 1) (d a : BitVec 4) (s : State) :
    exec (.ctz p q d a) s = execCtz p q d a s := rfl
@[simp] theorem exec_popc (p : BitVec 3) (q : BitVec 1) (d a : BitVec 4) (s : State) :
    exec (.popc p q d a) s = execPopc p q d a s := rfl
@[simp] theorem exec_brev (p : BitVec 3) (q : BitVec 1) (d a : BitVec 4) (s : State) :
    exec (.brev p q d a) s = execBrev p q d a s := rfl
@[simp] theorem exec_sextb (p : BitVec 3) (q : BitVec 1) (d a : BitVec 4) (s : State) :
    exec (.sextb p q d a) s = execSextb p q d a s := rfl
@[simp] theorem exec_sexth (p : BitVec 3) (q : BitVec 1) (d a : BitVec 4) (s : State) :
    exec (.sexth p q d a) s = execSexth p q d a s := rfl
@[simp] theorem exec_sextw (p : BitVec 3) (q : BitVec 1) (d a : BitVec 4) (s : State) :
    exec (.sextw p q d a) s = execSextw p q d a s := rfl
@[simp] theorem exec_zextb (p : BitVec 3) (q : BitVec 1) (d a : BitVec 4) (s : State) :
    exec (.zextb p q d a) s = execZextb p q d a s := rfl
@[simp] theorem exec_zexth (p : BitVec 3) (q : BitVec 1) (d a : BitVec 4) (s : State) :
    exec (.zexth p q d a) s = execZexth p q d a s := rfl
@[simp] theorem exec_zextw (p : BitVec 3) (q : BitVec 1) (d a : BitVec 4) (s : State) :
    exec (.zextw p q d a) s = execZextw p q d a s := rfl
@[simp] theorem exec_bfx (p : BitVec 3) (q : BitVec 1) (d a b : BitVec 4) (s : State) :
    exec (.bfx p q d a b) s = execBfx p q d a b s := rfl
@[simp] theorem exec_bfi (p : BitVec 3) (q : BitVec 1) (d a b : BitVec 4) (s : State) :
    exec (.bfi p q d a b) s = execBfi p q d a b s := rfl
@[simp] theorem exec_addi (p : BitVec 3) (q : BitVec 1) (d a : BitVec 4) (imm : BitVec 14) (s : State) :
    exec (.addi p q d a imm) s = execAddi p q d a imm s := rfl
@[simp] theorem exec_addiI38 (p : BitVec 3) (q : BitVec 1) (d a : BitVec 4) (imm : BitVec 38) (s : State) :
    exec (.addiI38 p q d a imm) s = execAddiI38 p q d a imm s := rfl
@[simp] theorem exec_andi (p : BitVec 3) (q : BitVec 1) (d a : BitVec 4) (imm : BitVec 14) (s : State) :
    exec (.andi p q d a imm) s = execAndi p q d a imm s := rfl
@[simp] theorem exec_andiI38 (p : BitVec 3) (q : BitVec 1) (d a : BitVec 4) (imm : BitVec 38) (s : State) :
    exec (.andiI38 p q d a imm) s = execAndiI38 p q d a imm s := rfl
@[simp] theorem exec_ori (p : BitVec 3) (q : BitVec 1) (d a : BitVec 4) (imm : BitVec 14) (s : State) :
    exec (.ori p q d a imm) s = execOri p q d a imm s := rfl
@[simp] theorem exec_oriI38 (p : BitVec 3) (q : BitVec 1) (d a : BitVec 4) (imm : BitVec 38) (s : State) :
    exec (.oriI38 p q d a imm) s = execOriI38 p q d a imm s := rfl
@[simp] theorem exec_xori (p : BitVec 3) (q : BitVec 1) (d a : BitVec 4) (imm : BitVec 14) (s : State) :
    exec (.xori p q d a imm) s = execXori p q d a imm s := rfl
@[simp] theorem exec_xoriI38 (p : BitVec 3) (q : BitVec 1) (d a : BitVec 4) (imm : BitVec 38) (s : State) :
    exec (.xoriI38 p q d a imm) s = execXoriI38 p q d a imm s := rfl
@[simp] theorem exec_slli (p : BitVec 3) (q : BitVec 1) (d a : BitVec 4) (n : BitVec 6) (s : State) :
    exec (.slli p q d a n) s = execSlli p q d a n s := rfl
@[simp] theorem exec_srli (p : BitVec 3) (q : BitVec 1) (d a : BitVec 4) (n : BitVec 6) (s : State) :
    exec (.srli p q d a n) s = execSrli p q d a n s := rfl
@[simp] theorem exec_srai (p : BitVec 3) (q : BitVec 1) (d a : BitVec 4) (n : BitVec 6) (s : State) :
    exec (.srai p q d a n) s = execSrai p q d a n s := rfl
@[simp] theorem exec_li (p : BitVec 3) (q : BitVec 1) (d : BitVec 4) (imm : BitVec 14) (s : State) :
    exec (.li p q d imm) s = execLi p q d imm s := rfl
@[simp] theorem exec_liI38 (p : BitVec 3) (q : BitVec 1) (d : BitVec 4) (imm : BitVec 38) (s : State) :
    exec (.liI38 p q d imm) s = execLiI38 p q d imm s := rfl
@[simp] theorem exec_lih (p : BitVec 3) (q : BitVec 1) (d : BitVec 4) (imm : BitVec 14) (s : State) :
    exec (.lih p q d imm) s = execLih p q d imm s := rfl
@[simp] theorem exec_lihI38 (p : BitVec 3) (q : BitVec 1) (d : BitVec 4) (imm : BitVec 38) (s : State) :
    exec (.lihI38 p q d imm) s = execLihI38 p q d imm s := rfl
@[simp] theorem exec_eq (p : BitVec 3) (q : BitVec 1) (pd : BitVec 3) (c : BitVec 1) (a b : BitVec 4) (s : State) :
    exec (.eq p q pd c a b) s = execEq p q pd c a b s := rfl
@[simp] theorem exec_ne (p : BitVec 3) (q : BitVec 1) (pd : BitVec 3) (c : BitVec 1) (a b : BitVec 4) (s : State) :
    exec (.ne p q pd c a b) s = execNe p q pd c a b s := rfl
@[simp] theorem exec_lt (p : BitVec 3) (q : BitVec 1) (pd : BitVec 3) (c : BitVec 1) (a b : BitVec 4) (s : State) :
    exec (.lt p q pd c a b) s = execLt p q pd c a b s := rfl
@[simp] theorem exec_ge (p : BitVec 3) (q : BitVec 1) (pd : BitVec 3) (c : BitVec 1) (a b : BitVec 4) (s : State) :
    exec (.ge p q pd c a b) s = execGe p q pd c a b s := rfl
@[simp] theorem exec_ltu (p : BitVec 3) (q : BitVec 1) (pd : BitVec 3) (c : BitVec 1) (a b : BitVec 4) (s : State) :
    exec (.ltu p q pd c a b) s = execLtu p q pd c a b s := rfl
@[simp] theorem exec_geu (p : BitVec 3) (q : BitVec 1) (pd : BitVec 3) (c : BitVec 1) (a b : BitVec 4) (s : State) :
    exec (.geu p q pd c a b) s = execGeu p q pd c a b s := rfl
@[simp] theorem exec_feq (p : BitVec 3) (q : BitVec 1) (pd : BitVec 3) (c : BitVec 1) (a b : BitVec 4) (s : State) :
    exec (.feq p q pd c a b) s = execFeq p q pd c a b s := rfl
@[simp] theorem exec_fne (p : BitVec 3) (q : BitVec 1) (pd : BitVec 3) (c : BitVec 1) (a b : BitVec 4) (s : State) :
    exec (.fne p q pd c a b) s = execFne p q pd c a b s := rfl
@[simp] theorem exec_flt (p : BitVec 3) (q : BitVec 1) (pd : BitVec 3) (c : BitVec 1) (a b : BitVec 4) (s : State) :
    exec (.flt p q pd c a b) s = execFlt p q pd c a b s := rfl
@[simp] theorem exec_fle (p : BitVec 3) (q : BitVec 1) (pd : BitVec 3) (c : BitVec 1) (a b : BitVec 4) (s : State) :
    exec (.fle p q pd c a b) s = execFle p q pd c a b s := rfl
@[simp] theorem exec_funord (p : BitVec 3) (q : BitVec 1) (pd : BitVec 3) (c : BitVec 1) (a b : BitVec 4) (s : State) :
    exec (.funord p q pd c a b) s = execFunord p q pd c a b s := rfl
@[simp] theorem exec_cmpeqi (p : BitVec 3) (q : BitVec 1) (pd : BitVec 3) (c : BitVec 1) (a : BitVec 4) (imm : BitVec 14) (s : State) :
    exec (.cmpeqi p q pd c a imm) s = execCmpeqi p q pd c a imm s := rfl
@[simp] theorem exec_cmpeqiI38 (p : BitVec 3) (q : BitVec 1) (pd : BitVec 3) (c : BitVec 1) (a : BitVec 4) (imm : BitVec 38) (s : State) :
    exec (.cmpeqiI38 p q pd c a imm) s = execCmpeqiI38 p q pd c a imm s := rfl
@[simp] theorem exec_cmplti (p : BitVec 3) (q : BitVec 1) (pd : BitVec 3) (c : BitVec 1) (a : BitVec 4) (imm : BitVec 14) (s : State) :
    exec (.cmplti p q pd c a imm) s = execCmplti p q pd c a imm s := rfl
@[simp] theorem exec_cmpltiI38 (p : BitVec 3) (q : BitVec 1) (pd : BitVec 3) (c : BitVec 1) (a : BitVec 4) (imm : BitVec 38) (s : State) :
    exec (.cmpltiI38 p q pd c a imm) s = execCmpltiI38 p q pd c a imm s := rfl
@[simp] theorem exec_cmpltui (p : BitVec 3) (q : BitVec 1) (pd : BitVec 3) (c : BitVec 1) (a : BitVec 4) (imm : BitVec 14) (s : State) :
    exec (.cmpltui p q pd c a imm) s = execCmpltui p q pd c a imm s := rfl
@[simp] theorem exec_cmpltuiI38 (p : BitVec 3) (q : BitVec 1) (pd : BitVec 3) (c : BitVec 1) (a : BitVec 4) (imm : BitVec 38) (s : State) :
    exec (.cmpltuiI38 p q pd c a imm) s = execCmpltuiI38 p q pd c a imm s := rfl
@[simp] theorem exec_pand (p : BitVec 3) (q : BitVec 1) (pd pa pb : BitVec 3) (s : State) :
    exec (.pand p q pd pa pb) s = execPand p q pd pa pb s := rfl
@[simp] theorem exec_por (p : BitVec 3) (q : BitVec 1) (pd pa pb : BitVec 3) (s : State) :
    exec (.por p q pd pa pb) s = execPor p q pd pa pb s := rfl
@[simp] theorem exec_pxor (p : BitVec 3) (q : BitVec 1) (pd pa pb : BitVec 3) (s : State) :
    exec (.pxor p q pd pa pb) s = execPxor p q pd pa pb s := rfl
@[simp] theorem exec_pandn (p : BitVec 3) (q : BitVec 1) (pd pa pb : BitVec 3) (s : State) :
    exec (.pandn p q pd pa pb) s = execPandn p q pd pa pb s := rfl
@[simp] theorem exec_pget (p : BitVec 3) (q : BitVec 1) (d : BitVec 4) (s : State) :
    exec (.pget p q d) s = execPget p q d s := rfl
@[simp] theorem exec_pput (p : BitVec 3) (q : BitVec 1) (a : BitVec 4) (s : State) :
    exec (.pput p q a) s = execPput p q a s := rfl
@[simp] theorem exec_br (p : BitVec 3) (q : BitVec 1) (off : BitVec 22) (s : State) :
    exec (.br p q off) s = execBr p q off s := rfl
@[simp] theorem exec_jal (p : BitVec 3) (q : BitVec 1) (off : BitVec 22) (s : State) :
    exec (.jal p q off) s = execJal p q off s := rfl
@[simp] theorem exec_jr (p : BitVec 3) (q : BitVec 1) (a : BitVec 4) (s : State) :
    exec (.jr p q a) s = execJr p q a s := rfl
@[simp] theorem exec_jalr (p : BitVec 3) (q : BitVec 1) (d a : BitVec 4) (s : State) :
    exec (.jalr p q d a) s = execJalr p q d a s := rfl
@[simp] theorem exec_fadd (p : BitVec 3) (q : BitVec 1) (d a b : BitVec 4) (m : BitVec 2) (s : State) :
    exec (.fadd p q d a b m) s = execFadd p q d a b m s := rfl
@[simp] theorem exec_fsub (p : BitVec 3) (q : BitVec 1) (d a b : BitVec 4) (m : BitVec 2) (s : State) :
    exec (.fsub p q d a b m) s = execFsub p q d a b m s := rfl
@[simp] theorem exec_fmul (p : BitVec 3) (q : BitVec 1) (d a b : BitVec 4) (m : BitVec 2) (s : State) :
    exec (.fmul p q d a b m) s = execFmul p q d a b m s := rfl
@[simp] theorem exec_fdiv (p : BitVec 3) (q : BitVec 1) (d a b : BitVec 4) (m : BitVec 2) (s : State) :
    exec (.fdiv p q d a b m) s = execFdiv p q d a b m s := rfl
@[simp] theorem exec_fsqrt (p : BitVec 3) (q : BitVec 1) (d a : BitVec 4) (m : BitVec 2) (s : State) :
    exec (.fsqrt p q d a m) s = execFsqrt p q d a m s := rfl
@[simp] theorem exec_fmin (p : BitVec 3) (q : BitVec 1) (d a b : BitVec 4) (s : State) :
    exec (.fmin p q d a b) s = execFmin p q d a b s := rfl
@[simp] theorem exec_fmax (p : BitVec 3) (q : BitVec 1) (d a b : BitVec 4) (s : State) :
    exec (.fmax p q d a b) s = execFmax p q d a b s := rfl
@[simp] theorem exec_fabs (p : BitVec 3) (q : BitVec 1) (d a : BitVec 4) (s : State) :
    exec (.fabs p q d a) s = execFabs p q d a s := rfl
@[simp] theorem exec_fneg (p : BitVec 3) (q : BitVec 1) (d a : BitVec 4) (s : State) :
    exec (.fneg p q d a) s = execFneg p q d a s := rfl
@[simp] theorem exec_fmadd (p : BitVec 3) (q : BitVec 1) (d a b : BitVec 4) (m : BitVec 2) (s : State) :
    exec (.fmadd p q d a b m) s = execFmadd p q d a b m s := rfl
@[simp] theorem exec_cvt (p : BitVec 3) (q : BitVec 1) (d a : BitVec 4) (m : BitVec 2) (dst src : BitVec 4) (s : State) :
    exec (.cvt p q d a m dst src) s = execCvt p q d a m dst src s := rfl
@[simp] theorem exec_rdsr (p : BitVec 3) (q : BitVec 1) (d : BitVec 4) (sys : BitVec 14) (s : State) :
    exec (.rdsr p q d sys) s = execRdsr p q d sys s := rfl
@[simp] theorem exec_wrsr (p : BitVec 3) (q : BitVec 1) (a : BitVec 4) (sys : BitVec 14) (s : State) :
    exec (.wrsr p q a sys) s = execWrsr p q a sys s := rfl
@[simp] theorem exec_wrsrVectorState (p : BitVec 3) (q : BitVec 1) (a : BitVec 4) (sys : BitVec 14) (s : State) :
    exec (.wrsrVectorState p q a sys) s = execWrsrVectorState p q a sys s := rfl
@[simp] theorem exec_wrsrSegbase (p : BitVec 3) (q : BitVec 1) (a : BitVec 4) (s : State) :
    exec (.wrsrSegbase p q a) s = execWrsrSegbase p q a s := rfl
@[simp] theorem exec_wrsrRotmode (p : BitVec 3) (q : BitVec 1) (a : BitVec 4) (s : State) :
    exec (.wrsrRotmode p q a) s = execWrsrRotmode p q a s := rfl
@[simp] theorem exec_rotmodeSwitch (core : Nat) (s : State) :
    exec (.rotmodeSwitch core) s = execRotmodeSwitch core s := rfl
@[simp] theorem exec_wrsrDonord (p : BitVec 3) (q : BitVec 1) (a : BitVec 4) (s : State) :
    exec (.wrsrDonord p q a) s = execWrsrDonord p q a s := rfl
@[simp] theorem exec_wrsrSlottab (p : BitVec 3) (q : BitVec 1) (a : BitVec 4) (s : State) :
    exec (.wrsrSlottab p q a) s = execWrsrSlottab p q a s := rfl
@[simp] theorem exec_wrsrAcct (p : BitVec 3) (q : BitVec 1) (a : BitVec 4) (s : State) :
    exec (.wrsrAcct p q a) s = execWrsrAcct p q a s := rfl
@[simp] theorem exec_acctSnapshot (core : Nat) (s : State) :
    exec (.acctSnapshot core) s = execAcctSnapshot core s := rfl
@[simp] theorem exec_wrsrLogRing (p : BitVec 3) (q : BitVec 1) (a : BitVec 4) (sys : BitVec 14) (s : State) :
    exec (.wrsrLogRing p q a sys) s = execWrsrLogRing p q a sys s := rfl
@[simp] theorem exec_wrsrLogcons (p : BitVec 3) (q : BitVec 1) (a : BitVec 4) (s : State) :
    exec (.wrsrLogcons p q a) s = execWrsrLogcons p q a s := rfl
@[simp] theorem exec_wrsrReplay (p : BitVec 3) (q : BitVec 1) (a : BitVec 4) (s : State) :
    exec (.wrsrReplay p q a) s = execWrsrReplay p q a s := rfl
@[simp] theorem exec_ldb (p : BitVec 3) (q : BitVec 1) (d a : BitVec 4) (imm : BitVec 14) (s : State) :
    exec (.ldb p q d a imm) s = execLdb p q d a imm s := rfl
@[simp] theorem exec_ldbu (p : BitVec 3) (q : BitVec 1) (d a : BitVec 4) (imm : BitVec 14) (s : State) :
    exec (.ldbu p q d a imm) s = execLdbu p q d a imm s := rfl
@[simp] theorem exec_ldh (p : BitVec 3) (q : BitVec 1) (d a : BitVec 4) (imm : BitVec 14) (s : State) :
    exec (.ldh p q d a imm) s = execLdh p q d a imm s := rfl
@[simp] theorem exec_ldhu (p : BitVec 3) (q : BitVec 1) (d a : BitVec 4) (imm : BitVec 14) (s : State) :
    exec (.ldhu p q d a imm) s = execLdhu p q d a imm s := rfl
@[simp] theorem exec_ldw (p : BitVec 3) (q : BitVec 1) (d a : BitVec 4) (imm : BitVec 14) (s : State) :
    exec (.ldw p q d a imm) s = execLdw p q d a imm s := rfl
@[simp] theorem exec_ldwu (p : BitVec 3) (q : BitVec 1) (d a : BitVec 4) (imm : BitVec 14) (s : State) :
    exec (.ldwu p q d a imm) s = execLdwu p q d a imm s := rfl
@[simp] theorem exec_ldd (p : BitVec 3) (q : BitVec 1) (d a : BitVec 4) (imm : BitVec 14) (s : State) :
    exec (.ldd p q d a imm) s = execLdd p q d a imm s := rfl
@[simp] theorem exec_stb (p : BitVec 3) (q : BitVec 1) (d a : BitVec 4) (imm : BitVec 14) (s : State) :
    exec (.stb p q d a imm) s = execStb p q d a imm s := rfl
@[simp] theorem exec_sth (p : BitVec 3) (q : BitVec 1) (d a : BitVec 4) (imm : BitVec 14) (s : State) :
    exec (.sth p q d a imm) s = execSth p q d a imm s := rfl
@[simp] theorem exec_stw (p : BitVec 3) (q : BitVec 1) (d a : BitVec 4) (imm : BitVec 14) (s : State) :
    exec (.stw p q d a imm) s = execStw p q d a imm s := rfl
@[simp] theorem exec_std (p : BitVec 3) (q : BitVec 1) (d a : BitVec 4) (imm : BitVec 14) (s : State) :
    exec (.std p q d a imm) s = execStd p q d a imm s := rfl
@[simp] theorem exec_ldbI38 (p : BitVec 3) (q : BitVec 1) (d a : BitVec 4) (imm : BitVec 38) (s : State) :
    exec (.ldbI38 p q d a imm) s = execLdbI38 p q d a imm s := rfl
@[simp] theorem exec_ldbuI38 (p : BitVec 3) (q : BitVec 1) (d a : BitVec 4) (imm : BitVec 38) (s : State) :
    exec (.ldbuI38 p q d a imm) s = execLdbuI38 p q d a imm s := rfl
@[simp] theorem exec_ldhI38 (p : BitVec 3) (q : BitVec 1) (d a : BitVec 4) (imm : BitVec 38) (s : State) :
    exec (.ldhI38 p q d a imm) s = execLdhI38 p q d a imm s := rfl
@[simp] theorem exec_ldhuI38 (p : BitVec 3) (q : BitVec 1) (d a : BitVec 4) (imm : BitVec 38) (s : State) :
    exec (.ldhuI38 p q d a imm) s = execLdhuI38 p q d a imm s := rfl
@[simp] theorem exec_ldwI38 (p : BitVec 3) (q : BitVec 1) (d a : BitVec 4) (imm : BitVec 38) (s : State) :
    exec (.ldwI38 p q d a imm) s = execLdwI38 p q d a imm s := rfl
@[simp] theorem exec_ldwuI38 (p : BitVec 3) (q : BitVec 1) (d a : BitVec 4) (imm : BitVec 38) (s : State) :
    exec (.ldwuI38 p q d a imm) s = execLdwuI38 p q d a imm s := rfl
@[simp] theorem exec_lddI38 (p : BitVec 3) (q : BitVec 1) (d a : BitVec 4) (imm : BitVec 38) (s : State) :
    exec (.lddI38 p q d a imm) s = execLddI38 p q d a imm s := rfl
@[simp] theorem exec_stbI38 (p : BitVec 3) (q : BitVec 1) (d a : BitVec 4) (imm : BitVec 38) (s : State) :
    exec (.stbI38 p q d a imm) s = execStbI38 p q d a imm s := rfl
@[simp] theorem exec_sthI38 (p : BitVec 3) (q : BitVec 1) (d a : BitVec 4) (imm : BitVec 38) (s : State) :
    exec (.sthI38 p q d a imm) s = execSthI38 p q d a imm s := rfl
@[simp] theorem exec_stwI38 (p : BitVec 3) (q : BitVec 1) (d a : BitVec 4) (imm : BitVec 38) (s : State) :
    exec (.stwI38 p q d a imm) s = execStwI38 p q d a imm s := rfl
@[simp] theorem exec_stdI38 (p : BitVec 3) (q : BitVec 1) (d a : BitVec 4) (imm : BitVec 38) (s : State) :
    exec (.stdI38 p q d a imm) s = execStdI38 p q d a imm s := rfl
@[simp] theorem exec_ldbRlx (p : BitVec 3) (q : BitVec 1) (d a : BitVec 4) (imm : BitVec 14) (s : State) :
    exec (.ldbRlx p q d a imm) s = execLdbRlx p q d a imm s := rfl
@[simp] theorem exec_ldbuRlx (p : BitVec 3) (q : BitVec 1) (d a : BitVec 4) (imm : BitVec 14) (s : State) :
    exec (.ldbuRlx p q d a imm) s = execLdbuRlx p q d a imm s := rfl
@[simp] theorem exec_ldhRlx (p : BitVec 3) (q : BitVec 1) (d a : BitVec 4) (imm : BitVec 14) (s : State) :
    exec (.ldhRlx p q d a imm) s = execLdhRlx p q d a imm s := rfl
@[simp] theorem exec_ldhuRlx (p : BitVec 3) (q : BitVec 1) (d a : BitVec 4) (imm : BitVec 14) (s : State) :
    exec (.ldhuRlx p q d a imm) s = execLdhuRlx p q d a imm s := rfl
@[simp] theorem exec_ldwRlx (p : BitVec 3) (q : BitVec 1) (d a : BitVec 4) (imm : BitVec 14) (s : State) :
    exec (.ldwRlx p q d a imm) s = execLdwRlx p q d a imm s := rfl
@[simp] theorem exec_ldwuRlx (p : BitVec 3) (q : BitVec 1) (d a : BitVec 4) (imm : BitVec 14) (s : State) :
    exec (.ldwuRlx p q d a imm) s = execLdwuRlx p q d a imm s := rfl
@[simp] theorem exec_lddRlx (p : BitVec 3) (q : BitVec 1) (d a : BitVec 4) (imm : BitVec 14) (s : State) :
    exec (.lddRlx p q d a imm) s = execLddRlx p q d a imm s := rfl
@[simp] theorem exec_stbRlx (p : BitVec 3) (q : BitVec 1) (d a : BitVec 4) (imm : BitVec 14) (s : State) :
    exec (.stbRlx p q d a imm) s = execStbRlx p q d a imm s := rfl
@[simp] theorem exec_sthRlx (p : BitVec 3) (q : BitVec 1) (d a : BitVec 4) (imm : BitVec 14) (s : State) :
    exec (.sthRlx p q d a imm) s = execSthRlx p q d a imm s := rfl
@[simp] theorem exec_stwRlx (p : BitVec 3) (q : BitVec 1) (d a : BitVec 4) (imm : BitVec 14) (s : State) :
    exec (.stwRlx p q d a imm) s = execStwRlx p q d a imm s := rfl
@[simp] theorem exec_stdRlx (p : BitVec 3) (q : BitVec 1) (d a : BitVec 4) (imm : BitVec 14) (s : State) :
    exec (.stdRlx p q d a imm) s = execStdRlx p q d a imm s := rfl
@[simp] theorem exec_relaxedAccessCompletion (tid n : Nat) (s : State) :
    exec (.relaxedAccessCompletion tid n) s = execRelaxedAccessCompletion tid n s := rfl
@[simp] theorem exec_deferredRelaxedFault (tid : Nat) (s : State) :
    exec (.deferredRelaxedFault tid) s = execDeferredRelaxedFault tid s := rfl
@[simp] theorem exec_ldf (p : BitVec 3) (q : BitVec 1) (d a : BitVec 4) (s : State) :
    exec (.ldf p q d a) s = execLdf p q d a s := rfl
@[simp] theorem exec_ldfe (p : BitVec 3) (q : BitVec 1) (d a : BitVec 4) (s : State) :
    exec (.ldfe p q d a) s = execLdfe p q d a s := rfl
@[simp] theorem exec_ste (p : BitVec 3) (q : BitVec 1) (d a : BitVec 4) (s : State) :
    exec (.ste p q d a) s = execSte p q d a s := rfl
@[simp] theorem exec_stf (p : BitVec 3) (q : BitVec 1) (d a : BitVec 4) (s : State) :
    exec (.stf p q d a) s = execStf p q d a s := rfl
@[simp] theorem exec_fclr (p : BitVec 3) (q : BitVec 1) (a : BitVec 4) (s : State) :
    exec (.fclr p q a) s = execFclr p q a s := rfl
@[simp] theorem exec_fset (p : BitVec 3) (q : BitVec 1) (a : BitVec 4) (s : State) :
    exec (.fset p q a) s = execFset p q a s := rfl
@[simp] theorem exec_fstat (p : BitVec 3) (q : BitVec 1) (d a : BitVec 4) (s : State) :
    exec (.fstat p q d a) s = execFstat p q d a s := rfl
@[simp] theorem exec_syncWaitSatisfied (core pos : Nat) (s : State) :
    exec (.syncWaitSatisfied core pos) s = execSyncWaitSatisfied core pos s := rfl
@[simp] theorem exec_aadd (p : BitVec 3) (q : BitVec 1) (d a b : BitVec 4) (w : BitVec 2) (s : State) :
    exec (.aadd p q d a b w) s = execAadd p q d a b w s := rfl
@[simp] theorem exec_aand (p : BitVec 3) (q : BitVec 1) (d a b : BitVec 4) (w : BitVec 2) (s : State) :
    exec (.aand p q d a b w) s = execAand p q d a b w s := rfl
@[simp] theorem exec_aor (p : BitVec 3) (q : BitVec 1) (d a b : BitVec 4) (w : BitVec 2) (s : State) :
    exec (.aor p q d a b w) s = execAor p q d a b w s := rfl
@[simp] theorem exec_axor (p : BitVec 3) (q : BitVec 1) (d a b : BitVec 4) (w : BitVec 2) (s : State) :
    exec (.axor p q d a b w) s = execAxor p q d a b w s := rfl
@[simp] theorem exec_amin (p : BitVec 3) (q : BitVec 1) (d a b : BitVec 4) (w : BitVec 2) (s : State) :
    exec (.amin p q d a b w) s = execAmin p q d a b w s := rfl
@[simp] theorem exec_amax (p : BitVec 3) (q : BitVec 1) (d a b : BitVec 4) (w : BitVec 2) (s : State) :
    exec (.amax p q d a b w) s = execAmax p q d a b w s := rfl
@[simp] theorem exec_aminu (p : BitVec 3) (q : BitVec 1) (d a b : BitVec 4) (w : BitVec 2) (s : State) :
    exec (.aminu p q d a b w) s = execAminu p q d a b w s := rfl
@[simp] theorem exec_amaxu (p : BitVec 3) (q : BitVec 1) (d a b : BitVec 4) (w : BitVec 2) (s : State) :
    exec (.amaxu p q d a b w) s = execAmaxu p q d a b w s := rfl
@[simp] theorem exec_aswp (p : BitVec 3) (q : BitVec 1) (d a b : BitVec 4) (w : BitVec 2) (s : State) :
    exec (.aswp p q d a b w) s = execAswp p q d a b w s := rfl
@[simp] theorem exec_acas (p : BitVec 3) (q : BitVec 1) (d a b : BitVec 4) (w : BitVec 2) (s : State) :
    exec (.acas p q d a b w) s = execAcas p q d a b w s := rfl
@[simp] theorem exec_afadd (p : BitVec 3) (q : BitVec 1) (d a b : BitVec 4) (s : State) :
    exec (.afadd p q d a b) s = execAfadd p q d a b s := rfl
@[simp] theorem exec_bankReservationGrant (key : Nat) (s : State) :
    exec (.bankReservationGrant key) s = execBankReservationGrant key s := rfl
@[simp] theorem exec_proxyHostAtomic (die qn : Nat) (s : State) :
    exec (.proxyHostAtomic die qn) s = execProxyHostAtomic die qn s := rfl
@[simp] theorem exec_sealPages (p : BitVec 3) (q : BitVec 1) (a b : BitVec 4) (s : State) :
    exec (.sealPages p q a b) s = execSealPages p q a b s := rfl
@[simp] theorem exec_unsealPages (p : BitVec 3) (q : BitVec 1) (a b : BitVec 4) (s : State) :
    exec (.unsealPages p q a b) s = execUnsealPages p q a b s := rfl
@[simp] theorem exec_sealq (p : BitVec 3) (q : BitVec 1) (d a : BitVec 4) (s : State) :
    exec (.sealq p q d a) s = execSealq p q d a s := rfl
@[simp] theorem exec_sealComplete (n : Nat) (s : State) :
    exec (.sealComplete n) s = execSealComplete n s := rfl
@[simp] theorem exec_unsealComplete (n : Nat) (s : State) :
    exec (.unsealComplete n) s = execUnsealComplete n s := rfl
@[simp] theorem exec_fetchHoldRelease (tid : Nat) (s : State) :
    exec (.fetchHoldRelease tid) s = execFetchHoldRelease tid s := rfl
@[simp] theorem exec_spawn (p : BitVec 3) (q : BitVec 1) (d a b : BitVec 4) (s : State) :
    exec (.spawn p q d a b) s = execSpawn p q d a b s := rfl
@[simp] theorem exec_join (p : BitVec 3) (q : BitVec 1) (a : BitVec 4) (s : State) :
    exec (.join p q a) s = execJoin p q a s := rfl
@[simp] theorem exec_jinit (p : BitVec 3) (q : BitVec 1) (a b : BitVec 4) (s : State) :
    exec (.jinit p q a b) s = execJinit p q a b s := rfl
@[simp] theorem exec_exit (p : BitVec 3) (q : BitVec 1) (s : State) :
    exec (.exit p q) s = execExit p q s := rfl
@[simp] theorem exec_yield (p : BitVec 3) (q : BitVec 1) (a : BitVec 4) (s : State) :
    exec (.yield p q a) s = execYield p q a s := rfl
@[simp] theorem exec_yieldHoldEnd (tid : Nat) (s : State) :
    exec (.yieldHoldEnd tid) s = execYieldHoldEnd tid s := rfl
@[simp] theorem exec_migrate (p : BitVec 3) (q : BitVec 1) (a : BitVec 4) (s : State) :
    exec (.migrate p q a) s = execMigrate p q a s := rfl
@[simp] theorem exec_send (p : BitVec 3) (q : BitVec 1) (a b : BitVec 4) (s : State) :
    exec (.send p q a b) s = execSend p q a b s := rfl
@[simp] theorem exec_waitm (p : BitVec 3) (q : BitVec 1) (d : BitVec 4) (s : State) :
    exec (.waitm p q d) s = execWaitm p q d s := rfl
@[simp] theorem exec_waitc (p : BitVec 3) (q : BitVec 1) (d a b : BitVec 4) (s : State) :
    exec (.waitc p q d a b) s = execWaitc p q d a b s := rfl
@[simp] theorem exec_cset (p : BitVec 3) (q : BitVec 1) (a b : BitVec 4) (s : State) :
    exec (.cset p q a b) s = execCset p q a b s := rfl
@[simp] theorem exec_bar (p : BitVec 3) (q : BitVec 1) (a b : BitVec 4) (s : State) :
    exec (.bar p q a b) s = execBar p q a b s := rfl
@[simp] theorem exec_fence (p : BitVec 3) (q : BitVec 1) (sc : BitVec 4) (s : State) :
    exec (.fence p q sc) s = execFence p q sc s := rfl
@[simp] theorem exec_clusterBarrierArrival (n : Nat) (s : State) :
    exec (.clusterBarrierArrival n) s = execClusterBarrierArrival n s := rfl
@[simp] theorem exec_clusterBarrierRelease (cl bar : Nat) (s : State) :
    exec (.clusterBarrierRelease cl bar) s = execClusterBarrierRelease cl bar s := rfl
@[simp] theorem exec_counterMessage (n : Nat) (s : State) :
    exec (.counterMessage n) s = execCounterMessage n s := rfl
@[simp] theorem exec_wakeMessageArrival (n : Nat) (s : State) :
    exec (.wakeMessageArrival n) s = execWakeMessageArrival n s := rfl
@[simp] theorem exec_handlerMessageArrival (n : Nat) (s : State) :
    exec (.handlerMessageArrival n) s = execHandlerMessageArrival n s := rfl
@[simp] theorem exec_migrationArrival (n : Nat) (s : State) :
    exec (.migrationArrival n) s = execMigrationArrival n s := rfl
@[simp] theorem exec_migrationRefused (n : Nat) (s : State) :
    exec (.migrationRefused n) s = execMigrationRefused n s := rfl
@[simp] theorem exec_slotBind (tid : Nat) (s : State) :
    exec (.slotBind tid) s = execSlotBind tid s := rfl
@[simp] theorem exec_stealRequest (n : Nat) (s : State) :
    exec (.stealRequest n) s = execStealRequest n s := rfl
@[simp] theorem exec_stealReply (n : Nat) (s : State) :
    exec (.stealReply n) s = execStealReply n s := rfl
@[simp] theorem exec_stealSearchRetry (core cx : Nat) (s : State) :
    exec (.stealSearchRetry core cx) s = execStealSearchRetry core cx s := rfl
@[simp] theorem exec_trap (p : BitVec 3) (q : BitVec 1) (a : BitVec 4) (s : State) :
    exec (.trap p q a) s = execTrap p q a s := rfl
@[simp] theorem exec_eret (p : BitVec 3) (q : BitVec 1) (s : State) :
    exec (.eret p q) s = execEret p q s := rfl
@[simp] theorem exec_brk (p : BitVec 3) (q : BitVec 1) (s : State) :
    exec (.brk p q) s = execBrk p q s := rfl
@[simp] theorem exec_halt (p : BitVec 3) (q : BitVec 1) (a : BitVec 4) (s : State) :
    exec (.halt p q a) s = execHalt p q a s := rfl
@[simp] theorem exec_haltCompletion (cx : Nat) (s : State) :
    exec (.haltCompletion cx) s = execHaltCompletion cx s := rfl
@[simp] theorem exec_tsr (p : BitVec 3) (q : BitVec 1) (d : BitVec 4) (s : State) :
    exec (.tsr p q d) s = execTsr p q d s := rfl
@[simp] theorem exec_rng (p : BitVec 3) (q : BitVec 1) (d : BitVec 4) (s : State) :
    exec (.rng p q d) s = execRng p q d s := rfl
@[simp] theorem exec_logm (p : BitVec 3) (q : BitVec 1) (a b : BitVec 4) (s : State) :
    exec (.logm p q a b) s = execLogm p q a b s := rfl
@[simp] theorem exec_nop (p : BitVec 3) (q : BitVec 1) (s : State) :
    exec (.nop p q) s = execNop p q s := rfl
@[simp] theorem exec_illegalInstruction (w : Word32) (s : State) :
    exec (.illegalInstruction w) s = execIllegalInstruction w s := rfl
@[simp] theorem exec_extensionAbsent (w : Word32) (s : State) :
    exec (.extensionAbsent w) s = execExtensionAbsent w s := rfl
@[simp] theorem exec_extensionMigration (w : Word32) (s : State) :
    exec (.extensionMigration w) s = execExtensionMigration w s := rfl
@[simp] theorem exec_memoryReply (tid : Nat) (s : State) :
    exec (.memoryReply tid) s = execMemoryReply tid s := rfl
@[simp] theorem exec_pageWalk (home : Nat) (s : State) :
    exec (.pageWalk home) s = execPageWalk home s := rfl
@[simp] theorem exec_pageWake (n : Nat) (s : State) :
    exec (.pageWake n) s = execPageWake n s := rfl
@[simp] theorem exec_vadd (p : BitVec 3) (q : BitVec 1) (hd ha hb : BitVec 5) (m : BitVec 2) (sat : BitVec 1) (s : State) :
    exec (.vadd p q hd ha hb m sat) s = execVadd p q hd ha hb m sat s := rfl
@[simp] theorem exec_vsub (p : BitVec 3) (q : BitVec 1) (hd ha hb : BitVec 5) (m : BitVec 2) (sat : BitVec 1) (s : State) :
    exec (.vsub p q hd ha hb m sat) s = execVsub p q hd ha hb m sat s := rfl
@[simp] theorem exec_vmul (p : BitVec 3) (q : BitVec 1) (hd ha hb : BitVec 5) (m : BitVec 2) (sat : BitVec 1) (s : State) :
    exec (.vmul p q hd ha hb m sat) s = execVmul p q hd ha hb m sat s := rfl
@[simp] theorem exec_vfma (p : BitVec 3) (q : BitVec 1) (hd ha hb : BitVec 5) (m : BitVec 2) (sat : BitVec 1) (s : State) :
    exec (.vfma p q hd ha hb m sat) s = execVfma p q hd ha hb m sat s := rfl
@[simp] theorem exec_vmin (p : BitVec 3) (q : BitVec 1) (hd ha hb : BitVec 5) (m : BitVec 2) (sat : BitVec 1) (s : State) :
    exec (.vmin p q hd ha hb m sat) s = execVmin p q hd ha hb m sat s := rfl
@[simp] theorem exec_vmax (p : BitVec 3) (q : BitVec 1) (hd ha hb : BitVec 5) (m : BitVec 2) (sat : BitVec 1) (s : State) :
    exec (.vmax p q hd ha hb m sat) s = execVmax p q hd ha hb m sat s := rfl
@[simp] theorem exec_vabs (p : BitVec 3) (q : BitVec 1) (hd ha : BitVec 5) (m : BitVec 2) (sat : BitVec 1) (s : State) :
    exec (.vabs p q hd ha m sat) s = execVabs p q hd ha m sat s := rfl
@[simp] theorem exec_vneg (p : BitVec 3) (q : BitVec 1) (hd ha : BitVec 5) (m : BitVec 2) (sat : BitVec 1) (s : State) :
    exec (.vneg p q hd ha m sat) s = execVneg p q hd ha m sat s := rfl
@[simp] theorem exec_vscale (p : BitVec 3) (q : BitVec 1) (hd ha hb : BitVec 5) (m : BitVec 2) (sat : BitVec 1) (s : State) :
    exec (.vscale p q hd ha hb m sat) s = execVscale p q hd ha hb m sat s := rfl
@[simp] theorem exec_vclip (p : BitVec 3) (q : BitVec 1) (hd ha hb : BitVec 5) (m : BitVec 2) (sat : BitVec 1) (s : State) :
    exec (.vclip p q hd ha hb m sat) s = execVclip p q hd ha hb m sat s := rfl
@[simp] theorem exec_vexp (p : BitVec 3) (q : BitVec 1) (hd ha : BitVec 5) (m : BitVec 2) (sat : BitVec 1) (s : State) :
    exec (.vexp p q hd ha m sat) s = execVexp p q hd ha m sat s := rfl
@[simp] theorem exec_vlog (p : BitVec 3) (q : BitVec 1) (hd ha : BitVec 5) (m : BitVec 2) (sat : BitVec 1) (s : State) :
    exec (.vlog p q hd ha m sat) s = execVlog p q hd ha m sat s := rfl
@[simp] theorem exec_vrcp (p : BitVec 3) (q : BitVec 1) (hd ha : BitVec 5) (m : BitVec 2) (sat : BitVec 1) (s : State) :
    exec (.vrcp p q hd ha m sat) s = execVrcp p q hd ha m sat s := rfl
@[simp] theorem exec_vrsqrt (p : BitVec 3) (q : BitVec 1) (hd ha : BitVec 5) (m : BitVec 2) (sat : BitVec 1) (s : State) :
    exec (.vrsqrt p q hd ha m sat) s = execVrsqrt p q hd ha m sat s := rfl
@[simp] theorem exec_vtanh (p : BitVec 3) (q : BitVec 1) (hd ha : BitVec 5) (m : BitVec 2) (sat : BitVec 1) (s : State) :
    exec (.vtanh p q hd ha m sat) s = execVtanh p q hd ha m sat s := rfl
@[simp] theorem exec_vsigm (p : BitVec 3) (q : BitVec 1) (hd ha : BitVec 5) (m : BitVec 2) (sat : BitVec 1) (s : State) :
    exec (.vsigm p q hd ha m sat) s = execVsigm p q hd ha m sat s := rfl
@[simp] theorem exec_vsilu (p : BitVec 3) (q : BitVec 1) (hd ha : BitVec 5) (m : BitVec 2) (sat : BitVec 1) (s : State) :
    exec (.vsilu p q hd ha m sat) s = execVsilu p q hd ha m sat s := rfl
@[simp] theorem exec_verf (p : BitVec 3) (q : BitVec 1) (hd ha : BitVec 5) (m : BitVec 2) (sat : BitVec 1) (s : State) :
    exec (.verf p q hd ha m sat) s = execVerf p q hd ha m sat s := rfl
@[simp] theorem exec_viadd (p : BitVec 3) (q : BitVec 1) (hd ha hb : BitVec 5) (sat : BitVec 1) (s : State) :
    exec (.viadd p q hd ha hb sat) s = execViadd p q hd ha hb sat s := rfl
@[simp] theorem exec_visub (p : BitVec 3) (q : BitVec 1) (hd ha hb : BitVec 5) (sat : BitVec 1) (s : State) :
    exec (.visub p q hd ha hb sat) s = execVisub p q hd ha hb sat s := rfl
@[simp] theorem exec_vimul (p : BitVec 3) (q : BitVec 1) (hd ha hb : BitVec 5) (sat : BitVec 1) (s : State) :
    exec (.vimul p q hd ha hb sat) s = execVimul p q hd ha hb sat s := rfl
@[simp] theorem exec_vimac (p : BitVec 3) (q : BitVec 1) (hd ha hb : BitVec 5) (sat : BitVec 1) (s : State) :
    exec (.vimac p q hd ha hb sat) s = execVimac p q hd ha hb sat s := rfl
@[simp] theorem exec_vand (p : BitVec 3) (q : BitVec 1) (hd ha hb : BitVec 5) (sat : BitVec 1) (s : State) :
    exec (.vand p q hd ha hb sat) s = execVand p q hd ha hb sat s := rfl
@[simp] theorem exec_vor (p : BitVec 3) (q : BitVec 1) (hd ha hb : BitVec 5) (sat : BitVec 1) (s : State) :
    exec (.vor p q hd ha hb sat) s = execVor p q hd ha hb sat s := rfl
@[simp] theorem exec_vxor (p : BitVec 3) (q : BitVec 1) (hd ha hb : BitVec 5) (sat : BitVec 1) (s : State) :
    exec (.vxor p q hd ha hb sat) s = execVxor p q hd ha hb sat s := rfl
@[simp] theorem exec_vshl (p : BitVec 3) (q : BitVec 1) (hd ha hb : BitVec 5) (sat : BitVec 1) (s : State) :
    exec (.vshl p q hd ha hb sat) s = execVshl p q hd ha hb sat s := rfl
@[simp] theorem exec_vshr (p : BitVec 3) (q : BitVec 1) (hd ha hb : BitVec 5) (sat : BitVec 1) (s : State) :
    exec (.vshr p q hd ha hb sat) s = execVshr p q hd ha hb sat s := rfl
@[simp] theorem exec_vrsh (p : BitVec 3) (q : BitVec 1) (hd ha hb : BitVec 5) (sat : BitVec 1) (s : State) :
    exec (.vrsh p q hd ha hb sat) s = execVrsh p q hd ha hb sat s := rfl
@[simp] theorem exec_vclampi (p : BitVec 3) (q : BitVec 1) (hd ha hb : BitVec 5) (sat : BitVec 1) (s : State) :
    exec (.vclampi p q hd ha hb sat) s = execVclampi p q hd ha hb sat s := rfl
@[simp] theorem exec_vcopy (p : BitVec 3) (q : BitVec 1) (hd ha : BitVec 5) (s : State) :
    exec (.vcopy p q hd ha) s = execVcopy p q hd ha s := rfl
@[simp] theorem exec_vfill (p : BitVec 3) (q : BitVec 1) (hd ha : BitVec 5) (m : BitVec 2) (sat : BitVec 1) (s : State) :
    exec (.vfill p q hd ha m sat) s = execVfill p q hd ha m sat s := rfl
@[simp] theorem exec_vcvt (p : BitVec 3) (q : BitVec 1) (hd ha : BitVec 5) (m : BitVec 2) (sat : BitVec 1) (s : State) :
    exec (.vcvt p q hd ha m sat) s = execVcvt p q hd ha m sat s := rfl
@[simp] theorem exec_vgath (p : BitVec 3) (q : BitVec 1) (hd ha hb : BitVec 5) (s : State) :
    exec (.vgath p q hd ha hb) s = execVgath p q hd ha hb s := rfl
@[simp] theorem exec_vscat (p : BitVec 3) (q : BitVec 1) (hd ha hb : BitVec 5) (s : State) :
    exec (.vscat p q hd ha hb) s = execVscat p q hd ha hb s := rfl
@[simp] theorem exec_vsel (p : BitVec 3) (q : BitVec 1) (hd ha hb : BitVec 5) (s : State) :
    exec (.vsel p q hd ha hb) s = execVsel p q hd ha hb s := rfl
@[simp] theorem exec_vsum (p : BitVec 3) (q : BitVec 1) (hd ha : BitVec 5) (m : BitVec 2) (sat : BitVec 1) (s : State) :
    exec (.vsum p q hd ha m sat) s = execVsum p q hd ha m sat s := rfl
@[simp] theorem exec_vmaxr (p : BitVec 3) (q : BitVec 1) (hd ha : BitVec 5) (m : BitVec 2) (sat : BitVec 1) (s : State) :
    exec (.vmaxr p q hd ha m sat) s = execVmaxr p q hd ha m sat s := rfl
@[simp] theorem exec_vminr (p : BitVec 3) (q : BitVec 1) (hd ha : BitVec 5) (m : BitVec 2) (sat : BitVec 1) (s : State) :
    exec (.vminr p q hd ha m sat) s = execVminr p q hd ha m sat s := rfl
@[simp] theorem exec_vdot (p : BitVec 3) (q : BitVec 1) (hd ha hb : BitVec 5) (m : BitVec 2) (sat : BitVec 1) (s : State) :
    exec (.vdot p q hd ha hb m sat) s = execVdot p q hd ha hb m sat s := rfl
@[simp] theorem exec_vcmp (p : BitVec 3) (q : BitVec 1) (hd ha hb : BitVec 5) (s : State) :
    exec (.vcmp p q hd ha hb) s = execVcmp p q hd ha hb s := rfl
@[simp] theorem exec_vhist (p : BitVec 3) (q : BitVec 1) (hd ha : BitVec 5) (s : State) :
    exec (.vhist p q hd ha) s = execVhist p q hd ha s := rfl
@[simp] theorem exec_vselk (p : BitVec 3) (q : BitVec 1) (hd ha hb : BitVec 5) (s : State) :
    exec (.vselk p q hd ha hb) s = execVselk p q hd ha hb s := rfl
@[simp] theorem exec_vmrg (p : BitVec 3) (q : BitVec 1) (hd ha hb : BitVec 5) (s : State) :
    exec (.vmrg p q hd ha hb) s = execVmrg p q hd ha hb s := rfl
@[simp] theorem exec_vcnt (p : BitVec 3) (q : BitVec 1) (hd ha : BitVec 5) (s : State) :
    exec (.vcnt p q hd ha) s = execVcnt p q hd ha s := rfl
@[simp] theorem exec_vloop (p : BitVec 3) (q : BitVec 1) (n k : BitVec 5) (s : State) :
    exec (.vloop p q n k) s = execVloop p q n k s := rfl
@[simp] theorem exec_vend (p : BitVec 3) (q : BitVec 1) (s : State) :
    exec (.vend p q) s = execVend p q s := rfl
@[simp] theorem exec_vwait (p : BitVec 3) (q : BitVec 1) (s : State) :
    exec (.vwait p q) s = execVwait p q s := rfl
@[simp] theorem exec_vectorGroup (core : Nat) (s : State) :
    exec (.vectorGroup core) s = execVectorGroup core s := rfl
@[simp] theorem exec_vectorFaultDelivery (tid : Nat) (s : State) :
    exec (.vectorFaultDelivery tid) s = execVectorFaultDelivery tid s := rfl
@[simp] theorem exec_mma (p : BitVec 3) (q : BitVec 1) (acc ra rb : BitVec 3) (k : BitVec 4) (mf : BitVec 9) (s : State) :
    exec (.mma p q acc ra rb k mf) s = execMma p q acc ra rb k mf s := rfl
@[simp] theorem exec_mms (p : BitVec 3) (q : BitVec 1) (acc ra rb : BitVec 3) (k : BitVec 4) (mf : BitVec 9) (s : State) :
    exec (.mms p q acc ra rb k mf) s = execMms p q acc ra rb k mf s := rfl
@[simp] theorem exec_mmx (p : BitVec 3) (q : BitVec 1) (acc ra rb : BitVec 3) (k : BitVec 4) (mf : BitVec 9) (s : State) :
    exec (.mmx p q acc ra rb k mf) s = execMmx p q acc ra rb k mf s := rfl
@[simp] theorem exec_mmg (p : BitVec 3) (q : BitVec 1) (acc ra rb : BitVec 3) (k : BitVec 4) (mf : BitVec 9) (s : State) :
    exec (.mmg p q acc ra rb k mf) s = execMmg p q acc ra rb k mf s := rfl
@[simp] theorem exec_matrixAdmission (core : Nat) (s : State) :
    exec (.matrixAdmission core) s = execMatrixAdmission core s := rfl
@[simp] theorem exec_matrixKStep (core : Nat) (s : State) :
    exec (.matrixKStep core) s = execMatrixKStep core s := rfl
@[simp] theorem exec_accz (p : BitVec 3) (q : BitVec 1) (t : BitVec 3) (s : State) :
    exec (.accz p q t) s = execAccz p q t s := rfl
@[simp] theorem exec_accrd (p : BitVec 3) (q : BitVec 1) (t : BitVec 3) (a b : BitVec 4) (s : State) :
    exec (.accrd p q t a b) s = execAccrd p q t a b s := rfl
@[simp] theorem exec_accwr (p : BitVec 3) (q : BitVec 1) (t : BitVec 3) (a b : BitVec 4) (s : State) :
    exec (.accwr p q t a b) s = execAccwr p q t a b s := rfl
@[simp] theorem exec_accTransferDone (tid : Nat) (s : State) :
    exec (.accTransferDone tid) s = execAccTransferDone tid s := rfl
@[simp] theorem exec_ringset (p : BitVec 3) (q : BitVec 1) (t : BitVec 3) (a : BitVec 4) (s : State) :
    exec (.ringset p q t a) s = execRingset p q t a s := rfl
@[simp] theorem exec_ringst (p : BitVec 3) (q : BitVec 1) (t : BitVec 3) (b : BitVec 4) (s : State) :
    exec (.ringst p q t b) s = execRingst p q t b s := rfl
@[simp] theorem exec_mpget (p : BitVec 3) (q : BitVec 1) (d : BitVec 4) (t : BitVec 3) (s : State) :
    exec (.mpget p q d t) s = execMpget p q d t s := rfl
@[simp] theorem exec_cpy (p : BitVec 3) (q : BitVec 1) (d a b : BitVec 4) (s : State) :
    exec (.cpy p q d a b) s = execCpy p q d a b s := rfl
@[simp] theorem exec_cpyd (p : BitVec 3) (q : BitVec 1) (d a b : BitVec 4) (s : State) :
    exec (.cpyd p q d a b) s = execCpyd p q d a b s := rfl
@[simp] theorem exec_cpyf (p : BitVec 3) (q : BitVec 1) (d a b : BitVec 4) (s : State) :
    exec (.cpyf p q d a b) s = execCpyf p q d a b s := rfl
@[simp] theorem exec_cpyq (p : BitVec 3) (q : BitVec 1) (d a : BitVec 4) (s : State) :
    exec (.cpyq p q d a) s = execCpyq p q d a s := rfl
@[simp] theorem exec_copyCommandAccept (n : Nat) (s : State) :
    exec (.copyCommandAccept n) s = execCopyCommandAccept n s := rfl
@[simp] theorem exec_copyCommandCompletion (eng : Nat) (s : State) :
    exec (.copyCommandCompletion eng) s = execCopyCommandCompletion eng s := rfl
@[simp] theorem exec_combiningWindowClose (cl : Nat) (s : State) :
    exec (.combiningWindowClose cl) s = execCombiningWindowClose cl s := rfl
@[simp] theorem exec_streamDelivery (n : Nat) (s : State) :
    exec (.streamDelivery n) s = execStreamDelivery n s := rfl
@[simp] theorem exec_streamDeliveryTimeout (port : Nat) (s : State) :
    exec (.streamDeliveryTimeout port) s = execStreamDeliveryTimeout port s := rfl
@[simp] theorem exec_overflowDeliveryReentry (port : Nat) (s : State) :
    exec (.overflowDeliveryReentry port) s = execOverflowDeliveryReentry port s := rfl
@[simp] theorem exec_blockExpansion (n : Nat) (s : State) :
    exec (.blockExpansion n) s = execBlockExpansion n s := rfl
@[simp] theorem exec_transformThreadBind (core : Nat) (s : State) :
    exec (.transformThreadBind core) s = execTransformThreadBind core s := rfl
@[simp] theorem exec_commThreadBind (core : Nat) (s : State) :
    exec (.commThreadBind core) s = execCommThreadBind core s := rfl
@[simp] theorem exec_thin (p : BitVec 3) (q : BitVec 1) (d a b : BitVec 4) (s : State) :
    exec (.thin p q d a b) s = execThin p q d a b s := rfl
@[simp] theorem exec_mref (p : BitVec 3) (q : BitVec 1) (d a b : BitVec 4) (s : State) :
    exec (.mref p q d a b) s = execMref p q d a b s := rfl
@[simp] theorem exec_mrel (p : BitVec 3) (q : BitVec 1) (d a b : BitVec 4) (s : State) :
    exec (.mrel p q d a b) s = execMrel p q d a b s := rfl
@[simp] theorem exec_mver (p : BitVec 3) (q : BitVec 1) (d a : BitVec 4) (s : State) :
    exec (.mver p q d a) s = execMver p q d a s := rfl
@[simp] theorem exec_intervalBuildStart (cl : Nat) (s : State) :
    exec (.intervalBuildStart cl) s = execIntervalBuildStart cl s := rfl
@[simp] theorem exec_intervalPublish (cl : Nat) (s : State) :
    exec (.intervalPublish cl) s = execIntervalPublish cl s := rfl
@[simp] theorem exec_intervalFailure (cl : Nat) (s : State) :
    exec (.intervalFailure cl) s = execIntervalFailure cl s := rfl
@[simp] theorem exec_gred (p : BitVec 3) (q : BitVec 1) (d a b : BitVec 4) (s : State) :
    exec (.gred p q d a b) s = execGred p q d a b s := rfl
@[simp] theorem exec_gldr (p : BitVec 3) (q : BitVec 1) (d a b : BitVec 4) (s : State) :
    exec (.gldr p q d a b) s = execGldr p q d a b s := rfl
@[simp] theorem exec_gmc (p : BitVec 3) (q : BitVec 1) (d a b : BitVec 4) (s : State) :
    exec (.gmc p q d a b) s = execGmc p q d a b s := rfl
@[simp] theorem exec_gsetSet (p : BitVec 3) (q : BitVec 1) (d a b : BitVec 4) (s : State) :
    exec (.gsetSet p q d a b) s = execGsetSet p q d a b s := rfl
@[simp] theorem exec_gsetClear (p : BitVec 3) (q : BitVec 1) (d a b : BitVec 4) (s : State) :
    exec (.gsetClear p q d a b) s = execGsetClear p q d a b s := rfl
@[simp] theorem exec_gq (p : BitVec 3) (q : BitVec 1) (d a : BitVec 4) (s : State) :
    exec (.gq p q d a) s = execGq p q d a s := rfl
@[simp] theorem exec_groupRegistration (n : Nat) (s : State) :
    exec (.groupRegistration n) s = execGroupRegistration n s := rfl
@[simp] theorem exec_gsetTimeout (grp : Nat) (s : State) :
    exec (.gsetTimeout grp) s = execGsetTimeout grp s := rfl
@[simp] theorem exec_reductionChunkArrival (n : Nat) (s : State) :
    exec (.reductionChunkArrival n) s = execReductionChunkArrival n s := rfl
@[simp] theorem exec_slotTimerExpiry (sw grp slot : Nat) (s : State) :
    exec (.slotTimerExpiry sw grp slot) s = execSlotTimerExpiry sw grp slot s := rfl
@[simp] theorem exec_slotNoticeArrival (n : Nat) (s : State) :
    exec (.slotNoticeArrival n) s = execSlotNoticeArrival n s := rfl
@[simp] theorem exec_destinationWrite (n : Nat) (s : State) :
    exec (.destinationWrite n) s = execDestinationWrite n s := rfl
@[simp] theorem exec_statusReturn (n : Nat) (s : State) :
    exec (.statusReturn n) s = execStatusReturn n s := rfl
@[simp] theorem exec_memberCutoffTimeout (core grp seq : Nat) (s : State) :
    exec (.memberCutoffTimeout core grp seq) s = execMemberCutoffTimeout core grp seq s := rfl
@[simp] theorem exec_commX1Element (core : Nat) (s : State) :
    exec (.commX1Element core) s = execCommX1Element core s := rfl
@[simp] theorem exec_commX3Query (core : Nat) (s : State) :
    exec (.commX3Query core) s = execCommX3Query core s := rfl
@[simp] theorem exec_sbind (p : BitVec 3) (q : BitVec 1) (x : BitVec 2) (a : BitVec 4) (s : State) :
    exec (.sbind p q x a) s = execSbind p q x a s := rfl
@[simp] theorem exec_sfree (p : BitVec 3) (q : BitVec 1) (x : BitVec 2) (s : State) :
    exec (.sfree p q x) s = execSfree p q x s := rfl
@[simp] theorem exec_xstat (p : BitVec 3) (q : BitVec 1) (d : BitVec 4) (x : BitVec 2) (s : State) :
    exec (.xstat p q d x) s = execXstat p q d x s := rfl
@[simp] theorem exec_bget (p : BitVec 3) (q : BitVec 1) (d a : BitVec 4) (s : State) :
    exec (.bget p q d a) s = execBget p q d a s := rfl
@[simp] theorem exec_bpeek (p : BitVec 3) (q : BitVec 1) (d a : BitVec 4) (s : State) :
    exec (.bpeek p q d a) s = execBpeek p q d a s := rfl
@[simp] theorem exec_bskip (p : BitVec 3) (q : BitVec 1) (a : BitVec 4) (s : State) :
    exec (.bskip p q a) s = execBskip p q a s := rfl
@[simp] theorem exec_bput (p : BitVec 3) (q : BitVec 1) (a b : BitVec 4) (s : State) :
    exec (.bput p q a b) s = execBput p q a b s := rfl
@[simp] theorem exec_bflush (p : BitVec 3) (q : BitVec 1) (d : BitVec 4) (s : State) :
    exec (.bflush p q d) s = execBflush p q d s := rfl
@[simp] theorem exec_bhdr (p : BitVec 3) (q : BitVec 1) (d : BitVec 4) (s : State) :
    exec (.bhdr p q d) s = execBhdr p q d s := rfl
@[simp] theorem exec_bexp (p : BitVec 3) (q : BitVec 1) (d a : BitVec 4) (s : State) :
    exec (.bexp p q d a) s = execBexp p q d a s := rfl
@[simp] theorem exec_bsync (p : BitVec 3) (q : BitVec 1) (d : BitVec 4) (s : State) :
    exec (.bsync p q d) s = execBsync p q d s := rfl
@[simp] theorem exec_hwalk (p : BitVec 3) (q : BitVec 1) (d a b : BitVec 4) (s : State) :
    exec (.hwalk p q d a b) s = execHwalk p q d a b s := rfl
@[simp] theorem exec_hins (p : BitVec 3) (q : BitVec 1) (d a : BitVec 4) (s : State) :
    exec (.hins p q d a) s = execHins p q d a s := rfl
@[simp] theorem exec_hdel (p : BitVec 3) (q : BitVec 1) (d a : BitVec 4) (s : State) :
    exec (.hdel p q d a) s = execHdel p q d a s := rfl
@[simp] theorem exec_tlbi (p : BitVec 3) (q : BitVec 1) (a b : BitVec 4) (s : State) :
    exec (.tlbi p q a b) s = execTlbi p q a b s := rfl
@[simp] theorem exec_hotr (p : BitVec 3) (q : BitVec 1) (d a b : BitVec 4) (s : State) :
    exec (.hotr p q d a b) s = execHotr p q d a b s := rfl
@[simp] theorem exec_pgmv (p : BitVec 3) (q : BitVec 1) (d a b : BitVec 4) (s : State) :
    exec (.pgmv p q d a b) s = execPgmv p q d a b s := rfl
@[simp] theorem exec_pageMoveSwitch (n : Nat) (s : State) :
    exec (.pageMoveSwitch n) s = execPageMoveSwitch n s := rfl
@[simp] theorem exec_bpset (p : BitVec 3) (q : BitVec 1) (a b : BitVec 4) (s : State) :
    exec (.bpset p q a b) s = execBpset p q a b s := rfl
@[simp] theorem exec_bpclr (p : BitVec 3) (q : BitVec 1) (a : BitVec 4) (s : State) :
    exec (.bpclr p q a) s = execBpclr p q a s := rfl
@[simp] theorem exec_tstart (p : BitVec 3) (q : BitVec 1) (a : BitVec 4) (s : State) :
    exec (.tstart p q a) s = execTstart p q a s := rfl
@[simp] theorem exec_tstop (p : BitVec 3) (q : BitVec 1) (s : State) :
    exec (.tstop p q) s = execTstop p q s := rfl
@[simp] theorem exec_snap (p : BitVec 3) (q : BitVec 1) (d a : BitVec 4) (s : State) :
    exec (.snap p q d a) s = execSnap p q d a s := rfl
@[simp] theorem exec_hardwareBreakpoint (n : Nat) (s : State) :
    exec (.hardwareBreakpoint n) s = execHardwareBreakpoint n s := rfl
@[simp] theorem exec_spill (tid : Nat) (s : State) :
    exec (.spill tid) s = execSpill tid s := rfl
@[simp] theorem exec_spillResume (tid cx : Nat) (s : State) :
    exec (.spillResume tid cx) s = execSpillResume tid cx s := rfl
@[simp] theorem exec_logAppend (cx die : Nat) (s : State) :
    exec (.logAppend cx die) s = execLogAppend cx die s := rfl
@[simp] theorem exec_replayRecordDispatch (cx die : Nat) (s : State) :
    exec (.replayRecordDispatch cx die) s = execReplayRecordDispatch cx die s := rfl
@[simp] theorem exec_replayWaitTimeout (tid : Nat) (s : State) :
    exec (.replayWaitTimeout tid) s = execReplayWaitTimeout tid s := rfl
@[simp] theorem exec_timeMessage (pkg carried delay : Nat) (s : State) :
    exec (.timeMessage pkg carried delay) s = execTimeMessage pkg carried delay s := rfl
@[simp] theorem exec_masterTimeFailover (s : State) :
    exec .masterTimeFailover s = execMasterTimeFailover s := rfl
@[simp] theorem exec_loadData (pkg ep conn : Nat) (queued : Bool) (bytes : List Byte) (s : State) :
    exec (.loadData pkg ep conn queued bytes) s = execLoadData pkg ep conn queued bytes s := rfl
@[simp] theorem exec_loadPageTable (pkg ep conn : Nat) (queued : Bool) (bytes : List Byte) (s : State) :
    exec (.loadPageTable pkg ep conn queued bytes) s = execLoadPageTable pkg ep conn queued bytes s := rfl
@[simp] theorem exec_launchCreate (pkg ep conn : Nat) (queued : Bool) (bytes : List Byte) (s : State) :
    exec (.launchCreate pkg ep conn queued bytes) s = execLaunchCreate pkg ep conn queued bytes s := rfl
@[simp] theorem exec_launchPriority (pkg ep conn : Nat) (queued : Bool) (bytes : List Byte) (s : State) :
    exec (.launchPriority pkg ep conn queued bytes) s = execLaunchPriority pkg ep conn queued bytes s := rfl
@[simp] theorem exec_snapshot (pkg ep conn : Nat) (queued : Bool) (bytes : List Byte) (s : State) :
    exec (.snapshot pkg ep conn queued bytes) s = execSnapshot pkg ep conn queued bytes s := rfl
@[simp] theorem exec_queryHealth (pkg ep conn : Nat) (queued : Bool) (bytes : List Byte) (s : State) :
    exec (.queryHealth pkg ep conn queued bytes) s = execQueryHealth pkg ep conn queued bytes s := rfl
@[simp] theorem exec_queryDigest (pkg ep conn : Nat) (queued : Bool) (bytes : List Byte) (s : State) :
    exec (.queryDigest pkg ep conn queued bytes) s = execQueryDigest pkg ep conn queued bytes s := rfl
@[simp] theorem exec_queryContextStates (pkg ep conn : Nat) (queued : Bool) (bytes : List Byte) (s : State) :
    exec (.queryContextStates pkg ep conn queued bytes) s = execQueryContextStates pkg ep conn queued bytes s := rfl
@[simp] theorem exec_queryAttestation (pkg ep conn : Nat) (queued : Bool) (bytes : List Byte) (s : State) :
    exec (.queryAttestation pkg ep conn queued bytes) s = execQueryAttestation pkg ep conn queued bytes s := rfl
@[simp] theorem exec_sealCommand (pkg ep conn : Nat) (queued : Bool) (bytes : List Byte) (s : State) :
    exec (.sealCommand pkg ep conn queued bytes) s = execSealCommand pkg ep conn queued bytes s := rfl
@[simp] theorem exec_unsealCommand (pkg ep conn : Nat) (queued : Bool) (bytes : List Byte) (s : State) :
    exec (.unsealCommand pkg ep conn queued bytes) s = execUnsealCommand pkg ep conn queued bytes s := rfl
@[simp] theorem exec_resetContext (pkg ep conn : Nat) (queued : Bool) (bytes : List Byte) (s : State) :
    exec (.resetContext pkg ep conn queued bytes) s = execResetContext pkg ep conn queued bytes s := rfl
@[simp] theorem exec_resetPackage (pkg ep conn : Nat) (queued : Bool) (bytes : List Byte) (s : State) :
    exec (.resetPackage pkg ep conn queued bytes) s = execResetPackage pkg ep conn queued bytes s := rfl
@[simp] theorem exec_foreignPacketDrop (pkg ep : Nat) (s : State) :
    exec (.foreignPacketDrop pkg ep) s = execForeignPacketDrop pkg ep s := rfl
@[simp] theorem exec_hostset (pkg ep : Nat) (eps : List Nat) (s : State) :
    exec (.hostset pkg ep eps) s = execHostset pkg ep eps s := rfl
@[simp] theorem exec_window (pkg ep n : Nat) (bytes : List Byte) (s : State) :
    exec (.window pkg ep n bytes) s = execWindow pkg ep n bytes s := rfl
@[simp] theorem exec_stop (pkg ep lcn slot : Nat) (queued : Bool) (s : State) :
    exec (.stop pkg ep lcn slot queued) s = execStop pkg ep lcn slot queued s := rfl
@[simp] theorem exec_resume (pkg ep lcn slot : Nat) (s : State) :
    exec (.resume pkg ep lcn slot) s = execResume pkg ep lcn slot s := rfl
@[simp] theorem exec_pkread (pkg ep lcn slot : Nat) (s : State) :
    exec (.pkread pkg ep lcn slot) s = execPkread pkg ep lcn slot s := rfl
@[simp] theorem exec_pkwrite (pkg ep lcn slot : Nat) (bytes : List Byte) (s : State) :
    exec (.pkwrite pkg ep lcn slot bytes) s = execPkwrite pkg ep lcn slot bytes s := rfl
@[simp] theorem exec_fwload (pkg ep n : Nat) (bytes : List Byte) (s : State) :
    exec (.fwload pkg ep n bytes) s = execFwload pkg ep n bytes s := rfl
@[simp] theorem exec_powercap (pkg ep watts : Nat) (s : State) :
    exec (.powercap pkg ep watts) s = execPowercap pkg ep watts s := rfl
@[simp] theorem exec_powerOn (pkg : Nat) (repaired : Bool) (s : State) :
    exec (.powerOn pkg repaired) s = execPowerOn pkg repaired s := rfl
@[simp] theorem exec_throttle (pkg : Nat) (s : State) :
    exec (.throttle pkg) s = execThrottle pkg s := rfl
@[simp] theorem exec_throttleRelease (pkg : Nat) (s : State) :
    exec (.throttleRelease pkg) s = execThrottleRelease pkg s := rfl
@[simp] theorem exec_thermalShutdown (pkg : Nat) (s : State) :
    exec (.thermalShutdown pkg) s = execThermalShutdown pkg s := rfl
@[simp] theorem exec_correctedError (pkg : Nat) (phys : Option Nat) (s : State) :
    exec (.correctedError pkg phys) s = execCorrectedError pkg phys s := rfl
@[simp] theorem exec_uncorrectableThreadState (tid : Nat) (s : State) :
    exec (.uncorrectableThreadState tid) s = execUncorrectableThreadState tid s := rfl
@[simp] theorem exec_uncorrectableCoreState (core : Nat) (s : State) :
    exec (.uncorrectableCoreState core) s = execUncorrectableCoreState core s := rfl
@[simp] theorem exec_coreDisable (core : Nat) (s : State) :
    exec (.coreDisable core) s = execCoreDisable core s := rfl
@[simp] theorem exec_tlbEntryError (cl n : Nat) (s : State) :
    exec (.tlbEntryError cl n) s = execTlbEntryError cl n s := rfl
@[simp] theorem exec_replicaLineError (cl line : Nat) (s : State) :
    exec (.replicaLineError cl line) s = execReplicaLineError cl line s := rfl
@[simp] theorem exec_shardBucketError (pkg die home bucket : Nat) (s : State) :
    exec (.shardBucketError pkg die home bucket) s = execShardBucketError pkg die home bucket s := rfl
@[simp] theorem exec_engineFault (eng : Nat) (s : State) :
    exec (.engineFault eng) s = execEngineFault eng s := rfl
@[simp] theorem exec_barrierStateError (cl bar : Nat) (s : State) :
    exec (.barrierStateError cl bar) s = execBarrierStateError cl bar s := rfl
@[simp] theorem exec_mapEntryError (cx core : Nat) (s : State) :
    exec (.mapEntryError cx core) s = execMapEntryError cx core s := rfl
@[simp] theorem exec_meshLinkFault (pkg die link : Nat) (s : State) :
    exec (.meshLinkFault pkg die link) s = execMeshLinkFault pkg die link s := rfl
@[simp] theorem exec_thinningUnitError (cl : Nat) (s : State) :
    exec (.thinningUnitError cl) s = execThinningUnitError cl s := rfl
@[simp] theorem exec_logAppendFailure (cx die : Nat) (s : State) :
    exec (.logAppendFailure cx die) s = execLogAppendFailure cx die s := rfl
@[simp] theorem exec_sequenceStateError (cx obj : Nat) (s : State) :
    exec (.sequenceStateError cx obj) s = execSequenceStateError cx obj s := rfl
@[simp] theorem exec_logUnitDisabled (pkg die : Nat) (s : State) :
    exec (.logUnitDisabled pkg die) s = execLogUnitDisabled pkg die s := rfl
@[simp] theorem exec_channelRetirement (pkg stack chan : Nat) (unit : Option Nat) (s : State) :
    exec (.channelRetirement pkg stack chan unit) s = execChannelRetirement pkg stack chan unit s := rfl
@[simp] theorem exec_spareCopyComplete (pkg stack : Nat) (s : State) :
    exec (.spareCopyComplete pkg stack) s = execSpareCopyComplete pkg stack s := rfl
@[simp] theorem exec_dieSublinkFailure (pkg : Nat) (s : State) :
    exec (.dieSublinkFailure pkg) s = execDieSublinkFailure pkg s := rfl
@[simp] theorem exec_dieLinkLost (pkg : Nat) (s : State) :
    exec (.dieLinkLost pkg) s = execDieLinkLost pkg s := rfl
@[simp] theorem exec_flitCrcError (pkg port : Nat) (s : State) :
    exec (.flitCrcError pkg port) s = execFlitCrcError pkg port s := rfl
@[simp] theorem exec_laneFailure (pkg port : Nat) (s : State) :
    exec (.laneFailure pkg port) s = execLaneFailure pkg port s := rfl
@[simp] theorem exec_portDown (pkg port : Nat) (s : State) :
    exec (.portDown pkg port) s = execPortDown pkg port s := rfl
@[simp] theorem exec_slotUncorrectable (sw grp slot : Nat) (s : State) :
    exec (.slotUncorrectable sw grp slot) s = execSlotUncorrectable sw grp slot s := rfl
@[simp] theorem exec_treeEntryError (sw grp : Nat) (s : State) :
    exec (.treeEntryError sw grp) s = execTreeEntryError sw grp s := rfl
@[simp] theorem exec_timeAccountCycle (core : Nat) (s : State) :
    exec (.timeAccountCycle core) s = execTimeAccountCycle core s := rfl
@[simp] theorem exec_timeStampCounterTick (s : State) :
    exec .timeStampCounterTick s = execTimeStampCounterTick s := rfl

end Sys2Proof.Machine
end

