-- ==== Sys2Proof/Laws/Issue.lean ====
section
/-! SUPPORT. What the frame of an instruction, the reading of its operands and the shapes compute, effect and act come to:
one law for each outcome (R70, R71, R213). -/

namespace Sys2Proof.Machine

theorem holds_turned {s : State} {u : Thread} {len : Nat} {p : BitVec 3} {q : BitVec 1} :
    (s.turned u len).holds p q = u.holds p q := rfl

theorem sup_turned {s : State} {u : Thread} {len : Nat} : (s.turned u len).sup = u.sup := rfl

theorem frame_runs {word : Word32} {len : Nat} {p : BitVec 3} {q : BitVec 1} {s : State} {t : Thread}
    {body : Nat → Thread → State → State} (h : s.Issues p q len t) :
    frame word len p q s body = .next (body s.cur t s) := by
  obtain ⟨u, hu, hp, rfl⟩ := h
  simp [frame, hu, holds_turned, hp]

theorem frame_priv {word : Word32} {len : Nat} {p : BitVec 3} {q : BitVec 1} {s : State} {t : Thread}
    {body : Nat → Thread → State → State} (h : s.Issues p q len t) (hs : t.sup = true) :
    frame word len p q s body (priv := true) = .next (body s.cur t s) := by
  obtain ⟨u, hu, hp, rfl⟩ := h
  simp [frame, hu, holds_turned, hp, hs]

theorem frame_ext {word : Word32} {len : Nat} {p : BitVec 3} {q : BitVec 1} {s : State} {t : Thread} {x : Ext}
    {body : Nat → Thread → State → State} (h : s.Issues p q len t) (hx : hasExt (coreOf s.cur) x = true) :
    frame word len p q s body (ext := some x) = .next (body s.cur t s) := by
  obtain ⟨u, hu, hp, rfl⟩ := h
  simp [frame, hu, holds_turned, hp, hx]

theorem frame_privExt {word : Word32} {len : Nat} {p : BitVec 3} {q : BitVec 1} {s : State} {t : Thread} {x : Ext}
    {body : Nat → Thread → State → State} (h : s.Issues p q len t) (hs : t.sup = true)
    (hx : hasExt (coreOf s.cur) x = true) :
    frame word len p q s body (priv := true) (ext := some x) = .next (body s.cur t s) := by
  obtain ⟨u, hu, hp, rfl⟩ := h
  simp [frame, hu, holds_turned, hp, hs, hx]

/-- R71: a false predicate leaves every effect undone but the pc's advance. -/
theorem frame_skips {word : Word32} {len : Nat} {p : BitVec 3} {q : BitVec 1} {s : State} {u : Thread} {priv : Bool}
    {ext : Option Ext} {body : Nat → Thread → State → State} (hu : s.thread s.cur = some u) (hp : u.holds p q = false)
    (hs : priv = true → u.sup = true) :
    frame word len p q s body priv ext = .next (s.retire s.cur (s.turned u len)) := by
  have h1 : (priv && !u.sup) = false := by cases priv <;> simp_all
  simp [frame, hu, holds_turned, hp, sup_turned, h1]

/-- R69: a privileged instruction of a thread that is not in supervisor state. -/
theorem frame_user {word : Word32} {len : Nat} {p : BitVec 3} {q : BitVec 1} {s : State} {u : Thread} {ext : Option Ext}
    {body : Nat → Thread → State → State} (hu : s.thread s.cur = some u) (hs : u.sup = false) :
    frame word len p q s body true ext = .next (s.trap s.cur (s.turned u len) 2 (word.setWidth 64)) := by
  simp [frame, hu, hs, sup_turned]

theorem operands_ready {s s1 : State} {t : Thread} {word : Word32} {srcs dsts : List (BitVec 4)} {v : List Word}
    {k : List Word → State → State} (h : s.Reads t srcs dsts v s1) :
    s.operands s.cur t word srcs dsts k = k v s1 := by
  obtain ⟨h1, h2, h3, h4, h5, h6⟩ := h
  simp only [State.operands, h1, h2, h3, h4, h5, h6, Bool.and_self, Bool.not_true, Bool.false_eq_true, if_false]

theorem effect_runs {word : Word32} {len : Nat} {p : BitVec 3} {q : BitVec 1} {srcs : List (BitVec 4)} {s s1 : State}
    {t : Thread} {v : List Word} {f : Nat → Thread → List Word → State → State} (h : s.Issues p q len t)
    (r : s.Reads t srcs [] v s1) : effect word len p q srcs s f = .next (f s.cur t v s1) := by
  rw [effect, frame_runs h, operands_ready r]

theorem act_runs {word : Word32} {len : Nat} {p : BitVec 3} {q : BitVec 1} {srcs dsts : List (BitVec 4)} {s s1 : State}
    {t : Thread} {v : List Word} {f : Nat → Thread → State → List Word → State → State} (h : s.Issues p q len t)
    (r : s.Reads t srcs dsts v s1) : act word len p q srcs dsts s f = .next (f s.cur t s v s1) := by
  rw [act, frame_runs h, operands_ready r]

theorem finish_accepted {s0 s : State} {tid : Nat} {t : Thread} {word : Word32} {d : BitVec 4} {v : Word}
    (h : State.writeRefused tid d v = false) : s0.finish s tid t word d v = s.result tid t d v := by
  simp only [State.finish, h, Bool.false_eq_true, if_false, State.result]

theorem compute_runs {word : Word32} {len : Nat} {p : BitVec 3} {q : BitVec 1} {d : BitVec 4} {srcs : List (BitVec 4)}
    {s s1 : State} {t : Thread} {v : List Word} {f : Thread → List Word → Word} (h : s.Issues p q len t)
    (r : s.Reads t srcs [d] v s1) (w : State.writeRefused s.cur d (f t v) = false) :
    compute word len p q d srcs s f = .next (s1.result s.cur t d (f t v)) := by
  rw [compute, frame_runs h, operands_ready r, finish_accepted w]

end Sys2Proof.Machine
end

