-- ==== Sys2Proof/Laws/State.lean ====
section
/-! SUPPORT. The laws of sparse maps, number sets and memory, and of State's updates: one law for each field and update. -/

namespace Sys2Proof.Machine

/-! Sparse maps. -/

@[simp] theorem find?_nil {α : Type} (i : Nat) : NatMap.find? ([] : NatMap α) i = none := rfl

@[simp] theorem find?_put_same {α : Type} (m : NatMap α) (i : Nat) (a : α) : (m.put i a).find? i = some a := by
  induction m with
  | nil => simp [NatMap.put, NatMap.find?]
  | cons e r ih =>
    obtain ⟨k, v⟩ := e
    simp only [NatMap.put]
    split
    · simp [NatMap.find?]
    split
    · simp [NatMap.find?]
    simp only [NatMap.find?, if_neg ‹¬i = k›, if_neg ‹¬i < k›, ih]

theorem find?_put_ne {α : Type} (m : NatMap α) {i j : Nat} (a : α) (h : j ≠ i) : (m.put i a).find? j = m.find? j := by
  induction m with
  | nil => simp [NatMap.put, NatMap.find?, h]
  | cons e r ih =>
    obtain ⟨k, v⟩ := e
    simp only [NatMap.put]
    split
    · simp only [NatMap.find?, if_neg h]
      split
      · rw [if_neg (by omega), if_pos (by omega)]
      · rfl
    split
    · subst_vars; simp [NatMap.find?, h]
    · simp only [NatMap.find?, ih]

@[simp] theorem at_put_same {α : Type} (m : NatMap α) (dflt a : α) (i : Nat) : (m.put i a).at dflt i = a := by
  simp [NatMap.at]

theorem at_put_ne {α : Type} (m : NatMap α) (dflt a : α) {i j : Nat} (h : j ≠ i) : (m.put i a).at dflt j = m.at dflt j := by
  simp [NatMap.at, find?_put_ne m a h]

theorem mem_put {α : Type} {m : NatMap α} {i : Nat} {a : α} {e : Nat × α} (h : e ∈ m.put i a) : e = (i, a) ∨ e ∈ m := by
  induction m with
  | nil => simpa [NatMap.put] using h
  | cons x r ih =>
    obtain ⟨k, v⟩ := x
    simp only [NatMap.put] at h
    split at h
    · simpa using h
    split at h
    · simp only [List.mem_cons] at h ⊢; tauto
    · simp only [List.mem_cons] at h ⊢
      rcases h with h | h
      · exact .inr (.inl h)
      · rcases ih h with h | h
        · exact .inl h
        · exact .inr (.inr h)

theorem mem_del {α : Type} {m : NatMap α} {i : Nat} {e : Nat × α} (h : e ∈ m.del i) : e ∈ m := by
  induction m with
  | nil => simp [NatMap.del] at h
  | cons x r ih =>
    obtain ⟨k, v⟩ := x
    simp only [NatMap.del] at h
    split at h
    · exact h
    split at h
    · exact List.mem_cons_of_mem _ h
    · simp only [List.mem_cons] at h ⊢
      exact h.imp id ih

theorem sorted_put {α : Type} {m : NatMap α} (i : Nat) (a : α) (h : m.Sorted) : (m.put i a).Sorted := by
  induction m with
  | nil => simp [NatMap.put]
  | cons x r ih =>
    obtain ⟨k, v⟩ := x
    rw [NatMap.Sorted, List.pairwise_cons] at h
    simp only [NatMap.put]
    split
    · refine List.Pairwise.cons ?_ (List.pairwise_cons.2 h)
      intro e he
      rcases List.mem_cons.1 he with rfl | he
      · assumption
      · have := h.1 e he; simp only at this; omega
    split
    · subst_vars; exact List.pairwise_cons.2 h
    · refine List.Pairwise.cons ?_ (ih h.2)
      intro e he
      rcases mem_put he with rfl | he
      · simp only; omega
      · exact h.1 e he

theorem sorted_del {α : Type} {m : NatMap α} (i : Nat) (h : m.Sorted) : (m.del i).Sorted := by
  induction m with
  | nil => simp [NatMap.del]
  | cons x r ih =>
    obtain ⟨k, v⟩ := x
    rw [NatMap.Sorted, List.pairwise_cons] at h
    simp only [NatMap.del]
    split
    · exact List.pairwise_cons.2 h
    split
    · exact h.2
    · exact List.Pairwise.cons (fun e he => h.1 e (mem_del he)) (ih h.2)

theorem find?_low {α : Type} {m : NatMap α} {k j : Nat} (h : ∀ e ∈ m, k < e.1) (hj : j ≤ k) : m.find? j = none := by
  cases m with
  | nil => rfl
  | cons x r =>
    obtain ⟨l, v⟩ := x
    have := h _ (List.mem_cons_self ..)
    simp only at this
    simp [NatMap.find?, show ¬j = l by omega, show j < l by omega]

theorem find?_del {α : Type} {m : NatMap α} {i : Nat} (j : Nat) (h : m.Sorted) :
    (m.del i).find? j = if j = i then none else m.find? j := by
  induction m with
  | nil => simp [NatMap.del]
  | cons x r ih =>
    obtain ⟨k, v⟩ := x
    rw [NatMap.Sorted, List.pairwise_cons] at h
    simp only [NatMap.del]
    split
    · split
      · subst_vars; simp only [NatMap.find?]; rw [if_neg (by omega), if_pos (by omega)]
      · rfl
    split
    · subst_vars
      split
      · subst_vars; exact find?_low h.1 (Nat.le_refl _)
      · rename_i hne
        simp only [NatMap.find?, if_neg hne]
        split
        · exact find?_low h.1 (by omega)
        · rfl
    · simp only [NatMap.find?, ih h.2]
      split
      · subst_vars; rw [if_neg (by omega)]
      · split
        · simp
        · rfl

/-! Memory: the canonical form, and reading what was written. -/

theorem setByte_wf {m : Mem} (k : Nat) (b : Byte) (h : m.wf) : (m.setByte k b).wf := by
  unfold Mem.setByte
  split
  · exact ⟨sorted_del k h.1, fun e he => h.2 e (mem_del he)⟩
  · refine ⟨sorted_put k b h.1, fun e he => ?_⟩
    rcases mem_put he with rfl | he
    · assumption
    · exact h.2 e he

theorem byte_setByte {m : Mem} (k j : Nat) (b : Byte) (h : m.wf) :
    (m.setByte k b).byte j = if j = k then b else m.byte j := by
  unfold Mem.setByte Mem.byte
  split
  · rw [find?_del j h.1]
    split
    · subst_vars; rfl
    · rfl
  · split
    · subst_vars; simp
    · rw [find?_put_ne _ _ ‹_›]

theorem write_wf {m : Mem} (k n v : Nat) (h : m.wf) : (m.write k n v).wf := by
  induction n generalizing m k v with
  | zero => exact h
  | succ n ih => exact ih _ _ (setByte_wf _ _ h)

theorem writeBytes_wf {m : Mem} (k : Nat) (l : List Byte) (h : m.wf) : (m.writeBytes k l).wf := by
  induction l generalizing m k with
  | nil => exact h
  | cons b r ih => exact ih _ (setByte_wf _ _ h)

theorem byte_write {m : Mem} (k n v j : Nat) (h : m.wf) :
    (m.write k n v).byte j = if k ≤ j ∧ j < k + n then BitVec.ofNat 8 (v / 256 ^ (j - k)) else m.byte j := by
  induction n generalizing m k v with
  | zero => rw [if_neg (by omega)]; rfl
  | succ n ih =>
    rw [Mem.write, ih _ _ (setByte_wf _ _ h), byte_setByte _ _ _ h]
    by_cases h1 : k + 1 ≤ j ∧ j < k + 1 + n
    · rw [if_pos h1, if_pos (by omega), show j - k = (j - (k + 1)) + 1 by omega, Nat.pow_succ, Nat.mul_comm,
        ← Nat.div_div_eq_div_mul]
    · rw [if_neg h1]
      by_cases h2 : j = k
      · subst_vars; rw [if_pos rfl, if_pos (by omega)]; simp
      · rw [if_neg h2, if_neg (by omega)]

theorem byte_write_ne {m : Mem} {k n v j : Nat} (h : m.wf) (hj : j < k ∨ k + n ≤ j) : (m.write k n v).byte j = m.byte j := by
  rw [byte_write k n v j h, if_neg (by omega)]

theorem byte_writeBytes {m : Mem} (k : Nat) (l : List Byte) (j : Nat) (h : m.wf) :
    (m.writeBytes k l).byte j = if k ≤ j ∧ j < k + l.length then l.getD (j - k) 0 else m.byte j := by
  induction l generalizing m k with
  | nil => simp only [Mem.writeBytes, List.length_nil]; rw [if_neg (by omega)]
  | cons b r ih =>
    rw [Mem.writeBytes, ih _ (setByte_wf _ _ h), byte_setByte _ _ _ h]
    by_cases h1 : k + 1 ≤ j ∧ j < k + 1 + r.length
    · rw [if_pos h1, if_pos (by simp; omega), show j - k = (j - (k + 1)) + 1 by omega]; simp
    · rw [if_neg h1]
      by_cases h2 : j = k
      · subst_vars; simp
      · rw [if_neg h2, if_neg (by simp only [List.length_cons]; omega)]

/-- A range read byte by byte depends on its own bytes alone. -/
theorem read_congr {m m' : Mem} {k n : Nat} (h : ∀ j, k ≤ j → j < k + n → m.byte j = m'.byte j) : m.read k n = m'.read k n := by
  induction n generalizing k with
  | zero => rfl
  | succ n ih =>
    rw [Mem.read, Mem.read, h k (Nat.le_refl _) (by omega), ih (k := k + 1) fun j h1 h2 => h j (by omega) (by omega)]

/-- R22, R24: what was stored is read back, cut to the bytes stored. -/
theorem read_write {m : Mem} (k n v : Nat) (h : m.wf) : (m.write k n v).read k n = v % 256 ^ n := by
  induction n generalizing m k v with
  | zero => simp [Mem.read, Nat.mod_one]
  | succ n ih =>
    have hr : (m.write k (n + 1) v).read (k + 1) n = v / 256 % 256 ^ n := ih _ _ (setByte_wf _ _ h)
    rw [Mem.read, hr, byte_write k (n + 1) v k h, if_pos (by omega)]
    rw [Nat.sub_self, Nat.pow_zero, Nat.div_one, BitVec.toNat_ofNat, show 256 ^ (n + 1) = 256 * 256 ^ n by ring, Nat.mod_mul]

/-! Number sets. -/

theorem mem_insert {l : NatSet} {i j : Nat} : j ∈ NatSet.insert l i ↔ j = i ∨ j ∈ l := by
  induction l with
  | nil => simp [NatSet.insert]
  | cons k r ih =>
    simp only [NatSet.insert]
    split
    · simp
    split
    · subst_vars; simp
    · simp only [List.mem_cons, ih]; tauto

theorem mem_remove {l : NatSet} {i j : Nat} : j ∈ NatSet.remove l i ↔ j ∈ l ∧ j ≠ i := by
  simp [NatSet.remove]

/-! One law for each field of State and each update. -/

@[simp] theorem setThread_agenda (s : State) (tid : Nat) (t : Thread) : (s.setThread tid t).agenda = s.agenda := rfl
@[simp] theorem setThread_turn (s : State) (tid : Nat) (t : Thread) : (s.setThread tid t).turn = s.turn := rfl
@[simp] theorem setThread_tested (s : State) (tid : Nat) (t : Thread) : (s.setThread tid t).tested = s.tested := rfl
@[simp] theorem setThread_cur (s : State) (tid : Nat) (t : Thread) : (s.setThread tid t).cur = s.cur := rfl
@[simp] theorem setThread_clock (s : State) (tid : Nat) (t : Thread) : (s.setThread tid t).clock = s.clock := rfl
@[simp] theorem setThread_outbox (s : State) (tid : Nat) (t : Thread) : (s.setThread tid t).outbox = s.outbox := rfl
@[simp] theorem setThread_mem (s : State) (tid : Nat) (t : Thread) : (s.setThread tid t).mem = s.mem := rfl
@[simp] theorem setThread_full (s : State) (tid : Nat) (t : Thread) : (s.setThread tid t).full = s.full := rfl
@[simp] theorem setThread_bad (s : State) (tid : Nat) (t : Thread) : (s.setThread tid t).bad = s.bad := rfl
@[simp] theorem setThread_threads (s : State) (tid : Nat) (t : Thread) : (s.setThread tid t).threads = s.threads.put tid t := rfl
@[simp] theorem setThread_cores (s : State) (tid : Nat) (t : Thread) : (s.setThread tid t).cores = s.cores := rfl
@[simp] theorem setThread_clusters (s : State) (tid : Nat) (t : Thread) : (s.setThread tid t).clusters = s.clusters := rfl
@[simp] theorem setThread_engines (s : State) (tid : Nat) (t : Thread) : (s.setThread tid t).engines = s.engines := rfl
@[simp] theorem setThread_ctxs (s : State) (tid : Nat) (t : Thread) : (s.setThread tid t).ctxs = s.ctxs := rfl
@[simp] theorem setThread_pkgs (s : State) (tid : Nat) (t : Thread) : (s.setThread tid t).pkgs = s.pkgs := rfl
@[simp] theorem setThread_banks (s : State) (tid : Nat) (t : Thread) : (s.setThread tid t).banks = s.banks := rfl
@[simp] theorem setThread_ticks (s : State) (tid : Nat) (t : Thread) : (s.setThread tid t).ticks = s.ticks := rfl
@[simp] theorem setThread_tsc (s : State) (tid : Nat) (t : Thread) : (s.setThread tid t).tsc = s.tsc := rfl
@[simp] theorem setThread_net (s : State) (tid : Nat) (t : Thread) : (s.setThread tid t).net = s.net := rfl
@[simp] theorem setThread_fab (s : State) (tid : Nat) (t : Thread) : (s.setThread tid t).fab = s.fab := rfl
@[simp] theorem vacate_agenda (s : State) (tid : Nat) : (s.vacate tid).agenda = s.agenda := rfl
@[simp] theorem vacate_turn (s : State) (tid : Nat) : (s.vacate tid).turn = s.turn := rfl
@[simp] theorem vacate_tested (s : State) (tid : Nat) : (s.vacate tid).tested = s.tested := rfl
@[simp] theorem vacate_cur (s : State) (tid : Nat) : (s.vacate tid).cur = s.cur := rfl
@[simp] theorem vacate_clock (s : State) (tid : Nat) : (s.vacate tid).clock = s.clock := rfl
@[simp] theorem vacate_outbox (s : State) (tid : Nat) : (s.vacate tid).outbox = s.outbox := rfl
@[simp] theorem vacate_mem (s : State) (tid : Nat) : (s.vacate tid).mem = s.mem := rfl
@[simp] theorem vacate_full (s : State) (tid : Nat) : (s.vacate tid).full = s.full := rfl
@[simp] theorem vacate_bad (s : State) (tid : Nat) : (s.vacate tid).bad = s.bad := rfl
@[simp] theorem vacate_threads (s : State) (tid : Nat) : (s.vacate tid).threads = s.threads.del tid := rfl
@[simp] theorem vacate_cores (s : State) (tid : Nat) : (s.vacate tid).cores = s.cores := rfl
@[simp] theorem vacate_clusters (s : State) (tid : Nat) : (s.vacate tid).clusters = s.clusters := rfl
@[simp] theorem vacate_engines (s : State) (tid : Nat) : (s.vacate tid).engines = s.engines := rfl
@[simp] theorem vacate_ctxs (s : State) (tid : Nat) : (s.vacate tid).ctxs = s.ctxs := rfl
@[simp] theorem vacate_pkgs (s : State) (tid : Nat) : (s.vacate tid).pkgs = s.pkgs := rfl
@[simp] theorem vacate_banks (s : State) (tid : Nat) : (s.vacate tid).banks = s.banks := rfl
@[simp] theorem vacate_ticks (s : State) (tid : Nat) : (s.vacate tid).ticks = s.ticks := rfl
@[simp] theorem vacate_tsc (s : State) (tid : Nat) : (s.vacate tid).tsc = s.tsc := rfl
@[simp] theorem vacate_net (s : State) (tid : Nat) : (s.vacate tid).net = s.net := rfl
@[simp] theorem vacate_fab (s : State) (tid : Nat) : (s.vacate tid).fab = s.fab := rfl
@[simp] theorem setCore_agenda (s : State) (c : Nat) (v : Core) : (s.setCore c v).agenda = s.agenda := rfl
@[simp] theorem setCore_turn (s : State) (c : Nat) (v : Core) : (s.setCore c v).turn = s.turn := rfl
@[simp] theorem setCore_tested (s : State) (c : Nat) (v : Core) : (s.setCore c v).tested = s.tested := rfl
@[simp] theorem setCore_cur (s : State) (c : Nat) (v : Core) : (s.setCore c v).cur = s.cur := rfl
@[simp] theorem setCore_clock (s : State) (c : Nat) (v : Core) : (s.setCore c v).clock = s.clock := rfl
@[simp] theorem setCore_outbox (s : State) (c : Nat) (v : Core) : (s.setCore c v).outbox = s.outbox := rfl
@[simp] theorem setCore_mem (s : State) (c : Nat) (v : Core) : (s.setCore c v).mem = s.mem := rfl
@[simp] theorem setCore_full (s : State) (c : Nat) (v : Core) : (s.setCore c v).full = s.full := rfl
@[simp] theorem setCore_bad (s : State) (c : Nat) (v : Core) : (s.setCore c v).bad = s.bad := rfl
@[simp] theorem setCore_threads (s : State) (c : Nat) (v : Core) : (s.setCore c v).threads = s.threads := rfl
@[simp] theorem setCore_cores (s : State) (c : Nat) (v : Core) : (s.setCore c v).cores = s.cores.put c v := rfl
@[simp] theorem setCore_clusters (s : State) (c : Nat) (v : Core) : (s.setCore c v).clusters = s.clusters := rfl
@[simp] theorem setCore_engines (s : State) (c : Nat) (v : Core) : (s.setCore c v).engines = s.engines := rfl
@[simp] theorem setCore_ctxs (s : State) (c : Nat) (v : Core) : (s.setCore c v).ctxs = s.ctxs := rfl
@[simp] theorem setCore_pkgs (s : State) (c : Nat) (v : Core) : (s.setCore c v).pkgs = s.pkgs := rfl
@[simp] theorem setCore_banks (s : State) (c : Nat) (v : Core) : (s.setCore c v).banks = s.banks := rfl
@[simp] theorem setCore_ticks (s : State) (c : Nat) (v : Core) : (s.setCore c v).ticks = s.ticks := rfl
@[simp] theorem setCore_tsc (s : State) (c : Nat) (v : Core) : (s.setCore c v).tsc = s.tsc := rfl
@[simp] theorem setCore_net (s : State) (c : Nat) (v : Core) : (s.setCore c v).net = s.net := rfl
@[simp] theorem setCore_fab (s : State) (c : Nat) (v : Core) : (s.setCore c v).fab = s.fab := rfl
@[simp] theorem modCore_agenda (s : State) (c : Nat) (f : Core → Core) : (s.modCore c f).agenda = s.agenda := rfl
@[simp] theorem modCore_turn (s : State) (c : Nat) (f : Core → Core) : (s.modCore c f).turn = s.turn := rfl
@[simp] theorem modCore_tested (s : State) (c : Nat) (f : Core → Core) : (s.modCore c f).tested = s.tested := rfl
@[simp] theorem modCore_cur (s : State) (c : Nat) (f : Core → Core) : (s.modCore c f).cur = s.cur := rfl
@[simp] theorem modCore_clock (s : State) (c : Nat) (f : Core → Core) : (s.modCore c f).clock = s.clock := rfl
@[simp] theorem modCore_outbox (s : State) (c : Nat) (f : Core → Core) : (s.modCore c f).outbox = s.outbox := rfl
@[simp] theorem modCore_mem (s : State) (c : Nat) (f : Core → Core) : (s.modCore c f).mem = s.mem := rfl
@[simp] theorem modCore_full (s : State) (c : Nat) (f : Core → Core) : (s.modCore c f).full = s.full := rfl
@[simp] theorem modCore_bad (s : State) (c : Nat) (f : Core → Core) : (s.modCore c f).bad = s.bad := rfl
@[simp] theorem modCore_threads (s : State) (c : Nat) (f : Core → Core) : (s.modCore c f).threads = s.threads := rfl
@[simp] theorem modCore_cores (s : State) (c : Nat) (f : Core → Core) : (s.modCore c f).cores = s.cores.put c (f (s.core c)) := rfl
@[simp] theorem modCore_clusters (s : State) (c : Nat) (f : Core → Core) : (s.modCore c f).clusters = s.clusters := rfl
@[simp] theorem modCore_engines (s : State) (c : Nat) (f : Core → Core) : (s.modCore c f).engines = s.engines := rfl
@[simp] theorem modCore_ctxs (s : State) (c : Nat) (f : Core → Core) : (s.modCore c f).ctxs = s.ctxs := rfl
@[simp] theorem modCore_pkgs (s : State) (c : Nat) (f : Core → Core) : (s.modCore c f).pkgs = s.pkgs := rfl
@[simp] theorem modCore_banks (s : State) (c : Nat) (f : Core → Core) : (s.modCore c f).banks = s.banks := rfl
@[simp] theorem modCore_ticks (s : State) (c : Nat) (f : Core → Core) : (s.modCore c f).ticks = s.ticks := rfl
@[simp] theorem modCore_tsc (s : State) (c : Nat) (f : Core → Core) : (s.modCore c f).tsc = s.tsc := rfl
@[simp] theorem modCore_net (s : State) (c : Nat) (f : Core → Core) : (s.modCore c f).net = s.net := rfl
@[simp] theorem modCore_fab (s : State) (c : Nat) (f : Core → Core) : (s.modCore c f).fab = s.fab := rfl
@[simp] theorem modCluster_agenda (s : State) (cl : Nat) (f : Cluster → Cluster) : (s.modCluster cl f).agenda = s.agenda := rfl
@[simp] theorem modCluster_turn (s : State) (cl : Nat) (f : Cluster → Cluster) : (s.modCluster cl f).turn = s.turn := rfl
@[simp] theorem modCluster_tested (s : State) (cl : Nat) (f : Cluster → Cluster) : (s.modCluster cl f).tested = s.tested := rfl
@[simp] theorem modCluster_cur (s : State) (cl : Nat) (f : Cluster → Cluster) : (s.modCluster cl f).cur = s.cur := rfl
@[simp] theorem modCluster_clock (s : State) (cl : Nat) (f : Cluster → Cluster) : (s.modCluster cl f).clock = s.clock := rfl
@[simp] theorem modCluster_outbox (s : State) (cl : Nat) (f : Cluster → Cluster) : (s.modCluster cl f).outbox = s.outbox := rfl
@[simp] theorem modCluster_mem (s : State) (cl : Nat) (f : Cluster → Cluster) : (s.modCluster cl f).mem = s.mem := rfl
@[simp] theorem modCluster_full (s : State) (cl : Nat) (f : Cluster → Cluster) : (s.modCluster cl f).full = s.full := rfl
@[simp] theorem modCluster_bad (s : State) (cl : Nat) (f : Cluster → Cluster) : (s.modCluster cl f).bad = s.bad := rfl
@[simp] theorem modCluster_threads (s : State) (cl : Nat) (f : Cluster → Cluster) : (s.modCluster cl f).threads = s.threads := rfl
@[simp] theorem modCluster_cores (s : State) (cl : Nat) (f : Cluster → Cluster) : (s.modCluster cl f).cores = s.cores := rfl
@[simp] theorem modCluster_clusters (s : State) (cl : Nat) (f : Cluster → Cluster) : (s.modCluster cl f).clusters = s.clusters.put cl (f (s.cluster cl)) := rfl
@[simp] theorem modCluster_engines (s : State) (cl : Nat) (f : Cluster → Cluster) : (s.modCluster cl f).engines = s.engines := rfl
@[simp] theorem modCluster_ctxs (s : State) (cl : Nat) (f : Cluster → Cluster) : (s.modCluster cl f).ctxs = s.ctxs := rfl
@[simp] theorem modCluster_pkgs (s : State) (cl : Nat) (f : Cluster → Cluster) : (s.modCluster cl f).pkgs = s.pkgs := rfl
@[simp] theorem modCluster_banks (s : State) (cl : Nat) (f : Cluster → Cluster) : (s.modCluster cl f).banks = s.banks := rfl
@[simp] theorem modCluster_ticks (s : State) (cl : Nat) (f : Cluster → Cluster) : (s.modCluster cl f).ticks = s.ticks := rfl
@[simp] theorem modCluster_tsc (s : State) (cl : Nat) (f : Cluster → Cluster) : (s.modCluster cl f).tsc = s.tsc := rfl
@[simp] theorem modCluster_net (s : State) (cl : Nat) (f : Cluster → Cluster) : (s.modCluster cl f).net = s.net := rfl
@[simp] theorem modCluster_fab (s : State) (cl : Nat) (f : Cluster → Cluster) : (s.modCluster cl f).fab = s.fab := rfl
@[simp] theorem modEngine_agenda (s : State) (e : Nat) (f : Engine → Engine) : (s.modEngine e f).agenda = s.agenda := rfl
@[simp] theorem modEngine_turn (s : State) (e : Nat) (f : Engine → Engine) : (s.modEngine e f).turn = s.turn := rfl
@[simp] theorem modEngine_tested (s : State) (e : Nat) (f : Engine → Engine) : (s.modEngine e f).tested = s.tested := rfl
@[simp] theorem modEngine_cur (s : State) (e : Nat) (f : Engine → Engine) : (s.modEngine e f).cur = s.cur := rfl
@[simp] theorem modEngine_clock (s : State) (e : Nat) (f : Engine → Engine) : (s.modEngine e f).clock = s.clock := rfl
@[simp] theorem modEngine_outbox (s : State) (e : Nat) (f : Engine → Engine) : (s.modEngine e f).outbox = s.outbox := rfl
@[simp] theorem modEngine_mem (s : State) (e : Nat) (f : Engine → Engine) : (s.modEngine e f).mem = s.mem := rfl
@[simp] theorem modEngine_full (s : State) (e : Nat) (f : Engine → Engine) : (s.modEngine e f).full = s.full := rfl
@[simp] theorem modEngine_bad (s : State) (e : Nat) (f : Engine → Engine) : (s.modEngine e f).bad = s.bad := rfl
@[simp] theorem modEngine_threads (s : State) (e : Nat) (f : Engine → Engine) : (s.modEngine e f).threads = s.threads := rfl
@[simp] theorem modEngine_cores (s : State) (e : Nat) (f : Engine → Engine) : (s.modEngine e f).cores = s.cores := rfl
@[simp] theorem modEngine_clusters (s : State) (e : Nat) (f : Engine → Engine) : (s.modEngine e f).clusters = s.clusters := rfl
@[simp] theorem modEngine_engines (s : State) (e : Nat) (f : Engine → Engine) : (s.modEngine e f).engines = s.engines.put e (f (s.engine e)) := rfl
@[simp] theorem modEngine_ctxs (s : State) (e : Nat) (f : Engine → Engine) : (s.modEngine e f).ctxs = s.ctxs := rfl
@[simp] theorem modEngine_pkgs (s : State) (e : Nat) (f : Engine → Engine) : (s.modEngine e f).pkgs = s.pkgs := rfl
@[simp] theorem modEngine_banks (s : State) (e : Nat) (f : Engine → Engine) : (s.modEngine e f).banks = s.banks := rfl
@[simp] theorem modEngine_ticks (s : State) (e : Nat) (f : Engine → Engine) : (s.modEngine e f).ticks = s.ticks := rfl
@[simp] theorem modEngine_tsc (s : State) (e : Nat) (f : Engine → Engine) : (s.modEngine e f).tsc = s.tsc := rfl
@[simp] theorem modEngine_net (s : State) (e : Nat) (f : Engine → Engine) : (s.modEngine e f).net = s.net := rfl
@[simp] theorem modEngine_fab (s : State) (e : Nat) (f : Engine → Engine) : (s.modEngine e f).fab = s.fab := rfl
@[simp] theorem modCtx_agenda (s : State) (cx : Nat) (f : Context → Context) : (s.modCtx cx f).agenda = s.agenda := rfl
@[simp] theorem modCtx_turn (s : State) (cx : Nat) (f : Context → Context) : (s.modCtx cx f).turn = s.turn := rfl
@[simp] theorem modCtx_tested (s : State) (cx : Nat) (f : Context → Context) : (s.modCtx cx f).tested = s.tested := rfl
@[simp] theorem modCtx_cur (s : State) (cx : Nat) (f : Context → Context) : (s.modCtx cx f).cur = s.cur := rfl
@[simp] theorem modCtx_clock (s : State) (cx : Nat) (f : Context → Context) : (s.modCtx cx f).clock = s.clock := rfl
@[simp] theorem modCtx_outbox (s : State) (cx : Nat) (f : Context → Context) : (s.modCtx cx f).outbox = s.outbox := rfl
@[simp] theorem modCtx_mem (s : State) (cx : Nat) (f : Context → Context) : (s.modCtx cx f).mem = s.mem := rfl
@[simp] theorem modCtx_full (s : State) (cx : Nat) (f : Context → Context) : (s.modCtx cx f).full = s.full := rfl
@[simp] theorem modCtx_bad (s : State) (cx : Nat) (f : Context → Context) : (s.modCtx cx f).bad = s.bad := rfl
@[simp] theorem modCtx_threads (s : State) (cx : Nat) (f : Context → Context) : (s.modCtx cx f).threads = s.threads := rfl
@[simp] theorem modCtx_cores (s : State) (cx : Nat) (f : Context → Context) : (s.modCtx cx f).cores = s.cores := rfl
@[simp] theorem modCtx_clusters (s : State) (cx : Nat) (f : Context → Context) : (s.modCtx cx f).clusters = s.clusters := rfl
@[simp] theorem modCtx_engines (s : State) (cx : Nat) (f : Context → Context) : (s.modCtx cx f).engines = s.engines := rfl
@[simp] theorem modCtx_ctxs (s : State) (cx : Nat) (f : Context → Context) : (s.modCtx cx f).ctxs = s.ctxs.put cx (f (s.ctx cx)) := rfl
@[simp] theorem modCtx_pkgs (s : State) (cx : Nat) (f : Context → Context) : (s.modCtx cx f).pkgs = s.pkgs := rfl
@[simp] theorem modCtx_banks (s : State) (cx : Nat) (f : Context → Context) : (s.modCtx cx f).banks = s.banks := rfl
@[simp] theorem modCtx_ticks (s : State) (cx : Nat) (f : Context → Context) : (s.modCtx cx f).ticks = s.ticks := rfl
@[simp] theorem modCtx_tsc (s : State) (cx : Nat) (f : Context → Context) : (s.modCtx cx f).tsc = s.tsc := rfl
@[simp] theorem modCtx_net (s : State) (cx : Nat) (f : Context → Context) : (s.modCtx cx f).net = s.net := rfl
@[simp] theorem modCtx_fab (s : State) (cx : Nat) (f : Context → Context) : (s.modCtx cx f).fab = s.fab := rfl
@[simp] theorem modPkg_agenda (s : State) (p : Nat) (f : Package → Package) : (s.modPkg p f).agenda = s.agenda := rfl
@[simp] theorem modPkg_turn (s : State) (p : Nat) (f : Package → Package) : (s.modPkg p f).turn = s.turn := rfl
@[simp] theorem modPkg_tested (s : State) (p : Nat) (f : Package → Package) : (s.modPkg p f).tested = s.tested := rfl
@[simp] theorem modPkg_cur (s : State) (p : Nat) (f : Package → Package) : (s.modPkg p f).cur = s.cur := rfl
@[simp] theorem modPkg_clock (s : State) (p : Nat) (f : Package → Package) : (s.modPkg p f).clock = s.clock := rfl
@[simp] theorem modPkg_outbox (s : State) (p : Nat) (f : Package → Package) : (s.modPkg p f).outbox = s.outbox := rfl
@[simp] theorem modPkg_mem (s : State) (p : Nat) (f : Package → Package) : (s.modPkg p f).mem = s.mem := rfl
@[simp] theorem modPkg_full (s : State) (p : Nat) (f : Package → Package) : (s.modPkg p f).full = s.full := rfl
@[simp] theorem modPkg_bad (s : State) (p : Nat) (f : Package → Package) : (s.modPkg p f).bad = s.bad := rfl
@[simp] theorem modPkg_threads (s : State) (p : Nat) (f : Package → Package) : (s.modPkg p f).threads = s.threads := rfl
@[simp] theorem modPkg_cores (s : State) (p : Nat) (f : Package → Package) : (s.modPkg p f).cores = s.cores := rfl
@[simp] theorem modPkg_clusters (s : State) (p : Nat) (f : Package → Package) : (s.modPkg p f).clusters = s.clusters := rfl
@[simp] theorem modPkg_engines (s : State) (p : Nat) (f : Package → Package) : (s.modPkg p f).engines = s.engines := rfl
@[simp] theorem modPkg_ctxs (s : State) (p : Nat) (f : Package → Package) : (s.modPkg p f).ctxs = s.ctxs := rfl
@[simp] theorem modPkg_pkgs (s : State) (p : Nat) (f : Package → Package) : (s.modPkg p f).pkgs = s.pkgs.put p (f (s.pkg p)) := rfl
@[simp] theorem modPkg_banks (s : State) (p : Nat) (f : Package → Package) : (s.modPkg p f).banks = s.banks := rfl
@[simp] theorem modPkg_ticks (s : State) (p : Nat) (f : Package → Package) : (s.modPkg p f).ticks = s.ticks := rfl
@[simp] theorem modPkg_tsc (s : State) (p : Nat) (f : Package → Package) : (s.modPkg p f).tsc = s.tsc := rfl
@[simp] theorem modPkg_net (s : State) (p : Nat) (f : Package → Package) : (s.modPkg p f).net = s.net := rfl
@[simp] theorem modPkg_fab (s : State) (p : Nat) (f : Package → Package) : (s.modPkg p f).fab = s.fab := rfl
@[simp] theorem setMem_agenda (s : State) (m : Mem) : (s.setMem m).agenda = s.agenda := rfl
@[simp] theorem setMem_turn (s : State) (m : Mem) : (s.setMem m).turn = s.turn := rfl
@[simp] theorem setMem_tested (s : State) (m : Mem) : (s.setMem m).tested = s.tested := rfl
@[simp] theorem setMem_cur (s : State) (m : Mem) : (s.setMem m).cur = s.cur := rfl
@[simp] theorem setMem_clock (s : State) (m : Mem) : (s.setMem m).clock = s.clock := rfl
@[simp] theorem setMem_outbox (s : State) (m : Mem) : (s.setMem m).outbox = s.outbox := rfl
@[simp] theorem setMem_mem (s : State) (m : Mem) : (s.setMem m).mem = m := rfl
@[simp] theorem setMem_full (s : State) (m : Mem) : (s.setMem m).full = s.full := rfl
@[simp] theorem setMem_bad (s : State) (m : Mem) : (s.setMem m).bad = s.bad := rfl
@[simp] theorem setMem_threads (s : State) (m : Mem) : (s.setMem m).threads = s.threads := rfl
@[simp] theorem setMem_cores (s : State) (m : Mem) : (s.setMem m).cores = s.cores := rfl
@[simp] theorem setMem_clusters (s : State) (m : Mem) : (s.setMem m).clusters = s.clusters := rfl
@[simp] theorem setMem_engines (s : State) (m : Mem) : (s.setMem m).engines = s.engines := rfl
@[simp] theorem setMem_ctxs (s : State) (m : Mem) : (s.setMem m).ctxs = s.ctxs := rfl
@[simp] theorem setMem_pkgs (s : State) (m : Mem) : (s.setMem m).pkgs = s.pkgs := rfl
@[simp] theorem setMem_banks (s : State) (m : Mem) : (s.setMem m).banks = s.banks := rfl
@[simp] theorem setMem_ticks (s : State) (m : Mem) : (s.setMem m).ticks = s.ticks := rfl
@[simp] theorem setMem_tsc (s : State) (m : Mem) : (s.setMem m).tsc = s.tsc := rfl
@[simp] theorem setMem_net (s : State) (m : Mem) : (s.setMem m).net = s.net := rfl
@[simp] theorem setMem_fab (s : State) (m : Mem) : (s.setMem m).fab = s.fab := rfl
@[simp] theorem say_agenda (s : State) (m : HostMsg) : (s.say m).agenda = s.agenda := rfl
@[simp] theorem say_turn (s : State) (m : HostMsg) : (s.say m).turn = s.turn := rfl
@[simp] theorem say_tested (s : State) (m : HostMsg) : (s.say m).tested = s.tested := rfl
@[simp] theorem say_cur (s : State) (m : HostMsg) : (s.say m).cur = s.cur := rfl
@[simp] theorem say_clock (s : State) (m : HostMsg) : (s.say m).clock = s.clock := rfl
@[simp] theorem say_outbox (s : State) (m : HostMsg) : (s.say m).outbox = s.outbox ++ [m] := rfl
@[simp] theorem say_mem (s : State) (m : HostMsg) : (s.say m).mem = s.mem := rfl
@[simp] theorem say_full (s : State) (m : HostMsg) : (s.say m).full = s.full := rfl
@[simp] theorem say_bad (s : State) (m : HostMsg) : (s.say m).bad = s.bad := rfl
@[simp] theorem say_threads (s : State) (m : HostMsg) : (s.say m).threads = s.threads := rfl
@[simp] theorem say_cores (s : State) (m : HostMsg) : (s.say m).cores = s.cores := rfl
@[simp] theorem say_clusters (s : State) (m : HostMsg) : (s.say m).clusters = s.clusters := rfl
@[simp] theorem say_engines (s : State) (m : HostMsg) : (s.say m).engines = s.engines := rfl
@[simp] theorem say_ctxs (s : State) (m : HostMsg) : (s.say m).ctxs = s.ctxs := rfl
@[simp] theorem say_pkgs (s : State) (m : HostMsg) : (s.say m).pkgs = s.pkgs := rfl
@[simp] theorem say_banks (s : State) (m : HostMsg) : (s.say m).banks = s.banks := rfl
@[simp] theorem say_ticks (s : State) (m : HostMsg) : (s.say m).ticks = s.ticks := rfl
@[simp] theorem say_tsc (s : State) (m : HostMsg) : (s.say m).tsc = s.tsc := rfl
@[simp] theorem say_net (s : State) (m : HostMsg) : (s.say m).net = s.net := rfl
@[simp] theorem say_fab (s : State) (m : HostMsg) : (s.say m).fab = s.fab := rfl
@[simp] theorem send_agenda (s : State) (src dst chan : Nat) (b : Payload) : (s.send src dst chan b).agenda = s.agenda := rfl
@[simp] theorem send_turn (s : State) (src dst chan : Nat) (b : Payload) : (s.send src dst chan b).turn = s.turn := rfl
@[simp] theorem send_tested (s : State) (src dst chan : Nat) (b : Payload) : (s.send src dst chan b).tested = s.tested := rfl
@[simp] theorem send_cur (s : State) (src dst chan : Nat) (b : Payload) : (s.send src dst chan b).cur = s.cur := rfl
@[simp] theorem send_clock (s : State) (src dst chan : Nat) (b : Payload) : (s.send src dst chan b).clock = s.clock := rfl
@[simp] theorem send_outbox (s : State) (src dst chan : Nat) (b : Payload) : (s.send src dst chan b).outbox = s.outbox := rfl
@[simp] theorem send_mem (s : State) (src dst chan : Nat) (b : Payload) : (s.send src dst chan b).mem = s.mem := rfl
@[simp] theorem send_full (s : State) (src dst chan : Nat) (b : Payload) : (s.send src dst chan b).full = s.full := rfl
@[simp] theorem send_bad (s : State) (src dst chan : Nat) (b : Payload) : (s.send src dst chan b).bad = s.bad := rfl
@[simp] theorem send_threads (s : State) (src dst chan : Nat) (b : Payload) : (s.send src dst chan b).threads = s.threads := rfl
@[simp] theorem send_cores (s : State) (src dst chan : Nat) (b : Payload) : (s.send src dst chan b).cores = s.cores := rfl
@[simp] theorem send_clusters (s : State) (src dst chan : Nat) (b : Payload) : (s.send src dst chan b).clusters = s.clusters := rfl
@[simp] theorem send_engines (s : State) (src dst chan : Nat) (b : Payload) : (s.send src dst chan b).engines = s.engines := rfl
@[simp] theorem send_ctxs (s : State) (src dst chan : Nat) (b : Payload) : (s.send src dst chan b).ctxs = s.ctxs := rfl
@[simp] theorem send_pkgs (s : State) (src dst chan : Nat) (b : Payload) : (s.send src dst chan b).pkgs = s.pkgs := rfl
@[simp] theorem send_banks (s : State) (src dst chan : Nat) (b : Payload) : (s.send src dst chan b).banks = s.banks := rfl
@[simp] theorem send_ticks (s : State) (src dst chan : Nat) (b : Payload) : (s.send src dst chan b).ticks = s.ticks := rfl
@[simp] theorem send_tsc (s : State) (src dst chan : Nat) (b : Payload) : (s.send src dst chan b).tsc = s.tsc := rfl
@[simp] theorem send_fab (s : State) (src dst chan : Nat) (b : Payload) : (s.send src dst chan b).fab = s.fab := rfl
@[simp] theorem hear_agenda (s : State) (p n : Nat) : (s.hear p n).agenda = s.agenda := rfl
@[simp] theorem hear_turn (s : State) (p n : Nat) : (s.hear p n).turn = s.turn := rfl
@[simp] theorem hear_tested (s : State) (p n : Nat) : (s.hear p n).tested = s.tested := rfl
@[simp] theorem hear_cur (s : State) (p n : Nat) : (s.hear p n).cur = s.cur := rfl
@[simp] theorem hear_clock (s : State) (p n : Nat) : (s.hear p n).clock = s.clock := rfl
@[simp] theorem hear_outbox (s : State) (p n : Nat) : (s.hear p n).outbox = s.outbox := rfl
@[simp] theorem hear_mem (s : State) (p n : Nat) : (s.hear p n).mem = s.mem := rfl
@[simp] theorem hear_full (s : State) (p n : Nat) : (s.hear p n).full = s.full := rfl
@[simp] theorem hear_bad (s : State) (p n : Nat) : (s.hear p n).bad = s.bad := rfl
@[simp] theorem hear_threads (s : State) (p n : Nat) : (s.hear p n).threads = s.threads := rfl
@[simp] theorem hear_cores (s : State) (p n : Nat) : (s.hear p n).cores = s.cores := rfl
@[simp] theorem hear_clusters (s : State) (p n : Nat) : (s.hear p n).clusters = s.clusters := rfl
@[simp] theorem hear_engines (s : State) (p n : Nat) : (s.hear p n).engines = s.engines := rfl
@[simp] theorem hear_ctxs (s : State) (p n : Nat) : (s.hear p n).ctxs = s.ctxs := rfl
@[simp] theorem hear_pkgs (s : State) (p n : Nat) : (s.hear p n).pkgs = s.pkgs := rfl
@[simp] theorem hear_banks (s : State) (p n : Nat) : (s.hear p n).banks = s.banks := rfl
@[simp] theorem hear_ticks (s : State) (p n : Nat) : (s.hear p n).ticks = s.ticks := rfl
@[simp] theorem hear_net (s : State) (p n : Nat) : (s.hear p n).net = s.net := rfl
@[simp] theorem hear_fab (s : State) (p n : Nat) : (s.hear p n).fab = s.fab := rfl
@[simp] theorem setFull_agenda (s : State) (la : Nat) (v : Bool) : (s.setFull la v).agenda = s.agenda := rfl
@[simp] theorem setFull_turn (s : State) (la : Nat) (v : Bool) : (s.setFull la v).turn = s.turn := rfl
@[simp] theorem setFull_tested (s : State) (la : Nat) (v : Bool) : (s.setFull la v).tested = s.tested := rfl
@[simp] theorem setFull_cur (s : State) (la : Nat) (v : Bool) : (s.setFull la v).cur = s.cur := rfl
@[simp] theorem setFull_clock (s : State) (la : Nat) (v : Bool) : (s.setFull la v).clock = s.clock := rfl
@[simp] theorem setFull_outbox (s : State) (la : Nat) (v : Bool) : (s.setFull la v).outbox = s.outbox := rfl
@[simp] theorem setFull_mem (s : State) (la : Nat) (v : Bool) : (s.setFull la v).mem = s.mem := rfl
@[simp] theorem setFull_bad (s : State) (la : Nat) (v : Bool) : (s.setFull la v).bad = s.bad := rfl
@[simp] theorem setFull_threads (s : State) (la : Nat) (v : Bool) : (s.setFull la v).threads = s.threads := rfl
@[simp] theorem setFull_cores (s : State) (la : Nat) (v : Bool) : (s.setFull la v).cores = s.cores := rfl
@[simp] theorem setFull_clusters (s : State) (la : Nat) (v : Bool) : (s.setFull la v).clusters = s.clusters := rfl
@[simp] theorem setFull_engines (s : State) (la : Nat) (v : Bool) : (s.setFull la v).engines = s.engines := rfl
@[simp] theorem setFull_ctxs (s : State) (la : Nat) (v : Bool) : (s.setFull la v).ctxs = s.ctxs := rfl
@[simp] theorem setFull_pkgs (s : State) (la : Nat) (v : Bool) : (s.setFull la v).pkgs = s.pkgs := rfl
@[simp] theorem setFull_banks (s : State) (la : Nat) (v : Bool) : (s.setFull la v).banks = s.banks := rfl
@[simp] theorem setFull_ticks (s : State) (la : Nat) (v : Bool) : (s.setFull la v).ticks = s.ticks := rfl
@[simp] theorem setFull_tsc (s : State) (la : Nat) (v : Bool) : (s.setFull la v).tsc = s.tsc := rfl
@[simp] theorem setFull_net (s : State) (la : Nat) (v : Bool) : (s.setFull la v).net = s.net := rfl
@[simp] theorem setFull_fab (s : State) (la : Nat) (v : Bool) : (s.setFull la v).fab = s.fab := rfl
@[simp] theorem store_agenda (s : State) (k n v : Nat) : (s.store k n v).agenda = s.agenda := rfl
@[simp] theorem store_turn (s : State) (k n v : Nat) : (s.store k n v).turn = s.turn := rfl
@[simp] theorem store_tested (s : State) (k n v : Nat) : (s.store k n v).tested = s.tested := rfl
@[simp] theorem store_cur (s : State) (k n v : Nat) : (s.store k n v).cur = s.cur := rfl
@[simp] theorem store_clock (s : State) (k n v : Nat) : (s.store k n v).clock = s.clock := rfl
@[simp] theorem store_outbox (s : State) (k n v : Nat) : (s.store k n v).outbox = s.outbox := rfl
@[simp] theorem store_mem (s : State) (k n v : Nat) : (s.store k n v).mem = s.mem.write k n v := rfl
@[simp] theorem store_full (s : State) (k n v : Nat) : (s.store k n v).full = s.full := rfl
@[simp] theorem store_threads (s : State) (k n v : Nat) : (s.store k n v).threads = s.threads := rfl
@[simp] theorem store_cores (s : State) (k n v : Nat) : (s.store k n v).cores = s.cores := rfl
@[simp] theorem store_clusters (s : State) (k n v : Nat) : (s.store k n v).clusters = s.clusters := rfl
@[simp] theorem store_engines (s : State) (k n v : Nat) : (s.store k n v).engines = s.engines := rfl
@[simp] theorem store_ctxs (s : State) (k n v : Nat) : (s.store k n v).ctxs = s.ctxs := rfl
@[simp] theorem store_pkgs (s : State) (k n v : Nat) : (s.store k n v).pkgs = s.pkgs := rfl
@[simp] theorem store_banks (s : State) (k n v : Nat) : (s.store k n v).banks = s.banks := rfl
@[simp] theorem store_ticks (s : State) (k n v : Nat) : (s.store k n v).ticks = s.ticks := rfl
@[simp] theorem store_tsc (s : State) (k n v : Nat) : (s.store k n v).tsc = s.tsc := rfl
@[simp] theorem store_net (s : State) (k n v : Nat) : (s.store k n v).net = s.net := rfl
@[simp] theorem store_fab (s : State) (k n v : Nat) : (s.store k n v).fab = s.fab := rfl
@[simp] theorem storeBytes_agenda (s : State) (k : Nat) (l : List Byte) : (s.storeBytes k l).agenda = s.agenda := rfl
@[simp] theorem storeBytes_turn (s : State) (k : Nat) (l : List Byte) : (s.storeBytes k l).turn = s.turn := rfl
@[simp] theorem storeBytes_tested (s : State) (k : Nat) (l : List Byte) : (s.storeBytes k l).tested = s.tested := rfl
@[simp] theorem storeBytes_cur (s : State) (k : Nat) (l : List Byte) : (s.storeBytes k l).cur = s.cur := rfl
@[simp] theorem storeBytes_clock (s : State) (k : Nat) (l : List Byte) : (s.storeBytes k l).clock = s.clock := rfl
@[simp] theorem storeBytes_outbox (s : State) (k : Nat) (l : List Byte) : (s.storeBytes k l).outbox = s.outbox := rfl
@[simp] theorem storeBytes_mem (s : State) (k : Nat) (l : List Byte) : (s.storeBytes k l).mem = s.mem.writeBytes k l := rfl
@[simp] theorem storeBytes_full (s : State) (k : Nat) (l : List Byte) : (s.storeBytes k l).full = s.full := rfl
@[simp] theorem storeBytes_threads (s : State) (k : Nat) (l : List Byte) : (s.storeBytes k l).threads = s.threads := rfl
@[simp] theorem storeBytes_cores (s : State) (k : Nat) (l : List Byte) : (s.storeBytes k l).cores = s.cores := rfl
@[simp] theorem storeBytes_clusters (s : State) (k : Nat) (l : List Byte) : (s.storeBytes k l).clusters = s.clusters := rfl
@[simp] theorem storeBytes_engines (s : State) (k : Nat) (l : List Byte) : (s.storeBytes k l).engines = s.engines := rfl
@[simp] theorem storeBytes_ctxs (s : State) (k : Nat) (l : List Byte) : (s.storeBytes k l).ctxs = s.ctxs := rfl
@[simp] theorem storeBytes_pkgs (s : State) (k : Nat) (l : List Byte) : (s.storeBytes k l).pkgs = s.pkgs := rfl
@[simp] theorem storeBytes_banks (s : State) (k : Nat) (l : List Byte) : (s.storeBytes k l).banks = s.banks := rfl
@[simp] theorem storeBytes_ticks (s : State) (k : Nat) (l : List Byte) : (s.storeBytes k l).ticks = s.ticks := rfl
@[simp] theorem storeBytes_tsc (s : State) (k : Nat) (l : List Byte) : (s.storeBytes k l).tsc = s.tsc := rfl
@[simp] theorem storeBytes_net (s : State) (k : Nat) (l : List Byte) : (s.storeBytes k l).net = s.net := rfl
@[simp] theorem storeBytes_fab (s : State) (k : Nat) (l : List Byte) : (s.storeBytes k l).fab = s.fab := rfl
@[simp] theorem retire_agenda (s : State) (tid : Nat) (t : Thread) : (s.retire tid t).agenda = s.agenda := rfl
@[simp] theorem retire_turn (s : State) (tid : Nat) (t : Thread) : (s.retire tid t).turn = s.turn := rfl
@[simp] theorem retire_tested (s : State) (tid : Nat) (t : Thread) : (s.retire tid t).tested = s.tested := rfl
@[simp] theorem retire_cur (s : State) (tid : Nat) (t : Thread) : (s.retire tid t).cur = s.cur := rfl
@[simp] theorem retire_clock (s : State) (tid : Nat) (t : Thread) : (s.retire tid t).clock = s.clock := rfl
@[simp] theorem retire_outbox (s : State) (tid : Nat) (t : Thread) : (s.retire tid t).outbox = s.outbox := rfl
@[simp] theorem retire_mem (s : State) (tid : Nat) (t : Thread) : (s.retire tid t).mem = s.mem := rfl
@[simp] theorem retire_full (s : State) (tid : Nat) (t : Thread) : (s.retire tid t).full = s.full := rfl
@[simp] theorem retire_bad (s : State) (tid : Nat) (t : Thread) : (s.retire tid t).bad = s.bad := rfl
@[simp] theorem retire_threads (s : State) (tid : Nat) (t : Thread) : (s.retire tid t).threads = s.threads.put tid t.past := rfl
@[simp] theorem retire_cores (s : State) (tid : Nat) (t : Thread) : (s.retire tid t).cores = s.cores := rfl
@[simp] theorem retire_clusters (s : State) (tid : Nat) (t : Thread) : (s.retire tid t).clusters = s.clusters := rfl
@[simp] theorem retire_engines (s : State) (tid : Nat) (t : Thread) : (s.retire tid t).engines = s.engines := rfl
@[simp] theorem retire_ctxs (s : State) (tid : Nat) (t : Thread) : (s.retire tid t).ctxs = s.ctxs := rfl
@[simp] theorem retire_pkgs (s : State) (tid : Nat) (t : Thread) : (s.retire tid t).pkgs = s.pkgs := rfl
@[simp] theorem retire_banks (s : State) (tid : Nat) (t : Thread) : (s.retire tid t).banks = s.banks := rfl
@[simp] theorem retire_ticks (s : State) (tid : Nat) (t : Thread) : (s.retire tid t).ticks = s.ticks := rfl
@[simp] theorem retire_tsc (s : State) (tid : Nat) (t : Thread) : (s.retire tid t).tsc = s.tsc := rfl
@[simp] theorem retire_net (s : State) (tid : Nat) (t : Thread) : (s.retire tid t).net = s.net := rfl
@[simp] theorem retire_fab (s : State) (tid : Nat) (t : Thread) : (s.retire tid t).fab = s.fab := rfl
@[simp] theorem wait_agenda (s : State) (tid : Nat) (t : Thread) (w : Wait) : (s.wait tid t w).agenda = s.agenda := rfl
@[simp] theorem wait_turn (s : State) (tid : Nat) (t : Thread) (w : Wait) : (s.wait tid t w).turn = s.turn := rfl
@[simp] theorem wait_tested (s : State) (tid : Nat) (t : Thread) (w : Wait) : (s.wait tid t w).tested = s.tested := rfl
@[simp] theorem wait_cur (s : State) (tid : Nat) (t : Thread) (w : Wait) : (s.wait tid t w).cur = s.cur := rfl
@[simp] theorem wait_clock (s : State) (tid : Nat) (t : Thread) (w : Wait) : (s.wait tid t w).clock = s.clock := rfl
@[simp] theorem wait_outbox (s : State) (tid : Nat) (t : Thread) (w : Wait) : (s.wait tid t w).outbox = s.outbox := rfl
@[simp] theorem wait_mem (s : State) (tid : Nat) (t : Thread) (w : Wait) : (s.wait tid t w).mem = s.mem := rfl
@[simp] theorem wait_full (s : State) (tid : Nat) (t : Thread) (w : Wait) : (s.wait tid t w).full = s.full := rfl
@[simp] theorem wait_bad (s : State) (tid : Nat) (t : Thread) (w : Wait) : (s.wait tid t w).bad = s.bad := rfl
@[simp] theorem wait_cores (s : State) (tid : Nat) (t : Thread) (w : Wait) : (s.wait tid t w).cores = s.cores := rfl
@[simp] theorem wait_clusters (s : State) (tid : Nat) (t : Thread) (w : Wait) : (s.wait tid t w).clusters = s.clusters := rfl
@[simp] theorem wait_engines (s : State) (tid : Nat) (t : Thread) (w : Wait) : (s.wait tid t w).engines = s.engines := rfl
@[simp] theorem wait_ctxs (s : State) (tid : Nat) (t : Thread) (w : Wait) : (s.wait tid t w).ctxs = s.ctxs := rfl
@[simp] theorem wait_pkgs (s : State) (tid : Nat) (t : Thread) (w : Wait) : (s.wait tid t w).pkgs = s.pkgs := rfl
@[simp] theorem wait_banks (s : State) (tid : Nat) (t : Thread) (w : Wait) : (s.wait tid t w).banks = s.banks := rfl
@[simp] theorem wait_ticks (s : State) (tid : Nat) (t : Thread) (w : Wait) : (s.wait tid t w).ticks = s.ticks := rfl
@[simp] theorem wait_tsc (s : State) (tid : Nat) (t : Thread) (w : Wait) : (s.wait tid t w).tsc = s.tsc := rfl
@[simp] theorem wait_net (s : State) (tid : Nat) (t : Thread) (w : Wait) : (s.wait tid t w).net = s.net := rfl
@[simp] theorem wait_fab (s : State) (tid : Nat) (t : Thread) (w : Wait) : (s.wait tid t w).fab = s.fab := rfl

/-! The parts of State by number. -/

@[simp] theorem thread_setThread (s : State) (tid : Nat) (t : Thread) : (s.setThread tid t).thread tid = some t := by
  simp [State.thread]
theorem thread_setThread_ne (s : State) {tid j : Nat} (t : Thread) (h : j ≠ tid) : (s.setThread tid t).thread j = s.thread j := by
  simp [State.thread, find?_put_ne _ _ h]
@[simp] theorem thread_retire (s : State) (tid : Nat) (t : Thread) : (s.retire tid t).thread tid = some t.past := by
  simp [State.thread]
theorem thread_retire_ne (s : State) {tid j : Nat} (t : Thread) (h : j ≠ tid) : (s.retire tid t).thread j = s.thread j := by
  simp [State.thread, find?_put_ne _ _ h]
@[simp] theorem core_modCore (s : State) (c : Nat) (f : Core → Core) : (s.modCore c f).core c = f (s.core c) := by
  simp [State.core]
theorem core_modCore_ne (s : State) {c j : Nat} (f : Core → Core) (h : j ≠ c) : (s.modCore c f).core j = s.core j := by
  simp [State.core, at_put_ne _ _ _ h]
@[simp] theorem cluster_modCluster (s : State) (c : Nat) (f : Cluster → Cluster) :
    (s.modCluster c f).cluster c = f (s.cluster c) := by simp [State.cluster]
@[simp] theorem engine_modEngine (s : State) (e : Nat) (f : Engine → Engine) :
    (s.modEngine e f).engine e = f (s.engine e) := by simp [State.engine]
@[simp] theorem ctx_modCtx (s : State) (cx : Nat) (f : Context → Context) : (s.modCtx cx f).ctx cx = f (s.ctx cx) := by
  simp [State.ctx]
theorem ctx_modCtx_ne (s : State) {cx j : Nat} (f : Context → Context) (h : j ≠ cx) : (s.modCtx cx f).ctx j = s.ctx j := by
  simp [State.ctx, at_put_ne _ _ _ h]
@[simp] theorem pkg_modPkg (s : State) (p : Nat) (f : Package → Package) : (s.modPkg p f).pkg p = f (s.pkg p) := by
  simp only [State.pkg, modPkg_pkgs, at_put_same]
theorem pkg_modPkg_ne (s : State) {p j : Nat} (f : Package → Package) (h : j ≠ p) : (s.modPkg p f).pkg j = s.pkg j := by
  simp only [State.pkg, modPkg_pkgs, at_put_ne _ _ _ h]

end Sys2Proof.Machine
end

