-- ==== Sys2Proof/Laws/Ops.lean ====
section
/-! SUPPORT. What the shared operations over registers, ports, traps, the order log and the page table do to memory, and what
each can come to: one law for each, which a proof cites instead of the operation's definition. -/

namespace Sys2Proof.Machine

/-! Memory that stays as it is. -/

@[simp] theorem modThread_mem (s : State) (tid : Nat) (f : Thread → Thread) : (s.modThread tid f).mem = s.mem := by
  unfold State.modThread; split <;> rfl

@[simp] theorem append_mem (s : State) (cx die : Nat) (r : Rec) : (s.append cx die r).mem = s.mem := rfl

@[simp] theorem traceHard_mem (s : State) (cx die : Nat) (r : Rec) : (s.traceHard cx die r).mem = s.mem := by
  unfold State.traceHard; split <;> rfl

/-- A soft trace record leaves the state, says it to the host, or puts it on its way. -/
theorem traceSoft_cases {s s' : State} {cx die bit : Nat} {r : Rec} (h : s.traceSoft cx die bit r = some s') :
    s' = s ∨ s' = s.traceHost (cx / 4) r ∨ s' = s.append cx die r := by
  unfold State.traceSoft at h
  dsimp only at h
  split at h
  · exact .inl (Option.some.inj h).symm
  split at h
  · exact .inr (.inl (Option.some.inj h).symm)
  split at h
  · cases h
  · exact .inr (.inr (Option.some.inj h).symm)

theorem traceSoft_mem {s s' : State} {cx die bit : Nat} {r : Rec} (h : s.traceSoft cx die bit r = some s') :
    s'.mem = s.mem ∧ s'.threads = s.threads ∧ s'.cores = s.cores := by
  rcases traceSoft_cases h with rfl | rfl | rfl <;> exact ⟨rfl, rfl, rfl⟩

@[simp] theorem passResumes_mem (cx obj n : Nat) (s : State) : (State.passResumes cx obj n s).mem = s.mem := by
  induction n generalizing s with
  | zero => rfl
  | succ n ih =>
    simp only [State.passResumes]
    split
    · split
      · rw [ih]; rfl
      · rfl
    · rfl

@[simp] theorem passResumes_threads (cx obj n : Nat) (s : State) : (State.passResumes cx obj n s).threads = s.threads := by
  induction n generalizing s with
  | zero => rfl
  | succ n ih =>
    simp only [State.passResumes]
    split
    · split
      · rw [ih]; rfl
      · rfl
    · rfl

@[simp] theorem nextSeq_mem (s : State) (cx obj d i : Nat) : (s.nextSeq cx obj d i).mem = s.mem := by
  simp [State.nextSeq]

@[simp] theorem nextSeq_threads (s : State) (cx obj d i : Nat) : (s.nextSeq cx obj d i).threads = s.threads := by
  simp [State.nextSeq]

/-- A gate that opens leaves memory and the threads; outside a recording and a replay it leaves the state. -/
theorem logGate_go {s s' : State} {mode : BitVec 2} {passed : Bool} {cx die place src kind obj pc out : Nat} {o : Option Nat}
    (h : s.logGate mode passed cx die place src kind obj pc out = .go s' o) :
    s'.mem = s.mem ∧ s'.threads = s.threads ∧ (mode ≠ 1 → mode ≠ 2 → s' = s ∧ o = none) := by
  unfold State.logGate at h
  dsimp only at h
  split at h
  · rename_i h1
    split at h
    · cases h
    · cases h; exact ⟨rfl, rfl, fun h2 => absurd h1 h2⟩
  split at h
  · rename_i h1
    split at h
    · cases h
    split at h
    · cases h
    split at h
    · cases h
    split at h
    · cases h
    · cases h; exact ⟨nextSeq_mem .., nextSeq_threads .., fun _ h2 => absurd h1 h2⟩
  · cases h; exact ⟨rfl, rfl, fun _ _ => ⟨rfl, rfl⟩⟩

/-- Outside a recording and a replay every gate is open. -/
theorem logGate_off {s : State} {mode : BitVec 2} {passed : Bool} {cx die place src kind obj pc out : Nat} (h1 : mode ≠ 1) (h2 : mode ≠ 2) :
    s.logGate mode passed cx die place src kind obj pc out = .go s none := by
  simp only [State.logGate, h1, h2, if_false]

@[simp] theorem stopThread_mem (s : State) (tid : Nat) (t : Thread) (d : Nat) : (s.stopThread tid t d).mem = s.mem := by
  simp [State.stopThread]

@[simp] theorem trapAt_mem (s : State) (tid : Nat) (t : Thread) (epc : Word) (x : Trap) : (s.trapAt tid t epc x).mem = s.mem := by
  simp only [State.trapAt]
  split
  · simp
  · split
    · rfl
    · rename_i h; exact (traceSoft_mem h).1

@[simp] theorem trap_mem (s : State) (tid : Nat) (t : Thread) (cause : Nat) (ebad : Word) :
    (s.trap tid t cause ebad).mem = s.mem := trapAt_mem ..

@[simp] theorem trapReturn_mem (s : State) (tid : Nat) (t : Thread) : (s.trapReturn tid t).mem = s.mem := rfl

@[simp] theorem diverge_mem (s : State) (tid : Nat) (t : Thread) (obj r n : Nat) : (s.diverge tid t obj r n).mem = s.mem := by
  simp [State.diverge]

@[simp] theorem gateWait_mem (s : State) (tid : Nat) (t : Thread) (h : HeldWhy) (obj : Nat) : (s.gateWait tid t h obj).mem = s.mem := rfl

@[simp] theorem noteReplay_mem (s : State) (tid obj : Nat) : (s.noteReplay tid obj).mem = s.mem := modThread_mem ..

@[simp] theorem unitWaits_mem (s : State) (cx place src obj : Nat) : (s.unitWaits cx place src obj).mem = s.mem := rfl

@[simp] theorem unitGoes_mem (s : State) (cx src obj : Nat) : (s.unitGoes cx src obj).mem = s.mem := rfl

@[simp] theorem unitDiverges_mem (s : State) (cx die place src obj r n : Nat) :
    (s.unitDiverges cx die place src obj r n).mem = s.mem := by
  simp only [State.unitDiverges]
  split
  · split <;> simp
  · simp

@[simp] theorem draw_mem (s : State) (tid cx : Nat) : (s.draw tid cx).2.mem = s.mem := rfl

@[simp] theorem roundTo_mem (s : State) (tid cx : Nat) (f : Fmt) (m : RMode) (sat : Bool) (x : Ex) :
    (s.roundTo tid cx f m sat x).2.mem = s.mem := by
  unfold State.roundTo; split <;> rfl

@[simp] theorem writeBack_mem (s : State) (cl : Nat) (l : List TlbEntry) : (s.writeBack cl l).mem = s.mem := rfl

@[simp] theorem tlbFill_mem (s : State) (cl : Nat) (e : TlbEntry) : (s.tlbFill cl e).mem = s.mem := rfl

@[simp] theorem tlbDrop_mem (s : State) (pkg : Nat) (f : TlbEntry → Bool) : (s.tlbDrop pkg f).mem = s.mem := by
  unfold State.tlbDrop
  generalize s.clusters = l
  induction l generalizing s with
  | nil => rfl
  | cons e r ih =>
    simp only [List.foldl_cons]
    rw [ih]
    split
    · split <;> simp
    · rfl

@[simp] theorem translate_mem (s : State) (c la : Nat) : (s.translate c la).2.mem = s.mem := by
  simp only [State.translate]
  split
  · rfl
  · split <;> rfl
  · split <;> rfl

@[simp] theorem askWalk_mem (s : State) (cl off : Nat) (who : Waiter) : (s.askWalk cl off who).mem = s.mem := rfl

@[simp] theorem dropNotes_mem (s : State) (who : Waiter) : (s.dropNotes who).mem = s.mem := rfl

@[simp] theorem dropNotes_threads (s : State) (who : Waiter) : (s.dropNotes who).threads = s.threads := rfl

@[simp] theorem portPlaceOf_mem (s : State) (who : Waiter) (cl off : Nat) : (s.portPlaceOf who cl off).2.mem = s.mem := by
  unfold State.portPlaceOf
  split
  · rfl
  · split
    · rfl
    · split <;> rfl

/-- A unit's access waits for a page's walk, or is made, with what its walks told it forgotten. -/
theorem withPages_cases (s : State) (who : Waiter) (cl : Nat) (offs : List Nat) (k : State → State) :
    (∃ o, s.portMiss who cl offs = some o ∧ s.withPages who cl offs k = s.askWalk cl o who) ∨
    (s.portMiss who cl offs = none ∧ s.withPages who cl offs k = (k s).dropNotes who) := by
  unfold State.withPages
  split
  · exact .inl ⟨_, ‹_›, rfl⟩
  · exact .inr ⟨‹_›, rfl⟩

/-- An access to a thread's record: its context is not resident, the record's page is walked for, it has no entry, or the access is made
at the record's place. -/
theorem atRecord_cases (s : State) (tid cx : Nat) (k : Loc → State → State) :
    (s.resid cx (coreOf tid) = none ∧ s.atRecord tid cx k = s) ∨
    ∃ r, s.resid cx (coreOf tid) = some r ∧
      let cl := clusterOf (coreOf tid)
      let off := canonLa (corePkg (coreOf tid)) (r.savebase + 512 * slotOf tid)
      (∃ o, s.portMiss (.slot tid) cl [off] = some o ∧ s.atRecord tid cx k = s.askWalk cl o (.slot tid)) ∨
      (s.portMiss (.slot tid) cl [off] = none ∧
        ((∃ z, s.portPlaceOf (.slot tid) cl off = (none, z) ∧ s.atRecord tid cx k = s.dropNotes (.slot tid)) ∨
          ∃ l z, s.portPlaceOf (.slot tid) cl off = (some l, z) ∧
            s.atRecord tid cx k = (k l (z.heardAt (coreOf tid) l)).dropNotes (.slot tid))) := by
  unfold State.atRecord
  dsimp only
  rcases hr : s.resid cx (coreOf tid) with _ | r
  · exact .inl ⟨rfl, rfl⟩
  · refine .inr ⟨r, rfl, ?_⟩
    rcases withPages_cases s (.slot tid) (clusterOf (coreOf tid)) [canonLa (corePkg (coreOf tid)) (r.savebase + 512 * slotOf tid)] (fun s =>
      match s.portPlaceOf (.slot tid) (clusterOf (coreOf tid)) (canonLa (corePkg (coreOf tid)) (r.savebase + 512 * slotOf tid)) with
      | (none, _) => s
      | (some l, s) => k l (s.heardAt (coreOf tid) l)) with ⟨o, h, e⟩ | ⟨h, e⟩
    · exact .inl ⟨o, h, e⟩
    · refine .inr ⟨h, ?_⟩
      rcases hp : s.portPlaceOf (.slot tid) (clusterOf (coreOf tid)) (canonLa (corePkg (coreOf tid)) (r.savebase + 512 * slotOf tid)) with ⟨_ | l, z⟩
      · exact .inl ⟨z, rfl, e.trans (by simp only [hp])⟩
      · exact .inr ⟨l, z, rfl, e.trans (by simp only [hp])⟩

/-! What an operation with a continuation can come to. -/

/-- A wait for a thread's relaxed accesses, or what follows. -/
theorem drained_cases (s : State) (tid : Nat) (t : Thread) (k : State) :
    (t.relaxed = [] ∧ s.drained tid t k = k) ∨ (t.relaxed ≠ [] ∧ s.drained tid t k = s.wait tid t (.mem { kind := .drain })) := by
  unfold State.drained
  cases t.relaxed <;> simp

@[simp] theorem ship_mem (s : State) (tid : Nat) (t : Thread) (target : Nat) (ebad : Word) (past : Bool) :
    (s.ship tid t target ebad past).mem = s.mem := by
  unfold State.ship
  rcases drained_cases s tid t (((s.vacate tid).modCore (coreOf tid) fun k =>
    { k with reserved := NatSet.insert k.reserved (slotOf tid) }).send (coreOf tid) target 2
      (.migrate target { t with wait := .ready, mat := none, prefixed := false } tid ebad past)) with ⟨_, h⟩ | ⟨_, h⟩ <;>
    · simp only []; rw [h]; rfl

/-- A logged event performs in a state with the same memory and threads, waits at its gate, or diverges. -/
theorem logged_cases (s0 s : State) (tid : Nat) (t : Thread) (place kind obj out : Nat) (k : State → Option Nat → State) :
    (∃ s2 o, s.logGate (s.logMode tid t) false (cxOf (coreOf tid) t) (coreDie (coreOf tid)) place (srcOf tid) kind obj t.pc.toNat out = .go s2 o ∧
      s2.mem = s.mem ∧ s2.threads = s.threads ∧ s0.logged s tid t place kind obj out k = k s2 o) ∨
    (∃ h, s0.logged s tid t place kind obj out k = s0.gateWait tid t h obj) ∨
    (∃ r n, s0.logged s tid t place kind obj out k = s0.diverge tid t obj r n) := by
  unfold State.logged
  dsimp only
  split
  · rename_i s2 o h
    exact .inl ⟨s2, o, h, (logGate_go h).1, (logGate_go h).2.1, rfl⟩
  · exact .inr (.inl ⟨_, rfl⟩)
  · exact .inr (.inr ⟨_, _, rfl⟩)

/-- The frame of a word's instruction: no thread, the privilege trap, the step past a false predicate, the migration for an
absent extension, or the instruction's own effect. -/
theorem frame_cases (word : Word32) (len : Nat) (p : BitVec 3) (q : BitVec 1) (s : State) (body : Nat → Thread → State → State)
    (priv : Bool) (ext : Option Ext) :
    (s.thread s.cur = none ∧ frame word len p q s body priv ext = .fault .noThread) ∨
    ∃ u, s.thread s.cur = some u ∧
      (frame word len p q s body priv ext = .next (s.trap s.cur (s.turned u len) 2 (word.setWidth 64)) ∨
       frame word len p q s body priv ext = .next (s.retire s.cur (s.turned u len)) ∨
       (∃ x, ext = some x ∧ frame word len p q s body priv ext = .next (s.extMigrate s.cur (s.turned u len) x word)) ∨
       (u.holds p q = true ∧ frame word len p q s body priv ext = .next (body s.cur (s.turned u len) s))) := by
  unfold frame
  split
  · exact .inl ⟨‹_›, rfl⟩
  · rename_i u hu
    refine .inr ⟨u, hu, ?_⟩
    dsimp only
    split
    · exact .inl rfl
    split
    · exact .inr (.inl rfl)
    · rename_i hp
      have hp : u.holds p q = true := by simpa [holds_turned] using hp
      split
      · split
        · exact .inr (.inr (.inr ⟨hp, rfl⟩))
        · exact .inr (.inr (.inl ⟨_, rfl, rfl⟩))
      · exact .inr (.inr (.inr ⟨hp, rfl⟩))

/-- The operands of an instruction: an illegal port, a port that is claimed or not ready, or the operands read. -/
theorem operands_cases (s : State) (tid : Nat) (t : Thread) (word : Word32) (srcs dsts : List (BitVec 4))
    (k : List Word → State → State) :
    s.operands tid t word srcs dsts k = s.trap tid t 1 (word.setWidth 64) ∨
    s.operands tid t word srcs dsts k = s.wait tid t .sync ∨
    s.operands tid t word srcs dsts k = k (s.readRegs tid t srcs).1 (s.readRegs tid t srcs).2 := by
  unfold State.operands
  split
  · exact .inl rfl
  split
  · exact .inr (.inl rfl)
  split
  · exact .inr (.inl rfl)
  · exact .inr (.inr rfl)

/-! Memory's canonical form. -/

theorem store_safe {s : State} (k n v : Nat) (h : s.Safe) : (s.store k n v).Safe := write_wf _ _ _ h

theorem storeBytes_safe {s : State} (k : Nat) (l : List Byte) (h : s.Safe) : (s.storeBytes k l).Safe := writeBytes_wf _ _ h

/-- Whatever leaves memory alone leaves its form. -/
theorem safe_of_mem {s s' : State} (e : s'.mem = s.mem) (h : s.Safe) : s'.Safe := by rw [State.Safe, e]; exact h

theorem portRead_mem (s : State) (tid : Nat) (code : BitVec 4) : (s.portRead tid code).2.mem = s.mem := by
  simp only [State.portRead]
  split
  · rfl
  · split
    · simp only [modCore_mem]
      split <;> rfl
    · rfl

theorem readReg_mem (s : State) (tid : Nat) (t : Thread) (code : BitVec 4) : (s.readReg tid t code).2.mem = s.mem := by
  unfold State.readReg
  split
  · rfl
  · exact portRead_mem ..

/-- Reading the operands changes no byte of memory. -/
@[simp] theorem readRegs_mem (s : State) (tid : Nat) (t : Thread) (l : List (BitVec 4)) : (s.readRegs tid t l).2.mem = s.mem := by
  induction l generalizing s with
  | nil => rfl
  | cons c r ih => simp only [State.readRegs]; rw [ih, readReg_mem]

theorem reads_mem {s s1 : State} {t : Thread} {srcs dsts : List (BitVec 4)} {v : List Word} (r : s.Reads t srcs dsts v s1) :
    s1.mem = s.mem := by
  obtain ⟨_, _, _, _, _, h⟩ := r
  have := readRegs_mem s s.cur t srcs
  rw [h] at this; exact this

/-- Operands that name no port leave the state as it is. -/
theorem readRegs_plain {s : State} {tid : Nat} {t : Thread} {l : List (BitVec 4)} (h : ∀ c ∈ l, c.toNat < 12) :
    s.readRegs tid t l = (l.map t.reg, s) := by
  induction l with
  | nil => rfl
  | cons c r ih =>
    have h1 : s.readReg tid t c = (t.reg c, s) := by
      unfold State.readReg; rw [if_pos (h c (List.mem_cons_self ..))]
    simp only [State.readRegs, h1, ih fun x hx => h x (List.mem_cons_of_mem _ hx), List.map_cons]

/-- The operands of an instruction that names no port. -/
theorem reads_plain {s : State} {t : Thread} {srcs dsts : List (BitVec 4)} (h : ∀ c ∈ srcs ++ dsts, c.toNat < 12) :
    s.Reads t srcs dsts (srcs.map t.reg) s := by
  have hs : ∀ c ∈ srcs, c.toNat < 12 := fun c hc => h c (List.mem_append.2 (.inl hc))
  have hd : ∀ c ∈ dsts, c.toNat < 12 := fun c hc => h c (List.mem_append.2 (.inr hc))
  refine ⟨?_, ?_, ?_, ?_, ?_, readRegs_plain hs⟩
  · exact List.all_eq_true.2 fun c hc => by unfold State.portLegal; rw [if_pos (hs c hc)]
  · exact List.all_eq_true.2 fun c hc => by unfold State.portLegal; rw [if_pos (hd c hc)]
  · exact List.any_eq_false.2 fun c hc => by simp [Nat.not_le.2 (h c hc)]
  · exact List.all_eq_true.2 fun c hc => by unfold State.portReady; rw [if_pos (hs c hc)]
  · exact List.all_eq_true.2 fun c hc => by unfold State.portReady; rw [if_pos (hd c hc)]

theorem portWrite_safe {s : State} (tid : Nat) (code : BitVec 4) (v : Word) (h : s.Safe) : (s.portWrite tid code v).Safe := by
  simp only [State.portWrite]
  split
  · exact h
  · split
    · rename_i p _
      have h1 := store_safe (lsAddr (coreOf tid) p.tail) p.ew v.toNat h
      split <;> exact h1
    · exact h

theorem writeReg_safe {s : State} (tid : Nat) (t : Thread) (d : BitVec 4) (v : Word) (h : s.Safe) :
    (s.writeReg tid t d v).1.Safe := by
  unfold State.writeReg
  split
  · exact h
  · exact portWrite_safe _ _ _ h

/-- A result that goes to no port replaces its register and advances the pc. -/
theorem result_plain {s : State} {tid : Nat} {t : Thread} {d : BitVec 4} {v : Word} (h : d.toNat < 12) :
    s.result tid t d v = s.retire tid (t.setReg d v) := by
  simp only [State.result, State.writeReg, h, if_true]

theorem result_safe {s : State} (tid : Nat) (t : Thread) (d : BitVec 4) (v : Word) (h : s.Safe) : (s.result tid t d v).Safe :=
  safe_of_mem (retire_mem ..) (writeReg_safe _ _ _ _ h)

theorem finish_safe {s0 s : State} (tid : Nat) (t : Thread) (word : Word32) (d : BitVec 4) (v : Word) (h0 : s0.Safe) (h : s.Safe) :
    (s0.finish s tid t word d v).Safe := by
  unfold State.finish
  split
  · exact safe_of_mem (trap_mem ..) h0
  · exact result_safe _ _ _ _ h

theorem drained_safe {s : State} (tid : Nat) (t : Thread) {k : State} (h : s.Safe) (hk : k.Safe) : (s.drained tid t k).Safe := by
  rcases drained_cases s tid t k with ⟨_, e⟩ | ⟨_, e⟩ <;> rw [e]
  · exact hk
  · exact h

theorem logged_safe {s0 s : State} (tid : Nat) (t : Thread) (place kind obj out : Nat) {k : State → Option Nat → State}
    (h0 : s0.Safe) (hk : ∀ s2 o, s2.mem = s.mem → (k s2 o).Safe) : (s0.logged s tid t place kind obj out k).Safe := by
  rcases logged_cases s0 s tid t place kind obj out k with ⟨s2, o, _, e, _, h⟩ | ⟨_, h⟩ | ⟨_, _, h⟩ <;> rw [h]
  · exact hk s2 o e
  · exact h0
  · exact safe_of_mem (diverge_mem ..) h0

theorem operands_safe {s : State} (tid : Nat) (t : Thread) (word : Word32) (srcs dsts : List (BitVec 4))
    {k : List Word → State → State} (h : s.Safe) (hk : ∀ v s1, s1.mem = s.mem → (k v s1).Safe) :
    (s.operands tid t word srcs dsts k).Safe := by
  rcases operands_cases s tid t word srcs dsts k with e | e | e <;> rw [e]
  · exact safe_of_mem (trap_mem ..) h
  · exact h
  · exact hk _ _ (readRegs_mem ..)

@[simp] theorem extMigrate_mem (s : State) (tid : Nat) (t : Thread) (x : Ext) (word : Word32) :
    (s.extMigrate tid t x word).mem = s.mem := by
  simp only [State.extMigrate]
  split <;> simp

/-- A word's instruction keeps memory's form when its own effect does. -/
theorem frame_safe {word : Word32} {len : Nat} {p : BitVec 3} {q : BitVec 1} {s s' : State} {body : Nat → Thread → State → State}
    {priv : Bool} {ext : Option Ext} (h : s.Safe) (hb : ∀ u, s.thread s.cur = some u → (body s.cur (s.turned u len) s).Safe)
    (e : frame word len p q s body priv ext = .next s') : s'.Safe := by
  rcases frame_cases word len p q s body priv ext with ⟨_, h1⟩ | ⟨u, hu, h1 | h1 | ⟨x, _, h1⟩ | ⟨_, h1⟩⟩ <;> rw [h1] at e <;> cases e
  · exact safe_of_mem (trap_mem ..) h
  · exact h
  · exact safe_of_mem (extMigrate_mem ..) h
  · exact hb u hu

theorem compute_safe {word : Word32} {len : Nat} {p : BitVec 3} {q : BitVec 1} {d : BitVec 4} {srcs : List (BitVec 4)} {s s' : State}
    {f : Thread → List Word → Word} (h : s.Safe) (e : compute word len p q d srcs s f = .next s') : s'.Safe :=
  frame_safe h (fun _ _ => operands_safe _ _ _ _ _ h fun _ _ e1 => finish_safe _ _ _ _ _ h (safe_of_mem e1 h)) e

theorem effect_safe {word : Word32} {len : Nat} {p : BitVec 3} {q : BitVec 1} {srcs : List (BitVec 4)} {s s' : State}
    {f : Nat → Thread → List Word → State → State} {priv : Bool} {ext : Option Ext} (h : s.Safe)
    (hf : ∀ tid t v s1, s1.mem = s.mem → (f tid t v s1).Safe) (e : effect word len p q srcs s f priv ext = .next s') : s'.Safe :=
  frame_safe h (fun _ _ => operands_safe _ _ _ _ _ h fun v s1 e1 => hf _ _ v s1 e1) e

theorem act_safe {word : Word32} {len : Nat} {p : BitVec 3} {q : BitVec 1} {srcs dsts : List (BitVec 4)} {s s' : State}
    {f : Nat → Thread → State → List Word → State → State} {priv : Bool} {ext : Option Ext} (h : s.Safe)
    (hf : ∀ tid t v s1, s1.mem = s.mem → (f tid t s v s1).Safe) (e : act word len p q srcs dsts s f priv ext = .next s') : s'.Safe :=
  frame_safe h (fun _ _ => operands_safe _ _ _ _ _ h fun v s1 e1 => hf _ _ v s1 e1) e

end Sys2Proof.Machine
end

