-- ==== Sys2Proof/Tests/Slice0.lean ====
section
/-! SUPPORT. Tests: ill-formed terms that WellFormed refuses, words written out from the spec's encodings, single steps against the
spec's worked values, and for each obligation with hypotheses concrete states and operands that meet them. -/

namespace Sys2Proof
open Machine

section
set_option maxRecDepth 20000

/-! WellFormed refuses an ill-formed term for each of its checks. -/

theorem smoke_predicate : Instr.wf (.add 0 1 1 2 3) = false ∧ Instr.wf (.nop 0 1) = false ∧ Instr.wf (.add 1 1 1 2 3) = true := by decide

theorem smoke_destination : Instr.wf (.add 0 0 11 2 3) = false ∧ Instr.wf (.ldd 0 0 11 2 0) = false := by decide

theorem smoke_second_destination : Instr.wf (.mref 0 0 4 2 11) = false ∧ Instr.wf (.mref 0 0 4 2 5) = true := by decide

theorem smoke_compare_p0 : Instr.wf (.eq 0 0 0 0 1 2) = false ∧ Instr.wf (.pand 0 0 0 1 2) = false := by decide

theorem smoke_atomic_width : Instr.wf (.aadd 0 0 1 2 3 2) = false ∧ Instr.wf (.aadd 0 0 1 2 3 1) = true := by decide

theorem smoke_format : Instr.wf (.cvt 0 0 1 2 0 12 0) = false ∧ Instr.wf (.cvt 0 0 1 2 0 0 15) = false ∧
    Instr.wf (.cvt 0 0 1 2 0 11 3) = true := by decide

theorem smoke_system_registers : Instr.wf (.rdsr 0 0 1 0x0D) = false ∧ Instr.wf (.rdsr 0 0 1 0x89) = false ∧
    Instr.wf (.wrsr 0 0 1 0x07) = false ∧ Instr.wf (.wrsrVectorState 0 0 1 0x07) = false ∧ Instr.wf (.wrsrLogRing 0 0 1 0x84) = false ∧
    Instr.wf (.rdsr 0 0 1 0x88) = true := by decide

theorem smoke_fence : Instr.wf (.fence 0 0 6) = false ∧ Instr.wf (.fence 0 0 5) = true := by decide

theorem smoke_shape_ranges : Instr.wf (.vmrg 0 0 30 1 2) = false ∧ Instr.wf (.vmrg 0 0 29 31 2) = false ∧
    Instr.wf (.vmrg 0 0 29 30 31) = false ∧ Instr.wf (.vselk 0 0 30 1 2) = false ∧ Instr.wf (.vmrg 0 0 29 30 30) = true := by decide

theorem smoke_matrix_modes : Instr.wf (.mma 0 0 1 2 2 3 0) = false ∧ Instr.wf (.mma 0 0 1 2 3 3 4) = false ∧
    Instr.wf (.mms 0 0 1 2 7 3 0) = false ∧ Instr.wf (.mms 0 0 1 3 2 3 0) = false ∧ Instr.wf (.mmx 0 0 1 0 2 3 16) = false ∧
    Instr.wf (.mmg 0 0 1 0 2 3 4) = false ∧ Instr.wf (.mmg 0 0 1 0 2 3 36) = true := by decide

/-! Each instruction's word, from the opcode table's match value and field places, decodes to it. -/

theorem test_decode_int_1 :
    decodeTableWord 32 0x06E5B000 = some (.add 5 1 9 6 12) ∧
    decodeTableWord 32 0x06E5B001 = some (.sub 5 1 9 6 12) ∧
    decodeTableWord 32 0x06E5B002 = some (.and 5 1 9 6 12) ∧
    decodeTableWord 32 0x06E5B003 = some (.or 5 1 9 6 12) ∧
    decodeTableWord 32 0x06E5B004 = some (.xor 5 1 9 6 12) ∧
    decodeTableWord 32 0x06E5B005 = some (.andn 5 1 9 6 12) ∧
    decodeTableWord 32 0x06E5B006 = some (.orn 5 1 9 6 12) ∧
    decodeTableWord 32 0x06E5B007 = some (.sll 5 1 9 6 12) ∧
    decodeTableWord 32 0x06E5B008 = some (.srl 5 1 9 6 12) ∧
    decodeTableWord 32 0x06E5B009 = some (.sra 5 1 9 6 12) ∧
    decodeTableWord 32 0x06E5B00A = some (.rol 5 1 9 6 12) ∧
    decodeTableWord 32 0x06E5B00B = some (.ror 5 1 9 6 12) ∧
    decodeTableWord 32 0x06E5B00C = some (.mul 5 1 9 6 12) ∧
    decodeTableWord 32 0x06E5B00D = some (.mulh 5 1 9 6 12) ∧
    decodeTableWord 32 0x06E5B00E = some (.mulhu 5 1 9 6 12) ∧
    decodeTableWord 32 0x06E5B00F = some (.div 5 1 9 6 12) ∧
    decodeTableWord 32 0x06E5B010 = some (.divu 5 1 9 6 12) ∧
    decodeTableWord 32 0x06E5B011 = some (.rem 5 1 9 6 12) :=
  ⟨rfl, rfl, rfl, rfl, rfl, rfl, rfl, rfl, rfl, rfl, rfl, rfl, rfl, rfl, rfl, rfl, rfl, rfl⟩

theorem test_decode_int_2 :
    decodeTableWord 32 0x06E5B012 = some (.remu 5 1 9 6 12) ∧
    decodeTableWord 32 0x06E5B013 = some (.min 5 1 9 6 12) ∧
    decodeTableWord 32 0x06E5B014 = some (.max 5 1 9 6 12) ∧
    decodeTableWord 32 0x06E5B015 = some (.minu 5 1 9 6 12) ∧
    decodeTableWord 32 0x06E5B016 = some (.maxu 5 1 9 6 12) ∧
    decodeTableWord 32 0x06E58017 = some (.clz 5 1 9 6) ∧
    decodeTableWord 32 0x06E58018 = some (.ctz 5 1 9 6) ∧
    decodeTableWord 32 0x06E58019 = some (.popc 5 1 9 6) ∧
    decodeTableWord 32 0x06E5801A = some (.brev 5 1 9 6) ∧
    decodeTableWord 32 0x06E5801B = some (.sextb 5 1 9 6) ∧
    decodeTableWord 32 0x06E5801C = some (.sexth 5 1 9 6) ∧
    decodeTableWord 32 0x06E5801D = some (.sextw 5 1 9 6) ∧
    decodeTableWord 32 0x06E5801E = some (.zextb 5 1 9 6) ∧
    decodeTableWord 32 0x06E5801F = some (.zexth 5 1 9 6) ∧
    decodeTableWord 32 0x06E58020 = some (.zextw 5 1 9 6) ∧
    decodeTableWord 32 0x06E5B021 = some (.bfx 5 1 9 6 12) ∧
    decodeTableWord 32 0x06E5B022 = some (.bfi 5 1 9 6 12) :=
  ⟨rfl, rfl, rfl, rfl, rfl, rfl, rfl, rfl, rfl, rfl, rfl, rfl, rfl, rfl, rfl, rfl, rfl⟩

theorem test_decode_imm :
    decodeTableWord 32 0x0AE5BA5C = some (.addi 5 1 9 6 0x3A5C) ∧
    decodeTableWord 32 0x0EE5BA5C = some (.andi 5 1 9 6 0x3A5C) ∧
    decodeTableWord 32 0x12E5BA5C = some (.ori 5 1 9 6 0x3A5C) ∧
    decodeTableWord 32 0x16E5BA5C = some (.xori 5 1 9 6 0x3A5C) ∧
    decodeTableWord 32 0x1AE58025 = some (.slli 5 1 9 6 37) ∧
    decodeTableWord 32 0x1AE59025 = some (.srli 5 1 9 6 37) ∧
    decodeTableWord 32 0x1AE5A025 = some (.srai 5 1 9 6 37) ∧
    decodeTableWord 32 0x1EE43A5C = some (.li 5 1 9 0x3A5C) ∧
    decodeTableWord 32 0x22E43A5C = some (.lih 5 1 9 0x3A5C) :=
  ⟨rfl, rfl, rfl, rfl, rfl, rfl, rfl, rfl, rfl⟩

theorem test_decode_immi38 :
    decodeTableWord 64 (0xFCA6970F + 0x0AE5B00F * 2 ^ 32) = some (.addiI38 5 1 9 6 0x29A5C3F00F) ∧
    decodeTableWord 64 (0xFCA6970F + 0x0EE5B00F * 2 ^ 32) = some (.andiI38 5 1 9 6 0x29A5C3F00F) ∧
    decodeTableWord 64 (0xFCA6970F + 0x12E5B00F * 2 ^ 32) = some (.oriI38 5 1 9 6 0x29A5C3F00F) ∧
    decodeTableWord 64 (0xFCA6970F + 0x16E5B00F * 2 ^ 32) = some (.xoriI38 5 1 9 6 0x29A5C3F00F) ∧
    decodeTableWord 64 (0xFCA6970F + 0x1EE4300F * 2 ^ 32) = some (.liI38 5 1 9 0x29A5C3F00F) ∧
    decodeTableWord 64 (0xFCA6970F + 0x22E4300F * 2 ^ 32) = some (.lihI38 5 1 9 0x29A5C3F00F) :=
  ⟨rfl, rfl, rfl, rfl, rfl, rfl⟩

theorem test_decode_cmp :
    decodeTableWord 32 0x26F5B000 = some (.eq 5 1 6 1 6 12) ∧
    decodeTableWord 32 0x26F5B001 = some (.ne 5 1 6 1 6 12) ∧
    decodeTableWord 32 0x26F5B002 = some (.lt 5 1 6 1 6 12) ∧
    decodeTableWord 32 0x26F5B003 = some (.ge 5 1 6 1 6 12) ∧
    decodeTableWord 32 0x26F5B004 = some (.ltu 5 1 6 1 6 12) ∧
    decodeTableWord 32 0x26F5B005 = some (.geu 5 1 6 1 6 12) ∧
    decodeTableWord 32 0x26F5B006 = some (.feq 5 1 6 1 6 12) ∧
    decodeTableWord 32 0x26F5B007 = some (.fne 5 1 6 1 6 12) ∧
    decodeTableWord 32 0x26F5B008 = some (.flt 5 1 6 1 6 12) ∧
    decodeTableWord 32 0x26F5B009 = some (.fle 5 1 6 1 6 12) ∧
    decodeTableWord 32 0x26F5B00A = some (.funord 5 1 6 1 6 12) :=
  ⟨rfl, rfl, rfl, rfl, rfl, rfl, rfl, rfl, rfl, rfl, rfl⟩

theorem test_decode_cmpi :
    decodeTableWord 32 0x2AF5BA5C = some (.cmpeqi 5 1 6 1 6 0x3A5C) ∧
    decodeTableWord 32 0x2EF5BA5C = some (.cmplti 5 1 6 1 6 0x3A5C) ∧
    decodeTableWord 32 0x32F5BA5C = some (.cmpltui 5 1 6 1 6 0x3A5C) :=
  ⟨rfl, rfl, rfl⟩

theorem test_decode_cmpii38 :
    decodeTableWord 64 (0xFCA6970F + 0x2AF5B00F * 2 ^ 32) = some (.cmpeqiI38 5 1 6 1 6 0x29A5C3F00F) ∧
    decodeTableWord 64 (0xFCA6970F + 0x2EF5B00F * 2 ^ 32) = some (.cmpltiI38 5 1 6 1 6 0x29A5C3F00F) ∧
    decodeTableWord 64 (0xFCA6970F + 0x32F5B00F * 2 ^ 32) = some (.cmpltuiI38 5 1 6 1 6 0x29A5C3F00F) :=
  ⟨rfl, rfl, rfl⟩

theorem test_decode_pred :
    decodeTableWord 32 0x36D94C00 = some (.pand 5 1 6 5 3) ∧
    decodeTableWord 32 0x36D94C01 = some (.por 5 1 6 5 3) ∧
    decodeTableWord 32 0x36D94C02 = some (.pxor 5 1 6 5 3) ∧
    decodeTableWord 32 0x36D94C03 = some (.pandn 5 1 6 5 3) ∧
    decodeTableWord 32 0x36E40004 = some (.pget 5 1 9) ∧
    decodeTableWord 32 0x36C18005 = some (.pput 5 1 6) :=
  ⟨rfl, rfl, rfl, rfl, rfl, rfl⟩

theorem test_decode_jump :
    decodeTableWord 32 0x3AEABCDE = some (.br 5 1 0x2ABCDE) ∧
    decodeTableWord 32 0x3EEABCDE = some (.jal 5 1 0x2ABCDE) ∧
    decodeTableWord 32 0x42C18000 = some (.jr 5 1 6) ∧
    decodeTableWord 32 0x42E58001 = some (.jalr 5 1 9 6) :=
  ⟨rfl, rfl, rfl, rfl⟩

theorem test_decode_fp :
    decodeTableWord 32 0x46E5B200 = some (.fadd 5 1 9 6 12 2) ∧
    decodeTableWord 32 0x46E5B201 = some (.fsub 5 1 9 6 12 2) ∧
    decodeTableWord 32 0x46E5B202 = some (.fmul 5 1 9 6 12 2) ∧
    decodeTableWord 32 0x46E5B203 = some (.fdiv 5 1 9 6 12 2) ∧
    decodeTableWord 32 0x46E58204 = some (.fsqrt 5 1 9 6 2) ∧
    decodeTableWord 32 0x46E5B005 = some (.fmin 5 1 9 6 12) ∧
    decodeTableWord 32 0x46E5B006 = some (.fmax 5 1 9 6 12) ∧
    decodeTableWord 32 0x46E58007 = some (.fabs 5 1 9 6) ∧
    decodeTableWord 32 0x46E58008 = some (.fneg 5 1 9 6) ∧
    decodeTableWord 32 0x46E5B209 = some (.fmadd 5 1 9 6 12 2) ∧
    decodeTableWord 32 0x4AE582B4 = some (.cvt 5 1 9 6 2 11 4) :=
  ⟨rfl, rfl, rfl, rfl, rfl, rfl, rfl, rfl, rfl, rfl, rfl⟩

theorem test_decode_sysreg :
    decodeTableWord 32 0x4EE40087 = some (.rdsr 5 1 9 0x87) ∧
    decodeTableWord 32 0x92C18044 = some (.wrsr 5 1 6 68) ∧
    decodeTableWord 32 0x92C18006 = some (.wrsrVectorState 5 1 6 6) ∧
    decodeTableWord 32 0x92C18080 = some (.wrsrSegbase 5 1 6) ∧
    decodeTableWord 32 0x92C18040 = some (.wrsrRotmode 5 1 6) ∧
    decodeTableWord 32 0x92C18042 = some (.wrsrDonord 5 1 6) ∧
    decodeTableWord 32 0x92C18041 = some (.wrsrSlottab 5 1 6) ∧
    decodeTableWord 32 0x92C18045 = some (.wrsrAcct 5 1 6) ∧
    decodeTableWord 32 0x92C18083 = some (.wrsrLogRing 5 1 6 0x83) ∧
    decodeTableWord 32 0x92C18085 = some (.wrsrLogcons 5 1 6) ∧
    decodeTableWord 32 0x92C18086 = some (.wrsrReplay 5 1 6) :=
  ⟨rfl, rfl, rfl, rfl, rfl, rfl, rfl, rfl, rfl, rfl, rfl⟩

theorem test_decode_load :
    decodeTableWord 32 0x52E5BA5C = some (.ldb 5 1 9 6 0x3A5C) ∧
    decodeTableWord 32 0x56E5BA5C = some (.ldbu 5 1 9 6 0x3A5C) ∧
    decodeTableWord 32 0x5AE5BA5C = some (.ldh 5 1 9 6 0x3A5C) ∧
    decodeTableWord 32 0x5EE5BA5C = some (.ldhu 5 1 9 6 0x3A5C) ∧
    decodeTableWord 32 0x62E5BA5C = some (.ldw 5 1 9 6 0x3A5C) ∧
    decodeTableWord 32 0x66E5BA5C = some (.ldwu 5 1 9 6 0x3A5C) ∧
    decodeTableWord 32 0x6AE5BA5C = some (.ldd 5 1 9 6 0x3A5C) :=
  ⟨rfl, rfl, rfl, rfl, rfl, rfl, rfl⟩

theorem test_decode_loadi38 :
    decodeTableWord 64 (0xFCA6970F + 0x52E5B00F * 2 ^ 32) = some (.ldbI38 5 1 9 6 0x29A5C3F00F) ∧
    decodeTableWord 64 (0xFCA6970F + 0x56E5B00F * 2 ^ 32) = some (.ldbuI38 5 1 9 6 0x29A5C3F00F) ∧
    decodeTableWord 64 (0xFCA6970F + 0x5AE5B00F * 2 ^ 32) = some (.ldhI38 5 1 9 6 0x29A5C3F00F) ∧
    decodeTableWord 64 (0xFCA6970F + 0x5EE5B00F * 2 ^ 32) = some (.ldhuI38 5 1 9 6 0x29A5C3F00F) ∧
    decodeTableWord 64 (0xFCA6970F + 0x62E5B00F * 2 ^ 32) = some (.ldwI38 5 1 9 6 0x29A5C3F00F) ∧
    decodeTableWord 64 (0xFCA6970F + 0x66E5B00F * 2 ^ 32) = some (.ldwuI38 5 1 9 6 0x29A5C3F00F) ∧
    decodeTableWord 64 (0xFCA6970F + 0x6AE5B00F * 2 ^ 32) = some (.lddI38 5 1 9 6 0x29A5C3F00F) :=
  ⟨rfl, rfl, rfl, rfl, rfl, rfl, rfl⟩

theorem test_decode_loadrlx :
    decodeTableWord 64 (0xFD000000 + 0x52E5BA5C * 2 ^ 32) = some (.ldbRlx 5 1 9 6 0x3A5C) ∧
    decodeTableWord 64 (0xFD000000 + 0x56E5BA5C * 2 ^ 32) = some (.ldbuRlx 5 1 9 6 0x3A5C) ∧
    decodeTableWord 64 (0xFD000000 + 0x5AE5BA5C * 2 ^ 32) = some (.ldhRlx 5 1 9 6 0x3A5C) ∧
    decodeTableWord 64 (0xFD000000 + 0x5EE5BA5C * 2 ^ 32) = some (.ldhuRlx 5 1 9 6 0x3A5C) ∧
    decodeTableWord 64 (0xFD000000 + 0x62E5BA5C * 2 ^ 32) = some (.ldwRlx 5 1 9 6 0x3A5C) ∧
    decodeTableWord 64 (0xFD000000 + 0x66E5BA5C * 2 ^ 32) = some (.ldwuRlx 5 1 9 6 0x3A5C) ∧
    decodeTableWord 64 (0xFD000000 + 0x6AE5BA5C * 2 ^ 32) = some (.lddRlx 5 1 9 6 0x3A5C) :=
  ⟨rfl, rfl, rfl, rfl, rfl, rfl, rfl⟩

theorem test_decode_store :
    decodeTableWord 32 0x6EE5BA5C = some (.stb 5 1 9 6 0x3A5C) ∧
    decodeTableWord 32 0x72E5BA5C = some (.sth 5 1 9 6 0x3A5C) ∧
    decodeTableWord 32 0x76E5BA5C = some (.stw 5 1 9 6 0x3A5C) ∧
    decodeTableWord 32 0x7AE5BA5C = some (.std 5 1 9 6 0x3A5C) :=
  ⟨rfl, rfl, rfl, rfl⟩

theorem test_decode_storei38 :
    decodeTableWord 64 (0xFCA6970F + 0x6EE5B00F * 2 ^ 32) = some (.stbI38 5 1 9 6 0x29A5C3F00F) ∧
    decodeTableWord 64 (0xFCA6970F + 0x72E5B00F * 2 ^ 32) = some (.sthI38 5 1 9 6 0x29A5C3F00F) ∧
    decodeTableWord 64 (0xFCA6970F + 0x76E5B00F * 2 ^ 32) = some (.stwI38 5 1 9 6 0x29A5C3F00F) ∧
    decodeTableWord 64 (0xFCA6970F + 0x7AE5B00F * 2 ^ 32) = some (.stdI38 5 1 9 6 0x29A5C3F00F) :=
  ⟨rfl, rfl, rfl, rfl⟩

theorem test_decode_storerlx :
    decodeTableWord 64 (0xFD000000 + 0x6EE5BA5C * 2 ^ 32) = some (.stbRlx 5 1 9 6 0x3A5C) ∧
    decodeTableWord 64 (0xFD000000 + 0x72E5BA5C * 2 ^ 32) = some (.sthRlx 5 1 9 6 0x3A5C) ∧
    decodeTableWord 64 (0xFD000000 + 0x76E5BA5C * 2 ^ 32) = some (.stwRlx 5 1 9 6 0x3A5C) ∧
    decodeTableWord 64 (0xFD000000 + 0x7AE5BA5C * 2 ^ 32) = some (.stdRlx 5 1 9 6 0x3A5C) :=
  ⟨rfl, rfl, rfl, rfl⟩

theorem test_decode_sync :
    decodeTableWord 32 0x7EE58000 = some (.ldf 5 1 9 6) ∧
    decodeTableWord 32 0x7EE58001 = some (.ldfe 5 1 9 6) ∧
    decodeTableWord 32 0x7EE58002 = some (.ste 5 1 9 6) ∧
    decodeTableWord 32 0x7EE58003 = some (.stf 5 1 9 6) ∧
    decodeTableWord 32 0x7EC18004 = some (.fclr 5 1 6) ∧
    decodeTableWord 32 0x7EC18005 = some (.fset 5 1 6) ∧
    decodeTableWord 32 0x7EE58006 = some (.fstat 5 1 9 6) :=
  ⟨rfl, rfl, rfl, rfl, rfl, rfl, rfl⟩

theorem test_decode_atom :
    decodeTableWord 32 0x82E5B100 = some (.aadd 5 1 9 6 12 1) ∧
    decodeTableWord 32 0x82E5B101 = some (.aand 5 1 9 6 12 1) ∧
    decodeTableWord 32 0x82E5B102 = some (.aor 5 1 9 6 12 1) ∧
    decodeTableWord 32 0x82E5B103 = some (.axor 5 1 9 6 12 1) ∧
    decodeTableWord 32 0x82E5B104 = some (.amin 5 1 9 6 12 1) ∧
    decodeTableWord 32 0x82E5B105 = some (.amax 5 1 9 6 12 1) ∧
    decodeTableWord 32 0x82E5B106 = some (.aminu 5 1 9 6 12 1) ∧
    decodeTableWord 32 0x82E5B107 = some (.amaxu 5 1 9 6 12 1) ∧
    decodeTableWord 32 0x82E5B108 = some (.aswp 5 1 9 6 12 1) ∧
    decodeTableWord 32 0x82E5B109 = some (.acas 5 1 9 6 12 1) ∧
    decodeTableWord 32 0x82E5B00A = some (.afadd 5 1 9 6 12) :=
  ⟨rfl, rfl, rfl, rfl, rfl, rfl, rfl, rfl, rfl, rfl, rfl⟩

theorem test_decode_seal :
    decodeTableWord 32 0x86C1B000 = some (.sealPages 5 1 6 12) ∧
    decodeTableWord 32 0x86C1B001 = some (.unsealPages 5 1 6 12) ∧
    decodeTableWord 32 0x86E58002 = some (.sealq 5 1 9 6) :=
  ⟨rfl, rfl, rfl⟩

theorem test_decode_work :
    decodeTableWord 32 0x8AE5B000 = some (.spawn 5 1 9 6 12) ∧
    decodeTableWord 32 0x8AC18001 = some (.join 5 1 6) ∧
    decodeTableWord 32 0x8AC1B002 = some (.jinit 5 1 6 12) ∧
    decodeTableWord 32 0x8AC00003 = some (.exit 5 1) ∧
    decodeTableWord 32 0x8AC18004 = some (.yield 5 1 6) ∧
    decodeTableWord 32 0x8AC18005 = some (.migrate 5 1 6) ∧
    decodeTableWord 32 0x8AC1B006 = some (.send 5 1 6 12) ∧
    decodeTableWord 32 0x8AE40007 = some (.waitm 5 1 9) ∧
    decodeTableWord 32 0x8AE5B008 = some (.waitc 5 1 9 6 12) ∧
    decodeTableWord 32 0x8AC1B009 = some (.cset 5 1 6 12) ∧
    decodeTableWord 32 0x8AC1B00A = some (.bar 5 1 6 12) ∧
    decodeTableWord 32 0x8AC0140B = some (.fence 5 1 5) :=
  ⟨rfl, rfl, rfl, rfl, rfl, rfl, rfl, rfl, rfl, rfl, rfl, rfl⟩

theorem test_decode_sys :
    decodeTableWord 32 0x8EC18000 = some (.trap 5 1 6) ∧
    decodeTableWord 32 0x8EC00001 = some (.eret 5 1) ∧
    decodeTableWord 32 0x8EC00002 = some (.brk 5 1) ∧
    decodeTableWord 32 0x8EC18003 = some (.halt 5 1 6) ∧
    decodeTableWord 32 0x8EE40004 = some (.tsr 5 1 9) ∧
    decodeTableWord 32 0x8EE40005 = some (.rng 5 1 9) ∧
    decodeTableWord 32 0x8EC1B006 = some (.logm 5 1 6 12) ∧
    decodeTableWord 32 0x8EC00007 = some (.nop 5 1) :=
  ⟨rfl, rfl, rfl, rfl, rfl, rfl, rfl, rfl⟩

theorem test_decode_vfp :
    decodeTableWord 32 0xA2EAADD0 = some (.vadd 5 1 21 10 27 2 1) ∧
    decodeTableWord 32 0xA2EAADD1 = some (.vsub 5 1 21 10 27 2 1) ∧
    decodeTableWord 32 0xA2EAADD2 = some (.vmul 5 1 21 10 27 2 1) ∧
    decodeTableWord 32 0xA2EAADD3 = some (.vfma 5 1 21 10 27 2 1) ∧
    decodeTableWord 32 0xA2EAADD4 = some (.vmin 5 1 21 10 27 2 1) ∧
    decodeTableWord 32 0xA2EAADD5 = some (.vmax 5 1 21 10 27 2 1) ∧
    decodeTableWord 32 0xA2EAA056 = some (.vabs 5 1 21 10 2 1) ∧
    decodeTableWord 32 0xA2EAA057 = some (.vneg 5 1 21 10 2 1) ∧
    decodeTableWord 32 0xA2EAADD8 = some (.vscale 5 1 21 10 27 2 1) ∧
    decodeTableWord 32 0xA2EAADD9 = some (.vclip 5 1 21 10 27 2 1) :=
  ⟨rfl, rfl, rfl, rfl, rfl, rfl, rfl, rfl, rfl, rfl⟩

theorem test_decode_vsfu :
    decodeTableWord 32 0xA6EAA050 = some (.vexp 5 1 21 10 2 1) ∧
    decodeTableWord 32 0xA6EAA051 = some (.vlog 5 1 21 10 2 1) ∧
    decodeTableWord 32 0xA6EAA052 = some (.vrcp 5 1 21 10 2 1) ∧
    decodeTableWord 32 0xA6EAA053 = some (.vrsqrt 5 1 21 10 2 1) ∧
    decodeTableWord 32 0xA6EAA054 = some (.vtanh 5 1 21 10 2 1) ∧
    decodeTableWord 32 0xA6EAA055 = some (.vsigm 5 1 21 10 2 1) ∧
    decodeTableWord 32 0xA6EAA056 = some (.vsilu 5 1 21 10 2 1) ∧
    decodeTableWord 32 0xA6EAA057 = some (.verf 5 1 21 10 2 1) :=
  ⟨rfl, rfl, rfl, rfl, rfl, rfl, rfl, rfl⟩

theorem test_decode_vint :
    decodeTableWord 32 0xAAEAAD90 = some (.viadd 5 1 21 10 27 1) ∧
    decodeTableWord 32 0xAAEAAD91 = some (.visub 5 1 21 10 27 1) ∧
    decodeTableWord 32 0xAAEAAD92 = some (.vimul 5 1 21 10 27 1) ∧
    decodeTableWord 32 0xAAEAAD93 = some (.vimac 5 1 21 10 27 1) ∧
    decodeTableWord 32 0xAAEAAD94 = some (.vand 5 1 21 10 27 1) ∧
    decodeTableWord 32 0xAAEAAD95 = some (.vor 5 1 21 10 27 1) ∧
    decodeTableWord 32 0xAAEAAD96 = some (.vxor 5 1 21 10 27 1) ∧
    decodeTableWord 32 0xAAEAAD97 = some (.vshl 5 1 21 10 27 1) ∧
    decodeTableWord 32 0xAAEAAD98 = some (.vshr 5 1 21 10 27 1) ∧
    decodeTableWord 32 0xAAEAAD99 = some (.vrsh 5 1 21 10 27 1) ∧
    decodeTableWord 32 0xAAEAAD9A = some (.vclampi 5 1 21 10 27 1) :=
  ⟨rfl, rfl, rfl, rfl, rfl, rfl, rfl, rfl, rfl, rfl, rfl⟩

theorem test_decode_vmov :
    decodeTableWord 32 0xAEEAA000 = some (.vcopy 5 1 21 10) ∧
    decodeTableWord 32 0xAEEAA051 = some (.vfill 5 1 21 10 2 1) ∧
    decodeTableWord 32 0xAEEAA052 = some (.vcvt 5 1 21 10 2 1) ∧
    decodeTableWord 32 0xAEEAAD83 = some (.vgath 5 1 21 10 27) ∧
    decodeTableWord 32 0xAEEAAD84 = some (.vscat 5 1 21 10 27) ∧
    decodeTableWord 32 0xAEEAAD85 = some (.vsel 5 1 21 10 27) :=
  ⟨rfl, rfl, rfl, rfl, rfl, rfl⟩

theorem test_decode_vred :
    decodeTableWord 32 0xB2EAA050 = some (.vsum 5 1 21 10 2 1) ∧
    decodeTableWord 32 0xB2EAA051 = some (.vmaxr 5 1 21 10 2 1) ∧
    decodeTableWord 32 0xB2EAA052 = some (.vminr 5 1 21 10 2 1) ∧
    decodeTableWord 32 0xB2EAADD3 = some (.vdot 5 1 21 10 27 2 1) :=
  ⟨rfl, rfl, rfl, rfl⟩

theorem test_decode_vsel :
    decodeTableWord 32 0xB6EAAD80 = some (.vcmp 5 1 21 10 27) ∧
    decodeTableWord 32 0xB6EAA001 = some (.vhist 5 1 21 10) ∧
    decodeTableWord 32 0xB6EAAD82 = some (.vselk 5 1 21 10 27) ∧
    decodeTableWord 32 0xB6EAAD83 = some (.vmrg 5 1 21 10 27) ∧
    decodeTableWord 32 0xB6EAA004 = some (.vcnt 5 1 21 10) :=
  ⟨rfl, rfl, rfl, rfl, rfl⟩

theorem test_decode_vseq :
    decodeTableWord 32 0xBAEAA000 = some (.vloop 5 1 21 10) ∧
    decodeTableWord 32 0xBAC00001 = some (.vend 5 1) ∧
    decodeTableWord 32 0xBAC00002 = some (.vwait 5 1) :=
  ⟨rfl, rfl, rfl⟩

theorem test_decode_matrix :
    decodeTableWord 32 0xC2EE52C3 = some (.mma 5 1 5 6 2 9 0xC3) ∧
    decodeTableWord 32 0xC6EE52C5 = some (.mms 5 1 5 6 2 9 0xC5) ∧
    decodeTableWord 32 0xCAEE525E = some (.mmx 5 1 5 6 2 9 94) ∧
    decodeTableWord 32 0xCEEE52A7 = some (.mmg 5 1 5 6 2 9 0xA7) ∧
    decodeTableWord 32 0xD2D40000 = some (.accz 5 1 5) ∧
    decodeTableWord 32 0xD2D5B001 = some (.accrd 5 1 5 6 12) ∧
    decodeTableWord 32 0xD2D5B002 = some (.accwr 5 1 5 6 12) ∧
    decodeTableWord 32 0xD2D58003 = some (.ringset 5 1 5 6) ∧
    decodeTableWord 32 0xD2D43004 = some (.ringst 5 1 5 12) ∧
    decodeTableWord 32 0xD2E54005 = some (.mpget 5 1 9 5) :=
  ⟨rfl, rfl, rfl, rfl, rfl, rfl, rfl, rfl, rfl, rfl⟩

theorem test_decode_copy :
    decodeTableWord 32 0xDAE5B000 = some (.cpy 5 1 9 6 12) ∧
    decodeTableWord 32 0xDAE5B001 = some (.cpyd 5 1 9 6 12) ∧
    decodeTableWord 32 0xDAE5B002 = some (.cpyf 5 1 9 6 12) ∧
    decodeTableWord 32 0xDAE58003 = some (.cpyq 5 1 9 6) :=
  ⟨rfl, rfl, rfl, rfl⟩

theorem test_decode_thin :
    decodeTableWord 32 0xDEE5B000 = some (.thin 5 1 9 6 12) ∧
    decodeTableWord 32 0xDEE5B001 = some (.mref 5 1 9 6 12) ∧
    decodeTableWord 32 0xDEE5B002 = some (.mrel 5 1 9 6 12) ∧
    decodeTableWord 32 0xDEE58003 = some (.mver 5 1 9 6) :=
  ⟨rfl, rfl, rfl, rfl⟩

theorem test_decode_fab :
    decodeTableWord 32 0xE2E5B000 = some (.gred 5 1 9 6 12) ∧
    decodeTableWord 32 0xE2E5B001 = some (.gldr 5 1 9 6 12) ∧
    decodeTableWord 32 0xE2E5B002 = some (.gmc 5 1 9 6 12) ∧
    decodeTableWord 32 0xE2E5B003 = some (.gsetSet 5 1 9 6 12) ∧
    decodeTableWord 32 0xE2E58004 = some (.gq 5 1 9 6) :=
  ⟨rfl, rfl, rfl, rfl, rfl⟩

theorem test_decode_port :
    decodeTableWord 32 0xE6F98000 = some (.sbind 5 1 2 6) ∧
    decodeTableWord 32 0xE6F80001 = some (.sfree 5 1 2) ∧
    decodeTableWord 32 0xE6E78002 = some (.xstat 5 1 9 2) :=
  ⟨rfl, rfl, rfl⟩

theorem test_decode_bits :
    decodeTableWord 32 0xEAE58000 = some (.bget 5 1 9 6) ∧
    decodeTableWord 32 0xEAE58001 = some (.bpeek 5 1 9 6) ∧
    decodeTableWord 32 0xEAC18002 = some (.bskip 5 1 6) ∧
    decodeTableWord 32 0xEAC1B003 = some (.bput 5 1 6 12) ∧
    decodeTableWord 32 0xEAE40004 = some (.bflush 5 1 9) ∧
    decodeTableWord 32 0xEAE40005 = some (.bhdr 5 1 9) ∧
    decodeTableWord 32 0xEAE58006 = some (.bexp 5 1 9 6) ∧
    decodeTableWord 32 0xEAE40007 = some (.bsync 5 1 9) :=
  ⟨rfl, rfl, rfl, rfl, rfl, rfl, rfl, rfl⟩

theorem test_decode_svc :
    decodeTableWord 32 0xEEE5B000 = some (.hwalk 5 1 9 6 12) ∧
    decodeTableWord 32 0xEEE58001 = some (.hins 5 1 9 6) ∧
    decodeTableWord 32 0xEEE58002 = some (.hdel 5 1 9 6) ∧
    decodeTableWord 32 0xEEC1B003 = some (.tlbi 5 1 6 12) ∧
    decodeTableWord 32 0xEEE5B004 = some (.hotr 5 1 9 6 12) ∧
    decodeTableWord 32 0xEEE5B005 = some (.pgmv 5 1 9 6 12) :=
  ⟨rfl, rfl, rfl, rfl, rfl, rfl⟩

theorem test_decode_dbg :
    decodeTableWord 32 0xF2C1B000 = some (.bpset 5 1 6 12) ∧
    decodeTableWord 32 0xF2C18001 = some (.bpclr 5 1 6) ∧
    decodeTableWord 32 0xF2C18002 = some (.tstart 5 1 6) ∧
    decodeTableWord 32 0xF2C00003 = some (.tstop 5 1) ∧
    decodeTableWord 32 0xF2E58004 = some (.snap 5 1 9 6) :=
  ⟨rfl, rfl, rfl, rfl, rfl⟩

/-! Words that the spec prints. -/

theorem test_words_scalar : decodeTableWord 32 0x04048C21 = some (.bfx 0 0 1 2 3) ∧ decodeTableWord 32 0x2C193FFB = some (.cmplti 0 0 3 0 4 0x3FFB) ∧
    decodeTableWord 32 0x393FFFFB = some (.br 2 0 0x3FFFFB) ∧ decodeTableWord 32 0x40024000 = some (.jr 0 0 9) ∧
    decodeTableWord 32 0x44048F00 = some (.fadd 0 0 1 2 3 3) ∧ decodeTableWord 32 0x48048030 = some (.cvt 0 0 1 2 0 3 0) ∧
    decodeTableWord 32 0x4C040004 = some (.rdsr 0 0 1 4) ∧ decodeTableWord 32 0x90028006 = some (.wrsrVectorState 0 0 10 6) ∧
    decodeTableWord 64 (0xFC1048D1 + 0x1C041678 * 2 ^ 32) = some (.liI38 0 0 1 0x412345678) ∧ decodeTableWord 32 0x181A1006 = some (.srli 0 0 6 8 6) ∧
    decodeTableWord 32 0x8C004003 = some (.halt 0 0 1) := ⟨rfl, rfl, rfl, rfl, rfl, rfl, rfl, rfl, rfl, rfl, rfl⟩

theorem test_words_memory : decodeTableWord 32 0x78147FF8 = some (.std 0 0 5 1 0x3FF8) ∧ decodeTableWord 32 0x7C0C8001 = some (.ldfe 0 0 3 2) ∧
    decodeTableWord 32 0x7C108002 = some (.ste 0 0 4 2) ∧ decodeTableWord 32 0x80048D00 = some (.aadd 0 0 1 2 3 1) ∧
    decodeTableWord 32 0x80115809 = some (.acas 0 0 4 5 6 0) ∧ decodeTableWord 32 0x840C4002 = some (.sealq 0 0 3 1) ∧
    decodeTableWord 32 0x880C4800 = some (.spawn 0 0 3 1 2) ∧ decodeTableWord 32 0x8800140B = some (.fence 0 0 5) ∧
    decodeTableWord 32 0xE4304000 = some (.sbind 0 0 0 1) ∧ decodeTableWord 32 0xE8048006 = some (.bexp 0 0 1 2) ∧
    decodeTableWord 32 0xD8048C00 = some (.cpy 0 0 1 2 3) ∧ decodeTableWord 32 0xDC109401 = some (.mref 0 0 4 2 5) :=
  ⟨rfl, rfl, rfl, rfl, rfl, rfl, rfl, rfl, rfl, rfl, rfl, rfl⟩

theorem test_words_vector : decodeTableWord 32 0xB8063000 = some (.vloop 0 0 3 3) ∧ decodeTableWord 32 0xA0081113 = some (.vfma 0 0 4 1 2 0 1) ∧
    decodeTableWord 32 0xA40A5070 = some (.vexp 0 0 5 5 3 1) ∧ decodeTableWord 32 0xA80C3389 = some (.vrsh 0 0 6 3 7 0) ∧
    decodeTableWord 32 0xAC041000 = some (.vcopy 0 0 2 1) ∧ decodeTableWord 32 0xB0109070 = some (.vsum 0 0 8 9 3 1) ∧
    decodeTableWord 32 0xB428A703 = some (.vmrg 0 0 20 10 14) ∧ decodeTableWord 32 0xC0082440 = some (.mma 0 0 1 0 1 2 0x40) ∧
    decodeTableWord 32 0xC81CA29A = some (.mmx 0 0 3 4 5 1 0x9A) ∧ decodeTableWord 32 0xCC226824 = some (.mmg 0 0 4 2 3 4 0x24) ∧
    decodeTableWord 32 0xD0144005 = some (.mpget 0 0 5 1) ∧ decodeTableWord 32 0xEC048001 = some (.hins 0 0 1 2) ∧
    decodeTableWord 32 0xF0048004 = some (.snap 0 0 1 2) ∧ decodeTableWord 32 0xE0116800 = some (.gred 0 0 4 5 10) :=
  ⟨rfl, rfl, rfl, rfl, rfl, rfl, rfl, rfl, rfl, rfl, rfl, rfl, rfl, rfl⟩

/-! Small states for the tests: one thread in slot 0 of core 0, in a running context with all of that core's share. Segment 0 is the
share, segment 1 region 0, segment 2 region 1, segment 3 region 3, with every right; segment 4, read only, ends beyond the address space. -/

/-- An address in a segment. -/
def va (seg off : Nat) : Word := BitVec.ofNat 64 (seg * 2 ^ 61 + off)

def demoSegs : List Seg :=
  [{ base := 0, limit := 0x100000, rights := 7, kind := 0 }, { base := 0, limit := 2 ^ 43, rights := 7, kind := 1 },
   { base := 2 ^ 56, limit := 2 ^ 44, rights := 7, kind := 1 }, { base := 3 * 2 ^ 56, limit := 2 ^ 43, rights := 7, kind := 1 },
   { base := 2 ^ 60 - 8, limit := 64, rights := 1, kind := 1 }]

def demoResid : Resid :=
  { lsbase := 0, lssize := 0x100000, slots := 0xFFFF, accs := 0xFF, rings := 0xFF, cfirst := 0, ccount := 64, ovfbase := 0, ovfcap := 2,
    savebase := 0 }

def demoMap : NatMap Resid := [(0, demoResid), (1, demoResid), (32, { demoResid with lssize := 0x80000 })]

/-- Page 0 of region 0 at frame 16, in die 0's replica. -/
def demoPt : NatMap Pte := [(wayIndex 0 (homeOf 0) (bucketSmall 0), { tagw := 2 ^ 63, frame := 16, sw := 0 })]

def demoTlb : NatMap (List TlbEntry) := [(0, [{ vpn := 0, big := false, pfn := 16, hot := 0, from_ := 0 }])]

def someThread : Thread :=
  { pc := va 1 0x100, g := Vector.replicate 10 0, p := 1, ctx := 0, sup := true, tfl := false, df := false, cause := 0, epc := va 1 0x80,
    ebad := 0, rnd := 0, scl := 0, shb := 0x400, mprog := 0, rmode := 0, join := none, seq := Seq.empty, mat := none, relaxed := [],
    relFault := none, vecFault := none, wait := .ready, ilen := 4, prefixed := false, handler := false, passBp := false, noEntry := none,
    arrived := none, delivers := 0, start := 0, fab := [], fabD := 10, replayFrom := none }

/-- someThread with g0, g1, g2, ... as given. -/
def withRegs (l : List Nat) : Thread :=
  { someThread with g := Vector.ofFn fun i => BitVec.ofNat 64 (l.getD i 0) }

def demoCore : Core := { Core.reset with segs := [(0, demoSegs)] }

def demoCtx : Context := { Context.reset with st := .running, map := demoMap, trapvec := va 1 0x2000, domain := 1 }

def demo (t : Thread) : State :=
  { State.reset with
    threads := [(0, t)], cores := [(0, demoCore)], ctxs := [(0, demoCtx)]
    clusters := [(0, { Cluster.reset with tlb := demoTlb })]
    pkgs := [(0, { Package.reset 0 with pt := demoPt })] }

/-- The thread of demo as it enters an instruction of len bytes. -/
def entered (t : Thread) (len : Nat := 4) : Thread := (demo t).turned t len

theorem demo_issues {t : Thread} (len : Nat := 4) : (demo t).Issues 0 0 len (entered t len) := by
  refine ⟨t, ?_, by simp [Thread.holds, Thread.pred], rfl⟩
  simp [demo, State.thread, NatMap.find?, State.reset]

/-- demo with a change that leaves its thread. -/
theorem issues_of {s : State} {u : Thread} (len : Nat) (h : s.thread s.cur = some u) : s.Issues 0 0 len (s.turned u len) :=
  ⟨u, h, by simp [Thread.holds, Thread.pred], rfl⟩

/-- A thread that waits for an access. -/
def waitsFor (r : Req) : Thread := { someThread with wait := .mem r }

/-! One step of an instruction on the small state, against values worked by hand from the spec's rows and worked examples. -/

/-- Register d of the thread after one instruction, from registers g0, g1, ... as given. -/
def regAfter (i : Instr) (l : List Nat) (d : BitVec 4) : Option Nat :=
  match exec i (demo (withRegs l)) with
  | .next s => (s.thread 0).map fun t => (t.reg d).toNat
  | _ => none

/-- Predicate k after one instruction. -/
def predAfter (i : Instr) (l : List Nat) (k : Nat) : Option Bool :=
  match exec i (demo (withRegs l)) with
  | .next s => (s.thread 0).map fun t => t.pred k
  | _ => none

/-- A number of 64 bits in two's complement. -/
def twos (n : Nat) : Nat := 2 ^ 64 - n

theorem test_add_wraps : regAfter (.add 0 0 1 2 3) [0, 0, twos 1, 2] 1 = some 1 := by decide
theorem test_sub_wraps : regAfter (.sub 0 0 1 2 3) [0, 0, 1, 2] 1 = some (twos 1) := by decide
theorem test_mulhu : regAfter (.mulhu 0 0 1 2 3) [0, 0, twos 1, twos 1] 1 = some (twos 2) := by decide
theorem test_div_truncates : regAfter (.div 0 0 1 2 3) [0, 0, twos 7, 2] 1 = some (twos 3) := by decide
theorem test_rem_sign : regAfter (.rem 0 0 1 2 3) [0, 0, twos 7, 2] 1 = some (twos 1) := by decide
theorem test_divu_by_zero : regAfter (.divu 0 0 1 2 3) [0, 0, 7, 0] 1 = some (twos 1) := by decide
theorem test_remu_by_zero : regAfter (.remu 0 0 1 2 3) [0, 0, 7, 0] 1 = some 7 := by decide
theorem test_bfx : regAfter (.bfx 0 0 1 2 3) [0, 0, 0xABCDEF, 0x0C08] 1 = some 0xBCD := by decide
theorem test_bfi_empty : regAfter (.bfi 0 0 1 2 3) [0, 77, 0xABCDEF, 0x0008] 1 = some 77 := by decide
theorem test_sra_negative : regAfter (.sra 0 0 1 2 3) [0, 0, twos 8, 1] 1 = some (twos 4) := by decide
theorem test_rol_zero : regAfter (.rol 0 0 1 2 3) [0, 0, 5, 64] 1 = some 5 := by decide
theorem test_addi_negative : regAfter (.addi 0 0 1 2 0x3FFF) [0, 0, 0] 1 = some (twos 1) := by decide
theorem test_andi_zero_extends : regAfter (.andi 0 0 1 2 0x3FFF) [0, 0, twos 1] 1 = some 0x3FFF := by decide
theorem test_li_wide : regAfter (.liI38 0 0 5 0x100000000) [] 5 = some 0x100000000 := by decide
theorem test_lih : regAfter (.lih 0 0 1 1) [0, 5] 1 = some (2 ^ 38 + 5) := by decide
theorem test_gz_discards : regAfter (.add 0 0 10 2 3) [0, 0, 1, 2] 10 = some 0 := by decide
theorem test_cmplti : predAfter (.cmplti 0 0 3 0 4 0x3FFB) [0, 0, 0, 0, twos 6] 3 = some true ∧
    predAfter (.cmplti 0 0 3 0 4 0x3FFB) [0, 0, 0, 0, twos 5] 3 = some false := by decide
theorem test_eq_p0 : predAfter (.eq 0 0 0 0 1 2) [0, 1, 2] 0 = some true := by decide
theorem test_fadd : regAfter (.fadd 0 0 1 2 3 0) [0, 0, 0x3F800000, 0x40000000] 1 = some 0x40400000 := by decide
theorem test_fadd_nan : regAfter (.fadd 0 0 1 2 3 0) [0, 0, 0x7F800000, 0xFF800000] 1 = some 0x7FC00000 := by decide
theorem test_fdiv_by_zero : regAfter (.fdiv 0 0 1 2 3 0) [0, 0, 0x3F800000, 0x80000000] 1 = some 0xFF800000 := by decide
theorem test_fsqrt_negative_zero : regAfter (.fsqrt 0 0 1 2 0) [0, 0, 0x80000000] 1 = some 0x80000000 := by decide
theorem test_round_bf16 : Fmt.bf16.round .rne 0 true (Fmt.fp32.decode 0x3F808000) = 0x3F80 ∧
    Fmt.bf16.round .sr 0x3000 true (Fmt.fp32.decode 0x3F804000) = 0x3F81 ∧ Fmt.bf16.round .sr 0x4000 true (Fmt.fp32.decode 0x3F804000) = 0x3F80 := by decide
theorem test_round_fp8 : Fmt.fp8.round .rne 0 true (Fmt.fp32.decode 0x43FA0000) = 0x7E ∧ Fmt.fp8.round .rne 0 false (Fmt.fp32.decode 0x43FA0000) = 0x7F := by decide
theorem test_round_tf8 : Fmt.tf8.round .rne 0 true (Fmt.fp32.decode 0x3F840000) = 0x40 ∧ Fmt.tf8.round .rne 0 true (Fmt.fp32.decode 0x453B8000) = 0x7F := by decide
theorem test_jal_link : regAfter (.jal 0 0 3) [] 9 = some (2 ^ 61 + 0x104) ∧ regAfter (.jal 0 0 3) [] 11 = some (2 ^ 61 + 0x10C) := by decide
theorem test_br_backward : regAfter (.br 0 0 0x3FFFFB) [] 11 = some (2 ^ 61 + 0x100 - 20) := by decide
theorem test_jr_misaligned : regAfter (.jr 0 0 1) [0, 0x102] 11 = some (2 ^ 61 + 0x2000) := by decide
theorem test_ldb_sign : (match exec (.ldb 0 0 2 1 0) { demo (withRegs [0, 64]) with mem := Mem.write [] (2 ^ 56 + 64) 8 0x80 } with
    | .next s => (s.thread 0).map fun t => (t.reg 2).toNat | _ => none) = some (twos 0x80) := by decide
theorem test_std_little_endian : (match exec (.std 0 0 2 1 8) (demo (withRegs [0, 64, 0x0102030405060708])) with
    | .next s => some ((s.mem.byte (2 ^ 56 + 72)).toNat, (s.mem.byte (2 ^ 56 + 79)).toNat) | _ => none) = some (8, 1) := by decide
theorem test_pget : regAfter (.pget 0 0 1) [] 1 = some 1 := by decide
theorem test_rdsr_xlist : regAfter (.rdsr 0 0 1 0x43) [] 1 = some 0x07 := by decide

/-! Witnesses: for each obligation with hypotheses, states and operands that meet them, clause by clause. What is supposed of operands alone
(Computes, Compares, Rounds) is met in witness_register_operands and witness_port_operands for every statement that uses them. -/

/-- demo with a word in the sealed line of its pc, and one behind it. -/
def demoFetch (w w2 : Nat) : State :=
  { demo someThread with
    cores := [(0, { demoCore with icache := [1] })]
    mem := Mem.write (Mem.write [] (2 ^ 61 + 0x100100) 4 w) (2 ^ 61 + 0x100104) 4 w2 }

theorem witness_StepRunsDecoded :
    ((demoFetch 0x8C000007 0).agenda = [] ∧ (demoFetch 0x8C000007 0).nextCore = some 0 ∧
      (demoFetch 0x8C000007 0).thread 0 = some someThread ∧ (demoFetch 0x8C000007 0).running 0 = true ∧
      ((demoFetch 0x8C000007 0).ctx 0).bps = [] ∧ someThread.wait = .ready ∧ someThread.start ≤ (demoFetch 0x8C000007 0).clock ∧
      (demoFetch 0x8C000007 0).tested = false ∧ someThread.relFault = none ∧ someThread.vecFault = none ∧
      (demoFetch 0x8C000007 0).fetch 0 someThread someThread.pc = .word 0x8C000007 (demoFetch 0x8C000007 0) ∧
      decode (leBytes 4 0x8C000007) = .ok (.nop 0 0, 4)) ∧
    ((demoFetch 0xFC040000 0x1C140000).fetch 0 someThread someThread.pc = .word 0xFC040000 (demoFetch 0xFC040000 0x1C140000) ∧
      (demoFetch 0xFC040000 0x1C140000).fetch 0 someThread (someThread.pc + 4) = .word 0x1C140000 (demoFetch 0xFC040000 0x1C140000) ∧
      decode (leBytes 4 0xFC040000 ++ leBytes 4 0x1C140000) = .ok (.liI38 0 0 5 0x100000000, 8) ∧ someThread.prefixed = false ∧
      ({ someThread with prefixed := true } : Thread).prefixed = true) :=
  ⟨⟨rfl, rfl, rfl, by decide, rfl, rfl, by decide, rfl, rfl, rfl, rfl, rfl⟩, rfl, rfl, rfl, rfl, rfl⟩

theorem witness_StepRunsDecoded_fetch :
    (demoFetch 0 0).check 0 0 (va 1 0x100) 4 segX 4 = .ok 0x100 ∧ laRegion (canonLa 0 0x100) = 0 ∧ (va 1 0x100).toNat % 4 = 0 ∧
      lineOf 0 (canonLa 0 0x100) ∈ ((demoFetch 0 0).core 0).icache :=
  ⟨rfl, rfl, by decide, by decide⟩

theorem witness_StepRunsDecoded_idle :
    ({ State.reset with agenda := [.nop 0 0] } : State).agenda = .nop 0 0 :: [] ∧ State.reset.agenda = [] ∧ State.reset.nextCore = none :=
  ⟨rfl, rfl, rfl⟩

theorem witness_DecodeEncode :
    (Instr.add 0 0 1 2 3).wf = true ∧ (Instr.add 0 0 1 2 3).isWord = true ∧ decode (leBytes 4 0x04048C00) = .ok (.add 0 0 1 2 3, 4) :=
  ⟨rfl, rfl, rfl⟩

theorem witness_StepKeepsMemory :
    State.reset.Safe ∧ step State.reset = .next State.reset.endCycle ∧ (demo someThread).Safe ∧ ∃ s', exec (.nop 0 0) (demo someThread) = .next s' :=
  ⟨⟨List.Pairwise.nil, fun _ h => nomatch h⟩, rfl, ⟨List.Pairwise.nil, fun _ h => nomatch h⟩, _, rfl⟩

theorem witness_EveryInstructionAnswers :
    exec (.nop 0 0) State.reset = .fault .noThread ∧ (∃ t, (demo someThread).thread (demo someThread).cur = some t) ∧
    (Instr.memoryReply 0).isWord = false ∧ (∀ p q d a b, Instr.memoryReply 0 ≠ .gsetClear p q d a b) :=
  ⟨rfl, ⟨_, rfl⟩, rfl, fun _ _ _ _ _ h => nomatch h⟩

/-- What Computes, Compares and Rounds suppose, met by the registers g1 to g3, by gz, by a pair, and by port x0 of a thread. -/
theorem witness_register_operands :
    (demo (withRegs [0, 1, 2, 3])).Issues 0 0 4 (entered (withRegs [0, 1, 2, 3])) ∧
    (demo (withRegs [0, 1, 2, 3])).Reads (entered (withRegs [0, 1, 2, 3])) [1, 2] [3] [1, 2] (demo (withRegs [0, 1, 2, 3])) ∧
    (demo (withRegs [0, 1, 2, 3])).Reads (entered (withRegs [0, 1, 2, 3])) [10, 11] [10] [0, va 1 0x100] (demo (withRegs [0, 1, 2, 3])) ∧
    (∀ v, State.writeRefused (demo (withRegs [])).cur 3 v = false ∧ State.writeRefused (demo (withRegs [])).cur 10 v = false) ∧
    (demo (withRegs [])).Issues 0 0 8 (entered (withRegs []) 8) :=
  ⟨demo_issues, reads_plain (by decide), reads_plain (by decide), fun v => ⟨by simp [State.writeRefused, demo, State.reset, slotOf], by simp [State.writeRefused, demo, State.reset, slotOf]⟩, demo_issues 8⟩

/-- demo with port x0 of slot 0 bound for reading, two elements ready, and x1 for writing. -/
def demoPort : State :=
  { demo someThread with
    cores := [(0, { demoCore with ports := [
      (0, { ctx := 0, base := 64, size := 16, out := false, ew := 4, sx := true, head := 76, tail := 64, unread := 8, ovf := false, waiting := [], spilled := [] }),
      (1, { ctx := 0, base := 96, size := 16, out := true, ew := 4, sx := false, head := 96, tail := 108, unread := 0, ovf := false, waiting := [], spilled := [] })] })]
    full := [(2 ^ 56 + 72) / 8], mem := Mem.write [] (2 ^ 56 + 72) 8 0x8000000012345678 }

theorem witness_port_operands :
    (∃ v s1, demoPort.Reads (demoPort.turned someThread 4) [12] [13] v s1 ∧ v = [0xFFFFFFFF80000000]) ∧
    (demoPort.core 0).ports.find? (portKey 0 12) ≠ none ∧ slotOf 0 ≠ 15 :=
  ⟨⟨_, _, ⟨rfl, rfl, rfl, rfl, rfl, rfl⟩, rfl⟩, by decide, by decide⟩

theorem witness_network_queue :
    slotOf 15 = 15 ∧ (({ demo someThread with cores := [(0, { demoCore with xq := [(0, [7, 8])] })] } : State).core (coreOf 15)).xq.at [] 0 = 7 :: [8] :=
  ⟨rfl, rfl⟩

theorem witness_IntegerResults : (0xFFFFFFFFFFFFFFF9 : Word).toInt = -7 ∧ (2 : Word) ≠ 0 ∧ leadingZeros 1 64 < 64 ∧ trailingZeros 2 64 < 64 := by decide

theorem witness_FloatValues_ByteFormats :
    Fmt.fp8 ∈ [Fmt.fp8, .tf8, .i8, .ui8] ∧ (Fmt.fp8.decode 0x38).isNan = false ∧ (Fmt.fp8.decode 0x7F).isNan = true ∧
    (Fmt.tf8.decode 0x80).isNan = true ∧ Fmt.tf8 ∈ [Fmt.tf8, .tf16, .tf32] ∧
    ((Fmt.tf8.posVal 127).1 : ℚ) * 2 ^ (Fmt.tf8.posVal 127).2 ≤ (1 : ℕ) * 2 ^ (100 : ℤ) ∧
    ((1 : ℕ) : ℚ) * 2 ^ (-100 : ℤ) ≤ ((Fmt.tf8.posVal 1).1 : ℚ) * 2 ^ (Fmt.tf8.posVal 1).2 ∧ (asFp32 0x3F800000).lt (asFp32 0x40000000) = true ∧ (asFp32 0x7FC00000).isNan = true := by
  have h1 : Fmt.tf8.posVal 127 = (1, 12) := by decide
  have h2 : Fmt.tf8.posVal 1 = (1, -12) := by decide
  refine ⟨by decide, by decide, by decide, by decide, by decide, ?_, ?_, by decide, by decide⟩
  · rw [h1]; norm_num
  · rw [h2]; norm_num

theorem witness_ConvertResults : Fmt.ofCode 0 = some .fp32 ∧ Fmt.ofCode 11 ≠ none ∧ Fmt.ofCode 3 = some .tf8 := by decide

/-- The three modes of a rounding: RM itself, and RND under RM = 3. -/
theorem witness_FloatResults : (entered { someThread with rnd := 2 }).rnd = 2 ∧ (entered { someThread with rnd := 1 }).rnd = 1 ∧
    (entered someThread).rnd ≠ 1 ∧ (entered someThread).rnd ≠ 2 := by decide

theorem witness_BranchResults :
    (∃ s2, (demo someThread).traceSoft 0 0 0 { ts := 0, src := 0, kind := 0x81, seq := 0, obj := 0, pc := 0, out := 0 } = some s2) ∧
    (va 1 0x100).toNat % 4 = 0 ∧ (va 1 0x102).toNat % 4 ≠ 0 ∧ (demo someThread).jumpHeld 0 someThread = false ∧
    ({ demo someThread with ctxs := [(0, { demoCtx with trace := 7 })] } : State).jumpHeld 0 someThread = true :=
  ⟨⟨_, rfl⟩, by decide, by decide, rfl, rfl⟩

theorem witness_FalsePredicate :
    (Instr.nop 3 0).isWord = true ∧ (demo someThread).thread (demo someThread).cur = some someThread ∧
    someThread.holds (fP (wordOf (.nop 3 0)).toNat) (fQ (wordOf (.nop 3 0)).toNat) = false ∧
    someThread.holds (fP (wordOf (.eret 3 0)).toNat) (fQ (wordOf (.eret 3 0)).toNat) = false := by decide

theorem witness_RegisterFrame :
    (demo someThread).thread (demo someThread).cur = some someThread ∧ (∃ s', exec (.add 0 0 1 2 3) (demo someThread) = .next s') ∧
    (∃ s', exec (.eq 0 0 2 1 1 6) (demo someThread) = .next s') ∧ (3 : BitVec 4) ≠ 1 := ⟨rfl, ⟨_, rfl⟩, ⟨_, rfl⟩, by decide⟩

theorem witness_SystemRegisterReads :
    (demo someThread).Issues 0 0 4 (entered someThread) ∧ (demo someThread).Reads (entered someThread) [] [1] [] (demo someThread) ∧
    State.writeRefused 0 1 0x07 = false ∧ State.writeRefused 15 13 0 = false ∧ State.writeRefused 15 13 (2 ^ 63) = true :=
  ⟨demo_issues, reads_plain (by decide), rfl, rfl, rfl⟩

theorem witness_ThreadRegisterWrites :
    (entered someThread).sup = true ∧ (entered someThread).seq.ents = [] ∧
    ({ someThread with seq := { ents := [{ word := 0xB8000002, pc := 0, shb := 0, rnd := 0, scl := 0, idx := 0, pass := 0, acc := [], recs := [] }],
                                frozen := false } } : Thread).seq.ents ≠ [] := ⟨rfl, rfl, by simp⟩

theorem witness_CoreRegisterWrites :
    (∀ y, y < 16 → ∃ i, i < 16 ∧ (0xFEDCBA9876543210 : Word).toNat / 2 ^ (4 * i) % 16 = y) ∧
    (¬ ∀ y, y < 16 → ∃ i, i < 16 ∧ (0 : Word).toNat / 2 ^ (4 * i) % 16 = y) ∧
    ((demo someThread).check 0 0 (va 0 0xFFFE0) 32 segR 1 = .ok (2 ^ 56 + 0xFFFE0) ∧ laRegion (2 ^ 56 + 0xFFFE0) = 1 ∧
      laCore (2 ^ 56 + 0xFFFE0) = 0 ∧ (demo someThread).isBad (2 ^ 56 + 0xFFFE0) 32 = false ∧
      ∀ b ∈ ((demo someThread).mem.bytes (2 ^ 56 + 0xFFFE0) 32).take 30, b.toNat < 16 ∨ b.toNat = 255) ∧
    ((demo someThread).clock % 16 = 0 ∧
      (({ demo someThread with cores := [(0, { demoCore with rotPend := some true })] } : State).core 0).rotPend = some true) ∧
    ((demo someThread).mem.wf ∧
      (({ demo someThread with cores := [(0, { demoCore with acctSnap := true, acctArea := 1023 })] } : State).core 0).acctSnap = true ∧
      (({ demo someThread with cores := [(0, { demoCore with acctSnap := true, acctArea := 1023 })] } : State).core 0).acctOut = [] ∧
      1024 * (1023 : BitVec 10).toNat + 1024 ≤ lsSize 0) ∧
    (∃ r, (({ demo someThread with cores := [(0, { demoCore with acctSnap := true, acctOut := [(2 ^ 56 + 1024, 7), (2 ^ 56 + 1032, 9)] })] } :
      State).core 0).acctOut = (2 ^ 56 + 1024, 7) :: r) :=
  ⟨by decide, by decide, ⟨rfl, rfl, rfl, rfl, by decide⟩, ⟨rfl, rfl⟩,
    ⟨⟨List.Pairwise.nil, fun _ h => nomatch h⟩, rfl, rfl, by decide⟩, _, rfl⟩

/-- The first word of the snapshot is written in the core's DMA turn, with its word full, and the second stays to be written (R201, R222). -/
theorem test_snapshot_word :
    (match exec (.acctSnapshot (2 ^ 47)) { demo someThread with cores := [(0, { demoCore with acctSnap := true, acctOut := [(2 ^ 56 + 1024, 7), (2 ^ 56 + 1032, 9)] })] } with
      | .next s => s.mem.read (2 ^ 56 + 1024) 8 == 7 && s.mem.read (2 ^ 56 + 1032) 8 == 0 && (s.core 0).acctSnap && s.isFull (2 ^ 56 + 1024)
      | _ => false) = true := by decide

/-- demo while its context records or replays (replay register as given), with a ring of a number of bytes. -/
def demoLog (replay : BitVec 2) (size prod cons : Nat) : State :=
  let l := { LogUnit.reset with size := BitVec.ofNat 64 size, prod := BitVec.ofNat 64 prod, cons := BitVec.ofNat 64 cons }
  { demo someThread with ctxs := [(0, { demoCtx with replay := replay, log0 := l })] }

theorem witness_LogRegisterWrites_SharedRegisterWrites :
    ((demo someThread).ctx 0).replay = 0 ∧ (∃ k, k ≤ 24 ∧ (0x10000 : Word).toNat = 2 ^ (16 + k)) ∧
    (∃ k, k ≤ 24 ∧ (0x10000000000 : Word).toNat = 2 ^ (16 + k)) ∧ ((demoLog 1 0 0 0).ctx 0).replay ≠ 0 ∧
    (((demoLog 1 0x10000 9 4).ctx 0).log 0).cons.toNat ≤ (9 : Word).toNat ∧ (9 : Word).toNat ≤ (((demoLog 1 0x10000 9 4).ctx 0).log 0).prod.toNat ∧
    (3 : Word).toNat < (((demoLog 1 0x10000 9 4).ctx 0).log 0).cons.toNat ∧
    (((demoLog 1 0x10000 9 4).ctx 0).log 0).prod.toNat + 0 < (10 : Word).toNat ∧ (∀ k, k ≤ 24 → (5 : Word).toNat ≠ 2 ^ (16 + k)) ∧
    (∃ l s2, (demo someThread).reach 0 0 128 = (.ok l, s2)) ∧ 2 ^ 60 ≤ (0x1000000000000000 : Word).toNat ∧
    (1 : Word).toNat % 4 = 1 ∧ 2 ≤ (2 : Word).toNat % 4 ∧ ((demoLog 2 0 0 0).ctx 0).replay = 2 :=
  ⟨rfl, ⟨0, by decide, rfl⟩, ⟨24, by decide, rfl⟩, by decide, by decide, by decide, by decide, by decide, by decide, ⟨_, _, rfl⟩, by decide, by decide, by decide, rfl⟩

/-- segbase: the region-2 address of the own package, a page without an entry in the TLB, noted as absent or not, the last 128 bytes of
region 0 and the first value beyond them, and another package's region-2 address. -/
theorem witness_SharedRegisterWrites_segbase :
    canonLa 0 (2 ^ 57 + 0x20) = 0x20 ∧ 0x20 + 127 < 2 ^ 43 ∧ (∃ l s2, (demo someThread).reach 0 0x20 128 = (.ok l, s2)) ∧
    (∃ pkg off s2, (demo someThread).reach 0 0x50000 128 = (.miss pkg off, s2) ∧ someThread.noEntry ≠ some (pkg, off / 65536) ∧
      ({ someThread with noEntry := some (0, 5) } : Thread).noEntry = some (pkg, off / 65536)) ∧
    (2 ^ 43 - 128) + 127 < 2 ^ 43 ∧ 2 ^ 43 ≤ canonLa 0 (2 ^ 43 - 112) + 127 ∧ 2 ^ 43 ≤ canonLa 0 (2 ^ 57 + 2 ^ 43 + 0x20) + 127 :=
  ⟨by decide, by decide, ⟨_, _, rfl⟩, ⟨_, _, _, rfl, by decide, by decide⟩, by decide, by decide, by decide⟩

theorem witness_SharedRegisterWrites_replies :
    (∃ t x, (demo { someThread with wait := .mem { kind := .ctxWrite, vals := [x], n := 0x81 } }).thread 0 = some t ∧
      t.wait = .mem { kind := .ctxWrite, vals := [x], n := 0x81 }) ∧
    (∃ t, (demo { someThread with wait := .mem { kind := .segRead, vals := [0, 0], n := 0 } }).thread 0 = some t ∧
      t.wait = .mem { kind := .segRead, vals := [0, 0], n := 0 }) ∧
    ((demoLog 2 0x10000 9 4).ctx 0).replay = 2 ∧ ((demo someThread).ctx 0).replay ≠ 2 :=
  ⟨⟨_, 5, rfl, rfl⟩, ⟨_, rfl, rfl⟩, rfl, by decide⟩

/-- A thread that waits for the descriptors at region-0 offset n to be read. -/
def segReader (n : Nat) (sgn : Bool := false) : Thread := waitsFor { kind := .segRead, vals := [0, 0], n := n, sgn := sgn }

/-- The page of the descriptors has to be walked for, is known to have no entry, has one with its data bad, or good. -/
theorem witness_SharedRegisterWrites_segRead :
    let s := demo (segReader 0)
    let none_ : State := { demo (segReader 0x50000) with
      clusters := [(0, { Cluster.reset with tlb := demoTlb, notes := [{ who := .slot 0, unit := 5, found := false }] })] }
    let bad_ : State := { s with bad := [(2 ^ 61 + 0x100040) / 8] }
    (demo (segReader 0x50000)).portMiss (.slot 0) 0 (rangeOffs 0x50000 128) = some 0x50000 ∧
    none_.portMiss (.slot 0) 0 (rangeOffs 0x50000 128) = none ∧ 0x50000 ∈ rangeOffs 0x50000 128 ∧
    (none_.portPlaceOf (.slot 0) 0 0x50000).1 = none ∧
    bad_.portMiss (.slot 0) 0 (rangeOffs 0 128) = none ∧ (∀ o ∈ rangeOffs 0 128, (bad_.portPlaceOf (.slot 0) 0 o).1 ≠ none) ∧
    (∃ s1, bad_.portBytes (.slot 0) 0 0 128 0 = (none, s1)) ∧
    s.portMiss (.slot 0) 0 (rangeOffs 0 128) = none ∧ (∀ o ∈ rangeOffs 0 128, (s.portPlaceOf (.slot 0) 0 o).1 ≠ none) ∧
    (∃ b s1, s.portBytes (.slot 0) 0 0 128 0 = (some b, s1) ∧
      ((s1.modCtx 0 fun k => { k with segbase := 0 }).setThread 0 (segReader 0 true)).segMisses 0 = []) ∧
    (demo (segReader 0 true)).segMisses 0 = [] :=
  ⟨by decide, by decide, by decide, by decide, by decide, by decide, ⟨_, rfl⟩, by decide, by decide, ⟨_, _, rfl, by decide⟩, by decide⟩

theorem witness_TrapEntry :
    (entered someThread).tfl = false ∧ (demo someThread).thread (demo someThread).cur = some someThread ∧
    (∃ s2, (demo someThread).traceSoft 0 0 1 { ts := 0, src := 0, kind := 0x82, seq := 0, obj := 0, pc := 0x100, out := 1 } = some s2) ∧
    (entered { someThread with tfl := true }).tfl = true ∧ (entered someThread).sup = true ∧ (0 : Word).getLsbD 5 = false :=
  ⟨rfl, rfl, ⟨_, rfl⟩, rfl, rfl, rfl⟩

theorem witness_PrivilegedInUserState :
    (demo { someThread with sup := false }).thread 0 = some { someThread with sup := false } ∧
    ({ someThread with sup := false } : Thread).sup = false := ⟨rfl, rfl⟩

/-- A relaxed store on its way. -/
def onItsWay : Relaxed := { store := true, place := .loc (2 ^ 56 + 64), va := va 0 64, n := 4, sgn := false, data := 7, land := 0, missed := false }

/-- A sequencer with an open body. -/
def openSeq (frozen : Bool) : Seq :=
  { ents := [{ word := 0xB8063000, pc := 0, shb := 0, rnd := 0, scl := 0, idx := 0, pass := 0, acc := [], recs := [] }], frozen := frozen }

theorem witness_SystemGroup :
    (entered someThread).sup = true ∧ (demo someThread).Reads (entered someThread) [] [10] [] (demo someThread) ∧
    (demo someThread).Reads (entered someThread) [1] [] [0] (demo someThread) ∧ (entered someThread).seq.isOpen = false ∧
    (entered { someThread with seq := openSeq false }).seq.isOpen = true ∧ (openSeq false).frozen = false ∧ (openSeq true).frozen = true ∧
    (entered someThread).relaxed = [] ∧ (entered { someThread with relaxed := [onItsWay] }).relaxed ≠ [] ∧
    ((demo someThread).ctx 0).replay = 0 := ⟨rfl, reads_plain (by decide), reads_plain (by decide), rfl, rfl, rfl, rfl, rfl, by decide, rfl⟩

theorem witness_RecordedEvent :
    ((demoLog 1 0x10000 0 0).ctx 0).replay = 1 ∧ 64 ≤ (((demoLog 1 0x10000 1984 0).ctx 0).log (coreDie 0)).room ∧
    (((demoLog 1 0x10000 0 0).ctx 0).log 0).stopped = false ∧ (((demoLog 1 0x10000 1985 0).ctx 0).log 0).room < 64 ∧
    ({ LogUnit.reset with stopped := true } : LogUnit).stopped = true := by decide

theorem witness_Migrations :
    extOfWord 0xEC048C00 = some .walker ∧ hasExt (coreOf 0) .walker = false ∧ (entered someThread).relaxed = [] ∧
    ((extOrder (coreOf 0)).find? fun y => hasExt y .walker && (demo someThread).coreOk y && (demo someThread).holdsSlots 0 y) = some 32 ∧
    ((demo someThread).coreOk 1 = true ∧ (demo someThread).holdsSlots (4 * corePkg 1 + 0) 1 = true ∧ 1 ≠ coreOf 0) ∧
    ((demo someThread).coreOk 0 = true ∧ (demo someThread).holdsSlots (4 * corePkg 0 + 0) 0 = true ∧ 0 = coreOf 0) ∧
    (demo someThread).coreOk 576 = false ∧ (demo someThread).holdsSlots 0 2 = false := by decide

theorem witness_Migrations_none :
    ((extOrder 0).find? fun y => hasExt y .walker && (State.reset).coreOk y && (State.reset).holdsSlots 0 y) = none := by
  rw [List.find?_eq_none]
  intro y _
  have : State.reset.holdsSlots 0 y = false := by simp [State.holdsSlots, State.resid, State.ctx, State.reset, Context.reset, NatMap.at]
  simp [this]

theorem witness_MemoryBytes : Mem.wf [] ∧ Mem.wf (Mem.write [] 5 2 0x100) := by decide

theorem witness_AccessChecks :
    let s := demo someThread
    ((s.seg 0 0 5).kind ≠ 1 ∧ (s.seg 0 0 1).kind = 1 ∧ (s.seg 0 0 0).limit ≤ s.shareSize 0 0) ∧
    ((s.seg 0 0 1).limit < 2 ^ 43 - 4 + 8 ∧ 2 ^ 43 - 4 + 4 ≤ (s.seg 0 0 1).limit) ∧
    (segR ||| segW) &&& (s.seg 0 0 4).rights ≠ (segR ||| segW) ∧ segR &&& (s.seg 0 0 4).rights = segR ∧
    (2 ^ 60 ≤ (s.seg 0 0 4).base + 8 ∧ 3 < ((s.seg 0 0 4).base + 7) / 2 ^ 56 % 16) ∧ (2 ^ 56 + 65) % 8 ≠ 0 ∧
    s.decodes 0 (2 ^ 56 + 600 * 2 ^ 20) = false ∧ s.decodes 0 (2 ^ 56 + 575 * 2 ^ 20) = true ∧ s.decodes 0 (3 * 2 ^ 56) = false ∧
    s.decodes 0 (2 ^ 43 - 8) = true := by decide

theorem witness_LocalLoads :
    let s := demo (withRegs [0, 0xFFFF8])
    s.Issues 0 0 4 (entered (withRegs [0, 0xFFFF8])) ∧ s.Reads (entered (withRegs [0, 0xFFFF8])) [1] [2] [0xFFFF8] s ∧
    s.check 0 0 (0xFFFF8 + (0 : BitVec 14).signExtend 64) 8 segR 8 = .ok (2 ^ 56 + 0xFFFF8) ∧
    s.check 0 0 (0xFFFF8 + (7 : BitVec 14).signExtend 64) 1 segR 1 = .ok (2 ^ 56 + 0xFFFFF) ∧ laRegion (2 ^ 56 + 0xFFFF8) = 1 ∧
    laCore (2 ^ 56 + 0xFFFF8) = 0 ∧ (∀ x ∈ (entered (withRegs [0, 0xFFFF8])).relaxed, s.touches x (.loc (2 ^ 56 + 0xFFFF8)) 8 = false) ∧
    s.isBad (2 ^ 56 + 0xFFFF8) 8 = false ∧ State.writeRefused s.cur 2 (BitVec.ofNat 64 (s.mem.read (2 ^ 56 + 0xFFFF8) 8)) = false :=
  ⟨demo_issues, reads_plain (by decide), rfl, rfl, rfl, rfl, fun _ h => (nomatch h), rfl, rfl⟩

theorem witness_LocalStores :
    let s := demo (withRegs [0, 0xFFFF8, 9])
    s.mem.wf ∧ s.Reads (entered (withRegs [0, 0xFFFF8, 9])) [1, 2] [] [0xFFFF8, 9] s ∧
    s.check 0 0 (0xFFFF8 + (0 : BitVec 38).signExtend 64) 8 segW 8 = .ok (2 ^ 56 + 0xFFFF8) ∧
    ∀ x ∈ (entered (withRegs [0, 0xFFFF8, 9])).relaxed, s.touches x (.loc (2 ^ 56 + 0xFFFF8)) 8 = false :=
  ⟨by decide, reads_plain (by decide), rfl, fun _ h => (nomatch h)⟩

theorem witness_RemoteAccess :
    let s := demo someThread
    s.check 0 0 (va 0 2) 4 segR 4 = .error ⟨6, va 0 2⟩ ∧ s.check 0 0 (va 5 0) 4 segW 4 = .error ⟨4, va 5 0⟩ ∧
    s.check 0 0 (va 1 0x100) 4 segR 4 = .ok 0x100 ∧ laRegion 0x100 = 0 ∧ (∃ l s2, s.translate 0 0x100 = (.ok l, s2) ∧ ∀ x ∈ someThread.relaxed, s2.touches x l 4 = false) ∧
    s.check 0 0 (va 2 0x100000) 4 segR 4 = .ok (2 ^ 56 + 0x100000) ∧ laCore (2 ^ 56 + 0x100000) ≠ 0 ∧ s.holdsSlots 0 1 = true ∧
    (3 : BitVec 4).toNat < 12 ∧ 12 ≤ (12 : BitVec 4).toNat ∧
    (∃ u, (s.trap 0 (entered someThread) 1 0).thread 0 = some u ∧ u.wait ≠ .held .trap) ∧
    (∃ u, (({ s with ctxs := [(0, { demoCtx with trace := 7, log0 := { LogUnit.reset with stopped := true } })] } : State).trap 0
      (entered someThread) 1 0).thread 0 = some u ∧ u.wait = .held .trap) :=
  ⟨rfl, rfl, rfl, rfl, ⟨_, _, rfl, fun _ h => (nomatch h)⟩, rfl, by decide, by decide, by decide, by decide, ⟨_, rfl, by decide⟩, _, rfl, rfl⟩

/-- s while every leaf of package 0 is down, so that no plane carries anything to or from it. -/
def cut (s : State) : State := s.modFab fun f => { f with down := (List.range 18).map fun plane => downSw (leafSw plane 0) }

/-- A request that was issued while no plane carried it, and still none does, or one does. -/
theorem witness_RemoteAccess_held :
    let r : Req := { kind := .load, d := 3, vals := [va 1 0], locs := [.hbm 1 0 0x100000], n := 4, held := true }
    (demo (waitsFor r)).thread 0 = some (waitsFor r) ∧ (cut (demo (waitsFor r))).linked 0 ((cut (demo (waitsFor r))).place (.hbm 1 0 0x100000)) = false ∧
    (demo (waitsFor r)).linked 0 ((demo (waitsFor r)).place (.hbm 1 0 0x100000)) = true :=
  ⟨rfl, by decide, by decide⟩

/-- demo with page 0 sealed. -/
def demoSealed : State := { demo someThread with pkgs := [(0, { Package.reset 0 with pt := demoPt, sealed := [(0, 1)] })] }

theorem witness_RemoteAccess_replies :
    let t := waitsFor { kind := .load, word := 0x600C4000, d := 3, vals := [va 1 0], locs := [.hbm 0 0 0x100000], n := 4, sgn := true }
    let l := (demo t).place (.hbm 0 0 0x100000)
    (demo t).thread 0 = some t ∧ (((demo t).heardAt 0 l).readGood 0 l 4).1 = true ∧
    (({ demo t with bad := [l.key / 8] } : State).heardAt 0 l).isBad l.key 4 = true ∧
    ((({ demo t with bad := [l.key / 8] } : State).heardAt 0 l).readGood 0 l 4).1 = false ∧ State.writeRefused 0 3 5 = false ∧
    ((demo t).heardAt 0 l).sealedAt l = false ∧ (demoSealed.heardAt 0 l).sealedAt l = true ∧ (demo t).sealState 0 0 = 0 ∧
    (demo t).isBad (Loc.hbm 0 0 0x100000).key 256 = false := by decide

/-- demo with g1 at a word of the thread's own store that is full or empty, g2 = 5, and the number of relaxed accesses. -/
def demoSync (full : Bool) : State := { demo (withRegs [0, 64, 5]) with full := if full then [(2 ^ 56 + 64) / 8] else [] }

theorem sync_here (full : Bool) {srcs dsts : List (BitVec 4)} {need : Nat} (h : ∀ c ∈ 1 :: (srcs ++ dsts), c.toNat < 12)
    (hc : (demoSync full).check 0 0 64 8 need 8 = .ok (2 ^ 56 + 64)) :
    (demoSync full).SyncHere 0 0 (1 :: srcs) dsts need ((demoSync full).turned (withRegs [0, 64, 5]) 4)
      ((1 :: srcs).map ((demoSync full).turned (withRegs [0, 64, 5]) 4).reg) (demoSync full) (2 ^ 56 + 64) :=
  ⟨⟨withRegs [0, 64, 5], by simp [demoSync, demo, State.thread, NatMap.find?, State.reset], by simp [Thread.holds, Thread.pred], rfl⟩,
    reads_plain h, by cases full <;> exact hc, rfl, by cases full <;> rfl, rfl⟩

theorem witness_SyncResults :
    (∃ t v, (demoSync true).SyncHere 0 0 [1] [3] (segR ||| segW) t v (demoSync true) (2 ^ 56 + 64) ∧
      (demoSync true).Permits (demoSync true) 0 t 2 (2 ^ 56 + 64) 0) ∧
    (∃ t v, (demoSync false).SyncHere 0 0 [1, 2] [] segW t v (demoSync false) (2 ^ 56 + 64) ∧
      (demoSync false).Permits (demoSync false) 0 t 3 (2 ^ 56 + 64) 5) ∧
    (demoSync true).isFull (2 ^ 56 + 64) = true ∧ (demoSync false).isFull (2 ^ 56 + 64) = false ∧
    (demoSync true).isBad (2 ^ 56 + 64) 8 = false ∧ State.writeRefused 0 3 5 = false ∧ (demoSync true).check 0 0 (va 1 0x100) 8 segR 8 = .ok 0x100 ∧ laRegion 0x100 ≠ 1 :=
  ⟨⟨_, _, sync_here true (by decide) rfl, none, rfl⟩, ⟨_, _, sync_here false (by decide) rfl, none, rfl⟩, rfl, rfl, rfl, rfl, rfl, by decide⟩

theorem witness_JoinResults :
    (∃ t v, (demoSync true).SyncHere 0 0 [1] [] segR t v (demoSync true) (2 ^ 56 + 64) ∧
      (demoSync true).Permits (demoSync true) 0 t 4 (2 ^ 56 + 64) 0) ∧ (demoSync true).mem.read (2 ^ 56 + 64) 8 = 0 ∧
    ({ demoSync true with mem := Mem.write [] (2 ^ 56 + 64) 8 1 } : State).mem.read (2 ^ 56 + 64) 8 ≠ 0 :=
  ⟨⟨_, _, sync_here true (by decide) rfl, none, rfl⟩, rfl, by decide⟩

/-- demoSync with its thread in SyncWait at an instruction; it has a wake message, and counter 1 of its core counts 3. -/
def demoWaiter (full : Bool) (w : Nat) : State :=
  let t := { withRegs [0, 64, 1] with wait := .sync }
  { demoSync full with
    threads := [(0, t)], mem := Mem.write [] (2 ^ 61 + 0x100100) 4 w
    cores := [(0, { demoCore with wakes := [(wakeKey 0 0, (true, 9))], counters := [(1, 3)] })] }

theorem witness_JoinResults_waiter :
    ∃ t s', 0 = 16 * 0 + (15 + 1) % 16 ∧ (demoWaiter true 0x7C0C4000).thread 0 = some t ∧ t.wait = .sync ∧ t.arrived = none ∧
      t.relFault = none ∧ t.vecFault = none ∧ (demoWaiter true 0x7C0C4000).wordAt 0 t t.pc = some (wordOf (.ldf 0 0 3 1)) ∧
      exec (.ldf 0 0 3 1) { demoWaiter true 0x7C0C4000 with cur := 0 } = .next s' ∧ ∀ u, s'.thread 0 = some u → u.wait ≠ .sync := by
  refine ⟨_, _, rfl, rfl, rfl, rfl, rfl, rfl, rfl, rfl, ?_⟩
  intro u hu; cases hu; decide

theorem waiter_reads {full : Bool} {w : Nat} {srcs dsts : List (BitVec 4)} (h : ∀ c ∈ srcs ++ dsts, c.toNat < 12) :
    (demoWaiter full w).Issues 0 0 4 ((demoWaiter full w).turned { withRegs [0, 64, 1] with wait := .sync } 4) ∧
    (demoWaiter full w).Reads ((demoWaiter full w).turned { withRegs [0, 64, 1] with wait := .sync } 4) srcs dsts
      (srcs.map ((demoWaiter full w).turned { withRegs [0, 64, 1] with wait := .sync } 4).reg) (demoWaiter full w) :=
  ⟨⟨_, rfl, by simp [Thread.holds, Thread.pred], rfl⟩, reads_plain h⟩

/-- The conditions of each waiting instruction: join of a counter that reads 0, ste of an empty word, ldf and ldfe of a full one, waitm
with a message, waitc of a counter that has passed its value. -/
theorem witness_JoinResults_waiters :
    let t : Thread := { withRegs [0, 64, 1] with wait := .sync }
    (∀ e ∈ [(true, wordOf (.join 0 0 1)), (false, wordOf (.ste 0 0 2 1)), (true, wordOf (.ldf 0 0 3 1)), (true, wordOf (.ldfe 0 0 3 1)),
        (true, wordOf (.waitm 0 0 3)), (true, wordOf (.waitc 0 0 3 2 2))],
      (demoWaiter e.1 e.2.toNat).wordAt 0 t t.pc = some e.2 ∧ (demoWaiter e.1 e.2.toNat).check 0 0 64 8 (segR ||| segW) 8 = .ok (2 ^ 56 + 64)) ∧
    (demoWaiter true 0).isFull (2 ^ 56 + 64) = true ∧ (demoWaiter false 0).isFull (2 ^ 56 + 64) = false ∧
    (demoWaiter true 0).isBad (2 ^ 56 + 64) 8 = false ∧ (demoWaiter true 0).mem.read (2 ^ 56 + 64) 8 = 0 ∧
    (((demoWaiter true 0).core 0).wakes.at (false, 0) (wakeKey 0 0)).1 = true ∧ (demoWaiter true 0).logMode 0 t = 0 ∧
    (demoWaiter true 0).ownsCounter 0 0 1 = true ∧ 0 ≤ (((demoWaiter true 0).core 0).counters.at 0 1 - (1 : BitVec 32)).toInt ∧
    State.writeRefused 0 3 9 = false := by
  refine ⟨?_, rfl, rfl, rfl, rfl, rfl, rfl, rfl, by decide, rfl⟩
  simp only [List.forall_mem_cons, List.not_mem_nil, false_implies, implies_true, and_true]
  exact ⟨⟨rfl, rfl⟩, ⟨rfl, rfl⟩, ⟨rfl, rfl⟩, ⟨rfl, rfl⟩, ⟨rfl, rfl⟩, rfl, rfl⟩

theorem witness_JoinResults_permits :
    (demoWaiter true 0).Permits (demoWaiter true 0) 0 { withRegs [0, 64, 1] with wait := .sync } 4 (2 ^ 56 + 64) 0 ∧
    (demoWaiter true 0).Permits (demoWaiter true 0) 0 { withRegs [0, 64, 1] with wait := .sync } 2 (2 ^ 56 + 64) 0 ∧
    (demoWaiter false 0).Permits (demoWaiter false 0) 0 { withRegs [0, 64, 1] with wait := .sync } 3 (2 ^ 56 + 64) 1 :=
  ⟨⟨none, rfl⟩, ⟨none, rfl⟩, none, rfl⟩

theorem witness_AtomicResults :
    (demoSync true).check 0 0 64 8 (segR ||| segW) 8 = .ok (2 ^ 56 + 64) ∧ (demoSync true).check 0 0 64 4 (segR ||| segW) 4 = .ok (2 ^ 56 + 64) ∧
    (demoSync true).Permits (demoSync true) 0 someThread 1 (2 ^ 56 + 64) 0 ∧ (1 : BitVec 2).toNat < 2 ∧ State.writeRefused 0 3 5 = false :=
  ⟨rfl, rfl, ⟨none, rfl⟩, by decide, rfl⟩

/-- demo with its thread in the queue of the bank word of region-0 offset 0, or in a proxy queue for host address 0x40. -/
def demoBank (host : Bool) (atom : Nat) : State :=
  let r : Req := { kind := .atomic, d := 3, vals := [va 1 0, 5, 0, 0, BitVec.ofNat 64 (3 * 2 ^ 56 + 0x40)],
                   locs := [if host then .host 0 7 0x40 else .hbm 0 0 0x100000], n := 8 }
  let w : NatMap Window := [(0, { base := 0, size := 0x10000, haddr := 0, ep := 0, rights := 3, atom := atom })]
  { demo (waitsFor r) with
    banks := [((2 ^ 61 + 0x100000) / 8, [0])]
    pkgs := [(0, { Package.reset 0 with pt := demoPt, windows := w, proxy := [(5, [0])], hosts := [7] })] }

theorem witness_SerialisedAtomics :
    (demo someThread).check 0 0 (va 1 0) 8 (segR ||| segW) 8 = .ok 0 ∧
    (∃ l s2, (demo someThread).translate 0 0 = (.ok l, s2) ∧ s2.logMode 0 someThread ≠ 1) ∧
    (∃ t r, (demoBank false 0).banks.at [] ((2 ^ 61 + 0x100000) / 8) = 0 :: [] ∧ (demoBank false 0).thread 0 = some t ∧ t.wait = .mem r ∧
      r.kind = .atomic ∧ (demoBank false 0).logMode 0 t = 0 ∧ (demoBank false 0).linked 0 (.hbm 0 0 0x100000) = true ∧
      (demoBank false 0).place (.hbm 0 0 0x100000) = .hbm 0 0 0x100000 ∧
      ((demoBank false 0).heardAt 0 (.hbm 0 0 0x100000)).sealedAt (.hbm 0 0 0x100000) = false ∧
      (demoBank false 0).isBad (2 ^ 61 + 0x100000) 8 = false ∧ State.writeRefused 0 3 0 = false) ∧
    (∃ t r, ((demoBank true 0xFFFFFF).pkg 0).proxy.at [] 5 = 0 :: [] ∧ (demoBank true 0xFFFFFF).thread 0 = some t ∧ t.wait = .mem r ∧
      r.kind = .atomic ∧ r.locs = [.host 0 7 0x40] ∧ (demoBank true 0xFFFFFF).logMode 0 t = 0 ∧
      (nth r.vals 4).toNat % 2 ^ 56 = 0x40 ∧ (∃ w, (demoBank true 0xFFFFFF).window 0 0x40 = some w ∧ w.offers (nth r.vals 3).toNat r.n = true)) ∧
    (∃ w, (demoBank true 0).window 0 0x40 = some w ∧ w.offers 0 8 = false) ∧ (demoBank true 0).window 0 0x10000 = none :=
  ⟨rfl, ⟨_, _, rfl, by decide⟩, ⟨_, _, rfl, rfl, rfl, rfl, by decide, by decide, rfl, by decide, by decide, rfl⟩,
    ⟨_, _, rfl, rfl, rfl, rfl, rfl, by decide, by decide, _, rfl, by decide⟩, ⟨_, rfl, by decide⟩, rfl⟩

/-- demoBank in a replay, its page sealed or its word bad. -/
theorem witness_SerialisedAtomics_replay :
    let s : State := { demoBank false 0 with ctxs := [(0, { demoCtx with replay := 2 })] }
    let sealed_ : State := { s with pkgs := [(0, { Package.reset 0 with pt := demoPt, sealed := [(0, 1)] })] }
    let bad_ : State := { s with bad := [(2 ^ 61 + 0x100000) / 8] }
    s.banks.at [] ((2 ^ 61 + 0x100000) / 8) = [0] ∧ (∃ t r, s.atomicOf 0 = some (t, r) ∧ (r.locs.headD (.loc 0)).linear = 0) ∧
    (∃ t r, (sealed_.atomicNoted 0 0).atomicOf 0 = some (t, r) ∧ r.held = false) ∧
    (sealed_.atomicNoted 0 0).sealedAt ((sealed_.atomicNoted 0 0).place (.hbm 0 0 0x100000)) = true ∧
    (∃ t r, (bad_.atomicNoted 0 0).atomicOf 0 = some (t, r) ∧ r.held = false ∧ r.n = 8) ∧
    (bad_.atomicNoted 0 0).sealedAt ((bad_.atomicNoted 0 0).place (.hbm 0 0 0x100000)) = false ∧
    (bad_.atomicNoted 0 0).isBad ((bad_.atomicNoted 0 0).place (.hbm 0 0 0x100000)).key 8 = true :=
  ⟨rfl, ⟨_, _, rfl, rfl⟩, ⟨_, _, rfl, rfl⟩, by decide, ⟨_, _, rfl, rfl, rfl⟩, by decide, by decide⟩

/-- R153, R369: an atomic whose page is sealed traps with cause 0x05 in a replay too, before any record is awaited. -/
theorem test_bank_replay_sealed :
    (match exec (.bankReservationGrant ((2 ^ 61 + 0x100000) / 8)) { demoBank false 0 with
        ctxs := [(0, { demoCtx with replay := 2 })], pkgs := [(0, { Package.reset 0 with pt := demoPt, sealed := [(0, 1)] })] } with
      | .next s => (s.thread 0).any fun t => t.cause == 5 && t.tfl
      | _ => false) = true := by decide

/-- A thread with a number of relaxed accesses outstanding. -/
def withRelaxed (n : Nat) : Thread := { withRegs [0, 64, 128] with relaxed := List.replicate n { onItsWay with place := .loc (2 ^ 56 + 512) } }

theorem witness_RelaxedAccesses :
    (demo (withRelaxed 7)).Issues 0 0 8 (entered (withRelaxed 7) 8) ∧
    (demo (withRelaxed 7)).Reads (entered (withRelaxed 7) 8) [1, 2] [] [64, 128] (demo (withRelaxed 7)) ∧
    (demo (withRelaxed 7)).check 0 0 64 4 segR 4 = .ok (2 ^ 56 + 64) ∧ (demo (withRelaxed 7)).check 0 0 128 8 segW 8 = .ok (2 ^ 56 + 128) ∧
    (withRelaxed 7).relaxed.length < 8 ∧ 8 ≤ (withRelaxed 8).relaxed.length ∧
    (∀ x ∈ (withRelaxed 7).relaxed, (demo (withRelaxed 7)).touches x (.loc (2 ^ 56 + 64)) 4 = false ∧
      (demo (withRelaxed 7)).touches x (.loc (2 ^ 56 + 128)) 8 = false) ∧
    (∃ x ∈ (withRelaxed 7).relaxed, (demo (withRelaxed 7)).touches x (.loc (2 ^ 56 + 512)) 4 = true) ∧ (demo (withRelaxed 7)).isBad (2 ^ 56 + 64) 4 = false ∧
    (demo someThread).check 0 0 (va 1 0x100) 4 segR 4 = .ok 0x100 ∧
    (∃ l s2, ((demo someThread).setFull (2 ^ 56 + 128) false).translate 0 0x100 = (.ok l, s2)) ∧
    (demo someThread).check 0 0 (va 1 0x100) 4 segW 4 = .ok 0x100 ∧ ∃ l s2, (demo someThread).translate 0 0x100 = (.ok l, s2) :=
  ⟨demo_issues 8, reads_plain (by decide), rfl, rfl, by decide, by decide, by decide, by decide, by decide, rfl, ⟨_, _, rfl⟩, rfl, _, _, rfl⟩

theorem witness_RelaxedCompletion :
    let l := Loc.loc (2 ^ 56 + 512)
    let s := demo (withRelaxed 1)
    (∃ r, (withRelaxed 1).relaxed = r :: [] ∧ r.missed = false ∧ r.store = true ∧ s.place r.place = l) ∧ s.linked 0 l = true ∧
    ((s.heardAt 0 l).readGood 0 l 4).1 = true ∧ ((({ s with bad := [(2 ^ 56 + 512) / 8] } : State).heardAt 0 l).readGood 0 l 4).1 = false ∧
    (s.heardAt 0 l).sealedAt l = false ∧ (demoSealed.heardAt 0 (.hbm 0 0 0x100000)).sealedAt (.hbm 0 0 0x100000) = true ∧
    (demo { someThread with relFault := some ⟨8, 64⟩ }).thread 0 = some { someThread with relFault := some ⟨8, 64⟩ } ∧
    ((demo someThread).ctx 0).trace = 0 :=
  ⟨⟨_, rfl, rfl, rfl, rfl⟩, by decide, by decide, by decide, by decide, by decide, rfl, rfl⟩

theorem witness_RelaxedCompletion_held :
    let t : Thread := { someThread with relaxed := [{ onItsWay with place := .hbm 1 0 0x100000, held := true }] }
    (∃ r, t.relaxed = r :: [] ∧ r.held = true ∧ r.missed = false ∧ (cut (demo t)).linked 0 ((cut (demo t)).place r.place) = false ∧
      (demo t).linked 0 ((demo t).place r.place) = true) ∧ onItsWay.held = false :=
  ⟨⟨_, rfl, rfl, rfl, by decide, by decide⟩, rfl⟩

theorem witness_Sealing :
    let w := (demo someThread).wait 0 (entered someThread) (.mem { kind := .sealq, word := wordOf (.sealq 0 0 3 1), d := 3, vals := [va 1 0], locs := [.hbm 0 0 0x100000] })
    (demo someThread).check 0 0 (va 1 0) 0x10000 segW 1 = .ok 0 ∧ laRegion (canonLa 0 0) = 0 ∧ 0 + 0x10000 ≤ 2 ^ 43 ∧
    (∃ l, ((demo someThread).cluster 0).pagesOf (0 + 0x10000) (0x10000 / 65536 + 2) 0 [] = .all l ∧ wholePages 0 (0 + 0x10000) l = true ∧
      l.map (·.1) = [0]) ∧
    (((demo someThread).pkg 0).seals.any fun o => o.pages.head? == some 0) = false ∧
    (∃ w e, ((demo someThread).pkg 0).walk 0 0 = some (w, e) ∧ e.moving = false ∧ ((demo someThread).pkg 0).sealed.at 0 e.vpn = 0 ∧
      (demoSealed.pkg 0).sealed.at 0 e.vpn = 1) ∧
    (demo someThread).check 0 0 (va 0 0) 1 segR 1 = .ok (2 ^ 56) ∧ laRegion (canonLa 0 (2 ^ 56)) ≠ 0 ∧
    (demo someThread).check 0 0 (va 1 0) 1 segR 1 = .ok 0 ∧ (∃ s2, (demo someThread).translate 0 0 = (.ok (.hbm 0 0 0x100000), s2)) ∧
    w.linked 0 (w.place (.hbm 0 0 0x100000)) = true ∧ State.writeRefused 0 3 (BitVec.ofNat 64 (w.sealState 0 0)) = false := by
  have h : ((demo someThread).cluster 0).tlbFind 0 = some { vpn := 0, big := false, pfn := 16, hot := 0, from_ := 0 } := rfl
  exact ⟨by decide, by decide, by decide, ⟨[(0, 65536)], by simp [Cluster.pagesOf, h, pageUnits], by decide, rfl⟩, by decide,
    ⟨_, _, rfl, rfl, rfl, rfl⟩, rfl, by decide, rfl, ⟨_, rfl⟩, by decide, rfl⟩

/-- demo with a seal (or unseal) of page 0 in progress for its thread, the page's record as given. -/
def demoSeal (undo : Bool) (record page : Nat) : State :=
  let op : SealOp := { pkg := 0, undo := undo, pages := [page], tid := some 0, conn := 0, tag := 0 }
  { demo (waitsFor { kind := .sealing, vals := [va 1 0], n := 0 }) with
    pkgs := [(0, { Package.reset 0 with pt := demoPt, seals := [op], sealed := [(0, record)] })] }

theorem witness_Sealing_pages :
    (∃ op t r w e, ((demoSeal true 1 0).pkg 0).seals[0]? = some op ∧ op.pages = 0 :: [] ∧ op.tid = some 0 ∧ (demoSeal true 1 0).thread 0 = some t ∧
      t.wait = .mem r ∧ r.kind = .sealing ∧ ((demoSeal true 1 0).pkg 0).walk 0 0 = some (w, e) ∧ e.moving = false ∧ op.undo = true ∧
      ((((demoSeal true 1 0).pkg 0).seals.take 0).any fun o => o.pages.head? == some 0) = false ∧
      ((demoSeal true 1 0).pkg 0).sealed.at 0 e.vpn = 1) ∧
    (∃ op, ((demoSeal false 2 0).pkg 0).seals[0]? = some op ∧ op.undo = false) ∧ ((demoSeal false 2 0).pkg 0).sealed.at 0 0 = 2 ∧
    ((demoSeal true 2 0).pkg 0).sealed.at 0 0 = 2 ∧ ((demoSeal false 0 0).pkg 0).sealed.at 0 0 ≠ 2 ∧ ((demoSeal true 0 0).pkg 0).sealed.at 0 0 = 0 ∧
    ((demoSeal true 0 65536).pkg 0).walk 0 65536 = none :=
  ⟨⟨_, _, _, _, _, rfl, rfl, rfl, rfl, rfl, rfl, rfl, rfl, rfl, rfl, rfl⟩, ⟨_, rfl, rfl⟩, rfl, rfl, by decide, rfl, by decide⟩

/-- demo with page 0 as given, its thread held at a pair or at a word. -/
def demoHeld (record w : Nat) : State :=
  { demo { someThread with wait := .held .fetch } with
    pkgs := [(0, { Package.reset 0 with pt := demoPt, sealed := [(0, record)] })], mem := Mem.write [] (2 ^ 61 + 0x100100) 4 w }

theorem witness_Sealing_fetch :
    (demoHeld 1 0xFC040000).thread 0 = some { someThread with wait := .held .fetch } ∧
    (demoHeld 1 0xFC040000).fetchOpen 0 someThread someThread.pc = true ∧ (demoHeld 0 0xFC040000).fetchOpen 0 someThread someThread.pc = false ∧
    (∃ w, (demoHeld 1 0xFC040000).wordAt 0 someThread someThread.pc = some w ∧ w.toNat / 2 ^ 26 = 63) ∧
    (demoHeld 1 0xFC040000).fetchOpen 0 someThread (someThread.pc + 4) = true ∧
    (demoHeld 1 0xFC040000).check 0 0 someThread.pc 4 segX 4 = .ok 0x100 :=
  ⟨rfl, rfl, rfl, ⟨_, rfl, by decide⟩, rfl, rfl⟩

/-- demo with one message in flight, to core 0. -/
def withMsg (b : Payload) : State := { demo someThread with net := [{ src := 1, dst := 0, chan := 0, t := 0, out := true, body := b }] }

theorem msg_here (b : Payload) : ∃ m s1, (withMsg b).deliver 0 = some (m, s1) ∧ m.body = b := ⟨_, _, rfl, rfl⟩

def someChild : Child := { packet := List.replicate 64 0, pc := va 1 0x200, join := none, sup := false, ctx := 0 }

/-- demo with a number of children on the deque and in the overflow queue of core 0. -/
def demoDeque (n o : Nat) : State :=
  let k := { demoCore with deque := List.replicate n someChild, overflow := [(0, List.replicate o (.child someChild))] }
  { demo someThread with cores := [(0, k)] }

theorem witness_SpawnAndExit :
    (demo someThread).check 0 0 64 64 segR 64 = .ok (2 ^ 56 + 64) ∧ (va 1 0x200).toNat % 4 = 0 ∧ (demo someThread).isBad (2 ^ 56 + 64) 64 = false ∧
    workLegal ((demo someThread).mem.bytes (2 ^ 56 + 64) 64) = true ∧ (demoDeque 63 0).childPlace 0 0 = some false ∧
    (demoDeque 64 1).childPlace 0 0 = some true ∧ (demoDeque 64 2).childPlace 0 0 = none ∧
    (demo someThread).check 0 0 128 8 (segR ||| segW) 8 = .ok (2 ^ 56 + 128) ∧ laCore (2 ^ 56 + 128) = 0 ∧
    (demo someThread).check 0 0 (va 2 0x100080) 8 (segR ||| segW) 8 = .ok (2 ^ 56 + 0x100080) ∧ laCore (2 ^ 56 + 0x100080) ≠ 0 :=
  ⟨rfl, by decide, rfl, by decide, by decide, by decide, by decide, rfl, rfl, rfl, by decide⟩

theorem witness_SpawnAndExit_counter :
    (demo someThread).isBad (2 ^ 56 + 128) 8 = false ∧
    ({ demo someThread with bad := [(2 ^ 56 + 128) / 8] } : State).check 0 0 128 8 (segR ||| segW) 8 = .ok (2 ^ 56 + 128) ∧
    ({ demo someThread with bad := [(2 ^ 56 + 128) / 8] } : State).isBad (2 ^ 56 + 128) 8 = true ∧
    (demo someThread).check 0 0 (va 1 0x80) 8 (segR ||| segW) 8 = .ok 0x80 ∧ laRegion 0x80 ≠ 1 := by decide

/-- What a thread that spawned waits for, before the acknowledgement and after it. -/
def spawnReq (n : Nat) : Req :=
  { kind := .spawnAck, locs := [.loc (2 ^ 56 + 128)], n := n,
    vals := va 1 0x200 :: (List.range 8).map fun i => BitVec.ofNat 64 (field (List.replicate 64 0) (8 * i) 8) }

/-- R167, R171: a spawn with a counter of the own core waits for that core's message too, with its place reserved. -/
theorem test_spawn_counter :
    (match exec (.spawn 0 0 3 1 2) (demo (withRegs [0, 64, 2 ^ 61 + 0x200, 128])) with
      | .next s => s.net.length == 1 && (s.core 0).dequeRes.at 0 0 == 1 && (s.core 0).deque.isEmpty && s.mem.read (2 ^ 56 + 128) 8 == 0
      | _ => false) = true := by decide

/-- A sequencer with one entry, in no body. -/
def busySeq : Seq := { ents := (openSeq false).ents.map fun e => { e with word := 0xAC041000 }, frozen := false }

theorem witness_SpawnAndExit_end :
    (∃ t r r2, (demo (waitsFor (spawnReq 1))).thread 0 = some t ∧ t.wait = .mem r ∧ r.kind = .spawnAck ∧ r.held = false ∧
      r.locs = [.loc (2 ^ 56 + 128)] ∧ (List.replicate 64 (0 : Byte)).length = 64 ∧
      r.vals = va 1 0x200 :: (List.range 8).map (fun i => BitVec.ofNat 64 (field (List.replicate 64 0) (8 * i) 8)) ∧ r.n ≠ 0 ∧
      (waitsFor (spawnReq 0)).wait = .mem r2 ∧ r2.n = 0) ∧
    ((demoDeque 63 0).core 0).deque.length + (((demoDeque 63 0).core 0).dequeRes.map (·.2)).sum < 64 ∧
    (openSeq false).isOpen = true ∧ (openSeq false).frozen = false ∧ (openSeq true).frozen = true ∧
    busySeq.isOpen = false ∧ busySeq.ents ≠ [] ∧ busySeq.frozen = false ∧
    ({ busySeq with frozen := true } : Seq).isOpen = false ∧
    (entered someThread).seq.isOpen = false ∧ (entered someThread).seq.ents = [] ∧ (entered someThread).relaxed = [] ∧ (entered someThread).join = none ∧
    ({ someThread with join := some 64 } : Thread).join = some 64 ∧
    (∃ s2, (demo someThread).traceSoft 0 0 2 { ts := 0, src := 0, kind := 0x83, seq := 0, obj := 0, pc := 0x100, out := 1 } = some s2) ∧
    ∃ m s1, (withMsg (.counter (2 ^ 56 + 128) false none)).deliver 0 = some (m, s1) ∧ m.body = .counter (2 ^ 56 + 128) false none :=
  ⟨⟨_, _, _, rfl, rfl, rfl, rfl, rfl, rfl, rfl, by decide, rfl, rfl⟩, by decide, rfl, rfl, rfl, rfl, by decide, rfl, rfl, rfl, rfl, rfl, rfl, rfl, ⟨_, rfl⟩, msg_here _⟩

theorem witness_MessagesAndWakes :
    bits 0x80000001 30 28 = 0 ∧ (0x80000001 : Nat).testBit 31 = true ∧ (1 : Nat).testBit 31 = false ∧ bits 1 27 24 = 0 ∧
    (demo someThread).coreOk (0x80000001 % 2 ^ 24) = true ∧ (demo someThread).holdsSlots 0 (0x80000001 % 2 ^ 24) = true ∧
    bits 0x10000000 30 28 ≠ 0 ∧ bits 0x01000000 27 24 ≠ 0 ∧ (entered someThread).relaxed = [] ∧
    (∀ e ∈ (demo someThread).net, ¬ (e.src = 0 ∧ e.dst = 1 ∧ e.chan = 0)) ∧ (demo someThread).fab.reaches (placeDie 0) (placeDie 1) = true := by decide

theorem witness_MessagesAndWakes_arrivals :
    (∃ t r, (demo (waitsFor { kind := .send, vals := [1], n := 2 })).thread 0 = some t ∧ t.wait = .mem r ∧ r.kind = .send ∧
      r.locs = [] ∧ r.n = 2) ∧
    (∃ m s1, (withMsg (.wake 3 0 7 none)).deliver 0 = some (m, s1) ∧ m.body = .wake 3 0 7 none) ∧
    ((demo someThread).resid 0 0).isSome = true ∧
    (∃ m s1, (withMsg (.handler 0 someThread none)).deliver 0 = some (m, s1) ∧ m.body = .handler 0 someThread none) ∧
    (demo someThread).running 0 = true ∧ (demo someThread).holdsSlots 0 0 = true ∧ (∃ s2, (demo someThread).arrive 0 0 (.handler someThread) = some s2) ∧
    (demoDeque 0 64).arrive 0 0 (.handler someThread) = none :=
  ⟨⟨_, _, rfl, rfl, rfl, rfl, rfl⟩, msg_here _, rfl, msg_here _, rfl, rfl, ⟨_, rfl⟩, rfl⟩

theorem witness_MessagesAndWakes_waitm :
    ((({ demo someThread with cores := [(0, { demoCore with wakes := [(0, (true, 9))] })] } : State).core 0).wakes.at (false, 0) (wakeKey 0 0)).1 = true ∧
    (((demo someThread).core 0).wakes.at (false, 0) (wakeKey 0 0)).1 = false ∧
    (demo someThread).Permits (demo someThread) 0 someThread 0x0C (slotObj 0) 9 ∧
    State.writeRefused 0 3 9 = false := ⟨rfl, rfl, ⟨none, rfl⟩, rfl⟩

/-- demo in a yield hold. -/
def demoYield (k : Nat) : State := demo { someThread with wait := .held (.yield k) }

theorem witness_YieldsAndArrivals_turn :
    (∃ t, (demoYield 0).thread (16 * 0 + (demoYield 0).clock % 16) = some t ∧ t.wait = .held (.yield 0)) ∧
    (∃ t, (demoYield 2).thread (16 * 0 + (demoYield 2).clock % 16) = some t ∧ t.wait = .held (.yield (1 + 1))) ∧
    (∀ k ∈ [0, 2], (demoYield k).agenda = [] ∧ (demoYield k).nextCore = some 0 ∧ ((demoYield k).core 0).rotShr = false) :=
  ⟨⟨_, rfl, rfl⟩, ⟨_, rfl, rfl⟩, by decide⟩

theorem witness_YieldsAndArrivals :
    (demo { someThread with wait := .held (.yield 0) }).thread 0 = some { someThread with wait := .held (.yield 0) } ∧
    (∃ m s1, (withMsg (.migrate 0 someThread 17 0 true)).deliver 0 = some (m, s1) ∧ m.body = .migrate 0 someThread 17 0 true) ∧
    (∃ s2, (withMsg (.migrate 0 someThread 17 0 true)).arrive 0 0 (.thread someThread.past 17) = some s2) ∧
    (demoDeque 0 64).arrive 0 0 (.thread someThread 17) = none ∧
    (∃ m s1, (withMsg (.refused someThread 0 5)).deliver 0 = some (m, s1) ∧ m.body = .refused someThread 0 5) :=
  ⟨rfl, msg_here _, ⟨_, rfl⟩, rfl, msg_here _⟩

/-- demo with a barrier of 3 at core 0, at which the threads of some slots wait. -/
def demoBar (l : List Nat) : State :=
  { demo someThread with
    threads := [(0, someThread), (1, { someThread with wait := .sync }), (2, { someThread with wait := .sync })]
    cores := [(0, { demoCore with bars := [(5, [{ count := 3, arrived := l, since := 0, t := 0 }])] })] }

theorem witness_CountersAndBarriers :
    (demo someThread).ownsCounter 0 0 63 = true ∧
    ({ demo someThread with ctxs := [(0, { demoCtx with map := [(0, { demoResid with ccount := 63 })] })] } : State).ownsCounter 0 0 63 = false ∧
    0 ≤ ((((demo someThread).core 0).counters.at 0 63) - (0 : Word).setWidth 32).toInt ∧
    ((((demo someThread).core 0).counters.at 0 63) - (1 : Word).setWidth 32).toInt < 0 ∧ (demo someThread).logMode 0 someThread ≠ 2 ∧
    (demo someThread).Permits (demo someThread) 0 someThread 6 (counterObj 0 63) 0 ∧ State.writeRefused 0 3 0 = false ∧
    (entered someThread).relaxed = [] ∧ (entered { someThread with relaxed := [onItsWay] }).relaxed ≠ [] ∧
    (0x105 : Word).getLsbD 8 = true ∧ (5 : Word).getLsbD 8 = false ∧ ((demo someThread).core 0).bars.at [] 5 = [] ∧
    max 1 (min 16 ((3 : Word).toNat % 1024)) ≠ 1 ∧ max 1 (min 16 ((0 : Word).toNat % 1024)) = 1 ∧
    (∃ x, ((demoBar [1]).core 0).bars.at [] 5 = [x] ∧ x.arrived.length + 1 < x.count) ∧
    (∃ x, ((demoBar [1, 2]).core 0).bars.at [] 5 = [x] ∧ x.arrived.length + 1 = x.count ∧ x.arrived.Nodup ∧
      ∀ i ∈ x.arrived, i ≠ 0 ∧ ∃ u, (demoBar [1, 2]).thread i = some u ∧ (demoBar [1, 2]).logMode i u = 0) :=
  ⟨rfl, rfl, by decide, by decide, by decide, ⟨none, rfl⟩, rfl, rfl, by decide, rfl, rfl, rfl, by decide, by decide, ⟨_, rfl, by decide⟩,
    _, rfl, rfl, by decide, fun i h => by
      rcases List.mem_cons.1 h with rfl | h
      · exact ⟨by decide, _, rfl, by decide⟩
      · rcases List.mem_cons.1 h with rfl | h
        · exact ⟨by decide, _, rfl, by decide⟩
        · exact nomatch h⟩

/-- demo whose cluster has a barrier of 2 at which its threads arrived at cycle 0. -/
def demoClusterBar (l : List Nat) (now : Nat) : State :=
  { demo { someThread with wait := .sync } with
    threads := [(0, { someThread with wait := .sync }), (1, { someThread with wait := .sync })]
    clusters := [(0, { Cluster.reset with bars := [(3, [{ count := 2, arrived := l, since := 0, t := 0 }])] })], clock := now }

theorem witness_CountersAndBarriers_cluster :
    (∃ m s1, (withMsg (.barArrive 3 0 2)).deliver 0 = some (m, s1) ∧ m.body = .barArrive 3 0 2) ∧
    (∀ b ∈ [({ count := 2, arrived := [0, 1], since := 0, t := 0 } : Barrier)], b.count ≤ b.arrived.length) ∧
    (∃ x, ((demoClusterBar [0] 24).cluster 0).bars.at [] 3 = x :: [] ∧ x.arrived.length < x.count) ∧
    (∃ x, ((demoClusterBar [0, 1] 23).cluster 0).bars.at [] 3 = x :: [] ∧ (demoClusterBar [0, 1] 23).clock < x.since + 24) ∧
    (∃ x, ((demoClusterBar [0, 1] 24).cluster 0).bars.at [] 3 = x :: [] ∧ x.count ≤ x.arrived.length ∧
      x.since + 24 ≤ (demoClusterBar [0, 1] 24).clock ∧ x.arrived.Nodup ∧
      ∀ i ∈ x.arrived, ∃ u, (demoClusterBar [0, 1] 24).thread i = some u ∧ (demoClusterBar [0, 1] 24).logMode i u = 0) :=
  ⟨msg_here _, by decide, ⟨_, rfl, by decide⟩, ⟨_, rfl, by decide⟩, _, rfl, by decide, by decide, by decide, fun i h => by
      rcases List.mem_cons.1 h with rfl | h
      · exact ⟨_, rfl, by decide⟩
      · rcases List.mem_cons.1 h with rfl | h
        · exact ⟨_, rfl, by decide⟩
        · exact nomatch h⟩

/-- demo whose slot 0 is Vacant, with a number of children on its deque and an arrival that waits. -/
def demoVacant (n : Nat) (a : List Arrival) : State :=
  { demoDeque n 0 with
    threads := [], cores := [(0, { demoCore with deque := List.replicate n someChild, ingress := if a = [] then [] else [(0, a)] })] }

theorem witness_FindingWork :
    ((List.range 4).find? fun x => (demoVacant 1 []).freeFor 0 x) = some 0 ∧ (demoVacant 1 []).waiting 0 0 = [] ∧
    bottomOf ((demoVacant 1 []).core 0).deque 0 = some 0 ∧ ((demoVacant 1 []).core 0).deque[0]? = some someChild ∧
    (∃ s2, ((demoVacant 1 []).modCore 0 fun x => { x with deque := x.deque.eraseIdx 0 }).bind 0 0 7 0 someChild.thread = some s2) ∧
    (∃ a r s2, (demoVacant 0 [.handler someThread]).waiting 0 0 = a :: r ∧ (demoVacant 0 [.handler someThread]).freeSlot 0 0 = some 0 ∧
      ((demoVacant 0 [.handler someThread]).unwait 0 0 0).bindArrival 0 0 a = some s2) ∧
    bottomOf ((demoVacant 0 []).core 0).deque 0 = none ∧ ((demoVacant 0 []).core 0).steal.find? 0 = none ∧
    (∃ y r, (demoVacant 0 []).victims 0 0 = y :: r) ∧ ((demoVacant 0 []).ctx 0).replay = 0 ∧
    ((demoVacant 0 []).ctx 0).trace.getLsbD 2 = false :=
  ⟨rfl, rfl, rfl, rfl, ⟨_, rfl⟩, ⟨_, _, _, rfl, rfl, rfl⟩, rfl, rfl, ⟨_, _, rfl⟩, rfl, rfl⟩

theorem witness_FindingWork_steal :
    workLocal someChild.packet = false ∧ (∃ m s1, (withMsg (.steal 0 1 0 2)).deliver 0 = some (m, s1) ∧ m.body = .steal 0 1 0 2) ∧
    topOf ((demoDeque 2 0).core 0).deque 0 = some 0 ∧ topOf ((demo someThread).core 0).deque 0 = none ∧
    (∃ m s1, (withMsg (.stolen 0 0 3 1 none)).deliver 0 = some (m, s1) ∧ m.body = .stolen 0 0 3 1 none) ∧
    (∃ s2, (((withMsg (.stolen 0 0 3 1 none)).unreserve 3).modCore 0 fun x => { x with steal := x.steal.del 0 }).bind 3 0 8 1 someChild.thread = some s2) ∧
    (demo someThread).running 0 = true ∧ ((demo someThread).core 1).disabled = false ∧
    (∃ z, (({ withMsg (.stolen 0 0 3 1 none) with cores := [(0, { demoCore with steal := [(0, { victims := [2], asked := true, since := 0 })] })] } : State).core 0).steal.find? 0 =
      some z) ∧
    (∃ y, (({ demo someThread with cores := [(0, { demoCore with steal := [(0, { victims := [], asked := false, since := 0 })] })] } : State).core 0).steal.find?
      (0 % 4) = some y ∧ y.asked = false ∧ y.victims = []) :=
  ⟨by decide, msg_here _, rfl, rfl, msg_here _, ⟨_, rfl⟩, rfl, rfl, ⟨_, rfl⟩, _, rfl, rfl, rfl⟩

/-- A Halting context whose threads have gone. -/
def demoHalting : State := { demo someThread with threads := [], ctxs := [(0, { demoCtx with st := .halting })] }

theorem witness_FindingWork_halt :
    (demoHalting.ctx 0).st = .halting ∧ demoHalting.threadsOf 0 = [] ∧ demoHalting.copying 0 = false ∧
    (∀ o ∈ demoHalting.fab.flight, o.cx ≠ 0) ∧ (demoHalting.ctx 0).written = true :=
  ⟨rfl, rfl, rfl, fun _ h => (nomatch h), rfl⟩

/-- A Halting context, a copy command of which is on its way to an engine. -/
theorem witness_FindingWork_copying :
    let m : Msg := { src := 0, dst := 0, chan := 0, t := 0, out := true, body := .copy 0 { core := 0, ctx := 0, kind := 0, descs := [], val := 0, eng := 0, seq := 0 } 0 }
    ({ demoHalting with net := [m] } : State).copying 0 = true ∧ ({ demoHalting with net := [m] } : State).threadsOf 0 = [] := by decide

/-- A service core's thread, slot 0 of core 32, as the running one, with the registers of withRegs. -/
def demoService (l : List Nat) : State :=
  { demo someThread with threads := [(512, withRegs l)], cur := 512, cores := [(32, { demoCore with segs := [(0, { base := 0, limit := 0x80000, rights := 7, kind := 0 } :: demoSegs.tail)] })] }

def someImage (frame : Nat) : List Byte := leBytes 8 (2 ^ 63 + 1) ++ leBytes 8 frame ++ List.replicate 16 0

/-- demo with walks at its cluster. -/
def demoWalks (l : List Walk) : State := { demo someThread with clusters := [(0, { Cluster.reset with walks := l })] }

def aWalk (off : Nat) (st : WalkState) : Walk := { cl := 0, off := off, waiters := [(.thread 0, off)], since := 0, st := st, t := 0 }

theorem witness_PageWalks :
    (demoWalks [aWalk 0 .walking]).walksAt (homeCore 0 0) .walking = [aWalk 0 .walking] ∧
    (demoWalks [aWalk 0 .walking]).walksAt (homeCore 0 0) .queued = [] ∧
    ((demoWalks [aWalk 0 .walking]).setWalk 0 0 .answered).walksAt (homeCore 0 0) .queued = [] ∧
    (demoWalks [aWalk 0 .queued]).walksAt (homeCore 0 0) .walking = [] ∧
    (demoWalks [aWalk 0 .queued]).walksAt (homeCore 0 0) .queued = [aWalk 0 .queued] ∧
    (demoWalks (List.replicate 4 (aWalk 0 .queued))).walksAt (homeCore 0 0) .queued = List.replicate 4 (aWalk 0 .queued) ∧
    (demoWalks (List.replicate 4 (aWalk 0 .queued))).walksAt (homeCore 0 0) .walking = [] := by decide

theorem witness_PageWalks_wake :
    let s : State := { withMsg (.walkAnswer 0 0 none) with
      threads := [(0, { someThread with wait := .page 0 0 })], clusters := [(0, { Cluster.reset with walks := [aWalk 0 .answered] })] }
    (∃ m s1, s.deliver 0 = some (m, s1) ∧ m.body = .walkAnswer 0 0 none) ∧
    (∃ m s1, (withMsg (.walkAnswer 0 0 (some { vpn := 0, big := false, pfn := 16, hot := 0, from_ := 0 }))).deliver 0 = some (m, s1) ∧
      m.body = .walkAnswer 0 0 (some { vpn := 0, big := false, pfn := 16, hot := 0, from_ := 0 })) ∧
    s.thread 0 = some { someThread with wait := .page (clPkg 0) 0 } ∧
    ((s.cluster 0).walks.filter fun w => w.off / 65536 == 0 / 65536).flatMap (·.waiters) = [(.thread 0, 0)] ∧
    (({ s with clusters := [(0, { Cluster.reset with walks := [aWalk 0 .answered] })] } : State).cluster 0).tlbFind 0 = none ∧
    0 / 65536 ≠ 0x10000 / 65536 :=
  ⟨⟨_, _, rfl, rfl⟩, msg_here _, rfl, rfl, by decide, by decide⟩

/-- A walk that a hardware unit waits for. -/
def unitWalk (who : Waiter) : Walk := { aWalk 0 .answered with waiters := [(who, 0)] }

theorem witness_PageWalks_units :
    (∀ who ∈ [Waiter.engine 0, .slot 3, .segs 0 0, .port 0],
      (((demoWalks [unitWalk who]).cluster 0).walks.filter fun w => w.off / 65536 == 0 / 65536).flatMap (·.waiters) = [(who, 0)]) ∧
    ((demoWalks [unitWalk (.engine 0)]).cluster 0).tlbFind 0 = none ∧
    ({ vpn := 0, big := false, pfn := 16, hot := 0, from_ := 0 } : TlbEntry).covers 0 = true ∧
    ((demo someThread).cluster 0).walks = [] ∧ ((demoWalks [aWalk 0 .queued]).cluster 0).walks = [aWalk 0 .queued] ∧
    ((demoWalks [aWalk 0 .queued]).pkg 0).samePage 0 0x100 0 = true ∧ (Waiter.engine 0, 0x100) ∉ (aWalk 0 .queued).waiters := by decide

/-- R294: an engine's miss on the page that a slot waits for joins its walk. -/
theorem test_walk_merged :
    (((demoWalks [aWalk 0 .queued]).askWalk 0 0x100 (.engine 0)).cluster 0).walks.map (·.waiters) = [[(.thread 0, 0), (.engine 0, 0x100)]] := by
  decide

theorem witness_PageTableChanges_issue :
    (demoService [0, 0, 0]).Issues 0 0 4 ((demoService [0, 0, 0]).turned (withRegs [0, 0, 0]) 4) ∧ isService (coreOf 512) = true ∧
    (demoService [0, 0, 0]).Reads ((demoService [0, 0, 0]).turned (withRegs [0, 0, 0]) 4) [1, 2] [3] [0, 0] (demoService [0, 0, 0]) ∧
    laRegion (canonLa 0 0) = 0 ∧ laRegion (canonLa 0 (2 ^ 56)) ≠ 0 ∧
    (demoService []).check 32 0 64 32 segR 32 = .ok (2 ^ 56 + 32 * 2 ^ 20 + 64) ∧ laCore (2 ^ 56 + 32 * 2 ^ 20 + 64) = 32 ∧
    (demoService []).isBad (2 ^ 56 + 32 * 2 ^ 20 + 64) 32 = false :=
  ⟨issues_of 4 rfl, rfl, reads_plain (by decide), rfl, by decide, rfl, rfl, rfl⟩

/-- demoService with page 0 in both replicas. -/
def demoBoth : State :=
  { demoService [] with pkgs := [(0, { Package.reset 0 with
    pt := [(wayIndex 0 (homeOf 0) (bucketSmall 0), { tagw := 2 ^ 63, frame := 16, sw := 0 }), (wayIndex 1 (homeOf 0) (bucketSmall 0), { tagw := 2 ^ 63, frame := 16, sw := 0 })] })] }

theorem witness_PageTableChanges_request :
    (demoService [0, 64]).check 32 0 64 32 segW 32 = .ok (2 ^ 56 + 32 * 2 ^ 20 + 64) ∧ laRegion (2 ^ 56 + 32 * 2 ^ 20 + 64) = 1 ∧
    ((demoService []).beginMove 0 0 0x20000 17 512 3).isOk = false ∧ (demoBoth.beginMove 0 0 0 0x40000 512 3).isOk = true ∧
    ((demoService []).uninstall 0 0 0x20000).isSome = true ∧ ((demoService []).install 0 (someImage 0x10)).isSome = true ∧
    State.writeRefused 512 3 (BitVec.ofNat 64 0) = false ∧ State.writeRefused 512 3 1 = false :=
  ⟨rfl, rfl, by decide, by decide, by decide, by decide, rfl, rfl⟩

theorem witness_PageTableChanges_replies :
    (∀ k ∈ [ReqKind.hwalk, .hins, .hdel, .hotr, .tlbi, .pgmv], ∃ t r, ({ demoService [] with
      threads := [(512, waitsFor { kind := k, d := 3, vals := [0x20000, 0] })] } : State).thread 512 = some t ∧
      t.wait = .mem r ∧ r.kind = k ∧ r.locs = [] ∧ r.n = 0 ∧ nth r.vals 1 = 0 ∧ State.writeRefused 512 r.d 0 = false) ∧
    ((demo someThread).pkg 0).walk 0 0x20000 = none ∧ ((demo someThread).pkg 0).walk 0 0 ≠ none ∧
    imageLegal [] = false ∧ imageLegal (someImage 0x10) = true ∧
    sameWay ((demo someThread).pkg 0).pt ((Pte.ofImage (someImage 0x10)).base 0) (Pte.ofImage (someImage 0x10)) = none ∧
    (freeWay ((demo someThread).pkg 0).pt ((Pte.ofImage (someImage 0x10)).base 0)).isSome = true ∧
    (freeWay ((demo someThread).pkg 0).pt ((Pte.ofImage (someImage 0x10)).base 1)).isSome = true ∧
    overlapsOther ((demo someThread).pkg 0).pt (Pte.ofImage (someImage 0x10)) = false ∧
    ((demo someThread).install 0 (someImage 0x10)).isSome = true :=
  ⟨fun k _ => ⟨_, _, rfl, rfl, rfl, rfl, rfl, rfl, rfl⟩, by decide, by decide, rfl, by decide, by decide, by decide, by decide, by decide, by decide⟩

/-- demo whose page 0 has its entry in both replicas, moving or not. -/
def demoMoving (tagw : Nat) : State :=
  let e : Pte := { tagw := BitVec.ofNat 64 tagw, frame := 16, sw := 0 }
  { demo (waitsFor { kind := .pgmv, d := 3, vals := [0, 0], n := 1 }) with
    pkgs := [(0, { Package.reset 0 with
      pt := [(wayIndex 0 (homeOf 0) (bucketSmall 0), e), (wayIndex 1 (homeOf 0) (bucketSmall 0), e)]
      moves := [{ vpn := 0, old := 16, new := 17, tid := 0, d := 3 }] })] }

theorem witness_PageTableChanges_move :
    ∃ m i e t r j y, ((demoMoving (2 ^ 63)).pkg (0 % 8192)).moves[0 / 8192]? = some m ∧
      ((demoMoving (2 ^ 63)).pkg 0).walk 0 (m.vpn * 65536) = some (i, e) ∧ ((demoMoving (2 ^ 63)).pkg 0).walk 1 (m.vpn * 65536) = some (j, y) ∧
      e.moving = false ∧ (demoMoving (2 ^ 63)).thread m.tid = some t ∧ t.wait = .mem r ∧ r.kind = .pgmv ∧ r.n = 1 ∧
      State.writeRefused m.tid r.d 0 = false ∧
      ∃ w x, ((demoMoving (2 ^ 63 + 2 ^ 61)).pkg 0).walk 0 0 = some (w, x) ∧ x.moving = true :=
  ⟨_, _, _, _, _, _, _, rfl, rfl, rfl, rfl, rfl, rfl, rfl, rfl, rfl, _, _, rfl, rfl⟩

def anEntry (w : Word32) : SeqEntry := { word := w, pc := va 1 0x100, shb := 0x400, rnd := 0, scl := 0, idx := 0, pass := 0, acc := [], recs := [] }

/-- A thread whose sequencer holds a vloop, a number of copies behind it, or copies alone. -/
def withSeq (isOpen : Bool) (n : Nat) (frozen : Bool) : Thread :=
  { someThread with seq := { ents := (if isOpen then [anEntry 0xB8063000] else []) ++ List.replicate n (anEntry 0xAC041000), frozen := frozen } }

theorem witness_VectorPushes :
    (entered (withSeq false 15 false)).seq.frozen = false ∧ (entered (withSeq false 15 false)).seq.ents.length < 16 ∧
    (entered (withSeq true 13 false)).seq.isOpen = true ∧ (entered (withSeq true 13 false)).seq.openLen < 14 ∧
    14 ≤ (entered (withSeq true 14 false)).seq.openLen ∧ 16 ≤ (entered (withSeq false 16 false)).seq.ents.length ∧
    (∀ x ∈ (entered (withSeq false 15 false)).seq.ents, pcHigh x.pc = pcHigh (entered (withSeq false 15 false)).pc) := by decide

theorem witness_VectorLoops :
    (entered (withSeq true 1 false)).seq.isOpen = true ∧ (entered (withSeq true 1 false)).seq.openLen ≠ 0 ∧
    (entered (withSeq false 1 false)).seq.isOpen = false ∧ (entered (withSeq false 0 false)).seq.ents = [] ∧
    (entered (withSeq false 1 false)).seq.ents ≠ [] ∧ (entered (withSeq false 1 true)).seq.frozen = true ∧
    (entered (withSeq false 1 true)).sup = true ∧ PushedMember 0 0 2 1 0 0 0 (.vcopy 0 0 2 1) ∧
    (demo { someThread with vecFault := some (9, 4) }).thread 0 = some { someThread with vecFault := some (9, 4) } ∧
    ((demo someThread).ctx 0).trace = 0 := ⟨rfl, by decide, rfl, rfl, by decide, rfl, rfl, by simp [PushedMember], rfl, rfl⟩

/-- A shape record: a base, a format code and the length and stride of its dimension 0. -/
def aShape (base fmt n stride : Nat) : Nat := base + fmt * 2 ^ 32 + n * 2 ^ 64 + stride * 2 ^ 80 + 2 ^ 112 + 2 ^ 160 + 2 ^ 208

/-- demo with a vector instruction at the head of the sequencer and the records of h0, h1, ... -/
def demoVecs (w : Word32) (recs : List Nat) : State :=
  { demo { someThread with seq := { ents := [anEntry w], frozen := false } } with
    mem := (List.range recs.length).foldl (fun m i => Mem.write m (2 ^ 56 + 0x400 + 32 * i) 32 (recs.getD i 0)) [] }

/-- The shapes that its entry's records hold. -/
def shapesOf (w : Word32) (recs : List Nat) : List Shape :=
  match (demoVecs w recs).vCheck 0 0 (anEntry w) 0 with
  | .ok l => l.filterMap parseShape
  | .error _ => []

theorem map_some_filterMap {α β : Type} (f : α → Option β) (l : List α) (h : l.all (fun x => (f x).isSome) = true) :
    l.map f = (l.filterMap f).map some := by
  induction l with
  | nil => rfl
  | cons a r ih =>
    rw [List.all_cons, Bool.and_eq_true] at h
    obtain ⟨b, hb⟩ := Option.isSome_iff_exists.1 h.1
    rw [List.map_cons, List.filterMap_cons_some hb, List.map_cons, hb, ih h.2]

theorem vector_turn {w : Word32} {recs : List Nat} (h : 40 ≤ vMajor w ∧ vMajor w ≤ 45)
    (hl : (match (demoVecs w recs).vCheck 0 0 (anEntry w) 0 with
      | .ok l => l.all fun x => (parseShape x).isSome
      | .error _ => false) = true) :
    (demoVecs w recs).VectorTurn 0 0 { someThread with seq := { ents := [anEntry w], frozen := false } } (anEntry w) (shapesOf w recs) := by
  refine ⟨(by decide : 0 % 32 < 30), rfl, by decide, rfl, (by decide : (demo someThread).running 0 = true), by simp [someThread], rfl, rfl, rfl, rfl, rfl, rfl, h.1, h.2, ?_⟩
  unfold shapesOf
  cases hc : (demoVecs w recs).vCheck 0 0 (anEntry w) 0 with
  | error x => rw [hc] at hl; exact nomatch hl
  | ok l => rw [hc] at hl; exact ⟨l, hc, map_some_filterMap _ _ hl⟩

/-- h0 to h2 of one FP32 element each; h0 and h1 so and h2 of one I32 element. -/
def fp32Shapes : List Nat := [aShape 0x100 0 1 0, aShape 0x104 0 1 0, aShape 0x108 0 1 0]
def indexShapes : List Nat := [aShape 0x100 0 1 0, aShape 0x104 0 1 0, aShape 0x108 7 1 0]

/-- Every shape is of one element of local store. -/
def oneEach (l : List Shape) : Bool := l.all fun h => h.port.isNone && (h.dims.map (·.1) == [1, 1, 1, 1])

theorem witness_VectorTurns :
    (∃ t e l, (demoVecs (wordOf (.vadd 0 0 0 1 2 1 0)) fp32Shapes).VectorTurn 0 0 t e l ∧ oneEach l = true ∧ l.length = 3 ∧ vMajor e.word = 40) ∧
    (∃ t e l, (demoVecs (wordOf (.vneg 0 0 0 1 1 0)) fp32Shapes).VectorTurn 0 0 t e l ∧ oneEach l = true ∧ l.length = 2 ∧ vMajor e.word = 40) ∧
    (∃ t e l, (demoVecs (wordOf (.vfma 0 0 0 1 2 1 0)) fp32Shapes).VectorTurn 0 0 t e l ∧ oneEach l = true ∧ l.length = 3 ∧ readsD e.word = true) ∧
    (∃ t e l, (demoVecs (wordOf (.vfill 0 0 0 1 1 0)) fp32Shapes).VectorTurn 0 0 t e l ∧ oneEach l = true ∧ l.length = 2 ∧ vFn e.word = 1) ∧
    (∃ t e l, (demoVecs (wordOf (.vgath 0 0 0 1 2)) indexShapes).VectorTurn 0 0 t e l ∧ oneEach l = true ∧ l.length = 3 ∧ vFn e.word = 3) ∧
    (∃ t e l, (demoVecs (wordOf (.vscat 0 0 0 1 2)) indexShapes).VectorTurn 0 0 t e l ∧ oneEach l = true ∧ l.length = 3 ∧ vFn e.word = 4) ∧
    (∃ t e l, (demoVecs (wordOf (.vsel 0 0 0 1 2)) indexShapes).VectorTurn 0 0 t e l ∧ oneEach l = true ∧ l.length = 3 ∧ vFn e.word = 5) :=
  ⟨⟨_, _, _, vector_turn (by decide) (by decide), by decide, by decide, by decide⟩, ⟨_, _, _, vector_turn (by decide) (by decide), by decide, by decide, by decide⟩,
    ⟨_, _, _, vector_turn (by decide) (by decide), by decide, by decide, by decide⟩, ⟨_, _, _, vector_turn (by decide) (by decide), by decide, by decide, by decide⟩,
    ⟨_, _, _, vector_turn (by decide) (by decide), by decide, by decide, by decide⟩, ⟨_, _, _, vector_turn (by decide) (by decide), by decide, by decide, by decide⟩,
    ⟨_, _, _, vector_turn (by decide) (by decide), by decide, by decide, by decide⟩⟩

theorem witness_VectorTurns_elements :
    (∀ h ∈ shapesOf (wordOf (.vadd 0 0 0 1 2 1 0)) fp32Shapes, (demoVecs (wordOf (.vadd 0 0 0 1 2 1 0)) fp32Shapes).goodElems (2 ^ 56) h [0]) ∧
    (0 : Int) ≤ 0 ∧ (0 : Int) < 1 ∧ ∀ l : List Byte, List.all [0] (fun n : Nat => n == 0) = true :=
  ⟨fun _ _ _ _ => rfl, by decide, by decide, fun _ => rfl⟩

/-- A row of three elements, and a pair of rows of two keys with their indexes. -/
def rowShapes : List Nat := [aShape 0x100 0 1 0, aShape 0x200 0 3 1, aShape 0x300 0 3 1]
def mergeShapes : List Nat :=
  [aShape 0x100 0 2 1, aShape 0x110 10 2 1, aShape 0x120 7 1 0, aShape 0x200 0 2 1, aShape 0x210 10 2 1, aShape 0x220 0 2 1, aShape 0x230 10 2 1]

/-- The conditions on the shapes of a row member: no port, and one row that a group takes whole. -/
def oneRow (w : Word32) (l : List Shape) : Bool :=
  perRow w && l.all (fun h => h.port.isNone) && match l.drop (destCount w) with
    | a :: _ => (a.dims.tail.map (·.1) == [1, 1, 1]) && decide (a.len ≤ laneCount w l) && decide (l.length = destCount w + (l.drop (destCount w)).length)
    | [] => false

theorem witness_VectorTurns_rows :
    (∃ t e l, (demoVecs (wordOf (.vsum 0 0 0 1 1 0)) rowShapes).VectorTurn 0 0 t e l ∧ oneRow e.word l = true) ∧
    (∃ t e l, (demoVecs (wordOf (.vdot 0 0 0 1 2 1 0)) rowShapes).VectorTurn 0 0 t e l ∧ oneRow e.word l = true) ∧
    (∃ t e l, (demoVecs (wordOf (.vmrg 0 0 0 3 5)) mergeShapes).VectorTurn 0 0 t e l ∧ oneRow e.word l = true ∧ rowExtras e.word l 0 ≠ []) :=
  ⟨⟨_, _, _, vector_turn (by decide) (by decide), by decide⟩, ⟨_, _, _, vector_turn (by decide) (by decide), by decide⟩,
    _, _, _, vector_turn (by decide) (by decide), by decide, by decide⟩

theorem witness_VectorValues_VectorRows :
    (∀ w ∈ [(wordOf (.vadd 0 0 0 1 2 1 0), 40, 0), (wordOf (.vsilu 0 0 0 1 1 0), 41, 6), (wordOf (.vclampi 0 0 0 1 2 0), 42, 10),
        (wordOf (.vcopy 0 0 0 1), 43, 0), (wordOf (.vcmp 0 0 0 1 2), 45, 0), (wordOf (.vsum 0 0 0 1 1 0), 44, 0), (wordOf (.vdot 0 0 0 1 2 1 0), 44, 3),
        (wordOf (.vhist 0 0 0 1), 45, 1), (wordOf (.vselk 0 0 0 3 5), 45, 2), (wordOf (.vmrg 0 0 0 3 5), 45, 3), (wordOf (.vcnt 0 0 0 1), 45, 4)],
      vMajor w.1 = w.2.1 ∧ vFn w.1 = w.2.2) ∧
    Fmt.i8.isInt = true ∧ Fmt.i8.isSigned = true ∧ Fmt.ui8.isSigned = false ∧ Fmt.fp32.isFloat = true ∧ Fmt.fp32.isTapered = false ∧
    Fmt.tf8.isTapered = true ∧ Fmt.tf8.isInt = false ∧ (Fmt.tf8.decode 0x80).isNan = true ∧ (Fmt.tf8.decode 0x40).isNan = false ∧
    (Fmt.fp8.decode 0x7F).isNan = true ∧ (5 : Nat) ≤ ([4, 3] : List Int).sum ∧ (([4, 3] : List Int).drop 0).sum < 8 := by decide

theorem witness_VectorTurns_fault :
    (demo someThread).vCheck 0 0 { anEntry 0xA0061110 with shb := 0xFFFE0 } 0 = .error 9 ∧ (anEntry 0xA0061110).isLoop = false ∧
    (anEntry 0xA0061110).isEnd = false ∧ (8 : Nat) < 14 := by decide

/-- demo with a slot in each of ring0 and ring1 and a matrix instruction of its thread admitted at the unit, or none. -/
def demoMat (word : Word32) (k : Nat) (queue : List MatEntry) : State :=
  let t := { someThread with wait := .mat, mat := some { word := word, n := k, live := true } }
  let rings : NatMap Ring := [(0, ⟨0, 8192, 1, 0, 0, 1⟩), (1, ⟨8192, 8192, 1, 0, 0, 1⟩)]
  { demo t with cores := [(0, { demoCore with rings := rings, matq := queue })] }

def anOperation (word : Word32) (admitted : Bool) : MatEntry := { tid := 0, word := word, a := 0, b := 0, la := 2 ^ 56, admitted := admitted, since := 0 }

theorem witness_MatrixIssue :
    isService 0 = false ∧ (entered someThread).mat = none ∧ (demo someThread).ownsTile 0 0 1 = true ∧
    ({ demo someThread with ctxs := [(0, { demoCtx with map := [(0, { demoResid with accs := 0x7F })] })] } : State).ownsTile 0 0 7 = false ∧
    (demoMat 0xC0082440 0 []).ringFault 0 0 (mPops 0xC0082440) = none ∧ ((demoMat 0xC0082440 0 []).core 0).matq = [] :=
  ⟨rfl, rfl, rfl, rfl, by decide, rfl⟩

theorem witness_MatrixIssue_queue :
    ((List.range ((demoMat 0xC0082440 0 [anOperation 0xC0082440 false]).core 0).matq.length).find?
      (mayAdmit ((demoMat 0xC0082440 0 [anOperation 0xC0082440 false]).core 0).matq)) = some 0 ∧
    vMajor 0xC0082440 = 48 ∧ mZc 0xC0082400 = false ∧
    ∃ t, (demoMat 0xC0082400 0 [anOperation 0xC0082400 false]).thread 0 = some t ∧ t.mprog = 0 :=
  ⟨by decide, rfl, by decide, _, rfl, rfl⟩

theorem witness_MatrixState :
    (∃ f, Fmt.ofCode ((0 : Word).toNat % 16) = some f ∧ accControl 0 true = true ∧ accControl 0 false = true ∧
      (demo someThread).rowFault 0 (entered someThread) 0 0 f segW = none ∧ (demo someThread).rowFault 0 (entered someThread) 0 0 f segR = none) ∧
    (demo someThread).ownsRing 0 0 7 = true ∧ (demo someThread).check 0 0 64 16 segR 16 = .ok (2 ^ 56 + 64) ∧
    (let s : State := { demo someThread with mem := Mem.write [] (2 ^ 56 + 64) 16 (0x100 + 0x10000 * 2 ^ 32 + 2 * 2 ^ 64) }
     s.mem.read (2 ^ 56 + 68) 4 = 65536 ∧ s.mem.read (2 ^ 56 + 72) 2 = 2 ∧ s.mem.read (2 ^ 56 + 74) 6 = 0 ∧ s.mem.read (2 ^ 56 + 64) 4 % 256 = 0 ∧
       0x100 + 65536 * 2 ≤ (s.seg 0 0 0).limit ∧ (s.seg 0 0 0).rights % 2 = 1) ∧
    (∃ r, ((demoMat 0 0 []).core 0).rings.find? 0 = some r ∧ r.fill + 0 ≤ r.depth ∧ r.depth < r.fill + 1) ∧
    ((demo someThread).core 0).rings.find? 0 = none := by
  refine ⟨⟨.fp32, rfl, by decide, by decide, by decide, by decide⟩, rfl, rfl, by decide, ⟨_, rfl, by decide, by decide⟩, rfl⟩

/-- demo with two slots in each of its rings, of 64 KiB, and an operation of its thread of n k-steps admitted at the unit. -/
def demoStep (word : Word32) (n : Nat) : State :=
  let t := { someThread with wait := .mat, mat := some { word := word, n := n, live := true } }
  let rings : NatMap Ring := (List.range 8).map fun i => (i, ⟨0x20000 * i, 65536, 2, 0, 0, 2⟩)
  { demo t with cores := [(0, { demoCore with rings := rings, matq := [anOperation word true] })] }

/-- An operation of majors 48 to 51 on rings of its own (R265). -/
def stepForm (w : Word32) : Bool :=
  decide (48 ≤ vMajor w) && decide (vMajor w ≤ 51) && mRa w != mRb w && decide (mRa w < 8) && decide (mRb w < 7) &&
    (stepMetaTiles w == 0 || mRa w != mRb w + 1) && decide (stepMetaTiles w ≤ 2)

theorem step_ready {word : Word32} (n : Nat) (h : stepForm word = true) :
    (demoStep word n).StepReady 0 0 word { someThread with wait := .mat, mat := some { word := word, n := n, live := true } }
      { word := word, n := n, live := true } ⟨0x20000 * mRa word, 65536, 2, 0, 0, 2⟩ ⟨0x20000 * mRb word, 65536, 2, 0, 0, 2⟩
      ⟨0x20000 * (mRb word + 1), 65536, 2, 0, 0, 2⟩ := by
  have ring : ∀ i, i < 8 → ((demoStep word n).core 0).rings.find? i = some ⟨0x20000 * i, 65536, 2, 0, 0, 2⟩ := by
    intro i hi; interval_cases i <;> rfl
  simp only [stepForm, Bool.and_eq_true, Bool.or_eq_true, decide_eq_true_eq, bne_iff_ne, beq_iff_eq] at h
  obtain ⟨⟨⟨⟨⟨⟨h1, h2⟩, h3⟩, h4⟩, h5⟩, h6⟩, h7⟩ := h
  refine ⟨⟨_, rfl, rfl, rfl, rfl⟩, rfl, rfl, rfl, h1, h2, h3, ring _ h4, ?_, ring _ (by omega), ?_,
    fun k => ⟨h6.resolve_left k, ring _ (by omega), h7⟩⟩
  · dsimp only; split <;> omega
  · dsimp only; split <;> omega

/-- Each member: mma, mms and mmx of the quarter class (mmx with t, kh and sc), mmg without and with msk. -/
theorem witness_MatrixState_step :
    ∀ w ∈ [wordOf (.mma 0 0 1 0 2 3 0x80), wordOf (.mms 0 0 2 0 2 3 4), wordOf (.mmx 0 0 3 4 5 1 0x9E), wordOf (.mmg 0 0 4 2 3 4 0x82),
        wordOf (.mmg 0 0 4 2 3 4 0x24)],
      (∃ t x y z, (demoStep w 2).StepReady 0 0 w t { word := w, n := 2, live := true } x y z ∧ t.mprog = 0) ∧
      (∃ t x y z, (demoStep w 1).StepReady 0 0 w t { word := w, n := 1, live := true } x y z ∧ t.mprog = 0) ∧
      (∀ k n, (demoStep w 2).isBad k n = false) ∧ ((demoStep w 2).core 0).acc.Sorted ∧
      (stepMetaTiles w == 0 || mQuarter w) = true := by
  intro w hw
  have h : stepForm w = true := List.all_eq_true.1 (by decide : List.all [wordOf (.mma 0 0 1 0 2 3 0x80), wordOf (.mms 0 0 2 0 2 3 4),
    wordOf (.mmx 0 0 3 4 5 1 0x9E), wordOf (.mmg 0 0 4 2 3 4 0x82), wordOf (.mmg 0 0 4 2 3 4 0x24)] stepForm = true) w hw
  refine ⟨⟨_, _, _, _, step_ready 2 h, rfl⟩, ⟨_, _, _, _, step_ready 1 h, rfl⟩, fun _ _ => rfl, List.Pairwise.nil, ?_⟩
  exact List.all_eq_true.1 (by decide : List.all [wordOf (.mma 0 0 1 0 2 3 0x80), wordOf (.mms 0 0 2 0 2 3 4),
    wordOf (.mmx 0 0 3 4 5 1 0x9E), wordOf (.mmg 0 0 4 2 3 4 0x82), wordOf (.mmg 0 0 4 2 3 4 0x24)] (fun w => stepMetaTiles w == 0 || mQuarter w) = true) w hw

theorem read_same {m : Mem} {b : Byte} (n : Nat) : ∀ k, (∀ j, k ≤ j → j < k + n → m.byte j = b) →
    m.read k n = (List.range n).foldl (fun x _ => b.toNat + 256 * x) 0 := by
  induction n with
  | zero => intro _ _; rfl
  | succ n ih =>
    intro k h
    rw [Mem.read, ih (k + 1) fun j h1 h2 => h j (by omega) (by omega), h k (Nat.le_refl k) (by omega), List.range_succ, List.foldl_append]
    rfl

/-- A word of metadata whose bytes all hold 0x44, so that i0 = 0 and i1 = 1 in every nibble, and one whose first nibble is 0. -/
theorem witness_MatrixState_metadata :
    ¬ stepIllegal 0x4444444444444444 ∧ stepIllegal 0x4444444444444440 ∧
    (∀ i, i < 128 → stepMeta { demoStep (wordOf (.mms 0 0 2 0 2 3 0)) 2 with mem := Mem.writeBytes [] (2 ^ 56 + 0x60000) (List.replicate 1024 0x44) }
      (2 ^ 56) ⟨0x60000, 65536, 2, 0, 0, 2⟩ 0 i = 0x4444444444444444) ∧
    (∃ t m x y z, (demoStep (wordOf (.mms 0 0 2 0 2 3 0)) 2).StepReady 0 0 (wordOf (.mms 0 0 2 0 2 3 0)) t m x y z ∧ z = ⟨0x60000, 65536, 2, 0, 0, 2⟩ ∧
      stepMeta (demoStep (wordOf (.mms 0 0 2 0 2 3 0)) 2) (2 ^ 56) z 0 0 = 0 ∧ t.tfl = false) ∧ stepIllegal 0 ∧
    ((demoStep (wordOf (.mms 0 0 2 0 2 3 0)) 2).ctx 0).trace = 0 := by
  refine ⟨?_, ⟨0, by decide, by decide⟩, ?_, ⟨_, _, _, _, _, step_ready 2 (by decide), rfl, rfl, rfl⟩, ⟨0, by decide, by decide⟩, rfl⟩
  · rintro ⟨g, h, hg⟩; revert hg; interval_cases g <;> decide
  · intro i hi
    refine (read_same (b := 0x44) 8 (2 ^ 56 + 0x60000 + 8 * i) fun j h1 h2 => ?_).trans (by decide)
    rw [byte_writeBytes _ _ _ (by decide), if_pos (by rw [List.length_replicate]; omega), List.getD_replicate _ (by omega)]

/-- A scale record that fails its check, lies outside the own local store, or holds uncorrectable data. -/
theorem witness_MatrixState_scales :
    let s := demoStep (wordOf (.mma 0 0 1 0 2 3 0x80)) 2
    mSc (wordOf (.mma 0 0 1 0 2 3 0x80)) = true ∧ s.ScalesAt 0 someThread (2 ^ 56) ∧
    (∃ f, s.check 0 0 (8 + BitVec.ofNat 64 (528 * (0 : BitVec 32).toNat)) 528 segR 16 = .error f) ∧
    (s.check 0 0 (va 1 0) 528 segR 16 = .ok 0 ∧ laRegion 0 ≠ 1) ∧
    ({ s with bad := [2 ^ 53] } : State).check 0 0 0 528 segR 16 = .ok (2 ^ 56) ∧ ({ s with bad := [2 ^ 53] } : State).isBad (2 ^ 56) 528 = true :=
  ⟨by decide, ⟨rfl, by decide, by decide, rfl⟩, ⟨_, rfl⟩, ⟨rfl, by decide⟩, rfl, by decide⟩

/-- R265: mma with RA = RB + 1 reads no metadata, so that a tile of zeros raises no cause 0x0A. -/
theorem test_mma_no_metadata :
    let s := demoMat 0xC0090400 2 [anOperation 0xC0090400 true]
    mRa 0xC0090400 = mRb 0xC0090400 + 1 ∧ s.stepFault 0 (s.s0Base 0 0) 0xC0090400 = none := by decide

theorem witness_MatrixState_transfer :
    (∃ e t, ((demoMat 0xD00C0000 0 [anOperation 0xD00C0000 false]).core 0).matq = [e] ∧
      (demoMat 0xD00C0000 0 [anOperation 0xD00C0000 false]).thread 0 = some t ∧ e.word.toNat / 2 ^ 26 = 52 ∧ e.word.toNat % 1024 = 0) ∧
    (0xD0004003 : Word32).toNat % 1024 = 3 ∧
    (∃ e, ((demoMat 0xD0084801 0 [anOperation 0xD0084801 true]).core 0).matq.find? (fun e => e.tid == 0) = some e ∧ e.admitted = true ∧
      vMajor e.word = 52 ∧ e.word.toNat % 1024 = 1 ∧ (demoMat 0xD0084801 0 []).clock < e.since + 72) ∧
    (∀ i ∈ tileOrder, (demoMat 0xD0084801 0 []).isBad ((anOperation 0xD0084801 true).la + 256 * i.1 + i.2 * 4) 4 = false) :=
  ⟨⟨_, _, rfl, rfl, by decide, by decide⟩, by decide, ⟨_, rfl, rfl, by decide, by decide, by decide⟩, fun _ _ => rfl⟩

/-- A copy descriptor of one element: segment addresses of SRC, DST and TKT, formats, flags, dimension 0. -/
def copyImage (src dst tkt fmts flags dim : Nat) : Nat :=
  src + dst * 2 ^ 64 + tkt * 2 ^ 128 + fmts * 2 ^ 192 + flags * 2 ^ 200 + 1 * 2 ^ 208 + 0x80 * 2 ^ 224 + dim * 2 ^ 256

def demoCopy : State := { demo someThread with mem := Mem.write [] (2 ^ 56) 128 (copyImage 0x100 0x200 0x300 0 0 1) }

def anyCopy (kind : Nat) (v : Word) : CopyCmd :=
  match demoCopy.copyChain 0 0 kind v (2 ^ 56) 1 with
  | .ok l => { core := 0, ctx := 0, kind := kind, descs := l, val := v, eng := 0, seq := 0 }
  | .error _ => { core := 0, ctx := 0, kind := kind, descs := [], val := v, eng := 0, seq := 0 }

theorem copy_chain (kind : Nat) (v : Word) (h : (anyCopy kind v).descs.length = 1) :
    ∃ x, demoCopy.copyChain 0 0 kind v (2 ^ 56) 1 = .ok (x :: []) := by
  unfold anyCopy at h
  cases hc : demoCopy.copyChain 0 0 kind v (2 ^ 56) 1 with
  | error e => rw [hc] at h; cases h
  | ok l =>
    rw [hc] at h
    match l, h with
    | [x], _ => exact ⟨x, rfl⟩

theorem witness_CopyCommands :
    demoCopy.check 0 0 0 (128 * 1) segR 128 = .ok (2 ^ 56) ∧ demoCopy.isBad (2 ^ 56) 128 = false ∧
    (∃ x, demoCopy.copyChain 0 0 0 0 (2 ^ 56) 1 = .ok (x :: [])) ∧
    (∃ x, demoCopy.copyChain 0 0 1 (0x3F * 2 ^ 18 + 1) (2 ^ 56) 1 = .ok (x :: [])) ∧ (∃ x, demoCopy.copyChain 0 0 2 5 (2 ^ 56) 1 = .ok (x :: [])) :=
  ⟨rfl, rfl, copy_chain _ _ (by decide), copy_chain _ _ (by decide), copy_chain _ _ (by decide)⟩

/-- demo with a copy command on its way to engine 0, and a number of commands in that engine's queue. -/
def demoEngine (n : Nat) : State :=
  let j : Job := { cmds := [anyCopy 0 0], combined := false, run := none, turns := [] }
  { withMsg (.copy 0 (anyCopy 0 0) 0) with engines := [(0, { queue := List.replicate n j, seq := 9, disabled := false })] }

theorem witness_CopyCommands_free :
    (anyCopy 0 0).combines = false ∧ demoCopy.behindCombined (anyCopy 0 0) = false ∧ (demoCopy.engine (demoCopy.takesFor 0)).queue.length < 64 ∧
    (∀ m ∈ demoCopy.net, ¬ (m.src = 0 ∧ m.dst = engPlace 0 ∧ m.chan = 0)) ∧ demoCopy.fab.reaches (placeDie 0) (placeDie (engPlace 0)) = true ∧
    State.writeRefused 0 3 (BitVec.ofNat 64 0) = false := by decide

/-- A command that passes through its cluster's combining node. -/
def comboCopy : CopyCmd :=
  match ({ demo someThread with mem := Mem.write [] (2 ^ 56) 128 (copyImage (2 ^ 61) 0x200 0x300 0 4 1) } : State).copyChain 0 0 0 0 (2 ^ 56) 1 with
  | .ok l => { core := 0, ctx := 0, kind := 0, descs := l, val := 0, eng := 0, seq := 0 }
  | .error _ => { core := 0, ctx := 0, kind := 0, descs := [], val := 0, eng := 0, seq := 0 }

/-- demo with that command on its way, and windows at the cluster. -/
def demoCombine (l : List CombWindow) : State := { withMsg (.copy 0 comboCopy 0) with clusters := [(0, { Cluster.reset with windows := l })] }

def aWindow : CombWindow := { since := 0, members := [comboCopy] }

theorem witness_CopyCommands_accept :
    (∀ k ∈ [ReqKind.cpy, .cpyq], ∃ t r, (demo (waitsFor { kind := k, d := 3, n := 2561 })).thread 0 = some t ∧ t.wait = .mem r ∧ r.kind = k ∧
      r.locs = [] ∧ r.n = 2561 ∧ State.writeRefused 0 r.d (BitVec.ofNat 64 (r.n - 1)) = false) ∧
    (∃ m s1, (demoEngine 63).deliver 0 = some (m, s1) ∧ m.body = .copy 0 (anyCopy 0 0) 0 ∧ s1.behindCombined (anyCopy 0 0) = false ∧
      (s1.engine (s1.takesFor 0)).queue.length = 63) ∧
    (∃ m s1, (demoEngine 64).deliver 0 = some (m, s1) ∧ m.body = .copy 0 (anyCopy 0 0) 0 ∧ (s1.engine (s1.takesFor 0)).queue.length = 64) ∧
    (∃ m s1, ({ demoEngine 0 with clusters := [(0, { Cluster.reset with windows := [aWindow] })] } : State).deliver 0 = some (m, s1) ∧
      m.body = .copy 0 (anyCopy 0 0) 0 ∧ s1.behindCombined (anyCopy 0 0) = true) ∧
    (anyCopy 0 0).eng = 0 ∧ (anyCopy 0 0).combines = false :=
  ⟨fun k _ => ⟨_, _, rfl, rfl, rfl, rfl, rfl, rfl⟩, ⟨_, _, rfl, rfl, by decide, by decide⟩, ⟨_, _, rfl, rfl, by decide⟩,
    ⟨_, _, rfl, rfl, by decide⟩, by decide, by decide⟩

theorem witness_CopyCommands_window :
    (∃ m s1, (demoCombine []).deliver 0 = some (m, s1) ∧ m.body = .copy 0 comboCopy 0 ∧ comboCopy.combines = true ∧
      ((s1.cluster (engCluster 0)).windows.any fun w => w.isOpen s1.clock) = false) ∧
    (∃ m s1, (demoCombine [aWindow]).deliver 0 = some (m, s1) ∧ m.body = .copy 0 comboCopy 0 ∧ (s1.cluster (engCluster 0)).windows = aWindow :: [] ∧
      aWindow.members = comboCopy :: [] ∧ aWindow.isOpen s1.clock = true ∧ sameCopy { comboCopy with seq := 0 } comboCopy = true ∧
      aWindow.members.length < 36 ∧ comboCopy.joins = true) ∧
    (({ demoCombine [aWindow] with clock := 255 } : State).cluster 0).windows.any (·.isOpen 255) = true ∧
    ({ comboCopy with descs := [] } : CopyCmd).joins = false ∧
    (demoCombine [aWindow]).clock < aWindow.since + 256 ∧ aWindow.since + 256 ≤ ({ demoCombine [aWindow] with clock := 256 } : State).clock ∧
    ((demoCombine [aWindow]).engine ((demoCombine [aWindow]).takesFor comboCopy.eng)).queue.length < 64 :=
  ⟨⟨_, _, rfl, rfl, by decide, by decide⟩, ⟨_, _, rfl, rfl, rfl, rfl, by decide, by decide, by decide, by decide⟩, by decide, by decide, by decide, by decide,
    by decide⟩

/-- demoEngine with the turns that its one command has had. -/
def demoTurns (turns : NatSet) : State :=
  { demoEngine 0 with
    engines := [(0, { queue := [{ cmds := [anyCopy 0 0], combined := false, run := none, turns := turns }], seq := 9, disabled := false })] }

theorem witness_CopyCommands_turns :
    (demoTurns []).turnsLeft 0 = [0] ∧ ((demoTurns []).engine 0).queue.all (fun j => ((demoTurns []).engNeeds 0 j).isNone) = true ∧
    (demoTurns [0]).turnsLeft 0 = [] ∧ 2 ^ 43 + 2 ^ 24 * 0 + 0 = 2 ^ 43 := by decide

/-- demoTurns with the element of the command written, in a DMA turn of core 0. -/
def demoTicket : State :=
  match execCopyCommandCompletion (2 ^ 43) (demoTurns []) with
  | .next s => s
  | _ => demo someThread

/-- R201, R302: the ticket takes another turn of its core. -/
theorem test_copy_turn : demoTicket.turnsLeft 0 = [0] ∧ demoTicket.mem.read (2 ^ 56 + 0x300) 8 = 0 := by decide

/-- R201, R302: with it the command writes its ticket, NELEM 1 and DONE. -/
theorem test_copy_ticket :
    (match exec (.copyCommandCompletion (2 ^ 43)) demoTicket with
     | .next s => (s.engine 0).queue.isEmpty && s.mem.read (2 ^ 56 + 0x300) 8 == 0x10001
     | _ => false) = true := by decide

/-- An engine whose command reads a page that its cluster's TLB lacks. -/
theorem witness_CopyCommands_page :
    let j : Job := { cmds := [comboCopy], combined := false, run := none, turns := [] }
    let s : State := { demo someThread with clusters := [], engines := [(0, { queue := [j], seq := 9, disabled := false })] }
    ∃ d a, (s.engine 0).queue = j :: [] ∧ j.cmds = comboCopy :: [] ∧ comboCopy.descs = d :: [] ∧ s.engLinked 0 d.src = true ∧
      s.engLinked 0 d.dst = true ∧ s.engNeeds 0 j = some a :=
  ⟨_, _, rfl, rfl, rfl, by decide, by decide, rfl⟩

theorem witness_CopyCommands_element :
    let s := demoEngine 1
    ∃ j d, (s.engine 0).queue = [j] ∧ j.cmds = [anyCopy 0 0] ∧ (anyCopy 0 0).descs = [d] ∧ j.run = none ∧ j.combined = false ∧
      (s.engine 0).disabled = false ∧ descBad (anyCopy 0 0) d = false ∧ descBad { anyCopy 0 0 with kind := 2 } d = false ∧ d.stream = false ∧ d.count = 1 ∧ laRegion d.dst = 1 ∧
      s.decodes 0 d.dst = true ∧ d.dst % 65536 + d.wd ≤ 65536 ∧ s.engLinked 0 d.dst = true ∧ s.engLinked 0 d.src = true ∧ d.hasTkt = true ∧
      laRegion d.tkt = 1 ∧ d.tkt % 8 = 0 ∧ s.coreOk (laCore d.tkt) = true ∧ d.ctr.testBit 7 = false ∧ d.expand = false ∧
      d.compress = false ∧ d.fmts % 16 = d.fmts / 16 ∧ laRegion d.src = 1 ∧ s.decodes 0 d.src = true ∧ d.src % 65536 + d.ws ≤ 65536 ∧
      s.isBad d.src d.ws = false :=
  ⟨_, _, rfl, rfl, rfl, by decide⟩

/-- An input stream of eight words at 0x1000 of its core's store, and its descriptor. -/
def aPort (tail unread : Nat) (waiting spilled : List Delivery) : Port :=
  { ctx := 0, base := 0x1000, size := 64, out := false, ew := 8, sx := false, head := 0x1000, tail := tail, unread := unread, ovf := false,
    waiting := waiting, spilled := spilled }

def demoStream (p : Port) : State := { demo someThread with cores := [(0, { demoCore with ports := [(0, p)] })] }

def aDelivery (n : Nat) : Delivery := { data := List.replicate (8 * n) 1, bad := [], eng := 0, nelem := 8 * n, since := 0 }

/-- demo with a thread in another slot of core 0 as the running one. -/
def demoSlot (slot : Nat) (t : Thread) : State := { demo t with threads := [(slot, t)], cur := slot }

/-- demo with the record of h1 naming port x1. -/
def demoVecPort : State := { demo someThread with mem := Mem.write [] (2 ^ 56 + 0x420) 32 (1 + 2 ^ 40 + 2 ^ 64 + 2 ^ 112 + 2 ^ 160 + 2 ^ 208) }

theorem witness_Streams :
    let s : State := { demo (withRegs [0, 64]) with mem := Mem.write [] (2 ^ 56 + 64) 16 (0x1000 + 64 * 2 ^ 32 + 3 * 2 ^ 72) }
    slotOf s.cur ≠ 15 ∧ s.Reads (s.turned (withRegs [0, 64]) 4) [1] [] [64] s ∧ s.check 0 0 64 16 segR 1 = .ok (2 ^ 56 + 64) ∧
    s.isBad (2 ^ 56 + 64) 16 = false ∧ streamLegal 0 (s.mem.bytes (2 ^ 56 + 64) 16) = true ∧
    (demoSlot 15 someThread).Issues 0 0 4 ((demoSlot 15 someThread).turned someThread 4) ∧ slotOf (demoSlot 15 someThread).cur = 15 ∧
    ((demo someThread).core 0).ports.find? 0 = none ∧ ((demoStream (aPort 0x1000 0 [] [])).core 0).ports.find? 0 = some (aPort 0x1000 0 [] []) ∧
    (aPort 0x1000 0 [] []).out = false ∧ s.seqNamesPort s.cur (withRegs [0, 64]) 0 = false ∧ (withRegs [0, 64]).relaxed = [] ∧
    demoVecPort.seqNamesPort 0 { someThread with seq := { ents := [anEntry 0xA0061110], frozen := false } } 1 = true ∧
    State.writeRefused 15 3 (BitVec.ofNat 64 (2 ^ 32)) = false :=
  ⟨by decide, reads_plain (by decide), rfl, rfl, by decide, issues_of 4 rfl, rfl, rfl, rfl, rfl, by decide, rfl, by decide, rfl⟩

/-- A descriptor that binds an input stream of 64 bytes, its port, and the port's tail as it wraps. -/
theorem witness_Streams_laid :
    let l := leBytes 16 (0x1000 + 64 * 2 ^ 32 + 3 * 2 ^ 72)
    streamLegal 0 l = true ∧ (Port.bound 0 l).Laid ∧ (aPort 0x1038 56 [] []).Laid ∧ Mem.wf [] ∧
    0x1000 + (0x1038 - 0x1000 + 8) % 64 = 0x1000 := by
  refine ⟨by decide, ⟨by decide, by decide, by decide, by decide, by decide⟩, ⟨by decide, by decide, by decide, by decide, by decide⟩, by decide, by decide⟩

/-- R214: a delivery of two words at the last word of the buffer wraps to its first, and both words are full. -/
theorem test_delivery_wraps :
    (match exec (.streamDelivery (2 ^ 40)) (demoStream (aPort 0x1038 0 [{ aDelivery 1 with data := List.replicate 16 1 }] [])) with
     | .next s => s.mem.read (2 ^ 56 + 0x1038) 8 == 0x0101010101010101 && s.mem.read (2 ^ 56 + 0x1000) 8 == 0x0101010101010101 &&
        s.isFull (2 ^ 56 + 0x1000) && s.mem.read (2 ^ 56 + 0x1008) 8 == 0
     | _ => false) = true := by decide

/-- demoStream with a delivery on its way. -/
def demoDelivery (p : Port) (d : Delivery) : State :=
  { demoStream p with net := [{ src := 1, dst := 0, chan := 0, t := 0, out := true, body := .delivery 0 0 d }] }

theorem witness_Streams_delivery :
    (∃ m s1, (withMsg (.delivery 0 0 (aDelivery 1))).deliver 0 = some (m, s1) ∧ m.body = .delivery 0 0 (aDelivery 1)) ∧
    (∃ m s1, (demoDelivery (aPort 0x1038 56 [] []) (aDelivery 1)).deliver 0 = some (m, s1) ∧ m.body = .delivery 0 0 (aDelivery 1)) ∧
    ((demoDelivery (aPort 0x1038 56 [] []) (aDelivery 1)).core (portCore 0)).ports.find? (0 % 64) = some (aPort 0x1038 56 [] []) ∧
    (aDelivery 1).data.length % 8 = 0 ∧ (aDelivery 1).data.length ≤ (aPort 0x1038 56 [] []).size - (aPort 0x1038 56 [] []).unread ∧
    ((demoDelivery (aPort 0x1038 56 [] []) (aDelivery 1)).ctx 0).replay = 0 ∧ (aPort 0x1038 56 [] []).waiting = [] ∧ (aPort 0x1038 56 [] []).spilled = [] ∧
    (aPort 0x1038 57 [] []).size - (aPort 0x1038 57 [] []).unread < (aDelivery 1).data.length ∧ (aDelivery 8).data.length ≤ (aPort 0x1038 57 [] []).size ∧
    (aPort 0x1038 56 [] []).size < (aDelivery 9).data.length :=
  ⟨msg_here _, ⟨_, _, rfl, rfl⟩, rfl, by decide, by decide, rfl, rfl, rfl, by decide, by decide, by decide⟩

theorem witness_Streams_overflow :
    let s := demoStream (aPort 0x1000 64 [aDelivery 1] [])
    ({ s with clock := 2048 } : State).clock = (aDelivery 1).since + 2048 ∧ (aPort 0x1000 64 [aDelivery 1] []).fits (aDelivery 1) = false ∧
    s.ovfUsed 0 0 < s.ovfCap 0 0 ∧ (aPort 0x1000 56 [] [aDelivery 1]).fits (aDelivery 1) = true ∧
    (aPort 0x1000 56 [aDelivery 1] []).fits (aDelivery 1) = true ∧ (s.ctx 0).replay = 0 := by decide

theorem witness_Streams_bind :
    let s : State := { demo someThread with cores := [(0, { demoCore with xq := [(0, [7])] })], ctxs := [(0, { demoCtx with commpc := va 1 0, xfrmpc := va 1 0 })] }
    s.ownerOf 0 14 = some 0 ∧ s.ownerOf 0 15 = some 0 ∧ s.thread 14 = none ∧ s.thread 15 = none ∧ s.running 0 = true ∧ (s.core 0).disabled = false ∧
    (s.ctx 0).saved.find? 14 = none ∧ (s.ctx 0).saved.find? 15 = none ∧ (s.ctx 0).trace = 0 ∧ (s.core 0).xq.at [] 0 ≠ [] ∧
    (s.ctx 0).commpc ≠ 0 ∧ (s.ctx 0).xfrmpc ≠ 0 := by decide

/-- A block of 32 bytes with a coded section as given, its thread at an input position. -/
def aBlock (input : List Byte) (held : Bool) : Block :=
  { compress := false, lenx := 32, nsec := 0, param := 7, input := input, place := 2 ^ 56 + 0x2000, output := [], inPos := 0, outPos := 3,
    err := false, unc := false, held := held, eng := 0, member := 0 }

/-- demo with its thread in slot 14 and a transform queue. -/
def demoTransform (l : List Block) (holds : Bool) (t : Thread) : State :=
  { demoSlot 14 t with cores := [(0, { demoCore with xform := l, xholds := holds })] }

/-- The message of a block for the place 0x2000 of core 0. -/
def blockMsg (lenx nsec method : Nat) : Payload :=
  .block 0 0 (leBytes 2 lenx ++ leBytes 1 nsec ++ leBytes 1 method ++ leBytes 4 0 ++ List.replicate lenx 9) (2 ^ 56 + 0x2000) false

/-- demo with a compressed block that waits for its DMA turn. -/
def demoOut : State := { demo someThread with cores := [(0, { demoCore with xout := [{ eng := 0, flags := 0, data := [1] }] })] }

theorem witness_CodedBlocks_out :
    (demoOut.core 0).xout = { eng := 0, flags := 0, data := [1] } :: [] ∧ ({ aBlock [] true with compress := true } : Block).compress = true ∧
    0 < 2 ^ 46 := by decide

theorem witness_CodedBlocks_port :
    (∃ m s1, (withMsg (blockMsg 32 0 2)).deliver 0 = some (m, s1) ∧ m.body = blockMsg 32 0 2 ∧ laOff (2 ^ 56 + 0x2000) + 4096 ≤ lsSize m.dst) ∧
    (∀ d ∈ [(32, 0, 2), (32, 0, 0), (4096, 0, 2), (4096, 127, 0)], ∃ data, blockMsg d.1 d.2.1 d.2.2 = .block 0 0 data (2 ^ 56 + 0x2000) false ∧
      field data 0 2 = d.1 ∧ field data 2 1 = d.2.1 ∧ field data 3 1 = d.2.2) ∧
    ({ demo someThread with ctxs := [(0, { demoCtx with xfrmpc := va 1 0 })] } : State).transforms 0 = true ∧ (demo someThread).transforms 0 = false ∧
    (∀ n ∈ [0, 128], ∃ data, blockMsg 32 n 1 = .block 0 0 data (2 ^ 56 + 0x2000) false ∧ field data 3 1 = 1 ∧ field data 2 1 ≤ 128) ∧
    (∀ d ∈ [31, 0, 33, 4128], ∃ data, blockMsg d 0 2 = .block 0 0 data (2 ^ 56 + 0x2000) false ∧ field data 0 2 = d) := by
  refine ⟨⟨_, _, rfl, rfl, by decide⟩, ?_, by decide, by decide, ?_, ?_⟩ <;> intro d hd <;> exact ⟨_, rfl, by revert d; decide⟩

theorem witness_CodedBlocks :
    let s := demoTransform [aBlock [0x55] true] true (withRegs [0, 0, 64])
    s.Issues 0 0 4 (s.turned (withRegs [0, 0, 64]) 4) ∧ slotOf s.cur = 14 ∧ s.heldBlock 0 = some (aBlock [0x55] true) ∧
    s.Reads (s.turned (withRegs [0, 0, 64]) 4) [1] [3] [0] s ∧ s.Reads (s.turned (withRegs [0, 0, 64]) 4) [1, 2] [] [0, 64] s ∧
    s.zeros (aBlock [0, 0, 0, 0x80] true) 32 0 = 31 ∧ (aBlock [] true).compress = false ∧
    (demoTransform [] false someThread).heldBlock 0 = none ∧ ((demoTransform [] false someThread).core 0).xform = [] ∧
    ((demoTransform [aBlock [] false] false someThread).core 0).xform = aBlock [] false :: [] ∧
    (demoTransform [aBlock [] false] false someThread).heldBlock 0 = none ∧ slotOf (demo someThread).cur ≠ 14 :=
  ⟨issues_of 4 rfl, rfl, rfl, reads_plain (by decide), reads_plain (by decide), by decide, rfl, rfl, rfl, rfl, rfl, by decide⟩

/-- demo with its thread waiting for a request of THIN-E, the SLD at region-0 offset 0: VWORD and RWORD as given. -/
def demoSld (r : Req) (vw rw : Nat) : State :=
  { demo (waitsFor r) with
    mem := Mem.write (Mem.write [] (2 ^ 61 + 0x100008) 8 vw) (2 ^ 61 + 0x100010) 8 rw }

/-- A request of THIN-E for that SLD. -/
def sldReq (k : ReqKind) (b : Nat) : Req := { kind := k, d := 3, e := 4, vals := [va 1 0, BitVec.ofNat 64 b], locs := [.hbm 0 0 0x100000] }

theorem witness_SparseLayers :
    let s := demo (withRegs [0, 2 ^ 61])
    s.Reads (entered (withRegs [0, 2 ^ 61])) [1, 2] [3] [va 1 0, 0] s ∧ s.Reads (entered (withRegs [0, 2 ^ 61])) [1] [3, 4] [va 1 0] s ∧
    s.Reads (entered (withRegs [0, 2 ^ 61])) [1] [3] [va 1 0] s ∧ laRegion (canonLa (corePkg 0) 0) = 0 ∧
    (∃ l s2, s.translate 0 (canonLa (corePkg 0) 0) = (.ok l, s2)) ∧ s.check 0 0 (va 1 0) 128 (segR ||| segW) 128 = .ok 0 ∧
    s.check 0 0 (va 1 0) 128 segR 128 = .ok 0 :=
  ⟨reads_plain (by decide), reads_plain (by decide), reads_plain (by decide), rfl, ⟨_, _, rfl⟩, rfl, rfl⟩

/-- demo with a segment of region 2; package 1's core that serves its first page has slots of the context, or has not. -/
def demoPeer (there : Bool) : State :=
  { demo someThread with
    cores := [(0, { demoCore with segs := [(0, demoSegs ++ [{ base := 2 * 2 ^ 56 + 2 ^ 43, limit := 2 ^ 43, rights := 7, kind := 1 }])] })]
    ctxs := [(0, demoCtx), (4, { demoCtx with map := if there then [(576 * coreDie (peerTarget 1 0) + coreNum (peerTarget 1 0), demoResid)] else [] })] }

theorem witness_SparseLayers_elsewhere :
    (∀ b, (demoPeer b).check 0 0 (va 5 0) 128 (segR ||| segW) 128 = .ok (2 * 2 ^ 56 + 2 ^ 43) ∧
      (demoPeer b).check 0 0 (va 5 0) 128 segR 128 = .ok (2 * 2 ^ 56 + 2 ^ 43)) ∧
    laRegion (canonLa 0 (2 * 2 ^ 56 + 2 ^ 43)) = 2 ∧
    ((demoPeer true).coreOk (peerTarget 1 0) && (demoPeer true).holdsSlots 4 (peerTarget 1 0)) = true ∧
    ((demoPeer false).coreOk (peerTarget 1 0) && (demoPeer false).holdsSlots 4 (peerTarget 1 0)) = false ∧ corePkg (peerTarget 1 0) = 1 ∧
    (demo someThread).check 0 0 (va 0 128) 128 (segR ||| segW) 128 = .ok (2 ^ 56 + 128) ∧ laRegion (canonLa 0 (2 ^ 56 + 128)) = 1 := by
  refine ⟨fun b => ?_, by decide, by decide, by decide, by decide, rfl, by decide⟩
  cases b <;> exact ⟨rfl, rfl⟩

theorem witness_SparseLayers_issue :
    (entered (withRegs [0, 2 ^ 61])).relaxed = [] ∧ (entered (withRegs [0, 2 ^ 61])).rmode = 0 ∧
    (demo someThread).check 0 0 64 8 segW 8 = .ok (2 ^ 56 + 64) ∧ laRegion (2 ^ 56 + 64) = 1 ∧
    (demo someThread).check 0 0 (va 1 64) 8 segW 8 = .ok 64 ∧ laRegion 64 ≠ 1 := by decide

theorem witness_SparseLayers_replies :
    (∀ k ∈ [ReqKind.mref, .mrel, .mver, .thin], ∃ t, (demoSld (sldReq k 0) 0 0).thread 0 = some t ∧ t.wait = .mem (sldReq k 0)) ∧
    (∀ e ∈ [(5 * 2 ^ 32, 0xFFFFFFFE), (5 * 2 ^ 32, 0xFFFFFFFF), (5 * 2 ^ 32, 0), (5 * 2 ^ 32, 1), (5 * 2 ^ 32 + 512, 2 ^ 32)],
      let s := demoSld (sldReq .mref 0) e.1 e.2
      s.linked 0 (s.place (.hbm 0 0 0x100000)) = true ∧ s.sealedAt (.hbm 0 0 0x100000) = false ∧ s.isBad (2 ^ 61 + 0x100000) 128 = false ∧
      (s.heardAt 0 (.hbm 0 0 0x100000)).logMode 0 someThread = 0) ∧
    (let s := demoSld (sldReq .mref 0) (5 * 2 ^ 32) 0xFFFFFFFE
     s.mem.read (2 ^ 61 + 0x100008) 8 % 2 = 0 ∧ s.mem.read (2 ^ 61 + 0x100010) 8 % 2 ^ 32 ≠ 0xFFFFFFFF) ∧
    (demoSld (sldReq .mref 0) (5 * 2 ^ 32) 0xFFFFFFFF).mem.read (2 ^ 61 + 0x100010) 8 % 2 ^ 32 = 2 ^ 32 - 1 ∧
    (demoSld (sldReq .mref 0) (5 * 2 ^ 32 + 512) (2 ^ 32)).mem.read (2 ^ 61 + 0x100008) 8 / 2 ^ 8 % 2 ^ 8 = 2 ∧
    nth (sldReq .mrel (5 * 2 ^ 32 + 1)).vals 1 = BitVec.ofNat 64 (5 * 2 ^ 32 + 1) ∧ (4 + 1) % 2 ^ 32 = 5 ∧
    (nth (sldReq .mrel (5 * 2 ^ 32 + 2)).vals 1).toNat / 2 % 2 ^ 31 ≠ 0 ∧
    ({ demoSealed with threads := [(0, waitsFor (sldReq .thin 0))] } : State).sealedAt (.hbm 0 0 0x100000) = true ∧
    State.writeRefused 0 3 0 = false ∧ State.writeRefused 0 4 0 = false := by
  refine ⟨fun k _ => ⟨_, rfl, rfl⟩, ?_, by decide, by decide, by decide, by decide, by decide, by decide, by decide, rfl, rfl⟩
  simp only [List.forall_mem_cons, List.not_mem_nil, false_implies, implies_true, and_true]
  exact ⟨by decide, by decide, by decide, by decide, by decide⟩

/-- The bytes of a legal SLD of one tile with a STATE and a version, its copy 0's directory at an address. -/
def sldImage (st version dir : Nat) : Nat :=
  1 + 1 * 2 ^ 32 + st * 2 ^ 72 + version * 2 ^ 96 + 1 * 2 ^ 224 + 2 ^ 256 * 2 ^ 128 * (dir + 0x1008 * 2 ^ 64 + 0x1100 * 2 ^ 128 + 0x1200 * 2 ^ 192 + 256 * 2 ^ 256)

/-- demo with a legal SLD at region-0 offset 0 in a STATE, and a number of intervals at the thinning unit. -/
def demoAsk (st n : Nat) : State :=
  let iv : Interval := { cx := 0, sld := 0, kept := [], ticket := 0, build := false }
  { demo (waitsFor (sldReq .thin 0)) with
    mem := Mem.write [] (2 ^ 61 + 0x100000) 128 (sldImage st 5 0x1000)
    clusters := [(0, { Cluster.reset with tlb := demoTlb, thin := List.replicate n iv })] }

theorem witness_SparseLayers_thin :
    sldBad 0 ((demo someThread).mem.bytes (2 ^ 61 + 0x100000) 128) = true ∧
    (∀ e ∈ [(0, 3), (0, 4), (1, 0)], sldBad 0 ((demoAsk e.1 e.2).mem.bytes (2 ^ 61 + 0x100000) 128) = false ∧
      (demoAsk e.1 e.2).mem.read (2 ^ 61 + 0x100008) 8 / 2 ^ 8 % 2 ^ 8 = e.1 ∧
      (((demoAsk e.1 e.2).heardAt 0 (.hbm 0 0 0x100000)).cluster ((demoAsk e.1 e.2).thinUnit 0)).thin.length = e.2) := by
  refine ⟨by decide, ?_⟩
  simp only [List.forall_mem_cons, List.not_mem_nil, false_implies, implies_true, and_true]
  exact ⟨by decide, by decide, by decide⟩

/-- demo with an interval at cluster 0's unit on the SLD at region-0 offset 0: its directory and RWORD as given. -/
def demoThin (build : Bool) (dir rw : Nat) : State :=
  let m := Mem.write (Mem.write [] (2 ^ 61 + 0x100000) 128 (sldImage 2 5 dir)) (2 ^ 61 + 0x100010) 8 rw
  { demo someThread with
    mem := m, clusters := [(0, { Cluster.reset with thin := [{ cx := 0, sld := 0, kept := m.bytes (2 ^ 61 + 0x100000) 128, ticket := 0, build := build }] })] }

theorem witness_SparseLayers_start :
    ∃ iv l, ((demoThin false 0 0).cluster 0).thin = [iv] ∧ iv.build = false ∧ (demoThin false 0 0).unitPlace (clPkg 0) (clDie 0) iv.sld = .ok l ∧
      (demoThin false 0 0).mem.read (l.key + 8) 8 % 2 = 0 ∧ (demoThin false 0 0).mem.read (l.key + 16) 8 / 2 ^ 32 % 2 ^ 32 = 0 ∧
      (demoThin false 0 (2 ^ 63)).mem.read (l.key + 16) 8 / 2 ^ 32 % 2 ^ 32 ≠ 0 :=
  ⟨_, .hbm 0 0 0x100000, rfl, rfl, rfl, by decide, by decide, by decide⟩

theorem witness_SparseLayers_end :
    (∃ iv l, ((demoThin true 0x1000 0).cluster 0).building = some iv ∧ (demoThin true 0x1000 0).unitPlace (clPkg 0) (clDie 0) iv.sld = .ok l ∧
      ((demoThin true 0x1000 0).build 0 iv).2 = 0 ∧
      ((demoThin true 0x1000 0).ctx iv.cx).replay = 0 ∧ (((demoThin true 0x1000 0).build 0 iv).1.ctx iv.cx).replay = 0) ∧
    ∃ iv l, ((demoThin true 0x20000 0).cluster 0).building = some iv ∧ (demoThin true 0x20000 0).unitPlace (clPkg 0) (clDie 0) iv.sld = .ok l ∧
      ((demoThin true 0x20000 0).build 0 iv).2 ≠ 0 ∧
      ((demoThin true 0x20000 0).ctx iv.cx).replay = 0 ∧ (((demoThin true 0x20000 0).build 0 iv).1.ctx iv.cx).replay = 0 :=
  ⟨⟨_, .hbm 0 0 0x100000, rfl, rfl, by decide, rfl, by decide⟩, _, .hbm 0 0 0x100000, rfl, rfl, by decide, rfl, by decide⟩

/-- A cluster that has a ticket word of its thinning unit to write. -/
def demoThinTicket : State :=
  { demo someThread with clusters := [(0, { Cluster.reset with tickets := [(2 ^ 56 + 64, 6 * 2 ^ 32 + 1, 3)] })] }

theorem witness_SparseLayers_ticket :
    (∃ r, (demoThinTicket.cluster 0).tickets = (2 ^ 56 + 64, 6 * 2 ^ 32 + 1, 3) :: r) ∧ (sldReq .thin 0).held = false ∧
    ({ cx := 0, sld := 0, kept := [], ticket := 2 ^ 56 + 64, build := true } : Interval).ticket ≠ 0 := ⟨⟨_, rfl⟩, rfl, by decide⟩

/-- R201, R341: the ticket word is written and full after one turn. -/
theorem test_thin_ticket :
    (match exec (.intervalPublish (2 ^ 48)) demoThinTicket with
     | .next s => (s.cluster 0).tickets.isEmpty && s.mem.read (2 ^ 56 + 64) 8 == 6 * 2 ^ 32 + 1 && s.isFull (2 ^ 56 + 64)
     | _ => false) = true := by decide

/-- A specification of group 5 in plane 0, and demo with that group, its record at core 0 and what is in flight or arrived at its slots. -/
def aSpec (ms : List Nat) : List Byte :=
  leBytes 4 5 ++ leBytes 2 ms.length ++ leBytes 1 1 ++ leBytes 1 0 ++ leBytes 4 1 ++ leBytes 4 0 ++ ms.flatMap (leBytes 4)

def aGroup (ms : List Nat) (installed broken : Bool) : Group :=
  { spec := aSpec ms, regs := [{ pkg := 0, cx := 0, tid := 0 }], installed := installed, broken := broken, cleared := [], since := 0, kept := [] }

def demoFab (x : Group) (s : State) : State :=
  { s with fab := { s.fab with groups := [(5, x)], members := [(5, [(0, { cx := 0, next := 2 ^ 24 - 1 })])] } }

/-- demo with a specification of group 5 in its core's store, and the thread's request for it. -/
def demoSpec (ms : List Nat) : State := { demo someThread with mem := Mem.writeBytes [] (2 ^ 56 + 64) (aSpec ms) }

theorem witness_Groups_set :
    (entered someThread).relaxed = [] ∧ (entered someThread).rmode = 0 ∧ (demoSpec [0]).mem.read (2 ^ 56 + 68) 2 = 1 ∧
    (demoSpec [0]).check 0 0 64 20 segR 16 = .ok (2 ^ 56 + 64) ∧ (demoSpec [0]).isBad (2 ^ 56 + 64) 20 = false ∧
    (demoSpec [0]).setRefused 0 0 (aSpec [0]) = false ∧ (demoSpec [0]).setRefused 0 0 (aSpec [2048]) = true ∧ specPkgs (aSpec [0]) = [0] ∧
    (demoSpec [0]).fab.group 5 = none ∧ Fabric.hasRoom { (demoSpec [0]).fab with groups := [(5, aGroup [0] false false)] } (aSpec [0]) = true ∧
    (∀ m ∈ (demoSpec [0]).net, ¬ (m.src = portPlace 0 0 ∧ m.dst = swPlace (rootSw (aSpec [0])) ∧ m.chan = 16 + 5)) ∧
    (demoSpec [0]).clearServed 0 0 5 = (demoSpec [0], 0, 3) ∧ State.writeRefused 0 3 6 = false :=
  ⟨rfl, rfl, by decide, rfl, by decide, by decide, by decide, by decide, rfl, by decide, fun _ h => (nomatch h), rfl, rfl⟩

theorem witness_Groups :
    let s := demo (withRegs [0, 64, 1, 0])
    s.Reads (entered (withRegs [0, 64, 1, 0])) [1, 2] [3] [64, 1] s ∧ s.Reads (entered (withRegs [0, 64, 1, 0])) [1, 3] [4] [64, 0] s ∧
    s.Reads (entered (withRegs [0, 64, 1, 0])) [1] [3] [64] s ∧ (entered (withRegs [0, 64, 1, 0])).sup = true ∧ (1 : Word).getLsbD 0 = true ∧
    s.check 0 0 64 16 segR 16 = .ok (2 ^ 56 + 64) ∧ s.mem.read (2 ^ 56 + 68) 2 = 0 ∧ s.isBad (2 ^ 56 + 64) 16 = false ∧
    State.writeRefused 0 3 0 = false ∧ (demo someThread).fab.group 5 = none ∧ (demo someThread).fab.member 5 0 = none ∧
    ((demoFab (aGroup [0] true false) (demo someThread)).fab.group 5).isSome = true ∧
    (demoFab (aGroup [0] true false) (demo someThread)).fab.member 5 0 = some { cx := 0, next := 2 ^ 24 - 1 } :=
  ⟨reads_plain (by decide), reads_plain (by decide), reads_plain (by decide), rfl, rfl, rfl, rfl, rfl, rfl, rfl, rfl, rfl, rfl⟩

/-- A registration on its way to the root of group 5, by package 0 or 1. -/
def regMsg (pkg : Nat) (ms : List Nat) : Payload := .register 5 { pkg := pkg, cx := 4 * pkg, tid := 0 } (aSpec ms)

theorem witness_Groups_register :
    (∃ m s1, (withMsg (regMsg 0 [0])).deliver 0 = some (m, s1) ∧ m.body = regMsg 0 [0] ∧ s1.fab.group 5 = none) ∧
    (∀ b ∈ [true, false], ∃ m s1, (demoFab (aGroup [0, 2048] false b) (withMsg (regMsg 1 [0, 2048]))).deliver 0 = some (m, s1) ∧
      m.body = regMsg 1 [0, 2048] ∧ s1.fab.group 5 = some (aGroup [0, 2048] false b)) ∧
    (∃ m s1, (demoFab { aGroup [0, 2048] true false with cleared := [0, 2] } (withMsg (regMsg 1 [0, 2048]))).deliver 0 = some (m, s1) ∧
      m.body = regMsg 1 [0, 2048] ∧ (∃ x, s1.fab.group 5 = some x)) ∧
    (aGroup [0, 2048] false false).over = false ∧ ({ aGroup [0] true false with cleared := [0] } : Group).over = true ∧
    aSpec [0, 2048] = (aGroup [0, 2048] false false).spec ∧ aSpec [0] ≠ (aGroup [0, 2048] false false).spec ∧
    (∀ y ∈ (aGroup [0, 2048] false false).regs, y.pkg ≠ 1) ∧ ∃ y ∈ (aGroup [0, 2048] false false).regs, y.pkg = 0 := by
  refine ⟨⟨_, _, rfl, rfl, rfl⟩, ?_, ⟨_, _, rfl, rfl, _, rfl⟩, by decide, by decide, rfl, by decide, by decide, by decide⟩
  intro b hb
  exact ⟨_, _, rfl, rfl, rfl⟩

theorem witness_Groups_install :
    let two := aGroup [0, 2048] false false
    let one := aGroup [0] false false
    (specPkgs two.spec).all (fun p => two.regs.any fun r => r.pkg == p) = false ∧
    (specPkgs one.spec).all (fun p => one.regs.any fun r => r.pkg == p) = true ∧ one.installed = false ∧
    ({ (demo someThread).fab with down := [downSw 0] } : Fabric).hasRoom one.spec = false ∧
    one.since + 1000 * specTout one.spec = 1000 ∧ (demo someThread).ticks < one.since + 1000 * specTout one.spec ∧
    (∀ r ∈ one.regs, r.pkg ≠ 1) ∧ (demo someThread).fab.hasRoom one.spec = true ∧
    (demoFab { one with installed := true, cleared := [0] } (demo someThread)).groupBusy 5 = false ∧
    one.regs.find? (fun r => r.pkg == 0) = some { pkg := 0, cx := 0, tid := 0 } ∧ NatSet.has one.cleared 0 = false := by decide

theorem witness_Groups_answer :
    (demo (waitsFor { kind := .gset, d := 3 })).thread 0 = some (waitsFor { kind := .gset, d := 3 }) ∧
    (waitsFor { kind := .gset, d := 3 }).wait = .mem { kind := .gset, d := 3 } ∧ ({ kind := .gset, d := 3 } : Req).locs = [] ∧
    State.writeRefused 0 3 (BitVec.ofNat 64 5) = false := ⟨rfl, rfl, rfl, rfl⟩

/-- A contribution descriptor of group 5: COUNT, FMT, SRC, DST, and the descriptor once it passed its checks. -/
def cdImage (count fmt src dst : Nat) : Nat := 5 + count * 2 ^ 32 + fmt * 2 ^ 48 + src * 2 ^ 64 + dst * 2 ^ 128

def aContribution (count fmt src dst : Nat) : Contribution :=
  { bytes := leBytes 64 (cdImage count fmt src dst), src := 2 ^ 56 + src, tkt := 0 }

def demoCd (s : State) : State := { s with mem := Mem.write [] (2 ^ 56 + 64) 64 (cdImage 1 0 0x100 0x200) }

theorem cd_chain (op : Nat) : (demoCd (demo someThread)).cdChain 0 0 op (2 ^ 56 + 64) 1 = .ok [aContribution 1 0 0x100 0x200] := by
  have h : (demoCd (demo someThread)).mem.bytes (2 ^ 56 + 64) 64 = leBytes 64 (cdImage 1 0 0x100 0x200) := by decide
  simp only [State.cdChain]; rw [h]; rfl

theorem witness_Collectives :
    (demoCd (demo someThread)).check 0 0 64 64 segR 64 = .ok (2 ^ 56 + 64) ∧ (demoCd (demo someThread)).isBad (2 ^ 56 + 64) 64 = false ∧
    (∀ op, (demoCd (demo someThread)).cdChain 0 0 op (2 ^ 56 + 64) 1 = .ok [aContribution 1 0 0x100 0x200]) ∧
    (∃ s2, (demoCd (demo someThread)).cdPages 0 [aContribution 1 0 0x100 0x200] = (none, s2)) ∧
    (∃ s3 rs, (demoCd (demo someThread)).fabGates 0 0 0 0 0 0x100 [aContribution 1 0 0x100 0x200] = .ok (s3, rs)) :=
  ⟨rfl, rfl, cd_chain, ⟨_, rfl⟩, _, _, rfl⟩

theorem witness_Collectives_codes :
    (∀ b ∈ [true, false], ∃ g m, (demoFab (aGroup [0] true b) (demo someThread)).fab.group (cdGroup (aContribution 1 0 0x100 0x200).bytes) = some g ∧
      (demoFab (aGroup [0] true b) (demo someThread)).fab.member (cdGroup (aContribution 1 0 0x100 0x200).bytes) 0 = some m ∧
      g.installed = true ∧ m.cx = 0 ∧ g.broken = b) ∧
    cdBad (aSpec [0]) 2 (aContribution 1 16 0x100 0x200).bytes = true ∧ cdGroup (aContribution 1 16 0x100 0x200).bytes = 5 ∧
    cdBad (aSpec [0]) 2 (aContribution 1 0 0x100 0x200).bytes = false ∧
    (demo someThread).fab.group 5 = none := by
  refine ⟨?_, by decide, by decide, by decide, rfl⟩
  intro b hb
  exact ⟨aGroup [0] true b, { cx := 0, next := 2 ^ 24 - 1 }, by revert b; decide, by revert b; decide, rfl, rfl, rfl⟩

/-- A collective of core 0 in flight. -/
def inFlight (comm : Bool) (left since : Nat) : Outstanding :=
  { core := 0, cx := 0, grp := 5, seq := 7, op := 1, tid := if comm then 15 else 0, place := 0, comm := comm, ticket := 0, left := left, code := 0,
    record := none, since := since, tout := 1, cut := false, decided := false }

/-- demo with a contribution of core 0 whose source its port has still to read, and its collective in flight. -/
def demoRead (op fmt : Nat) (bad : Bool) : State :=
  let k : Chunk := { grp := 5, seq := 7, core := 0, op := op, count := 1, fmt := fmt, dst := 0x200, dcore := 0, vals := [], bad := false, ctr := none }
  let p : FabRead := { src := 2 ^ 56 + 0x100, n := 4, port := portPlace 0 0, sw := 0, targets := if op = 2 then [0] else [], chunk := k }
  let s := demoFab (aGroup [0] true false) (demo someThread)
  { s with
    mem := Mem.write [] (2 ^ 56 + 0x100) 4 0x3F800000, bad := if bad then [(2 ^ 56 + 0x100) / 8] else []
    cores := [(0, { demoCore with fabOut := [p] })], fab := { s.fab with flight := [inFlight false 1 0] } }

theorem witness_Collectives_reads :
    ∀ op ∈ [0, 1, 2], ∀ bad ∈ [true, false], ∃ p o, ((demoRead op 0 bad).core 0).fabOut = p :: [] ∧ laRegion p.src = 1 ∧ p.chunk.op = op ∧ p.chunk.fmt < 2 ∧
      p.chunk.bad = false ∧ (demoRead op 0 bad).isBad p.src p.n = bad ∧
      ((((demoRead op 0 bad).exchange p.port 0).modCore 0 fun y => { y with fabOut := [] }).fab.flight.find? fun o =>
        o.core == p.chunk.core && o.grp == p.chunk.grp && o.seq == p.chunk.seq) = some o ∧ o.code = 0 := by
  intro op hop bad hb
  refine ⟨_, inFlight false 1 0, rfl, ?_, rfl, by simp, rfl, ?_, by rfl, rfl⟩ <;> revert bad op <;> decide

/-- R410: the port reads 1.0 from local store and its chunk leaves for the leaf. -/
theorem test_contribution_leaves :
    (match exec (.reductionChunkArrival (2 ^ 49)) (demoRead 1 0 false) with
     | .next s => s.net.map (fun m => match m.body with | .chunk sw port k => (sw, port, k.vals, k.bad) | _ => (0, 0, [], true)) == [(0, 0, [0x3F800000], false)] &&
        (s.core 0).fabOut.isEmpty
     | _ => false) = true := by decide

/-- A thread that waits for the statuses of a chain of collectives, those back as given. -/
def awaiting (l : List (Option Word)) : Thread := { someThread with wait := .held .fabric, fab := l }

/-- Chains of two and three: with every status good, and with the second one that is not. -/
theorem witness_Collectives_chain :
    (awaiting [none, none]).fab.set 0 (some 5) = [some 5, none] ∧ none ∈ (awaiting [none, none]).fab.set 0 (some 5) ∧
    (awaiting [some 0x700, none]).fab.set 1 (some 0x800) = (0x700 :: [0x800]).map some ∧ (∀ x ∈ ([0x700, 0x800] : List Word), x.toNat % 256 = 0) ∧
    (awaiting [some 0x700, some 0x803, none]).fab.set 2 (some 0x900) = (0x700 :: [0x803, 0x900]).map some ∧
    ([0x700, 0x803, 0x900] : List Word) = [0x700] ++ 0x803 :: [0x900] ∧ (∀ y ∈ ([0x700] : List Word), y.toNat % 256 = 0) ∧
    ¬ (0x803 : Word).toNat % 256 = 0 ∧ State.writeRefused 0 3 0x803 = false :=
  ⟨rfl, by simp [awaiting], rfl, by simp, rfl, rfl, by simp, by simp, rfl⟩

theorem witness_Collectives_status :
    (∃ t, (demo { someThread with wait := .held .fabric, fab := [none] }).thread (inFlight false 1 0).tid = some t ∧ t.wait = .held .fabric ∧
      t.fab = [none]) ∧
    (inFlight true 1 0).comm = true ∧ (inFlight false 1 0).comm = false ∧
    (∀ n ∈ [1, 2], ∃ m s1, ({ withMsg (.status 0 5 7 0) with fab := { (demo someThread).fab with flight := [inFlight false n 0] } } : State).deliver 0 =
      some (m, s1) ∧ m.body = .status 0 5 7 0 ∧
      (s1.fab.flight.find? fun o => o.core == 0 && o.grp == 5 && o.seq == 7 && !o.cut) = some (inFlight false n 0)) := by
  refine ⟨⟨_, rfl, rfl, rfl⟩, rfl, rfl, ?_⟩
  intro n hn
  refine ⟨_, _, rfl, rfl, ?_⟩
  revert n; decide

theorem witness_Collectives_one :
    let held : Thread := awaiting [none]
    let u : State := { withMsg (.status 0 5 7 0) with threads := [(0, held)], fab := { (demo someThread).fab with flight := [inFlight false 1 0] } }
    (∃ m u1, u.deliver 0 = some (m, u1) ∧ m.body = .status 0 5 7 0 ∧ u1.thread 0 = some held ∧
      (u1.fab.flight.find? fun o => o.core == 0 && o.grp == 5 && o.seq == 7 && !o.cut) = some (inFlight false 1 0)) ∧
    (inFlight false 1 0).tid = 0 ∧ (inFlight false 1 0).left = 1 ∧ (inFlight false 1 0).place = 0 ∧ (inFlight false 1 0).code = 0 ∧
    (inFlight false 1 0).record = none ∧ (inFlight false 1 0).ticket = 0 ∧ (inFlight false 1 0).seq = 7 ∧
    State.writeRefused 0 10 (BitVec.ofNat 64 (statusOf 7 0 0)) = false :=
  ⟨⟨_, _, rfl, rfl, rfl, by decide⟩, rfl, rfl, rfl, rfl, rfl, rfl, rfl, by decide⟩

/-- The member's link, its leaf and the way to the root are up or down. -/
theorem witness_Collectives_passes :
    let up := (demoFab (aGroup [0, 2048] true false) (demo someThread)).fab
    let cut : Fabric := { up with down := [downPort 0 (memberLink (aSpec [0, 2048]) 0)] }
    up.statusPasses 5 2048 0 = true ∧ cut.statusPasses 5 2048 0 = false ∧ up.chunkPasses (aSpec [0, 2048]) 0 0 = true ∧
    cut.chunkPasses (aSpec [0, 2048]) 0 0 = false ∧
    up.writePasses { grp := 5, seq := 0, core := 0, op := 1, count := 1, fmt := 0, dst := 0, dcore := 0, vals := [], bad := false, ctr := none } 0 = true ∧
    cut.writePasses { grp := 5, seq := 0, core := 0, op := 1, count := 1, fmt := 0, dst := 0, dcore := 0, vals := [], bad := false, ctr := none } 0 =
      false := by decide

/-- R404, R413: a gred's result for a core of a die that holds no member passes while a member of its package is connected, whatever the
port of that die. -/
theorem test_result_memberless_die :
    let up := (demoFab (aGroup [0, 2048] true false) (demo someThread)).fab
    let k : Chunk := { grp := 5, seq := 0, core := 0, op := 0, count := 1, fmt := 0, dst := 0, dcore := 1036, vals := [], bad := false, ctr := none }
    coreDie 1036 = 1 ∧ ({ up with down := [downPort 0 18] } : Fabric).writePasses k 1036 = true ∧
    ({ up with down := [downPort 0 0] } : Fabric).writePasses k 1036 = false := by decide

theorem witness_Collectives_cutoff :
    let up := demoFab (aGroup [0] true false) (demo someThread)
    up.fab.connected (aSpec [0]) 0 = true ∧ ({ up.fab with down := [downSw 0] } : Fabric).connected (aSpec [0]) 0 = false ∧
    (inFlight false 1 0).cut = false ∧ ({ up with ticks := 2000 } : State).ticks = (inFlight false 1 0).since + 2000 * (inFlight false 1 0).tout ∧
    ({ up with ticks := 1999 } : State).ticks < (inFlight false 1 0).since + 2000 * (inFlight false 1 0).tout := by decide

theorem witness_Collectives_queues :
    let s : State := { demoCd (demo someThread) with cores := [(0, { demoCore with xq := [(1, [64]), (3, [5])] })] }
    (s.core 0).xq.at [] 3 = 5 :: [] ∧ (s.core 0).xq.at [] 1 = 64 :: [] ∧ s.ownerOf 0 15 = some 0 ∧
    s.check 0 0 ((64 : Word) &&& 0xFFFFF) 64 segR 64 = .ok (2 ^ 56 + 64) ∧ s.check 0 0 ((65 : Word) &&& 0xFFFFF) 64 segR 64 = .error ⟨6, 65⟩ ∧
    s.isBad (2 ^ 56 + 64) 64 = false ∧
    s.portMiss (.slot 15) 0 [] = none ∧ s.commPages 15 [aContribution 1 0 0x100 0x200] = none ∧
    (∃ s2 rs, s.fabGates 0 0 0 0 15 0 [aContribution 1 0 0x100 0x200] = .ok (s2, rs)) ∧
    (aContribution 1 0 0x100 0x200).offs = [] := ⟨rfl, rfl, rfl, rfl, rfl, rfl, rfl, rfl, ⟨_, _, rfl⟩, rfl⟩

/-- A chain on x1 whose source lies in a page without an entry: to be walked for, or known to have none; and one whose group's record has
not come in a replay, or another comes in its place. -/
theorem witness_Collectives_element :
    let x : Contribution := { bytes := leBytes 64 (cdImage 1 0 0x50000 0x200), src := 0x50000, tkt := 0 }
    let s : State := { demo someThread with cores := [(0, { demoCore with xq := [(1, [64])] })] }
    let none_ : State := { s with
      clusters := [(0, { Cluster.reset with tlb := demoTlb, notes := [{ who := .slot 15, unit := 5, found := false }] })] }
    s.portMiss (.slot 15) 0 x.offs = some 0x50000 ∧ none_.portMiss (.slot 15) 0 x.offs = none ∧
    none_.commPages 15 [x] = some (cdSrc x.bytes) ∧
    (∃ o, ({ s with ctxs := [(0, { demoCtx with replay := 2 })] } : State).fabGates 2 0 0 0 15 0 [x] = .error (.wait .replay o)) ∧
    (∃ o a e, ({ s with ctxs := [(0, { demoCtx with replay := 2, log0 := { LogUnit.reset with dispatched := [(0, { ts := 1, src := 15, kind := 0x0A, seq := 0, obj := groupObj 5, pc := 0, out := 0 })] } })] } :
      State).fabGates 2 0 0 0 15 0 [x] = .error (.diverge o a e)) :=
  ⟨by decide, by decide, by decide, ⟨_, rfl⟩, _, _, _, rfl⟩

/-- A chunk of group 5 from core 0. -/
def aChunk (seq : Nat) : Chunk :=
  { grp := 5, seq := seq, core := 0, op := 1, count := 1, fmt := 0, dst := 0x200, dcore := 0, vals := [0x3F800000], bad := false, ctr := none }

def aSlot (st : SlotState) (seq : Nat) : RedSlot := { st := st, seq := seq, chunks := [(2, aChunk seq)], bad := false, since := 0 }

/-- demo with group 5, a message, and a slot at switch 0. -/
def demoSlots (ms : List Nat) (b : Payload) (y : Option RedSlot) : State :=
  let s := demoFab (aGroup ms true false) (withMsg b)
  match y with
  | none => s
  | some y => { s with fab := { s.fab with slots := [(0, [(80, y)])] } }

theorem witness_ReductionSlots :
    let s (ms : List Nat) (y : Option RedSlot) := demoSlots ms (.chunk 0 0 (aChunk 0)) y
    (∃ m s1 x, (s [0, 2048] none).deliver 0 = some (m, s1) ∧ m.body = .chunk 0 0 (aChunk 0) ∧ s1.fab.group 5 = some x ∧
      NatSet.has (s [0, 2048] none).fab.down (downSw 0) = false ∧ (s1.slot 0 (slotKey x.spec 5 0)).st = .free ∧
      1 < (childPorts x.spec 0).length) ∧
    (childPorts (aSpec [0, 524288]) 0).length = 1 ∧ (parentOf (aSpec [0, 524288]) 0).isSome = true ∧ parentOf (aSpec [0, 2048]) 0 = none ∧
    (childPorts (aSpec [0, 2048]) 0).length = ((aSlot .collect 0).chunks.put 0 (aChunk 0)).length ∧
    ((aSlot .collect 0).chunks.put 0 (aChunk 0)).length < (childPorts (aSpec [0, 2048, 4096]) 0).length ∧
    (∀ st ∈ [SlotState.collect, .up, .dead], ∀ q ∈ [0, 1], (s [0, 2048] (some (aSlot st q))).slot 0 (slotKey (aSpec [0, 2048]) 5 0) = aSlot st q) :=
  ⟨⟨_, _, _, rfl, rfl, rfl, rfl, by decide, by decide⟩, by decide, by decide, by decide, by decide, by decide, by decide⟩

/-- A slot that waits at number 0, with a message of another. -/
theorem witness_ReductionSlots_order :
    let s (y : RedSlot) (seq : Nat) := demoSlots [0, 2048] (.chunk 0 0 (aChunk seq)) (some y)
    (∀ e ∈ [(SlotState.collect, 0, 2), (.up, 0, 2), (.collect, 2, 0), (.up, 2, 0), (.dead, 2, 2), (.dead, 2, 0), (.dead, 0, 1), (.dead, 0, 2)],
      ((s (aSlot e.1 e.2.1) e.2.2).deliver 0).isSome = true ∧ (s (aSlot e.1 e.2.1) e.2.2).slot 0 (slotKey (aSpec [0, 2048]) 5 e.2.2) = aSlot e.1 e.2.1) ∧
    (¬ (1 ≤ (0 + 2 ^ 24 - 2) % 2 ^ 24 ∧ (0 + 2 ^ 24 - 2) % 2 ^ 24 < 2 ^ 23)) ∧ (1 ≤ (2 + 2 ^ 24 - 0) % 2 ^ 24 ∧ (2 + 2 ^ 24 - 0) % 2 ^ 24 < 2 ^ 23) ∧
    specSlots (aSpec [0, 2048]) = 1 ∧ 1 = (0 + specSlots (aSpec [0, 2048])) % 2 ^ 24 ∧ 2 ≠ (0 + specSlots (aSpec [0, 2048])) % 2 ^ 24 ∧
    1 < (childPorts (aSpec [0, 2048]) 0).length := by
  refine ⟨?_, by decide, by decide, by decide, by decide, by decide, by decide⟩
  simp only [List.forall_mem_cons, List.not_mem_nil, false_implies, implies_true, and_true]
  exact ⟨by decide, by decide, by decide, by decide, by decide, by decide, by decide, by decide⟩

/-- The last child's chunk at a slot below the root: two children, the parent's link up, the earlier chunk at a higher or a lower port. -/
theorem witness_ReductionSlots_last :
    let l := aSpec [0, 2048, 524288]
    (childPorts l 0).length = 2 ∧ (∃ up, parentOf l 0 = some up) ∧ (demo someThread).fab.upLink l 0 = true ∧
    (aSlot .collect 0).chunks = [(2, aChunk 0)] ∧ (childPorts l 0).length ≤ ((aSlot .collect 0).chunks.put 0 (aChunk 0)).length ∧
    ((aSlot .collect 0).chunks.put 0 (aChunk 0)).map (·.2) = aChunk 0 :: [aChunk 0] ∧ ([aChunk 0] : List Chunk) ≠ [] :=
  ⟨by decide, ⟨_, rfl⟩, by decide, rfl, by decide, by decide, by simp⟩

theorem witness_ReductionSlots_notice :
    (∃ m s1 x, (demoSlots [0, 524288] (.notice 0 5 0 1 none) (some (aSlot .up 0))).deliver 0 = some (m, s1) ∧ m.body = .notice 0 5 0 1 none ∧
      s1.fab.group 5 = some x ∧ 0 ≠ rootSw x.spec ∧ NatSet.has s1.fab.down (downSw 0) = false ∧
      (s1.slot 0 (slotKey x.spec 5 0)).st = .up ∧ (s1.slot 0 (slotKey x.spec 5 0)).seq = 0) ∧
    (∃ m s1 x, (demoSlots [0, 2048] (.notice 0 5 0 1 none) (some (aSlot .collect 0))).deliver 0 = some (m, s1) ∧ m.body = .notice 0 5 0 1 none ∧
      s1.fab.group 5 = some x ∧ 0 = rootSw x.spec ∧ (s1.slot 0 (slotKey x.spec 5 0)).st = .collect ∧ (s1.slot 0 (slotKey x.spec 5 0)).seq = 0) ∧
    (∃ m s1 x, (demoSlots [0, 524288] (.notice 0 5 0 1 none) (some (aSlot .collect 1))).deliver 0 = some (m, s1) ∧ m.body = .notice 0 5 0 1 none ∧
      s1.fab.group 5 = some x ∧ 0 ≠ rootSw x.spec ∧ (s1.slot 0 (slotKey x.spec 5 0)).st ≠ .up) ∧
    ({ (demo someThread).fab with down := [downSw 0] } : Fabric).down = [downSw 0] ∧ NatSet.has [downSw 0] (downSw 0) = true ∧
    ({ aChunk 0 with ctr := some 63 } : Chunk).ctr = some 63 ∧ (demo someThread).ownsCounter 0 0 63 = true ∧ (demo someThread).ownsCounter 0 0 64 = false :=
  ⟨⟨_, _, _, rfl, rfl, rfl, by decide, by decide, by decide, by decide⟩, ⟨_, _, _, rfl, rfl, rfl, by decide, by decide, by decide⟩,
    ⟨_, _, _, rfl, rfl, rfl, by decide, by decide⟩, rfl, by decide, rfl, rfl, rfl⟩

/-- A result for a context that has returned to Free: what is kept of its store. -/
theorem witness_ReductionSlots_kept :
    let g : Group := { aGroup [0] true false with kept := [(0, (demoResid, demoSegs.headD { base := 0, limit := 0, rights := 0, kind := 0 }))] }
    let f := (demoFab g (demo someThread)).fab
    f.keptAt 5 0 = some (demoResid, demoSegs.headD { base := 0, limit := 0, rights := 0, kind := 0 }) ∧ f.contextAt 5 0 = some 0 ∧
    0x100000 ≤ demoResid.lssize ∧ (aChunk 0).dst + 4 ≤ 0x100000 ∧ segW &&& 7 = segW ∧
    0x100000 < ({ aChunk 0 with dst := 0xFFFFD } : Chunk).dst + 4 ∧ (aChunk 0).ctr = none ∧ ({ aChunk 0 with ctr := some 63 } : Chunk).ctr = some 63 ∧
    demoResid.cfirst ≤ 63 ∧ 63 < demoResid.cfirst + demoResid.ccount := by decide

theorem witness_ReductionSlots_end :
    let s := demoSlots [0] (.write 0 (aChunk 0) [0, 0, 0x80, 0x3F] [0]) (some (aSlot .collect 0))
    (∃ m s1, s.deliver 0 = some (m, s1) ∧ m.body = .write 0 (aChunk 0) [0, 0, 0x80, 0x3F] [0] ∧
      s1.check 0 0 (BitVec.ofNat 64 (aChunk 0).dst) 4 segW 1 = .ok (2 ^ 56 + 0x200) ∧
      s1.check 0 0 (BitVec.ofNat 64 (2 ^ 20 - 3)) 4 segW 1 = .error ⟨3, BitVec.ofNat 64 (2 ^ 20 - 3)⟩) ∧
    s.fab.contextAt 5 0 = some 0 ∧ (demo someThread).fab.contextAt 5 0 = none ∧ s.coreOk 0 = true ∧
    (∃ x, s.fab.group 5 = some x ∧ (s.slot 0 (16 * 5 + 0)).st = .collect ∧ (s.slot 0 (16 * 5 + 0)).since + 1000 * specTout x.spec = 1000 ∧
      s.ticks < 1000) ∧
    (∃ m s1 x, (demoSlots [0] (.notice 0 5 0 1 none) (some (aSlot .up 0))).deliver 0 = some (m, s1) ∧ m.body = .notice 0 5 0 1 none ∧
      s1.fab.group 5 = some x ∧ (s1.slot 0 (slotKey x.spec 5 0)).st = .up ∧ (s1.slot 0 (slotKey x.spec 5 0)).seq = 0) :=
  ⟨⟨_, _, rfl, rfl, rfl, rfl⟩, rfl, rfl, rfl, ⟨_, rfl, rfl, by decide, by decide⟩, _, _, _, rfl, rfl, rfl, by decide, by decide⟩

theorem witness_DebugAndTime :
    let s := demo (withRegs [0, 3, 0x105, 0x106, 128])
    s.Reads (entered (withRegs [0, 3, 0x105, 0x106, 128])) [1, 2] [] [3, 0x105] s ∧ (0x105 : Word).toNat % 4 < 2 ∧ 2 ≤ (0x106 : Word).toNat % 4 ∧
    s.Reads (entered (withRegs [0, 3, 0x105, 0x106, 128])) [1] [] [3] s ∧ s.Reads (entered (withRegs [0, 3, 0x105, 0x106, 128])) [] [] [] s ∧
    s.Reads (entered (withRegs [0, 3, 0x105, 0x106, 128])) [4] [5] [128] s ∧ s.check 0 0 128 128 segW 128 = .ok (2 ^ 56 + 128) ∧
    s.check 0 0 (va 1 0x100) 128 segW 128 = .ok 0x100 ∧ laRegion 0x100 ≠ 1 ∧ State.writeRefused 0 5 0 = false ∧
    (∀ n ∈ [0, 1, 2, 3], ∃ t r, (demo (waitsFor { kind := .dbg, vals := [3, 0x105], n := n })).thread 0 = some t ∧ t.wait = .mem r ∧
      r.kind = .dbg ∧ r.locs = [] ∧ r.n = n) := by
  refine ⟨reads_plain (by decide), by decide, by decide, reads_plain (by decide), reads_plain (by decide), reads_plain (by decide), rfl, rfl, by decide, rfl, ?_⟩
  intro n hn
  exact ⟨_, _, rfl, rfl, rfl, rfl, rfl⟩

theorem witness_DebugAndTime_snap :
    ((withRelaxed 1).relaxed.any fun x => (demo (withRelaxed 1)).touches x (.loc (2 ^ 56 + 384)) 128) = false ∧
    ((withRelaxed 1).relaxed.any fun x => (demo (withRelaxed 1)).touches x (.loc (2 ^ 56 + 512)) 128) = true ∧
    (demo (withRelaxed 1)).check 0 0 384 128 segW 128 = .ok (2 ^ 56 + 384) ∧ (demo (withRelaxed 1)).check 0 0 512 128 segW 128 = .ok (2 ^ 56 + 512) := by
  decide

theorem witness_DebugAndTime_run :
    let s : State := { demo someThread with ctxs := [(0, { demoCtx with bps := [(3, (va 1 0x100, false)), (4, (va 1 0x100, true))] })] }
    s.thread s.cur = some someThread ∧ (s.ctx 0).bps.find? 3 = some (va 1 0x100, false) ∧ (s.ctx 0).bps.find? 4 = some (va 1 0x100, true) ∧
    someThread.relaxed = [] ∧
    (let u : State := { s with ticks := 7, fab := { s.fab with sent := 5 } }
     u.ticks ≤ 5 + 3 ∧ 5 ≤ u.fab.sent ∧ 5 + 52 ≤ u.ticks + 50 ∧ u.fab.sent < 6 ∧ u.ticks + 50 < 5 + 53) ∧
    (∀ e ∈ s.pkgs, e.2.traces = []) ∧ (999 + 1) % 1000 = 0 ∧ (998 + 1) % 1000 ≠ 0 ∧ s.fab.masterUp = true ∧
    ({ s.fab with down := [downSw (spineSw 0 0)] } : Fabric).masterUp = false ∧ NatSet.has s.fab.down (downSw (spineSw 0 s.fab.master)) = false ∧
    (s.core 0).counted = s.clock ∧ (s.core 0).acctRun = true := by decide

theorem witness_DebugAndTime_failover :
    let f : Fabric := { (demo someThread).fab with down := NatSet.insert [] (downSw (spineSw 0 0)) }
    NatSet.has f.down (downSw (spineSw 0 f.master)) = true ∧ NatSet.has f.down (downSw (spineSw 0 1)) = false ∧
    ∀ j, j < 1 → NatSet.has f.down (downSw (spineSw 0 j)) = true := by decide

/-- demo with its thread in slot 9 marked for a spill, that slot named by no context. -/
def demoSpill (t : Thread) : State :=
  { demo t with
    threads := [(9, t)], cores := [(0, { demoCore with toSpill := [9] })]
    ctxs := [(0, { demoCtx with map := [(0, { demoResid with slots := 0x1FF })] })] }

theorem witness_SpillLogReplay_spill :
    NatSet.has ((demoSpill someThread).core 0).toSpill 9 = true ∧ (demoSpill someThread).thread 9 = some someThread ∧
    (demoSpill someThread).serves 9 0 = false ∧ someThread.boundary = true ∧ ({ someThread with wait := .held .fabric } : Thread).boundary = false ∧
    (∃ l s0, (demoSpill someThread).RecordAt 9 0 l s0 ∧ s0.sealedAt l = false) ∧
    ∃ r o, ({ demoSpill someThread with clusters := [] } : State).resid 0 0 = some r ∧
      ({ demoSpill someThread with clusters := [] } : State).portMiss (.slot 9) 0 [canonLa 0 (r.savebase + 512 * slotOf 9)] = some o :=
  ⟨rfl, rfl, by decide, by decide, by decide, ⟨_, _, ⟨_, _, rfl, by decide, rfl, rfl⟩, by decide⟩, _, 0x1200, rfl, by decide⟩

theorem witness_SpillLogReplay_resume :
    let m : SavedMark := { frozen := false, row := [], handler := false, passBp := false, zeroed := false }
    let s : State := { demo someThread with threads := [], ctxs := [(0, { demoCtx with saved := [(9, m)] })] }
    (s.ctx 0).saved.find? 9 = some m ∧ s.serves 9 0 = true ∧ s.thread 9 = none ∧ NatSet.has (s.core 0).reserved 9 = false ∧ s.running 0 = true ∧
    (s.core 0).disabled = false ∧ (∃ l s0, s.RecordAt 9 0 l s0 ∧ s0.isBad l.key 128 = false ∧ (s0.ctx 0).replay = 0 ∧
      (s0.ctx 0).trace = 0 ∧ packetExt (s0.mem.bytes l.key 512) = false ∧
      ({ s0 with bad := [l.key / 8] } : State).isBad l.key 128 = true) :=
  ⟨rfl, by decide, rfl, rfl, rfl, rfl, _, _, ⟨_, _, rfl, by decide, rfl, rfl⟩, by decide, rfl, rfl, by decide, by decide⟩

/-- A record of a kind, and demo whose log unit has it to append at a ring's base. -/
def aRec (kind : Nat) : Rec := { ts := 1, src := 0, kind := kind, seq := 0, obj := 7, pc := 0, out := 0 }

def demoAppend (base : Nat) : State :=
  let l := { LogUnit.reset with base := BitVec.ofNat 64 base, size := 0x10000, pending := [aRec 1] }
  { demo someThread with ctxs := [(0, { demoCtx with replay := 1, log0 := l })] }

theorem witness_SpillLogReplay_append :
    (demoAppend 0).nextAppend 0 0 = some (aRec 1) ∧ (demoAppend 0x20000).nextAppend 0 0 = some (aRec 1) ∧
    (∃ p, (demoAppend 0).recordPlace 0 0 0 = some p ∧ (demoAppend 0).isBad p.key 32 = false ∧ (demoAppend 0).sealedAt p = false) ∧
    (demoAppend 0x20000).recordPlace 0 0 0 = none :=
  ⟨by decide, by decide, ⟨.hbm 0 0 0x100000, by decide, by decide, by decide⟩, by decide⟩

/-- demo in replay with a loaded record of a kind to read, and a thread that waits since time 0. -/
def demoReplay (kind rtimeout : Nat) : State :=
  let l := { LogUnit.reset with size := 0x10000, cons := 1 }
  { demo { someThread with wait := .held .replay, replayFrom := some (0, 7) } with
    mem := Mem.write [] (2 ^ 61 + 0x100000) 32 (leNat (aRec kind).bytes)
    ctxs := [(0, { demoCtx with replay := 2, rtimeout := BitVec.ofNat 64 rtimeout, log0 := l })]
    ticks := 10 }

theorem witness_SpillLogReplay_replay :
    (∀ k ∈ [0, 1, 15, 16], ((demoReplay k 5).ctx 0).replay = 2 ∧ (((demoReplay k 5).ctx 0).log 0).unread = some 0 ∧
      (demoReplay k 5).recordPlace 0 0 0 = some (.hbm 0 0 0x100000) ∧ (demoReplay k 5).isBad (2 ^ 61 + 0x100000) 32 = false ∧
      (Rec.ofBytes ((demoReplay k 5).mem.bytes (2 ^ 61 + 0x100000) 32)).kind = k) ∧
    (∃ t, (demoReplay 1 5).thread 0 = some t ∧ t.replayFrom = some (0, 7)) ∧ 0 + 9 < (demoReplay 1 9).time 0 ∧
    (demoReplay 1 10).time 0 ≤ 0 + 10 ∧ ((demoReplay 1 5).ctx 0).rtimeout ≠ 0 ∧ ((demoReplay 1 0).ctx 0).rtimeout = 0 :=
  ⟨by decide, ⟨_, rfl, rfl⟩, by decide, by decide, by decide, by decide⟩

theorem byte_beyond {m : Mem} {k : Nat} (h : ∀ e ∈ m, e.1 < k) : m.byte k = 0 := by
  have : NatMap.find? m k = none := by
    induction m with
    | nil => rfl
    | cons e r ih =>
      have h1 := h e (by simp)
      rw [NatMap.find?, if_neg (by omega), if_neg (by omega)]
      exact ih fun x hx => h x (by simp [hx])
  simp [Mem.byte, this, unlistedByte]

theorem bytes_beyond {m : Mem} (n : Nat) : ∀ k, (∀ e ∈ m, e.1 < k) → m.bytes k n = List.replicate n 0 := by
  induction n with
  | zero => intro k h; rfl
  | succ n ih =>
    intro k h
    rw [Mem.bytes, byte_beyond h, ih (k + 1) fun e he => by have := h e he; omega]
    rfl

theorem bytes_add (m : Mem) (a b : Nat) : ∀ k, m.bytes k (a + b) = m.bytes k a ++ m.bytes (k + a) b := by
  induction a with
  | zero => intro k; simp [Mem.bytes]
  | succ a ih =>
    intro k
    rw [show a + 1 + b = (a + b) + 1 by omega, Mem.bytes, ih, Mem.bytes, show k + 1 + a = k + (a + 1) by omega]
    rfl

theorem leNat_zeros (n : Nat) : leNat (List.replicate n 0) = 0 := by
  induction n with
  | zero => rfl
  | succ n ih => rw [List.replicate_succ, leNat, ih]; rfl

theorem mapEntries_zeros (n : Nat) : ∀ i r, mapEntries n i (List.replicate r 0) = [] := by
  induction n with
  | zero => intro i r; rfl
  | succ n ih =>
    intro i r
    have h : field (List.replicate r 0) 8 2 = 0 := by simp only [field, List.drop_replicate, List.take_replicate, leNat_zeros]
    rw [mapEntries, if_pos h, List.drop_replicate]
    exact ih _ _

/-- A part after reset with 2 MiB of package 0 mapped at frame 32, a launch descriptor there at 0 and its residency map at 0x1000. -/
def demoLaunch : State :=
  let d := 0x800 + 2 ^ 256 * (0x10000 * 2 ^ 192) + 2 ^ 256 * 2 ^ 256 * (0x1000 * 2 ^ 64)
  let m := 0x1000 * 2 ^ 32 + 0xFFFF * 2 ^ 64 + 0xFF * 2 ^ 80 + 0xFF * 2 ^ 88 + 64 * 2 ^ 192
  { State.reset with
    mem := Mem.write (Mem.write [] (2 ^ 61 + 0x200000) 128 d) (2 ^ 61 + 0x201000) 64 m
    pkgs := [(0, { Package.reset 0 with pt := [(wayIndex 0 (homeOf 0) (bucketBig 0), { tagw := 2 ^ 63 + 2 ^ 62, frame := 32, sw := 0 })] })] }

theorem findWay_one {e : Pte} {off k : Nat} (h : e.covers true off = true) : findWay [(k, e)] true off k = some (k, e) := by
  rw [findWay, show List.range 8 = [0, 1, 2, 3, 4, 5, 6, 7] from rfl]
  simp only [List.findSome?, NatMap.find?, Nat.add_zero, if_true, h]

theorem launch_walk {off : Nat} (h : off < 2 ^ 21) :
    ∃ i, (demoLaunch.pkg 0).walk 0 off = some (i, { tagw := 2 ^ 63 + 2 ^ 62, frame := 32, sw := 0 }) := by
  have e : off / 2 ^ 21 = 0 := by omega
  have c : Pte.covers { tagw := 2 ^ 63 + 2 ^ 62, frame := 32, sw := 0 } true off = true := by
    have h1 : Pte.valid { tagw := 2 ^ 63 + 2 ^ 62, frame := 32, sw := 0 } = true := by decide
    have h2 : Pte.big { tagw := 2 ^ 63 + 2 ^ 62, frame := 32, sw := 0 } = true := by decide
    have h3 : Pte.vpn { tagw := 2 ^ 63 + 2 ^ 62, frame := 32, sw := 0 } = 0 := by decide
    have h4 : off / 65536 < 0 + 32 := by omega
    simp only [Pte.covers, h1, h2, h3, pageUnits, if_true, h4, Nat.zero_le, decide_true, Bool.and_self, beq_self_eq_true]
  refine ⟨wayIndex 0 (homeOf 0) (bucketBig 0), ?_⟩
  have hp : (demoLaunch.pkg 0).pt = [(wayIndex 0 (homeOf 0) (bucketBig 0), { tagw := 2 ^ 63 + 2 ^ 62, frame := 32, sw := 0 })] := by
    simp [demoLaunch, State.pkg, NatMap.at, NatMap.find?]
  have hh : homeOf off = homeOf 0 := by rw [homeOf, e, homeOf, Nat.zero_div]
  have hb : bucketBig off = bucketBig 0 := by rw [bucketBig, e, bucketBig, Nat.zero_div]
  rw [Package.walk]
  simp only [hp, hh, hb, findWay_one c]

theorem launch_bytes (n : Nat) : ∀ off, off + n ≤ 2 ^ 21 → demoLaunch.hbmBytes 0 n off = some (demoLaunch.mem.bytes (2 ^ 61 + 0x200000 + off) n) := by
  induction n with
  | zero => intro off h; rfl
  | succ n ih =>
    intro off h
    obtain ⟨i, hw⟩ := launch_walk (off := off) (by omega)
    have hk : (Loc.hbm 0 off (physOf (Pte.vpn { tagw := 2 ^ 63 + 2 ^ 62, frame := 32, sw := 0 }) (Pte.pfn { tagw := 2 ^ 63 + 2 ^ 62, frame := 32, sw := 0 }) off)).key =
        2 ^ 61 + 0x200000 + off := by
      simp [Loc.key, physOf, Pte.vpn, Pte.pfn]; omega
    have hb : demoLaunch.isBad (2 ^ 61 + 0x200000 + off) 1 = false := by simp [State.isBad, demoLaunch, State.reset]
    rw [State.hbmBytes, hw]
    simp only [hk, hb, Bool.false_eq_true, if_false]
    rw [ih (off + 1) (by omega), show 2 ^ 61 + 0x200000 + (off + 1) = 2 ^ 61 + 0x200000 + off + 1 by omega]
    rfl

theorem witness_HostCommands_launch : ∃ l es x, demoLaunch.launchCheck 0 0 = .ok (l, es, x) := by
  have hm : demoLaunch.hbmBytes 0 73728 0x1000 = some (demoLaunch.mem.bytes (2 ^ 61 + 0x201000) 64 ++ List.replicate 73664 0) := by
    rw [launch_bytes 73728 0x1000 (by omega), show 73728 = 64 + 73664 by rfl, bytes_add]
    rw [bytes_beyond (m := demoLaunch.mem) 73664 _ (by decide)]
  have hes : mapEntries 1152 0 (demoLaunch.mem.bytes (2 ^ 61 + 0x201000) 64 ++ List.replicate 73664 0) =
      [(0, demoLaunch.mem.bytes (2 ^ 61 + 0x201000) 64)] := by
    have hl : (demoLaunch.mem.bytes (2 ^ 61 + 0x201000) 64).length = 64 := by decide
    have hf : field (demoLaunch.mem.bytes (2 ^ 61 + 0x201000) 64 ++ List.replicate 73664 0) 8 2 ≠ 0 := by
      have : field (demoLaunch.mem.bytes (2 ^ 61 + 0x201000) 64 ++ List.replicate 73664 0) 8 2 = field (demoLaunch.mem.bytes (2 ^ 61 + 0x201000) 64) 8 2 := by
        simp only [field]
        rw [List.drop_append_of_le_length (by omega), List.take_append_of_le_length (by rw [List.length_drop, hl]; omega)]
      rw [this]; decide
    rw [show (1152 : Nat) = 1151 + 1 from rfl, mapEntries, if_neg hf, List.take_left' hl, List.drop_left' hl, mapEntries_zeros]
  have h0 : demoLaunch.hbmBytes 0 192 0 = some (demoLaunch.mem.bytes (2 ^ 61 + 0x200000) 192) := launch_bytes 192 0 (by omega)
  have hs : demoLaunch.hbmBytes 0 128 0x800 = some (demoLaunch.mem.bytes (2 ^ 61 + 0x200800) 128) := launch_bytes 128 0x800 (by omega)
  have f1 : canonLa 0 (field (demoLaunch.mem.bytes (2 ^ 61 + 0x200000) 192) 0x48 8) = 0x1000 := by decide
  have f2 : canonLa 0 (field (demoLaunch.mem.bytes (2 ^ 61 + 0x200000) 192) 0 8) = 0x800 := by decide
  have c1 : (!regionZero 0 (field (demoLaunch.mem.bytes (2 ^ 61 + 0x200000) 192) 0x48 8) 64 || !regionZero 0 (field (demoLaunch.mem.bytes (2 ^ 61 + 0x200000) 192) 0 8) 16) = false := by decide
  have c2 : (!descLegal 0 (demoLaunch.mem.bytes (2 ^ 61 + 0x200000) 192) || !entryLegal 0 (demoLaunch.mem.bytes (2 ^ 61 + 0x201000) 64)) = false := by decide
  have c3 : demoLaunch.wantedCtx 0 (field (demoLaunch.mem.bytes (2 ^ 61 + 0x200000) 192) 0x57 1) = some 0 := by decide
  have c4 : demoLaunch.entryFits (mapCore 0 0) (Resid.ofBytes (demoLaunch.mem.bytes (2 ^ 61 + 0x201000) 64)) = true := by decide
  have c5 : field (demoLaunch.mem.bytes (2 ^ 61 + 0x200000) 192) 0x50 4 = 0 := by decide
  have c6 : (mapCore 0 0 == 0 && bits (field (demoLaunch.mem.bytes (2 ^ 61 + 0x201000) 64) 8 2) 13 0 != 0) = true := by decide
  have c8 : corePkg 0 = 0 := by decide
  refine ⟨demoLaunch.mem.bytes (2 ^ 61 + 0x200000) 192, [(0, demoLaunch.mem.bytes (2 ^ 61 + 0x201000) 64)], 0, ?_⟩
  simp only [State.launchCheck, Nat.zero_mod, ne_eq, not_true_eq_false, if_false, h0, c1, Bool.false_eq_true, f1, f2, hm, hs, hes, List.all_cons,
    List.all_nil, Bool.and_true, c2, c3, c4, c5, c6, c8, List.any_cons, List.any_nil,
    Bool.not_true, Bool.or_false, or_false]

/-- A package that takes commands of endpoint 4; recovery, a page seal and a waiting packet of connection 0 as given. -/
def hostPackage (recovery busy : Bool) (l : List Packet) : Package :=
  let op : SealOp := { pkg := 0, undo := false, pages := [0], tid := none, conn := 0, tag := 0 }
  { Package.reset 0 with pt := demoPt, hosts := [4], recovery := recovery, inbox := l, seals := if busy then [op] else [] }

def demoHost (recovery busy : Bool) (l : List Packet) : State := { demo someThread with pkgs := [(0, hostPackage recovery busy l)] }

theorem witness_Receives :
    let p : Packet := { conn := 0, ep := 4, bytes := packetBytes 4 0xFF 0 [0] }
    (∀ r b l, ((demoHost r b l).pkg 0).off = false ∧ ((demoHost r b l).pkg 0).recovery = r ∧ ((demoHost r b l).pkg 0).hosts.contains 4 = true ∧
      ((demoHost r b l).pkg 0).hosts.contains 5 = false ∧ ((demoHost r b l).pkg 0).inbox = l) ∧
    ((demoHost false false []).pkg 0).busy 0 = false ∧ ((demoHost false true []).pkg 0).busy 0 = true ∧
    ((demoHost false false []).pkg 0).nextPacket 0 = none ∧ ((demoHost false false [p]).pkg 0).nextPacket 0 = some p ∧
    ((demoHost false false [p]).pkg 0).busy 0 = false :=
  ⟨fun r b l => ⟨rfl, rfl, rfl, rfl, rfl⟩, rfl, rfl, rfl, rfl, rfl⟩

/-- A packet of each command, and packets that are none: no OP, a reserved field, a body of another length than LEN says. -/
theorem witness_HostCommands_packets :
    Cmd.parse (packetBytes 1 0xFF 9 (leBytes 8 64 ++ leBytes 8 0x100 ++ leBytes 8 5 ++ [0])) = some (.loadData 64 0x100 5) ∧
    Cmd.parse (packetBytes 1 0xFF 9 (leBytes 8 64 ++ leBytes 8 0 ++ leBytes 8 32 ++ [1])) = some (.loadTable 64 32) ∧
    Cmd.parse (packetBytes 2 0xFF 9 (leBytes 8 0 ++ [0, 0, 0])) = some (.launch 0) ∧
    Cmd.parse (packetBytes 2 0xFF 9 (leBytes 8 0 ++ [1, 0, 3])) = some (.priority 0 3) ∧
    Cmd.parse (packetBytes 3 0xFF 9 (leBytes 8 0x100 ++ leBytes 8 5 ++ leBytes 8 64)) = some (.snapshot 0x100 5 64) ∧
    Cmd.parse (packetBytes 4 0xFF 9 [0]) = some .health ∧ Cmd.parse (packetBytes 4 0xFF 9 ([1] ++ leBytes 8 0x100 ++ leBytes 8 5)) = some (.digest 0x100 5) ∧
    Cmd.parse (packetBytes 4 0xFF 9 [2]) = some .states ∧ Cmd.parse (packetBytes 4 0xFF 9 ([3] ++ List.replicate 32 7)) = some (.attest (List.replicate 32 7)) ∧
    Cmd.parse (packetBytes 5 0xFF 9 (leBytes 8 0 ++ leBytes 8 65536 ++ [0])) = some (.seal 0 65536 false) ∧
    Cmd.parse (packetBytes 5 0xFF 9 (leBytes 8 0 ++ leBytes 8 65536 ++ [1])) = some (.seal 0 65536 true) ∧
    Cmd.parse (packetBytes 6 0 9 [0]) = some (.resetCtx 0) ∧ Cmd.parse (packetBytes 6 0xFF 9 [1]) = some .resetPkg ∧
    Cmd.parse (packetBytes 7 0xFF 9 []) = none ∧ Cmd.parse (packetBytes 4 0xFF 9 []) = none ∧
    field (packetBytes 7 0xFF 9 []) 0 1 = 7 ∧ field (packetBytes 0 0xFF 9 []) 0 1 = 0 ∧ (packetBytes 7 0xFF 9 []).take 31 ≠ packetBytes 7 0xFF 9 [] ∧
    field (leBytes 1 4 ++ [1] ++ List.replicate 30 0) 1 1 ≠ 0 ∧ field (leBytes 1 4 ++ [0, 0, 1] ++ List.replicate 28 0) 3 5 ≠ 0 ∧
    field (List.replicate 20 0 ++ List.replicate 12 1) 0x14 12 ≠ 0 ∧ 4064 < field (List.replicate 16 0 ++ leBytes 4 4065 ++ List.replicate 12 0) 0x10 4 :=
  ⟨rfl, rfl, rfl, rfl, rfl, rfl, rfl, rfl, rfl, rfl, rfl, rfl, rfl, rfl, rfl, by decide, by decide, by decide, by decide, by decide, by decide, by decide⟩

theorem witness_HostCommands_load :
    let s := demoHost false false []
    s.hbmPlace 0 0x20000 = none ∧ (∃ p, s.hbmPlace 0 0x107 = some p ∧ s.sealedAt p = false) ∧
    (∃ p, demoSealed.hbmPlace 0 0x100 = some p ∧ demoSealed.sealedAt p = true) ∧ 0 < 1 ∧ 1 ≤ 8 - 0x107 % 8 ∧ (some 1 : Option Nat) ≠ some 0 ∧
    2 ^ 43 < 2 ^ 43 - 1 + 2 ∧ 2 ^ 43 - 1 + 1 ≤ 2 ^ 43 ∧ 2 ^ 40 < 2 ^ 40 + 1 ∧
    ((s.rmaTransfer 0).2.install 0 (s.mem.bytes (Loc.host 0 4 64).key 32)).isSome = true ∧ 33 % 32 ≠ 0 :=
  ⟨by decide, ⟨.hbm 0 0x107 0x100107, by decide, by decide⟩, ⟨.hbm 0 0x100 0x100100, by decide, by decide⟩, by decide, by decide, by decide,
    by decide, by decide, by decide, by decide, by decide⟩

theorem witness_HostCommands :
    let s := demo someThread
    s.launchCheck 0 1 = .error 1 ∧ s.hbmBytes 0 192 0x10000 = none ∧ (s.ctx 0).st = .running ∧ (s.ctx 1).st = .free ∧
    s.pagesFor 0 (0 + 0x10000) (0x10000 / 65536 + 2) 0 = some [(0, 65536)] ∧ wholePages 0 (0 + 0x10000) [(0, 65536)] = true ∧
    wholePages 1 (1 + 1) [(0, 65536)] = false ∧ s.pagesFor 0 (1 + 1) (1 / 65536 + 2) 1 = some [(0, 65536)] ∧
    s.pagesFor 0 (0x20000 + 1) (1 / 65536 + 2) 0x20000 = none ∧ (List.replicate 32 (7 : Byte)).length = 32 :=
  ⟨rfl, by decide, rfl, rfl, by decide, by decide, by decide, by decide, by decide, rfl⟩

/-- The bytes of a host window's registers. -/
def windowImage (base size rights : Nat) : List Byte := leBytes 32 (base + size * 2 ^ 64 + rights * 2 ^ 208)

theorem witness_Management :
    let s : State := { demo { someThread with wait := .stopped } with pkgs := [(0, hostPackage false false [])] }
    (s.pkg 0).off = false ∧ (s.pkg 0).hosts.contains 4 = true ∧ (s.pkg 0).hosts.contains 5 = false ∧ (s.pkg 0).recovery = false ∧
    ((demoHost true false []).pkg 0).recovery = true ∧
    windowLegal (windowImage 0x10000 0x10000 3) = true ∧ windowLegal (windowImage 0x10000 0x10000 4) = false ∧
    16 < (List.replicate 17 0).length ∧ (List.replicate 16 0).length ≤ 16 ∧
    s.threadNamed 0 0 0 = some (0, { someThread with wait := .stopped }) ∧ (demo someThread).threadNamed 0 0 0 = some (0, someThread) ∧
    someThread.wait ≠ .stopped ∧ someThread.boundary = true ∧ ({ someThread with prefixed := true } : Thread).boundary = false ∧
    s.threadNamed 0 0 1 = none ∧ (s.pkg 0).steps = 0 ∧ packetExt (List.replicate 128 0) = false ∧
    NatSet.has ({ hostPackage false false [] with stops := [0] } : Package).stops 0 = true ∧
    ∀ n ∈ [19, 1, 2], (({ s with pkgs := [(0, { Package.reset 0 with steps := n })] } : State).pkg 0).steps = n := by
  refine ⟨rfl, rfl, rfl, rfl, rfl, by decide, by decide, by decide, by decide, rfl, rfl, by decide, by decide, by decide, rfl, rfl, by decide, rfl, ?_⟩
  intro n hn
  rfl

/-- demo with a unit or an entry of each kind that a failure can meet, its package's fields as given. -/
def demoUnits (k : Package) (off : Bool) : State :=
  let b : Barrier := { count := 2, arrived := [0], since := 0, t := 0 }
  let e : TlbEntry := { vpn := 0, big := false, pfn := 16, hot := 0, from_ := 0 }
  { demo someThread with
    cores := [(0, { demoCore with disabled := off })], clusters := [(0, { Cluster.reset with tlb := [(0, [e])], bars := [(3, [b])], thinOff := off })]
    pkgs := [(0, k)] }

theorem witness_Failures :
    ((demo someThread).thread 0).isSome = true ∧ ((demoUnits (Package.reset 0) false).core 0).disabled = false ∧
    ((demoUnits (Package.reset 0) true).core 0).disabled = true ∧ someThread.wait ≠ .stopped ∧
    (((demoUnits (Package.reset 0) false).cluster 0).bars.find? 3).isSome = true ∧
    ((((demoUnits (Package.reset 0) false).cluster 0).tlb.flatMap (·.2))[0]?).isSome = true ∧ State.reset.clusters = [] ∧
    (State.reset.pkg 0).pt.Sorted ∧ ((demo someThread).engine 0).disabled = false ∧ ((demo someThread).engine 0).queue = [] ∧
    ((demoUnits (Package.reset 0) false).cluster 0).thinOff = false ∧ ((demoUnits (Package.reset 0) true).cluster 0).thinOff = true :=
  ⟨rfl, rfl, rfl, by decide, rfl, rfl, rfl, List.Pairwise.nil, rfl, rfl, rfl, rfl⟩

theorem witness_Failures_engine :
    let s := demoEngine 2
    (s.engine 0).disabled = false ∧ (∃ j r, (s.engine 0).queue = j :: r) ∧
    (s.modEngine 0 fun k => { k with disabled := true }).takesFor 0 ≠ 0 := ⟨rfl, ⟨_, _, rfl⟩, by decide⟩

theorem witness_Failures_channel :
    (∀ n ∈ [64, 65], let s := demoUnits { Package.reset 0 with chanErrs := [(32 * 11 + 31, List.replicate n 0)] } false
      (((s.pkg 0).chanErrs.at [] (32 * 11 + 31)).filter fun x => s.ticks < x + 10 ^ 9).length = n) ∧
    NatSet.has ((demoUnits { Package.reset 0 with scrubbed := [11 * 2 ^ 28 + 63] } false).pkg 0).scrubbed (11 * 2 ^ 28 + 63) = true ∧
    NatSet.has ((demo someThread).pkg 0).scrubbed (11 * 2 ^ 28 + 63) = false ∧ 63 % 32 = 31 ∧
    (∃ key, downSwPort 0 512 = some key ∧ 2 ^ 32 ≤ key) ∧ (∃ key, downSwPort 18 1007 = some key ∧ 2 ^ 32 ≤ key) := by
  refine ⟨?_, by decide, by decide, by decide, ⟨_, rfl, by decide⟩, ⟨_, rfl, by decide⟩⟩
  simp only [List.forall_mem_cons, List.not_mem_nil, false_implies, implies_true, and_true]
  exact ⟨by decide, by decide⟩

theorem witness_Failures_package :
    (∀ d, NatSet.has ((demoUnits { Package.reset 0 with logOff := if d then [1] else [] } false).pkg 0).logOff 1 = d) ∧
    ((demo someThread).pkg 0).spare.find? 2 = none ∧ ((demoUnits { Package.reset 0 with spare := [(2, (5, false))] } false).pkg 0).spare.find? 2 = some (5, false) ∧
    (∀ n ∈ [0, 1, 2, 16], ((demoUnits { Package.reset 0 with sublinks := n } false).pkg 0).sublinks = n) ∧
    (∀ n ∈ [0, 3, 4, 8], ((demoUnits { Package.reset 0 with lanes := [(7, n)] } false).pkg 0).lanes.at 0 7 = n) ∧
    NatSet.has ((demo someThread).pkg 0).portsDown 7 = false ∧ ((demoUnits { Package.reset 0 with hosts := [] } false).pkg 0).hosts = [] := by
  refine ⟨fun d => by cases d <;> rfl, rfl, rfl, ?_, ?_, rfl, rfl⟩ <;> intro n hn <;> rfl

theorem witness_Failures_group :
    (∀ st ∈ [SlotState.collect, .up, .dead], ((demoSlots [0] (.status 0 5 7 0) (some (aSlot st 0))).slot 0 (16 * 5 + 0)).st = st) ∧
    ((demoSlots [0] (.status 0 5 7 0) none).slot 0 (16 * 5 + 0)).st = .free ∧
    (demoSlots [0] (.status 0 5 7 0) none).fab.group 5 = some (aGroup [0] true false) ∧
    (treeSws (aSpec [0])).contains 0 = true ∧ (treeSws (aSpec [0])).contains 1 = false := ⟨by decide, rfl, rfl, by decide, by decide⟩

theorem witness_HostCommands_priority :
    let k := { Package.reset 0 with prios := [(0, 3)] }
    let s := { demo someThread with pkgs := [(0, k)], clock := 15 }
    s.pkgs = [(0, k)] ∧ k.prios = [(0, 3)] ∧ (s.ctx 0).st = .running ∧ (s.clock + 1) % 16 = 0 ∧ (s.newOrders.ctx 0).prio = 3 :=
  ⟨rfl, rfl, rfl, by decide, by decide⟩

end

end Sys2Proof
end

section
namespace Sys2Proof.Machine

/-! SUPPORT. Memory as bytes (R22, R24): what was stored is read back, and the canonical form is determined by the bytes. -/

theorem byte_bytes (m : Mem) (k n i : Nat) : (m.bytes k n)[i]? = if i < n then some (m.byte (k + i)) else none := by
  induction n generalizing k i with
  | zero => simp [Mem.bytes]
  | succ n ih =>
    cases i with
    | zero => simp [Mem.bytes]
    | succ i => simp [Mem.bytes, ih, Nat.add_assoc, Nat.add_comm 1 i]

theorem bytes_writeBytes {m : Mem} (k : Nat) (l : List Byte) (h : m.wf) : (m.writeBytes k l).bytes k l.length = l := by
  apply List.ext_getElem?
  intro i
  rw [byte_bytes]
  split
  next hi => rw [byte_writeBytes k l _ h, if_pos (by omega), Nat.add_sub_cancel_left, List.getD_eq_getElem?_getD,
    List.getElem?_eq_getElem hi, Option.getD_some]
  next hi => exact (List.getElem?_eq_none (Nat.le_of_not_lt hi)).symm

theorem byte_writeBytes_ne {m : Mem} {k j : Nat} {l : List Byte} (h : m.wf) (hj : j < k ∨ k + l.length ≤ j) :
    (m.writeBytes k l).byte j = m.byte j := by
  rw [byte_writeBytes k l j h, if_neg (by omega)]

/-- A range is read with its least significant byte first. -/
theorem read_eq_sum (m : Mem) (k n : Nat) :
    m.read k n = ((List.range n).map fun i => (m.byte (k + i)).toNat * 256 ^ i).sum := by
  induction n generalizing k with
  | zero => rfl
  | succ n ih =>
    have shift : ∀ i, (m.byte (k + (i + 1))).toNat * 256 ^ (i + 1) = 256 * ((m.byte (k + 1 + i)).toNat * 256 ^ i) := by
      intro i
      rw [show k + (i + 1) = k + 1 + i by omega]
      ring
    simp only [Mem.read, ih, List.range_succ_eq_map, List.map_cons, List.map_map, List.sum_cons, Function.comp_def,
      Nat.add_zero, Nat.pow_zero, Nat.mul_one, Nat.succ_eq_add_one, shift, List.sum_map_mul_left]

/-- A cell of canonical memory is the byte that is read at its key. -/
theorem byte_cons_same (k : Nat) (b : Byte) (r : Mem) : Mem.byte ((k, b) :: r) k = b := by
  simp [Mem.byte, NatMap.find?]

theorem byte_cons_ne {k j : Nat} {b : Byte} {r : Mem} (h : Mem.wf ((k, b) :: r)) (hj : j ≠ k) :
    Mem.byte ((k, b) :: r) j = Mem.byte r j := by
  have low := (List.pairwise_cons.1 h.1).1
  simp only [Mem.byte, NatMap.find?, if_neg hj]
  split
  · rw [find?_low low (by omega)]
  · rfl

theorem byte_low {m : Mem} {k j : Nat} (h : ∀ e ∈ m, k < e.1) (hj : j ≤ k) : m.byte j = unlistedByte := by
  rw [Mem.byte, find?_low h hj]
  rfl

theorem wf_tail {e : Nat × Byte} {r : Mem} (h : Mem.wf (e :: r)) : Mem.wf r :=
  ⟨(List.pairwise_cons.1 h.1).2, fun x hx => h.2 x (List.mem_cons_of_mem _ hx)⟩

/-- The first key of canonical memory is the least one whose byte is listed. -/
theorem first_key_le {k l : Nat} {b c : Byte} {r q : Mem} (hm : Mem.wf ((k, b) :: r)) (hw : Mem.wf ((l, c) :: q))
    (e : ∀ j, Mem.byte ((k, b) :: r) j = Mem.byte ((l, c) :: q) j) : l ≤ k := by
  by_contra hk
  have hb : b ≠ unlistedByte := hm.2 (k, b) (List.mem_cons_self ..)
  have low : ∀ x ∈ (l, c) :: q, k < x.1 := by
    intro x hx
    rcases List.mem_cons.1 hx with rfl | hx
    · exact Nat.lt_of_not_le hk
    · exact Nat.lt_trans (Nat.lt_of_not_le hk) ((List.pairwise_cons.1 hw.1).1 x hx)
  exact hb (by rw [← byte_cons_same k b r, e, byte_low low (Nat.le_refl _)])

/-- Canonical memories that read the same everywhere are the same list. -/
theorem mem_ext {m w : Mem} (hm : m.wf) (hw : w.wf) (e : ∀ k, m.byte k = w.byte k) : m = w := by
  induction m generalizing w with
  | nil =>
    cases w with
    | nil => rfl
    | cons x q =>
      obtain ⟨l, c⟩ := x
      exact absurd ((byte_cons_same l c q).symm.trans (e l).symm) (hw.2 (l, c) (List.mem_cons_self ..))
  | cons x r ih =>
    obtain ⟨k, b⟩ := x
    cases w with
    | nil => exact absurd ((byte_cons_same k b r).symm.trans (e k)) (hm.2 (k, b) (List.mem_cons_self ..))
    | cons y q =>
      obtain ⟨l, c⟩ := y
      obtain rfl : k = l := Nat.le_antisymm (first_key_le hw hm fun j => (e j).symm) (first_key_le hm hw e)
      obtain rfl : b = c := by rw [← byte_cons_same k b r, e, byte_cons_same]
      have tails : ∀ j, Mem.byte r j = Mem.byte q j := by
        intro j
        by_cases hj : j = k
        · rw [byte_low (List.pairwise_cons.1 hm.1).1 (Nat.le_of_eq hj), byte_low (List.pairwise_cons.1 hw.1).1 (Nat.le_of_eq hj)]
        · rw [← byte_cons_ne hm hj, e, byte_cons_ne hw hj]
      rw [ih (wf_tail hm) (wf_tail hw) tails]

/-- Settles O26: a store is read back byte by byte, and canonical memory is determined by its bytes. -/
theorem memoryBytes : Obligations.MemoryBytes := by
  refine ⟨fun m k n v h => ⟨write_wf k n v h, read_write k n v h, fun i hi => ?_, fun j hj => byte_write_ne h hj⟩,
    fun m k l h => ⟨writeBytes_wf k l h, bytes_writeBytes k l h, fun j hj => byte_writeBytes_ne h hj⟩,
    read_eq_sum, fun m w hm hw e => mem_ext hm hw e⟩
  rw [byte_write k n v _ h, if_pos (by omega), Nat.add_sub_cancel_left]

end Sys2Proof.Machine
end

section
namespace Sys2Proof.Machine

/-! The operands of an instruction: plain registers and ports (R12, R54, R213, R416). -/

theorem read_lt (m : Mem) (k n : Nat) : m.read k n < 2 ^ (8 * n) := by
  induction n generalizing k with
  | zero => simp [Mem.read]
  | succ n ih =>
    have hb := (m.byte k).isLt
    have hr := ih (k + 1)
    rw [Mem.read, show 8 * (n + 1) = 8 * n + 8 by omega, Nat.pow_add]
    omega

/-- The low n bits of v with their top bit standing for all above it: beyond 64 bits nothing is extended. -/
theorem signLow_ofNat {v n : Nat} (h : v < 2 ^ n) :
    signLow (BitVec.ofNat 64 v) n = if v.testBit (n - 1) then BitVec.ofNat 64 (2 ^ 64 - 2 ^ n + v) else BitVec.ofNat 64 v := by
  apply BitVec.eq_of_toNat_eq
  rw [signLow, BitVec.toNat_signExtend, BitVec.toNat_setWidth, BitVec.toNat_setWidth, BitVec.toNat_ofNat,
    BitVec.msb_setWidth, BitVec.getLsbD_ofNat]
  by_cases hn : n ≤ 64
  · have hp : 2 ^ n ≤ 2 ^ 64 := Nat.pow_le_pow_right (by omega) hn
    have top : (decide (0 < n) && (decide (n - 1 < 64) && v.testBit (n - 1))) = v.testBit (n - 1) := by
      rcases Nat.eq_zero_or_pos n with rfl | hpos
      · obtain rfl : v = 0 := by omega
        rfl
      · simp [hpos, show n - 1 < 64 by omega]
    rw [top, Nat.mod_eq_of_lt (show v < 2 ^ 64 by omega), Nat.mod_eq_of_lt h]
    split <;> simp only [BitVec.toNat_ofNat] <;> omega
  · have hp : 2 ^ 64 ≤ 2 ^ n := Nat.pow_le_pow_right (by omega) (by omega)
    have hv : v % 2 ^ 64 < 2 ^ n := Nat.lt_of_lt_of_le (Nat.mod_lt _ (by omega)) hp
    rw [show (2 : Nat) ^ 64 - 2 ^ n = 0 by omega, Nat.zero_add, ite_self, ite_self, BitVec.toNat_ofNat, Nat.mod_eq_of_lt hv]
    omega

/-- What a port read does to the bytes that it takes is the extension of a load's (R54). -/
theorem extended_ofRead (m : Mem) (k n : Nat) (sgn : Bool) :
    extended n sgn (m.read k n) =
      if sgn ∧ (m.read k n).testBit (8 * n - 1) then BitVec.ofNat 64 (2 ^ 64 - 2 ^ (8 * n) + m.read k n)
      else BitVec.ofNat 64 (m.read k n) := by
  cases sgn with
  | false => simp [extended]
  | true => simp [extended, signLow_ofNat (read_lt m k n)]

theorem isFull_setFull (s : State) (la : Nat) (b : Bool) : (s.setFull la b).isFull la = b := by
  cases b <;> simp [State.setFull, State.isFull, NatSet.has, mem_insert, mem_remove]

/-! Plain registers. -/

theorem reg_general {t : Thread} {c : BitVec 4} (h : c.toNat < 10) : t.reg c = t.g[c.toNat] := by
  rw [Thread.reg, dif_pos h]

theorem reg_setReg {t : Thread} {c d : BitVec 4} {v : Word} (h : c.toNat < 10) :
    (t.setReg d v).reg c = if c = d then v else t.reg c := by
  rw [reg_general h, reg_general h, Thread.setReg]
  split
  next hd => simp only [Vector.getElem_set, ← BitVec.toNat_inj, eq_comm (a := c.toNat)]
  next hd => rw [if_neg (by rintro rfl; exact hd h)]

theorem setReg_eq (t : Thread) (d : BitVec 4) (v : Word) : t.setReg d v = { t with g := (t.setReg d v).g } := by
  unfold Thread.setReg; split <;> rfl

theorem past_reg {t : Thread} {c : BitVec 4} (h : c.toNat < 10) : t.past.reg c = t.reg c := by
  rw [reg_general h, reg_general h]; rfl

/-- Only x1 refuses an element. -/
theorem writeRefused_plain {tid : Nat} {d : BitVec 4} {v : Word} (h : d.toNat < 12) : State.writeRefused tid d v = false := by
  have hd : (d == 13) = false := by
    rw [beq_eq_false_iff_ne]
    rintro rfl
    exact absurd h (by decide)
  rw [State.writeRefused, hd, Bool.and_false, Bool.false_and]

theorem plainOperands_hold : plainOperands := by
  refine ⟨fun s t srcs dsts h => reads_plain h, fun t c => ⟨fun h => reg_general h, rfl, rfl⟩, fun s tid t d v hd => ?_⟩
  refine ⟨writeRefused_plain (by omega), (t.setReg d v).past, result_plain (by omega), ?_, fun c hc => ?_⟩
  · rw [setReg_eq t d v]; rfl
  · rw [past_reg hc, reg_setReg hc]

/-! Ports. -/

theorem readReg_port {s : State} {tid : Nat} {t : Thread} {c : BitVec 4} (h : 12 ≤ c.toNat) :
    s.readReg tid t c = s.portRead tid c := by
  rw [State.readReg, if_neg (by omega)]

theorem result_port {s : State} {tid : Nat} {t : Thread} {c : BitVec 4} {v : Word} (h : 12 ≤ c.toNat) :
    s.result tid t c v = (s.portWrite tid c v).retire tid t := by
  simp only [State.result, State.writeReg, if_neg (Nat.not_lt.2 h)]

theorem portRead_queue {s : State} {tid : Nat} {c : BitVec 4} {x : Word} {l : List Word} (h : slotOf tid = 15)
    (hq : (s.core (coreOf tid)).xq.at [] (c.toNat % 4) = x :: l) :
    s.portRead tid c = (x, s.modCore (coreOf tid) fun k => { k with xq := k.xq.put (c.toNat % 4) l }) := by
  simp [State.portRead, h, hq]

theorem portWrite_queue {s : State} {tid : Nat} {c : BitVec 4} {v : Word} (h : slotOf tid = 15) :
    s.portWrite tid c v = s.modCore (coreOf tid) fun k =>
      { k with xq := k.xq.put (c.toNat % 4) (k.xq.at [] (c.toNat % 4) ++ [v]) } := by
  simp [State.portWrite, h]

/-- The oldest element of a port's buffer leaves it. -/
theorem portRead_buffer {s : State} {tid : Nat} {c : BitVec 4} {p : Port} (h : slotOf tid ≠ 15)
    (hp : (s.core (coreOf tid)).ports.find? (portKey (slotOf tid) c) = some p) :
    s.portRead tid c =
      (extended p.ew p.sx (s.mem.read (lsAddr (coreOf tid) p.head) p.ew),
       (if (p.head + p.ew) % 8 = 0 then s.setFull (Port.wordAt (coreOf tid) p.head) false else s).modCore (coreOf tid) fun k =>
         { k with ports := k.ports.put (portKey (slotOf tid) c)
                             { p with head := p.step p.head, unread := p.unread - p.ew } }) := by
  simp only [State.portRead, if_neg h, hp, extended_ofRead]

/-- An element joins a port's buffer. -/
theorem portWrite_buffer {s : State} {tid : Nat} {c : BitVec 4} {p : Port} {v : Word} (h : slotOf tid ≠ 15)
    (hp : (s.core (coreOf tid)).ports.find? (portKey (slotOf tid) c) = some p) :
    s.portWrite tid c v =
      let s := s.store (lsAddr (coreOf tid) p.tail) p.ew v.toNat
      (if (p.tail + p.ew) % 8 = 0 then s.setFull (Port.wordAt (coreOf tid) p.tail) true else s).modCore (coreOf tid) fun k =>
        { k with ports := k.ports.put (portKey (slotOf tid) c) { p with tail := p.step p.tail } } := by
  simp only [State.portWrite, if_neg h, hp]

/-- The word that an element ends in changes its bit, and only there. -/
theorem isFull_ite_setFull (s : State) (la off : Nat) (b : Bool) :
    (if off % 8 = 0 then s.setFull la b else s).isFull la = if off % 8 = 0 then b else s.isFull la := by
  split
  · exact isFull_setFull s la b
  · rfl

theorem isFull_modCore (s : State) (c la : Nat) (f : Core → Core) : (s.modCore c f).isFull la = s.isFull la := rfl

theorem isFull_store (s : State) (k n v la : Nat) : (s.store k n v).isFull la = s.isFull la := rfl

theorem mem_ite_setFull (s : State) (la off : Nat) (b : Bool) :
    (if off % 8 = 0 then s.setFull la b else s).mem = s.mem := by
  split <;> rfl

theorem portRead_effect {s : State} {tid : Nat} {t : Thread} {c : BitVec 4} {p : Port} (hc : 12 ≤ c.toNat) (h : slotOf tid ≠ 15)
    (hp : (s.core (coreOf tid)).ports.find? (portKey (slotOf tid) c) = some p) :
    ∃ s' : State, s.readReg tid t c = (extended p.ew p.sx (s.mem.read (lsAddr (coreOf tid) p.head) p.ew), s') ∧ s'.mem = s.mem ∧
      (((s'.core (coreOf tid)).ports.find? (portKey (slotOf tid) c)).map (·.head) = some (p.step p.head)) ∧
      (s'.isFull (lsAddr (coreOf tid) (p.head / 8 * 8)) =
        (s.isFull (lsAddr (coreOf tid) (p.head / 8 * 8)) && decide ((p.head + p.ew) % 8 ≠ 0))) := by
  refine ⟨_, (readReg_port hc).trans (portRead_buffer h hp), ?_, ?_, ?_⟩
  · rw [modCore_mem, mem_ite_setFull]
  · rw [core_modCore, find?_put_same]; rfl
  · rw [isFull_modCore, Port.wordAt, isFull_ite_setFull]
    split <;> simp [*]

theorem portWrite_effect {s : State} {tid : Nat} {t : Thread} {c : BitVec 4} {v : Word} {p : Port} (hc : 12 ≤ c.toNat)
    (h : slotOf tid ≠ 15) (hp : (s.core (coreOf tid)).ports.find? (portKey (slotOf tid) c) = some p) :
    ∃ s' : State, s.result tid t c v = s'.retire tid t ∧ s'.mem = s.mem.write (lsAddr (coreOf tid) p.tail) p.ew v.toNat ∧
      (((s'.core (coreOf tid)).ports.find? (portKey (slotOf tid) c)).map (·.tail) = some (p.step p.tail)) ∧
      (s'.isFull (lsAddr (coreOf tid) (p.tail / 8 * 8)) =
        (s.isFull (lsAddr (coreOf tid) (p.tail / 8 * 8)) || decide ((p.tail + p.ew) % 8 = 0))) := by
  refine ⟨s.portWrite tid c v, result_port hc, ?_⟩
  rw [portWrite_buffer h hp]
  refine ⟨?_, ?_, ?_⟩
  · rw [modCore_mem, mem_ite_setFull, store_mem]
  · rw [core_modCore, find?_put_same]; rfl
  · rw [isFull_modCore, Port.wordAt, isFull_ite_setFull, isFull_store]
    split <;> simp [*]

/-- Settles O10: plain registers read and written in the thread, a port at its buffer's ends or its queue's. -/
theorem registerOperands : Obligations.RegisterOperands := by
  refine ⟨plainOperands_hold, fun s tid t c v hc => ⟨fun h x l hq => ?_, fun h => ?_, fun h p hp => ?_⟩⟩
  · exact (readReg_port hc).trans (portRead_queue h hq)
  · rw [result_port hc, portWrite_queue h]
  · exact ⟨portRead_effect hc h hp, portWrite_effect hc h hp⟩

end Sys2Proof.Machine
end

section
/-! SUPPORT. Every step keeps memory's canonical form (R22, R24). Memory is written by State.store and State.storeBytes alone; each
operation of the machine is shown once to keep the form, given that it has it, in the order of the model's own files. -/

namespace Sys2Proof.Machine

/-! What is to be kept: the state that an answer of each kind carries is safe. -/

def OutSafe : Out → Prop
  | .next s => s.Safe
  | _ => True

def OptSafe {α : Type} (state : α → State) : Option α → Prop
  | some a => (state a).Safe
  | none => True

def OkSafe {ε α : Type} (state : α → State) : Except ε α → Prop
  | .ok a => (state a).Safe
  | .error _ => True

def BothSafe : Except State State → Prop
  | .ok s => s.Safe
  | .error s => s.Safe

def GateSafe : Gate → Prop
  | .go s _ => s.Safe
  | _ => True

def FabGateSafe : FabGate → Prop
  | .go s _ => s.Safe
  | _ => True

def ReleaseSafe : Release → Prop
  | .done s => s.Safe
  | _ => True

def VGroupSafe : VGroup → Prop
  | .done s _ _ => s.Safe
  | _ => True

def FetchSafe : Fetch → Prop
  | .word _ s => s.Safe
  | .page _ _ s => s.Safe
  | _ => True

def ChoiceSafe : Choice → Prop
  | .run _ s => s.Safe
  | .idle s => s.Safe

def TurnSafe : Turn → Prop
  | .own x => ChoiceSafe x
  | .donated x => ChoiceSafe x
  | .held _ s => s.Safe

def CmdSafe : Option (State → State) → Prop
  | some k => ∀ s, s.Safe → (k s).Safe
  | none => True

theorem OutSafe.of_next {o : Out} {s : State} (e : o = .next s) (h : OutSafe o) : s.Safe := by
  subst e; exact h

theorem OptSafe.of_some {α : Type} {state : α → State} {o : Option α} {a : α} (e : o = some a) (h : OptSafe state o) :
    (state a).Safe := by
  subst e; exact h

theorem OkSafe.of_ok {ε α : Type} {state : α → State} {o : Except ε α} {a : α} (e : o = .ok a) (h : OkSafe state o) :
    (state a).Safe := by
  subst e; exact h

theorem BothSafe.of_ok {o : Except State State} {s : State} (e : o = .ok s) (h : BothSafe o) : s.Safe := by
  subst e; exact h

theorem BothSafe.of_error {o : Except State State} {s : State} (e : o = .error s) (h : BothSafe o) : s.Safe := by
  subst e; exact h

theorem GateSafe.of_go {g : Gate} {s : State} {o : Option Nat} (e : g = .go s o) (h : GateSafe g) : s.Safe := by
  subst e; exact h

theorem FabGateSafe.of_go {g : FabGate} {s : State} {r : Option Rec} (e : g = .go s r) (h : FabGateSafe g) : s.Safe := by
  subst e; exact h

theorem ReleaseSafe.of_done {r : Release} {s : State} (e : r = .done s) (h : ReleaseSafe r) : s.Safe := by
  subst e; exact h

theorem VGroupSafe.of_done {g : VGroup} {s : State} {l : List Nat} {m : List (List Nat)} (e : g = .done s l m) (h : VGroupSafe g) :
    s.Safe := by
  subst e; exact h

theorem FetchSafe.of_word {f : Fetch} {w : Word32} {s : State} (e : f = .word w s) (h : FetchSafe f) : s.Safe := by
  subst e; exact h

theorem FetchSafe.of_page {f : Fetch} {pkg off : Nat} {s : State} (e : f = .page pkg off s) (h : FetchSafe f) : s.Safe := by
  subst e; exact h

theorem CmdSafe.of_some {o : Option (State → State)} {k : State → State} {s : State} (e : o = some k) (h : CmdSafe o) (hs : s.Safe) :
    (k s).Safe := by
  subst e; exact h s hs

theorem OptSafe.map {α β : Type} {state : α → State} {state' : β → State} {o : Option α} {f : α → β} (h : OptSafe state o)
    (hf : ∀ a, (state a).Safe → (state' (f a)).Safe) : OptSafe state' (o.map f) := by
  cases o with
  | none => trivial
  | some a => exact hf a h

theorem getD_safe {o : Option State} {s : State} (ho : OptSafe id o) (h : s.Safe) : (o.getD s).Safe := by
  cases o with
  | none => exact h
  | some _ => exact ho

/-! Pairs, choices and folds. -/

theorem snd_safe {α : Type} {x : α × State} {a : α} {s : State} (e : x = (a, s)) (h : x.2.Safe) : s.Safe := by
  subst e; exact h

theorem fst_safe {α : Type} {x : State × α} {a : α} {s : State} (e : x = (s, a)) (h : x.1.Safe) : s.Safe := by
  subst e; exact h

theorem ite_safe {c : Prop} [Decidable c] {a b : State} (ha : a.Safe) (hb : b.Safe) : (if c then a else b).Safe := by
  split
  · exact ha
  · exact hb

theorem ite_snd_safe {α : Type} {c : Prop} [Decidable c] {a b : α × State} (ha : a.2.Safe) (hb : b.2.Safe) :
    (if c then a else b).2.Safe := by
  split
  · exact ha
  · exact hb

theorem ite_fst_safe {α : Type} {c : Prop} [Decidable c] {a b : State × α} (ha : a.1.Safe) (hb : b.1.Safe) :
    (if c then a else b).1.Safe := by
  split
  · exact ha
  · exact hb

theorem ite_outSafe {c : Prop} [Decidable c] {a b : Out} (ha : OutSafe a) (hb : OutSafe b) : OutSafe (if c then a else b) := by
  split
  · exact ha
  · exact hb

theorem ite_optSafe {α : Type} {state : α → State} {c : Prop} [Decidable c] {a b : Option α} (ha : OptSafe state a)
    (hb : OptSafe state b) : OptSafe state (if c then a else b) := by
  split
  · exact ha
  · exact hb

theorem foldl_safe {α : Type} {f : State → α → State} {l : List α} {s : State} (hf : ∀ s a, s.Safe → (f s a).Safe) (h : s.Safe) :
    (l.foldl f s).Safe := by
  induction l generalizing s with
  | nil => exact h
  | cons a r ih => exact ih (hf s a h)

theorem foldl_snd_safe {α β : Type} {f : β × State → α → β × State} {l : List α} {x : β × State}
    (hf : ∀ x a, x.2.Safe → (f x a).2.Safe) (h : x.2.Safe) : (l.foldl f x).2.Safe := by
  induction l generalizing x with
  | nil => exact h
  | cons a r ih => exact ih (hf x a h)

/-! Updates that leave memory alone. -/

theorem modCore_safe {s : State} {c} {f : Core → Core} (h : s.Safe) : (s.modCore c f).Safe := safe_of_mem (modCore_mem ..) h

theorem modPkg_safe {s : State} {pkg} {f : Package → Package} (h : s.Safe) : (s.modPkg pkg f).Safe := safe_of_mem (modPkg_mem ..) h

theorem modFab_safe {s : State} {f : Fabric → Fabric} (h : s.Safe) : (s.modFab f).Safe := h

theorem answerTo_safe {s : State} {pkg conn bytes ctx status body} (h : s.Safe) :
    (s.answerTo pkg conn bytes ctx status body).Safe := h

theorem dropReplicas_safe {s : State} {pkg a n} (h : s.Safe) : (s.dropReplicas pkg a n).Safe := h

theorem accDone_safe {s : State} {c tid t} (h : s.Safe) : (s.accDone c tid t).Safe := h

/-! The frames of an instruction (R70), and the events of the order log (R366). -/

theorem operandsThen_safe {s : State} {tid t word srcs dsts} {k : List Word → State → State} (h : s.Safe)
    (hk : ∀ v s1, s1.Safe → (k v s1).Safe) : (s.operands tid t word srcs dsts k).Safe :=
  operands_safe tid t word srcs dsts h fun v s1 e => hk v s1 (safe_of_mem e h)

theorem loggedThen_safe {s0 s : State} {tid t place kind obj out} {k : State → Option Nat → State} (h0 : s0.Safe) (h : s.Safe)
    (hk : ∀ s1 o, s1.Safe → (k s1 o).Safe) : (s0.logged s tid t place kind obj out k).Safe :=
  logged_safe tid t place kind obj out h0 fun s1 o e => hk s1 o (safe_of_mem e h)

theorem logGate_safe {s : State} {mode passed cx die place src kind obj pc out} (h : s.Safe) :
    GateSafe (s.logGate mode passed cx die place src kind obj pc out) := by
  rcases e : s.logGate mode passed cx die place src kind obj pc out with ⟨s', _⟩ | _ | _
  · exact safe_of_mem (logGate_go e).1 h
  · trivial
  · trivial

theorem frame_outSafe {s : State} {word len p q} {body : Nat → Thread → State → State} {priv ext} (h : s.Safe)
    (hb : ∀ tid t s1, s1.Safe → (body tid t s1).Safe) : OutSafe (frame word len p q s body priv ext) := by
  rcases e : frame word len p q s body priv ext with s' | _ | _
  · exact frame_safe h (fun u _ => hb _ _ s h) e
  · trivial
  · trivial

theorem compute_outSafe {s : State} {word len p q d srcs} {f : Thread → List Word → Word} (h : s.Safe) :
    OutSafe (compute word len p q d srcs s f) :=
  frame_outSafe h fun _ _ _ h1 => operandsThen_safe h1 fun _ _ h2 => finish_safe _ _ _ _ _ h1 h2

theorem effect_outSafe {s : State} {word len p q srcs} {f : Nat → Thread → List Word → State → State} {priv ext} (h : s.Safe)
    (hf : ∀ tid t v s1, s1.Safe → (f tid t v s1).Safe) : OutSafe (effect word len p q srcs s f priv ext) :=
  frame_outSafe h fun tid t _ h1 => operandsThen_safe h1 fun v s2 h2 => hf tid t v s2 h2

theorem act_outSafe {s : State} {word len p q srcs dsts} {f : Nat → Thread → State → List Word → State → State} {priv ext}
    (h : s.Safe) (hf : ∀ tid t s0 v s1, s0.Safe → s1.Safe → (f tid t s0 v s1).Safe) :
    OutSafe (act word len p q srcs dsts s f priv ext) :=
  frame_outSafe h fun tid t s1 h1 => operandsThen_safe h1 fun v s2 h2 => hf tid t s1 v s2 h1 h2

end Sys2Proof.Machine
end

section
namespace Sys2Proof.Machine

section

variable {s : State}

/-! Machine/Ids. -/

theorem modThread_safe {tid} {f : Thread → Thread} (h : s.Safe) : (s.modThread tid f).Safe := safe_of_mem (modThread_mem ..) h

theorem heardAt_safe {c l} (h : s.Safe) : (s.heardAt c l).Safe := by
  unfold State.heardAt
  split
  · exact h
  · exact ite_safe h h
  · split <;> exact h

theorem heardAtomic_safe {c l} (h : s.Safe) : (s.heardAtomic c l).Safe := by
  unfold State.heardAtomic
  split <;> exact heardAt_safe h

theorem deliver_safe {n} (h : s.Safe) : OptSafe Prod.snd (s.deliver n) := by
  unfold State.deliver
  split
  · split
    · trivial
    · split
      · trivial
      · exact h
  · trivial

/-! Machine/Ops. -/

theorem tlbDrop_safe {pkg} {f : TlbEntry → Bool} (h : s.Safe) : (s.tlbDrop pkg f).Safe := safe_of_mem (tlbDrop_mem ..) h

theorem translate_safe {c la} (h : s.Safe) : (s.translate c la).2.Safe := safe_of_mem (translate_mem ..) h

theorem withPages_safe {who cl offs} {k : State → State} (h : s.Safe) (hk : ∀ s0, s0.Safe → (k s0).Safe) :
    (s.withPages who cl offs k).Safe := by
  unfold State.withPages
  split
  · exact h
  · exact hk _ h

theorem portPlaceOf_safe {who cl off} (h : s.Safe) : (s.portPlaceOf who cl off).2.Safe := safe_of_mem (portPlaceOf_mem ..) h

theorem portBytes_safe {who place cl n off} (h : s.Safe) : (s.portBytes who place cl n off).2.Safe := by
  unfold State.portBytes
  dsimp only
  split
  next e1 =>
    have h1 := snd_safe e1 (portPlaceOf_safe h)
    exact h1
  next e1 =>
    have h1 := snd_safe e1 (portPlaceOf_safe h)
    split
    · exact heardAt_safe h1
    split
    · exact heardAt_safe h1
    split
    next e2 =>
      have h2 := snd_safe e2 (portPlaceOf_safe (heardAt_safe h1))
      exact h2
    next e2 =>
      have h2 := snd_safe e2 (portPlaceOf_safe (heardAt_safe h1))
      exact ite_snd_safe (heardAt_safe h2) (heardAt_safe h2)

theorem ovfEntry_safe {c ctx i off} (h : s.Safe) : (s.ovfEntry c ctx i off).Safe := by
  unfold State.ovfEntry
  split
  next e1 =>
    have h1 := snd_safe e1 (portPlaceOf_safe h)
    exact storeBytes_safe _ _ (heardAt_safe h1)
  next e1 => exact snd_safe e1 (portPlaceOf_safe h)

theorem readLine_safe {cl l n} (h : s.Safe) : (s.readLine cl l n).2.Safe := by
  unfold State.readLine
  dsimp only
  split
  · exact ite_snd_safe h (ite_snd_safe h (ite_snd_safe h h))
  · exact h

theorem readGood_safe {cl l n} (h : s.Safe) : (s.readGood cl l n).2.Safe := by
  unfold State.readGood
  dsimp only
  split
  · exact ite_snd_safe (readLine_safe h) (readLine_safe (readLine_safe h))
  · exact h

theorem flushTraces_safe {pkg} (h : s.Safe) : (s.flushTraces pkg).Safe := by
  unfold State.flushTraces
  dsimp only
  exact foldl_safe (fun _ _ h1 => h1) h

theorem traceHard_safe {cx die r} (h : s.Safe) : (s.traceHard cx die r).Safe := safe_of_mem (traceHard_mem ..) h

theorem traceSoft_safe {cx die bit r} (h : s.Safe) : OptSafe id (s.traceSoft cx die bit r) := by
  rcases e : s.traceSoft cx die bit r with _ | s'
  · trivial
  · exact safe_of_mem (traceSoft_mem e).1 h

theorem passResumes_safe {cx obj x1} (h : s.Safe) : (State.passResumes cx obj x1 s).Safe := safe_of_mem (passResumes_mem ..) h

theorem stopThread_safe {tid t detail} (h : s.Safe) : (s.stopThread tid t detail).Safe := safe_of_mem (stopThread_mem ..) h

theorem trapAt_safe {tid t epc x} (h : s.Safe) : (s.trapAt tid t epc x).Safe := safe_of_mem (trapAt_mem ..) h

theorem trap_safe {tid t cause ebad} (h : s.Safe) : (s.trap tid t cause ebad).Safe := safe_of_mem (trap_mem ..) h

theorem diverge_safe {tid t obj reason expected} (h : s.Safe) :
    (s.diverge tid t obj reason expected).Safe := safe_of_mem (diverge_mem ..) h

theorem noteReplay_safe {tid obj} (h : s.Safe) : (s.noteReplay tid obj).Safe := safe_of_mem (noteReplay_mem ..) h

theorem unitDiverges_safe {cx die place src obj reason expected} (h : s.Safe) :
    (s.unitDiverges cx die place src obj reason expected).Safe := safe_of_mem (unitDiverges_mem ..) h

theorem logTest_safe {tid t obj} {s0 : State} {k : State} (h : s0.Safe) (hk : k.Safe) :
    (s0.logTest s tid t obj k).Safe := ite_safe h hk

theorem unitLogged_safe {cx die place src kind obj out} {k : State → State} (h : s.Safe) (hk : ∀ s0, s0.Safe → (k s0).Safe) :
    (s.unitLogged cx die place src kind obj out k).Safe := by
  unfold State.unitLogged
  split
  next e1 =>
    have h1 := (logGate_safe h).of_go e1
    exact hk _ h1
  · exact h
  · exact h
  · exact unitDiverges_safe h

theorem roundTo_safe {tid cx f mode sat x} (h : s.Safe) : (s.roundTo tid cx f mode sat x).2.Safe := safe_of_mem (roundTo_mem ..) h

theorem ship_safe {tid t target ebad past} (h : s.Safe) : (s.ship tid t target ebad past).Safe := safe_of_mem (ship_mem ..) h

/-! Machine/Operands. -/

theorem portRead_safe {tid code} (h : s.Safe) : (s.portRead tid code).2.Safe := safe_of_mem (portRead_mem ..) h

theorem extMigrate_safe {tid t x word} (h : s.Safe) : (s.extMigrate tid t x word).Safe := safe_of_mem (extMigrate_mem ..) h

/-! Machine/Cmp. -/

theorem compareWith_safe {word len p q pd c srcs} {f : List Word → Bool} (h : s.Safe) :
    OutSafe (compareWith word len p q pd c srcs s f) := effect_outSafe h fun _ _ _ _ h1 => h1

/-! Machine/Jump. -/

theorem jump_safe {tid t target} (h : s.Safe) : (s.jump tid t target).Safe := by
  unfold State.jump
  dsimp only
  split
  next e1 =>
    have h1 := (traceSoft_safe h).of_some e1
    exact h1
  · exact h

theorem jumpReg_safe {word p q d a} (h : s.Safe) : OutSafe (jumpReg word p q d a s) := by
  refine frame_outSafe h fun _ _ _ h1 => ?_
  refine operandsThen_safe h1 fun _ _ h2 => ?_
  dsimp only
  split
  · exact trap_safe h1
  · exact ite_safe (trap_safe h1) (ite_safe h1 (jump_safe (writeReg_safe _ _ _ _ h2)))

/-! Machine/Fp. -/

theorem fpRound_safe {word p q d srcs m} {f : List Word → Ex} (h : s.Safe) :
    OutSafe (fpRound word p q d srcs m s f) := act_outSafe h fun _ _ _ _ _ h1 h2 => finish_safe _ _ _ _ _ h1 (roundTo_safe h2)

theorem execCvt_safe {p q d a m dst src} (h : s.Safe) : OutSafe (execCvt p q d a m dst src s) := by
  refine act_outSafe h fun _ _ _ _ _ h1 h2 => ?_
  dsimp only
  split
  · exact finish_safe _ _ _ _ _ h1 (roundTo_safe h2)
  · exact trap_safe h1

/-! Machine/Sys. -/

theorem execRdsr_safe {p q d sys} (h : s.Safe) : OutSafe (execRdsr p q d sys s) := by
  refine act_outSafe h fun _ _ _ _ _ h1 h2 => ?_
  split
  · exact finish_safe _ _ _ _ _ h1 h2
  · exact trap_safe h1

theorem writeSys_safe {tid t word n v} {s0 : State} (h : s0.Safe) (hs : s.Safe) : (s0.writeSys s tid t word n v).Safe := by
  unfold State.writeSys
  split
  · exact hs
  · exact hs
  · exact hs
  · exact hs
  · exact hs
  · exact hs
  · exact hs
  · exact hs
  · exact trap_safe h

theorem execWrsrVectorState_safe {p q a sys} (h : s.Safe) : OutSafe (execWrsrVectorState p q a sys s) := by
  refine act_outSafe h fun _ _ _ _ _ h1 h2 => ?_
  dsimp only
  split
  · exact h1
  split
  · exact h2
  · exact h2
  · exact h2
  · exact trap_safe h1

theorem reach_safe {c la n} (h : s.Safe) : (s.reach c la n).2.Safe := by
  unfold State.reach
  split
  next e1 =>
    have h1 := snd_safe e1 (translate_safe h)
    split
    next e2 =>
      have h2 := snd_safe e2 (translate_safe h1)
      exact h2
    · exact translate_safe h1
  · exact translate_safe h

theorem pageMiss_safe {tid t pkg off ebad} (h : s.Safe) : (s.pageMiss tid t pkg off ebad).Safe := ite_safe (trap_safe h) h

theorem execWrsrSegbase_safe {p q a} (h : s.Safe) : OutSafe (execWrsrSegbase p q a s) := by
  refine act_outSafe h fun _ _ _ _ _ h1 h2 => ?_
  dsimp only
  split
  · exact trap_safe h1
  split
  · exact pageMiss_safe h1
  next e1 =>
    have h3 := snd_safe e1 (reach_safe h2)
    exact h3

theorem execWrsrSlottab_safe {p q a} (h : s.Safe) : OutSafe (execWrsrSlottab p q a s) := by
  refine act_outSafe h fun _ _ _ _ _ h1 h2 => ?_
  dsimp only
  split
  · exact trapAt_safe h1
  · exact ite_safe (trap_safe h1) (ite_safe (trap_safe h1) (ite_safe (trap_safe h1) h2))

theorem setFullN_safe {la v n} (h : s.Safe) : (s.setFullN la v n).Safe := by
  induction n generalizing s la with
  | zero => exact h
  | succ n ih => exact ih h

theorem writeSnapshot_safe {core} (h : s.Safe) : (s.writeSnapshot core).Safe := by
  unfold State.writeSnapshot
  split
  · exact store_safe _ _ _ h
  · exact h

theorem draws_safe {tid cx n} (h : s.Safe) : (s.draws tid cx n).2.Safe := by
  induction n generalizing s with
  | zero => exact h
  | succ n ih => exact ih (s := (s.draw tid cx).2) h

theorem trapCurrent_safe {cause w} (h : s.Safe) : OutSafe (trapCurrent s cause w) := by
  unfold trapCurrent
  split
  · exact trap_safe h
  · exact h

theorem execExtensionMigration_safe {w} (h : s.Safe) : OutSafe (execExtensionMigration w s) := by
  unfold execExtensionMigration
  split
  · exact ite_outSafe h (extMigrate_safe h)
  · exact h

/-! Machine/LoadStore. -/

theorem migrateAccess_safe {tid t word regs target va} {s0 : State} (h : s0.Safe) (hs : s.Safe) :
    (s0.migrateAccess s tid t word regs target va).Safe :=
  ite_safe (ite_safe (trap_safe h) (trap_safe hs)) (ite_safe (trap_safe h) (ship_safe h))

theorem access_safe {tid t word regs la n need va} {s0 : State} {k : State → State} {r : Loc → Req} (h : s0.Safe) (hs : s.Safe)
    (hk : ∀ s0, s0.Safe → (k s0).Safe) :
    (s0.access s tid t word regs la n need va k r).Safe := by
  unfold State.access
  dsimp only
  split
  · exact ite_safe (migrateAccess_safe h hs) (ite_safe h (hk _ hs))
  split
  · exact trap_safe h
  split
  · exact trap_safe h
  split
  · exact pageMiss_safe h
  next e1 =>
    have h1 := snd_safe e1 (translate_safe hs)
    exact ite_safe h h1

theorem loadPlain_safe {word len p q d a imm n sgn} (h : s.Safe) : OutSafe (loadPlain word len p q d a imm n sgn s) := by
  refine act_outSafe h fun _ _ _ _ _ h1 h2 => ?_
  dsimp only
  split
  · exact trapAt_safe h1
  · exact access_safe h1 h2 fun _ h3 => ite_safe (trap_safe h1) (finish_safe _ _ _ _ _ h1 h3)

theorem storePlain_safe {word len p q d a imm n} (h : s.Safe) : OutSafe (storePlain word len p q d a imm n s) := by
  refine act_outSafe h fun _ _ _ _ _ h1 h2 => ?_
  dsimp only
  split
  · exact trapAt_safe h1
  · exact access_safe h1 h2 fun _ h3 => store_safe _ _ _ h3

theorem land_safe {tid t r} (h : s.Safe) : (s.land tid t r).Safe := ite_safe (readGood_safe h) (store_safe _ _ _ (readGood_safe h))

theorem landStore_safe {tid t r} (h : s.Safe) : (s.landStore tid t r).Safe := ite_safe h (store_safe _ _ _ h)

theorem issueRelaxed_safe {tid t la need r} {s0 : State} (h : s0.Safe) (hs : s.Safe) :
    (s0.issueRelaxed s tid t la need r).Safe := by
  unfold State.issueRelaxed
  extract_lets c la out s1
  have h1 : s1.Safe := ite_safe hs hs
  split
  · exact h
  split
  · split
    · exact ite_safe h (ite_safe (landStore_safe h1) (land_safe h1))
    · exact h1
  split
  · exact trap_safe h
  split
  · exact trap_safe h
  split
  next e1 =>
    have h2 := snd_safe e1 (translate_safe h1)
    exact h2
  next e1 =>
    have h2 := snd_safe e1 (translate_safe h1)
    exact h2

theorem loadRelaxed_safe {word p q d a imm n sgn} (h : s.Safe) : OutSafe (loadRelaxed word p q d a imm n sgn s) := by
  refine act_outSafe h fun _ _ _ _ _ h1 h2 => ?_
  dsimp only
  split
  · exact trapAt_safe h1
  · exact trapAt_safe h1
  · exact ite_safe (trap_safe h1) (issueRelaxed_safe h1 h2)

theorem storeRelaxed_safe {word p q d a imm n} (h : s.Safe) : OutSafe (storeRelaxed word p q d a imm n s) := by
  refine act_outSafe h fun _ _ _ _ _ h1 h2 => ?_
  dsimp only
  split
  · exact trapAt_safe h1
  · exact issueRelaxed_safe h1 h2

theorem execRelaxedAccessCompletion_safe {tid n} (h : s.Safe) : OutSafe (execRelaxedAccessCompletion tid n s) := by
  unfold execRelaxedAccessCompletion
  dsimp only
  split
  · split
    · exact ite_outSafe h (ite_safe (landStore_safe (heardAt_safe h)) (land_safe (heardAt_safe h)))
    · exact h
  · exact h

theorem execDeferredRelaxedFault_safe {tid} (h : s.Safe) : OutSafe (execDeferredRelaxedFault tid s) := by
  unfold execDeferredRelaxedFault
  dsimp only
  split
  · split
    · exact ite_safe h (trapAt_safe h)
    · exact h
  · exact h

/-! Machine/Sync. -/

theorem syncAt_safe {word p q srcs dsts regs need} {k : ℕ → Thread → State → List Word → ℕ → State → State} (h : s.Safe)
    (hk : ∀ x0 x1 s2 x3 x4 s5, s2.Safe → s5.Safe → (k x0 x1 s2 x3 x4 s5).Safe) :
    OutSafe (syncAt word p q srcs dsts regs need s k) := by
  refine act_outSafe h fun _ _ _ _ _ h1 h2 => ?_
  dsimp only
  split
  · exact trapAt_safe h1
  split
  · exact trap_safe h1
  · exact ite_safe (migrateAccess_safe h1 h2) (drained_safe _ _ h1 (hk _ _ _ _ _ _ h1 h2))

theorem syncLoad_safe {word p q d a take} (h : s.Safe) : OutSafe (syncLoad word p q d a take s) := by
  refine syncAt_safe h fun _ _ _ _ _ _ h1 h2 => ?_
  dsimp only
  split
  · exact h1
  split
  · exact trap_safe h1
  · exact loggedThen_safe h1 h2 fun _ _ h3 => finish_safe _ _ _ _ _ h1 (ite_safe h3 h3)

theorem syncStore_safe {word p q d a waits} (h : s.Safe) :
    OutSafe (syncStore word p q d a waits s) :=
  syncAt_safe h fun _ _ _ _ _ _ h1 h2 => ite_safe h1 (loggedThen_safe h1 h2 fun _ _ h3 => store_safe _ _ _ h3)

theorem syncMark_safe {word p q a full} (h : s.Safe) :
    OutSafe (syncMark word p q a full s) := syncAt_safe h fun _ _ _ _ _ _ h1 h2 => loggedThen_safe h1 h2 fun _ _ h3 => h3

theorem execLdf_safe {p q d a} (h : s.Safe) : OutSafe (execLdf p q d a s) := syncLoad_safe h

theorem execLdfe_safe {p q d a} (h : s.Safe) : OutSafe (execLdfe p q d a s) := syncLoad_safe h

theorem execSte_safe {p q d a} (h : s.Safe) : OutSafe (execSte p q d a s) := syncStore_safe h

theorem atomic_safe {word p q d a b op n} (h : s.Safe) : OutSafe (atomic word p q d a b op n s) := by
  refine act_outSafe h fun _ _ _ _ _ h1 h2 => ?_
  dsimp only
  split
  · exact trapAt_safe h1
  split
  · exact migrateAccess_safe h1 h2
  refine drained_safe _ _ h1 ?_
  split
  · exact ite_safe (trap_safe h1) (loggedThen_safe h1 h2 fun _ _ h3 => finish_safe _ _ _ _ _ h1 (store_safe _ _ _ h3))
  · exact ite_safe (ship_safe h1) (trap_safe h1)
  · split
    · exact trap_safe h1
    · split
      · exact trap_safe h1
      · split
        · exact logTest_safe h1 h2
        · exact h1
  · split
    · exact pageMiss_safe h1
    next e1 =>
      have h3 := snd_safe e1 (translate_safe h2)
      exact logTest_safe h1 h3

theorem servedGate_safe {tid t place kind obj out} (h : s.Safe) : GateSafe (s.servedGate tid t place kind obj out) := logGate_safe h

theorem performAtomic_safe {tid t r l obj place} (h : s.Safe) : (s.performAtomic tid t r l obj place).Safe := by
  unfold State.performAtomic
  dsimp only
  split
  · exact trap_safe h
  split
  · exact trap_safe h
  split
  next e1 =>
    have h1 := (servedGate_safe h).of_go e1
    exact finish_safe _ _ _ _ _ h (store_safe _ _ _ h1)
  · exact h
  · exact diverge_safe h

theorem atomicNoted_safe {obj tid} (h : s.Safe) : (s.atomicNoted obj tid).Safe := by
  unfold State.atomicNoted
  split
  · exact ite_safe (noteReplay_safe h) h
  · exact h

theorem execBankReservationGrant_safe {key} (h : s.Safe) : OutSafe (execBankReservationGrant key s) := by
  unfold execBankReservationGrant
  extract_lets queue s1
  have h1 : s1.Safe := foldl_safe (fun s tid h1 => by split; exacts [atomicNoted_safe h1, h1]) h
  split
  · exact h1
  extract_lets left
  have h2 : left.Safe := h1
  split
  · exact h2
  · exact performAtomic_safe (heardAtomic_safe h2)

theorem execProxyHostAtomic_safe {die qn} (h : s.Safe) : OutSafe (execProxyHostAtomic die qn s) := by
  unfold execProxyHostAtomic
  extract_lets pkg qi queue obj offered s1
  have h1 : s1.Safe := foldl_safe (fun s tid h1 => by split; exacts [atomicNoted_safe h1, h1]) h
  split
  · exact h1
  extract_lets rest left
  have h2 : left.Safe := h1
  split
  · exact h2
  split
  · exact trap_safe h2
  · exact performAtomic_safe (heardAtomic_safe h2)

theorem sealRange_safe {word p q a b undo} (h : s.Safe) : OutSafe (sealRange word p q a b undo s) := by
  refine act_outSafe h fun _ _ _ _ _ h1 h2 => ?_
  dsimp only
  split
  · exact trapAt_safe h1
  split
  · exact trap_safe h1
  refine drained_safe _ _ h1 ?_
  split
  · exact h2
  split
  · exact pageMiss_safe h1
  · exact ite_safe (trap_safe h1) h2

theorem execSealq_safe {p q d a} (h : s.Safe) : OutSafe (execSealq p q d a s) := by
  refine act_outSafe h fun _ _ _ _ _ h1 h2 => ?_
  dsimp only
  split
  · exact trapAt_safe h1
  refine drained_safe _ _ h1 ?_
  split
  · exact finish_safe _ _ _ _ _ h1 h2
  split
  · exact pageMiss_safe h1
  next e1 =>
    have h3 := snd_safe e1 (translate_safe h2)
    exact h3

theorem sealDone_safe {op fail} (h : s.Safe) : (s.sealDone op fail).Safe := by
  unfold State.sealDone
  split
  · exact h
  split
  · split
    · split
      · split
        · exact h
        · exact trap_safe h
      · exact h
    · exact h
  · exact h

theorem sealPage_safe {pkg i undo} (h : s.Safe) : (s.sealPage pkg i undo).Safe := by
  unfold State.sealPage
  split
  · exact h
  next op _ =>
    extract_lets drop next
    have hdrop {s1} (h1 : s1.Safe) : (drop s1).Safe := modPkg_safe h1
    have hnext {s1} (h1 : s1.Safe) : (next s1).Safe := modPkg_safe h1
    split
    · exact h
    split
    · exact sealDone_safe (hdrop h)
    extract_lets finish
    have hfinish {s1} (h1 : s1.Safe) : (finish s1).Safe := ite_safe (sealDone_safe (hdrop h1)) (hnext h1)
    split
    · exact sealDone_safe (hdrop h)
    extract_lets
    refine ite_safe h (ite_safe (ite_safe h (hfinish (modPkg_safe h))) (ite_safe (hfinish h) (ite_safe (modPkg_safe h) ?_)))
    exact hfinish (dropReplicas_safe (modPkg_safe h))

theorem execFetchHoldRelease_safe {tid} (h : s.Safe) : OutSafe (execFetchHoldRelease tid s) := by
  unfold execFetchHoldRelease
  dsimp only
  split
  · exact ite_outSafe h h
  · exact h

/-! Machine/Pages. -/

theorem execPageWalk_safe {home} (h : s.Safe) : OutSafe (execPageWalk home s) := by
  unfold execPageWalk
  dsimp only
  exact foldl_safe (fun _ _ h1 => h1) (foldl_safe (fun _ _ h1 => h1) h)

theorem wake_safe {cl walked carried e waiter} (h : s.Safe) : (s.wake cl walked carried e waiter).Safe := by
  unfold State.wake
  dsimp only
  split
  · split
    · exact ite_safe h h
    · exact h
  · split
    · exact ite_safe h h
    · exact h
  · exact ite_safe h h
  · exact ite_safe h h
  · exact ite_safe h h
  · exact ite_safe h h
  · exact ite_safe (ite_safe (ovfEntry_safe h) h) h

theorem execPageWake_safe {n} (h : s.Safe) : OutSafe (execPageWake n s) := by
  unfold execPageWake
  dsimp only
  split
  next e1 =>
    have h1 := (deliver_safe h).of_some e1
    split
    · refine foldl_safe (fun _ _ h2 => wake_safe h2) ?_
      split
      · exact ite_safe h1 h1
      · exact h1
    · exact h
  · exact h

theorem invalidate_safe {pkg} {f : TlbEntry → Bool} (h : s.Safe) : (s.invalidate pkg f).Safe := by
  refine foldl_safe (fun _ _ h1 => ?_) (tlbDrop_safe h)
  split <;> exact h1

theorem install_safe {pkg l} (h : s.Safe) : OptSafe Prod.snd (s.install pkg l) := by
  unfold State.install
  dsimp only
  split
  · exact h
  split
  · split
    · trivial
    · exact ite_safe (invalidate_safe h) (invalidate_safe h)
  · split
    · split <;> exact h
    · exact h

theorem uninstall_safe {pkg die off} (h : s.Safe) : OptSafe Prod.snd (s.uninstall pkg die off) := by
  unfold State.uninstall
  dsimp only
  split
  · exact h
  split
  · trivial
  · exact invalidate_safe (ite_safe h h)

theorem hotness_safe {pkg off clear} (h : s.Safe) : (s.hotness pkg off clear).2.Safe := by
  unfold State.hotness
  dsimp only
  split
  · exact ite_safe h h
  · exact h

theorem beginMove_safe {pkg die off new tid d} (h : s.Safe) : OkSafe id (s.beginMove pkg die off new tid d) := by
  unfold State.beginMove
  dsimp only
  split
  · trivial
  split
  · trivial
  split
  · trivial
  split
  · trivial
  · exact h

theorem copyFrame_safe {pkg old new size} (h : s.Safe) : (s.copyFrame pkg old new size).Safe := storeBytes_safe _ _ h

theorem svc_safe {word p q d srcs kind} (h : s.Safe) :
    OutSafe (svc word p q d srcs kind s) := act_outSafe h fun _ _ _ _ _ _ h2 => h2

theorem execHwalk_safe {p q d a b} (h : s.Safe) : OutSafe (execHwalk p q d a b s) := by
  refine act_outSafe h fun _ _ _ _ _ h1 h2 => ?_
  dsimp only
  split
  · exact h2
  split
  · exact trapAt_safe h1
  · exact ite_safe (trap_safe h1) h2

theorem execHins_safe {p q d a} (h : s.Safe) : OutSafe (execHins p q d a s) := by
  refine act_outSafe h fun _ _ _ _ _ h1 h2 => ?_
  dsimp only
  split
  · exact trapAt_safe h1
  · exact ite_safe (trap_safe h1) (ite_safe (trap_safe h1) h2)

theorem complete_safe {tid t r v} {s0 : State} (h : s0.Safe) (hs : s.Safe) :
    (s0.complete s tid t r v).Safe := finish_safe _ _ _ _ _ h hs

theorem svcServed_safe {tid t r} (h : s.Safe) : (s.svcServed tid t r).Safe := by
  unfold State.svcServed
  dsimp only
  split
  · exact complete_safe h (ite_safe h (storeBytes_safe _ _ h))
  · split
    next e1 =>
      have h1 := OptSafe.of_some e1 (install_safe h)
      exact complete_safe h h1
    · exact h
  · split
    · exact complete_safe h h
    · split
      next e2 =>
        have h1 := OptSafe.of_some e2 (uninstall_safe h)
        exact complete_safe h h1
      · exact h
  · exact ite_safe h (invalidate_safe h)
  · exact complete_safe h (ite_snd_safe h (hotness_safe h))
  · split
    · exact h
    · split
      · exact complete_safe h h
      · split
        next e3 =>
          have h1 := OkSafe.of_ok e3 (beginMove_safe h)
          exact h1
        · exact complete_safe h h
  · exact h

theorem execPageMoveSwitch_safe {n} (h : s.Safe) : OutSafe (execPageMoveSwitch n s) := by
  unfold execPageMoveSwitch
  extract_lets pkg
  split
  · exact h
  extract_lets big s1 s2
  have h2 : s2.Safe := invalidate_safe (modPkg_safe (copyFrame_safe h))
  split
  · split
    · exact ite_outSafe (complete_safe h2 h2) h2
    · exact h2
  · exact h2

/-! Machine/Arrive. -/

theorem traceBind_safe {tid cx pc} (h : s.Safe) : OptSafe id (s.traceBind tid cx pc) := traceSoft_safe h

theorem bind_safe {tid cx kind out t} (h : s.Safe) : OptSafe id (s.bind tid cx kind out t) := by
  unfold State.bind
  dsimp only
  split
  · split
    · trivial
    · split
      next e1 =>
        have h1 := (logGate_safe h).of_go e1
        exact OptSafe.map (traceBind_safe h1) fun _ h2 => h2
      · trivial
  · split
    · trivial
    · split
      next e1 =>
        have h1 := (logGate_safe h).of_go e1
        exact OptSafe.map (traceBind_safe h1) fun _ h2 => h2
      · trivial

theorem bindArrival_safe {tid cx x1} (h : s.Safe) : OptSafe id (s.bindArrival tid cx x1) := by
  unfold State.bindArrival
  split
  · exact bind_safe h
  · exact bind_safe h
  · exact OptSafe.map (traceBind_safe h) fun _ h1 => h1
  · exact bind_safe h

theorem ovfWrite_safe {c ctx n} (h : s.Safe) : (s.ovfWrite c ctx n).Safe := by
  induction n generalizing s with
  | zero => exact h
  | succ n ih =>
    unfold State.ovfWrite
    dsimp only
    split
    · exact h
    refine ih ?_
    split
    · exact h
    · exact ovfEntry_safe h

theorem arrive_safe {c ctx a} (h : s.Safe) : OptSafe id (s.arrive c ctx a) := by
  unfold State.arrive
  dsimp only
  split
  next e =>
    refine OptSafe.of_some (state := id) e ?_
    split
    · split
      · exact bindArrival_safe h
      · trivial
    · trivial
  · split
    · exact h
    · split
      · exact ovfWrite_safe h
      · trivial

theorem answer_safe {from_ who kind code} (h : s.Safe) : (s.answer from_ who kind code).Safe := by
  unfold State.answer
  split
  · exact h
  split
  · split
    · exact ite_safe h h
    · exact h
  · exact h

/-! Machine/Work. -/

theorem count_safe {la up} (h : s.Safe) : (s.count la up).Safe := store_safe _ _ _ h

theorem pushChild_safe {c k ovf} (h : s.Safe) : (s.pushChild c k ovf).Safe := ite_safe (ovfWrite_safe h) h

theorem spawnGo_safe {tid t word packet pk e lc} {s0 : State} (h : s0.Safe) (hs : s.Safe) :
    (s0.spawnGo s tid t word packet pk e lc).Safe := by
  unfold State.spawnGo
  dsimp only
  split
  · exact trap_safe h
  split
  · exact trap_safe h
  split
  · exact pushChild_safe hs
  · exact hs

theorem spawnAcked_safe {tid t r} (h : s.Safe) : (s.spawnAcked tid t r).Safe := ite_safe h (pushChild_safe h)

theorem spawnPacket_safe {tid t r} (h : s.Safe) : (s.spawnPacket tid t r).Safe := by
  unfold State.spawnPacket
  extract_lets l g s1
  have h1 : s1.Safe := readGood_safe (heardAt_safe h)
  exact ite_safe (trap_safe h1) (spawnGo_safe h1 h1)

theorem execSpawn_safe {p q d a b} (h : s.Safe) : OutSafe (execSpawn p q d a b s) := by
  refine act_outSafe h fun _ _ _ _ _ h1 h2 => ?_
  refine drained_safe _ _ h1 ?_
  dsimp only
  split
  · exact trapAt_safe h1
  split
  · exact trap_safe h1
  split
  · exact trapAt_safe h1
  split
  · exact trap_safe h1
  split
  · exact trap_safe h1
  split
  · exact ite_safe (trap_safe h1) (spawnGo_safe h1 h2)
  split
  · exact trap_safe h1
  split
  · exact trap_safe h1
  split
  · exact pageMiss_safe h1
  next e1 =>
    have h3 := snd_safe e1 (translate_safe h2)
    exact h3

theorem execJoin_safe {p q a} (h : s.Safe) : OutSafe (execJoin p q a s) := by
  refine syncAt_safe h fun _ _ _ _ _ _ h1 h2 => ?_
  exact ite_safe (trap_safe h1) (ite_safe h1 (loggedThen_safe h1 h2 fun _ _ h3 => h3))

theorem exitNow_safe {tid t} {s0 : State} (h : s0.Safe) (hs : s.Safe) : (s0.exitNow s tid t).Safe := by
  unfold State.exitNow
  dsimp only
  split
  · exact h
  next e1 =>
    have h1 := (traceSoft_safe hs).of_some e1
    split <;> exact h1

theorem execExit_safe {p q} (h : s.Safe) : OutSafe (execExit p q s) := by
  refine frame_outSafe h fun _ _ _ h1 => ?_
  exact ite_safe (trap_safe h1) (drained_safe _ _ h1 (ite_safe h1 (exitNow_safe h1 h1)))

theorem execCounterMessage_safe {n} (h : s.Safe) : OutSafe (execCounterMessage n s) := by
  unfold execCounterMessage
  split
  next e1 =>
    have h1 := (deliver_safe h).of_some e1
    split
    · exact answer_safe (count_safe h1)
    · exact h
  · exact h

theorem execYieldHoldEnd_safe {tid} (h : s.Safe) : OutSafe (execYieldHoldEnd tid s) := by
  unfold execYieldHoldEnd
  split
  · split
    · exact ite_outSafe h h
    · exact h
  · exact h

theorem execMigrate_safe {p q a} (h : s.Safe) : OutSafe (execMigrate p q a s) := by
  refine act_outSafe h fun _ _ _ _ _ h1 h2 => ?_
  dsimp only
  split
  · exact trap_safe h1
  · exact ite_safe (drained_safe _ _ h1 h2) (ite_safe (ship_safe h2) (drained_safe _ _ h1 h1))

theorem execSend_safe {p q a b} (h : s.Safe) : OutSafe (execSend p q a b s) := by
  refine act_outSafe h fun _ _ _ _ _ h1 h2 => ?_
  exact drained_safe _ _ h1 (ite_safe (trap_safe h1) (ite_safe (trap_safe h1) h2))

theorem sendAnswered_safe {tid t r} (h : s.Safe) : (s.sendAnswered tid t r).Safe := ite_safe h (ite_safe h (trap_safe h))

theorem execWakeMessageArrival_safe {n} (h : s.Safe) : OutSafe (execWakeMessageArrival n s) := by
  unfold execWakeMessageArrival
  dsimp only
  split
  next e1 =>
    have h1 := (deliver_safe h).of_some e1
    split
    · exact answer_safe (ite_safe h1 h1)
    · exact h
  · exact h

theorem execHandlerMessageArrival_safe {n} (h : s.Safe) : OutSafe (execHandlerMessageArrival n s) := by
  unfold execHandlerMessageArrival
  dsimp only
  split
  next e1 =>
    have h1 := (deliver_safe h).of_some e1
    split
    · split
      · exact answer_safe h1
      · split
        next e2 =>
          have h2 := (arrive_safe h1).of_some e2
          exact answer_safe h2
        · exact answer_safe h1
    · exact h
  · exact h

theorem execWaitm_safe {p q d} (h : s.Safe) : OutSafe (execWaitm p q d s) := by
  refine act_outSafe h fun _ _ _ _ _ h1 h2 => drained_safe _ _ h1 (ite_safe h1 (loggedThen_safe h1 h2 fun _ _ h3 => ?_))
  exact finish_safe _ _ _ _ _ h1 (modCore_safe h3)

theorem execWaitc_safe {p q d a b} (h : s.Safe) : OutSafe (execWaitc p q d a b s) := by
  refine act_outSafe h fun _ _ _ _ _ h1 h2 => ?_
  dsimp only
  split
  · exact trap_safe h1
  refine drained_safe _ _ h1 ?_
  split
  · exact h1
  refine loggedThen_safe h1 h2 fun _ _ h3 => ?_
  split
  · exact finish_safe _ _ _ _ _ h1 h3
  · exact ite_safe (finish_safe _ _ _ _ _ h1 h3) h1

theorem barLeave_safe {obj count tid} (h : s.Safe) : ReleaseSafe (s.barLeave obj count tid) := by
  unfold State.barLeave
  split
  · exact h
  split
  next e1 =>
    have h1 := (servedGate_safe h).of_go e1
    exact h1
  · trivial
  · trivial

theorem barAll_safe {obj count n l} (h : s.Safe) : ReleaseSafe (State.barAll obj count n l s) := by
  induction n generalizing s l with
  | zero => exact h
  | succ n ih =>
    unfold State.barAll
    split
    · split
      · exact h
      · trivial
    · split
      next e => exact ih ((barLeave_safe h).of_done e)
      · exact barLeave_safe h

theorem withdraw_safe {tid t} (h : s.Safe) : (s.withdraw tid t).Safe := by
  unfold State.withdraw
  dsimp only
  split
  · exact h
  · exact ite_safe h h

theorem barDiverge_safe {obj tid reason expected} (h : s.Safe) : (s.barDiverge obj tid reason expected).Safe := by
  unfold State.barDiverge
  split
  · exact diverge_safe (withdraw_safe h)
  · exact h

theorem barNoted_safe {obj l} (h : s.Safe) : (s.barNoted obj l).Safe := by
  unfold State.barNoted
  exact foldl_safe (fun _ _ h1 => ite_safe h1 (noteReplay_safe h1)) h

theorem release_safe {obj b} {f : State → State} (h : s.Safe) (hf : ∀ s0, s0.Safe → (f s0).Safe) : (s.release obj b f).Safe := by
  unfold State.release
  split
  next e1 =>
    have h1 := (barAll_safe h).of_done e1
    exact hf _ h1
  · exact barNoted_safe h
  · exact barDiverge_safe h

theorem coreRelease_safe {c key} (h : s.Safe) : (s.coreRelease c key).Safe := by
  unfold State.coreRelease
  split
  · exact h
  · exact ite_safe h (release_safe h fun _ h1 => h1)

theorem execBar_safe {p q a b} (h : s.Safe) : OutSafe (execBar p q a b s) := by
  refine act_outSafe h fun _ _ _ _ _ h1 h2 => ?_
  exact drained_safe _ _ h1 (ite_safe h2 (ite_safe h1 (coreRelease_safe h2)))

theorem execClusterBarrierArrival_safe {n} (h : s.Safe) : OutSafe (execClusterBarrierArrival n s) := by
  unfold execClusterBarrierArrival
  split
  next e1 =>
    have h1 := (deliver_safe h).of_some e1
    split
    · exact h1
    · exact h
  · exact h

theorem execClusterBarrierRelease_safe {cl bar} (h : s.Safe) : OutSafe (execClusterBarrierRelease cl bar s) := by
  unfold execClusterBarrierRelease
  dsimp only
  split
  · exact h
  · exact ite_outSafe h (release_safe (foldl_safe (fun _ _ h1 => h1) h) fun _ h1 => h1)

theorem reissue_safe {w} (h : s.Safe) : OutSafe (reissue w s) := by
  unfold reissue
  dsimp only
  split
  · exact execLdf_safe h
  · exact execLdfe_safe h
  · exact execSte_safe h
  · exact execJoin_safe h
  · exact execWaitm_safe h
  · exact execWaitc_safe h
  · exact h

theorem offer_safe {c l} (h : s.Safe) : OptSafe id (s.offer c l) := by
  induction l with
  | nil => trivial
  | cons tid rest ih =>
    unfold State.offer
    split
    · split
      · split
        · split
          next e =>
            have he := (reissue_safe (s := { s with cur := tid }) h).of_next e
            split
            · split
              · exact ih
              · exact he
            · exact he
          · exact ih
        · exact ih
      · exact ih
    · exact ih

theorem execSyncWaitSatisfied_safe {core pos} (h : s.Safe) : OutSafe (execSyncWaitSatisfied core pos s) := by
  unfold execSyncWaitSatisfied
  split
  next e1 => exact (offer_safe h).of_some e1
  · exact foldl_safe (fun _ _ h1 => coreRelease_safe h1) h

theorem popOrSteal_safe {tid ctx} (h : s.Safe) : (s.popOrSteal tid ctx).Safe := by
  unfold State.popOrSteal
  dsimp only
  split
  · split
    · exact getD_safe (bind_safe h) h
    · exact h
  · split <;> split <;> exact h

theorem firstBound_safe {tid ctx l} (h : s.Safe) : OptSafe id (s.firstBound tid ctx l) := by
  induction l with
  | nil => trivial
  | cons a r ih =>
    unfold State.firstBound
    split
    next e => exact (bindArrival_safe (s := s.unwait _ _ _) h).of_some e
    · exact ih

theorem bindRecorded_safe {tid ctx} (h : s.Safe) : (s.bindRecorded tid ctx).Safe := by
  unfold State.bindRecorded
  dsimp only
  split
  next e1 => exact (firstBound_safe h).of_some e1
  · split
    · split
      · exact ite_safe (ite_safe h h) (ite_safe h h)
      · split
        · split
          · split
            · exact ite_safe (getD_safe (bind_safe h) h) (getD_safe (bind_safe h) h)
            · exact ite_safe h h
          · exact ite_safe h h
        · exact ite_safe h h
    · exact ite_safe h h

theorem execSlotBind_safe {tid} (h : s.Safe) : OutSafe (execSlotBind tid s) := by
  unfold execSlotBind
  dsimp only
  split
  · exact h
  split
  · exact bindRecorded_safe h
  split
  · exact popOrSteal_safe h
  · exact ite_outSafe (getD_safe (bindArrival_safe h) h) h

theorem execStealRequest_safe {n} (h : s.Safe) : OutSafe (execStealRequest n s) := by
  unfold execStealRequest
  split
  next e1 =>
    have h1 := (deliver_safe h).of_some e1
    split
    · split <;> exact h1
    · exact h
  · exact h

theorem execStealReply_safe {n} (h : s.Safe) : OutSafe (execStealReply n s) := by
  unfold execStealReply
  dsimp only
  split
  next e1 =>
    have h1 := (deliver_safe h).of_some e1
    split
    · split
      · split
        · exact h1
        · split
          next e2 => exact OptSafe.of_some e2 (bind_safe h1)
          · exact h
      · exact h1
    · exact h
  · exact h

theorem execStealSearchRetry_safe {core cx} (h : s.Safe) : OutSafe (execStealSearchRetry core cx s) := by
  unfold execStealSearchRetry
  split
  · exact ite_outSafe h h
  · exact h

theorem execMigrationArrival_safe {n} (h : s.Safe) : OutSafe (execMigrationArrival n s) := by
  unfold execMigrationArrival
  dsimp only
  split
  next e1 =>
    have h1 := (deliver_safe h).of_some e1
    split
    · split
      · exact h1
      · split
        next e2 =>
          have h2 := (arrive_safe h1).of_some e2
          exact h2
        · exact h1
    · exact h
  · exact h

theorem execMigrationRefused_safe {n} (h : s.Safe) : OutSafe (execMigrationRefused n s) := by
  unfold execMigrationRefused
  dsimp only
  split
  next e1 =>
    have h1 := (deliver_safe h).of_some e1
    split
    · exact ite_outSafe (trap_safe h1) h1
    · exact h
  · exact h

/-! Machine/Stream. -/

theorem ringWords_safe {c p bad n i off l} (h : s.Safe) : (s.ringWords c p bad n i off l).Safe := by
  induction n generalizing s i off l with
  | zero => exact h
  | succ n ih => exact ih (ite_safe h (store_safe _ _ _ h))

theorem enterStream_safe {port d} {f : Port → Port} (h : s.Safe) : (s.enterStream port d f).Safe := by
  unfold State.enterStream
  dsimp only
  split
  · exact h
  · exact unitLogged_safe h fun _ h1 => ringWords_safe h1

theorem deliverTo_safe {port ctx d} (h : s.Safe) : (s.deliverTo port ctx d).Safe := by
  unfold State.deliverTo
  dsimp only
  split
  · exact h
  split
  · exact h
  · exact ite_safe (ite_safe (ovfWrite_safe h) h) (ite_safe h (ite_safe (enterStream_safe h) h))

theorem enterFirst_safe {port p l} {f : ℕ → Port → Port} (h : s.Safe) : (s.enterFirst port p l f).Safe := by
  unfold State.enterFirst
  split
  · split
    · exact ite_safe (enterStream_safe h) h
    · exact h
  · exact foldl_safe (fun _ _ h1 => enterStream_safe h1) h

theorem retryStream_safe {port} (h : s.Safe) : (s.retryStream port).Safe := by
  unfold State.retryStream
  split
  · exact ite_safe h (enterFirst_safe h)
  · exact h

theorem execStreamDelivery_safe {n} (h : s.Safe) : OutSafe (execStreamDelivery n s) := by
  unfold execStreamDelivery
  split
  · exact retryStream_safe h
  split
  next e1 =>
    have h1 := (deliver_safe h).of_some e1
    split
    · exact deliverTo_safe h1
    · exact h
  · exact h

theorem execStreamDeliveryTimeout_safe {port} (h : s.Safe) : OutSafe (execStreamDeliveryTimeout port s) := by
  unfold execStreamDeliveryTimeout
  dsimp only
  split
  · split
    · exact ite_outSafe (ovfWrite_safe h) h
    · exact h
  · exact h

theorem execOverflowDeliveryReentry_safe {port} (h : s.Safe) : OutSafe (execOverflowDeliveryReentry port s) := by
  unfold execOverflowDeliveryReentry
  split
  · exact enterFirst_safe h
  · exact h

theorem freePort_safe {c key} (h : s.Safe) : (s.freePort c key).Safe := by
  unfold State.freePort
  split
  · exact h
  · exact foldl_safe (fun _ _ h1 => h1) h

theorem execSbind_safe {p q x a} (h : s.Safe) : OutSafe (execSbind p q x a s) := by
  refine act_outSafe h fun _ _ _ _ _ h1 h2 => ?_
  dsimp only
  split
  · exact trap_safe h1
  split
  · exact h1
  split
  · exact trapAt_safe h1
  split
  · exact trap_safe h1
  refine drained_safe _ _ h1 ?_
  exact ite_safe (trap_safe h1) (ite_safe (trap_safe h1) (setFullN_safe (freePort_safe h2)))

theorem execSfree_safe {p q x} (h : s.Safe) : OutSafe (execSfree p q x s) := by
  unfold execSfree
  extract_lets word
  refine frame_outSafe h fun tid t s1 h1 => ite_safe (trap_safe h1) (ite_safe h1 (drained_safe _ _ h1 ?_))
  exact safe_of_mem (retire_mem ..) (freePort_safe h1)

/-! Machine/Thin. -/

theorem sldAccess_safe {word p q srcs dsts need peer} {wait : ℕ → Thread → State → List Word → Loc → State → State} (h : s.Safe)
    (hwait : ∀ x0 x1 s2 x3 x4 s5, s2.Safe → s5.Safe → (wait x0 x1 s2 x3 x4 s5).Safe) :
    OutSafe (sldAccess word p q srcs dsts need peer s wait) := by
  refine act_outSafe h fun _ _ _ _ _ h1 h2 => ?_
  dsimp only
  split
  · exact trapAt_safe h1
  split
  · exact ite_safe (ship_safe h1) (trap_safe h1)
  split
  · exact trap_safe h1
  split
  · exact pageMiss_safe h1
  next e1 =>
    have h3 := snd_safe e1 (translate_safe h2)
    exact hwait _ _ _ _ _ _ h1 h3

theorem execThin_safe {p q d a b} (h : s.Safe) : OutSafe (execThin p q d a b s) := by
  refine sldAccess_safe h fun _ _ _ _ _ _ h1 h2 => ?_
  dsimp only
  split
  · exact logTest_safe h1 h2
  split
  · exact trapAt_safe h1
  · exact ite_safe (trap_safe h1) (logTest_safe h1 h2)

theorem acceptThin_safe {cl cx pkg l tkt} (h : s.Safe) :
    (s.acceptThin cl cx pkg l tkt).2.Safe := ite_snd_safe h (ite_snd_safe h (ite_snd_safe h (store_safe _ _ _ h)))

theorem loggedAt_safe {tid t place kind obj out} {s0 : State} {k : State → State} (h : s0.Safe) (hs : s.Safe)
    (hk : ∀ s0, s0.Safe → (k s0).Safe) :
    (s0.loggedAt s tid t place kind obj out k).Safe := by
  unfold State.loggedAt
  split
  next e1 =>
    have h1 := (servedGate_safe hs).of_go e1
    exact hk _ h1
  · exact noteReplay_safe h
  · exact h
  · exact diverge_safe h

theorem sldHeard_safe {c kind l} (h : s.Safe) : (s.sldHeard c kind l).Safe := ite_safe (heardAt_safe h) (heardAt_safe h)

theorem sldServed_safe {tid t r} (h : s.Safe) : (s.sldServed tid t r).Safe := by
  unfold State.sldServed
  extract_lets _ _ l s1
  have h1 : s1.Safe := sldHeard_safe h
  split
  · exact trap_safe h1
  split
  · exact trap_safe h1
  split
  · refine ite_safe (trap_safe h1) (loggedAt_safe h h1 fun _ h2 => finish_safe _ _ _ _ _ h1 (writeReg_safe _ _ _ _ ?_))
    exact ite_safe h2 (store_safe _ _ _ h2)
  · exact complete_safe h1 (ite_safe (store_safe _ _ _ h1) h1)
  · exact complete_safe h1 h1
  · exact loggedAt_safe h (acceptThin_safe h1) fun _ h2 => complete_safe h1 h2

theorem unitHears_safe {cl off n} (h : s.Safe) : (s.unitHears cl off n).Safe := by
  refine foldl_safe (fun _ _ h1 => ?_) h
  split <;> exact h1

theorem unitPages_safe {cl n l off} (h : s.Safe) : (s.unitPages cl n l off).1.Safe := by
  induction n generalizing s l off with
  | zero => exact h
  | succ n ih =>
    unfold State.unitPages
    split
    · exact h
    split
    · exact h
    split
    · exact h
    · exact ih (storeBytes_safe _ _ (unitHears_safe h))

theorem unitWrite_safe {cl l off} (h : s.Safe) : (s.unitWrite cl l off).1.Safe := unitPages_safe h

theorem unitWrites_safe {cl l} (h : s.Safe) : (s.unitWrites cl l).1.Safe := by
  induction l generalizing s with
  | nil => exact h
  | cons x r ih =>
    unfold State.unitWrites
    split
    next e => exact ih (fst_safe e (unitWrite_safe h))
    · exact unitWrite_safe h

theorem build_safe {cl iv} (h : s.Safe) : (s.build cl iv).1.Safe := by
  unfold State.build
  dsimp only
  split
  next e1 =>
    have h1 := fst_safe e1 (unitWrites_safe (foldl_safe (fun _ _ h1 => unitHears_safe h1) h))
    exact ite_fst_safe h1 (unitWrites_safe h1)
  · exact unitWrites_safe (foldl_safe (fun _ _ h1 => unitHears_safe h1) h)

theorem setVword_safe {pkg die sld v} (h : s.Safe) : (s.setVword pkg die sld v).Safe := by
  unfold State.setVword
  split
  · exact store_safe _ _ _ h
  · exact h

theorem thinTicket_safe {cl iv version istat} (h : s.Safe) : (s.thinTicket cl iv version istat).Safe := ite_safe h h

theorem writeTicket_safe {cl} (h : s.Safe) : (s.writeTicket cl).Safe := by
  unfold State.writeTicket
  dsimp only
  split
  · exact store_safe _ _ _ h
  · exact h

theorem endInterval_safe {cl iv istat} (h : s.Safe) :
    (s.endInterval cl iv istat).Safe := thinTicket_safe (setVword_safe (unitWrite_safe h))

theorem execIntervalBuildStart_safe {cl} (h : s.Safe) : OutSafe (execIntervalBuildStart cl s) := by
  unfold execIntervalBuildStart
  dsimp only
  split
  · exact h
  split
  · exact h
  · exact setVword_safe (unitHears_safe h)

theorem execIntervalPublish_safe {n} (h : s.Safe) : OutSafe (execIntervalPublish n s) := by
  unfold execIntervalPublish
  dsimp only
  split
  · exact writeTicket_safe h
  split
  · exact h
  split
  · split
    · split
      next e1 =>
        have h1 := fst_safe e1 (build_safe h)
        exact unitLogged_safe h1 fun _ h2 => thinTicket_safe (setVword_safe h2)
      · exact h
    · exact unitLogged_safe h fun _ h1 => h1
  · split
    · split
      next e1 =>
        have h1 := fst_safe e1 (build_safe h)
        exact unitLogged_safe h1 fun _ h2 => thinTicket_safe (setVword_safe h2)
      · exact h
    · exact unitLogged_safe h fun _ h1 => h1

theorem execIntervalFailure_safe {cl} (h : s.Safe) : OutSafe (execIntervalFailure cl s) := by
  unfold execIntervalFailure
  split
  · exact h
  split
  · exact h
  next e1 =>
    have h1 := fst_safe e1 (build_safe h)
    exact endInterval_safe h1

theorem abandonIntervals_safe {cx} (h : s.Safe) : (s.abandonIntervals cx).Safe := by
  unfold State.abandonIntervals
  exact foldl_safe (fun _ _ h1 => foldl_safe (fun _ _ h2 => endInterval_safe h2) h1) h

theorem thinUnitFails_safe {cl} (h : s.Safe) : (s.thinUnitFails cl).Safe := by
  unfold State.thinUnitFails
  unfold State.modCluster
  dsimp only
  exact foldl_safe (fun _ _ h1 => endInterval_safe h1) h

/-! Machine/Copy. -/

theorem copyInstr_safe {word p q d a b kind} (h : s.Safe) : OutSafe (copyInstr word p q d a b kind s) := by
  refine act_outSafe h fun _ _ _ _ _ h1 h2 => ?_
  dsimp only
  split
  · exact trapAt_safe h1
  split
  · exact trap_safe h1
  split
  · split
    · exact trap_safe h1
    · split
      · exact trapAt_safe h1
      · exact h2
  · split
    · exact trap_safe h1
    · split
      · exact trapAt_safe h1
      · exact h2

theorem acceptCopy_safe {cmd} (h : s.Safe) : OptSafe id (s.acceptCopy cmd) := by
  unfold State.acceptCopy
  dsimp only
  split
  · exact h
  split
  · exact h
  split
  · trivial
  split
  · exact h
  · trivial

theorem execCopyCommandAccept_safe {n} (h : s.Safe) : OutSafe (execCopyCommandAccept n s) := by
  unfold execCopyCommandAccept
  dsimp only
  split
  next e1 =>
    have h1 := (deliver_safe h).of_some e1
    split
    · split
      next e2 =>
        have h2 := (acceptCopy_safe h1).of_some e2
        exact answer_safe h2
      · exact h
    · exact h
  · exact h

theorem execCombiningWindowClose_safe {cl} (h : s.Safe) : OutSafe (execCombiningWindowClose cl s) := by
  unfold execCombiningWindowClose
  dsimp only
  split
  · split
    · exact h
    · exact ite_outSafe h h
  · exact h

theorem engPlaceOf_safe {e need la} (h : s.Safe) : (s.engPlaceOf e need la).2.Safe := by
  unfold State.engPlaceOf
  dsimp only
  split
  · exact h
  split
  next e1 =>
    have h1 := snd_safe e1 (translate_safe h)
    exact h1
  next e1 =>
    have h1 := snd_safe e1 (translate_safe h)
    split
    · exact h1
    · split <;> exact h1

theorem engHears_safe {e x1} (h : s.Safe) : (s.engHears e x1).Safe := by
  unfold State.engHears
  split
  · exact h
  · exact h
  · split <;> exact h

theorem engPieces_safe {e need la n} (h : s.Safe) : (s.engPieces e need la n).2.Safe := by
  unfold State.engPieces
  dsimp only
  split
  next e1 =>
    have h1 := snd_safe e1 (engPlaceOf_safe h)
    exact h1
  next e1 =>
    have h1 := snd_safe e1 (engPlaceOf_safe h)
    split
    · exact h1
    split
    next e2 =>
      have h2 := snd_safe e2 (engPlaceOf_safe h1)
      exact h2
    next e2 =>
      have h2 := snd_safe e2 (engPlaceOf_safe h1)
      exact h2

theorem readPieces_safe {e l} (h : s.Safe) : (s.readPieces e l).2.Safe := by
  induction l generalizing s with
  | nil => exact h
  | cons x r ih => exact ih (readGood_safe (engHears_safe h))

theorem storePieces_safe {e l b} (h : s.Safe) : (s.storePieces e l b).Safe := by
  induction l generalizing s b with
  | nil => exact h
  | cons x r ih => exact ih (storeBytes_safe _ _ (engHears_safe h))

theorem engRead_safe {e d n i} (h : s.Safe) : (s.engRead e d n i).2.Safe := by
  induction n generalizing s i with
  | zero => exact h
  | succ n ih =>
    unfold State.engRead
    split
    next e1 => exact snd_safe e1 (engPieces_safe h)
    next e1 => exact ih (readPieces_safe (snd_safe e1 (engPieces_safe h)))

theorem engTargets_safe {e d i l} {at_ : Nat → Option Nat} (h : s.Safe) : (s.engTargets e d at_ i l).2.2.Safe := by
  induction l generalizing s i with
  | nil => exact h
  | cons x r ih =>
    unfold State.engTargets
    split
    · exact ih h
    split
    next e1 => exact snd_safe e1 (engPieces_safe h)
    next e1 => exact ih (snd_safe e1 (engPieces_safe h))

theorem engWrite_safe {e d l} (h : s.Safe) : (s.engWrite e d l).1.Safe := by
  unfold State.engWrite
  extract_lets _ _ _ s1 s2 s3
  have h1 : s1.Safe := foldl_safe (fun _ _ hs => storePieces_safe hs) h
  have h2 : s2.Safe := foldl_safe (fun _ _ hs => foldl_safe (fun _ _ hs => hs) hs) h1
  have h3 : s3.Safe := foldl_safe (fun _ _ hs => ite_safe (foldl_safe (fun _ _ hs => hs) hs) hs) h2
  exact h3

theorem copyMembers_safe {e rd i l r} (h : s.Safe) : (s.copyMembers e rd i l r).2.Safe := by
  induction l generalizing s i r with
  | nil => exact h
  | cons m l ih =>
    unfold State.copyMembers
    split
    · exact ih h
    split
    · exact ih h
    · exact ih (engWrite_safe (engTargets_safe h))

theorem copyElements_safe {e j x d} (h : s.Safe) : (s.copyElements e j x d).2.Safe := by
  unfold State.copyElements
  dsimp only
  split
  · exact ite_snd_safe (ite_snd_safe h (engRead_safe h)) (ite_snd_safe h (engRead_safe h))
  · exact copyMembers_safe (ite_snd_safe h (engRead_safe h))

theorem engBytes_safe {e n la} (h : s.Safe) : (s.engBytes e n la).2.Safe := by
  induction n generalizing s la with
  | zero => exact h
  | succ n ih =>
    unfold State.engBytes
    split
    next e1 => exact snd_safe e1 (engPlaceOf_safe h)
    next e1 =>
      have h1 := snd_safe e1 (engPlaceOf_safe h)
      dsimp only
      split
      next e2 => exact snd_safe e2 (ih (readGood_safe (engHears_safe h1)))
      next e2 => exact snd_safe e2 (ih (readGood_safe (engHears_safe h1)))

theorem expandNext_safe {e cmds d r} (h : s.Safe) : (s.expandNext e cmds d r).2.Safe := by
  unfold State.expandNext
  dsimp only
  split
  · exact h
  split
  next e1 =>
    have h1 := snd_safe e1 (engBytes_safe h)
    exact h1
  next e1 =>
    have h1 := snd_safe e1 (engBytes_safe h)
    split
    next e2 =>
      have h2 := snd_safe e2 (engBytes_safe h1)
      exact h2
    next e2 =>
      have h2 := snd_safe e2 (engBytes_safe h1)
      exact foldl_safe (fun _ _ h3 => h3) h2

theorem markBlock_safe {la n full} (h : s.Safe) : (s.markBlock la n full).Safe := by
  unfold State.markBlock
  exact foldl_safe (fun _ _ h1 => h1) h

theorem engPut_safe {e l la} (h : s.Safe) : (s.engPut e l la).2.Safe := by
  induction l generalizing s la with
  | nil => exact h
  | cons b r ih =>
    unfold State.engPut
    split
    next e1 => exact snd_safe e1 (engPlaceOf_safe h)
    next e1 =>
      have h1 := snd_safe e1 (engPlaceOf_safe h)
      split
      · exact ih h1
      · exact ih (ite_safe (store_safe _ _ _ (engHears_safe h1)) (store_safe _ _ _ (engHears_safe h1)))

theorem compressNext_safe {e d r} (h : s.Safe) : (s.compressNext e d r).2.Safe := by
  unfold State.compressNext
  dsimp only
  split
  · exact ite_snd_safe (ite_safe (markBlock_safe h) h) (engPut_safe h)
  · exact ite_snd_safe h (ite_snd_safe h (ite_snd_safe h h))

theorem copyEnds_safe {e r combined i x d} (h : s.Safe) : BothSafe (s.copyEnds e r combined i x d) := by
  unfold State.copyEnds
  dsimp only
  split
  · exact h
  split
  · exact unitLogged_safe h fun _ h1 => ite_safe (markBlock_safe (store_safe _ _ _ h1)) h1
  split
  · exact ite_safe (markBlock_safe (store_safe _ _ _ h)) h
  split
  · exact ite_safe (markBlock_safe (store_safe _ _ _ h)) h
  · exact unitLogged_safe h fun _ h1 => ite_safe (markBlock_safe (store_safe _ _ _ h1)) h1

theorem endDesc_safe {e j r} (h : s.Safe) : (s.endDesc e j r).Safe := by
  unfold State.endDesc
  dsimp only
  split
  · exact ite_safe h h
  split
  · exact ite_safe h h
  split
  next e1 =>
    have h1 := (copyEnds_safe h).of_ok e1
    exact ite_safe h1 h1
  next e1 => exact (copyEnds_safe h).of_error e1

theorem engPiece_safe {e j x d} (h : s.Safe) : (s.engPiece e j x d).2.Safe := by
  unfold State.engPiece
  dsimp only
  split
  · exact ite_snd_safe (expandNext_safe h) (compressNext_safe h)
  · exact ite_snd_safe h (ite_snd_safe h (copyElements_safe h))

theorem engineWork_safe {e} (h : s.Safe) : (s.engineWork e).Safe := by
  unfold State.engineWork
  dsimp only
  split
  · exact h
  split
  · exact h
  split
  · exact h
  split
  · exact h
  split
  · exact h
  split
  · exact h
  split
  · split
    · exact ite_safe (endDesc_safe h) h
    · split
      · exact h
      · exact ite_safe (ite_safe (endDesc_safe (engPiece_safe h)) (engPiece_safe h)) (engPiece_safe h)
  · exact ite_safe (ite_safe (endDesc_safe (engPiece_safe h)) (engPiece_safe h)) (engPiece_safe h)

/-! Machine/Transform. -/

theorem expandBlock_safe {c e member data la unc} (h : s.Safe) : OptSafe id (s.expandBlock c e member data la unc) := by
  unfold State.expandBlock
  dsimp only
  split
  · exact h
  split
  · split
    · exact ite_safe (markBlock_safe h) (markBlock_safe (storeBytes_safe _ _ h))
    · exact h
  · split
    · exact ite_safe (markBlock_safe h) (markBlock_safe (storeBytes_safe _ _ h))
    · exact h
  · split
    · exact h
    · split
      · trivial
      · exact h
  · exact h

theorem sendBlock_safe {c} (h : s.Safe) : (s.sendBlock c).Safe := by
  unfold State.sendBlock
  split <;> exact h

theorem execBlockExpansion_safe {n} (h : s.Safe) : OutSafe (execBlockExpansion n s) := by
  unfold execBlockExpansion
  split
  · exact sendBlock_safe h
  split
  next e1 =>
    have h1 := (deliver_safe h).of_some e1
    split
    · exact getD_safe (expandBlock_safe h1) h
    · exact h
  · exact h

theorem bindService_safe {tid} {entry : Context → Word} (h : s.Safe) : OptSafe id (s.bindService tid entry) := by
  unfold State.bindService
  dsimp only
  split
  · trivial
  split
  · trivial
  · exact OptSafe.map (traceBind_safe h) fun _ h1 => h1

theorem execTransformThreadBind_safe {core} (h : s.Safe) : OutSafe (execTransformThreadBind core s) := by
  unfold execTransformThreadBind
  split
  · exact h
  split
  next e1 =>
    have h1 := (bindService_safe h).of_some e1
    exact h1
  · exact h

theorem outBit_safe {b i x} (h : s.Safe) : (s.outBit b i x).1.Safe := ite_fst_safe h (ite_fst_safe h (store_safe _ _ _ h))

theorem putBits_safe {b n v} (h : s.Safe) : (s.putBits b n v).1.Safe := by
  induction n generalizing s b v with
  | zero => exact h
  | succ n ih => exact ih (outBit_safe h)

theorem bitsInstr_safe {word p q srcs dsts} {f : ℕ → Thread → State → Block → List Word → State → State} (h : s.Safe)
    (hf : ∀ x0 x1 s2 x3 x4 s5, s2.Safe → s5.Safe → (f x0 x1 s2 x3 x4 s5).Safe) :
    OutSafe (bitsInstr word p q srcs dsts s f) := by
  refine act_outSafe h fun _ _ _ _ _ h1 h2 => ?_
  split
  · exact trap_safe h1
  · exact hf _ _ _ _ _ _ h1 h2

theorem execBhdr_safe {p q d} (h : s.Safe) : OutSafe (execBhdr p q d s) := by
  refine act_outSafe h fun _ _ _ _ _ h1 h2 => ?_
  dsimp only
  split
  · exact trap_safe h1
  split
  · exact ite_safe h1 (finish_safe _ _ _ _ _ h1 h2)
  · exact h1

theorem execBexp_safe {p q d a} (h : s.Safe) : OutSafe (execBexp p q d a s) := by
  refine bitsInstr_safe h fun _ _ _ _ _ _ h1 h2 => ?_
  dsimp only
  split <;> exact finish_safe _ _ _ _ _ h1 (modCore_safe h2)

theorem syncBlock_safe {c b} (h : s.Safe) :
    (s.syncBlock c b).2.Safe := ite_snd_safe h (markBlock_safe (ite_safe (storeBytes_safe _ _ h) h))

/-! Machine/Fabric. -/

theorem eventAll_safe {g type ms} {from_ : ℕ → ℕ} (h : s.Safe) : (s.eventAll from_ g type ms).Safe := by
  unfold State.eventAll
  exact foldl_safe (fun _ _ h1 => h1) h

theorem breakGroup_safe {g} (h : s.Safe) : (s.breakGroup g).Safe := by
  unfold State.breakGroup
  dsimp only
  split
  · exact ite_safe h (ite_safe (eventAll_safe h) h)
  · exact h

theorem fabGate_safe {mode passed cx die place src g pc} (h : s.Safe) :
    FabGateSafe (s.fabGate mode passed cx die place src g pc) := by
  unfold State.fabGate
  dsimp only
  split
  · split
    · trivial
    · exact h
  · split
    next e1 => exact (logGate_safe h).of_go e1
    · trivial
    · trivial

theorem fabRecord_safe {cx die seq code r} (h : s.Safe) : (s.fabRecord cx die seq code r).Safe := by
  unfold State.fabRecord
  split <;> exact h

theorem gsetAnswer_safe {from_ tid code} (h : s.Safe) : (s.gsetAnswer from_ tid code).Safe := by
  unfold State.gsetAnswer
  dsimp only
  split
  · split
    · exact ite_safe (complete_safe h (fabRecord_safe h)) h
    · exact h
  · exact h

theorem gsetInstr_safe {word p q d a b} (h : s.Safe) : OutSafe (gsetInstr word p q d a b s) := by
  refine act_outSafe h fun _ _ _ _ _ h1 h2 => ?_
  refine drained_safe _ _ h1 ?_
  dsimp only
  split
  · exact logTest_safe h1 h2
  split
  · exact trapAt_safe h1
  split
  · exact trap_safe h1
  split
  · exact trapAt_safe h1
  · exact ite_safe (trap_safe h1) (logTest_safe h1 h2)

theorem dropCleared_safe {g} (h : s.Safe) : (s.dropCleared g).Safe := by
  unfold State.dropCleared
  split
  · exact ite_safe h h
  · exact h

theorem clearGroup_safe {pkg cx g} (h : s.Safe) : (s.clearGroup pkg cx g).2.Safe := by
  unfold State.clearGroup
  dsimp only
  split
  · exact h
  split
  · exact h
  split
  · exact h
  split
  · exact gsetAnswer_safe (ite_safe h h)
  · exact dropCleared_safe (eventAll_safe (breakGroup_safe h))

theorem clearServed_safe {c cx g} (h : s.Safe) : (s.clearServed c cx g).1.Safe := by
  unfold State.clearServed
  dsimp only
  split
  · exact clearGroup_safe h
  · exact h

theorem gsetServed_safe {tid t r} (h : s.Safe) : (s.gsetServed tid t r).Safe := by
  unfold State.gsetServed
  dsimp only
  split
  · exact h
  split
  · exact noteReplay_safe h
  · exact h
  · exact diverge_safe h
  next e1 =>
    have h1 := (fabGate_safe h).of_go e1
    exact ite_safe (gsetAnswer_safe (clearServed_safe h1)) (ite_safe (gsetAnswer_safe h1) h1)

theorem tryInstall_safe {g} (h : s.Safe) : (s.tryInstall g).Safe := by
  unfold State.tryInstall
  split
  · exact h
  next x e1 =>
    have answered {c} {s1 : State} (h1 : s1.Safe) :
        (x.regs.foldl (fun s r => s.gsetAnswer (swPlace (rootSw x.spec)) r.tid c) s1).Safe :=
      foldl_safe (fun _ _ hs => gsetAnswer_safe hs) h1
    exact ite_safe h (ite_safe (answered (modFab_safe h)) (eventAll_safe (answered (modFab_safe h))))

theorem execGroupRegistration_safe {n} (h : s.Safe) : OutSafe (execGroupRegistration n s) := by
  unfold execGroupRegistration
  dsimp only
  split
  next e1 =>
    have h1 := (deliver_safe h).of_some e1
    split
    · split
      · exact tryInstall_safe h1
      · split
        · exact h
        · split
          · exact gsetAnswer_safe h1
          · exact ite_outSafe (gsetAnswer_safe h1) (ite_outSafe (gsetAnswer_safe h1) (tryInstall_safe h1))
    · exact h
  · exact h

theorem execGsetTimeout_safe {grp} (h : s.Safe) : OutSafe (execGsetTimeout grp s) := by
  unfold execGsetTimeout
  split
  · exact ite_outSafe (foldl_safe (fun _ _ h1 => gsetAnswer_safe h1) h) (dropCleared_safe h)
  · exact h

theorem cdPages_safe {c l} (h : s.Safe) : (s.cdPages c l).2.Safe := by
  induction l generalizing s with
  | nil => exact h
  | cons x r ih =>
    unfold State.cdPages
    dsimp only
    split
    next e1 => exact snd_safe e1 (translate_safe h)
    next e1 =>
      have h1 := snd_safe e1 (translate_safe h)
      split
      · exact ih h1
      split
      next e2 => exact snd_safe e2 (translate_safe h1)
      next e2 => exact ih (snd_safe e2 (translate_safe h1))

theorem srcBytes_safe {port c n la} (h : s.Safe) : (s.srcBytes port c n la).2.Safe := ite_snd_safe h (portBytes_safe h)

theorem fabEnds_safe {tid} (h : s.Safe) : (s.fabEnds tid).Safe := by
  unfold State.fabEnds
  dsimp only
  split
  · exact ite_safe (finish_safe _ _ _ _ _ h h) h
  · exact h

theorem returnStatus_safe {o code} (h : s.Safe) : (s.returnStatus o code).Safe := by
  unfold State.returnStatus
  dsimp only
  split
  · exact ite_safe (fabRecord_safe h) (store_safe _ _ _ (fabRecord_safe h))
  · exact fabEnds_safe (modThread_safe (ite_safe (fabRecord_safe h) (store_safe _ _ _ (fabRecord_safe h))))

theorem contribute_safe {c cx op tid place comm x r} (h : s.Safe) : (s.contribute c cx op tid place comm x r).Safe := by
  unfold State.contribute
  dsimp only
  split
  · split
    · exact returnStatus_safe h
    · exact ite_safe (returnStatus_safe h) (ite_safe (ite_safe (returnStatus_safe h) h) h)
  · exact returnStatus_safe h

theorem readFails_safe {k} (h : s.Safe) : (s.readFails k).Safe := by
  unfold State.readFails
  split
  · exact ite_safe (returnStatus_safe h) h
  · exact h

theorem sendRead_safe {p data} (h : s.Safe) : (s.sendRead p data).Safe := by
  unfold State.sendRead
  dsimp only
  split
  · exact readFails_safe h
  · exact foldl_safe (fun _ _ h1 => h1) h
  · exact ite_safe (readFails_safe h) h

theorem portReads_safe {c} (h : s.Safe) : (s.portReads c).Safe := by
  unfold State.portReads
  split
  · exact h
  extract_lets go
  have hgo {s1 : State} (h1 : s1.Safe) : (go s1).Safe := sendRead_safe (modCore_safe (srcBytes_safe h1))
  exact ite_safe (hgo h) (withPages_safe h fun _ h1 => hgo h1)

theorem fabGates_safe {mode cx die place src pc l} (h : s.Safe) : OkSafe Prod.fst (s.fabGates mode cx die place src pc l) := by
  induction l generalizing s with
  | nil => exact h
  | cons x r ih =>
    unfold State.fabGates
    split
    next e1 =>
      split
      next e2 =>
        have h2 := OkSafe.of_ok e2 (ih ((fabGate_safe h).of_go e1))
        exact h2
      · trivial
    · trivial

theorem issueChain_safe {c cx op tid comm i l} (h : s.Safe) : (s.issueChain c cx op tid comm i l).Safe := by
  induction l generalizing s i with
  | nil => exact h
  | cons x l ih => exact ih (contribute_safe h)

theorem fabInstr_safe {word p q d a b op} (h : s.Safe) : OutSafe (fabInstr word p q d a b op s) := by
  refine act_outSafe h fun _ _ _ _ _ h1 h2 => ?_
  refine drained_safe _ _ h1 ?_
  dsimp only
  split
  · exact trapAt_safe h1
  split
  · exact trap_safe h1
  split
  · exact trap_safe h1
  split
  · exact trapAt_safe h1
  split
  · exact pageMiss_safe h1
  next e1 =>
    have h3 := snd_safe e1 (cdPages_safe h2)
    split
    next e2 =>
      have h4 := (fabGates_safe h3).of_ok e2
      exact fabEnds_safe (issueChain_safe h4)
    · exact h1
    · exact diverge_safe h1
    · exact h1

theorem chainGoes_safe {cx src l but} (h : s.Safe) : (s.chainGoes cx src l but).Safe := by
  unfold State.chainGoes
  exact foldl_safe (fun _ _ h1 => ite_safe h1 h1) h

theorem execCommX1Element_safe {core} (h : s.Safe) : OutSafe (execCommX1Element core s) := by
  unfold execCommX1Element
  dsimp only
  split
  · split
    · exact modThread_safe h
    · split
      · exact modThread_safe h
      · split
        · exact modThread_safe h
        · split
          · exact h
          · split
            · exact modThread_safe h
            · split
              next e1 =>
                have h1 := OkSafe.of_ok e1 (fabGates_safe (foldl_safe (fun _ _ h1 => portPlaceOf_safe h1) h))
                exact issueChain_safe (chainGoes_safe h1)
              · exact unitDiverges_safe (chainGoes_safe h)
              · exact chainGoes_safe h
              · exact h
  · exact h
  · exact h

theorem execCommX3Query_safe {core} (h : s.Safe) : OutSafe (execCommX3Query core s) := by
  unfold execCommX3Query
  dsimp only
  split <;> exact h

theorem notifyChild_safe {l sw g seq code c port} (h : s.Safe) : (s.notifyChild l sw g seq code c port).Safe := by
  unfold State.notifyChild
  dsimp only
  split
  · exact h
  split
  · split
    · exact h
    · split
      · exact h
      · split
        · exact ite_safe h h
        · exact h
  · exact ite_safe h h

theorem notifyChildren_safe {l sw g seq code c} (h : s.Safe) : (s.notifyChildren l sw g seq code c).Safe := by
  unfold State.notifyChildren
  exact foldl_safe (fun _ _ h1 => notifyChild_safe h1) h

theorem rootDecides_safe {l sw g x} (h : s.Safe) : (s.rootDecides l sw g x).Safe := by
  unfold State.rootDecides
  dsimp only
  split
  · exact notifyChildren_safe h
  split
  · exact h
  · exact ite_safe (notifyChildren_safe h) (notifyChildren_safe h)

theorem chunkArrives_safe {l sw port k} (h : s.Safe) : OptSafe id (s.chunkArrives l sw port k) := by
  unfold State.chunkArrives
  extract_lets g key x start add late dead
  have hadd (x : RedSlot) : (add x).Safe := by
    unfold add
    extract_lets
    split
    · exact h
    split
    · exact ite_safe h h
    · exact rootDecides_safe h
  have hdead : OptSafe id dead := notifyChild_safe h
  split
  · exact hadd start
  · split
    · exact hadd x
    · split
      · exact hdead
      · trivial
  · split
    · exact hdead
    · trivial
  · split
    · exact hdead
    · split
      · exact hadd start
      · trivial

theorem execReductionChunkArrival_safe {n} (h : s.Safe) : OutSafe (execReductionChunkArrival n s) := by
  unfold execReductionChunkArrival
  split
  · exact portReads_safe h
  split
  next e1 =>
    have h1 := (deliver_safe h).of_some e1
    split
    · split
      · exact ite_outSafe h1 (getD_safe (chunkArrives_safe h1) h)
      · exact h1
    · exact h
  · exact h

theorem killSlot_safe {l sw g key x} (h : s.Safe) : (s.killSlot l sw g key x).Safe := by
  unfold State.killSlot
  dsimp only
  split
  · split
    · exact ite_safe (ite_safe h h) (ite_safe h h)
    · exact ite_safe (notifyChildren_safe (ite_safe h h)) (notifyChildren_safe (ite_safe h h))
  · exact ite_safe (ite_safe h h) (notifyChildren_safe (ite_safe h h))

theorem execSlotTimerExpiry_safe {sw grp slot} (h : s.Safe) : OutSafe (execSlotTimerExpiry sw grp slot s) := by
  unfold execSlotTimerExpiry
  dsimp only
  split
  · exact ite_outSafe (killSlot_safe h) h
  · exact h

theorem execSlotNoticeArrival_safe {n} (h : s.Safe) : OutSafe (execSlotNoticeArrival n s) := by
  unfold execSlotNoticeArrival
  dsimp only
  split
  next e1 =>
    have h1 := (deliver_safe h).of_some e1
    split
    · split
      · split
        · exact h1
        · exact ite_outSafe (ite_safe (killSlot_safe h1) h1) (ite_outSafe h1 (notifyChildren_safe h1))
      · exact h1
    · exact h
  · exact h

theorem writeAnswers_safe {core k code targets} (h : s.Safe) : (s.writeAnswers core k code targets).Safe := by
  unfold State.writeAnswers
  exact foldl_safe (fun _ _ h1 => h1) h

theorem countWrite_safe {cx core k targets} (h : s.Safe) : OptSafe id (s.countWrite cx core k targets) := by
  unfold State.countWrite
  dsimp only
  split
  · exact writeAnswers_safe h
  split
  · exact writeAnswers_safe h
  split
  · exact writeAnswers_safe h
  split
  · split
    · exact unitLogged_safe h fun _ h1 => writeAnswers_safe h1
    · trivial
  · split
    · exact unitLogged_safe h fun _ h1 => writeAnswers_safe h1
    · trivial

theorem countHeld_safe {cx core k} (h : s.Safe) : (s.countHeld cx core k).Safe := unitLogged_safe h fun _ h1 => h1

theorem writeElements_safe {cx core k bytes} (h : s.Safe) : OptSafe id (s.writeElements cx core k bytes) := by
  unfold State.writeElements
  split
  · exact h
  split
  · trivial
  · exact markBlock_safe (storeBytes_safe _ _ h)

theorem execDestinationWrite_safe {n} (h : s.Safe) : OutSafe (execDestinationWrite n s) := by
  unfold execDestinationWrite
  split
  next e1 =>
    have h1 := (deliver_safe h).of_some e1
    split
    · split
      · exact h1
      · split
        · exact writeAnswers_safe h1
        · split
          · exact writeAnswers_safe h1
          · split
            · exact writeAnswers_safe h1
            next e2 =>
              have h2 := (writeElements_safe h1).of_some e2
              split
              next e3 => exact (countWrite_safe h2).of_some e3
              · exact countHeld_safe h2
    · exact h
  · exact h

theorem statusArrives_safe {core g seq code} (h : s.Safe) : (s.statusArrives core g seq code).Safe := by
  unfold State.statusArrives
  dsimp only
  split
  · exact h
  · exact ite_safe h (returnStatus_safe h)

theorem execStatusReturn_safe {n} (h : s.Safe) : OutSafe (execStatusReturn n s) := by
  unfold execStatusReturn
  split
  next e1 =>
    have h1 := (deliver_safe h).of_some e1
    split
    · exact ite_safe (statusArrives_safe h1) h1
    · exact h
  · exact h

theorem execMemberCutoffTimeout_safe {core grp seq} (h : s.Safe) : OutSafe (execMemberCutoffTimeout core grp seq s) := by
  unfold execMemberCutoffTimeout
  dsimp only
  split
  · exact h
  · exact returnStatus_safe h

theorem fabricDown_safe {key} (h : s.Safe) : (s.fabricDown key).Safe := by
  unfold State.fabricDown
  dsimp only
  exact foldl_safe (fun _ _ h1 => ite_safe (breakGroup_safe h1) h1) h

theorem keepWrites_safe {cx g} (h : s.Safe) : (s.keepWrites cx g).Safe := by
  unfold State.keepWrites
  dsimp only
  split
  · exact h
  · split <;> exact h

theorem freeGroups_safe {cx} (h : s.Safe) : (s.freeGroups cx).Safe := by
  unfold State.freeGroups
  exact foldl_safe (fun _ _ h1 => ite_safe (clearGroup_safe (keepWrites_safe h1)) h1) h

/-! Machine/Matrix. -/

theorem matEnd_safe {c tid t w n} (h : s.Safe) : (s.matEnd c tid t w n).Safe := ite_safe h h

theorem admitted_safe {c e} (h : s.Safe) : (s.admitted c e).Safe := by
  unfold State.admitted
  dsimp only
  split
  · exact h
  split
  · split <;> exact h
  split
  · exact ite_safe (matEnd_safe (ite_safe h h)) (ite_safe h h)
  · exact h

theorem admitAt_safe {c i} (h : s.Safe) : (s.admitAt c i).Safe := by
  unfold State.admitAt
  dsimp only
  split
  · exact h
  · exact admitted_safe h

theorem matIssue_safe {tid t w a b la} (h : s.Safe) : (s.matIssue tid t w a b la).Safe := ite_safe (admitAt_safe h) h

theorem execMatrixAdmission_safe {core} (h : s.Safe) : OutSafe (execMatrixAdmission core s) := by
  unfold execMatrixAdmission
  dsimp only
  split
  · exact admitAt_safe h
  · exact h

theorem matInstr_safe {w p q k} (h : s.Safe) : OutSafe (matInstr w p q k s) := by
  refine frame_outSafe h fun _ _ _ h1 => ?_
  refine operandsThen_safe h1 fun _ _ h2 => ?_
  split
  · exact trap_safe h1
  split
  · exact trap_safe h1
  refine drained_safe _ _ h1 ?_
  split <;> exact matIssue_safe h2

theorem stepTrap_safe {c tid t m x} (h : s.Safe) : (s.stepTrap c tid t m x).Safe := trapAt_safe h

theorem kStep_safe {c tid t m} (h : s.Safe) : (s.kStep c tid t m).Safe := by
  unfold State.kStep
  dsimp only
  split
  · exact stepTrap_safe h
  split
  · exact stepTrap_safe h
  · exact ite_safe (matEnd_safe h) h

theorem execMatrixKStep_safe {core} (h : s.Safe) : OutSafe (execMatrixKStep core s) := by
  unfold execMatrixKStep
  split
  · exact h
  split
  · split
    · exact kStep_safe h
    · exact h
  · exact h

theorem tileInstr_safe {w p q n srcs} {f : ℕ → Thread → State → List Word → State → State} (h : s.Safe)
    (hf : ∀ x0 x1 s2 x3 s4, s2.Safe → s4.Safe → (f x0 x1 s2 x3 s4).Safe) :
    OutSafe (tileInstr w p q n srcs s f) := act_outSafe h fun _ _ _ _ _ h1 h2 => ite_safe (trap_safe h1) (hf _ _ _ _ _ h1 h2)

theorem transferInstr_safe {w p q n a b read} (h : s.Safe) : OutSafe (transferInstr w p q n a b read s) := by
  refine tileInstr_safe h fun _ _ _ _ _ h1 h2 => ?_
  dsimp only
  split
  · exact trap_safe h1
  split
  · exact trap_safe h1
  split
  · exact trapAt_safe h1
  · exact drained_safe _ _ h1 (matIssue_safe h2)

theorem roundAll_safe {tid cx f mode sat l} (h : s.Safe) : (s.roundAll tid cx f mode sat l).2.Safe := by
  induction l generalizing s with
  | nil => exact h
  | cons x r ih => exact ih (roundTo_safe h)

theorem transfer_safe {c tid t e f} (h : s.Safe) : (s.transfer c tid t e f).Safe := by
  unfold State.transfer
  generalize tileOrder = order
  extract_lets _ _ _ _ _ _ _ s1
  have h1 : s1.Safe := foldl_safe (fun _ _ h1 => store_safe _ _ _ h1) (roundAll_safe h)
  split
  · exact accDone_safe (ite_safe (modCore_safe h1) h1)
  split
  · exact trap_safe h
  · exact accDone_safe (modCore_safe (roundAll_safe h))

theorem execAccTransferDone_safe {tid} (h : s.Safe) : OutSafe (execAccTransferDone tid s) := by
  unfold execAccTransferDone
  split
  · split
    · split
      · exact transfer_safe h
      · exact h
    · exact h
  · exact h

theorem execRingset_safe {p q t a} (h : s.Safe) : OutSafe (execRingset p q t a s) := by
  refine act_outSafe h fun _ _ _ _ _ h1 h2 => ?_
  dsimp only
  split
  · exact trap_safe h1
  split
  · exact trapAt_safe h1
  split
  · exact trap_safe h1
  · exact ite_safe (trap_safe h1) (ite_safe (trap_safe h1) (drained_safe _ _ h1 (matIssue_safe h2)))

theorem execRingst_safe {p q t b} (h : s.Safe) : OutSafe (execRingst p q t b s) := by
  refine act_outSafe h fun _ _ _ _ _ h1 h2 => ?_
  dsimp only
  split
  · exact trap_safe h1
  split
  · exact trap_safe h1
  · exact ite_safe (trap_safe h1) (drained_safe _ _ h1 h2)

/-! Machine/Switch. -/

theorem abandon_safe {tid t} (h : s.Safe) : (s.abandon tid t).1.Safe := by
  unfold State.abandon
  dsimp only
  split <;> exact withdraw_safe h

theorem atRecord_safe {tid cx} {k : Loc → State → State} (h : s.Safe) (hk : ∀ x0 s1, s1.Safe → (k x0 s1).Safe) :
    (s.atRecord tid cx k).Safe := by
  unfold State.atRecord
  dsimp only
  split
  · exact h
  refine withPages_safe h fun _ h1 => ?_
  split
  · exact h1
  next e1 =>
    have h2 := snd_safe e1 (portPlaceOf_safe h1)
    exact hk _ _ (heardAt_safe h2)

theorem answerSwitches_safe {pkg} (h : s.Safe) : (s.answerSwitches pkg).Safe := ite_safe (foldl_safe (fun _ _ h1 => h1) h) h

theorem spilt_safe {tid} (h : s.Safe) : (s.spilt tid).Safe := answerSwitches_safe h

theorem execSpill_safe {tid} (h : s.Safe) : OutSafe (execSpill tid s) := by
  unfold execSpill
  dsimp only
  split
  · exact h
  split
  · exact ite_outSafe h (spilt_safe h)
  split
  · exact spilt_safe h
  split
  · exact h
  · exact atRecord_safe h fun _ _ h1 => ite_safe h1 (spilt_safe (storeBytes_safe _ _ (abandon_safe h1)))

theorem execSpillResume_safe {tid cx} (h : s.Safe) : OutSafe (execSpillResume tid cx s) := by
  unfold execSpillResume
  dsimp only
  split
  · exact h
  split
  · exact h
  refine atRecord_safe h fun _ _ h1 => ?_
  split
  · split
    · exact h1
    · exact ite_safe (getD_safe (OptSafe.map (traceBind_safe h1) fun _ h2 => h2) h1) (getD_safe (bind_safe h1) h1)
  · split
    · exact h1
    · exact ite_safe (getD_safe (OptSafe.map (traceBind_safe h1) fun _ h2 => h2) h1) (getD_safe (bind_safe h1) h1)

/-! Machine/Log. -/

theorem execLogAppend_safe {cx die} (h : s.Safe) : OutSafe (execLogAppend cx die s) := by
  unfold execLogAppend
  dsimp only
  split
  · exact ite_outSafe h (storeBytes_safe _ _ (heardAt_safe h))
  · exact h

theorem reportCtx_safe {cx} (h : s.Safe) : (s.reportCtx cx).Safe := by
  unfold State.reportCtx
  exact foldl_safe (fun _ _ h1 => h1) h

theorem stopLog_safe {cx die} (h : s.Safe) : (s.stopLog cx die).Safe := ite_safe h (reportCtx_safe (ite_safe h h))

theorem execLogAppendFailure_safe {cx die} (h : s.Safe) : OutSafe (execLogAppendFailure cx die s) := by
  unfold execLogAppendFailure
  split
  · exact ite_outSafe (stopLog_safe h) h
  · exact h

theorem execReplayRecordDispatch_safe {cx die} (h : s.Safe) : OutSafe (execReplayRecordDispatch cx die s) := by
  unfold execReplayRecordDispatch
  dsimp only
  split
  · exact h
  split
  · exact stopLog_safe h
  split
  · exact stopLog_safe (heardAt_safe h)
  · exact ite_outSafe (traceHard_safe (heardAt_safe h)) (passResumes_safe (heardAt_safe h))

theorem replayExpires_safe {tid t obj} (h : s.Safe) : (s.replayExpires tid t obj).Safe := diverge_safe (withdraw_safe h)

theorem execReplayWaitTimeout_safe {tid} (h : s.Safe) : OutSafe (execReplayWaitTimeout tid s) := by
  unfold execReplayWaitTimeout
  dsimp only
  split
  · split
    · split
      · exact ite_outSafe (replayExpires_safe h) h
      · exact h
    · exact h
  · split
    · exact ite_outSafe (unitDiverges_safe h) h
    · exact h

theorem execMasterTimeFailover_safe (h : s.Safe) : OutSafe (execMasterTimeFailover s) := by
  unfold execMasterTimeFailover
  split
  · split <;> exact h
  · exact h

theorem execTimeStampCounterTick_safe (h : s.Safe) : OutSafe (execTimeStampCounterTick s) := by
  unfold execTimeStampCounterTick
  dsimp only
  exact foldl_safe (fun _ _ h1 => ite_safe h1 (flushTraces_safe h1)) (ite_safe h h)

/-! Machine/Failures. -/

theorem tellHealth_safe {pkg} (h : s.Safe) : (s.tellHealth pkg).Safe := by
  unfold State.tellHealth
  exact foldl_safe (fun _ _ h1 => h1) h

theorem setHealth_safe {pkg w} (h : s.Safe) : (s.setHealth pkg w).Safe := ite_safe h (tellHealth_safe h)

theorem lost_safe {pkg hi lo n} (h : s.Safe) : (s.lost pkg hi lo n).Safe := setHealth_safe h

theorem execCorrectedError_safe {pkg phys} (h : s.Safe) : OutSafe (execCorrectedError pkg phys s) := by
  unfold execCorrectedError
  cases phys with
  | none => exact setHealth_safe h
  | some a => exact modPkg_safe (setHealth_safe h)

theorem stopNow_safe {tid detail} (h : s.Safe) : (s.stopNow tid detail).Safe := by
  unfold State.stopNow
  dsimp only
  split
  · exact h
  · exact ite_safe h (stopThread_safe (abandon_safe h))

theorem stopAll_safe {detail} {f : ℕ → Thread → Bool} (h : s.Safe) : (s.stopAll f detail).Safe := by
  unfold State.stopAll
  exact foldl_safe (fun _ _ h1 => stopNow_safe h1) h

theorem reportCore_safe {c} (h : s.Safe) : (s.reportCore c).Safe := by
  unfold State.reportCore
  exact foldl_safe (fun _ _ h1 => reportCtx_safe h1) h

theorem execTlbEntryError_safe {cl n} (h : s.Safe) : OutSafe (execTlbEntryError cl n s) := by
  unfold execTlbEntryError
  split <;> exact h

theorem execBarrierStateError_safe {cl bar} (h : s.Safe) : OutSafe (execBarrierStateError cl bar s) := by
  unfold execBarrierStateError
  exact foldl_safe (fun _ _ h1 => stopNow_safe h1) h

theorem retireChannel_safe {pkg stack chan} (h : s.Safe) : (s.retireChannel pkg stack chan).Safe := by
  unfold State.retireChannel
  split
  · exact lost_safe h
  · exact ite_safe h (setHealth_safe h)

theorem execChannelRetirement_safe {pkg stack chan unit} (h : s.Safe) : OutSafe (execChannelRetirement pkg stack chan unit s) := by
  unfold execChannelRetirement
  dsimp only
  split
  · exact h
  split
  · exact ite_safe (retireChannel_safe h) h
  · exact ite_outSafe h (ite_outSafe (retireChannel_safe h) h)

theorem execSpareCopyComplete_safe {pkg stack} (h : s.Safe) : OutSafe (execSpareCopyComplete pkg stack s) := by
  unfold execSpareCopyComplete
  split <;> exact h

theorem linkLost_safe {pkg} (h : s.Safe) : (s.linkLost pkg).Safe := lost_safe (stopAll_safe h)

theorem portLost_safe {pkg port} (h : s.Safe) : (s.portLost pkg port).Safe := ite_safe h (fabricDown_safe h)

theorem packagePortLost_safe {pkg port} (h : s.Safe) : (s.packagePortLost pkg port).Safe := setHealth_safe (portLost_safe h)

theorem execPortDown_safe {pkg port} (h : s.Safe) : OutSafe (execPortDown pkg port s) := by
  unfold execPortDown
  split
  · exact packagePortLost_safe h
  split
  · exact fabricDown_safe h
  split
  · exact ite_safe (packagePortLost_safe h) (fabricDown_safe h)
  · exact h

theorem execSlotUncorrectable_safe {sw grp slot} (h : s.Safe) : OutSafe (execSlotUncorrectable sw grp slot s) := by
  unfold execSlotUncorrectable
  dsimp only
  split
  · exact ite_outSafe (killSlot_safe h) h
  · exact h

theorem execTreeEntryError_safe {sw grp} (h : s.Safe) : OutSafe (execTreeEntryError sw grp s) := by
  unfold execTreeEntryError
  split
  · exact ite_outSafe (breakGroup_safe h) h
  · exact h

/-! Machine/Contexts. -/

theorem dropped_safe {x1} (h : s.Safe) : (Payload.dropped s x1).Safe := by
  unfold Payload.dropped
  split
  · exact answer_safe h
  · exact answer_safe h
  · exact h
  · exact h
  · exact h
  · exact h
  · exact h

theorem discard_safe {tid t} (h : s.Safe) : (s.discard tid t).Safe := spilt_safe (withdraw_safe h)

theorem releaseCore_safe {cx c} (h : s.Safe) : (s.releaseCore cx c).Safe := by
  unfold State.releaseCore
  exact foldl_safe (fun _ _ h1 => freePort_safe h1) h

theorem freeContext_safe {cx} (h : s.Safe) : (s.freeContext cx).Safe := by
  unfold State.freeContext
  extract_lets _ s1 _ s2 s3 s4 s5
  have h1 : s1.Safe := foldl_safe (fun _ _ hs => discard_safe hs) h
  have h2 : s2.Safe := foldl_safe (fun _ _ hs => dropped_safe hs) h1
  have h3 : s3.Safe := modFab_safe (freeGroups_safe h2)
  have h4 : s4.Safe := foldl_safe (fun _ _ hs => releaseCore_safe hs) h3
  exact abandonIntervals_safe h4

theorem execHaltCompletion_safe {cx} (h : s.Safe) : OutSafe (execHaltCompletion cx s) := by
  unfold execHaltCompletion
  extract_lets _ s1
  have h1 : s1.Safe := foldl_safe (fun _ _ h1 => discard_safe h1) h
  exact ite_outSafe h (ite_outSafe h1 (safe_of_mem (say_mem ..) (freeContext_safe h1)))

theorem readSegs_safe {cx} (h : s.Safe) : (s.readSegs cx).Safe := by
  unfold State.readSegs
  dsimp only
  exact foldl_safe (fun _ _ h1 => portBytes_safe h1) h

theorem withSegs_safe {cx} {k : State → State} (h : s.Safe) (hk : ∀ s0, s0.Safe → (k s0).Safe) :
    (s.withSegs cx k).Safe := ite_safe (hk _ (readSegs_safe h)) (foldl_safe (fun _ _ h1 => h1) h)

theorem rootArrives_safe {cx t} (h : s.Safe) : (s.rootArrives cx t).Safe := by
  unfold State.rootArrives
  dsimp only
  split
  · exact getD_safe (bindArrival_safe h) h
  · exact h

theorem createContext_safe {pkg conn tag l es x} (h : s.Safe) : (s.createContext pkg conn tag l es x).Safe := by
  unfold State.createContext
  extract_lets _ s1 s2 _ s3 s4 _ s5
  have h1 : s1.Safe := foldl_safe (fun _ _ hs => modCore_safe hs) h
  have h4 : s4.Safe := readSegs_safe h1
  have h5 : s5.Safe := foldl_safe (fun _ _ hs => getD_safe (bindService_safe hs) hs) h4
  exact rootArrives_safe h5

theorem setPriority_safe {cx prio} (h : s.Safe) : (s.setPriority cx prio).Safe := by
  unfold State.setPriority
  dsimp only
  exact foldl_safe (fun _ _ h1 => ite_safe h1 h1) h

theorem newOrders_safe (h : s.Safe) : s.newOrders.Safe := by
  refine foldl_safe (fun _ _ h1 => ?_) h
  dsimp only
  split
  · exact h1
  · exact answerSwitches_safe (foldl_safe (fun _ _ h2 => ite_safe (setPriority_safe h2) h2) h1)

theorem resetPackage_safe {pkg hosts repaired} (h : s.Safe) : (s.resetPackage pkg hosts repaired).Safe := by
  unfold State.resetPackage
  extract_lets s1 s2 k s3 keep new _ _ _ s4 s5
  have h1 : s1.Safe := foldl_safe (fun _ _ h1 => freeContext_safe h1) h
  have h2 : s2.Safe := modFab_safe h1
  have h3 : s3.Safe := foldl_safe (fun _ _ h1 => storeBytes_safe _ _ h1) h2
  have h4 : s4.Safe := h3
  have h5 : s5.Safe := ite_safe (modFab_safe h4) h4
  exact ite_safe h5 (tellHealth_safe h5)

theorem execPowerOn_safe {pkg repaired} (h : s.Safe) : OutSafe (execPowerOn pkg repaired s) :=
  modPkg_safe (resetPackage_safe h)

theorem execThermalShutdown_safe {pkg} (h : s.Safe) : OutSafe (execThermalShutdown pkg s) :=
  modPkg_safe (resetPackage_safe h)

/-! Machine/Commands. -/

theorem receive_safe {pkg ep conn queued bytes} {f : Cmd → Option (State → State)} (h : s.Safe) (hf : ∀ c, CmdSafe (f c)) :
    OutSafe (receive pkg ep conn queued bytes s f) := by
  unfold receive
  generalize Cmd.parse bytes = c
  extract_lets k p _ run heard
  have hrun : CmdSafe run := by
    cases c with
    | none => exact fun _ h1 => answerTo_safe h1
    | some c => exact hf c
  generalize run = run at hrun ⊢
  split
  · exact h
  split
  · exact h
  split
  · exact ite_safe (modPkg_safe h) h
  split
  · exact h
  split
  · exact ite_outSafe (hrun _ (modPkg_safe h)) h
  · exact ite_outSafe h (hrun _ h)

theorem loadWords_safe {pkg ep n off host left len} (h : s.Safe) : (s.loadWords pkg ep n off host left len).2.Safe := by
  induction n generalizing s off host left len with
  | zero => exact h
  | succ n ih =>
    unfold State.loadWords
    split
    · exact h
    split
    · exact h
    split
    · exact h
    split
    · exact h
    split
    · exact h
    · exact ih (storeBytes_safe _ _ h)

theorem execLoadData_safe {pkg ep conn queued bytes} (h : s.Safe) : OutSafe (execLoadData pkg ep conn queued bytes s) := by
  refine receive_safe h fun _ => ?_
  dsimp only
  split
  · exact fun _ h1 => ite_safe h1 (loadWords_safe h1)
  · trivial

theorem installAll_safe {pkg done l} (h : s.Safe) : (s.installAll pkg done l).1.Safe := by
  induction l generalizing s done with
  | nil => exact h
  | cons x r ih =>
    unfold State.installAll
    split
    · exact h
    next e => exact ih ((install_safe h).of_some e)

theorem loadImages_safe {pkg x} (h : s.Safe) : (s.loadImages pkg x).Safe := ite_safe (installAll_safe h) (installAll_safe h)

theorem execLoadPageTable_safe {pkg ep conn queued bytes} (h : s.Safe) :
    OutSafe (execLoadPageTable pkg ep conn queued bytes s) := by
  unfold execLoadPageTable
  dsimp only
  split
  · exact loadImages_safe h
  refine receive_safe h fun _ => ?_
  split
  · exact fun _ h1 => ite_safe h1 (loadImages_safe h1)
  · trivial

theorem execLaunchCreate_safe {pkg ep conn queued bytes} (h : s.Safe) : OutSafe (execLaunchCreate pkg ep conn queued bytes s) := by
  refine receive_safe h fun _ => ?_
  split
  · intro _ h1
    dsimp only
    split
    · exact h1
    · exact createContext_safe h1
  · trivial

theorem execLaunchPriority_safe {pkg ep conn queued bytes} (h : s.Safe) :
    OutSafe (execLaunchPriority pkg ep conn queued bytes s) := by
  refine receive_safe h fun _ => ?_
  split
  · exact fun _ h1 => ite_safe h1 h1
  · trivial

theorem execSnapshot_safe {pkg ep conn queued bytes} (h : s.Safe) : OutSafe (execSnapshot pkg ep conn queued bytes s) := by
  refine receive_safe h fun _ => ?_
  dsimp only
  split
  · exact fun _ h1 => ite_safe h1 (storeBytes_safe _ _ h1)
  · trivial

theorem execQueryHealth_safe {pkg ep conn queued bytes} (h : s.Safe) : OutSafe (execQueryHealth pkg ep conn queued bytes s) := by
  refine receive_safe h fun _ => ?_
  dsimp only
  split
  · exact fun _ h1 => setHealth_safe h1
  · trivial

theorem execQueryDigest_safe {pkg ep conn queued bytes} (h : s.Safe) : OutSafe (execQueryDigest pkg ep conn queued bytes s) := by
  refine receive_safe h fun _ => ?_
  dsimp only
  split
  · exact fun _ h1 => ite_safe h1 h1
  · trivial

theorem execQueryContextStates_safe {pkg ep conn queued bytes} (h : s.Safe) :
    OutSafe (execQueryContextStates pkg ep conn queued bytes s) := by
  refine receive_safe h fun _ => ?_
  split
  · exact fun _ h1 => h1
  · trivial

theorem execQueryAttestation_safe {pkg ep conn queued bytes} (h : s.Safe) :
    OutSafe (execQueryAttestation pkg ep conn queued bytes s) := by
  refine receive_safe h fun _ => ?_
  dsimp only
  split
  · exact fun _ h1 => h1
  · trivial

theorem sealCommand_safe {pkg conn bytes addr len undo} (h : s.Safe) : (s.sealCommand pkg conn bytes addr len undo).Safe := by
  unfold State.sealCommand
  dsimp only
  split
  · exact h
  split
  · exact h
  split
  · exact h
  · exact ite_safe h h

theorem execSealCommand_safe {pkg ep conn queued bytes} (h : s.Safe) : OutSafe (execSealCommand pkg ep conn queued bytes s) := by
  refine receive_safe h fun _ => ?_
  split
  · exact fun _ h1 => sealCommand_safe h1
  · trivial

theorem execUnsealCommand_safe {pkg ep conn queued bytes} (h : s.Safe) :
    OutSafe (execUnsealCommand pkg ep conn queued bytes s) := by
  refine receive_safe h fun _ => ?_
  split
  · exact fun _ h1 => sealCommand_safe h1
  · trivial

theorem execResetContext_safe {pkg ep conn queued bytes} (h : s.Safe) : OutSafe (execResetContext pkg ep conn queued bytes s) := by
  refine receive_safe h fun _ => ?_
  split
  · exact fun _ h1 => ite_safe h1 (ite_safe h1 (freeContext_safe h1))
  · trivial

theorem execResetPackage_safe {pkg ep conn queued bytes} (h : s.Safe) : OutSafe (execResetPackage pkg ep conn queued bytes s) := by
  refine receive_safe h fun _ => ?_
  split
  · exact fun _ h1 => answerTo_safe (modPkg_safe (resetPackage_safe h1))
  · trivial

theorem manage_safe {pkg ep inRecovery} {f : State → State} (h : s.Safe) (hf : ∀ s0, s0.Safe → (f s0).Safe) :
    OutSafe (manage pkg ep s inRecovery f) := ite_outSafe h (ite_outSafe h (ite_outSafe h (hf _ h)))

theorem stopAsked_safe {pkg lcn slot} (h : s.Safe) : (s.stopAsked pkg lcn slot).Safe := by
  unfold State.stopAsked
  dsimp only
  split
  · exact h
  · exact ite_safe h (ite_safe h (stopThread_safe (abandon_safe h)))

theorem execResume_safe {pkg ep lcn slot} (h : s.Safe) : OutSafe (execResume pkg ep lcn slot s) := by
  refine manage_safe h fun _ h1 => ?_
  split
  · exact ite_safe h1 h1
  · exact h1

theorem execPkread_safe {pkg ep lcn slot} (h : s.Safe) : OutSafe (execPkread pkg ep lcn slot s) := by
  refine manage_safe h fun _ h1 => ?_
  split
  · exact ite_safe h1 h1
  · exact h1

theorem execPkwrite_safe {pkg ep lcn slot bytes} (h : s.Safe) : OutSafe (execPkwrite pkg ep lcn slot bytes s) := by
  refine manage_safe h fun _ h1 => ?_
  dsimp only
  split
  · exact ite_safe h1 h1
  · exact h1

/-! Machine/Debug. -/

theorem debugWrite_safe {word p q srcs n} {legal : List Word → Bool} (h : s.Safe) :
    OutSafe (debugWrite word p q srcs n legal s) :=
  act_outSafe h fun _ _ _ _ _ h1 h2 => ite_safe (trap_safe h1) (drained_safe _ _ h1 h2)

theorem toldCores_safe {tid cx} (h : s.Safe) : (s.toldCores tid cx).Safe := by
  unfold State.toldCores
  dsimp only
  exact foldl_safe (fun _ _ h1 => ite_safe h1 h1) h

theorem debugServed_safe {tid t r} (h : s.Safe) : (s.debugServed tid t r).Safe := toldCores_safe h

theorem execSnap_safe {p q d a} (h : s.Safe) : OutSafe (execSnap p q d a s) := by
  refine act_outSafe h fun _ _ _ _ _ h1 h2 => ?_
  dsimp only
  split
  · exact trapAt_safe h1
  · exact ite_safe (trap_safe h1) (ite_safe h1 (finish_safe _ _ _ _ _ h1 (storeBytes_safe _ _ h2)))

theorem execHardwareBreakpoint_safe {n} (h : s.Safe) : OutSafe (execHardwareBreakpoint n s) := by
  unfold execHardwareBreakpoint
  dsimp only
  split
  · exact h
  split
  · exact ite_outSafe (trap_safe h) (ite_outSafe h (traceHard_safe h))
  · exact h

/-! Machine/Reply. -/

theorem loadServed_safe {tid t r} (h : s.Safe) :
    (s.loadServed tid t r).Safe :=
  ite_safe (trap_safe (heardAt_safe h)) (finish_safe _ _ _ _ _ (heardAt_safe h) (readGood_safe (heardAt_safe h)))

theorem storeServed_safe {tid t r} (h : s.Safe) :
    (s.storeServed tid t r).Safe := ite_safe (trap_safe (heardAt_safe h)) (store_safe _ _ _ (heardAt_safe h))

theorem segServed_safe {tid t r} (h : s.Safe) : (s.segServed tid t r).Safe := by
  unfold State.segServed
  dsimp only
  split
  · exact withSegs_safe h fun _ h1 => toldCores_safe h1
  refine withPages_safe h fun _ h1 => ?_
  split
  · exact trap_safe h1
  split
  next e1 =>
    have h2 := snd_safe e1 (portBytes_safe h1)
    exact trap_safe h2
  next e1 =>
    have h2 := snd_safe e1 (portBytes_safe h1)
    exact withSegs_safe h2 fun _ h3 => toldCores_safe h3

theorem sharedServed_safe {tid t r} (h : s.Safe) : (s.sharedServed tid t r).Safe := toldCores_safe h

theorem served_safe {tid t r} (h : s.Safe) : (s.served tid t r).Safe := by
  unfold State.served
  dsimp only
  split
  · exact h
  · exact loadServed_safe h
  · exact storeServed_safe h
  · exact h
  · exact spawnPacket_safe h
  · exact spawnAcked_safe h
  · exact h
  · split
    · exact complete_safe (heardAt_safe h) (heardAt_safe h)
    · exact complete_safe h h
  · exact sendAnswered_safe h
  · exact segServed_safe h
  · exact sharedServed_safe h
  · exact svcServed_safe h
  · exact svcServed_safe h
  · exact svcServed_safe h
  · exact svcServed_safe h
  · exact svcServed_safe h
  · exact svcServed_safe h
  · exact ite_safe h (complete_safe h h)
  · exact complete_safe h h
  · exact sldServed_safe h
  · exact sldServed_safe h
  · exact sldServed_safe h
  · exact sldServed_safe h
  · exact gsetServed_safe h
  · exact debugServed_safe h

theorem execMemoryReply_safe {tid} (h : s.Safe) : OutSafe (execMemoryReply tid s) := by
  unfold execMemoryReply
  dsimp only
  split
  · split
    · exact ite_outSafe (served_safe h) (ite_outSafe h (served_safe h))
    · exact h
  · exact h

/-! Machine/Vector. -/

theorem vTake_safe {tid x width n} (h : s.Safe) : OptSafe Prod.snd (s.vTake tid x width n) := by
  induction n generalizing s with
  | zero => exact h
  | succ n ih =>
    unfold State.vTake
    dsimp only
    split
    · split
      · trivial
      · exact (ih (portRead_safe h)).map fun _ h1 => h1
    · split
      · trivial
      · exact (ih (portRead_safe h)).map fun _ h1 => h1

theorem vRead_safe {tid s0 w ns} (h : s.Safe) : OptSafe Prod.snd (s.vRead tid s0 w ns) := by
  unfold State.vRead
  split
  · split
    · trivial
    · exact h
  · exact vTake_safe h

theorem vWrite_safe {tid s0 w n v} (h : s.Safe) : (s.vWrite tid s0 w n v).Safe := by
  unfold State.vWrite
  split
  · exact store_safe _ _ _ h
  · exact portWrite_safe _ _ _ h

theorem vRound_safe {tid cx e f sat x} (h : s.Safe) : (s.vRound tid cx e f sat x).2.Safe := roundTo_safe h

theorem vElem_safe {tid cx e d a b pa pb pd} (h : s.Safe) : (s.vElem tid cx e d a b pa pb pd).2.Safe := by
  unfold State.vElem
  dsimp only
  split
  · exact ite_snd_safe h (vRound_safe h)
  · exact vRound_safe h
  · exact h
  · exact vRound_safe h
  · exact vRound_safe h
  · exact h
  · exact h

theorem vElems_safe {tid cx e d a b l} (h : s.Safe) : (s.vElems tid cx e d a b l).2.Safe := by
  induction l generalizing s with
  | nil => exact h
  | cons x r ih => exact ih (vElem_safe h)

theorem vWrites_safe {tid s0 w l} (h : s.Safe) : (s.vWrites tid s0 w l).Safe := by
  unfold State.vWrites
  exact foldl_safe (fun _ _ h1 => vWrite_safe h1) h

theorem vReads_safe {tid s0 l} (h : s.Safe) : OptSafe Prod.snd (s.vReads tid s0 l) := by
  induction l generalizing s with
  | nil => exact h
  | cons x r ih =>
    unfold State.vReads
    split
    · trivial
    next e => exact (ih ((vRead_safe h).of_some e)).map fun _ h1 => h1

theorem rowsRead_safe {tid s0 w l r} (h : s.Safe) : OptSafe Prod.snd (s.rowsRead tid s0 w l r) := by
  induction r generalizing s with
  | nil => exact h
  | cons q r ih =>
    unfold State.rowsRead
    split
    · trivial
    next e => exact (ih ((vReads_safe h).of_some e)).map fun _ h1 => h1

theorem rowOut_safe {tid cx e l row more} (h : s.Safe) : (s.rowOut tid cx e l row more).2.Safe := by
  unfold State.rowOut
  dsimp only
  split
  · exact ite_snd_safe h (vRound_safe h)
  · exact h
  · exact h
  · exact h
  · exact h
  · exact h

theorem rowsOut_safe {tid cx e l r} (h : s.Safe) : (s.rowsOut tid cx e l r).2.Safe := by
  induction r generalizing s with
  | nil => exact h
  | cons x r ih => exact ih (rowOut_safe h)

theorem rowsWrite_safe {tid s0 w l r} (h : s.Safe) : (s.rowsWrite tid s0 w l r).Safe := by
  induction r generalizing s with
  | nil => exact h
  | cons x r ih => exact ih (foldl_safe (fun _ _ h1 => vWrites_safe h1) h)

theorem vGroup_safe {tid cx s0 e l hi} (h : s.Safe) : VGroupSafe (s.vGroup tid cx s0 e l hi) := by
  unfold State.vGroup
  extract_lets w idx ns needs total src fill
  split
  · trivial
  split
  · trivial
  split
  · generalize src = src
    split
    · trivial
    split
    · trivial
    next e1 =>
      have h1 := (vRead_safe h).of_some e1
      extract_lets second
      have h2 : OptSafe Prod.snd second := ite_optSafe (vRead_safe h1) h1
      generalize second = second at h2 ⊢
      split
      · trivial
      extract_lets
      split
      · trivial
      next e3 => exact rowsWrite_safe (rowsOut_safe ((rowsRead_safe h2).of_some e3))
  · split
    · trivial
    extract_lets a b at_ first ha hb pick
    split
    · split
      · trivial
      next e1 =>
        have h1 := (vRead_safe h).of_some e1
        extract_lets hit
        split
        · trivial
        · exact vWrites_safe h1
    · have h1 : OptSafe Prod.snd first := ite_optSafe (ite_optSafe h (vRead_safe h)) (vRead_safe h)
      generalize first = first at h1 ⊢
      split
      · trivial
      extract_lets second
      have h2 : OptSafe Prod.snd second := ite_optSafe (vRead_safe h1) h1
      generalize second = second at h2 ⊢
      split
      · trivial
      split
      · extract_lets ws
        split
        · trivial
        · exact vWrites_safe h2
      · extract_lets third
        have h3 : OptSafe Prod.snd third := ite_optSafe (vRead_safe h2) h2
        generalize third = third at h3 ⊢
        split
        · trivial
        · exact vWrites_safe (vElems_safe h3)

theorem vTurn_safe {tid} (h : s.Safe) : OptSafe id (s.vTurn tid) := by
  unfold State.vTurn
  dsimp only
  split
  · trivial
  split
  · trivial
  split
  · trivial
  split
  · trivial
  split
  · exact h
  split
  · trivial
  · exact h
  next e1 =>
    have h1 := (vGroup_safe h).of_done e1
    exact h1

theorem vFirst_safe {l} (h : s.Safe) : OptSafe Prod.snd (s.vFirst l) := by
  induction l with
  | nil => trivial
  | cons tid r ih =>
    unfold State.vFirst
    split
    next e => exact OptSafe.of_some (state := id) e (vTurn_safe h)
    · exact ih

theorem execVectorGroup_safe {core} (h : s.Safe) : OutSafe (execVectorGroup core s) := by
  unfold execVectorGroup
  dsimp only
  split
  · split
    next e1 => exact (vFirst_safe h).of_some e1
    · exact h
  · split
    next e1 =>
      have h1 := (vFirst_safe h).of_some e1
      exact h1
    · split
      next e2 => exact (vFirst_safe h).of_some e2
      · exact h

theorem execVectorFaultDelivery_safe {tid} (h : s.Safe) : OutSafe (execVectorFaultDelivery tid s) := by
  unfold execVectorFaultDelivery
  dsimp only
  split
  · split
    · split
      · exact ite_outSafe h (trapAt_safe h)
      · exact trapAt_safe h
    · exact h
  · exact h

theorem vPush_safe {w p q bad} (h : s.Safe) : OutSafe (vPush w p q s bad) := by
  refine frame_outSafe h fun _ _ _ h1 => ?_
  exact ite_safe (trap_safe h1) (ite_safe (trap_safe h1) (ite_safe h1 h1))

theorem execVwait_safe {p q} (h : s.Safe) : OutSafe (execVwait p q s) := by
  refine frame_outSafe h fun _ _ _ h1 => ?_
  exact ite_safe (trap_safe h1) (ite_safe (trap_safe h1) (ite_safe h1 h1))

/-! Every instruction and every event (Machine/Dispatch). -/

theorem exec_safe {i} (h : s.Safe) : OutSafe (exec i s) := by
  unfold exec
  cases i with
  | add | sub | and | or | xor | andn | orn | sll | srl | sra | rol | ror | mul | mulh | mulhu | div | divu | rem | remu
  | min | max | minu | maxu | clz | ctz | popc | brev | sextb | sexth | sextw | zextb | zexth | zextw | bfx | bfi | addi
  | addiI38 | andi | andiI38 | ori | oriI38 | xori | xoriI38 | slli | srli | srai | li | liI38 | lih | lihI38 | pget | fmin
  | fmax | fabs | fneg => exact compute_outSafe h
  | eq | ne | lt | ge | ltu | geu | feq | fne | flt | fle | funord | cmpeqi | cmpeqiI38 | cmplti | cmpltiI38 | cmpltui
  | cmpltuiI38 => exact compareWith_safe h
  | pand | por | pxor | pandn | pput | wrsrRotmode | wrsrAcct | yield => exact effect_outSafe h fun _ _ _ _ h1 => h1
  | br => exact frame_outSafe h fun _ _ _ h1 => jump_safe h1
  | jal => exact frame_outSafe h fun _ _ _ h1 => ite_safe h1 (jump_safe h1)
  | jr | jalr => exact jumpReg_safe h
  | fadd | fsub | fmul | fdiv | fsqrt | fmadd => exact fpRound_safe h
  | cvt => exact execCvt_safe h
  | rdsr => exact execRdsr_safe h
  | wrsr => exact act_outSafe h fun _ _ _ _ _ h1 h2 => writeSys_safe h1 h2
  | wrsrVectorState => exact execWrsrVectorState_safe h
  | wrsrSegbase => exact execWrsrSegbase_safe h
  | rotmodeSwitch | timeMessage | foreignPacketDrop => exact ite_outSafe h h
  | wrsrDonord | wrsrLogcons => exact act_outSafe h fun _ _ _ _ _ h1 h2 => ite_safe h2 (trap_safe h1)
  | wrsrSlottab => exact execWrsrSlottab_safe h
  | acctSnapshot => exact ite_outSafe (writeSnapshot_safe h) h
  | wrsrLogRing | wrsrReplay => exact act_outSafe h fun _ _ _ _ _ h1 h2 => ite_safe (trap_safe h1) h2
  | ldb | ldbu | ldh | ldhu | ldw | ldwu | ldd | ldbI38 | ldbuI38 | ldhI38 | ldhuI38 | ldwI38 | ldwuI38 | lddI38 =>
    exact loadPlain_safe h
  | stb | sth | stw | std | stbI38 | sthI38 | stwI38 | stdI38 => exact storePlain_safe h
  | ldbRlx | ldbuRlx | ldhRlx | ldhuRlx | ldwRlx | ldwuRlx | lddRlx => exact loadRelaxed_safe h
  | stbRlx | sthRlx | stwRlx | stdRlx => exact storeRelaxed_safe h
  | relaxedAccessCompletion => exact execRelaxedAccessCompletion_safe h
  | deferredRelaxedFault => exact execDeferredRelaxedFault_safe h
  | ldf | ldfe => exact syncLoad_safe h
  | ste | stf => exact syncStore_safe h
  | fclr | fset => exact syncMark_safe h
  | fstat => exact syncAt_safe h fun _ _ _ _ _ _ h1 h2 => finish_safe _ _ _ _ _ h1 h2
  | syncWaitSatisfied => exact execSyncWaitSatisfied_safe h
  | aadd | aand | aor | axor | amin | amax | aminu | amaxu | aswp | acas | afadd => exact atomic_safe h
  | bankReservationGrant => exact execBankReservationGrant_safe h
  | proxyHostAtomic => exact execProxyHostAtomic_safe h
  | sealPages | unsealPages => exact sealRange_safe h
  | sealq => exact execSealq_safe h
  | sealComplete | unsealComplete => exact sealPage_safe h
  | fetchHoldRelease => exact execFetchHoldRelease_safe h
  | spawn => exact execSpawn_safe h
  | join => exact execJoin_safe h
  | jinit => exact syncAt_safe h fun _ _ _ _ _ _ _ h2 => store_safe _ _ _ h2
  | exit => exact execExit_safe h
  | yieldHoldEnd => exact execYieldHoldEnd_safe h
  | migrate => exact execMigrate_safe h
  | send => exact execSend_safe h
  | waitm => exact execWaitm_safe h
  | waitc => exact execWaitc_safe h
  | cset | halt => exact act_outSafe h fun _ _ _ _ _ h1 h2 => ite_safe (trap_safe h1) (drained_safe _ _ h1 h2)
  | bar => exact execBar_safe h
  | fence => exact frame_outSafe h fun _ _ _ h1 => drained_safe _ _ h1 h1
  | clusterBarrierArrival => exact execClusterBarrierArrival_safe h
  | clusterBarrierRelease => exact execClusterBarrierRelease_safe h
  | counterMessage => exact execCounterMessage_safe h
  | wakeMessageArrival => exact execWakeMessageArrival_safe h
  | handlerMessageArrival => exact execHandlerMessageArrival_safe h
  | migrationArrival => exact execMigrationArrival_safe h
  | migrationRefused => exact execMigrationRefused_safe h
  | slotBind => exact execSlotBind_safe h
  | stealRequest => exact execStealRequest_safe h
  | stealReply => exact execStealReply_safe h
  | stealSearchRetry => exact execStealSearchRetry_safe h
  | trap => exact act_outSafe h fun _ _ _ _ _ h1 _ => trap_safe h1
  | eret | nop => exact frame_outSafe h fun _ _ _ h1 => h1
  | brk => exact frame_outSafe h fun _ _ _ h1 => trap_safe h1
  | haltCompletion => exact execHaltCompletion_safe h
  | tsr => exact act_outSafe h fun _ _ _ _ _ h1 h2 => finish_safe _ _ _ _ _ h1 h2
  | rng => exact act_outSafe h fun _ _ _ _ _ h1 h2 => finish_safe _ _ _ _ _ h1 (draws_safe h2)
  | logm => exact act_outSafe h fun _ _ _ _ _ h1 h2 => loggedThen_safe h1 h2 fun _ _ h3 => h3
  | illegalInstruction | extensionAbsent => exact trapCurrent_safe h
  | extensionMigration => exact execExtensionMigration_safe h
  | memoryReply => exact execMemoryReply_safe h
  | pageWalk => exact execPageWalk_safe h
  | pageWake => exact execPageWake_safe h
  | vadd | vsub | vmul | vfma | vmin | vmax | vabs | vneg | vscale | vclip | vexp | vlog | vrcp | vrsqrt | vtanh | vsigm
  | vsilu | verf | viadd | visub | vimul | vimac | vand | vor | vxor | vshl | vshr | vrsh | vclampi | vcopy | vfill | vcvt
  | vgath | vscat | vsel | vsum | vmaxr | vminr | vdot | vcmp | vhist | vselk | vmrg | vcnt | vloop | vend => exact vPush_safe h
  | vwait => exact execVwait_safe h
  | vectorGroup => exact execVectorGroup_safe h
  | vectorFaultDelivery => exact execVectorFaultDelivery_safe h
  | mma | mms | mmx | mmg => exact matInstr_safe h
  | matrixAdmission => exact execMatrixAdmission_safe h
  | matrixKStep => exact execMatrixKStep_safe h
  | accz => exact tileInstr_safe h fun _ _ _ _ _ _ h2 => matIssue_safe h2
  | accrd | accwr => exact transferInstr_safe h
  | accTransferDone => exact execAccTransferDone_safe h
  | ringset => exact execRingset_safe h
  | ringst => exact execRingst_safe h
  | mpget => exact act_outSafe h fun _ _ _ _ _ h1 h2 => ite_safe (trap_safe h1) (drained_safe _ _ h1 (finish_safe _ _ _ _ _ h1 h2))
  | cpy | cpyd | cpyf => exact copyInstr_safe h
  | cpyq => exact act_outSafe h fun _ _ _ _ _ _ h2 => h2
  | copyCommandAccept => exact execCopyCommandAccept_safe h
  | copyCommandCompletion => exact ite_outSafe (engineWork_safe h) (engineWork_safe h)
  | combiningWindowClose => exact execCombiningWindowClose_safe h
  | streamDelivery => exact execStreamDelivery_safe h
  | streamDeliveryTimeout => exact execStreamDeliveryTimeout_safe h
  | overflowDeliveryReentry => exact execOverflowDeliveryReentry_safe h
  | blockExpansion => exact execBlockExpansion_safe h
  | transformThreadBind => exact execTransformThreadBind_safe h
  | commThreadBind => exact ite_outSafe h (getD_safe (bindService_safe h) h)
  | thin => exact execThin_safe h
  | mref => exact sldAccess_safe h fun _ _ _ _ _ _ h1 h2 => drained_safe _ _ h1 (logTest_safe h1 h2)
  | mrel => exact sldAccess_safe h fun _ _ _ _ _ _ h1 h2 => drained_safe _ _ h1 h2
  | mver => exact sldAccess_safe h fun _ _ _ _ _ _ h1 h2 => ite_safe h1 h2
  | intervalBuildStart => exact execIntervalBuildStart_safe h
  | intervalPublish => exact execIntervalPublish_safe h
  | intervalFailure => exact execIntervalFailure_safe h
  | gred | gldr | gmc => exact fabInstr_safe h
  | gsetSet | gsetClear => exact gsetInstr_safe h
  | gq => exact act_outSafe h fun _ _ _ _ _ h1 h2 => drained_safe _ _ h1 (finish_safe _ _ _ _ _ h1 h2)
  | groupRegistration => exact execGroupRegistration_safe h
  | gsetTimeout => exact execGsetTimeout_safe h
  | reductionChunkArrival => exact execReductionChunkArrival_safe h
  | slotTimerExpiry => exact execSlotTimerExpiry_safe h
  | slotNoticeArrival => exact execSlotNoticeArrival_safe h
  | destinationWrite => exact execDestinationWrite_safe h
  | statusReturn => exact execStatusReturn_safe h
  | memberCutoffTimeout => exact execMemberCutoffTimeout_safe h
  | commX1Element => exact execCommX1Element_safe h
  | commX3Query => exact execCommX3Query_safe h
  | sbind => exact execSbind_safe h
  | sfree => exact execSfree_safe h
  | xstat => exact act_outSafe h fun _ _ _ _ _ h1 h2 => ite_safe h1 (finish_safe _ _ _ _ _ h1 h2)
  | bget | bpeek => exact bitsInstr_safe h fun _ _ _ _ _ _ h1 h2 => finish_safe _ _ _ _ _ h1 h2
  | bskip => exact bitsInstr_safe h fun _ _ _ _ _ _ _ h2 => h2
  | bput => exact bitsInstr_safe h fun _ _ _ _ _ _ _ h2 => putBits_safe h2
  | bflush => exact bitsInstr_safe h fun _ _ _ _ _ _ h1 h2 => finish_safe _ _ _ _ _ h1 (putBits_safe h2)
  | bhdr => exact execBhdr_safe h
  | bexp => exact execBexp_safe h
  | bsync => exact bitsInstr_safe h fun _ _ _ _ _ _ h1 h2 => finish_safe _ _ _ _ _ h1 (syncBlock_safe h2)
  | hwalk => exact execHwalk_safe h
  | hins => exact execHins_safe h
  | hdel | tlbi | hotr | pgmv => exact svc_safe h
  | pageMoveSwitch => exact execPageMoveSwitch_safe h
  | bpset | bpclr | tstart | tstop => exact debugWrite_safe h
  | snap => exact execSnap_safe h
  | hardwareBreakpoint => exact execHardwareBreakpoint_safe h
  | spill => exact execSpill_safe h
  | spillResume => exact execSpillResume_safe h
  | logAppend => exact execLogAppend_safe h
  | replayRecordDispatch => exact execReplayRecordDispatch_safe h
  | replayWaitTimeout => exact execReplayWaitTimeout_safe h
  | masterTimeFailover => exact execMasterTimeFailover_safe h
  | loadData => exact execLoadData_safe h
  | loadPageTable => exact execLoadPageTable_safe h
  | launchCreate => exact execLaunchCreate_safe h
  | launchPriority => exact execLaunchPriority_safe h
  | snapshot => exact execSnapshot_safe h
  | queryHealth => exact execQueryHealth_safe h
  | queryDigest => exact execQueryDigest_safe h
  | queryContextStates => exact execQueryContextStates_safe h
  | queryAttestation => exact execQueryAttestation_safe h
  | sealCommand => exact execSealCommand_safe h
  | unsealCommand => exact execUnsealCommand_safe h
  | resetContext => exact execResetContext_safe h
  | resetPackage => exact execResetPackage_safe h
  | hostset | window | fwload | powercap => exact manage_safe h fun _ h1 => ite_safe h1 h1
  | stop => exact ite_outSafe (ite_safe (stopAsked_safe h) h) (manage_safe h fun _ h1 => stopAsked_safe h1)
  | resume => exact execResume_safe h
  | pkread => exact execPkread_safe h
  | pkwrite => exact execPkwrite_safe h
  | powerOn => exact execPowerOn_safe h
  | throttle => exact ite_outSafe h (setHealth_safe h)
  | throttleRelease => exact ite_outSafe h (ite_safe (setHealth_safe h) h)
  | thermalShutdown => exact execThermalShutdown_safe h
  | correctedError => exact execCorrectedError_safe h
  | uncorrectableThreadState => exact ite_outSafe (stopNow_safe h) h
  | uncorrectableCoreState => exact stopAll_safe h
  | coreDisable => exact ite_outSafe h (reportCore_safe (lost_safe (stopAll_safe h)))
  | tlbEntryError => exact execTlbEntryError_safe h
  | replicaLineError | meshLinkFault | flitCrcError | timeAccountCycle => exact h
  | shardBucketError => exact tellHealth_safe (foldl_safe (fun _ _ h1 => h1) h)
  | engineFault => exact ite_outSafe h (lost_safe (ite_safe h h))
  | barrierStateError => exact execBarrierStateError_safe h
  | mapEntryError | sequenceStateError => exact reportCtx_safe (stopAll_safe h)
  | thinningUnitError => exact ite_outSafe h (lost_safe (thinUnitFails_safe h))
  | logAppendFailure => exact execLogAppendFailure_safe h
  | logUnitDisabled => exact ite_outSafe h (lost_safe (foldl_safe (fun _ _ h1 => ite_safe h1 (stopLog_safe h1)) h))
  | channelRetirement => exact execChannelRetirement_safe h
  | spareCopyComplete => exact execSpareCopyComplete_safe h
  | dieSublinkFailure => exact ite_outSafe h (ite_outSafe (linkLost_safe h) (lost_safe h))
  | dieLinkLost => exact ite_outSafe h (linkLost_safe h)
  | laneFailure => exact ite_outSafe h (ite_safe (portLost_safe (lost_safe h)) (lost_safe h))
  | portDown => exact execPortDown_safe h
  | slotUncorrectable => exact execSlotUncorrectable_safe h
  | treeEntryError => exact execTreeEntryError_safe h
  | timeStampCounterTick => exact execTimeStampCounterTick_safe h

/-! Machine/Turn. -/

theorem fetch_safe {c t pc} (h : s.Safe) : FetchSafe (s.fetch c t pc) := by
  unfold State.fetch
  split
  · split
    · trivial
    · split
      · extract_lets
        split <;> trivial
      · trivial
  · extract_lets la line use rd
    split
    · trivial
    split
    · trivial
    have hrd {l s1} (h1 : s1.Safe) : FetchSafe (rd l s1) := h1
    have huse {s1} (h1 : s1.Safe) : (use s1).Safe := modCore_safe h1
    split
    · exact hrd (huse h)
    split
    next e1 =>
      have h1 := snd_safe e1 (translate_safe h)
      split
      · trivial
      · exact h1
    next e1 =>
      have h1 := snd_safe e1 (translate_safe h)
      extract_lets l s2 g
      split
      · trivial
      have h2 : g.2.Safe := readLine_safe (ite_safe h1 (heardAt_safe h1))
      split
      · trivial
      · exact hrd (ite_safe (huse h2) h2)

theorem go_safe {tid t ws} (h : s.Safe) : ChoiceSafe (State.issueAt.go tid t ws s) := by
  unfold State.issueAt.go
  split
  · split <;> exact h
  · exact h

theorem issueAt_safe {tid t} (h : s.Safe) : ChoiceSafe (s.issueAt tid t) := by
  unfold State.issueAt
  dsimp only
  split
  · exact trapAt_safe h
  · exact h
  next e1 =>
    have h1 := (fetch_safe h).of_page e1
    exact h1
  next e1 =>
    have h1 := (fetch_safe h).of_word e1
    split
    · split
      · split
        · exact h1
        · exact go_safe h1
      · exact go_safe h1
    · split
      · exact trapAt_safe h1
      · exact h1
      next e2 =>
        have h2 := (fetch_safe h1).of_page e2
        exact h2
      next e2 =>
        have h2 := (fetch_safe h1).of_word e2
        split
        · split
          · exact h2
          · exact go_safe h2
        · exact go_safe h2

theorem turnOf_safe {tid t} (h : s.Safe) : ChoiceSafe (s.turnOf tid t) := by
  unfold State.turnOf
  dsimp only
  split
  · exact h
  split
  · exact issueAt_safe h
  split
  · exact h
  split
  · exact h
  · exact issueAt_safe h

theorem donated_safe {c d} (h : s.Safe) : ChoiceSafe (State.coreTurn.donated c s d) := by
  unfold State.coreTurn.donated
  dsimp only
  split
  · exact turnOf_safe h
  · exact h

theorem donate_safe {c} (h : s.Safe) : ChoiceSafe (State.coreTurn.donate c s) := by
  unfold State.coreTurn.donate
  split
  · split
    · exact donated_safe h
    · exact h
  · exact h

theorem coreTurn_safe {c} (h : s.Safe) : TurnSafe (s.coreTurn c) := by
  unfold State.coreTurn
  dsimp only
  split
  · split
    · exact h
    · exact donate_safe h
    · split
      · exact turnOf_safe h
      · exact donate_safe h
  · exact donate_safe h

theorem ownEnds_safe {c} {before : State} (h : s.Safe) :
    (s.ownEnds c before).Safe := ite_safe h (ite_safe h h)

theorem delivered_safe {tid} {before : State} (h : s.Safe) : (s.delivered before tid).Safe := by
  unfold State.delivered
  split
  · exact modThread_safe h
  · exact h

/-! Machine/Due. -/

theorem dmaTurns_safe (h : s.Safe) : s.dmaTurns.2.Safe := by
  unfold State.dmaTurns
  dsimp only
  exact foldl_snd_safe (fun _ _ h1 => h1) h

theorem endCycle_safe (h : s.Safe) : s.endCycle.Safe := by
  have h1 : (if (s.clock + 1) % 16 = 0 then s.newOrders else s).Safe := ite_safe (newOrders_safe h) h
  unfold State.endCycle
  generalize (if (s.clock + 1) % 16 = 0 then s.newOrders else s) = x at h1 ⊢
  exact safe_of_mem rfl (dmaTurns_safe h1)

/-! Machine/Step. -/

theorem onNext_safe {o : Out} {f : State → State} (ho : OutSafe o) (hf : ∀ s, s.Safe → (f s).Safe) : OutSafe (onNext o f) := by
  cases o with
  | next s => exact hf s ho
  | fault _ => trivial
  | refused _ => trivial

theorem runChoice_safe {f : State → State} {x} (hf : ∀ s, s.Safe → (f s).Safe) (hx : ChoiceSafe x) : OutSafe (runChoice s f x) := by
  cases x with
  | run i s' => exact onNext_safe (exec_safe hx) fun _ h1 => hf _ (delivered_safe h1)
  | idle s' => exact hf s' hx

theorem runTurn_safe {c x} (hx : TurnSafe x) : OutSafe (runTurn c s x) := by
  cases x with
  | own x => exact runChoice_safe (fun _ h1 => ownEnds_safe h1) hx
  | donated x => exact runChoice_safe (f := fun t => t.turnEnds c) (fun _ h1 => h1) hx
  | held i s' => exact exec_safe hx

theorem step_safe (h : s.Safe) : OutSafe (step s) := by
  unfold step
  split
  · exact exec_safe (s := { s with agenda := _ }) h
  split
  · exact runTurn_safe (coreTurn_safe h)
  · exact endCycle_safe h

end

/-- Settles O5: a step or an instruction's effect answers safe states only. -/
theorem stepKeepsMemory : Obligations.StepKeepsMemory :=
  ⟨fun _ _ h e => (step_safe h).of_next e, fun _ _ _ h e => (exec_safe h).of_next e⟩

end Sys2Proof.Machine
end

section
namespace Sys2Proof.Machine

/-! Writes of system registers that the thread holds itself (R38, R80, R81, R117, R202). -/

theorem act_privRuns {word : Word32} {len : Nat} {p : BitVec 3} {q : BitVec 1} {srcs dsts : List (BitVec 4)} {s s1 : State}
    {t : Thread} {v : List Word} {f : Nat → Thread → State → List Word → State → State} (h : s.Issues p q len t)
    (hs : t.sup = true) (r : s.Reads t srcs dsts v s1) :
    act word len p q srcs dsts s f (priv := true) = .next (f s.cur t s v s1) := by
  rw [act, frame_priv h hs, operands_ready r]

/-- A mask of the bits k to n − 1. -/
theorem and_mask (x : Word) {k n : Nat} (hk : k ≤ n) :
    x &&& BitVec.ofNat 64 ((2 ^ (n - k) - 1) * 2 ^ k) = BitVec.ofNat 64 (x.toNat % 2 ^ n / 2 ^ k * 2 ^ k) := by
  apply BitVec.eq_of_getLsbD_eq
  intro i hi
  simp only [BitVec.getLsbD_and, BitVec.getLsbD_ofNat, Nat.testBit_mul_two_pow, Nat.testBit_two_pow_sub_one,
    Nat.testBit_div_two_pow, Nat.testBit_mod_two_pow, hi, decide_true, Bool.true_and]
  by_cases hki : k ≤ i
  · rw [Nat.sub_add_cancel hki, show decide (i - k < n - k) = decide (i < n) from decide_eq_decide.2 (by omega)]
    simp [hki, Bool.and_comm, BitVec.getLsbD]
  · simp [hki]

/-- R80: epc without its bits [1:0]. -/
theorem wordAligned_eq (x : Word) : wordAligned x = BitVec.ofNat 64 (x.toNat / 4 * 4) := by
  have h := and_mask x (k := 2) (n := 64) (by decide)
  rw [Nat.mod_eq_of_lt x.isLt] at h
  exact h

theorem wrsr_writes {p : BitVec 3} {q : BitVec 1} {a : BitVec 4} {s s1 : State} {t : Thread} {v : List Word} (n : BitVec 14)
    (h : s.Issues p q 4 t) (hs : t.sup = true) (r : s.Reads t [a] [] v s1) :
    exec (.wrsr p q a n) s = .next (s.writeSys s1 s.cur t (encI 36 p q 0 a.toNat n.toNat) n.toNat (nth v 0)) := by
  rw [exec_wrsr, execWrsr, act_privRuns h hs r]

/-- R117: a write to fmt, scl or shb, once the sequencer is empty. -/
theorem wrsrVectorState_writes {p : BitVec 3} {q : BitVec 1} {a : BitVec 4} {s s1 : State} {t : Thread} {v : List Word}
    (n : BitVec 14) (h : s.Issues p q 4 t) (r : s.Reads t [a] [] v s1) (he : t.seq.ents = []) :
    exec (.wrsrVectorState p q a n) s = .next
      (match n.toNat with
       | 0x04 => s1.retire s.cur { t with rnd := (nth v 0).setWidth 2 }
       | 0x05 => s1.retire s.cur { t with scl := nth v 0 }
       | 0x06 => s1.retire s.cur { t with shb := nth v 0 &&& 0xFFFE0 }
       | _ => s.trap s.cur t 1 (BitVec.setWidth 64 (encI 36 p q 0 a.toNat n.toNat))) := by
  rw [exec_wrsrVectorState, execWrsrVectorState, act_runs h r, he]
  rfl

theorem wrsrVectorState_held {p : BitVec 3} {q : BitVec 1} {a : BitVec 4} {s s1 : State} {t : Thread} {v : List Word}
    (n : BitVec 14) (h : s.Issues p q 4 t) (r : s.Reads t [a] [] v s1) (he : t.seq.ents ≠ []) :
    exec (.wrsrVectorState p q a n) s = .next (s.wait s.cur t (.held .push)) := by
  rw [exec_wrsrVectorState, execWrsrVectorState, act_runs h r, if_pos (by simpa using he)]

/-- Settles O18: each register's own write once the frame has let the instruction run. -/
theorem threadRegisterWrites : Obligations.ThreadRegisterWrites := by
  intro p q a s t v s1 h r x
  have epc_eq := wordAligned_eq x
  have shb_eq : x &&& 0xFFFE0 = BitVec.ofNat 64 (x.toNat % 2 ^ 20 / 32 * 32) := and_mask x (k := 5) (n := 20) (by decide)
  refine ⟨fun hs => ⟨wrsr_writes _ h hs r, wrsr_writes _ h hs r, ?_, wrsr_writes _ h hs r, wrsr_writes _ h hs r⟩,
    fun he => ⟨wrsrVectorState_writes _ h r he, wrsrVectorState_writes _ h r he, ?_⟩, fun he n => wrsrVectorState_held n h r he⟩
  · rw [← epc_eq]
    exact wrsr_writes _ h hs r
  · rw [← shb_eq]
    exact wrsrVectorState_writes _ h r he

end Sys2Proof.Machine
end

section
namespace Sys2Proof.Machine

/-! The binary32 instructions (R111 to R113). -/

/-! R37, R38: the mode in effect; what is neither stochastic nor toward zero is to nearest. -/

theorem modeOf_stochastic {m rnd : BitVec 2} (h : (if m = 3 then rnd else m) = 2) : modeOf m rnd = .sr := by
  simp only [modeOf, h]; rfl

theorem modeOf_towardZero {m rnd : BitVec 2} (h : (if m = 3 then rnd else m) = 1) : modeOf m rnd = .rtz := by
  simp only [modeOf, h]; rfl

theorem modeOf_nearest {m rnd : BitVec 2} (h1 : (if m = 3 then rnd else m) ≠ 1) (h2 : (if m = 3 then rnd else m) ≠ 2) :
    modeOf m rnd = .rne := by
  simp only [modeOf, if_neg h1, if_neg h2]

theorem roundTo_stochastic (s : State) (tid cx : Nat) (f : Fmt) (sat : Bool) (x : Ex) :
    s.roundTo tid cx f .sr sat x = (f.round .sr (s.draw tid cx).1 sat x, (s.draw tid cx).2) := rfl

theorem roundTo_fixed {mode : RMode} (h : mode ≠ .sr) (s : State) (tid cx : Nat) (f : Fmt) (sat : Bool) (x : Ex) :
    s.roundTo tid cx f mode sat x = (f.round mode 0 sat x, s) := if_neg h

/-- An instruction that ends in one rounding and the write of its image is one that Rounds. -/
theorem rounds_of_finish {i : Instr} {p : BitVec 3} {q : BitVec 1} {d : BitVec 4} {srcs : List (BitVec 4)} {m : BitVec 2} {f : Fmt}
    {x : List Word → Ex} {image : Nat → Word} {word : Word32}
    (e : ∀ s t v s1, s.Issues p q 4 t → s.Reads t srcs [d] v s1 → exec i s = .next
      (let r := s1.roundTo s.cur (cxOf (coreOf s.cur) t) f (modeOf m t.rnd) true (x v)
       s.finish r.2 s.cur t word d (image r.1))) :
    Rounds i p q d srcs m f x image := by
  intro s t v s1 h r cx u mode drawn
  rw [e s t v s1 h r]
  refine ⟨fun hm w => ?_, fun hm w => ?_, fun h1 h2 w => ?_⟩
  · rw [modeOf_stochastic hm, roundTo_stochastic]
    exact congrArg Host.Outcome.next (finish_accepted w)
  · rw [modeOf_towardZero hm, roundTo_fixed (by decide)]
    exact congrArg Host.Outcome.next (finish_accepted w)
  · rw [modeOf_nearest h1 h2, roundTo_fixed (by decide)]
    exact congrArg Host.Outcome.next (finish_accepted w)

theorem fpRound_rounds {i : Instr} {word : Word32} {p : BitVec 3} {q : BitVec 1} {d : BitVec 4} {srcs : List (BitVec 4)}
    {m : BitVec 2} {f : List Word → Ex} (e : ∀ s, exec i s = fpRound word p q d srcs m s f) :
    Rounds i p q d srcs m .fp32 f (BitVec.ofNat 64) :=
  rounds_of_finish (word := word) fun s t v s1 h r => by rw [e, fpRound, act_runs h r]

theorem computes_of_compute {i : Instr} {word : Word32} {len : Nat} {p : BitVec 3} {q : BitVec 1} {d : BitVec 4}
    {srcs : List (BitVec 4)} {f g : Thread → List Word → Word} (e : ∀ s, exec i s = compute word len p q d srcs s g)
    (hg : ∀ t v, g t v = f t v) : Computes i p q len d srcs f := by
  obtain rfl : g = f := funext fun t => funext (hg t)
  intro s t v s1 h r w
  rw [e, compute_runs h r w]

theorem zeroLow_eq (a : Word) : zeroLow a 32 = BitVec.ofNat 64 (a.toNat % 2 ^ 32) := by
  apply BitVec.eq_of_toNat_eq
  simp only [zeroLow, BitVec.toNat_setWidth, BitVec.toNat_ofNat]

/-- R112: fabs clears bit 31 of the pattern. -/
theorem fabs_pattern (a : Word) : a &&& 0x7FFFFFFF = BitVec.ofNat 64 (a.toNat % 2 ^ 31) := by
  apply BitVec.eq_of_toNat_eq
  rw [BitVec.toNat_and, BitVec.toNat_ofNat, Nat.mod_eq_of_lt (show a.toNat % 2 ^ 31 < 2 ^ 64 by omega)]
  exact Nat.and_two_pow_sub_one_eq_mod a.toNat 31

theorem xor_bit31 {n : Nat} (h : n < 2 ^ 32) : n ^^^ 2 ^ 31 = (n + 2 ^ 31) % 2 ^ 32 := by
  have low : (n ^^^ 2 ^ 31) % 2 ^ 31 = n % 2 ^ 31 := by
    rw [Nat.xor_mod_two_pow, Nat.mod_self, Nat.xor_zero]
  have high : (n ^^^ 2 ^ 31) / 2 ^ 31 = n / 2 ^ 31 ^^^ 1 := by
    rw [Nat.xor_div_two_pow, Nat.div_self (by decide)]
  have bit : n / 2 ^ 31 = 0 ∨ n / 2 ^ 31 = 1 := by omega
  have flipped : n / 2 ^ 31 ^^^ 1 = 1 - n / 2 ^ 31 := by rcases bit with e | e <;> rw [e] <;> rfl
  omega

/-- R112: fneg inverts bit 31 of the pattern. -/
theorem fneg_pattern (a : Word) : zeroLow a 32 ^^^ 0x80000000 = BitVec.ofNat 64 ((a.toNat + 2 ^ 31) % 2 ^ 32) := by
  have low : a.toNat % 2 ^ 32 < 2 ^ 32 := Nat.mod_lt _ (by decide)
  apply BitVec.eq_of_toNat_eq
  rw [zeroLow_eq, BitVec.toNat_xor, BitVec.toNat_ofNat, BitVec.toNat_ofNat, Nat.mod_eq_of_lt (show a.toNat % 2 ^ 32 < 2 ^ 64 by omega)]
  refine (xor_bit31 low).trans ?_
  omega

/-- R113: the operand that fmin and fmax answer. -/
theorem fpPick_eq (greater : Bool) (a b : Word) : fpPick greater a b =
    if (asFp32 a).isNan ∧ (asFp32 b).isNan then 0x7FC00000
    else BitVec.ofNat 64 ((if (asFp32 a).isNan ∨ ((asFp32 b).isNan = false ∧
      (if greater then (asFp32 a).lessIeee (asFp32 b) else (asFp32 b).lessIeee (asFp32 a)))
      then b else a).toNat % 2 ^ 32) := by
  simp only [fpPick, zeroLow_eq]
  generalize (if greater = true then (asFp32 a).lessIeee (asFp32 b) else (asFp32 b).lessIeee (asFp32 a)) = other
  cases (asFp32 a).isNan <;> cases (asFp32 b).isNan <;> cases other <;> simp

/-- Settles O11: one rounding, a pattern, or a choice of operand. -/
theorem floatResults : Obligations.FloatResults := by
  intro p q d a b m
  exact ⟨fpRound_rounds fun _ => rfl, fpRound_rounds fun _ => rfl, fpRound_rounds fun _ => rfl, fpRound_rounds fun _ => rfl,
    fpRound_rounds fun _ => rfl, fpRound_rounds fun _ => rfl,
    computes_of_compute (exec_fabs p q d a) fun _ _ => fabs_pattern _,
    computes_of_compute (exec_fneg p q d a) fun _ _ => fneg_pattern _,
    computes_of_compute (exec_fmin p q d a b) fun _ _ => fpPick_eq false _ _,
    computes_of_compute (exec_fmax p q d a b) fun _ _ => fpPick_eq true _ _⟩

end Sys2Proof.Machine
end

section
namespace Sys2Proof.Machine

/-! Reduction slots (R51, R411 to R413). -/

theorem deliver_fab {s s1 : State} {n : Nat} {m : Msg} (h : s.deliver n = some (m, s1)) : s1.fab = s.fab := by
  unfold State.deliver at h
  split at h
  · split at h
    · cases h
    split at h
    · cases h
    · cases h; rfl
  · cases h

theorem seqLate_iff {a b : Nat} : seqLate a b = true ↔ 1 ≤ (b + 2 ^ 24 - a) % 2 ^ 24 ∧ (b + 2 ^ 24 - a) % 2 ^ 24 < 2 ^ 23 := by
  rw [seqLate, Bool.and_eq_true, decide_eq_true_iff, decide_eq_true_iff]

theorem seqLate_false_iff {a b : Nat} :
    seqLate a b = false ↔ ¬ (1 ≤ (b + 2 ^ 24 - a) % 2 ^ 24 ∧ (b + 2 ^ 24 - a) % 2 ^ 24 < 2 ^ 23) := by
  rw [← seqLate_iff, Bool.not_eq_true]

/-! A chunk at its switch. -/

/-- A slot as the first chunk of a sequence number finds it (R412): in Collect, its timer started. -/
def RedSlot.begun (since seq : Nat) : RedSlot := { st := .collect, seq := seq, chunks := [], bad := false, since := since }

/-- A slot with a further child's chunk: a chunk of another header, or one marked bad, marks a mismatch (R412). -/
def RedSlot.joined (y : RedSlot) (port : Nat) (k : Chunk) : RedSlot :=
  { y with chunks := y.chunks.put port k,
           bad := y.bad || k.bad || (match y.chunks.head?.map (·.2) with | some f => !sameHeader f k | none => false) }

/-- What a switch does with a slot that a chunk has joined: it keeps it until every child's is there, then sends up or decides. -/
def State.collects (s : State) (l : List Byte) (sw : Nat) (k : Chunk) (z : RedSlot) : State :=
  let key := slotKey l k.grp k.seq
  if z.chunks.length < (childPorts l sw).length then s.setSlot sw key z
  else match parentOf l sw with
    | some (up, upPort) =>
      let cs := z.chunks.map (·.2)
      let out : Chunk := match cs with | f :: _ => { f with vals := combine cs, bad := z.bad } | [] => k
      let s := s.setSlot sw key { z with st := .up }
      if s.fab.upLink l sw then s.send (swPlace sw) (swPlace up) (16 + k.grp) (.chunk up upPort out) else s
    | none => ((s.setSlot sw key z).rootDecides l sw k.grp z).setSlot sw key RedSlot.free

section
variable {s : State} {l : List Byte} {sw port : Nat} {k : Chunk} {y : RedSlot} (hy : s.slot sw (slotKey l k.grp k.seq) = y)
include hy

/-! What a chunk meets at its slot (R412, R413): a free slot, one that collects its number, a busy one, or one that has left its number
behind or is dead. -/

theorem chunkArrives_free (h : y.st = .free) :
    s.chunkArrives l sw port k = some (s.collects l sw k ((RedSlot.begun s.ticks k.seq).joined port k)) := by
  simp only [State.chunkArrives, hy, h]
  rfl

theorem chunkArrives_collect (h : y.st = .collect) (hs : y.seq = k.seq) :
    s.chunkArrives l sw port k = some (s.collects l sw k (y.joined port k)) := by
  obtain ⟨st, seq, chunks, bad, since⟩ := y
  obtain rfl : st = .collect := h
  simp only [State.chunkArrives, hy, if_pos hs]
  rfl

theorem chunkArrives_next (h : y.st = .dead) (hs : y.seq ≠ k.seq) (hl : seqLate k.seq y.seq = false)
    (hn : k.seq = (y.seq + specSlots l) % 2 ^ 24) :
    s.chunkArrives l sw port k = some (s.collects l sw k ((RedSlot.begun s.ticks k.seq).joined port k)) := by
  simp only [State.chunkArrives, hy, h, hl, hs, Bool.false_eq_true, or_self, if_false, if_pos hn]
  rfl

theorem chunkArrives_busy (hl : seqLate k.seq y.seq = false)
    (h : y.st = .collect ∧ y.seq ≠ k.seq ∨ y.st = .up ∨
      y.st = .dead ∧ y.seq ≠ k.seq ∧ k.seq ≠ (y.seq + specSlots l) % 2 ^ 24) :
    s.chunkArrives l sw port k = none := by
  rcases h with ⟨h, hs⟩ | h | ⟨h, hs, hn⟩
  · simp only [State.chunkArrives, hy, h, hl, if_neg hs, Bool.false_eq_true, if_false]
  · simp only [State.chunkArrives, hy, h, hl, Bool.false_eq_true, if_false]
  · simp only [State.chunkArrives, hy, h, hl, hs, Bool.false_eq_true, or_self, if_false, if_neg hn]

theorem chunkArrives_dead
    (h : y.st = .collect ∧ y.seq ≠ k.seq ∧ seqLate k.seq y.seq = true ∨ y.st = .up ∧ seqLate k.seq y.seq = true ∨
      y.st = .dead ∧ (y.seq = k.seq ∨ seqLate k.seq y.seq = true)) :
    s.chunkArrives l sw port k = some (s.notifyChild l sw k.grp k.seq 1 none port) := by
  rcases h with ⟨h, hs, hl⟩ | ⟨h, hl⟩ | ⟨h, hd⟩
  · simp only [State.chunkArrives, hy, h, if_neg hs, hl, if_true]
  · simp only [State.chunkArrives, hy, h, hl, if_true]
  · simp only [State.chunkArrives, hy, h, if_pos hd]

end

theorem joined_begun (since : Nat) (port : Nat) (k : Chunk) :
    (RedSlot.begun since k.seq).joined port k = ⟨.collect, k.seq, [(port, k)], k.bad, since⟩ := by
  simp [RedSlot.joined, RedSlot.begun, NatMap.put]

section
variable {s : State} {l : List Byte} {sw : Nat} {k : Chunk} {z : RedSlot}

theorem collects_keeps (h : z.chunks.length < (childPorts l sw).length) :
    s.collects l sw k z = s.setSlot sw (slotKey l k.grp k.seq) z := if_pos h

/-- The last child's chunk of a slot below the root. -/
theorem collects_sends {f : Chunk} {r : List Chunk} {up upPort : Nat} (h : (childPorts l sw).length ≤ z.chunks.length)
    (hp : parentOf l sw = some (up, upPort)) (hc : z.chunks.map (·.2) = f :: r) (hu : s.fab.upLink l sw = true) :
    s.collects l sw k z =
      (s.setSlot sw (slotKey l k.grp k.seq) { z with st := .up }).send (swPlace sw) (swPlace up) (16 + k.grp)
        (.chunk up upPort { f with vals := combine (f :: r), bad := z.bad }) := by
  simp only [State.collects, if_neg (Nat.not_lt.2 h), hp, hc]
  exact if_pos hu

theorem collects_decides (h : (childPorts l sw).length ≤ z.chunks.length) (hp : parentOf l sw = none) :
    s.collects l sw k z =
      ((s.setSlot sw (slotKey l k.grp k.seq) z).rootDecides l sw k.grp z).setSlot sw (slotKey l k.grp k.seq) RedSlot.free := by
  simp only [State.collects, if_neg (Nat.not_lt.2 h), hp]

/-- A second child's chunk goes to its place in ascending port order (R51). -/
theorem put_one {p0 port : Nat} {k0 k : Chunk} (h : port ≠ p0) :
    (NatMap.put [(p0, k0)] port k).map (·.2) = if port < p0 then [k, k0] else [k0, k] := by
  simp only [NatMap.put, if_neg h]
  split <;> rfl

end

theorem chunkArrival_eq {s s1 : State} {n sw port : Nat} {m : Msg} {k : Chunk} {x : Group} (hn : n < 2 ^ 49)
    (h : s.deliver n = some (m, s1)) (hb : m.body = .chunk sw port k) (hx : s1.fab.group k.grp = some x) :
    exec (.reductionChunkArrival n) s =
      if s.fab.chunkPasses x.spec sw port then .next ((s1.chunkArrives x.spec sw port k).getD s) else .next s1 := by
  simp only [exec_reductionChunkArrival, execReductionChunkArrival, if_neg (Nat.not_le.2 hn), h, hb, hx]
  cases s.fab.chunkPasses x.spec sw port <;> rfl

/-- R51: several children's chunks are added in their order, each step rounded to FP32. -/
theorem combine_cons {k : Chunk} {l : List Chunk} (h : l ≠ []) :
    combine (k :: l) = (List.range k.vals.length).map fun i =>
      Fmt.fp32.round .rne 0 true (switchSum ((k :: l).map fun c => Fmt.fp32.decode (c.vals.getD i 0))) := by
  cases l with
  | nil => exact absurd rfl h
  | cons _ _ => rfl

/-! Timers and notices. -/

/-- A slot that dies in Collect, its children told. -/
def State.dies (s : State) (l : List Byte) (sw g key : Nat) (y : RedSlot) : State :=
  ((if sw = rootSw l then s.decided g y.seq else s).setSlot sw key { y with st := .dead, chunks := [] }).notifyChildren l sw g y.seq 1 none

section
variable {s : State} {l : List Byte} {sw g key : Nat} {y : RedSlot}

theorem killSlot_root (h : y.st = .collect) (hp : parentOf l sw = none) : s.killSlot l sw g key y = s.dies l sw g key y := by
  simp only [State.killSlot, h, hp, reduceCtorEq, if_false]
  rfl

theorem killSlot_below {up upPort : Nat} (h : y.st = .collect) (hp : parentOf l sw = some (up, upPort))
    (hu : (s.dies l sw g key y).fab.upLink l sw = true) :
    s.killSlot l sw g key y = (s.dies l sw g key y).send (swPlace sw) (swPlace up) (16 + g) (.notice up g y.seq 1 none) := by
  simp only [State.killSlot, h, hp, reduceCtorEq, if_false]
  exact if_pos hu

end

theorem timerExpiry_eq {s : State} {sw g slot : Nat} {x : Group} (hx : s.fab.group g = some x) :
    exec (.slotTimerExpiry sw g slot) s =
      if (s.slot sw (16 * g + slot)).st = .collect ∧ (s.slot sw (16 * g + slot)).since + 1000 * specTout x.spec ≤ s.ticks ∧
          NatSet.has s.fab.down (downSw sw) = false
      then .next (s.killSlot x.spec sw g (16 * g + slot) (s.slot sw (16 * g + slot))) else .next s := by
  simp only [exec_slotTimerExpiry, execSlotTimerExpiry, hx]

section
variable {s s1 : State} {n sw g seq code : Nat} {m : Msg} {c : Option Chunk} {x : Group} {y : RedSlot}
  (h : s.deliver n = some (m, s1)) (hb : m.body = .notice sw g seq code c) (hx : s1.fab.group g = some x)
  (hd : NatSet.has s.fab.down (downSw sw) = false) (hy : s1.slot sw (slotKey x.spec g seq) = y)
include h hb hx hd hy

/-- The parent's notice reaches a slot in Up. -/
theorem noticeArrival_up (hr : sw ≠ rootSw x.spec) (hst : y.st = .up) (hseq : y.seq = seq) :
    exec (.slotNoticeArrival n) s = .next ((s1.notifyChildren x.spec sw g seq code c).setSlot sw (slotKey x.spec g seq)
      (if code = 1 then { y with st := .dead, chunks := [] } else RedSlot.free)) := by
  simp only [exec_slotNoticeArrival, execSlotNoticeArrival, h, hb, hx, hd, hy, hseq, hst, hr, ne_eq, not_true_eq_false,
    Bool.false_eq_true, or_self, if_false]

/-- A child's dead notice reaches the root. -/
theorem noticeArrival_root (hr : sw = rootSw x.spec) (hst : y.st = .collect) (hseq : y.seq = seq) :
    exec (.slotNoticeArrival n) s = .next (s1.killSlot x.spec sw g (slotKey x.spec g seq) y) := by
  simp only [exec_slotNoticeArrival, execSlotNoticeArrival, h, hb, hx, hd, hy, hseq, hst, if_pos hr, ne_eq, not_true_eq_false,
    Bool.false_eq_true, or_self, if_false, if_true]

theorem noticeArrival_other (hr : sw ≠ rootSw x.spec) (hne : y.st ≠ .up ∨ y.seq ≠ seq) :
    exec (.slotNoticeArrival n) s = .next s1 := by
  simp only [exec_slotNoticeArrival, execSlotNoticeArrival, h, hb, hx, hd, hy, hr, Bool.false_eq_true, or_false, if_false]
  rcases hne with hst | hseq
  · rw [if_pos hst, ite_self]
  · rw [if_pos hseq]

end

/-! The write at the destination. -/

/-- A result's data as they stand in the destination's store: the bytes written, their words full (R145, R411). -/
def State.resultWritten (s : State) (la : Nat) (bytes : List Byte) : State := (s.storeBytes la bytes).markBlock la bytes.length true

section
variable {s s1 : State} {n core : Nat} {m : Msg} {k : Chunk} {bytes : List Byte} {l : List Nat}

theorem destinationWrite_lost (h : s.deliver n = some (m, s1)) (hb : m.body = .write core k bytes l)
    (hp : s.fab.writePasses k core = false) : exec (.destinationWrite n) s = .next (s1.cutOff k.grp k.seq l) := by
  simp only [exec_destinationWrite, execDestinationWrite, h, hb, hp, Bool.not_false, if_true]

/-- R411: a result that meets no group of the core's ends with code 4. -/
theorem destinationWrite_strange (h : s.deliver n = some (m, s1)) (hb : m.body = .write core k bytes l)
    (hp : s.fab.writePasses k core = true) (hc : s.fab.contextAt k.grp core = none) :
    exec (.destinationWrite n) s = .next (s1.writeAnswers core k 4 l) := by
  simp only [exec_destinationWrite, execDestinationWrite, h, hb, hp, hc, Bool.not_true, Bool.false_eq_true, if_false]

variable {cx : Nat} (h : s.deliver n = some (m, s1)) (hb : m.body = .write core k bytes l)
  (hp : s.fab.writePasses k core = true) (hc : s.fab.contextAt k.grp core = some cx) (ho : s.coreOk core = true) (hne : bytes ≠ [])
include h hb hp hc ho hne

/-- A result whose place fails the check writes nothing. -/
theorem destinationWrite_refused (hw : s1.writePlace cx core k bytes.length = none) :
    exec (.destinationWrite n) s = .next (s1.writeAnswers core k 4 l) := by
  simp only [exec_destinationWrite, execDestinationWrite, h, hb, hp, hc, ho, State.writeElements, List.isEmpty_iff, hne, hw,
    Bool.not_true, Bool.true_eq_false, Bool.false_eq_true, if_false]

/-- A result whose place is good is written, and then counted. -/
theorem destinationWrite_counts {la : Nat} {z : State} (hw : s1.writePlace cx core k bytes.length = some la)
    (hz : (s1.resultWritten la bytes).countWrite cx core k l = some z) :
    exec (.destinationWrite n) s = .next z := by
  rw [State.resultWritten] at hz
  simp only [exec_destinationWrite, execDestinationWrite, h, hb, hp, hc, ho, State.writeElements, List.isEmpty_iff, hne, hw, hz,
    Bool.not_true, Bool.true_eq_false, Bool.false_eq_true, if_false]

end

@[simp] theorem markBlock_fab (s : State) (la n : Nat) (b : Bool) : (s.markBlock la n b).fab = s.fab := by
  unfold State.markBlock
  generalize wordsTouched la n = l
  induction l generalizing s with
  | nil => rfl
  | cons _ _ ih => exact ih _

@[simp] theorem writeAnswers_cores (s : State) (core : Nat) (k : Chunk) (code : Nat) (l : List Nat) :
    (s.writeAnswers core k code l).cores = s.cores := by
  unfold State.writeAnswers
  induction l generalizing s with
  | nil => rfl
  | cons _ _ ih => exact ih _

@[simp] theorem writeAnswers_mem (s : State) (core : Nat) (k : Chunk) (code : Nat) (l : List Nat) :
    (s.writeAnswers core k code l).mem = s.mem := by
  unfold State.writeAnswers
  induction l generalizing s with
  | nil => rfl
  | cons _ _ ih => exact ih _

section
variable {s : State} {cx core : Nat} {k : Chunk} {l : List Nat}

theorem writePlace_resident {n : Nat} (hk : s.fab.keptAt k.grp core = none) :
    s.writePlace cx core k n = (s.check core (cx % 4) (BitVec.ofNat 64 k.dst) n segW 1).toOption := by
  simp only [State.writePlace, hk]

theorem writePlace_kept {n : Nat} {r : Resid} {d : Seg} (hk : s.fab.keptAt k.grp core = some (r, d)) :
    s.writePlace cx core k n =
      if r.lssize < d.limit ∨ d.limit < k.dst + n ∨ segW &&& d.rights ≠ segW then none else some (lsAddr core r.lsbase + k.dst) := by
  simp only [State.writePlace, hk]

theorem countWrite_none (hi : k.ctr = none) : s.countWrite cx core k l = some (s.writeAnswers core k 0 l) := by
  simp only [State.countWrite, hi]

theorem countWrite_refused {i : Nat} (hi : k.ctr = some i) (hw : s.writeCounts cx core k.grp i = false) :
    s.countWrite cx core k l = some (s.writeAnswers core k 4 l) := by
  simp only [State.countWrite, hi, hw, Bool.not_false, if_true]

/-- R424: a result of a context that has returned to Free is counted at once. -/
theorem countWrite_kept {i : Nat} {x : Resid × Seg} (hi : k.ctr = some i) (hw : s.writeCounts cx core k.grp i = true)
    (hk : s.fab.keptAt k.grp core = some x) : s.countWrite cx core k l =
      some ((s.modCore core fun y => { y with counters := y.counters.put i ((s.core core).counters.at 0 i + 1) }).writeAnswers core k 0 l) := by
  simp only [State.countWrite, hi, hw, hk, Bool.not_true, Bool.false_eq_true, if_false, Option.isSome_some, if_true]

/-- Outside a recording and a replay the counter is increased, and memory stays. -/
theorem countWrite_resident {i : Nat} (hi : k.ctr = some i) (hw : s.writeCounts cx core k.grp i = true)
    (hk : s.fab.keptAt k.grp core = none) (hr : (s.ctx cx).replay = 0) :
    ∃ z, s.countWrite cx core k l = some z ∧ (z.core core).counters.at 0 i = (s.core core).counters.at 0 i + 1 ∧ z.mem = s.mem := by
  have gate : ∀ src obj out, s.logGate (s.ctx cx).replay false cx (coreDie core) core src 0x0A obj 0 out = .go s none :=
    fun src obj out => logGate_off (by rw [hr]; decide) (by rw [hr]; decide)
  simp only [State.countWrite, hi, hw, hk, State.unitMay, State.unitLogged, gate, Bool.not_true, Bool.false_eq_true, if_false,
    Option.isSome_none, if_true]
  refine ⟨_, rfl, ?_, ?_⟩
  · rw [State.core, writeAnswers_cores, ← State.core, core_modCore, at_put_same]
  · rw [writeAnswers_mem, modCore_mem, unitGoes_mem]

end

section
variable {s s1 : State} {n core cx la : Nat} {m : Msg} {k : Chunk} {bytes : List Byte} {l : List Nat}

theorem resultWritten_keptAt (s : State) (la : Nat) (bytes : List Byte) (g core : Nat) :
    (s.resultWritten la bytes).fab.keptAt g core = s.fab.keptAt g core := by
  rw [State.resultWritten, markBlock_fab, storeBytes_fab]

variable (h : s.deliver n = some (m, s1)) (hb : m.body = .write core k bytes l) (hp : s.fab.writePasses k core = true)
  (hc : s.fab.contextAt k.grp core = some cx) (ho : s.coreOk core = true) (hne : bytes ≠ [])
include h hb hp hc ho hne

/-- A result that passes its check at a context that holds the core, or for one that has returned to Free. -/
theorem resultCounted_resident (hk : s1.fab.keptAt k.grp core = none)
    (hw : s1.check core (cx % 4) (BitVec.ofNat 64 k.dst) bytes.length segW 1 = .ok la) :
    (k.ctr = none → exec (.destinationWrite n) s = .next ((s1.resultWritten la bytes).writeAnswers core k 0 l)) ∧
    (∀ i, k.ctr = some i → (s1.resultWritten la bytes).ownsCounter core cx i = false →
      exec (.destinationWrite n) s = .next ((s1.resultWritten la bytes).writeAnswers core k 4 l)) ∧
    (∀ i, k.ctr = some i → (s1.resultWritten la bytes).ownsCounter core cx i = true → ((s1.resultWritten la bytes).ctx cx).replay = 0 →
      ∃ z : State, exec (.destinationWrite n) s = .next z ∧
        (z.core core).counters.at 0 i = ((s1.resultWritten la bytes).core core).counters.at 0 i + 1 ∧
        z.mem = (s1.resultWritten la bytes).mem) := by
  have place : s1.writePlace cx core k bytes.length = some la := by
    rw [writePlace_resident hk, hw]
    rfl
  have ends {z : State} (hz : (s1.resultWritten la bytes).countWrite cx core k l = some z) :
      exec (.destinationWrite n) s = .next z := destinationWrite_counts h hb hp hc ho hne place hz
  have hkw := (resultWritten_keptAt s1 la bytes k.grp core).trans hk
  have counts (i : Nat) : (s1.resultWritten la bytes).writeCounts cx core k.grp i = (s1.resultWritten la bytes).ownsCounter core cx i := by
    simp only [State.writeCounts, hkw]
  refine ⟨fun hi => ends (countWrite_none hi), fun i hi hown => ends (countWrite_refused hi ((counts i).trans hown)), fun i hi hown hr => ?_⟩
  obtain ⟨z, hz, hctr, hmem⟩ := countWrite_resident hi ((counts i).trans hown) hkw hr (l := l)
  exact ⟨z, ends hz, hctr, hmem⟩

theorem resultCounted_kept {r : Resid} {d : Seg} (hk : s1.fab.keptAt k.grp core = some (r, d)) (hl : d.limit ≤ r.lssize)
    (hd : k.dst + bytes.length ≤ d.limit) (hr : segW &&& d.rights = segW) (hla : lsAddr core r.lsbase + k.dst = la) :
    (k.ctr = none → exec (.destinationWrite n) s = .next ((s1.resultWritten la bytes).writeAnswers core k 0 l)) ∧
    (∀ i, k.ctr = some i → r.cfirst ≤ i → i < r.cfirst + r.ccount →
      exec (.destinationWrite n) s = .next (((s1.resultWritten la bytes).modCore core fun y =>
        { y with counters := y.counters.put i (((s1.resultWritten la bytes).core core).counters.at 0 i + 1) }).writeAnswers core k 0 l)) := by
  have place : s1.writePlace cx core k bytes.length = some la := by
    rw [writePlace_kept hk, hla, if_neg]
    rintro (h1 | h1 | h1)
    · omega
    · omega
    · exact h1 hr
  have ends {z : State} (hz : (s1.resultWritten la bytes).countWrite cx core k l = some z) :
      exec (.destinationWrite n) s = .next z := destinationWrite_counts h hb hp hc ho hne place hz
  have hkw := (resultWritten_keptAt s1 la bytes k.grp core).trans hk
  refine ⟨fun hi => ends (countWrite_none hi), fun i hi h1 h2 => ends (countWrite_kept hi ?_ hkw)⟩
  simp only [State.writeCounts, hkw, h1, h2, decide_true, Bool.and_self]

end

/-- Settles O54: each event's cases at a switch's slot, and those of a result at its destination. -/
theorem reductionSlots : Obligations.ReductionSlots := by
  refine ⟨?_, fun k l => ⟨rfl, combine_cons⟩, ?_, ?_, ?_⟩
  · intro s s1 n sw port m k x hn h hb hx
    refine ⟨fun hp => by rw [chunkArrival_eq hn h hb hx, hp]; rfl, fun hp => ?_⟩
    intro key y children first behind late runs sends
    have hy : s1.slot sw (slotKey x.spec k.grp k.seq) = y := rfl
    clear_value y
    have arrives {z : State} (hz : s1.chunkArrives x.spec sw port k = some z) : runs z := by
      show exec _ _ = _
      rw [chunkArrival_eq hn h hb hx, if_pos hp, hz, Option.getD_some]
    have waits (hz : s1.chunkArrives x.spec sw port k = none) : runs s := by
      show exec _ _ = _
      rw [chunkArrival_eq hn h hb hx, if_pos hp, hz, Option.getD_none]
    have begins (hc : 1 < children) :
        s1.collects x.spec sw k ((RedSlot.begun s1.ticks k.seq).joined port k) = s1.setSlot sw key (first .collect) := by
      rw [joined_begun]
      exact collects_keeps hc
    refine ⟨fun hst hc => ?_, fun hst hc up upPort hpar hup => ?_, fun hst hseq => ?_, fun hst hseq hl => ?_, fun hst hl => ?_, fun hd => ?_,
      fun hst hseq hl => ⟨fun hnext hc => ?_, fun hnext => ?_⟩⟩
    · rw [← begins hc]
      exact arrives (chunkArrives_free hy hst)
    · refine arrives ((chunkArrives_free hy hst).trans (congrArg some ?_))
      rw [joined_begun, collects_sends (Nat.le_of_eq hc) hpar rfl hup]
      rfl
    · intro chunks bad z
      have hz : y.joined port k = z := by
        simp only [z, bad, chunks, RedSlot.joined]
        cases y.chunks.head? <;> rfl
      have taken : runs (s1.collects x.spec sw k z) := hz ▸ arrives (chunkArrives_collect hy hst hseq)
      refine ⟨fun hc => ?_, fun hc f r up upPort hf hpar hup => ?_, fun p0 k0 hch hne => ?_, fun hc hpar => ?_⟩
      · rw [← collects_keeps (l := x.spec) (k := k) hc]
        exact taken
      · rw [collects_sends (z := z) hc hpar hf hup] at taken
        exact taken
      · show (NatMap.put y.chunks port k).map (·.2) = _
        rw [hch, put_one hne]
      · rw [collects_decides (z := z) hc hpar] at taken
        exact taken
    · exact waits (chunkArrives_busy hy (seqLate_false_iff.2 hl) (.inl ⟨hst, hseq⟩))
    · exact waits (chunkArrives_busy hy (seqLate_false_iff.2 hl) (.inr (.inl hst)))
    · refine arrives (chunkArrives_dead hy ?_)
      rw [seqLate_iff]
      rcases hd with ⟨hst, hseq, hl⟩ | hd
      · exact .inl ⟨hst, hseq, hl⟩
      · exact .inr hd
    · rw [← begins hc]
      exact arrives (chunkArrives_next hy hst hseq (seqLate_false_iff.2 hl) hnext)
    · exact waits (chunkArrives_busy hy (seqLate_false_iff.2 hl) (.inr (.inr ⟨hst, hseq, hnext⟩)))
  · intro s sw g slot x hx y root dead
    rw [timerExpiry_eq hx]
    refine ⟨fun hst ht hd => if_pos ⟨hst, ht, hd⟩, fun hne => if_neg ?_, fun hst hp => killSlot_root hst hp,
      fun up upPort hst hp hu => killSlot_below hst hp hu⟩
    rintro ⟨hst, ht, hd⟩
    rcases hne with hne | hne | hne
    · exact hne hst
    · exact absurd ht (Nat.not_le.2 hne)
    · exact Bool.false_ne_true (hd.symm.trans hne)
  · intro s s1 n sw g seq code m c x h hb hx hd key y
    exact ⟨noticeArrival_up h hb hx hd rfl, noticeArrival_root h hb hx hd rfl, noticeArrival_other h hb hx hd rfl⟩
  · intro s s1 n core m k bytes l h hb
    refine ⟨destinationWrite_lost h hb, fun hp => ⟨destinationWrite_strange h hb hp, ?_, ?_, ?_⟩⟩
    · intro cx e hc hk ho hne he
      refine destinationWrite_refused h hb hp hc ho hne ?_
      rw [writePlace_resident (deliver_fab h ▸ hk), he]
      rfl
    · intro cx la hc hk ho hne hw
      exact resultCounted_resident h hb hp hc ho hne (deliver_fab h ▸ hk) hw
    · intro cx r d hc hk ho hne
      have hk1 : s1.fab.keptAt k.grp core = some (r, d) := deliver_fab h ▸ hk
      refine ⟨fun hl hd hr => resultCounted_kept h hb hp hc ho hne hk1 hl hd hr rfl,
        fun hd => destinationWrite_refused h hb hp hc ho hne ?_⟩
      rw [writePlace_kept hk1, if_pos (.inr (.inl hd))]

end Sys2Proof.Machine
end

section
namespace Sys2Proof.Machine

/-! Rounding (R39 to R41): what a value that lies on a pattern, or beyond a tapered format's range, rounds to. -/

/-- The value of a significand with its exponent. -/
def dyadic (v : Nat × Int) : ℚ := v.1 * 2 ^ v.2

/-- A value over a lower exponent. -/
theorem dyadic_align (v : Nat × Int) {e0 : Int} (h : e0 ≤ v.2) : dyadic v = ((v.1 * 2 ^ (v.2 - e0).toNat : ℕ) : ℚ) * 2 ^ e0 := by
  have split : (2 : ℚ) ^ v.2 = 2 ^ (v.2 - e0).toNat * 2 ^ e0 := by
    rw [← zpow_natCast, ← zpow_add₀ (by norm_num), Int.toNat_of_nonneg (by omega), Int.sub_add_cancel]
  rw [dyadic, split, Nat.cast_mul, Nat.cast_pow, Nat.cast_ofNat, mul_assoc]

theorem dyadic_le_iff {v w : Nat × Int} {e0 : Int} (hv : e0 ≤ v.2) (hw : e0 ≤ w.2) :
    dyadic v ≤ dyadic w ↔ v.1 * 2 ^ (v.2 - e0).toNat ≤ w.1 * 2 ^ (w.2 - e0).toNat := by
  rw [dyadic_align v hv, dyadic_align w hw, mul_le_mul_iff_of_pos_right (by positivity), Nat.cast_le]

theorem dyLe_iff (v w : Nat × Int) : dyLe v.1 v.2 w.1 w.2 = true ↔ dyadic v ≤ dyadic w := by
  unfold dyLe
  split
  next h => rw [decide_eq_true_iff, dyadic_le_iff h (Int.le_refl _)]; simp
  next h => rw [decide_eq_true_iff, dyadic_le_iff (Int.le_refl _) (by omega : v.2 ≤ w.2)]; simp

theorem dyLe_false_iff (v w : Nat × Int) : dyLe v.1 v.2 w.1 w.2 = false ↔ dyadic w < dyadic v := by
  rw [← not_le, ← dyLe_iff, Bool.not_eq_true]

/-! The neighbours. -/

/-- R39: a value that is its lower neighbour is not rounded up, whatever is drawn. -/
theorem chooseUp_exact (mode : RMode) (u : Nat) (odd : Bool) {a b : Nat} (h : a < b) : chooseUp mode u odd a a b = false := by
  have hb : b - a ≠ 0 := by omega
  cases mode <;> simp [chooseUp, hb]

theorem roundMag_exact {f : Fmt} (mode : RMode) (u : Nat) {P m : Nat} {e : Int} (hP : P ≠ 0)
    (hx : dyadic (m, e) = dyadic (f.posVal P)) (hlt : dyadic (f.posVal P) < dyadic (f.posVal (P + 1))) :
    roundMag f mode u P m e = P := by
  have low : min e (min (f.posVal P).2 (f.posVal (P + 1)).2) ≤ (f.posVal P).2 := (min_le_right _ _).trans (min_le_left _ _)
  have high : min e (min (f.posVal P).2 (f.posVal (P + 1)).2) ≤ (f.posVal (P + 1)).2 := (min_le_right _ _).trans (min_le_right _ _)
  have own : min e (min (f.posVal P).2 (f.posVal (P + 1)).2) ≤ ((m, e) : Nat × Int).2 := min_le_left _ _
  have same := Nat.le_antisymm ((dyadic_le_iff own low).1 hx.le) ((dyadic_le_iff low own).1 hx.ge)
  have above := Nat.lt_of_not_le fun h => absurd ((dyadic_le_iff high low).2 h) (not_le.2 hlt)
  simp only [roundMag, if_neg hP, same]
  rw [chooseUp_exact mode u _ above, if_neg Bool.false_ne_true]

/-! The search for the lower neighbour. -/

/-- The pattern found is no greater than the greatest, and its value, unless it is the zero pattern, no greater than the value. -/
theorem floorPat_below (f : Fmt) (m : Nat) (e : Int) (k : Nat) {P : Nat}
    (h : P ≤ f.maxPat ∧ (P = 0 ∨ dyadic (f.posVal P) ≤ dyadic (m, e))) :
    floorPat f m e k P ≤ f.maxPat ∧ (floorPat f m e k P = 0 ∨ dyadic (f.posVal (floorPat f m e k P)) ≤ dyadic (m, e)) := by
  induction k generalizing P with
  | zero => exact h
  | succ k ih =>
    rw [floorPat]
    refine ih ?_
    split
    next hQ => exact ⟨hQ.1, .inr ((dyLe_iff _ (m, e)).1 hQ.2)⟩
    next => exact h

/-- Where every pattern above the least is too great, the least is left. -/
theorem floorPat_least {f : Fmt} {m : Nat} {e : Int} {n : Nat} (h : ∀ k < n, dyadic (m, e) < dyadic (f.posVal (2 ^ (k + 1)))) :
    floorPat f m e (n + 1) 0 = if 1 ≤ f.maxPat ∧ dyLe (f.posVal 1).1 (f.posVal 1).2 m e then 1 else 0 := by
  induction n with
  | zero => rfl
  | succ n ih =>
    have high := (dyLe_false_iff (f.posVal (2 ^ (n + 1))) (m, e)).2 (h n (Nat.lt_succ_self n))
    rw [floorPat, Nat.zero_add]
    simp only [high, Bool.false_eq_true, and_false, if_false]
    exact ih fun k hk => h k (Nat.lt_succ_of_lt hk)

/-- Up to a pattern the values rise with the pattern. -/
def Fmt.RisesTo (f : Fmt) (top : Nat) : Prop := ∀ P Q, P < Q → Q ≤ top → dyadic (f.posVal P) < dyadic (f.posVal Q)

theorem risesTo_of_steps {f : Fmt} {top : Nat}
    (h : ∀ P < top, dyLe (f.posVal (P + 1)).1 (f.posVal (P + 1)).2 (f.posVal P).1 (f.posVal P).2 = false) : f.RisesTo top := by
  intro P Q hPQ hQ
  induction hPQ with
  | refl => exact (dyLe_false_iff _ _).1 (h P hQ)
  | step _ ih => exact (ih (by omega)).trans ((dyLe_false_iff _ _).1 (h _ hQ))

theorem dyLe_of_rises {f : Fmt} {top P Q : Nat} (hf : f.RisesTo top) (hP : P ≤ top) (hQ : Q ≤ top) :
    dyLe (f.posVal Q).1 (f.posVal Q).2 (f.posVal P).1 (f.posVal P).2 = true ↔ Q ≤ P := by
  rw [dyLe_iff]
  constructor
  · exact fun hle => Nat.le_of_not_lt fun h => absurd hle (not_le.2 (hf P Q h hQ))
  · intro h
    rcases Nat.eq_or_lt_of_le h with rfl | h
    · exact le_rfl
    · exact (hf Q P h hP).le

/-- One bit more of a pattern. -/
theorem next_bit (P k : Nat) :
    (if P / 2 ^ (k + 1) * 2 ^ (k + 1) + 2 ^ k ≤ P then P / 2 ^ (k + 1) * 2 ^ (k + 1) + 2 ^ k else P / 2 ^ (k + 1) * 2 ^ (k + 1)) =
      P / 2 ^ k * 2 ^ k := by
  have half : P / 2 ^ (k + 1) * 2 ^ (k + 1) = P / 2 ^ k / 2 * 2 * 2 ^ k := by
    rw [Nat.pow_succ, Nat.mul_comm (2 ^ k) 2, Nat.mul_comm 2, ← Nat.div_div_eq_div_mul, Nat.mul_comm (2 ^ k) 2, Nat.mul_assoc]
  have low : P / 2 ^ k * 2 ^ k ≤ P := Nat.div_mul_le_self ..
  have high : P < (P / 2 ^ k + 1) * 2 ^ k := Nat.lt_mul_of_div_lt (Nat.lt_succ_self _) (by positivity)
  rw [half]
  generalize P / 2 ^ k = a at *
  rcases Nat.mod_two_eq_zero_or_one a with h | h
  · rw [show a / 2 * 2 = a by omega, if_neg]
    rw [Nat.succ_mul] at high
    omega
  · have odd : a / 2 * 2 * 2 ^ k + 2 ^ k = a * 2 ^ k := by rw [← Nat.succ_mul, show (a / 2 * 2).succ = a by omega]
    rw [odd, if_pos low]

/-- The search finds the pattern whose value it is given: the bits that it has chosen are those of the pattern. -/
theorem floorPat_exact {f : Fmt} {top P : Nat} (hf : f.RisesTo top) (htop : f.maxPat ≤ top) (hP : P ≤ f.maxPat) (k : Nat) :
    floorPat f (f.posVal P).1 (f.posVal P).2 k (P / 2 ^ k * 2 ^ k) = P := by
  induction k with
  | zero => simp [floorPat]
  | succ k ih =>
    have rise (Q : Nat) : (Q ≤ f.maxPat ∧ dyLe (f.posVal Q).1 (f.posVal Q).2 (f.posVal P).1 (f.posVal P).2 = true) ↔ Q ≤ P :=
      ⟨fun h => (dyLe_of_rises hf (hP.trans htop) (h.1.trans htop)).1 h.2,
        fun h => ⟨h.trans hP, (dyLe_of_rises hf (hP.trans htop) ((h.trans hP).trans htop)).2 h⟩⟩
    rw [floorPat]
    simp only [rise, next_bit]
    exact ih

theorem floorPat_posVal {f : Fmt} {top P n : Nat} (hf : f.RisesTo top) (htop : f.maxPat ≤ top) (hP : P ≤ f.maxPat) (hn : P < 2 ^ n) :
    floorPat f (f.posVal P).1 (f.posVal P).2 n 0 = P := by
  have h := floorPat_exact hf htop hP n
  rwa [Nat.div_eq_of_lt hn, Nat.zero_mul] at h

/-- The magnitude of a pattern below the greatest rounds to it. -/
theorem roundMag_posVal {f : Fmt} {top P : Nat} (hf : f.RisesTo top) (mode : RMode) (u : Nat) (h0 : P ≠ 0) (hP : P < top) :
    roundMag f mode u P (f.posVal P).1 (f.posVal P).2 = P :=
  roundMag_exact mode u h0 rfl (hf P (P + 1) (Nat.lt_succ_self P) hP)

/-! Tapered rounding. -/

/-- What rounding asks of a tapered format of n + 2 bits: the greatest pattern, and minpos below the values of the powers of two and
of maxpos. -/
structure Fmt.Tapers (f : Fmt) (n : Nat) : Prop where
  tapered : f.isTapered = true
  width : f.width = n + 2
  maxPat : f.maxPat = 2 ^ (n + 1) - 1
  max : dyadic (f.posVal 1) < dyadic (f.posVal f.maxPat)
  pow : ∀ k < n, dyadic (f.posVal 1) < dyadic (f.posVal (2 ^ (k + 1)))

theorem tapers_of_patterns {f : Fmt} {n : Nat} (tapered : f.isTapered = true) (width : f.width = n + 2) (maxPat : f.maxPat = 2 ^ (n + 1) - 1)
    (above : ∀ P ∈ f.maxPat :: ((List.range n).map fun k => 2 ^ (k + 1)), dyLe (f.posVal P).1 (f.posVal P).2 (f.posVal 1).1 (f.posVal 1).2 = false) :
    f.Tapers n := by
  refine ⟨tapered, width, maxPat, (dyLe_false_iff _ _).1 (above _ (List.mem_cons_self ..)), fun k hk => (dyLe_false_iff _ _).1 (above _ ?_)⟩
  exact List.mem_cons_of_mem _ (List.mem_map.2 ⟨k, List.mem_range.2 hk, rfl⟩)

theorem Fmt.Tapers.one_le_maxPat {f : Fmt} {n : Nat} (t : f.Tapers n) : 1 ≤ f.maxPat := by
  have : 1 < 2 ^ (n + 1) := Nat.one_lt_two_pow (Nat.succ_ne_zero n)
  rw [t.maxPat]
  omega

theorem tf8_tapers : Fmt.tf8.Tapers 6 := tapers_of_patterns rfl rfl rfl (by decide)
theorem tf16_tapers : Fmt.tf16.Tapers 14 := tapers_of_patterns rfl rfl rfl (by decide)
theorem tf32_tapers : Fmt.tf32.Tapers 30 := tapers_of_patterns rfl rfl rfl (by decide)

theorem tapers_of_mem {f : Fmt} (hf : f ∈ [Fmt.tf8, .tf16, .tf32]) : ∃ n, 0 < n ∧ f.Tapers n := by
  simp only [List.mem_cons, List.not_mem_nil, or_false] at hf
  rcases hf with rfl | rfl | rfl
  · exact ⟨6, by decide, tf8_tapers⟩
  · exact ⟨14, by decide, tf16_tapers⟩
  · exact ⟨30, by decide, tf32_tapers⟩

/-- The pattern that a magnitude rounds to in a tapered format (R41). -/
def taperMag (f : Fmt) (mode : RMode) (u m : Nat) (e : Int) : Nat :=
  if dyLe (f.posVal f.maxPat).1 (f.posVal f.maxPat).2 m e then f.maxPat
  else if floorPat f m e (f.width - 1) 0 = 0 then 1 else roundMag f mode u (floorPat f m e (f.width - 1) 0) m e

theorem round_tapered {f : Fmt} (hf : f ∈ [Fmt.tf8, .tf16, .tf32]) (mode : RMode) (u : Nat) (sat neg : Bool) (m : Nat) (e : Int) :
    f.round mode u sat (.fin neg m e) = f.signed neg (taperMag f mode u m e) := by
  simp only [List.mem_cons, List.not_mem_nil, or_false] at hf
  rw [taperMag, apply_ite (f.signed neg)]
  rcases hf with rfl | rfl | rfl <;> simp only [Fmt.round, Fmt.isInt, Bool.false_eq_true, if_false]

/-- R41: overflow gives maxpos, and no other magnitude is above it; none is rounded to zero. -/
theorem taperMag_bounds {f : Fmt} {n : Nat} (t : f.Tapers n) (mode : RMode) (u m : Nat) (e : Int) :
    1 ≤ taperMag f mode u m e ∧ taperMag f mode u m e ≤ f.maxPat := by
  obtain ⟨hmax, hval⟩ := floorPat_below f m e (f.width - 1) (P := 0) ⟨Nat.zero_le _, .inl rfl⟩
  have hf := t.one_le_maxPat
  rw [taperMag]
  split
  next => omega
  next hover =>
    split
    next => omega
    next h0 =>
      have ne : floorPat f m e (f.width - 1) 0 ≠ f.maxPat := by
        intro h
        rw [h] at hval
        exact hover ((dyLe_iff _ (m, e)).2 (hval.resolve_left (by omega)))
      have step : roundMag f mode u (floorPat f m e (f.width - 1) 0) m e = floorPat f m e (f.width - 1) 0 ∨
          roundMag f mode u (floorPat f m e (f.width - 1) 0) m e = floorPat f m e (f.width - 1) 0 + 1 := by
        rw [roundMag]
        exact (ite_eq_or_eq _ _ _).symm
      omega

theorem taperMag_over {f : Fmt} (mode : RMode) (u : Nat) {m : Nat} {e : Int} (h : dyadic (f.posVal f.maxPat) ≤ dyadic (m, e)) :
    taperMag f mode u m e = f.maxPat := by
  rw [taperMag, if_pos ((dyLe_iff _ (m, e)).2 h)]

/-- R41: underflow gives minpos. -/
theorem taperMag_under {f : Fmt} {n : Nat} (t : f.Tapers n) (hn : 0 < n) (mode : RMode) (u : Nat) {m : Nat} {e : Int}
    (h : dyadic (m, e) ≤ dyadic (f.posVal 1)) : taperMag f mode u m e = 1 := by
  have notOver : dyLe (f.posVal f.maxPat).1 (f.posVal f.maxPat).2 m e = false := (dyLe_false_iff _ (m, e)).2 (h.trans_lt t.max)
  have found : floorPat f m e (f.width - 1) 0 = if 1 ≤ f.maxPat ∧ dyLe (f.posVal 1).1 (f.posVal 1).2 m e then 1 else 0 := by
    rw [t.width]
    exact floorPat_least fun k hk => h.trans_lt (t.pow k hk)
  rw [taperMag, notOver, if_neg Bool.false_ne_true, found]
  split
  next hc =>
    rw [if_neg Nat.one_ne_zero]
    exact roundMag_exact mode u Nat.one_ne_zero (le_antisymm h ((dyLe_iff _ (m, e)).1 hc.2)) (t.pow 0 hn)
  next => rfl

/-- R32: a negative value's pattern is the two's complement of its magnitude's. -/
theorem signed_tapered {f : Fmt} (hf : f.isTapered = true) (neg : Bool) {P : Nat} (hP : 0 < P) :
    f.signed neg P = if neg then 2 ^ f.width - P else P := by
  have : 0 < 2 ^ f.width := by positivity
  rw [Fmt.signed, hf, if_pos rfl, Nat.mod_eq_of_lt (by omega)]

theorem testBit_top {n w : Nat} (hw : w < 2 ^ (n + 1)) : w.testBit n = decide (2 ^ n ≤ w) := by
  rcases Nat.lt_or_ge w (2 ^ n) with h | h
  · rw [Nat.testBit_lt_two_pow h, decide_eq_false (Nat.not_le.2 h)]
  · rw [Nat.testBit_eq_decide_div_mod_eq, decide_eq_true h, decide_eq_true_iff]
    rw [Nat.pow_succ] at hw
    rw [show w / 2 ^ n = 1 from Nat.div_eq_of_lt_le (by omega) (by omega)]

/-- A tapered pattern that is neither zero nor NaR, with its sign in the top bit. -/
theorem twosComplement_pattern {n P : Nat} (neg : Bool) (h0 : 0 < P) (hP : P < 2 ^ n) :
    let w := if neg then 2 ^ (n + 1) - P else P
    w ≠ 0 ∧ w < 2 ^ (n + 1) ∧ w ≠ 2 ^ n ∧ w.testBit n = neg := by
  have double : 2 ^ (n + 1) = 2 * 2 ^ n := by rw [Nat.pow_succ, Nat.mul_comm]
  cases neg with
  | false =>
    simp only [Bool.false_eq_true, if_false]
    refine ⟨by omega, by omega, by omega, ?_⟩
    rw [testBit_top (by omega), decide_eq_false (by omega)]
  | true =>
    simp only [if_true]
    refine ⟨by omega, by omega, by omega, ?_⟩
    rw [testBit_top (by omega), decide_eq_true (by omega)]

/-! The formats of 8 bits. -/

theorem fp8_rises : Fmt.fp8.RisesTo 127 := risesTo_of_steps (by decide)
theorem tf8_rises : Fmt.tf8.RisesTo 127 := risesTo_of_steps (by decide)

theorem round_nan (f : Fmt) (mode : RMode) (u : Nat) (sat : Bool) : f.round mode u sat .nan = f.nanPat := rfl

theorem eq_nan_of_isNan {x : Ex} (h : x.isNan = true) : x = .nan := by
  cases x with
  | nan => rfl
  | _ => exact absurd h Bool.false_ne_true

theorem decode_tf8 {w : Nat} (hw : w < 256) (h0 : w ≠ 0) (h128 : w ≠ 128) :
    Fmt.tf8.decode w = .fin (decide (128 ≤ w)) (Fmt.tf8.posVal (if 128 ≤ w then 256 - w else w)).1
      (Fmt.tf8.posVal (if 128 ≤ w then 256 - w else w)).2 := by
  have top : w.testBit 7 = decide (128 ≤ w) := testBit_top (n := 7) hw
  have low : w % 256 = w := Nat.mod_eq_of_lt hw
  simp only [Fmt.decode, Fmt.width, low, Nat.reduceSub, Nat.reducePow, top, decide_eq_true_iff, if_neg h0, if_neg h128]

theorem taperMag_posVal_tf8 (mode : RMode) (u : Nat) {P : Nat} (h0 : P ≠ 0) (hP : P < 128) :
    taperMag .tf8 mode u (Fmt.tf8.posVal P).1 (Fmt.tf8.posVal P).2 = P := by
  have top : Fmt.tf8.maxPat = 127 := rfl
  rw [taperMag, floorPat_posVal tf8_rises top.le (by omega) hP, if_neg h0]
  split
  next h => exact Nat.le_antisymm ((dyLe_of_rises tf8_rises (by omega) (by omega)).1 h) (by omega)
  next h => exact roundMag_posVal tf8_rises mode u h0 (Nat.lt_of_le_of_ne (by omega) fun e => h (e ▸ (dyLe_iff _ _).2 le_rfl))

theorem round_own_tf8 (mode : RMode) (u : Nat) (sat : Bool) {w : Nat} (hw : w < 256) (h : (Fmt.tf8.decode w).isNan = false) :
    Fmt.tf8.round mode u sat (Fmt.tf8.decode w) = w := by
  rcases Nat.eq_zero_or_pos w with rfl | h0
  · rfl
  have h128 : w ≠ 128 := by
    rintro rfl
    exact absurd h (by decide)
  rw [decode_tf8 hw (by omega) h128, round_tapered (by simp)]
  rw [taperMag_posVal_tf8 mode u (by split <;> omega) (by split <;> omega), signed_tapered rfl _ (by split <;> omega)]
  simp only [decide_eq_true_iff]
  split
  next => show 256 - (256 - w) = w; omega
  next => rfl

/-- The magnitude that fp8 rounds to. -/
theorem round_fp8_posVal (mode : RMode) (u : Nat) (sat neg : Bool) {P : Nat} (h0 : P ≠ 0) (hP : P < 127) :
    Fmt.fp8.round mode u sat (.fin neg (Fmt.fp8.posVal P).1 (Fmt.fp8.posVal P).2) = Fmt.fp8.signed neg P := by
  have top : Fmt.fp8.maxPat = 126 := rfl
  have below : dyLe (Fmt.fp8.posVal (126 + 1)).1 (Fmt.fp8.posVal (126 + 1)).2 (Fmt.fp8.posVal P).1 (Fmt.fp8.posVal P).2 = false :=
    Bool.eq_false_iff.2 fun h => absurd ((dyLe_of_rises fp8_rises (by omega) (by omega)).1 h) (by omega)
  have found : floorPat .fp8 (Fmt.fp8.posVal P).1 (Fmt.fp8.posVal P).2 (Fmt.fp8.width - 1) 0 = P :=
    floorPat_posVal fp8_rises (by decide) (by omega) (by show P < 128; omega)
  simp only [Fmt.round, Fmt.isInt, Bool.false_eq_true, if_false, top, below, found, roundMag_posVal fp8_rises mode u h0 hP]
  rw [if_neg (by omega)]

theorem decode_fp8 {w : Nat} (hw : w < 256) (h : w % 128 ≠ 127) :
    Fmt.fp8.decode w = Ex.mk (decide (128 ≤ w)) (Fmt.fp8.posVal (w % 128)).1 (Fmt.fp8.posVal (w % 128)).2 := by
  have top : w.testBit 7 = decide (128 ≤ w) := testBit_top (n := 7) hw
  have low : w % 256 = w := Nat.mod_eq_of_lt hw
  simp only [Fmt.decode, Fmt.width, Nat.reduceSub, Nat.reducePow, low, top, if_neg h]

theorem fp8_posVal_eq_zero {P : Nat} : (Fmt.fp8.posVal P).1 = 0 ↔ P = 0 := by
  simp only [Fmt.posVal, ieeePos]
  split <;> omega

theorem round_own_fp8 (mode : RMode) (u : Nat) (sat : Bool) {w : Nat} (hw : w < 256) (h : (Fmt.fp8.decode w).isNan = false) :
    Fmt.fp8.round mode u sat (Fmt.fp8.decode w) = w := by
  have number : w % 128 ≠ 127 := by
    intro hP
    rw [show Fmt.fp8.decode w = .nan by simp [Fmt.decode, Fmt.width, Nat.mod_eq_of_lt hw, hP]] at h
    exact Bool.false_ne_true h.symm
  have signed : Fmt.fp8.signed (decide (128 ≤ w)) (w % 128) = w := by
    simp only [Fmt.signed, Fmt.isTapered, Fmt.width, decide_eq_true_iff, Bool.false_eq_true, if_false]
    split <;> omega
  rw [decode_fp8 hw number, Ex.mk]
  split
  next h0 =>
    rw [fp8_posVal_eq_zero.1 h0] at signed
    exact signed
  next h0 =>
    rw [round_fp8_posVal mode u sat _ (fun e => h0 (fp8_posVal_eq_zero.2 e)) (by omega), signed]

/-! Integers of a format round to themselves (R31, R39). -/

theorem round_int_zero {f : Fmt} (hf : f.isInt = true) (mode : RMode) (u : Nat) (sat neg : Bool) :
    f.round mode u sat (.zero neg) = 0 := by
  cases f <;> simp only [Fmt.isInt, Bool.false_eq_true] at hf <;> rfl

theorem saturate_in_range {f : Fmt} {v : Int} (hmin : f.intMin ≤ v) (hmax : v ≤ f.intMax) :
    f.saturate v = (v % 2 ^ f.width).toNat := by
  rw [Fmt.saturate, min_eq_right hmax, max_eq_right hmin]

theorem round_ofInt {f : Fmt} (hf : f.isInt = true) (mode : RMode) (u : Nat) (sat : Bool) {v : Int} (hmin : f.intMin ≤ v)
    (hmax : v ≤ f.intMax) : f.round mode u sat (Ex.ofInt v) = (v % 2 ^ f.width).toNat := by
  have sign : (if decide (v < 0) then -(v.natAbs : Int) else v.natAbs) = v := by
    simp only [decide_eq_true_iff]
    split <;> omega
  rw [Ex.ofInt, Ex.mk]
  split
  next h0 => rw [round_int_zero hf, Int.natAbs_eq_zero.1 h0]; rfl
  next => simp only [Fmt.round, hf, if_true, roundNat, Int.le_refl, Int.toNat_zero, Nat.pow_zero, Nat.mul_one, sign,
    saturate_in_range hmin hmax]

theorem round_own_i8 (mode : RMode) (u : Nat) (sat : Bool) {w : Nat} (hw : w < 256) :
    Fmt.i8.round mode u sat (Fmt.i8.decode w) = w := by
  have top : w.testBit 7 = decide (128 ≤ w) := testBit_top (n := 7) hw
  have value : Fmt.i8.decode w = Ex.ofInt (if 128 ≤ w then (w : Int) - 256 else w) := by
    simp [Fmt.decode, Fmt.width, Nat.mod_eq_of_lt hw, top]
  rw [value, round_ofInt rfl]
  · simp only [Fmt.width]
    split <;> omega
  · simp only [Fmt.intMin, Fmt.isSigned, Fmt.width, if_true]
    split <;> omega
  · simp only [Fmt.intMax, Fmt.isSigned, Fmt.width, if_true]
    split <;> omega

theorem round_own_ui8 (mode : RMode) (u : Nat) (sat : Bool) {w : Nat} (hw : w < 256) :
    Fmt.ui8.round mode u sat (Fmt.ui8.decode w) = w := by
  have value : Fmt.ui8.decode w = Ex.ofInt w := by simp [Fmt.decode, Fmt.width, Nat.mod_eq_of_lt hw]
  rw [value, round_ofInt rfl]
  · simp only [Fmt.width]
    omega
  · simp [Fmt.intMin, Fmt.isSigned]
  · simp only [Fmt.intMax, Fmt.isSigned, Fmt.width, Bool.false_eq_true, if_false]
    omega

/-- An integer is never NaN. -/
theorem ofInt_isNan (v : Int) : (Ex.ofInt v).isNan = false := by
  rw [Ex.ofInt, Ex.mk]
  split <;> rfl

theorem byteFormats_hold : byteFormats := by
  refine ⟨fun f w u mode hf hw => ?_, fun f u m mode sat neg e hf hm => ?_, fun f u mode sat neg hf => ?_⟩
  · refine ⟨fun h => ?_, fun h => ?_⟩
    · simp only [List.mem_cons, List.not_mem_nil, or_false] at hf
      rcases hf with rfl | rfl | rfl | rfl
      · exact round_own_fp8 mode u true hw h
      · exact round_own_tf8 mode u true hw h
      · exact round_own_i8 mode u true hw
      · exact round_own_ui8 mode u true hw
    · rw [eq_nan_of_isNan h, round_nan]
      simp only [List.mem_cons, List.not_mem_nil, or_false] at hf
      rcases hf with rfl | rfl | rfl | rfl
      · rfl
      · rfl
      · rfl
      · exact absurd h (by rw [Fmt.decode, ofInt_isNan]; decide)
  · obtain ⟨n, hn, t⟩ := tapers_of_mem hf
    obtain ⟨low, high⟩ := taperMag_bounds t mode u m e
    intro w size patternOf
    have hw : w = patternOf (taperMag f mode u m e) := (round_tapered hf ..).trans (signed_tapered t.tapered neg low)
    have top : f.width - 1 = n + 1 := by rw [t.width]; rfl
    rw [hw, top, ← t.maxPat]
    refine ⟨?_, fun h => by rw [taperMag_over mode u h], fun h => ?_⟩
    · simp only [patternOf, t.width]
      exact twosComplement_pattern neg low (by rw [t.maxPat] at high; omega)
    · rw [taperMag_under t hn mode u h]
  · simp only [List.mem_cons, List.not_mem_nil, or_false] at hf
    rcases hf with rfl | rfl | rfl <;> exact ⟨rfl, rfl, rfl⟩

/-! Comparisons and sums of exact values (R44, R106). -/

theorem nan_operand {x y : Ex} (h : x.isNan = true ∨ y.isNan = true) :
    x.lt y = false ∧ x.eqv y = false ∧ x.add y = .nan ∧ x.mul y = .nan := by
  rcases h with h | h
  · rw [eq_nan_of_isNan h]
    exact ⟨rfl, rfl, rfl, rfl⟩
  · rw [eq_nan_of_isNan h]
    cases x <;> exact ⟨rfl, by simp [Ex.eqv, Ex.isNan], rfl, rfl⟩

/-- The order of two numbers' values over their common exponent. -/
theorem parts_lt_asymm {a b : Int × Int}
    (h : decide (a.1 * 2 ^ (a.2 - min a.2 b.2).toNat < b.1 * 2 ^ (b.2 - min a.2 b.2).toNat) = true) :
    decide (b.1 * 2 ^ (b.2 - min b.2 a.2).toNat < a.1 * 2 ^ (a.2 - min b.2 a.2).toNat) = false := by
  rw [min_comm b.2 a.2, decide_eq_false_iff_not]
  exact not_lt.2 (of_decide_eq_true h).le

/-- Of two numbers at most one is below the other: an infinity by its sign, the others by their values. -/
theorem ex_lt_asymm {x y : Ex} (h : x.lt y = true) : y.lt x = false := by
  cases x with
  | nan => exact absurd h Bool.false_ne_true
  | inf a =>
    cases y with
    | nan => rfl
    | inf b => cases a <;> cases b <;> trivial
    | _ => exact (congrArg not h : (!a) = false)
  | zero a =>
    cases y with
    | nan => rfl
    | inf b => exact (Bool.not_eq_true' b).mp h
    | zero b => exact parts_lt_asymm (a := (Ex.zero a).parts) (b := (Ex.zero b).parts) h
    | fin b n d => exact parts_lt_asymm (a := (Ex.zero a).parts) (b := (Ex.fin b n d).parts) h
  | fin a m e =>
    cases y with
    | nan => rfl
    | inf b => exact (Bool.not_eq_true' b).mp h
    | zero b => exact parts_lt_asymm (a := (Ex.fin a m e).parts) (b := (Ex.zero b).parts) h
    | fin b n d => exact parts_lt_asymm (a := (Ex.fin a m e).parts) (b := (Ex.fin b n d).parts) h

theorem add_opposite (n : Bool) (m : Nat) (e : Int) : (Ex.fin n m e).add (.fin (!n) m e) = .zero false := by
  cases n <;> simp [Ex.add]

theorem binary32Values_hold : binary32Values := by
  refine ⟨fun x y => nan_operand, fun a b => ?_, fun a b => ⟨rfl, fun h => if_neg h⟩, fun x y h => ⟨ex_lt_asymm h, ?_⟩,
    fun n m e _ => add_opposite n m e⟩
  · cases a <;> cases b <;> decide
  · rw [Ex.eqv, h, Bool.not_true, Bool.and_false, Bool.false_and]

/-- Settles O13: the search for the lower neighbour finds a value's own pattern, and a tapered magnitude stays between minpos and
maxpos; the exact operations go by the kinds of their operands. -/
theorem floatValues : Obligations.FloatValues :=
  ⟨byteFormats_hold, binary32Values_hold⟩

end Sys2Proof.Machine
end

section
namespace Sys2Proof

/-! The fields of a word by its format (R55 to R59, R64, R65): what the decoder takes from the words that the encoder builds. -/

/-- The fields of a word of major 63. -/
theorem encPfx_fields {kind pay : Nat} (hk : kind < 4) (hp : pay < 2 ^ 24) :
    fMajor (encPfx kind pay).toNat = 63 ∧ (encPfx kind pay).toNat / 2 ^ 24 % 4 = kind ∧ (encPfx kind pay).toNat % 2 ^ 24 = pay := by
  simp only [fMajor, encPfx, BitVec.toNat_ofNat]
  omega

section
variable {maj : Nat} {p : BitVec 3} {q : BitVec 1} {parse : Nat → Option Instr} {o : Option Instr} (hm : maj < 64)
include hm

theorem parse_encR {d a b : BitVec 4} {fn : Nat} (hf : fn < 1024)
    (h : ∀ w, fMajor w = maj → fP w = p → fQ w = q → fD w = d → fA w = a → fB w = b → fFn w = fn → parse w = o) :
    parse (encR maj p q d.toNat a.toNat b.toNat fn).toNat = o := by
  obtain ⟨h1, h2, h3, h4, h5, h6, h7⟩ := encR_fields (p := p) (q := q) (d := d) (a := a) (b := b) hm hf
  exact h _ h1 h2 h3 h4 h5 h6 h7

/-- A word of R format whose function value has 8 bits and a field of 2 bits above them (R68). -/
theorem parse_encR_mode {d a b : BitVec 4} {m : BitVec 2} {fn : Nat} (hf : fn < 256)
    (h : ∀ w, fMajor w = maj → fP w = p → fQ w = q → fD w = d → fA w = a → fB w = b → fRm w = m → w % 2 ^ 8 = fn → parse w = o) :
    parse (encR maj p q d.toNat a.toNat b.toNat (m.toNat * 2 ^ 8 + fn)).toNat = o := by
  have := m.isLt
  refine parse_encR hm (by omega) fun w h1 h2 h3 h4 h5 h6 h7 => h w h1 h2 h3 h4 h5 h6 (ofNat_of _ _ _ ?_) ?_ <;>
    (simp only [fFn] at h7; omega)

/-- A word of R format whose function value has 8 bits, with none above them. -/
theorem parse_encR_modeless {d a b : BitVec 4} {fn : Nat} (hf : fn < 256)
    (h : ∀ w, fMajor w = maj → fP w = p → fQ w = q → fD w = d → fA w = a → fB w = b → w % 2 ^ 8 = fn → parse w = o) :
    parse (encR maj p q d.toNat a.toNat b.toNat fn).toNat = o :=
  parse_encR hm (by omega) fun w h1 h2 h3 h4 h5 h6 h7 => h w h1 h2 h3 h4 h5 h6 (by simp only [fFn] at h7; omega)

/-- A word of R format with one field of any kind at each place. -/
theorem parse_encR_places {d a b fn : Nat} (hd : d < 16) (ha : a < 16) (hb : b < 16) (hf : fn < 1024)
    (h : ∀ w, fMajor w = maj → fP w = p → fQ w = q → w / 2 ^ 18 % 16 = d → w / 2 ^ 14 % 16 = a → w / 2 ^ 10 % 16 = b →
      w % 2 ^ 10 = fn → parse w = o) :
    parse (encR maj p q d a b fn).toNat = o := by
  have := p.isLt; have := q.isLt
  refine h _ ?_ (ofNat_of _ _ _ ?_) (ofNat_of _ _ _ ?_) ?_ ?_ ?_ ?_ <;>
    simp only [fMajor, encR_nat hm hd ha hb hf] <;> omega

/-- A compare's word of R format: PD and AND stand at D (R56). -/
theorem parse_encR_cmp {pd : BitVec 3} {c : BitVec 1} {a b : BitVec 4} {fn : Nat} (hf : fn < 1024)
    (h : ∀ w, fMajor w = maj → fP w = p → fQ w = q → fPd w = pd → fAnd w = c → fA w = a → fB w = b → fFn w = fn → parse w = o) :
    parse (encR maj p q (pd.toNat * 2 + c.toNat) a.toNat b.toNat fn).toNat = o := by
  have := pd.isLt; have := c.isLt
  exact parse_encR_places hm (by omega) a.isLt b.isLt hf fun w h1 h2 h3 h4 h5 h6 h7 =>
    h w h1 h2 h3 (ofNat_of _ _ _ (by omega)) (ofNat_of _ _ _ (by omega)) (ofNat_of _ _ _ h5) (ofNat_of _ _ _ h6) h7

theorem parse_encI {d a : BitVec 4} {imm : BitVec 14}
    (h : ∀ w, fMajor w = maj → fP w = p → fQ w = q → fD w = d → fA w = a → fImm14 w = imm → parse w = o) :
    parse (encI maj p q d.toNat a.toNat imm.toNat).toNat = o := by
  obtain ⟨h1, h2, h3, h4, h5, h6⟩ := encI_fields (p := p) (q := q) (d := d) (a := a) (imm := imm) hm
  exact h _ h1 h2 h3 h4 h5 h6

/-- A word of I format with one field of any kind at each place. -/
theorem parse_encI_places {d a imm : Nat} (hd : d < 16) (ha : a < 16) (hi : imm < 2 ^ 14)
    (h : ∀ w, fMajor w = maj → fP w = p → fQ w = q → w / 2 ^ 18 % 16 = d → w / 2 ^ 14 % 16 = a → w % 2 ^ 14 = imm → parse w = o) :
    parse (encI maj p q d a imm).toNat = o := by
  have := p.isLt; have := q.isLt
  refine h _ ?_ (ofNat_of _ _ _ ?_) (ofNat_of _ _ _ ?_) ?_ ?_ ?_ <;>
    simp only [fMajor, encI_nat hm hd ha hi] <;> omega

/-- A word of I format whose immediate is a number. -/
theorem parse_encI_low {d a : BitVec 4} {imm : Nat} (hi : imm < 2 ^ 14)
    (h : ∀ w, fMajor w = maj → fP w = p → fQ w = q → fD w = d → fA w = a → w % 2 ^ 14 = imm → parse w = o) :
    parse (encI maj p q d.toNat a.toNat imm).toNat = o :=
  parse_encI_places hm d.isLt a.isLt hi fun w h1 h2 h3 h4 h5 h6 => h w h1 h2 h3 (ofNat_of _ _ _ h4) (ofNat_of _ _ _ h5) h6

/-- A shift by an immediate: KIND stands above the amount (R58). -/
theorem parse_encI_shift {d a : BitVec 4} {kind : Nat} {n : BitVec 6} (hk : kind < 4)
    (h : ∀ w, fMajor w = maj → fP w = p → fQ w = q → fD w = d → fA w = a → w / 2 ^ 12 % 4 = kind → BitVec.ofNat 6 w = n →
    parse w = o) :
    parse (encI maj p q d.toNat a.toNat (kind * 2 ^ 12 + n.toNat)).toNat = o := by
  have := n.isLt
  exact parse_encI_places hm d.isLt a.isLt (by omega) fun w h1 h2 h3 h4 h5 h6 =>
    h w h1 h2 h3 (ofNat_of _ _ _ h4) (ofNat_of _ _ _ h5) (by omega) (ofNat_of _ _ _ (by omega))

/-- A compare's word of I format (R56). -/
theorem parse_encI_cmp {pd : BitVec 3} {c : BitVec 1} {a : BitVec 4} {imm : Nat} (hi : imm < 2 ^ 14)
    (h : ∀ w, fMajor w = maj → fP w = p → fQ w = q → fPd w = pd → fAnd w = c → fA w = a → w % 2 ^ 14 = imm → parse w = o) :
    parse (encI maj p q (pd.toNat * 2 + c.toNat) a.toNat imm).toNat = o := by
  have := pd.isLt; have := c.isLt
  exact parse_encI_places hm (by omega) a.isLt hi fun w h1 h2 h3 h4 h5 h6 =>
    h w h1 h2 h3 (ofNat_of _ _ _ (by omega)) (ofNat_of _ _ _ (by omega)) (ofNat_of _ _ _ h5) h6

theorem parse_encJ {off : BitVec 22} (h : ∀ w, fMajor w = maj → fP w = p → fQ w = q → BitVec.ofNat 22 w = off → parse w = o) :
    parse (encJ maj p q off.toNat).toNat = o := by
  have := p.isLt; have := q.isLt; have := off.isLt
  refine h _ ?_ (ofNat_of _ _ _ ?_) (ofNat_of _ _ _ ?_) (ofNat_of _ _ _ ?_) <;>
    simp only [fMajor, encJ_nat hm off.isLt] <;> omega

theorem parse_encV {d a b : BitVec 5} {m : BitVec 2} {sat : BitVec 1} {fn : Nat} (hf : fn < 16)
    (h : ∀ w, fMajor w = maj → fP w = p → fQ w = q → fHd w = d → fHa w = a → fHb w = b → BitVec.ofNat 2 (w / 2 ^ 5) = m →
    fSat w = sat →
      w % 2 ^ 4 = fn → parse w = o) :
    parse (encV maj p q d.toNat a.toNat b.toNat m.toNat sat.toNat fn).toNat = o := by
  obtain ⟨h1, h2, h3, h4, h5, h6, h7⟩ := encV_fields (p := p) (q := q) (d := d) (a := a) (b := b) (m := m) (sat := sat) hm hf
  have := m.isLt; have := sat.isLt
  refine h _ h1 h2 h3 h4 h5 h6 (ofNat_of _ _ _ ?_) h7 ?_ <;> rw [encV_nat hm d.isLt a.isLt b.isLt m.isLt sat.isLt hf] <;> omega

theorem parse_encM {acc ra rb : BitVec 3} {k : BitVec 4} {mf : BitVec 9}
    (h : ∀ w, fMajor w = maj → fP w = p → fQ w = q → fAcc w = acc → BitVec.ofNat 3 (w / 2 ^ 16) = ra →
    BitVec.ofNat 3 (w / 2 ^ 13) = rb →
      BitVec.ofNat 4 (w / 2 ^ 9) = k → BitVec.ofNat 9 w = mf → parse w = o) :
    parse (encM maj p q acc.toNat ra.toNat rb.toNat k.toNat mf.toNat).toNat = o := by
  have := p.isLt; have := q.isLt; have := acc.isLt; have := ra.isLt; have := rb.isLt; have := k.isLt; have := mf.isLt
  refine h _ ?_ (ofNat_of _ _ _ ?_) (ofNat_of _ _ _ ?_) (ofNat_of _ _ _ ?_) (ofNat_of _ _ _ ?_) (ofNat_of _ _ _ ?_)
    (ofNat_of _ _ _ ?_)
    (ofNat_of _ _ _ ?_) <;>
    simp only [fMajor, encM_nat hm acc.isLt ra.isLt rb.isLt k.isLt mf.isLt] <;> omega

end

end Sys2Proof
end

section
namespace Sys2Proof

/-! What the decoder makes of a word is a term that a word names, and its predicate field is the word's (R53, R67). -/

section
variable {pay w : Nat} {i : Instr}

/-- A predicate field without meaning is PS = 0 with PN = 1 (R53). -/
theorem predOk_not {p : BitVec 3} {q : BitVec 1} (h : ¬ predOk p q = true) : p = 0 ∧ q = 1 := by
  simpa only [predOk, Bool.not_eq_true', Bool.not_eq_false, Bool.and_eq_true, beq_iff_eq] using h

theorem parseWord_names : parseWord w = some i → i.isWord = true ∧ (i.wf = true → predOk (fP w) (fQ w) = true) := by
  unfold parseWord parseInt parseCmp parsePred parseFp parseSync parseAtom parseSeal parseWork parseSys parseWrsr parseVfp parseVsfu
    parseVint parseVmov parseVred parseVsel parseVseq parseAcc parseCpy parseThin parseFab parsePort parseBits parseSvc parseDbg
    parseShi parseJump
  generalize fP w = p, fQ w = q
  split
  all_goals try split
  all_goals rintro ⟨⟩
  all_goals refine ⟨rfl, fun h => by_contra fun hp => ?_⟩
  all_goals obtain ⟨rfl, rfl⟩ := predOk_not hp
  all_goals exact Bool.false_ne_true h

theorem parseWide_names : parseWide pay w = some i → i.isWord = true ∧ (i.wf = true → predOk (fP w) (fQ w) = true) := by
  unfold parseWide
  generalize fP w = p, fQ w = q
  split
  all_goals rintro ⟨⟩
  all_goals refine ⟨rfl, fun h => by_contra fun hp => ?_⟩
  all_goals obtain ⟨rfl, rfl⟩ := predOk_not hp
  all_goals exact Bool.false_ne_true h

theorem parseRelaxed_names : parseRelaxed w = some i → i.isWord = true ∧ (i.wf = true → predOk (fP w) (fQ w) = true) := by
  unfold parseRelaxed
  generalize fP w = p, fQ w = q
  split
  all_goals rintro ⟨⟩
  all_goals refine ⟨rfl, fun h => by_contra fun hp => ?_⟩
  all_goals obtain ⟨rfl, rfl⟩ := predOk_not hp
  all_goals exact Bool.false_ne_true h

end

/-- The words of an instruction are parsed to it: one word, or the second of a pair of either kind (R64, R65). -/
inductive Parses (i : Instr) : Prop
  | word (he : encode i = [wordOf i]) (hp : parseWord (wordOf i).toNat = some i)
  | wide {pay : Nat} (hpay : pay < 2 ^ 24) (he : encode i = [encPfx 0 pay, wordOf i]) (hp : parseWide pay (wordOf i).toNat = some i)
  | relaxed (he : encode i = [encPfx 1 0, wordOf i]) (hp : parseRelaxed (wordOf i).toNat = some i)

theorem sysPlainWrite_cases {n : Nat} (h : sysPlainWrite n = true) :
    n = 0 ∨ n = 1 ∨ n = 2 ∨ n = 3 ∨ n = 0x44 ∨ n = 0x81 ∨ n = 0x87 ∨ n = 0x88 := by
  simp only [sysPlainWrite, Bool.or_eq_true, decide_eq_true_eq, beq_iff_eq] at h; omega

theorem sysVectorState_cases {n : Nat} (h : sysVectorState n = true) : n = 4 ∨ n = 5 ∨ n = 6 := by
  simp only [sysVectorState, Bool.or_eq_true, beq_iff_eq] at h; omega

theorem sysLogRing_cases {n : Nat} (h : sysLogRing n = true) : n = 0x82 ∨ n = 0x83 := by
  simpa only [sysLogRing, Bool.or_eq_true, beq_iff_eq] using h

theorem payload_lt (imm : BitVec 38) : imm.toNat / 2 ^ 14 < 2 ^ 24 := by have := imm.isLt; omega

theorem payload_join {imm : BitVec 38} {v : Nat} (h : v = imm.toNat % 2 ^ 14) :
    BitVec.ofNat 38 (imm.toNat / 2 ^ 14 * 2 ^ 14 + v) = imm := by
  rw [h, Nat.div_add_mod']; exact BitVec.ofNat_toNat ..

theorem parses_of_wf {i : Instr} (h : i.isWord = true) (hwf : i.wf = true) : Parses i := by
  cases i with
  | add p q d a b | sub p q d a b | and p q d a b | or p q d a b | xor p q d a b | andn p q d a b | orn p q d a b | sll p q d a b
  | srl p q d a b | sra p q d a b | rol p q d a b | ror p q d a b | mul p q d a b | mulh p q d a b | mulhu p q d a b | div p q d a b
  | divu p q d a b | rem p q d a b | remu p q d a b | min p q d a b | max p q d a b | minu p q d a b | maxu p q d a b | bfx p q d a b
  | bfi p q d a b | spawn p q d a b | waitc p q d a b | cpy p q d a b | cpyd p q d a b | cpyf p q d a b | thin p q d a b
  | mref p q d a b | mrel p q d a b | gred p q d a b | gldr p q d a b | gmc p q d a b | gsetSet p q d a b | hwalk p q d a b
  | hotr p q d a b | pgmv p q d a b =>
    refine .word rfl (parse_encR (b := b) (by decide) (by decide) ?_)
    rintro w hm rfl rfl rfl rfl rfl hf
    unfold parseWord parseInt parseWork parseCpy parseThin parseFab parseSvc
    rw [hm, hf]
    rfl
  | clz p q d a | ctz p q d a | popc p q d a | brev p q d a | sextb p q d a | sexth p q d a | sextw p q d a | zextb p q d a
  | zexth p q d a | zextw p q d a | jalr p q d a | ldf p q d a | ldfe p q d a | ste p q d a | stf p q d a | fstat p q d a
  | sealq p q d a | cpyq p q d a | mver p q d a | gq p q d a | bget p q d a | bpeek p q d a | bexp p q d a | hins p q d a
  | hdel p q d a | snap p q d a =>
    refine .word rfl (parse_encR (a := a) (b := 0) (by decide) (by decide) ?_)
    rintro w hm rfl rfl rfl rfl _ hf
    unfold parseWord parseInt parseJump parseSync parseSeal parseCpy parseThin parseFab parseBits parseSvc parseDbg
    rw [hm, hf]
    rfl
  | sealPages p q a b | unsealPages p q a b | jinit p q a b | send p q a b | cset p q a b | bar p q a b | logm p q a b | bput p q a b
  | tlbi p q a b | bpset p q a b =>
    refine .word rfl (parse_encR (d := 0) (b := b) (by decide) (by decide) ?_)
    rintro w hm rfl rfl _ rfl rfl hf
    unfold parseWord parseSeal parseWork parseSys parseBits parseSvc parseDbg
    rw [hm, hf]
    rfl
  | pput p q a | jr p q a | fclr p q a | fset p q a | join p q a | yield p q a | migrate p q a | trap p q a | halt p q a | bskip p q a
  | bpclr p q a | tstart p q a =>
    refine .word rfl (parse_encR (d := 0) (a := a) (b := 0) (by decide) (by decide) ?_)
    rintro w hm rfl rfl _ rfl _ hf
    unfold parseWord parsePred parseJump parseSync parseWork parseSys parseBits parseDbg
    rw [hm, hf]
    rfl
  | pget p q d | tsr p q d | rng p q d | waitm p q d | bflush p q d | bhdr p q d | bsync p q d =>
    refine .word rfl (parse_encR (d := d) (a := 0) (b := 0) (by decide) (by decide) ?_)
    rintro w hm rfl rfl rfl _ _ hf
    unfold parseWord parsePred parseWork parseSys parseBits
    rw [hm, hf]
    rfl
  | exit p q | eret p q | brk p q | nop p q | tstop p q =>
    refine .word rfl (parse_encR (d := 0) (a := 0) (b := 0) (by decide) (by decide) ?_)
    rintro w hm rfl rfl _ _ _ hf
    unfold parseWord parseWork parseSys parseDbg
    rw [hm, hf]
    rfl
  | fence p q sc =>
    refine .word rfl (parse_encR (d := 0) (a := 0) (b := sc) (by decide) (by decide) ?_)
    rintro w hm rfl rfl _ _ rfl hf
    unfold parseWord parseWork
    rw [hm, hf]
    rfl
  | fadd p q d a b m | fsub p q d a b m | fmul p q d a b m | fdiv p q d a b m | fmadd p q d a b m | aadd p q d a b m | aand p q d a b m
  | aor p q d a b m | axor p q d a b m | amin p q d a b m | amax p q d a b m | aminu p q d a b m | amaxu p q d a b m | aswp p q d a b m
  | acas p q d a b m =>
    refine .word rfl (parse_encR_mode (b := b) (m := m) (by decide) (by decide) ?_)
    rintro w hm rfl rfl rfl rfl rfl rfl hf
    unfold parseWord parseFp parseAtom
    rw [hm, hf]
    rfl
  | fmin p q d a b | fmax p q d a b | afadd p q d a b =>
    refine .word rfl (parse_encR_modeless (b := b) (by decide) (by decide) ?_)
    rintro w hm rfl rfl rfl rfl rfl hf
    unfold parseWord parseFp parseAtom
    rw [hm, hf]
    rfl
  | fsqrt p q d a m =>
    refine .word rfl (parse_encR_mode (a := a) (b := 0) (m := m) (by decide) (by decide) ?_)
    rintro w hm rfl rfl rfl rfl _ rfl hf
    unfold parseWord parseFp
    rw [hm, hf]
    rfl
  | fabs p q d a | fneg p q d a =>
    refine .word rfl (parse_encR_modeless (a := a) (b := 0) (by decide) (by decide) ?_)
    rintro w hm rfl rfl rfl rfl _ hf
    unfold parseWord parseFp
    rw [hm, hf]
    rfl
  | cvt p q d a m dst src =>
    have := m.isLt; have := dst.isLt; have := src.isLt
    refine .word rfl (parse_encR (a := a) (b := 0) (by decide) (by omega) ?_)
    rintro w hm rfl rfl rfl rfl _ hf
    simp only [fFn] at hf
    obtain rfl : fRm w = m := ofNat_of _ _ _ (by omega)
    obtain rfl : BitVec.ofNat 4 (w / 2 ^ 4) = dst := ofNat_of _ _ _ (by omega)
    obtain rfl : BitVec.ofNat 4 w = src := ofNat_of _ _ _ (by omega)
    unfold parseWord
    rw [hm]
    rfl
  | eq p q pd c a b | ne p q pd c a b | lt p q pd c a b | ge p q pd c a b | ltu p q pd c a b | geu p q pd c a b | feq p q pd c a b
  | fne p q pd c a b | flt p q pd c a b | fle p q pd c a b | funord p q pd c a b =>
    refine .word rfl (parse_encR_cmp (b := b) (by decide) (by decide) ?_)
    rintro w hm rfl rfl rfl rfl rfl rfl hf
    unfold parseWord parseCmp
    rw [hm, hf]
    rfl
  | pand p q pd pa pb | por p q pd pa pb | pxor p q pd pa pb | pandn p q pd pa pb =>
    have := pd.isLt; have := pa.isLt; have := pb.isLt
    refine .word rfl (parse_encR_places (by decide) (by omega) (by omega) (by omega) (by decide) ?_)
    rintro w hm rfl rfl hd ha hb hf
    obtain rfl : BitVec.ofNat 3 (w / 2 ^ 18) = pd := ofNat_of _ _ _ (by omega)
    obtain rfl : BitVec.ofNat 3 (w / 2 ^ 14) = pa := ofNat_of _ _ _ (by omega)
    obtain rfl : BitVec.ofNat 3 (w / 2 ^ 10) = pb := ofNat_of _ _ _ (by omega)
    unfold parseWord parsePred fFn
    rw [hm, hf]
    rfl
  | accz p q t | sfree p q t =>
    have := t.isLt
    refine .word rfl (parse_encR_places (by decide) (by omega) (by decide) (by decide) (by decide) ?_)
    rintro w hm rfl rfl hd _ _ hf
    obtain rfl : BitVec.ofNat _ (w / 2 ^ 18) = t := ofNat_of _ _ _ (by omega)
    unfold parseWord parseAcc parsePort fFn
    rw [hm, hf]
    rfl
  | accrd p q t a b | accwr p q t a b =>
    have := t.isLt
    refine .word rfl (parse_encR_places (by decide) (by omega) a.isLt b.isLt (by decide) ?_)
    rintro w hm rfl rfl hd ha hb hf
    obtain rfl : BitVec.ofNat 3 (w / 2 ^ 18) = t := ofNat_of _ _ _ (by omega)
    obtain rfl : fA w = a := ofNat_of _ _ _ ha
    obtain rfl : fB w = b := ofNat_of _ _ _ hb
    unfold parseWord parseAcc fFn
    rw [hm, hf]
    rfl
  | ringset p q t a | sbind p q t a =>
    have := t.isLt
    refine .word rfl (parse_encR_places (by decide) (by omega) a.isLt (by decide) (by decide) ?_)
    rintro w hm rfl rfl hd ha _ hf
    obtain rfl : BitVec.ofNat _ (w / 2 ^ 18) = t := ofNat_of _ _ _ (by omega)
    obtain rfl : fA w = a := ofNat_of _ _ _ ha
    unfold parseWord parseAcc parsePort fFn
    rw [hm, hf]
    rfl
  | ringst p q t b =>
    have := t.isLt
    refine .word rfl (parse_encR_places (by decide) (by omega) (by decide) b.isLt (by decide) ?_)
    rintro w hm rfl rfl hd _ hb hf
    obtain rfl : BitVec.ofNat 3 (w / 2 ^ 18) = t := ofNat_of _ _ _ (by omega)
    obtain rfl : fB w = b := ofNat_of _ _ _ hb
    unfold parseWord parseAcc fFn
    rw [hm, hf]
    rfl
  | mpget p q d t | xstat p q d t =>
    have := t.isLt
    refine .word rfl (parse_encR_places (by decide) d.isLt (by omega) (by decide) (by decide) ?_)
    rintro w hm rfl rfl hd ha _ hf
    obtain rfl : fD w = d := ofNat_of _ _ _ hd
    obtain rfl : BitVec.ofNat _ (w / 2 ^ 14) = t := ofNat_of _ _ _ (by omega)
    unfold parseWord parseAcc parsePort fFn
    rw [hm, hf]
    rfl
  | addi p q d a imm | andi p q d a imm | ori p q d a imm | xori p q d a imm | ldb p q d a imm | ldbu p q d a imm | ldh p q d a imm
  | ldhu p q d a imm | ldw p q d a imm | ldwu p q d a imm | ldd p q d a imm | stb p q d a imm | sth p q d a imm | stw p q d a imm
  | std p q d a imm =>
    refine .word rfl (parse_encI (imm := imm) (by decide) ?_)
    rintro w hm rfl rfl rfl rfl rfl
    unfold parseWord
    rw [hm]
    rfl
  | li p q d imm | lih p q d imm | rdsr p q d imm =>
    refine .word rfl (parse_encI (a := 0) (imm := imm) (by decide) ?_)
    rintro w hm rfl rfl rfl _ rfl
    unfold parseWord
    rw [hm]
    rfl
  | slli p q d a n | srli p q d a n | srai p q d a n =>
    refine .word rfl (parse_encI_shift (a := a) (n := n) (by decide) (by decide) ?_)
    rintro w hm rfl rfl rfl rfl hk rfl
    unfold parseWord parseShi
    rw [hm, hk]
    rfl
  | cmpeqi p q pd c a imm | cmplti p q pd c a imm | cmpltui p q pd c a imm =>
    refine .word rfl (parse_encI_cmp (a := a) (by decide) imm.isLt ?_)
    rintro w hm rfl rfl rfl rfl rfl hi
    obtain rfl : fImm14 w = imm := ofNat_of _ _ _ hi
    unfold parseWord
    rw [hm]
    rfl
  | wrsr p q a sys =>
    refine .word rfl (parse_encI_low (d := 0) (a := a) (by decide) sys.isLt ?_)
    rintro w hm rfl rfl _ rfl hi
    obtain rfl : fImm14 w = sys := ofNat_of _ _ _ hi
    unfold parseWord parseWrsr
    rw [hm, hi]
    rcases sysPlainWrite_cases (Bool.and_eq_true_iff.1 hwf).2 with hs | hs | hs | hs | hs | hs | hs | hs <;> rw [hs] <;> rfl
  | wrsrVectorState p q a sys =>
    refine .word rfl (parse_encI_low (d := 0) (a := a) (by decide) sys.isLt ?_)
    rintro w hm rfl rfl _ rfl hi
    obtain rfl : fImm14 w = sys := ofNat_of _ _ _ hi
    unfold parseWord parseWrsr
    rw [hm, hi]
    rcases sysVectorState_cases (Bool.and_eq_true_iff.1 hwf).2 with hs | hs | hs <;> rw [hs] <;> rfl
  | wrsrLogRing p q a sys =>
    refine .word rfl (parse_encI_low (d := 0) (a := a) (by decide) sys.isLt ?_)
    rintro w hm rfl rfl _ rfl hi
    obtain rfl : fImm14 w = sys := ofNat_of _ _ _ hi
    unfold parseWord parseWrsr
    rw [hm, hi]
    rcases sysLogRing_cases (Bool.and_eq_true_iff.1 hwf).2 with hs | hs <;> rw [hs] <;> rfl
  | wrsrSegbase p q a | wrsrRotmode p q a | wrsrDonord p q a | wrsrSlottab p q a | wrsrAcct p q a | wrsrLogcons p q a | wrsrReplay p q a =>
    refine .word rfl (parse_encI_low (d := 0) (a := a) (by decide) (by decide) ?_)
    rintro w hm rfl rfl _ rfl hi
    unfold parseWord parseWrsr
    rw [hm, hi]
    rfl
  | br p q off | jal p q off =>
    refine .word rfl (parse_encJ (by decide) ?_)
    rintro w hm rfl rfl rfl
    unfold parseWord
    rw [hm]
    rfl
  | vadd p q d a b m s | vsub p q d a b m s | vmul p q d a b m s | vfma p q d a b m s | vmin p q d a b m s | vmax p q d a b m s
  | vscale p q d a b m s | vclip p q d a b m s | vdot p q d a b m s =>
    refine .word rfl (parse_encV (by decide) (by decide) ?_)
    rintro w hm rfl rfl rfl rfl rfl rfl rfl hf
    unfold parseWord parseVfp parseVred
    rw [hm, hf]
    rfl
  | vabs p q d a m s | vneg p q d a m s | vexp p q d a m s | vlog p q d a m s | vrcp p q d a m s | vrsqrt p q d a m s | vtanh p q d a m s
  | vsigm p q d a m s | vsilu p q d a m s | verf p q d a m s | vfill p q d a m s | vcvt p q d a m s | vsum p q d a m s
  | vmaxr p q d a m s | vminr p q d a m s =>
    refine .word rfl (parse_encV (b := 0) (m := m) (sat := s) (by decide) (by decide) ?_)
    rintro w hm rfl rfl rfl rfl _ rfl rfl hf
    unfold parseWord parseVfp parseVsfu parseVmov parseVred
    rw [hm, hf]
    rfl
  | viadd p q d a b s | visub p q d a b s | vimul p q d a b s | vimac p q d a b s | vand p q d a b s | vor p q d a b s | vxor p q d a b s
  | vshl p q d a b s | vshr p q d a b s | vrsh p q d a b s | vclampi p q d a b s =>
    refine .word rfl (parse_encV (b := b) (m := 0) (sat := s) (by decide) (by decide) ?_)
    rintro w hm rfl rfl rfl rfl rfl _ rfl hf
    unfold parseWord parseVint
    rw [hm, hf]
    rfl
  | vgath p q d a b | vscat p q d a b | vsel p q d a b | vcmp p q d a b | vselk p q d a b | vmrg p q d a b =>
    refine .word rfl (parse_encV (b := b) (m := 0) (sat := 0) (by decide) (by decide) ?_)
    rintro w hm rfl rfl rfl rfl rfl _ _ hf
    unfold parseWord parseVmov parseVsel
    rw [hm, hf]
    rfl
  | vcopy p q d a | vhist p q d a | vcnt p q d a | vloop p q d a =>
    refine .word rfl (parse_encV (a := a) (b := 0) (m := 0) (sat := 0) (by decide) (by decide) ?_)
    rintro w hm rfl rfl rfl rfl _ _ _ hf
    unfold parseWord parseVmov parseVsel parseVseq
    rw [hm, hf]
    rfl
  | vend p q | vwait p q =>
    refine .word rfl (parse_encV (d := 0) (a := 0) (b := 0) (m := 0) (sat := 0) (by decide) (by decide) ?_)
    rintro w hm rfl rfl _ _ _ _ _ hf
    unfold parseWord parseVseq
    rw [hm, hf]
    rfl
  | mma p q acc ra rb k mf | mms p q acc ra rb k mf | mmx p q acc ra rb k mf | mmg p q acc ra rb k mf =>
    refine .word rfl (parse_encM (by decide) ?_)
    rintro w hm rfl rfl rfl rfl rfl rfl rfl
    unfold parseWord
    rw [hm]
    rfl
  | addiI38 p q d a imm | andiI38 p q d a imm | oriI38 p q d a imm | xoriI38 p q d a imm | ldbI38 p q d a imm | ldbuI38 p q d a imm
  | ldhI38 p q d a imm | ldhuI38 p q d a imm | ldwI38 p q d a imm | ldwuI38 p q d a imm | lddI38 p q d a imm | stbI38 p q d a imm
  | sthI38 p q d a imm | stwI38 p q d a imm | stdI38 p q d a imm =>
    refine .wide (payload_lt imm) rfl (parse_encI_low (a := a) (by decide) (Nat.mod_lt _ (by decide)) ?_)
    rintro w hm rfl rfl rfl rfl hi
    unfold parseWide
    rw [hm, payload_join hi]
    rfl
  | liI38 p q d imm | lihI38 p q d imm =>
    refine .wide (payload_lt imm) rfl (parse_encI_low (d := d) (a := 0) (by decide) (Nat.mod_lt _ (by decide)) ?_)
    rintro w hm rfl rfl rfl _ hi
    unfold parseWide
    rw [hm, payload_join hi]
    rfl
  | cmpeqiI38 p q pd c a imm | cmpltiI38 p q pd c a imm | cmpltuiI38 p q pd c a imm =>
    refine .wide (payload_lt imm) rfl (parse_encI_cmp (a := a) (by decide) (Nat.mod_lt _ (by decide)) ?_)
    rintro w hm rfl rfl rfl rfl rfl hi
    unfold parseWide
    rw [hm, payload_join hi]
    rfl
  | ldbRlx p q d a imm | ldbuRlx p q d a imm | ldhRlx p q d a imm | ldhuRlx p q d a imm | ldwRlx p q d a imm | ldwuRlx p q d a imm
  | lddRlx p q d a imm | stbRlx p q d a imm | sthRlx p q d a imm | stwRlx p q d a imm | stdRlx p q d a imm =>
    refine .relaxed rfl (parse_encI (imm := imm) (by decide) ?_)
    rintro w hm rfl rfl rfl rfl rfl
    unfold parseRelaxed
    rw [hm]
    rfl
  | _ => exact absurd h Bool.false_ne_true

end Sys2Proof
end

section
namespace Sys2Proof

/-! The checks of the decoder between the fields and the term (R70 steps 2 to 6). -/

section
variable {i : Instr}

/-- Majors that no word alone has: the reserved ones, those of absent extensions, and 63 (R67, R70). -/
theorem parseWord_major {w : Nat} (h : parseWord w = some i) :
    fMajor w ≠ 63 ∧ ¬ (37 ≤ fMajor w ∧ fMajor w ≤ 39) ∧
      ¬ (fMajor w = 0 ∨ fMajor w = 47 ∨ fMajor w = 53 ∨ fMajor w = 61 ∨ fMajor w = 62) := by
  have none_of {m : Nat} (e : fMajor w = m) (hm : m ∈ [0, 37, 38, 39, 47, 53, 61, 62, 63]) : False := by
    unfold parseWord at h
    rw [e] at h
    simp only [List.mem_cons, List.not_mem_nil, or_false] at hm
    rcases hm with rfl | rfl | rfl | rfl | rfl | rfl | rfl | rfl | rfl <;> cases h
  refine ⟨fun e => none_of e (by decide), fun ⟨e1, e2⟩ => ?_, ?_⟩
  · have : fMajor w = 37 ∨ fMajor w = 38 ∨ fMajor w = 39 := by omega
    rcases this with e | e | e <;> exact none_of e (by decide)
  · rintro (e | e | e | e | e) <;> exact none_of e (by decide)

theorem parseWide_major {pay w : Nat} (h : parseWide pay w = some i) : wideMajor (fMajor w) = true := by
  unfold parseWide at h
  split at h <;> cases h <;> rename_i e <;> rw [e] <;> rfl

theorem parseRelaxed_major {w : Nat} (h : parseRelaxed w = some i) : 20 ≤ fMajor w ∧ fMajor w ≤ 30 := by
  unfold parseRelaxed at h
  split at h <;> cases h <;> omega

/-- No major of a memory or immediate instruction is one of an absent extension. -/
theorem wideMajor_le {m : Nat} (h : wideMajor m = true) : m ≤ 30 := by
  simp only [wideMajor, Bool.or_eq_true, Bool.and_eq_true, decide_eq_true_eq, beq_iff_eq] at h; omega

theorem predicateReject_none {w : Nat} (hp : predOk (fP w) (fQ w) = true) (hm : ¬ (37 ≤ fMajor w ∧ fMajor w ≤ 39)) :
    predicateReject w = none := by
  have hq : w / 2 ^ 22 % 16 ≠ 1 := fun e => by
    have h1 : fP w = 0 := ofNat_of _ _ _ (by show _ = 0; omega)
    have h2 : fQ w = 1 := ofNat_of _ _ _ (by show _ = 1; omega)
    rw [h1, h2] at hp
    exact Bool.false_ne_true hp
  rw [predicateReject, if_neg hq, if_neg hm]

theorem accepted_ok {ws : List Word32} (hwf : i.wf = true) (he : encode i = ws) : accepted ws (some i) = .ok i := by
  simp only [accepted, hwf, he, beq_self_eq_true, Bool.and_self, if_true]

theorem accepted_inv {ws : List Word32} {o : Option Instr} (h : accepted ws o = .ok i) :
    o = some i ∧ i.wf = true ∧ encode i = ws := by
  unfold accepted at h
  split at h
  · split at h
    · rename_i hc
      cases h
      rw [Bool.and_eq_true, beq_iff_eq] at hc
      exact ⟨rfl, hc⟩
    · cases h
  · cases h

theorem ofNat_word (w : Word32) : BitVec.ofNat 32 w.toNat = w := by rw [BitVec.ofNat_toNat, BitVec.setWidth_eq]

/-! Words and bytes (R22). -/

theorem leBytes_leNat (l : List Byte) : leBytes l.length (leNat l) = l := by
  induction l with
  | nil => rfl
  | cons b r ih =>
    have hb := b.isLt
    have h : (b.toNat + 256 * leNat r) / 256 = leNat r := by omega
    rw [List.length_cons, leNat, leBytes, h, ih]
    congr 1
    exact ofNat_of _ _ _ (by omega)

theorem leNat_lt (l : List Byte) : leNat l < 256 ^ l.length := by
  induction l with
  | nil => decide
  | cons b r ih =>
    have hb := b.isLt
    rw [List.length_cons, leNat, pow_succ]
    omega

/-- The bytes of the word that four bytes are. -/
theorem leBytes_word (b0 b1 b2 b3 : Byte) : leBytes 4 (BitVec.ofNat 32 (leNat [b0, b1, b2, b3])).toNat = [b0, b1, b2, b3] := by
  rw [BitVec.toNat_ofNat, Nat.mod_eq_of_lt ((leNat_lt _).trans_eq (by norm_num))]
  exact leBytes_leNat [b0, b1, b2, b3]

theorem encodeBytes_word {w : Word32} (he : encode i = [w]) : encodeBytes i = leBytes 4 w.toNat := by
  rw [encodeBytes, he]; exact List.append_nil _

theorem encodeBytes_pair {v w : Word32} (he : encode i = [v, w]) : encodeBytes i = leBytes 4 v.toNat ++ leBytes 4 w.toNat := by
  rw [encodeBytes, he]; exact congrArg _ (List.append_nil _)

/-! The decoder on an instruction's words. -/

theorem decodeWord_ok {w : Word32} (hwf : i.wf = true) (he : encode i = [w]) (hp : parseWord w.toNat = some i) :
    decodeWord w.toNat = .ok i := by
  obtain ⟨_, hx, hr⟩ := parseWord_major hp
  rw [decodeWord, if_neg hr, predicateReject_none ((parseWord_names hp).2 hwf) hx, ofNat_word, hp]
  exact accepted_ok hwf he

theorem decodePair_wide {pay : Nat} {w : Word32} (hpay : pay < 2 ^ 24) (hwf : i.wf = true) (he : encode i = [encPfx 0 pay, w])
    (hp : parseWide pay w.toNat = some i) : decodePair (encPfx 0 pay).toNat w.toNat = .ok i := by
  obtain ⟨_, hk, hy⟩ := encPfx_fields (kind := 0) (by decide) hpay
  have hm := parseWide_major hp
  have hx := wideMajor_le hm
  rw [decodePair, if_pos ⟨hk, hm⟩, predicateReject_none ((parseWide_names hp).2 hwf) (by omega), ofNat_word, ofNat_word, hy, hp]
  exact accepted_ok hwf he

theorem decodePair_relaxed {w : Word32} (hwf : i.wf = true) (he : encode i = [encPfx 1 0, w]) (hp : parseRelaxed w.toNat = some i) :
    decodePair (encPfx 1 0).toNat w.toNat = .ok i := by
  obtain ⟨_, hk, hy⟩ := encPfx_fields (kind := 1) (pay := 0) (by decide) (by decide)
  have hm := parseRelaxed_major hp
  rw [decodePair, if_neg (by omega), if_pos ⟨hk, hy, hm⟩, predicateReject_none ((parseRelaxed_names hp).2 hwf) (by omega), ofNat_word,
    ofNat_word, hp]
  exact accepted_ok hwf he

theorem decode_encodeBytes (h : i.isWord = true) (hwf : i.wf = true) (r : List Byte) :
    decode (encodeBytes i ++ r) = .ok (i, i.size) := by
  cases parses_of_wf h hwf with
  | word he hp =>
    rw [encodeBytes_word he, decode_word _ _ (parseWord_major hp).1, decodeWord_ok hwf he hp, Instr.size, he]
    rfl
  | wide hpay he hp =>
    rw [encodeBytes_pair he, decode_pair _ _ _ (encPfx_fields (by decide) hpay).1, decodePair_wide hpay hwf he hp, Instr.size, he]
    rfl
  | relaxed he hp =>
    rw [encodeBytes_pair he, decode_pair _ _ _ (encPfx_fields (by decide) (by decide)).1, decodePair_relaxed hwf he hp,
      Instr.size, he]
    rfl

/-! What the decoder gives. -/

theorem decodeWord_inv {w : Nat} (h : decodeWord w = .ok i) : i.isWord = true ∧ i.wf = true ∧ encode i = [BitVec.ofNat 32 w] := by
  unfold decodeWord at h
  split at h
  · cases h
  split at h
  · cases h
  · obtain ⟨hp, hwf, he⟩ := accepted_inv h
    exact ⟨(parseWord_names hp).1, hwf, he⟩

theorem decodePair_inv {v w : Nat} (h : decodePair v w = .ok i) :
    i.isWord = true ∧ i.wf = true ∧ encode i = [BitVec.ofNat 32 v, BitVec.ofNat 32 w] := by
  unfold decodePair at h
  split at h
  · split at h
    · cases h
    · obtain ⟨hp, hwf, he⟩ := accepted_inv h
      exact ⟨(parseWide_names hp).1, hwf, he⟩
  split at h
  · split at h
    · cases h
    · obtain ⟨hp, hwf, he⟩ := accepted_inv h
      exact ⟨(parseRelaxed_names hp).1, hwf, he⟩
  · cases h

theorem map_ok {ε α β : Type} {o : Except ε α} {f : α → β} {b : β} (h : o.map f = .ok b) : ∃ a, o = .ok a ∧ f a = b := by
  cases o with
  | error e => cases h
  | ok a => exact ⟨a, rfl, Except.ok.inj h⟩

theorem decode_inv {l : List Byte} {n : Nat} (h : decode l = .ok (i, n)) :
    i.wf = true ∧ i.isWord = true ∧ n = i.size ∧ encodeBytes i = l.take n := by
  unfold decode at h
  split at h
  · rename_i b0 b1 b2 b3 rest
    dsimp only at h
    split at h
    · split at h
      · rename_i c0 c1 c2 c3 _ _
        obtain ⟨j, hj, e⟩ := map_ok h
        cases e
        obtain ⟨hi, hwf, he⟩ := decodePair_inv hj
        refine ⟨hwf, hi, by rw [Instr.size, he]; rfl, ?_⟩
        rw [encodeBytes_pair he, leBytes_word, leBytes_word]
        rfl
      · cases h
    · obtain ⟨j, hj, e⟩ := map_ok h
      cases e
      obtain ⟨hi, hwf, he⟩ := decodeWord_inv hj
      refine ⟨hwf, hi, by rw [Instr.size, he]; rfl, ?_⟩
      rw [encodeBytes_word he, leBytes_word]
      rfl
  · cases h

end

/-- Settles O3: the fields of each format give back the operands that the encoder placed in them, and the decoder accepts a term only
where its own words are the bytes that it read. -/
theorem decodeEncode : Obligations.DecodeEncode :=
  ⟨fun _ r hwf h => decode_encodeBytes h hwf r, fun _ _ _ => decode_inv, fun _ _ _ _ _ => rfl⟩

end Sys2Proof
end

section
namespace Sys2Proof.Machine

/-! Every instruction of a word runs in the frame, with its own word, length and predicate field (R70, R71, R72). -/

theorem encR_pred {maj d a b fn : Nat} {p : BitVec 3} {q : BitVec 1} (hm : maj < 64 := by omega) (hd : d < 16 := by omega)
    (ha : a < 16 := by omega) (hb : b < 16 := by omega) (hf : fn < 1024 := by omega) :
    fP (encR maj p q d a b fn).toNat = p ∧ fQ (encR maj p q d a b fn).toNat = q := by
  have := p.isLt; have := q.isLt
  rw [encR_nat hm hd ha hb hf]
  exact ⟨ofNat_of _ _ _ (by omega), ofNat_of _ _ _ (by omega)⟩

theorem encI_pred {maj d a imm : Nat} {p : BitVec 3} {q : BitVec 1} (hm : maj < 64 := by omega) (hd : d < 16 := by omega)
    (ha : a < 16 := by omega) (hi : imm < 16384 := by omega) :
    fP (encI maj p q d a imm).toNat = p ∧ fQ (encI maj p q d a imm).toNat = q := by
  have := p.isLt; have := q.isLt
  rw [encI_nat hm hd ha hi]
  exact ⟨ofNat_of _ _ _ (by omega), ofNat_of _ _ _ (by omega)⟩

theorem encJ_pred {maj off : Nat} {p : BitVec 3} {q : BitVec 1} (hm : maj < 64 := by omega) (ho : off < 2 ^ 22 := by omega) :
    fP (encJ maj p q off).toNat = p ∧ fQ (encJ maj p q off).toNat = q := by
  have := p.isLt; have := q.isLt
  rw [encJ_nat hm ho]
  exact ⟨ofNat_of _ _ _ (by omega), ofNat_of _ _ _ (by omega)⟩

theorem encV_pred {maj d a b m sat fn : Nat} {p : BitVec 3} {q : BitVec 1} (hm : maj < 64 := by omega)
    (hd : d < 32 := by omega) (ha : a < 32 := by omega) (hb : b < 32 := by omega) (hr : m < 4 := by omega) (hs : sat < 2 := by omega)
    (hf : fn < 16 := by omega) :
    fP (encV maj p q d a b m sat fn).toNat = p ∧ fQ (encV maj p q d a b m sat fn).toNat = q := by
  have := p.isLt; have := q.isLt
  rw [encV_nat hm hd ha hb hr hs hf]
  exact ⟨ofNat_of _ _ _ (by omega), ofNat_of _ _ _ (by omega)⟩

theorem encM_pred {maj acc ra rb k mf : Nat} {p : BitVec 3} {q : BitVec 1} (hm : maj < 64 := by omega)
    (hc : acc < 8 := by omega) (ha : ra < 8 := by omega) (hb : rb < 8 := by omega) (hk : k < 16 := by omega)
    (hf : mf < 512 := by omega) :
    fP (encM maj p q acc ra rb k mf).toNat = p ∧ fQ (encM maj p q acc ra rb k mf).toNat = q := by
  have := p.isLt; have := q.isLt
  rw [encM_nat hm hc ha hb hk hf]
  exact ⟨ofNat_of _ _ _ (by omega), ofNat_of _ _ _ (by omega)⟩

/-- An outcome that is the frame's, for a word of some length with some predicate field, privileged or not. -/
inductive InFrame (w : Word32) (len : Nat) (p : BitVec 3) (q : BitVec 1) (s : State) (priv : Bool) : Out → Prop
  | mk (body : Nat → Thread → State → State) (ext : Option Ext) : InFrame w len p q s priv (frame w len p q s body priv ext)

section
variable {w : Word32} {len n op need : Nat} {p : BitVec 3} {q : BitVec 1} {d a b : BitVec 4} {srcs dsts regs : List (BitVec 4)}
  {pd : BitVec 3} {c : BitVec 1} {s : State} {priv x : Bool} {ext : Option Ext} {v : Word}

theorem compute_inFrame {f} : InFrame w len p q s false (compute w len p q d srcs s f) := .mk ..
theorem effect_inFrame {f} : InFrame w len p q s priv (effect w len p q srcs s f priv ext) := .mk ..
theorem act_inFrame {f} : InFrame w len p q s priv (act w len p q srcs dsts s f priv ext) := .mk ..
theorem compareWith_inFrame {f} : InFrame w len p q s false (compareWith w len p q pd c srcs s f) := effect_inFrame
theorem jumpReg_inFrame : InFrame w 4 p q s false (jumpReg w p q d a s) := .mk ..
theorem fpRound_inFrame {m f} : InFrame w 4 p q s false (fpRound w p q d srcs m s f) := act_inFrame
theorem loadPlain_inFrame : InFrame w len p q s false (loadPlain w len p q d a v n x s) := act_inFrame
theorem storePlain_inFrame : InFrame w len p q s false (storePlain w len p q d a v n s) := act_inFrame
theorem loadRelaxed_inFrame : InFrame w 8 p q s false (loadRelaxed w p q d a v n x s) := act_inFrame
theorem storeRelaxed_inFrame : InFrame w 8 p q s false (storeRelaxed w p q d a v n s) := act_inFrame
theorem syncAt_inFrame {k} : InFrame w 4 p q s false (syncAt w p q srcs dsts regs need s k) := act_inFrame
theorem syncLoad_inFrame : InFrame w 4 p q s false (syncLoad w p q d a x s) := syncAt_inFrame
theorem syncStore_inFrame : InFrame w 4 p q s false (syncStore w p q d a x s) := syncAt_inFrame
theorem syncMark_inFrame : InFrame w 4 p q s false (syncMark w p q a x s) := syncAt_inFrame
theorem atomic_inFrame : InFrame w 4 p q s false (atomic w p q d a b op n s) := act_inFrame
theorem sealRange_inFrame : InFrame w 4 p q s false (sealRange w p q a b x s) := act_inFrame
theorem svc_inFrame {k} : InFrame w 4 p q s true (svc w p q d srcs k s) := act_inFrame
theorem sldAccess_inFrame {f} : InFrame w 4 p q s false (sldAccess w p q srcs dsts need x s f) := act_inFrame
theorem copyInstr_inFrame : InFrame w 4 p q s false (copyInstr w p q d a b n s) := act_inFrame
theorem bitsInstr_inFrame {f} : InFrame w 4 p q s false (bitsInstr w p q srcs dsts s f) := act_inFrame
theorem gsetInstr_inFrame : InFrame w 4 p q s true (gsetInstr w p q d a b s) := act_inFrame
theorem fabInstr_inFrame : InFrame w 4 p q s false (fabInstr w p q d a b op s) := act_inFrame
theorem matInstr_inFrame : InFrame w 4 p q s false (matInstr w p q d s) := .mk ..
theorem tileInstr_inFrame {f} : InFrame w 4 p q s false (tileInstr w p q n srcs s f) := act_inFrame
theorem transferInstr_inFrame : InFrame w 4 p q s false (transferInstr w p q n a b x s) := tileInstr_inFrame
theorem debugWrite_inFrame {f} : InFrame w 4 p q s false (debugWrite w p q srcs n f s) := act_inFrame
theorem vPush_inFrame {f} : InFrame w 4 p q s false (vPush w p q s f) := .mk ..
theorem execSfree_inFrame {x : BitVec 2} : InFrame (encR 57 p q (12 + x.toNat) 0 0 1) 4 p q s false (execSfree p q x s) := by
  unfold execSfree
  exact .mk ..

end

/-- The instruction runs in the frame, with its own word, length and predicate field. -/
def Framed (i : Instr) (s : State) (o : Out) : Prop :=
  ∃ p q, (fP (wordOf i).toNat = p ∧ fQ (wordOf i).toNat = q) ∧ InFrame (wordOf i) i.size p q s (isPrivileged i) o

section
variable {i : Instr} {s : State} {o : Out} {w : Word32} {len : Nat} {p : BitVec 3} {q : BitVec 1} {priv : Bool}

theorem framed_word (e : InFrame w 4 p q s priv o) (h : fP w.toNat = p ∧ fQ w.toNat = q) (hw : encode i = [w] := by rfl)
    (hp : isPrivileged i = priv := by rfl) : Framed i s o := by
  have h1 : wordOf i = w := by rw [wordOf, hw]; rfl
  have h2 : i.size = 4 := by rw [Instr.size, hw]; rfl
  exact ⟨p, q, by rwa [h1], by rwa [h1, h2, hp]⟩

theorem framed_pair {x : Word32} (e : InFrame w 8 p q s priv o) (h : fP w.toNat = p ∧ fQ w.toNat = q)
    (hw : encode i = [x, w] := by rfl) (hp : isPrivileged i = priv := by rfl) : Framed i s o := by
  have h1 : wordOf i = w := by rw [wordOf, hw]; rfl
  have h2 : i.size = 8 := by rw [Instr.size, hw]; rfl
  exact ⟨p, q, by rwa [h1], by rwa [h1, h2, hp]⟩

end

/-- Each instruction of a word is the frame around its own effect, by its shape and its word's format. -/
theorem exec_framed {i : Instr} {s : State} (h : i.isWord = true) : Framed i s (exec i s) := by
  unfold exec
  cases i with
  | add | sub | and | or | xor | andn | orn | sll | srl | sra | rol | ror | mul | mulh | mulhu | div | divu | rem | remu | min
  | max | minu | maxu | clz | ctz | popc | brev | sextb | sexth | sextw | zextb | zexth | zextw | bfx | bfi | pget | fmin
  | fmax | fabs | fneg => exact framed_word compute_inFrame encR_pred
  | addi | andi | ori | xori | slli | srli | srai | li | lih => exact framed_word compute_inFrame encI_pred
  | addiI38 | andiI38 | oriI38 | xoriI38 | liI38 | lihI38 => exact framed_pair compute_inFrame encI_pred
  | eq | ne | lt | ge | ltu | geu | feq | fne | flt | fle | funord => exact framed_word compareWith_inFrame encR_pred
  | cmpeqi | cmplti | cmpltui => exact framed_word compareWith_inFrame encI_pred
  | cmpeqiI38 | cmpltiI38 | cmpltuiI38 => exact framed_pair compareWith_inFrame encI_pred
  | pand | por | pxor | pandn | pput | yield => exact framed_word effect_inFrame encR_pred
  | br | jal => exact framed_word (.mk ..) encJ_pred
  | jr | jalr => exact framed_word jumpReg_inFrame encR_pred
  | fadd | fsub | fmul | fdiv | fsqrt | fmadd => exact framed_word fpRound_inFrame encR_pred
  | cvt | sealq | spawn | migrate | send | waitm | waitc | cset | bar | trap | halt | tsr | rng | logm | ringset | ringst
  | mpget | cpyq | gq | sbind | xstat | bhdr | hwalk | hins | snap => exact framed_word act_inFrame encR_pred
  | rdsr | wrsr | wrsrVectorState | wrsrSegbase | wrsrDonord | wrsrSlottab | wrsrLogRing | wrsrLogcons | wrsrReplay =>
    exact framed_word act_inFrame encI_pred
  | wrsrRotmode | wrsrAcct => exact framed_word effect_inFrame encI_pred
  | ldb | ldbu | ldh | ldhu | ldw | ldwu | ldd => exact framed_word loadPlain_inFrame encI_pred
  | stb | sth | stw | std => exact framed_word storePlain_inFrame encI_pred
  | ldbI38 | ldbuI38 | ldhI38 | ldhuI38 | ldwI38 | ldwuI38 | lddI38 => exact framed_pair loadPlain_inFrame encI_pred
  | stbI38 | sthI38 | stwI38 | stdI38 => exact framed_pair storePlain_inFrame encI_pred
  | ldbRlx | ldbuRlx | ldhRlx | ldhuRlx | ldwRlx | ldwuRlx | lddRlx => exact framed_pair loadRelaxed_inFrame encI_pred
  | stbRlx | sthRlx | stwRlx | stdRlx => exact framed_pair storeRelaxed_inFrame encI_pred
  | ldf | ldfe => exact framed_word syncLoad_inFrame encR_pred
  | ste | stf => exact framed_word syncStore_inFrame encR_pred
  | fclr | fset => exact framed_word syncMark_inFrame encR_pred
  | fstat | join | jinit => exact framed_word syncAt_inFrame encR_pred
  | aadd | aand | aor | axor | amin | amax | aminu | amaxu | aswp | acas | afadd => exact framed_word atomic_inFrame encR_pred
  | sealPages | unsealPages => exact framed_word sealRange_inFrame encR_pred
  | exit | fence | eret | brk | nop => exact framed_word (.mk ..) encR_pred
  | vadd | vsub | vmul | vfma | vmin | vmax | vabs | vneg | vscale | vclip | vexp | vlog | vrcp | vrsqrt | vtanh | vsigm
  | vsilu | verf | viadd | visub | vimul | vimac | vand | vor | vxor | vshl | vshr | vrsh | vclampi | vcopy | vfill | vcvt
  | vgath | vscat | vsel | vsum | vmaxr | vminr | vdot | vcmp | vhist | vselk | vmrg | vcnt | vloop | vend =>
    exact framed_word vPush_inFrame encV_pred
  | vwait => exact framed_word (.mk ..) encV_pred
  | mma | mms | mmx | mmg => exact framed_word matInstr_inFrame encM_pred
  | accz => exact framed_word tileInstr_inFrame encR_pred
  | accrd | accwr => exact framed_word transferInstr_inFrame encR_pred
  | cpy | cpyd | cpyf => exact framed_word copyInstr_inFrame encR_pred
  | thin | mref | mrel | mver => exact framed_word sldAccess_inFrame encR_pred
  | gred | gldr | gmc => exact framed_word fabInstr_inFrame encR_pred
  | gsetSet => exact framed_word gsetInstr_inFrame encR_pred
  | sfree => exact framed_word execSfree_inFrame encR_pred
  | bget | bpeek | bskip | bput | bflush | bexp | bsync => exact framed_word bitsInstr_inFrame encR_pred
  | hdel | tlbi | hotr | pgmv => exact framed_word svc_inFrame encR_pred
  | bpset | bpclr | tstart | tstop => exact framed_word debugWrite_inFrame encR_pred
  | _ => exact absurd h Bool.false_ne_true

end Sys2Proof.Machine
end

section
namespace Sys2Proof.Machine

/-! A step that is no instruction of a word answers a next state (log 10). -/

/-- The outcome is a next state. -/
def Answers (o : Out) : Prop := ∃ s, o = .next s

theorem answers_next {s : State} : Answers (.next s) := ⟨s, rfl⟩

theorem answers_ite {c : Prop} [Decidable c] {a b : Out} (ha : Answers a) (hb : Answers b) : Answers (if c then a else b) := by
  split
  · exact ha
  · exact hb

theorem trapCurrent_answers {s : State} {n : Nat} {w : Word32} : Answers (trapCurrent s n w) := by
  unfold trapCurrent
  split <;> exact answers_next

theorem manage_answers {pkg ep : Nat} {s : State} {r : Bool} {f : State → State} : Answers (manage pkg ep s r f) :=
  answers_ite answers_next (answers_ite answers_next (answers_ite answers_next answers_next))

theorem receive_answers {pkg ep conn : Nat} {queued : Bool} {l : List Byte} {s : State} {f : Cmd → Option (State → State)} :
    Answers (receive pkg ep conn queued l s f) := by
  unfold receive
  refine answers_ite answers_next (answers_ite answers_next (answers_ite answers_next ?_))
  split
  · exact answers_next
  · repeat' apply answers_ite
    all_goals exact answers_next

theorem loadPageTable_answers {pkg ep conn : Nat} {queued : Bool} {l : List Byte} {s : State} :
    Answers (execLoadPageTable pkg ep conn queued l s) := by
  unfold execLoadPageTable
  split
  · exact answers_next
  · exact receive_answers

/-- Every branch of what an event does ends in a next state. -/
theorem event_answers {i : Instr} {s : State} (h : i.isWord = false) (hg : ∀ p q d a b, i ≠ .gsetClear p q d a b) :
    Answers (exec i s) := by
  unfold exec
  cases i with
  | sealComplete | unsealComplete | powerOn | thermalShutdown | uncorrectableCoreState | replicaLineError | barrierStateError
  | mapEntryError | meshLinkFault | sequenceStateError | flitCrcError | timeAccountCycle =>
    exact ⟨_, rfl⟩
  | illegalInstruction | extensionAbsent =>
    exact trapCurrent_answers
  | loadData | launchCreate | launchPriority | snapshot | queryHealth | queryDigest | queryContextStates | queryAttestation
  | sealCommand | unsealCommand | resetContext | resetPackage =>
    exact receive_answers
  | hostset | window | resume | pkread | pkwrite | fwload | powercap =>
    exact manage_answers
  | rotmodeSwitch | acctSnapshot | copyCommandCompletion | streamDelivery | blockExpansion | transformThreadBind
  | reductionChunkArrival | replayWaitTimeout | timeMessage | masterTimeFailover | foreignPacketDrop | throttle
  | uncorrectableThreadState | coreDisable | engineFault | thinningUnitError | logUnitDisabled | channelRetirement
  | dieLinkLost | portDown | relaxedAccessCompletion | deferredRelaxedFault | syncWaitSatisfied | fetchHoldRelease
  | yieldHoldEnd | clusterBarrierArrival | clusterBarrierRelease | counterMessage | wakeMessageArrival | handlerMessageArrival
  | migrationArrival | migrationRefused | slotBind | stealRequest | stealReply | stealSearchRetry | extensionMigration
  | memoryReply | pageWake | vectorFaultDelivery | matrixKStep | accTransferDone | copyCommandAccept | combiningWindowClose
  | overflowDeliveryReentry | intervalFailure | groupRegistration | gsetTimeout | slotTimerExpiry | slotNoticeArrival
  | destinationWrite | statusReturn | commX1Element | commX3Query | hardwareBreakpoint | tlbEntryError | logAppendFailure
  | spareCopyComplete | slotUncorrectable | treeEntryError | bankReservationGrant | proxyHostAtomic | haltCompletion
  | pageWalk | vectorGroup | matrixAdmission | streamDeliveryTimeout | commThreadBind | intervalBuildStart | intervalPublish
  | memberCutoffTimeout | pageMoveSwitch | spill | spillResume | logAppend | replayRecordDispatch | throttleRelease
  | correctedError | shardBucketError | dieSublinkFailure | laneFailure | timeStampCounterTick =>
    simp only [execRotmodeSwitch, execAcctSnapshot, execCopyCommandCompletion, execStreamDelivery, execBlockExpansion,
          execTransformThreadBind, execReductionChunkArrival, execReplayWaitTimeout, execTimeMessage, execMasterTimeFailover,
          execForeignPacketDrop, execThrottle, execUncorrectableThreadState, execCoreDisable, execEngineFault,
          execThinningUnitError, execLogUnitDisabled, execChannelRetirement, execDieLinkLost, execPortDown,
          execRelaxedAccessCompletion, execDeferredRelaxedFault, execSyncWaitSatisfied, execFetchHoldRelease, execYieldHoldEnd,
          execClusterBarrierArrival, execClusterBarrierRelease, execCounterMessage, execWakeMessageArrival,
          execHandlerMessageArrival, execMigrationArrival, execMigrationRefused, execSlotBind, execStealRequest, execStealReply,
          execStealSearchRetry, execExtensionMigration, execMemoryReply, execPageWake, execVectorFaultDelivery, execMatrixKStep,
          execAccTransferDone, execCopyCommandAccept, execCombiningWindowClose, execOverflowDeliveryReentry, execIntervalFailure,
          execGroupRegistration, execGsetTimeout, execSlotTimerExpiry, execSlotNoticeArrival, execDestinationWrite,
          execStatusReturn, execCommX1Element, execCommX3Query, execHardwareBreakpoint, execTlbEntryError, execLogAppendFailure,
          execSpareCopyComplete, execSlotUncorrectable, execTreeEntryError, execBankReservationGrant, execProxyHostAtomic,
          execHaltCompletion, execPageWalk, execVectorGroup, execMatrixAdmission, execStreamDeliveryTimeout, execCommThreadBind,
          execIntervalBuildStart, execIntervalPublish, execMemberCutoffTimeout, execPageMoveSwitch, execSpill, execSpillResume,
          execLogAppend, execReplayRecordDispatch, execThrottleRelease, execCorrectedError, execShardBucketError,
          execDieSublinkFailure, execLaneFailure, execTimeStampCounterTick]
    repeat' split
    all_goals exact answers_next

  | stop => exact answers_ite answers_next manage_answers
  | loadPageTable => exact loadPageTable_answers
  | gsetClear => exact absurd rfl (hg _ _ _ _ _)
  | _ => exact absurd h.symm Bool.false_ne_true

/-- The word instructions, and gset's name clear, which has the word of set (log 2). -/
def namesWord (i : Instr) : Prop := i.isWord = true ∨ ∃ p q d a b, i = .gsetClear p q d a b

theorem names_or_event (i : Instr) :
    namesWord i ∨ (i.isWord = false ∧ ∀ p q d a b, i ≠ .gsetClear p q d a b) := by
  by_cases h : namesWord i
  · exact .inl h
  · have ⟨h1, h2⟩ := not_or.1 h
    exact .inr ⟨Bool.eq_false_iff.2 h1, fun p q d a b e => h2 ⟨p, q, d, a, b, e⟩⟩

theorem names_framed {i : Instr} {s : State} (h : namesWord i) : Framed i s (exec i s) := by
  rcases h with h | ⟨p, q, d, a, b, rfl⟩
  · exact exec_framed h
  · exact framed_word (gsetInstr_inFrame (a := a) (b := b)) encR_pred

/-- An instruction of the frame answers, or finds no thread. -/
theorem framed_answers {i : Instr} {s : State} {o : Out} (h : Framed i s o) :
    (s.thread s.cur = none ∧ o = .fault .noThread) ∨ ((∃ t, s.thread s.cur = some t) ∧ Answers o) := by
  obtain ⟨p, q, -, ⟨body, ext⟩⟩ := h
  rcases frame_cases (wordOf i) i.size p q s body (isPrivileged i) ext with
    h | ⟨u, hu, h | h | ⟨_, -, h⟩ | ⟨-, h⟩⟩
  · exact .inl h
  · exact .inr ⟨⟨u, hu⟩, _, h⟩
  · exact .inr ⟨⟨u, hu⟩, _, h⟩
  · exact .inr ⟨⟨u, hu⟩, _, h⟩
  · exact .inr ⟨⟨u, hu⟩, _, h⟩

theorem exec_answers (i : Instr) (s : State) :
    (s.thread s.cur = none ∧ exec i s = .fault .noThread) ∨ Answers (exec i s) := by
  rcases names_or_event i with h | ⟨h, hg⟩
  · exact (framed_answers (names_framed h)).imp_right And.right
  · exact .inr (event_answers h hg)

/-- Settles O6: a word instruction is the frame's, and each branch of an event is a next state. -/
theorem everyInstructionAnswers : Obligations.EveryInstructionAnswers := by
  refine ⟨fun i s r h => ?_, fun i s f h => ?_, fun i s ⟨t, ht⟩ => ?_, fun i s h hg => event_answers h hg⟩
  · rcases exec_answers i s with ⟨-, e⟩ | ⟨_, e⟩ <;> cases e.symm.trans h
  · rcases exec_answers i s with ⟨hn, e⟩ | ⟨_, e⟩
    · cases e.symm.trans h
      exact ⟨hn, rfl⟩
    · cases e.symm.trans h
  · rcases exec_answers i s with ⟨hn, -⟩ | h
    · cases hn.symm.trans ht
    · exact h

end Sys2Proof.Machine
end

section
namespace Sys2Proof.Machine

/-! Privileged instructions, and false predicates (R69, R71). -/

theorem framed_user {i : Instr} {s : State} {u : Thread} {o : Out} (h : Framed i s o) (hp : isPrivileged i = true)
    (hu : s.thread s.cur = some u) (hs : u.sup = false) :
    o = .next (s.trap s.cur (s.turned u i.size) 2 ((wordOf i).setWidth 64)) := by
  obtain ⟨p, q, -, ⟨body, ext⟩⟩ := h
  rw [hp]
  exact frame_user hu hs

theorem framed_skips {i : Instr} {s : State} {u : Thread} {o : Out} (h : Framed i s o) (hu : s.thread s.cur = some u)
    (hh : u.holds (fP (wordOf i).toNat) (fQ (wordOf i).toNat) = false) (hs : isPrivileged i = true → u.sup = true) :
    o = .next (s.retire s.cur (s.turned u i.size)) := by
  obtain ⟨p, q, ⟨hp, hq⟩, ⟨body, ext⟩⟩ := h
  rw [hp, hq] at hh
  exact frame_skips hu hh hs

/-- Settles O22: the frame asks for supervisor state before everything else. -/
theorem privilegedInUserState : Obligations.PrivilegedInUserState := by
  intro p q d a b sys s u hu hs i hi
  have key : namesWord i ∧ isPrivileged i = true ∧ i.size = 4 := by
    simp only [List.mem_cons, List.not_mem_nil, or_false] at hi
    rcases hi with rfl | rfl | rfl | rfl | rfl | rfl | rfl | rfl | rfl | rfl | rfl | rfl | rfl | rfl | rfl | rfl | rfl | rfl
    case inr.inr.inl => exact ⟨.inr ⟨p, q, d, a, b, rfl⟩, rfl, rfl⟩
    all_goals exact ⟨.inl rfl, rfl, rfl⟩
  obtain ⟨hn, hp, hl⟩ := key
  rw [framed_user (names_framed hn) hp hu hs, hl]

/-- Settles O15: the frame passes over an instruction whose predicate is false, after the check of R69. -/
theorem falsePredicate : Obligations.FalsePredicate := by
  intro i w s u hu
  refine ⟨fun hw hh => ?_, ?_, ?_⟩
  · have f : Framed i s (exec i s) := exec_framed hw
    split
    · next h => exact framed_user f h.1 hu h.2
    · next h => exact framed_skips f hu hh fun hp => Bool.eq_true_of_not_eq_false fun hs => h ⟨hp, hs⟩
  · change trapCurrent s 1 w = _
    rw [trapCurrent, hu]
  · change trapCurrent s 0x12 w = _
    rw [trapCurrent, hu]

end Sys2Proof.Machine
end

section
namespace Sys2Proof.Machine

/-! Worked encodings (R53 to R68), and the instructions with an immediate (R57, R100 to R104). -/


/-- Settles O2, by evaluating the decoder on each word. -/
theorem exampleWords : Obligations.ExampleWords :=
  ⟨rfl, rfl, rfl, rfl, rfl, rfl, rfl, rfl, rfl, rfl, rfl, rfl, rfl, rfl, rfl, rfl⟩

/-- R104: the low 26 bits of the immediate stand above bits 37 to 0 of the register. -/
theorem highPart_eq (d v : Word) : highPart d v = BitVec.ofNat 64 (v.toNat % 2 ^ 26 * 2 ^ 38 + d.toNat % 2 ^ 38) := by
  have hd : d.toNat % 2 ^ 38 < 2 ^ 38 := Nat.mod_lt _ (by decide)
  apply BitVec.eq_of_toNat_eq
  have e : v.toNat <<< 38 % 2 ^ 64 = (v.toNat % 2 ^ 26) <<< 38 := by
    rw [Nat.shiftLeft_eq, Nat.shiftLeft_eq]
    omega
  rw [highPart, BitVec.toNat_or, BitVec.toNat_shiftLeft, e, zeroLow, BitVec.toNat_setWidth, BitVec.toNat_setWidth, BitVec.toNat_ofNat,
    Nat.mod_eq_of_lt (show d.toNat % 2 ^ 38 < 2 ^ 64 by omega), ← Nat.shiftLeft_add_eq_or_of_lt hd, Nat.shiftLeft_eq,
    Nat.mod_eq_of_lt (show v.toNat % 2 ^ 26 * 2 ^ 38 + d.toNat % 2 ^ 38 < 2 ^ 64 by omega)]

/-- Sign extension past 26 bits leaves the low 26 bits. -/
theorem sext14_low (v : BitVec 14) : (sext14 v).toNat % 2 ^ 26 = (v.signExtend 38).toNat % 2 ^ 26 := by
  rw [sext14, BitVec.toNat_signExtend, BitVec.toNat_signExtend, BitVec.toNat_setWidth, BitVec.toNat_setWidth]
  split <;> omega

theorem sext38_low (v : BitVec 38) : (sext38 v).toNat % 2 ^ 26 = v.toNat % 2 ^ 26 := by
  rw [sext38, BitVec.toNat_signExtend, BitVec.toNat_setWidth]
  split <;> omega

theorem sshiftRight_eq (v : Word) (n : Nat) : v.sshiftRight n = BitVec.ofInt 64 (v.toInt / 2 ^ n) := by
  rw [BitVec.sshiftRight, Int.shiftRight_eq_div_pow]
  rfl

theorem computes_compute {i : Instr} {word : Word32} {len : Nat} {p : BitVec 3} {q : BitVec 1} {d : BitVec 4}
    {srcs : List (BitVec 4)} {f : Thread → List Word → Word} (e : ∀ s, exec i s = compute word len p q d srcs s f) :
    Computes i p q len d srcs f :=
  computes_of_compute e fun _ _ => rfl

/-- Settles O8: each is compute, and its value is the stated one. -/
theorem immediateResults : Obligations.ImmediateResults := by
  intro p q d a imm wide n
  refine ⟨computes_compute (exec_addi p q d a imm), computes_compute (exec_addiI38 p q d a wide),
    computes_compute (exec_andi p q d a imm), computes_compute (exec_andiI38 p q d a wide),
    computes_compute (exec_ori p q d a imm), computes_compute (exec_oriI38 p q d a wide),
    computes_compute (exec_xori p q d a imm), computes_compute (exec_xoriI38 p q d a wide), computes_compute (exec_slli p q d a n),
    computes_compute (exec_srli p q d a n), computes_of_compute (exec_srai p q d a n) fun _ _ => sshiftRight_eq _ _,
    computes_compute (exec_li p q d imm), computes_compute (exec_liI38 p q d wide),
    computes_of_compute (exec_lih p q d imm) fun _ _ => ?_, computes_of_compute (exec_lihI38 p q d wide) fun _ _ => ?_⟩
  · rw [highPart_eq, sext14_low]
  · rw [highPart_eq, sext38_low]

end Sys2Proof.Machine
end

section
namespace Sys2Proof.Machine

/-! Plain loads and stores in the local store of the executing core (R135 to R139). -/

/-- An address of region 1 is its own canonical form. -/
theorem canonLa_local {pkg la : Nat} (h : laRegion la = 1) : canonLa pkg la = la := by
  rw [canonLa, if_neg]
  rintro ⟨h2, -⟩
  omega

/-- An access to the executing core's own local store is done at once, when it touches no byte of a relaxed access (R135, R139). -/
theorem access_local {s0 s : State} {tid : Nat} {t : Thread} {word : Word32} {regs : List (BitVec 4)} {la n need : Nat} {va : Word}
    {k : State → State} {r : Loc → Req} (hr : laRegion la = 1) (hc : laCore la = coreOf tid)
    (hx : ∀ x ∈ t.relaxed, s.touches x (.loc la) n = false) : s0.access s tid t word regs la n need va k r = k s := by
  have hany : (t.relaxed.any fun x => s.touches x (.loc la) n) = false := by
    simpa using hx
  simp only [State.access, canonLa_local hr, hr, hc, hany, ne_eq, not_true_eq_false, if_true, if_false, Bool.false_eq_true]

theorem loadPlain_here {i : Instr} {word : Word32} {len : Nat} {p : BitVec 3} {q : BitVec 1} {d a : BitVec 4} {imm : Word} {n : Nat}
    {sgn : Bool} {ext : Nat → Word} (e : ∀ s, exec i s = loadPlain word len p q d a imm n sgn s)
    (he : ∀ x, extended n sgn x = ext x) : LoadsHere i p q len d a imm n ext := by
  obtain rfl : extended n sgn = ext := funext he
  intro s t v s1 la h r hk hr hc hx hb w
  rw [e, loadPlain, act_runs h r]
  simp only [hk, access_local hr hc hx, hb, Bool.false_eq_true, if_false, finish_accepted w]

theorem storePlain_here {i : Instr} {word : Word32} {len : Nat} {p : BitVec 3} {q : BitVec 1} {d a : BitVec 4} {imm : Word} {n : Nat}
    (e : ∀ s, exec i s = storePlain word len p q d a imm n s) : StoresHere i p q len d a imm n := by
  intro s t v s1 la hm h r hk hr hc hx
  have hm1 : s1.mem = s.mem := reads_mem r
  refine ⟨s1.store la n (nth v 1).toNat, ?_, rfl, ?_, fun k hk => ?_, fun w hw hn => ?_⟩
  · rw [e, storePlain, act_runs h r]
    simp only [hk, access_local hr hc hx]
  · rw [store_mem, read_write _ _ _ (hm1 ▸ hm)]
  · rw [store_mem, hm1, byte_write_ne hm hk]
  · simpa [State.store, hw] using hn

theorem extended_signed {n : Nat} (hn : 8 * n ≤ 64) (x : Nat) : extended n true x = (BitVec.ofNat (8 * n) x).signExtend 64 := by
  rw [extended, if_pos rfl, signLow, BitVec.setWidth_ofNat_of_le hn]

/-- Settles O28: each is loadPlain, and its extension is the stated one. -/
theorem localLoads : Obligations.LocalLoads := by
  intro p q d a imm wide
  exact ⟨loadPlain_here (exec_ldb p q d a imm) (extended_signed (by decide)), loadPlain_here (exec_ldbu p q d a imm) fun _ => rfl,
    loadPlain_here (exec_ldh p q d a imm) (extended_signed (by decide)), loadPlain_here (exec_ldhu p q d a imm) fun _ => rfl,
    loadPlain_here (exec_ldw p q d a imm) (extended_signed (by decide)), loadPlain_here (exec_ldwu p q d a imm) fun _ => rfl,
    loadPlain_here (exec_ldd p q d a imm) fun _ => rfl, loadPlain_here (exec_ldbI38 p q d a wide) (extended_signed (by decide)),
    loadPlain_here (exec_ldbuI38 p q d a wide) fun _ => rfl, loadPlain_here (exec_ldhI38 p q d a wide) (extended_signed (by decide)),
    loadPlain_here (exec_ldhuI38 p q d a wide) fun _ => rfl, loadPlain_here (exec_ldwI38 p q d a wide) (extended_signed (by decide)),
    loadPlain_here (exec_ldwuI38 p q d a wide) fun _ => rfl, loadPlain_here (exec_lddI38 p q d a wide) fun _ => rfl⟩

/-- Settles O29: each is storePlain. -/
theorem localStores : Obligations.LocalStores := by
  intro p q d a imm wide
  exact ⟨storePlain_here (exec_stb p q d a imm), storePlain_here (exec_sth p q d a imm), storePlain_here (exec_stw p q d a imm),
    storePlain_here (exec_std p q d a imm), storePlain_here (exec_stbI38 p q d a wide), storePlain_here (exec_sthI38 p q d a wide),
    storePlain_here (exec_stwI38 p q d a wide), storePlain_here (exec_stdI38 p q d a wide)⟩

end Sys2Proof.Machine
end

section
namespace Sys2Proof.Machine

/-! Branches and jumps (R59, R109, R110). -/

/-- Whether a trace record finds room does not depend on what it says. -/
theorem traceSoft_isNone (s : State) (cx die bit : Nat) (r x : Rec) :
    (s.traceSoft cx die bit r).isNone = (s.traceSoft cx die bit x).isNone := by
  unfold State.traceSoft
  dsimp only
  split
  · rfl
  split
  · rfl
  split <;> rfl

/-- A jump whose record has been written; of the thread the record names only the pc and the context. -/
theorem jump_traced {s s2 : State} {tid : Nat} {t u : Thread} {target : Word} (hpc : u.pc = t.pc) (hctx : u.ctx = t.ctx)
    (h : s.traceSoft (cxOf (coreOf tid) t) (coreDie (coreOf tid)) 0 (jumpRecord s tid t target) = some s2) :
    s.jump tid u target = s2.setThread tid { u.past with pc := target } := by
  rw [cxOf, jumpRecord, ← hctx, ← hpc] at h
  simp only [State.jump, cxOf, h]

theorem jumpHeld_of_traced {s s2 : State} {tid : Nat} {t : Thread} {r : Rec}
    (h : s.traceSoft (cxOf (coreOf tid) t) (coreDie (coreOf tid)) 0 r = some s2) : s.jumpHeld tid t = false := by
  rw [State.jumpHeld, traceSoft_isNone _ _ _ _ _ r, h]
  rfl

theorem jump_held {s : State} {tid : Nat} {t : Thread} {target : Word} (h : s.jumpHeld tid t = true) :
    s.jump tid t target = s.wait tid t (.held .logFull) := by
  rw [State.jumpHeld, traceSoft_isNone _ _ _ _ _ (jumpRecord s tid t target), Option.isNone_iff_eq_none, jumpRecord] at h
  simp only [State.jump, h]

/-- R59: the target of a branch. -/
theorem branchTarget_eq (pc : Word) (off : BitVec 22) : branchTarget pc off = pc + 4 * off.signExtend 64 := by
  rw [branchTarget, BitVec.mul_comm]

section
variable {word : Word32} {p : BitVec 3} {q : BitVec 1} {d a : BitVec 4} {s s1 : State} {t : Thread} {v : List Word}

/-- A jump to a register whose operands can be read: the checks of R110 in their order, then the jump. -/
theorem jumpReg_runs (h : s.Issues p q 4 t) (r : s.Reads t [a] [d] v s1) : jumpReg word p q d a s = .next (
    if (nth v 0).toNat % 4 ≠ 0 then s.trap s.cur t 6 (nth v 0)
    else if State.writeRefused s.cur d (t.pc + 4) then s.trap s.cur t 1 (word.setWidth 64)
    else if s.jumpHeld s.cur t then s.wait s.cur t (.held .logFull)
    else (s1.writeReg s.cur t d (t.pc + 4)).1.jump s.cur (s1.writeReg s.cur t d (t.pc + 4)).2 (nth v 0)) := by
  rw [jumpReg, frame_runs h, operands_ready r]

theorem jumpReg_misaligned (h : s.Issues p q 4 t) (r : s.Reads t [a] [d] v s1) (hm : (nth v 0).toNat % 4 ≠ 0) :
    jumpReg word p q d a s = .next (s.trap s.cur t 6 (nth v 0)) := by
  rw [jumpReg_runs h r, if_pos hm]

theorem jumpReg_held (h : s.Issues p q 4 t) (r : s.Reads t [a] [d] v s1) (hm : (nth v 0).toNat % 4 = 0)
    (hw : State.writeRefused s.cur d (t.pc + 4) = false) (hh : s.jumpHeld s.cur t = true) :
    jumpReg word p q d a s = .next (s.wait s.cur t (.held .logFull)) := by
  rw [jumpReg_runs h r, if_neg (not_not.2 hm), hw, if_neg Bool.false_ne_true, if_pos hh]

theorem jumpReg_jumps (h : s.Issues p q 4 t) (r : s.Reads t [a] [d] v s1) (hm : (nth v 0).toNat % 4 = 0)
    (hw : State.writeRefused s.cur d (t.pc + 4) = false) (hh : s.jumpHeld s.cur t = false) :
    jumpReg word p q d a s =
      .next ((s1.writeReg s.cur t d (t.pc + 4)).1.jump s.cur (s1.writeReg s.cur t d (t.pc + 4)).2 (nth v 0)) := by
  rw [jumpReg_runs h r, if_neg (not_not.2 hm), hw, if_neg Bool.false_ne_true, hh, if_neg Bool.false_ne_true]

end

/-- Field 10 of a destination names no register (R54). -/
theorem writeReg_none (s : State) (tid : Nat) (t : Thread) (v : Word) : s.writeReg tid t 10 v = (s, t) := rfl

theorem writeRefused_none (tid : Nat) (v : Word) : State.writeRefused tid 10 v = false := by
  simp [State.writeRefused]

/-- Writing a register leaves the thread's pc and context. -/
theorem setReg_keeps (t : Thread) (d : BitVec 4) (v : Word) : (t.setReg d v).pc = t.pc ∧ (t.setReg d v).ctx = t.ctx := by
  rw [setReg_eq]
  exact ⟨rfl, rfl⟩

theorem writeReg_keeps (s : State) (tid : Nat) (t : Thread) (d : BitVec 4) (v : Word) :
    (s.writeReg tid t d v).2.pc = t.pc ∧ (s.writeReg tid t d v).2.ctx = t.ctx := by
  unfold State.writeReg
  split
  · exact setReg_keeps t d v
  · exact ⟨rfl, rfl⟩

/-- Settles O14: a jump is held exactly when its record finds no room, and the record's text does not matter for that. -/
theorem branchResults : Obligations.BranchResults := by
  intro p q d a off s t h cx die target
  refine ⟨fun s2 h2 => ⟨?_, ?_⟩, fun v s1 s2 r hm h2 hh => ?_, fun v s1 s2 r hm hw => ?_, fun v s1 r hm => ?_,
    fun v s1 r hm => ?_, fun hh => ⟨?_, ?_, fun v s1 r hm => ?_, fun v s1 r hm hw => ?_⟩⟩
  · rw [exec_br, execBr, frame_runs h, branchTarget_eq, jump_traced rfl rfl h2]
  · obtain ⟨hpc, hctx⟩ := setReg_keeps t 9 (t.pc + 4)
    rw [exec_jal, execJal, frame_runs h, branchTarget_eq, if_neg (by rw [jumpHeld_of_traced h2]; exact Bool.false_ne_true),
      jump_traced hpc hctx h2]
  · rw [exec_jr, execJr, jumpReg_jumps h r hm (writeRefused_none _ _) hh, writeReg_none, jump_traced rfl rfl h2]
  · intro w h2 hh
    obtain ⟨hpc, hctx⟩ := writeReg_keeps s1 s.cur t d (t.pc + 4)
    rw [exec_jalr, execJalr, jumpReg_jumps h r hm hw hh, jump_traced hpc hctx h2]
  · rw [exec_jr, execJr, jumpReg_misaligned h r hm]
  · rw [exec_jalr, execJalr, jumpReg_misaligned h r hm]
  · rw [exec_br, execBr, frame_runs h, jump_held hh]
  · rw [exec_jal, execJal, frame_runs h, if_pos hh]
  · rw [exec_jr, execJr, jumpReg_held h r hm (writeRefused_none _ _) hh]
  · rw [exec_jalr, execJalr, jumpReg_held h r hm hw hh]

end Sys2Proof.Machine
end

section
namespace Sys2Proof.Machine

/-! Reads of system registers (R60, R116). -/

theorem rdsr_reads {p : BitVec 3} {q : BitVec 1} {d : BitVec 4} {n : BitVec 14} {s : State} {t : Thread} {v : Word}
    (h : s.Issues p q 4 t) (r : s.Reads t [] [d] [] s) (hv : s.sysReg s.cur t n.toNat = some v)
    (w : State.writeRefused s.cur d v = false) : exec (.rdsr p q d n) s = .next (s.result s.cur t d v) := by
  rw [exec_rdsr, execRdsr, act_runs h r]
  simp only [hv, finish_accepted w]

/-- A thread that comes back from SyncWait to an instruction first issued while its context recorded (R80). -/
def resumedThread : Thread := { Thread.fresh 0 0 with wait := .sync, rmode := 1 }

/-- The reset state with that thread in slot 0 of core 0; its context's replay register is 0 by now. -/
def resumedState : State := { State.reset with threads := [(0, resumedThread)] }

theorem resumed_issues : resumedState.Issues 0 0 4 (resumedState.turned resumedThread 4) := ⟨resumedThread, rfl, rfl, rfl⟩

/-- Refutes O17 by its row 0x0C: a thread that resumes from SyncWait keeps the rmode of its first issue, and rdsr reads that 1 where
the context's replay register is 0 again. -/
theorem not_systemRegisterReads : ¬ Obligations.SystemRegisterReads := by
  intro h
  have reads : resumedState.Reads (resumedState.turned resumedThread 4) [] [0] [] resumedState := reads_plain (by decide)
  have stated : exec (.rdsr 0 0 0 0x0C) resumedState = .next (resumedState.result 0 (resumedState.turned resumedThread 4) 0 0) :=
    h 0 0 0 _ _ resumed_issues reads (0x0C, 0) (List.mem_of_getElem? (i := 12) rfl) rfl
  have actual : exec (.rdsr 0 0 0 0x0C) resumedState = .next (resumedState.result 0 (resumedState.turned resumedThread 4) 0 1) :=
    rdsr_reads resumed_issues reads rfl rfl
  have equal := Host.Outcome.next.inj (stated.symm.trans actual)
  have g0 : ∀ v, ((resumedState.result 0 (resumedState.turned resumedThread 4) 0 v).thread 0).map (·.reg 0) = some v := fun _ => rfl
  exact absurd ((g0 0).symm.trans (equal ▸ g0 1)) (by decide)

end Sys2Proof.Machine
end

section
namespace Sys2Proof.Machine

/-! Migration (R73, R74, R162, R175). -/

theorem drained_none {s k : State} {tid : Nat} {t : Thread} (h : t.relaxed = []) : s.drained tid t k = k := by
  rw [State.drained, h]
  rfl

theorem ship_drained {s : State} {tid target : Nat} {t : Thread} {ebad : Word} {past : Bool} (h : t.relaxed = []) :
    s.ship tid t target ebad past =
      ((s.vacate tid).modCore (coreOf tid) fun k => { k with reserved := NatSet.insert k.reserved (slotOf tid) }).send (coreOf tid)
        target 2 (.migrate target { t with wait := .ready, mat := none, prefixed := false } tid ebad past) :=
  drained_none h

theorem not_either_false {a b : Bool} (ha : a = true) (hb : b = true) : ¬ (a = false ∨ b = false) := by
  rw [ha, hb]
  decide

/-- Settles O25: the two instructions end in ship, which sends the packet once no relaxed access is outstanding. -/
theorem migrations : Obligations.Migrations := by
  refine ⟨fun w x s t ht hx he hr => ?_, fun p q a s t v s1 h r => ?_⟩
  · have run : exec (.extensionMigration w) s = .next (s.extMigrate s.cur t x w) := by
      change execExtensionMigration w s = _
      simp only [execExtensionMigration, ht, hx, he, Bool.false_eq_true, if_false]
    refine ⟨fun y hy => ?_, fun hn => ?_⟩
    · rw [run, State.extMigrate]
      simp only [hy, ship_drained hr]
    · rw [run, State.extMigrate]
      simp only [hn]
  · rw [exec_migrate, execMigrate, act_runs h r]
    refine ⟨fun hk hs hr hne => ?_, fun hk hs hr he => ?_, fun hno => ?_⟩
    · rw [if_neg (not_either_false hk hs), if_neg hne, if_pos (by rw [hr]; rfl), ship_drained hr]
    · rw [if_neg (not_either_false hk hs), if_pos he, drained_none hr]
    · rw [if_pos hno]

end Sys2Proof.Machine
end

section
namespace Sys2Proof.Machine

/-! A step runs the instruction that the bytes at the pc decode to (R66, R70, R91, R376). -/

/-- The position's own thread, Ready and due, has the core's turn. -/
theorem coreTurn_own {s : State} {c : Nat} {t : Thread} (ht : s.thread (16 * c + s.clock % 16) = some t) (hw : t.wait = .ready)
    (hs : t.start ≤ s.clock) (hd : s.tested = false) :
    s.coreTurn c = .own (s.turnOf (16 * c + s.clock % 16) t) := by
  have tests : t.tests = true := by rw [Thread.tests, hw]
  simp only [State.coreTurn, ht, hw, tests, hs, hd, and_self, if_true]

/-- The turn of a thread that runs and has no fault to deliver is its instruction's. -/
theorem turnOf_issues {s : State} {tid : Nat} {t : Thread} (hr : s.running (cxOf (coreOf tid) t) = true) (hf : t.relFault = none)
    (hv : t.vecFault = none ∨ t.seq.frozen = true) : s.turnOf tid t = { s with cur := tid }.issueAt tid t := by
  have run : ¬ ({ s with cur := tid }.running (cxOf (coreOf tid) t) = false ∧ t.prefixed = false) := by
    rintro ⟨h, -⟩
    exact Bool.false_ne_true (h.symm.trans hr)
  have vec : ¬ (t.vecFault.isSome = true ∧ t.seq.frozen = false) := by
    rcases hv with h | h <;> simp [h]
  rw [State.turnOf]
  simp only [if_neg run, hf, Option.isSome_none, Bool.false_eq_true, if_false, if_neg vec, ite_self]

/-- With no breakpoint at the pc, what follows the fetch of a word is its decoding. -/
theorem issueAt_word {s s1 : State} {tid : Nat} {t : Thread} {w : Word32} (hf : s.fetch (coreOf tid) t t.pc = .word w s1)
    (hw : w.toNat / 2 ^ 26 ≠ 63) (hb : ∀ e ∈ (s1.ctx (cxOf (coreOf tid) t)).bps, e.2.1 ≠ t.pc) :
    s.issueAt tid t = State.issueAt.go tid t [w] s1 := by
  have none : List.find? (fun e : Nat × (Word × Bool) => e.2.1 == t.pc) (s1.ctx (cxOf (coreOf tid) t)).bps = none :=
    List.find?_eq_none.2 fun e he => by simpa using hb e he
  simp only [State.issueAt, hf, if_pos hw, none]

/-- The same for the two words of a pair. -/
theorem issueAt_pair {s s1 s2 : State} {tid : Nat} {t : Thread} {w w2 : Word32} (hf : s.fetch (coreOf tid) t t.pc = .word w s1)
    (hw : w.toNat / 2 ^ 26 = 63) (hf2 : s1.fetch (coreOf tid) t (t.pc + 4) = .word w2 s2)
    (hb : ∀ e ∈ (s2.ctx (cxOf (coreOf tid) t)).bps, e.2.1 ≠ t.pc) : s.issueAt tid t = State.issueAt.go tid t [w, w2] s2 := by
  have none : List.find? (fun e : Nat × (Word × Bool) => e.2.1 == t.pc) (s2.ctx (cxOf (coreOf tid) t)).bps = none :=
    List.find?_eq_none.2 fun e he => by simpa using hb e he
  simp only [State.issueAt, hf, if_neg (not_not.2 hw), hf2, none]

/-- Words that decode, or that the decoder rejects, run; of a pair, in its second turn. -/
theorem go_runs {tid : Nat} {t : Thread} {ws : List Word32} {s : State} {i : Instr} {n : Nat}
    (h : decode (ws.flatMap fun w => leBytes 4 w.toNat) = .ok (i, n) ∨
      ∃ e, decode (ws.flatMap fun w => leBytes 4 w.toNat) = .error e ∧ i = rejected e)
    (hn : ¬ (n = 8 ∧ t.prefixed = false)) : State.issueAt.go tid t ws s = .run i { s with cur := tid } := by
  rcases h with h | ⟨e, h, rfl⟩
  · simp only [State.issueAt.go, h, if_neg hn]
  · simp only [State.issueAt.go, h]

theorem go_first_turn {tid : Nat} {t : Thread} {ws : List Word32} {s : State} {i : Instr}
    (h : decode (ws.flatMap fun w => leBytes 4 w.toNat) = .ok (i, 8)) (hp : t.prefixed = false) :
    State.issueAt.go tid t ws s = .idle (s.setThread tid { t with prefixed := true }) := by
  simp only [State.issueAt.go, h, hp, and_self, if_true]

/-- A line that the core's instruction cache holds gives the word at its place, and becomes the most recently used (log 17). -/
theorem fetch_cached {s : State} {c la : Nat} {t : Thread} {pc : Word} (hk : s.check c t.ctx pc 4 segX 4 = .ok la)
    (hr : laRegion (canonLa (corePkg c) la) = 0) (ha : pc.toNat % 4 = 0)
    (hl : lineOf (corePkg c) (canonLa (corePkg c) la) ∈ (s.core c).icache) :
    s.fetch c t pc = .word (BitVec.ofNat 32 (s.mem.read (s.place (.hbm (corePkg c) (canonLa (corePkg c) la) 0)).key 4))
      (s.modCore c fun k => { k with icache := useLine icacheLines (lineOf (corePkg c) (canonLa (corePkg c) la)) k.icache }) := by
  simp only [State.fetch, hk, ha, hr, ne_eq, not_true_eq_false, if_false, List.contains_iff_mem.2 hl, if_true]
  rfl

/-- Settles O1: the own thread has the turn, its words are fetched, and what they decode to runs. -/
theorem stepRunsDecoded : Obligations.StepRunsDecoded := by
  refine ⟨?_, fun s c la t pc hk => fun hr hp hl => fetch_cached hk hr hp hl, fun s e r ha => ?_, fun s ha hn => ?_⟩
  · intro s s1 s2 c t i w w2 ha hn tid now reads runs ht hw hs hd hr hf hv hb1 hb2 h1
    have hc : coreOf tid = c := by
      simp only [tid, coreOf]
      omega
    have turn : step s = runChoice s (fun u => u.ownEnds c s) (now.issueAt tid t) := by
      rw [step, ha]
      simp only [hn]
      rw [coreTurn_own ht hw hs hd, turnOf_issues (hc.symm ▸ hr) hf hv]
      rfl
    rw [← hc] at h1 hb1 hb2
    refine ⟨fun hm hi => ?_, fun hm hp h2 hi => ?_, fun hm hp h2 hi => ?_⟩
    · change step s = _
      rw [turn, issueAt_word h1 hm hb1, go_runs (n := 4) (by simpa using hi) (by simp)]
      rfl
    · change step s = _
      rw [turn, issueAt_pair h1 hm (hc.symm ▸ h2) hb2, go_runs (n := 8) (by simpa using hi) (by simp [hp])]
      rfl
    · rw [turn, issueAt_pair h1 hm (hc.symm ▸ h2) hb2, go_first_turn (by simpa using hi) hp]
      rfl
  · rw [step, ha]
  · rw [step, ha]
    simp only [hn]

end Sys2Proof.Machine
end

section
namespace Sys2Proof.Machine

/-! Sealing (R156 to R160). -/

/-- The numbers of SEAL_COMPLETE and UNSEAL_COMPLETE name a package and one of its operations. -/
theorem sealStep_place {pkg : Nat} (h : pkg < 8192) (i : Nat) : (pkg + 8192 * i) % 8192 = pkg ∧ (pkg + 8192 * i) / 8192 = i := by
  omega

theorem sealComplete_runs {pkg : Nat} (h : pkg < 8192) (i : Nat) (s : State) :
    exec (.sealComplete (pkg + 8192 * i)) s = .next (s.sealPage pkg i false) := by
  obtain ⟨h1, h2⟩ := sealStep_place h i
  rw [exec_sealComplete, execSealComplete, h1, h2]

theorem unsealComplete_runs {pkg : Nat} (h : pkg < 8192) (i : Nat) (s : State) :
    exec (.unsealComplete (pkg + 8192 * i)) s = .next (s.sealPage pkg i true) := by
  obtain ⟨h1, h2⟩ := sealStep_place h i
  rw [exec_unsealComplete, execUnsealComplete, h1, h2]

/-- The thread of an operation that ends waits for it in MemWait, and goes on after its instruction. -/
theorem sealDone_retires {s : State} {op : SealOp} {tid : Nat} {t : Thread} {r : Req} (ho : op.tid = some tid)
    (ht : s.thread tid = some t) (hw : t.wait = .mem r) (hk : r.kind = .sealing) : s.sealDone op none = s.retire tid t := by
  simp only [State.sealDone, ho, ht, hw, hk, if_true]

theorem sealDone_traps {s : State} {op : SealOp} {tid cause off : Nat} {t : Thread} {r : Req} (ho : op.tid = some tid)
    (ht : s.thread tid = some t) (hw : t.wait = .mem r) (hk : r.kind = .sealing) :
    s.sealDone op (some (cause, off)) = s.trap tid t cause (nth r.vals 0 + BitVec.ofNat 64 (off - r.n)) := by
  simp only [State.sealDone, ho, ht, hw, hk, if_true]

/-- A page of operation i is done: with the last one its thread goes on, else the next one is due. -/
def State.sealTaken (u : State) (pkg i tid : Nat) (t : Thread) (op : SealOp) (rest : List Nat) : State :=
  if rest = [] then (u.modPkg pkg fun k => { k with seals := k.seals.eraseIdx i }).retire tid t
  else u.modPkg pkg fun k => { k with seals := k.seals.set i { op with pages := rest } }

/-- Operation i of a package is a seal or an unseal of a thread that waits for it, with the page at off next (R158, R159). -/
structure State.SealDue (s : State) (pkg i : Nat) (op : SealOp) (undo : Bool) (off : Nat) (rest : List Nat) (tid : Nat) (t : Thread)
    (r : Req) : Prop where
  queued : (s.pkg pkg).seals[i]? = some op
  kind : op.undo = undo
  pages : op.pages = off :: rest
  owner : op.tid = some tid
  thread : s.thread tid = some t
  wait : t.wait = .mem r
  sealing : r.kind = .sealing

section
variable {s : State} {pkg i off tid w : Nat} {undo : Bool} {op : SealOp} {rest : List Nat} {e : Pte} {t : Thread} {r : Req}
  (d : s.SealDue pkg i op undo off rest tid t r)
include d

/-- An operation whose page has lost its entry ends with cause 0x07 (R158, R159). -/
theorem sealPage_unmapped (hn : (s.pkg pkg).walk 0 off = none) :
    s.sealPage pkg i undo = (s.modPkg pkg fun k => { k with seals := k.seals.eraseIdx i }).trap tid t 7
      (nth r.vals 0 + BitVec.ofNat 64 (off - r.n)) := by
  simp only [State.sealPage, d.queued, d.kind, ne_eq, not_true_eq_false, if_false, d.pages, hn]
  exact sealDone_traps d.owner d.thread d.wait d.sealing

variable (he : (s.pkg pkg).walk 0 off = some (w, e)) (hm : e.moving = false)
include he hm

/-- One page of an operation, by its state: 0 unsealed, 1 sealed, 2 being unsealed (R158, R159, R161). -/
theorem sealPage_page :
    s.sealPage pkg i undo =
      if (((s.pkg pkg).seals.take i).any fun o => o.pages.head? == some off) = true ∧
          (undo = false ∨ (s.pkg pkg).sealed.at 0 e.vpn ≠ 2) then s
      else if undo = false then
        if (s.pkg pkg).sealed.at 0 e.vpn = 2 then s
        else (s.modPkg pkg fun k => { k with sealed := k.sealed.put e.vpn 1 }).sealTaken pkg i tid t op rest
      else if (s.pkg pkg).sealed.at 0 e.vpn = 0 then s.sealTaken pkg i tid t op rest
      else if (s.pkg pkg).sealed.at 0 e.vpn = 1 then s.modPkg pkg fun k => { k with sealed := k.sealed.put e.vpn 2 }
      else ((s.modPkg pkg fun k => { k with sealed := k.sealed.del e.vpn }).dropReplicas pkg (e.vpn * 65536)
        (65536 * pageUnits e.big)).sealTaken pkg i tid t op rest := by
  obtain rfl := d.kind
  have taken : ∀ u : State, u.thread tid = some t →
      (if rest.isEmpty = true then (u.modPkg pkg fun k => { k with seals := k.seals.eraseIdx i }).sealDone op none
        else u.modPkg pkg fun k => { k with seals := k.seals.set i { op with pages := rest } }) =
      u.sealTaken pkg i tid t op rest := by
    intro u hu
    rw [State.sealTaken]
    simp only [List.isEmpty_iff, sealDone_retires (s := u.modPkg pkg _) d.owner hu d.wait d.sealing]
  simp only [State.sealPage, d.queued, ne_eq, not_true_eq_false, if_false, d.pages, he, hm, Bool.false_eq_true, false_or,
    List.tail_cons]
  rw [taken s d.thread, taken _ (by exact d.thread), taken _ (by exact d.thread)]

/-- An unseal that has begun at the page ends whatever else has reached the page (R161). -/
theorem sealPage_unsealed (hd : undo = true) (hs : (s.pkg pkg).sealed.at 0 e.vpn = 2) :
    s.sealPage pkg i undo = ((s.modPkg pkg fun k => { k with sealed := k.sealed.del e.vpn }).dropReplicas pkg (e.vpn * 65536)
      (65536 * pageUnits e.big)).sealTaken pkg i tid t op rest := by
  rw [sealPage_page d he hm, if_neg (by simp [hd, hs]), if_neg (by simp [hd]), if_neg (by simp [hs]),
    if_neg (by simp [hs])]

variable (hf : (((s.pkg pkg).seals.take i).any fun o => o.pages.head? == some off) = false)
include hf

theorem sealPage_seals (hd : undo = false) (hs : (s.pkg pkg).sealed.at 0 e.vpn ≠ 2) :
    s.sealPage pkg i undo =
      (s.modPkg pkg fun k => { k with sealed := k.sealed.put e.vpn 1 }).sealTaken pkg i tid t op rest := by
  rw [sealPage_page d he hm, if_neg (by simp [hf]), if_pos hd, if_neg hs]

theorem sealPage_waits (hd : undo = false) (hs : (s.pkg pkg).sealed.at 0 e.vpn = 2) : s.sealPage pkg i undo = s := by
  rw [sealPage_page d he hm, if_neg (by simp [hf]), if_pos hd, if_pos hs]

theorem sealPage_passes (hd : undo = true) (hs : (s.pkg pkg).sealed.at 0 e.vpn = 0) :
    s.sealPage pkg i undo = s.sealTaken pkg i tid t op rest := by
  rw [sealPage_page d he hm, if_neg (by simp [hf]), if_neg (by simp [hd]), if_pos hs]

theorem sealPage_begins (hd : undo = true) (hs : (s.pkg pkg).sealed.at 0 e.vpn = 1) :
    s.sealPage pkg i undo = s.modPkg pkg fun k => { k with sealed := k.sealed.put e.vpn 2 } := by
  rw [sealPage_page d he hm, if_neg (by simp [hf]), if_neg (by simp [hd]), if_neg (by simp [hs]), if_pos hs]

end

/-! The issue of seal and unseal, and of sealq. -/

/-- The operation that a thread's seal or unseal of a range queues (R157). -/
def SealOp.ofRange (tid : Nat) (undo : Bool) (l : List (Nat × Nat)) : SealOp :=
  { pkg := corePkg (coreOf tid), undo := undo, pages := l.map (·.1), tid := some tid, conn := 0, tag := 0 }

/-- The thread of a seal or unseal waits; its operation stands last in the package's queue, its pages noted (R157). -/
def State.sealQueued (s1 : State) (tid : Nat) (t : Thread) (undo : Bool) (va : Word) (la : Nat) (l : List (Nat × Nat)) : State :=
  ((s1.modCluster (clusterOf (coreOf tid)) fun k => k.touchPages l).modPkg (corePkg (coreOf tid)) fun k =>
    { k with seals := k.seals ++ [SealOp.ofRange tid undo l] }).wait tid t (.mem { kind := .sealing, vals := [va], n := la })

section
variable {word : Word32} {p : BitVec 3} {q : BitVec 1} {a b : BitVec 4} {undo : Bool} {s s1 : State} {t : Thread} {v : List Word}
  {lx la : Nat} {l : List (Nat × Nat)}
  (h : s.Issues p q 4 t) (r : s.Reads t [a, b] [] v s1) (hx : t.relaxed = [])
  (hk : s1.check (coreOf s.cur) t.ctx (nth v 0) (nth v 1).toNat segW 1 = .ok lx) (hl : la = canonLa (corePkg (coreOf s.cur)) lx)
  (hr : laRegion la = 0) (hs : la + (nth v 1).toNat ≤ 2 ^ 43)
include h r hx hk hl hr hs

theorem sealRange_empty (hn : (nth v 1).toNat = 0) : sealRange word p q a b undo s = .next (s1.retire s.cur t) := by
  have inside : ¬ (laRegion la ≠ 0 ∨ 2 ^ 43 < la + (nth v 1).toNat) := by omega
  rw [sealRange, act_runs h r]
  simp only [hk, ← hl, if_neg inside, drained_none hx, if_pos hn]

theorem sealRange_queued (hn : (nth v 1).toNat ≠ 0)
    (hp : (s1.cluster (clusterOf (coreOf s.cur))).pagesOf (la + (nth v 1).toNat) ((nth v 1).toNat / 65536 + 2) la [] = .all l)
    (hw : wholePages la (la + (nth v 1).toNat) l = true) :
    sealRange word p q a b undo s = .next (s1.sealQueued s.cur t undo (nth v 0) la l) := by
  have inside : ¬ (laRegion la ≠ 0 ∨ 2 ^ 43 < la + (nth v 1).toNat) := by omega
  rw [sealRange, act_runs h r]
  simp only [hk, ← hl, if_neg inside, drained_none hx, if_neg hn, hp, hw, Bool.not_true, Bool.false_eq_true, if_false]
  rfl

end

/-! The operation of a seal or unseal that has just been queued. -/

section
variable {s1 : State} {tid off w : Nat} {t : Thread} {undo : Bool} {va : Word} {la : Nat} {l : List (Nat × Nat)} {e : Pte}

theorem sealQueued_pkg : (s1.sealQueued tid t undo va la l).pkg (corePkg (coreOf tid)) =
    { s1.pkg (corePkg (coreOf tid)) with seals := (s1.pkg (corePkg (coreOf tid))).seals ++ [SealOp.ofRange tid undo l] } :=
  pkg_modPkg (s1.modCluster (clusterOf (coreOf tid)) fun k => k.touchPages l) _
    fun k => { k with seals := k.seals ++ [SealOp.ofRange tid undo l] }

theorem sealQueued_due (hl : l.map (·.1) = [off]) :
    (s1.sealQueued tid t undo va la l).SealDue (corePkg (coreOf tid)) (s1.pkg (corePkg (coreOf tid))).seals.length
      (SealOp.ofRange tid undo l) undo off [] tid (t.waiting (.mem { kind := .sealing, vals := [va], n := la }))
      { kind := .sealing, vals := [va], n := la } where
  queued := by rw [sealQueued_pkg, List.getElem?_concat_length]
  kind := rfl
  pages := hl
  owner := rfl
  thread := thread_setThread ..
  wait := rfl
  sealing := rfl

theorem sealQueued_walk : ((s1.sealQueued tid t undo va la l).pkg (corePkg (coreOf tid))).walk 0 off =
    (s1.pkg (corePkg (coreOf tid))).walk 0 off := by
  rw [sealQueued_pkg]
  rfl

theorem sealQueued_sealed : ((s1.sealQueued tid t undo va la l).pkg (corePkg (coreOf tid))).sealed =
    (s1.pkg (corePkg (coreOf tid))).sealed := by
  rw [sealQueued_pkg]

/-- The operations that stood before it in the queue. -/
theorem sealQueued_earlier : ((s1.sealQueued tid t undo va la l).pkg (corePkg (coreOf tid))).seals.take
    (s1.pkg (corePkg (coreOf tid))).seals.length = (s1.pkg (corePkg (coreOf tid))).seals := by
  rw [sealQueued_pkg]
  exact List.take_left ..

end

/-- The mark of a page in the package's record of what is sealed leaves an operation as it is. -/
theorem State.SealDue.mark {s : State} {pkg i off tid : Nat} {undo : Bool} {op : SealOp} {rest : List Nat} {t : Thread} {r : Req}
    (d : s.SealDue pkg i op undo off rest tid t r) (f : NatMap Nat → NatMap Nat) :
    (s.modPkg pkg fun k => { k with sealed := f k.sealed }).SealDue pkg i op undo off rest tid t r :=
  { d with
    queued := by rw [pkg_modPkg]; exact d.queued
    thread := d.thread }

/-! A range of one page, whose operation has just been queued behind others that have passed that page. -/

section
variable {s1 : State} {tid pkg i off w : Nat} {t : Thread} {va : Word} {la : Nat} {l : List (Nat × Nat)} {e : Pte}
  (hc : corePkg (coreOf tid) = pkg) (hi : (s1.pkg pkg).seals.length = i) (hpkg : pkg < 8192) (hl : l.map (·.1) = [off])
  (hf : ((s1.pkg pkg).seals.any fun o => o.pages.head? == some off) = false) (he : (s1.pkg pkg).walk 0 off = some (w, e))
  (hm : e.moving = false)
include hc hi hpkg hl hf he hm

theorem sealQueued_seals (hs : (s1.pkg pkg).sealed.at 0 e.vpn ≠ 2) :
    exec (.sealComplete (pkg + 8192 * i)) (s1.sealQueued tid t false va la l) =
      .next (((s1.sealQueued tid t false va la l).modPkg pkg fun k => { k with sealed := k.sealed.put e.vpn 1 }).sealTaken pkg i tid
        (t.waiting (.mem { kind := .sealing, vals := [va], n := la })) (SealOp.ofRange tid false l) []) := by
  subst hc hi
  rw [sealComplete_runs hpkg, sealPage_seals (sealQueued_due hl) (sealQueued_walk.trans he) hm
    (by rw [sealQueued_earlier]; exact hf) rfl (by rw [sealQueued_sealed]; exact hs)]

theorem sealQueued_passes (hs : (s1.pkg pkg).sealed.at 0 e.vpn = 0) :
    exec (.unsealComplete (pkg + 8192 * i)) (s1.sealQueued tid t true va la l) =
      .next ((s1.sealQueued tid t true va la l).sealTaken pkg i tid
        (t.waiting (.mem { kind := .sealing, vals := [va], n := la })) (SealOp.ofRange tid true l) []) := by
  subst hc hi
  rw [unsealComplete_runs hpkg, sealPage_passes (sealQueued_due hl) (sealQueued_walk.trans he) hm
    (by rw [sealQueued_earlier]; exact hf) rfl (by rw [sealQueued_sealed]; exact hs)]

theorem sealQueued_begins (hs : (s1.pkg pkg).sealed.at 0 e.vpn = 1) :
    exec (.unsealComplete (pkg + 8192 * i)) (s1.sealQueued tid t true va la l) =
      .next ((s1.sealQueued tid t true va la l).modPkg pkg fun k => { k with sealed := k.sealed.put e.vpn 2 }) := by
  subst hc hi
  rw [unsealComplete_runs hpkg, sealPage_begins (sealQueued_due hl) (sealQueued_walk.trans he) hm
    (by rw [sealQueued_earlier]; exact hf) rfl (by rw [sealQueued_sealed]; exact hs)]

end

/-- An unseal that has begun at the last page of its range ends with it. -/
theorem begun_unseals {s : State} {pkg i off tid w : Nat} {op : SealOp} {t : Thread} {r : Req} {e : Pte} (hpkg : pkg < 8192)
    (d : s.SealDue pkg i op true off [] tid t r) (he : (s.pkg pkg).walk 0 off = some (w, e)) (hm : e.moving = false) :
    exec (.unsealComplete (pkg + 8192 * i)) (s.modPkg pkg fun k => { k with sealed := k.sealed.put e.vpn 2 }) =
    .next ((((s.modPkg pkg fun k => { k with sealed := k.sealed.put e.vpn 2 }).modPkg pkg fun k =>
      { k with sealed := k.sealed.del e.vpn }).dropReplicas pkg (e.vpn * 65536) (65536 * pageUnits e.big)).sealTaken pkg i tid t
        op []) := by
  have mapped : ((s.modPkg pkg fun k => { k with sealed := k.sealed.put e.vpn 2 }).pkg pkg).walk 0 off = some (w, e) := by
    rw [pkg_modPkg]
    exact he
  rw [unsealComplete_runs hpkg, sealPage_unsealed (d.mark fun x => x.put e.vpn 2) mapped hm rfl (by rw [pkg_modPkg]; exact at_put_same ..)]

/-! sealq (R160), and fetches held on an unsealed page (R77). -/

theorem heardAt_pkg (s : State) (c : Nat) (l : Loc) (pkg : Nat) : (s.heardAt c l).pkg pkg = s.pkg pkg := by
  unfold State.heardAt
  split
  · rfl
  · split <;> rfl
  · split <;> rfl

theorem sealState_mapped {s : State} {pkg off w : Nat} {e : Pte} (h : (s.pkg pkg).walk 0 off = some (w, e)) :
    s.sealState pkg off = (s.pkg pkg).sealed.at 0 e.vpn := by
  simp only [State.sealState, h]

theorem sealState_heardAt (s : State) (c : Nat) (l : Loc) (pkg off : Nat) :
    (s.heardAt c l).sealState pkg off = s.sealState pkg off := by
  rw [State.sealState, heardAt_pkg]
  rfl

section
variable {p : BitVec 3} {q : BitVec 1} {d a : BitVec 4} {s s1 s2 : State} {t : Thread} {v : List Word} {la pkg off phys : Nat}
  (h : s.Issues p q 4 t) (r : s.Reads t [a] [d] v s1) (hx : t.relaxed = [])
  (hk : s1.check (coreOf s.cur) t.ctx (nth v 0) 1 segR 1 = .ok la)
include h r hx hk

/-- Nothing can be sealed outside region 0. -/
theorem sealq_outside (hr : laRegion (canonLa (corePkg (coreOf s.cur)) la) ≠ 0) (hw : State.writeRefused s.cur d 0 = false) :
    exec (.sealq p q d a) s = .next (s1.result s.cur t d 0) := by
  rw [exec_sealq, execSealq, act_runs h r]
  simp only [hk, drained_none hx, if_pos hr, finish_accepted hw]

theorem sealq_waits (hr : laRegion (canonLa (corePkg (coreOf s.cur)) la) = 0)
    (ht : s1.translate (coreOf s.cur) la = (.ok (.hbm pkg off phys), s2)) :
    exec (.sealq p q d a) s = .next (s2.wait s.cur t (.mem { kind := .sealq, word := wordOf (.sealq p q d a), d := d,
                                                             vals := [nth v 0], locs := [.hbm pkg off phys] })) := by
  rw [exec_sealq, execSealq, act_runs h r]
  simp only [hk, drained_none hx, if_neg (not_not.2 hr), ht]
  rfl

end

/-- A request goes out as it is where a plane of the fabric carries it as it is issued (R401). -/
theorem issued_linked {s : State} {c : Nat} {r : Req} (hh : r.held = false) (hl : ∀ l ∈ r.locs, s.linked c (s.place l) = true) :
    (Wait.mem r).issued s c = .mem r := by
  have none : (r.locs.any fun l => !s.linked c (s.place l)) = false :=
    List.any_eq_false.2 fun l hm => by simp [hl l hm]
  rw [Wait.issued, none, hh, Bool.or_false, ← hh]

/-- The answer of sealq is the state of the page as it is served. -/
theorem sealq_served {s : State} {tid pkg off phys : Nat} {t : Thread} {r : Req} (hk : r.kind = .sealq)
    (hl : r.locs = [.hbm pkg off phys])
    (hw : State.writeRefused tid r.d (BitVec.ofNat 64 (s.sealState pkg off)) = false) :
    s.served tid t r = (s.heardAt (coreOf tid) (s.place (.hbm pkg off phys))).result tid t r.d
      (BitVec.ofNat 64 (s.sealState pkg off)) := by
  simp only [State.served, hk, hl, List.headD_cons, State.complete, sealState_heardAt, finish_accepted hw]

/-- A request that a plane of the fabric carries is served where it waits (R401). -/
theorem memoryReply_serves {s : State} {tid : Nat} {t : Thread} {r : Req} (ht : s.thread tid = some t) (hw : t.wait = .mem r)
    (hh : r.held = false) : exec (.memoryReply tid) s = .next (s.served tid t r) := by
  rw [exec_memoryReply, execMemoryReply]
  simp only [ht, hw, hh, if_true]

theorem fetchHoldRelease_opens {s : State} {tid : Nat} {t : Thread} (ht : s.thread tid = some t) (hw : t.wait = .held .fetch)
    (ho : s.fetchOpen tid t t.pc = true)
    (h2 : ∀ w, s.wordAt (coreOf tid) t t.pc = some w → w.toNat / 2 ^ 26 = 63 → s.fetchOpen tid t (t.pc + 4) = true) :
    exec (.fetchHoldRelease tid) s = .next (s.setThread tid { t with wait := .ready }) := by
  rw [exec_fetchHoldRelease, execFetchHoldRelease, ht]
  refine if_pos ⟨hw, ho, ?_⟩
  split
  · next w hs =>
    rw [beq_eq_false_iff_ne]
    exact (em (w.toNat / 2 ^ 26 = 63)).symm.imp_right (h2 w hs)
  · exact .inl rfl

theorem fetchOpen_iff {s : State} {tid la : Nat} {t : Thread} {pc : Word} (h : s.check (coreOf tid) t.ctx pc 4 segX 4 = .ok la) :
    s.fetchOpen tid t pc = true ↔ s.sealState (corePkg (coreOf tid)) (canonLa (corePkg (coreOf tid)) la) ≠ 0 := by
  simp only [State.fetchOpen, h, bne_iff_ne]

/-- Settles O36: a seal or unseal of a range queues its operation, whose pages the two events take one at a time. -/
theorem sealing : Obligations.Sealing := by
  refine ⟨?_, ?_, fun s pkg off w e h => sealState_mapped h, ?_, fun s tid t ht hw ho h2 => fetchHoldRelease_opens ht hw ho h2,
    fun s tid la t pc h => fetchOpen_iff h⟩
  · intro p q a b s s1 t v lx la l h r hx n pkg wt waits hk hl hr hs
    have sealRuns := exec_sealPages p q a b s
    have unsealRuns := exec_unsealPages p q a b s
    refine ⟨fun hn => ⟨sealRuns.trans (sealRange_empty h r hx hk hl hr hs hn),
        unsealRuns.trans (sealRange_empty h r hx hk hl hr hs hn)⟩,
      fun hn hp hw => ⟨sealRuns.trans (sealRange_queued h r hx hk hl hr hs hn hp hw),
        unsealRuns.trans (sealRange_queued h r hx hk hl hr hs hn hp hw), fun off w e hpkg hoff hf he hm => ?_⟩⟩
    exact ⟨sealQueued_seals rfl rfl hpkg hoff hf he hm, sealQueued_passes rfl rfl hpkg hoff hf he hm, fun hst =>
      ⟨sealQueued_begins rfl rfl hpkg hoff hf he hm hst, begun_unseals hpkg (sealQueued_due hoff) (sealQueued_walk.trans he) hm⟩⟩
  · intro p q d a s s1 s2 t v la pkg off phys h r hx hk wt u
    refine ⟨fun hr hw => sealq_outside h r hx hk hr hw, fun hr ht => ⟨sealq_waits h r hx hk hr ht, fun hlink hw => ?_⟩⟩
    have out : wt.issued s2 (coreOf s.cur) = wt :=
      issued_linked rfl fun l hl => by rw [List.mem_singleton.1 hl]; exact hlink
    have waiting : u.thread s.cur = some (t.waiting wt) := by
      rw [← out]
      exact thread_setThread ..
    rw [memoryReply_serves waiting rfl rfl, sealq_served rfl rfl hw]
  · intro s pkg i off tid op rest w e t r hpkg hop hp ho ht hw hk taken st
    have due (undo : Bool) (hu : op.undo = undo) : s.SealDue pkg i op undo off rest tid t r := ⟨hop, hu, hp, ho, ht, hw, hk⟩
    refine ⟨fun hn => ⟨fun hu => ?_, fun hu => ?_⟩,
      fun he hm hf => ⟨fun hu hst => ?_, fun hu hst => ?_, fun hu hst => ?_, fun hu hst => ?_⟩, fun he hm hu hst => ?_⟩
    · rw [sealComplete_runs hpkg, sealPage_unmapped (due _ hu) hn]
    · rw [unsealComplete_runs hpkg, sealPage_unmapped (due _ hu) hn]
    · exact (sealComplete_runs hpkg i s).trans (congrArg _ (sealPage_seals (due _ hu) he hm hf rfl hst))
    · exact (sealComplete_runs hpkg i s).trans (congrArg _ (sealPage_waits (due _ hu) he hm hf rfl hst))
    · exact (unsealComplete_runs hpkg i s).trans (congrArg _ (sealPage_passes (due _ hu) he hm hf rfl hst))
    · exact (unsealComplete_runs hpkg i s).trans (congrArg _ (sealPage_begins (due _ hu) he hm hf rfl hst))
    · exact (unsealComplete_runs hpkg i s).trans (congrArg _ (sealPage_unsealed (due _ hu) he hm rfl hst))

end Sys2Proof.Machine
end

section
namespace Sys2Proof.Machine

/-! The state after reset (R193, R199 to R202, R431). -/

theorem reset_ctx (cx : Nat) : State.reset.ctx cx = Context.reset := rfl

theorem reset_thread (tid : Nat) : State.reset.thread tid = none := rfl

theorem reset_pkg (pkg : Nat) : State.reset.pkg pkg = Package.reset pkg := rfl

theorem reset_cluster (cl : Nat) : State.reset.cluster cl = Cluster.reset := rfl

theorem reset_core (c : Nat) : State.reset.core c = Core.reset := rfl

theorem reset_engine (e : Nat) : State.reset.engine e = Engine.reset := rfl

theorem reset_safe : State.reset.Safe := ⟨List.Pairwise.nil, fun _ he => absurd he List.not_mem_nil⟩

/-- R200: the slot table at reset gives the slots 0 to 14 two positions each. -/
theorem slotTabReset_entry : ∀ i, i < 30 → (slotTabReset.getD i 0).toNat = i % 15 := by decide

/-- Settles O4: no part of the reset state is stored, so that every number names a part at its reset value. -/
theorem resetState : Obligations.ResetState := by
  refine ⟨reset_safe, fun cx => ?_, reset_thread, fun pkg => ?_, fun cl => ?_, fun c => ?_, rfl, rfl, rfl, fun e => ?_⟩
  · rw [reset_ctx]; rfl
  · rw [reset_pkg]; exact ⟨rfl, rfl, rfl, rfl, rfl⟩
  · rw [reset_cluster]; exact ⟨rfl, rfl⟩
  · rw [reset_core]; exact ⟨rfl, rfl, rfl, slotTabReset_entry⟩
  · rw [reset_engine]; exact ⟨rfl, rfl⟩

end Sys2Proof.Machine
end

section
namespace Sys2Proof.Machine

/-! Compares (R105 to R107) and predicates (R79, R108). -/

/-- A compare whose condition holds of the operands as stated is one that Compares. -/
theorem compares_of_compareWith {i : Instr} {word : Word32} {len : Nat} {p : BitVec 3} {q : BitVec 1} {pd : BitVec 3} {c : BitVec 1}
    {srcs : List (BitVec 4)} {g : List Word → Bool} {f : List Word → Prop}
    (e : ∀ s, exec i s = compareWith word len p q pd c srcs s g) (hg : ∀ v, g v = true ↔ f v) : Compares i p q len pd c srcs f := by
  intro s t v s1 h r
  refine ⟨if c = 1 then g v && t.pred pd.toNat else g v, ?_, ?_⟩
  · rw [← hg v]
    split
    next hc => simp only [Bool.and_eq_true, hc, forall_const]
    next hc => simp only [hc, false_implies, and_true]
  · rw [e, compareWith, effect_runs h r]
    rfl

/-! The conditions, as the rows of R106 state them. -/

theorem ltSigned_iff (a b : Word) : ltSigned a b = true ↔ a.toInt < b.toInt := BitVec.slt_iff_toInt_lt

theorem not_ltSigned_iff (a b : Word) : (!ltSigned a b) = true ↔ b.toInt ≤ a.toInt := by
  rw [Bool.not_eq_true', ← Bool.not_eq_true, ltSigned_iff, not_lt]

theorem ult_iff (a b : Word) : a.ult b = true ↔ a.toNat < b.toNat := BitVec.ult_iff_toNat_lt

theorem not_ult_iff (a b : Word) : (!a.ult b) = true ↔ b.toNat ≤ a.toNat := by
  rw [Bool.not_eq_true', ← Bool.not_eq_true, ult_iff, not_lt]

/-- Extending an immediate leaves its signed value. -/
theorem sext14_toInt (imm : BitVec 14) : (sext14 imm).toInt = imm.toInt := BitVec.toInt_signExtend_of_le (by decide)

theorem sext38_toInt (imm : BitVec 38) : (sext38 imm).toInt = imm.toInt := BitVec.toInt_signExtend_of_le (by decide)

theorem compareRows_hold : compareRows := by
  intro p q pd c a b imm wide
  refine ⟨compares_of_compareWith (exec_eq p q pd c a b) fun _ => beq_iff_eq,
    compares_of_compareWith (exec_ne p q pd c a b) fun _ => bne_iff_ne,
    compares_of_compareWith (exec_lt p q pd c a b) fun _ => ltSigned_iff _ _,
    compares_of_compareWith (exec_ge p q pd c a b) fun _ => not_ltSigned_iff _ _,
    compares_of_compareWith (exec_ltu p q pd c a b) fun _ => ult_iff _ _,
    compares_of_compareWith (exec_geu p q pd c a b) fun _ => not_ult_iff _ _,
    compares_of_compareWith (exec_feq p q pd c a b) fun _ => Iff.rfl,
    compares_of_compareWith (exec_fne p q pd c a b) fun _ => Bool.not_eq_true' _ ▸ Iff.rfl,
    compares_of_compareWith (exec_flt p q pd c a b) fun _ => Iff.rfl,
    compares_of_compareWith (exec_fle p q pd c a b) fun _ => Bool.or_eq_true_iff,
    compares_of_compareWith (exec_funord p q pd c a b) fun _ => Bool.or_eq_true_iff,
    compares_of_compareWith (exec_cmpeqi p q pd c a imm) fun _ => beq_iff_eq,
    compares_of_compareWith (exec_cmpeqiI38 p q pd c a wide) fun _ => beq_iff_eq,
    compares_of_compareWith (exec_cmplti p q pd c a imm) fun _ => sext14_toInt imm ▸ ltSigned_iff _ _,
    compares_of_compareWith (exec_cmpltiI38 p q pd c a wide) fun _ => sext38_toInt wide ▸ ltSigned_iff _ _,
    compares_of_compareWith (exec_cmpltui p q pd c a imm) fun _ => ult_iff _ _,
    compares_of_compareWith (exec_cmpltuiI38 p q pd c a wide) fun _ => ult_iff _ _⟩

/-- R108: the word of pget has p0 to p7 as its bits 0 to 7. -/
theorem predWord_sum (t : Thread) :
    t.predWord.setWidth 64 = BitVec.ofNat 64 (((List.range 8).map fun i => (t.pred i).toNat * 2 ^ i).sum) := by
  have bits : ∀ x : BitVec 8, BitVec.setWidth 64 (x ||| 1) =
      BitVec.ofNat 64 (((List.range 8).map fun i => (i == 0 || x.getLsbD i).toNat * 2 ^ i).sum) := by decide
  exact bits t.p

/-- R108: pput takes bits 1 to 7 and leaves p0 true. -/
theorem pput_pred (t : Thread) (x : Word) {i : Nat} (hi : i < 8) :
    ({ t with p := x.setWidth 8 ||| 1 } : Thread).pred i = (i == 0 || x.getLsbD i) := by
  rcases Nat.eq_zero_or_pos i with rfl | hpos
  · rfl
  · simp [Thread.pred, hi, show i ≠ 0 by omega]

theorem predicateRows_hold : predicateRows := by
  intro p q pd pa pb d a
  refine ⟨fun s t h => ?_, computes_of_compute (exec_pget p q d) fun t _ => predWord_sum t, fun s t v s1 h r => ?_⟩
  · have none_read : s.Reads t [] [] [] s := reads_plain (by decide)
    exact ⟨(exec_pand p q pd pa pb s).trans (effect_runs h none_read), (exec_por p q pd pa pb s).trans (effect_runs h none_read),
      (exec_pxor p q pd pa pb s).trans (effect_runs h none_read), (exec_pandn p q pd pa pb s).trans (effect_runs h none_read)⟩
  · exact ⟨{ t with p := (nth v 0).setWidth 8 ||| 1 }, (exec_pput p q a s).trans (effect_runs h r), rfl, fun i hi => pput_pred t _ hi⟩

/-- Settles O9: a compare is compareWith with the row's condition, a predicate instruction an effect on p. -/
theorem compareResults : Obligations.CompareResults := ⟨compareRows_hold, predicateRows_hold⟩

end Sys2Proof.Machine
end

section
namespace Sys2Proof.Machine

/-! The frame of the instructions on general registers and predicates (R79, R95). -/

/-- Refutes O16 by its rmode: a thread that comes back from SyncWait to an add keeps the rmode of its first issue (R366), which the
statement has follow the context's replay register; the thread of resumedState has 1, its context 0. -/
theorem not_registerFrame : ¬ Obligations.RegisterFrame := by
  intro h
  have runs := computes_compute (exec_add 0 0 0 0 0) _ _ _ _ resumed_issues (reads_plain (by decide)) rfl
  obtain ⟨w, leaves, -, stated, -⟩ := (h 0 0 0 0 0 0 0 0 0 0 0 0 (by decide) (by decide) (by decide)).1 _ List.mem_cons_self
    resumedState resumedThread _ rfl runs
  have kept : some (1 : BitVec 2) = some w.rmode := congrArg (fun s : State => (s.thread 0).map fun u : Thread => u.rmode) leaves
  have followed : w.rmode = 0 := congrArg Thread.rmode stated
  rw [followed] at kept
  exact absurd kept (by decide)

end Sys2Proof.Machine
end

section
namespace Sys2Proof.Machine

/-! Taking a trap (R83, R121, R373). -/

/-- A thread in the trap handler at vec (R83). -/
def Thread.inHandler (t : Thread) (vec : Word) (cause : Nat) (ebad : Word) : Thread :=
  { t with tfl := true, sup := true, cause := BitVec.ofNat 8 cause, epc := t.pc, ebad := ebad, pc := vec, wait := .ready,
           passBp := false, prefixed := false, arrived := none, noEntry := none, replayFrom := none }

/-- With TFL clear, once the trap's record is written or not asked for, the thread is in its context's handler. -/
theorem trap_taken {s s2 : State} {tid : Nat} {t : Thread} {cause : Nat} {ebad : Word} (ht : t.tfl = false)
    (h : s.traceSoft (cxOf (coreOf tid) t) (coreDie (coreOf tid)) 1 (trapRecord s tid t cause ebad) = some s2) :
    s.trap tid t cause ebad = s2.setThread tid (t.inHandler (s2.ctx (cxOf (coreOf tid) t)).trapvec cause ebad) := by
  rw [trapRecord] at h
  simp only [State.trap, State.trapAt, ht, Bool.false_eq_true, if_false, h, Thread.inHandler]

theorem trapCurrent_traps {s : State} {t : Thread} {cause : Nat} {w : Word32} (h : s.thread s.cur = some t) :
    trapCurrent s cause w = .next (s.trap s.cur t cause (w.setWidth 64)) := by
  rw [trapCurrent, h]

theorem trapTaken_holds : trapTaken := by
  intro p q a w s s2 t taken traced ht
  refine ⟨fun _ _ => trap_taken ht, fun v s1 h r hs => ?_, fun h hs => ?_, fun h hs => ?_, fun h hs => ?_⟩
  · rw [exec_trap, execTrap, act_runs h r]
    exact congrArg _ (trap_taken ht hs)
  · rw [exec_brk, execBrk, frame_runs h]
    exact congrArg _ (trap_taken ht hs)
  · rw [exec_illegalInstruction, execIllegalInstruction, trapCurrent_traps h]
    exact congrArg _ (trap_taken ht hs)
  · rw [exec_extensionAbsent, execExtensionAbsent, trapCurrent_traps h]
    exact congrArg _ (trap_taken ht hs)

/-- With TFL set nothing is written: the thread stops, and says so in its trace (R83, R373). -/
theorem trap_stops {s : State} {tid : Nat} {t : Thread} {cause : Nat} {ebad : Word} (ht : t.tfl = true) :
    s.trap tid t cause ebad = s.stopThread tid
      { t with df := true, prefixed := false, arrived := none, noEntry := none, replayFrom := none } 2 := by
  simp only [State.trap, State.trapAt, ht, if_true]

/-- Settles O21: both are trapAt, by the thread's TFL. -/
theorem trapEntry : Obligations.TrapEntry := by
  refine ⟨trapTaken_holds, fun s tid t cause ebad ht => ?_, fun p q a s s1 t v h r hs hb => ?_⟩
  · exact trap_stops ht
  · rw [wrsr_writes 0 h hs r]
    change Host.Outcome.next (s1.retire s.cur { t with tfl := (nth v 0).getLsbD 5 }) = _
    rw [hb]

end Sys2Proof.Machine
end

section
namespace Sys2Proof.Machine

/-! Plain loads and stores that leave the core, fail a check or move the thread (R139, R158, R162, R163). -/

/-- An address of region 0 is its own canonical form. -/
theorem canonLa_region0 {pkg la : Nat} (h : laRegion la = 0) : canonLa pkg la = la := by
  rw [canonLa, if_neg]
  rintro ⟨h2, -⟩
  omega

/-- Only region 3 lies in the host's windows (R386, R392). -/
theorem windowLacks_inside {s : State} {pkg la need : Nat} (h : laRegion la ≠ 3) : s.windowLacks pkg la need = false := by
  rw [State.windowLacks, beq_eq_false_iff_ne.2 h, Bool.false_and]

theorem noProxy_inside {s : State} {pkg la : Nat} (h : laRegion la ≠ 3) : s.noProxy pkg la = false := by
  rw [State.noProxy, beq_eq_false_iff_ne.2 h, Bool.false_and]

section
variable {s0 s s2 : State} {tid : Nat} {t : Thread} {word : Word32} {regs : List (BitVec 4)} {la n need target : Nat} {va : Word}
  {k : State → State} {r : Loc → Req} {l : Loc}

/-- An access to the package's HBM whose page is mapped waits for its reply (R89, R139). -/
theorem access_hbm (hr : laRegion la = 0) (hl : s.translate (coreOf tid) la = (.ok l, s2))
    (hx : ∀ x ∈ t.relaxed, s2.touches x l n = false) :
    s0.access s tid t word regs la n need va k r = s2.wait tid t (.mem (r l)) := by
  have none_touched : (t.relaxed.any fun x => s2.touches x l n) = false := by
    simpa using hx
  have not_host : laRegion la ≠ 3 := by omega
  simp only [State.access, canonLa_region0 hr, hr, windowLacks_inside not_host, noProxy_inside not_host, hl, none_touched,
    Bool.false_eq_true, if_false, zero_ne_one]

/-- An access to another core's window moves the thread, or traps (R162, R163). -/
theorem access_window (hr : laRegion la = 1) (hc : laCore la ≠ coreOf tid) :
    s0.access s tid t word regs la n need va k r = s0.migrateAccess s tid t word regs (laCore la) va := by
  simp only [State.access, canonLa_local hr, hr, if_true, if_pos hc]

theorem migrateAccess_ships (hp : ∀ x ∈ regs, x.toNat < 12) (hs : s.holdsSlots (4 * corePkg target + t.ctx) target = true) :
    s0.migrateAccess s tid t word regs target va = s0.ship tid t target va := by
  have no_port : (regs.any fun x => decide (12 ≤ x.toNat)) = false := by
    simpa using hp
  simp only [State.migrateAccess, no_port, hs, Bool.not_true, Bool.false_eq_true, if_false]

/-- An access that names a port traps with its elements read, but where the trap is held they are left (R163, R374). -/
theorem migrateAccess_traps (hp : ∃ x ∈ regs, 12 ≤ x.toNat) :
    s0.migrateAccess s tid t word regs target va =
      if (s.trap tid t 1 (word.setWidth 64)).trapHeld tid then s0.trap tid t 1 (word.setWidth 64)
      else s.trap tid t 1 (word.setWidth 64) := by
  rw [State.migrateAccess, if_pos]
  simpa using hp

theorem trapHeld_iff : s.trapHeld tid = true ↔ ∃ u, s.thread tid = some u ∧ u.wait = .held .trap := by
  rw [State.trapHeld]
  cases s.thread tid <;> simp

end

section
variable {word : Word32} {len : Nat} {p : BitVec 3} {q : BitVec 1} {d a : BitVec 4} {imm : Word} {n la : Nat} {sgn : Bool}
  {s s1 : State} {t : Thread} {v : List Word} {x : Trap}

theorem loadPlain_refused (h : s.Issues p q len t) (r : s.Reads t [a] [d] v s1)
    (hk : s1.check (coreOf s.cur) t.ctx (nth v 0 + imm) n segR n = .error x) :
    loadPlain word len p q d a imm n sgn s = .next (s.trapAt s.cur t t.pc x) := by
  rw [loadPlain, act_runs h r]
  simp only [hk]

/-- What a load asks for where it leaves the core; k is what it does on the core's own store. -/
theorem loadPlain_accesses (h : s.Issues p q len t) (r : s.Reads t [a] [d] v s1)
    (hk : s1.check (coreOf s.cur) t.ctx (nth v 0 + imm) n segR n = .ok la) :
    ∃ k, loadPlain word len p q d a imm n sgn s = .next (s.access s1 s.cur t word [a, d] la n segR (nth v 0 + imm) k fun l =>
      { kind := .load, word := word, d := d, vals := [nth v 0 + imm], locs := [l], n := n, sgn := sgn }) := by
  rw [loadPlain, act_runs h r]
  simp only [hk]
  exact ⟨_, rfl⟩

theorem storePlain_refused (h : s.Issues p q len t) (r : s.Reads t [a, d] [] v s1)
    (hk : s1.check (coreOf s.cur) t.ctx (nth v 0 + imm) n segW n = .error x) :
    storePlain word len p q d a imm n s = .next (s.trapAt s.cur t t.pc x) := by
  rw [storePlain, act_runs h r]
  simp only [hk]

theorem storePlain_accesses (h : s.Issues p q len t) (r : s.Reads t [a, d] [] v s1)
    (hk : s1.check (coreOf s.cur) t.ctx (nth v 0 + imm) n segW n = .ok la) :
    ∃ k, storePlain word len p q d a imm n s = .next (s.access s1 s.cur t word [a, d] la n segW (nth v 0 + imm) k fun l =>
      { kind := .store, vals := [nth v 0 + imm, nth v 1], locs := [l], n := n }) := by
  rw [storePlain, act_runs h r]
  simp only [hk]
  exact ⟨_, rfl⟩

end

/-! The replies (R139, R401). -/

section
variable {s : State} {tid : Nat} {t : Thread} {r : Req} {l : Loc}

/-- A request that no plane of the fabric carries waits on (R401). -/
theorem memoryReply_unlinked (ht : s.thread tid = some t) (hw : t.wait = .mem r) (hh : r.held = true) (hl : r.locs = [l])
    (hf : s.linked (coreOf tid) (s.place l) = false) : exec (.memoryReply tid) s = .next s := by
  rw [exec_memoryReply, execMemoryReply]
  simp [ht, hw, hh, hl, hf]

/-- A held request that a plane carries leaves, and is served as one that has left (R401). -/
theorem memoryReply_linked (ht : s.thread tid = some t) (hw : t.wait = .mem r) (hh : r.held = true) (hl : r.locs = [l])
    (hf : s.linked (coreOf tid) (s.place l) = true) :
    exec (.memoryReply tid) s =
      exec (.memoryReply tid) (s.setThread tid { t with wait := .mem { r with held := false } }) := by
  rw [memoryReply_serves (thread_setThread ..) rfl rfl, exec_memoryReply, execMemoryReply]
  simp [ht, hw, hh, hl, hf]

theorem loadServed_good (hl : r.locs = [l])
    (hg : ((s.heardAt (coreOf tid) (s.place l)).readGood (clusterOf (coreOf tid)) (s.place l) r.n).1 = true)
    (hw : State.writeRefused tid r.d
      (extended r.n r.sgn ((s.heardAt (coreOf tid) (s.place l)).mem.read (s.place l).key r.n)) = false) :
    s.loadServed tid t r =
      ((s.heardAt (coreOf tid) (s.place l)).readGood (clusterOf (coreOf tid)) (s.place l) r.n).2.result tid t r.d
        (extended r.n r.sgn ((s.heardAt (coreOf tid) (s.place l)).mem.read (s.place l).key r.n)) := by
  simp only [State.loadServed, hl, List.headD_cons, hg, Bool.not_true, Bool.false_eq_true, if_false, finish_accepted hw]

/-- R139: uncorrectable data refuse the load with cause 0x08. -/
theorem loadServed_bad (hl : r.locs = [l])
    (hg : ((s.heardAt (coreOf tid) (s.place l)).readGood (clusterOf (coreOf tid)) (s.place l) r.n).1 = false) :
    s.loadServed tid t r = (s.heardAt (coreOf tid) (s.place l)).trap tid t 8 (nth r.vals 0) := by
  simp only [State.loadServed, hl, List.headD_cons, hg, Bool.not_false, if_true]

theorem storeServed_open (hl : r.locs = [l]) (hs : (s.heardAt (coreOf tid) (s.place l)).sealedAt (s.place l) = false) :
    s.storeServed tid t r =
      ((s.heardAt (coreOf tid) (s.place l)).store (s.place l).key r.n (nth r.vals 1).toNat).retire tid t := by
  simp only [State.storeServed, hl, List.headD_cons, hs, Bool.false_eq_true, if_false]

/-- R158: a sealed page refuses the store with cause 0x05. -/
theorem storeServed_sealed (hl : r.locs = [l]) (hs : (s.heardAt (coreOf tid) (s.place l)).sealedAt (s.place l) = true) :
    s.storeServed tid t r = (s.heardAt (coreOf tid) (s.place l)).trap tid t 5 (nth r.vals 0) := by
  simp only [State.storeServed, hl, List.headD_cons, hs, if_true]

end

/-! Sealed data and the cluster's replica cache (R309). -/

section
variable {s : State} {cl pkg off phys n : Nat}

/-- Bytes of one line are read as that line. -/
theorem readGood_line (h : off % 256 + n ≤ 256) :
    s.readGood cl (.hbm pkg off phys) n = s.readLine cl (.hbm pkg off phys) n :=
  if_pos (by omega)

theorem readLine_unsealed (h : s.sealState pkg off = 0) :
    s.readLine cl (.hbm pkg off phys) n = (!s.isBad (Loc.hbm pkg off phys).key n, s) := if_pos h

/-- A sealed page's line is taken from the replica cache or brought into it, or its bytes are read in place. -/
theorem readLine_cases (s : State) (cl pkg off phys n : Nat) :
    s.readLine cl (.hbm pkg off phys) n = (true, s.useReplica cl (lineOf pkg off)) ∨
    s.readLine cl (.hbm pkg off phys) n = (!s.isBad (Loc.hbm pkg off phys).key n, s) := by
  by_cases unsealed : s.sealState pkg off = 0
  · exact .inr (if_pos unsealed)
  by_cases held : (s.cluster cl).holdsLine (lineOf pkg off) = true
  · exact .inl ((if_neg unsealed).trans (if_pos held))
  by_cases comes : s.sealState pkg off = 1 ∧ s.isBad (Loc.hbm pkg off (phys / 256 * 256)).key 256 = false
  · exact .inl ((if_neg unsealed).trans ((if_neg held).trans (if_pos comes)))
  · exact .inr ((if_neg unsealed).trans ((if_neg held).trans (if_neg comes)))

theorem readLine_good (h : s.isBad (Loc.hbm pkg off phys).key n = false) : (s.readLine cl (.hbm pkg off phys) n).1 = true := by
  rcases readLine_cases s cl pkg off phys n with e | e
  · rw [e]
  · rw [e, h]
    rfl

theorem readLine_mem : (s.readLine cl (.hbm pkg off phys) n).2.mem = s.mem := by
  rcases readLine_cases s cl pkg off phys n with e | e
  · rw [e]
    rfl
  · rw [e]

end

/-- Settles O30: a plain access is its check and then State.access, whose request State.served answers. -/
theorem remoteAccess : Obligations.RemoteAccess := by
  refine ⟨?_, ?_, ?_⟩
  · intro p q d a imm s t v s1 la h va c
    have load : exec (.ldw p q d a imm) s = loadPlain (wordOf (.ldw p q d a imm)) 4 p q d a (imm.signExtend 64) 4 true s :=
      exec_ldw p q d a imm s
    have store : exec (.stw p q d a imm) s = storePlain (wordOf (.stw p q d a imm)) 4 p q d a (imm.signExtend 64) 4 s :=
      exec_stw p q d a imm s
    rw [load, store]
    refine ⟨fun x r hk => loadPlain_refused h r hk, fun x r hk => storePlain_refused h r hk, fun l s2 r hk hr hl hx => ?_,
      fun l s2 r hk hr hl hx => ?_, fun r hk hr hc ha hd hs => ?_, fun r hk hr hc hp => ?_⟩
    · obtain ⟨k, e⟩ := loadPlain_accesses h r hk
      rw [e, access_hbm hr hl hx]
    · obtain ⟨k, e⟩ := storePlain_accesses h r hk
      rw [e, access_hbm hr hl hx]
    · obtain ⟨k, e⟩ := loadPlain_accesses h r hk
      rw [e, access_window hr hc, migrateAccess_ships (by simp [ha, hd]) hs]
    · obtain ⟨k, e⟩ := loadPlain_accesses h r hk
      rw [e, access_window hr hc, migrateAccess_traps (by simpa using hp)]
      refine ⟨fun free => ?_, fun u hu hw => ?_⟩
      · rw [if_neg fun held => ?_]
        obtain ⟨u, hu, hw⟩ := trapHeld_iff.1 held
        exact free u hu hw
      · rw [if_pos (trapHeld_iff.2 ⟨u, hu, hw⟩)]
  · intro s tid n t d va x l sgn word ht l' s1 g v
    refine ⟨fun r hw hh hl => ⟨memoryReply_unlinked ht hw hh hl, memoryReply_linked ht hw hh hl⟩, fun hw hg hd => ?_,
      fun hw hg => ?_, fun hw hs => ?_, fun hw hs => ?_⟩
    · rw [memoryReply_serves ht hw rfl]
      exact congrArg _ (loadServed_good rfl hg hd)
    · rw [memoryReply_serves ht hw rfl]
      exact congrArg _ (loadServed_bad rfl hg)
    · rw [memoryReply_serves ht hw rfl]
      exact congrArg _ (storeServed_open rfl hs)
    · rw [memoryReply_serves ht hw rfl]
      exact congrArg _ (storeServed_sealed rfl hs)
  · intro s cl pkg off phys n hn l
    rw [readGood_line hn]
    exact ⟨readLine_unsealed, readLine_good, readLine_mem⟩

end Sys2Proof.Machine
end

section
namespace Sys2Proof.Machine

/-! Integer arithmetic (R96 to R99): what the values of the INT-R rows are, bit by bit or as numbers. -/

theorem shamt_eq (b : Word) : shamt b = b.toNat % 64 := by
  simp only [shamt, bits, Nat.pow_zero, Nat.div_one, Nat.reduceAdd, Nat.reducePow, Nat.reduceSub]

/-! Rotates: the two shifted halves meet at the amount. -/

theorem rotLeft_bit (a b : Word) {i : Nat} (h : i < 64) : (rotLeft a b).getLsbD ((i + b.toNat % 64) % 64) = a.getLsbD i := by
  have amount : b.toNat % 64 < 64 := Nat.mod_lt _ (by decide)
  rw [rotLeft, shamt_eq, BitVec.getLsbD_or, BitVec.getLsbD_shiftLeft, BitVec.getLsbD_ushiftRight]
  generalize b.toNat % 64 = k at amount
  rcases Nat.lt_or_ge (i + k) 64 with inside | wraps
  · rw [Nat.mod_eq_of_lt inside, BitVec.getLsbD_of_ge a (64 - k + (i + k)) (by omega)]
    simp [inside]
  · rw [show (i + k) % 64 = i + k - 64 by omega, show 64 - k + (i + k - 64) = i by omega]
    simp [show i + k - 64 < k by omega]

theorem rotRight_bit (a b : Word) {i : Nat} (h : i < 64) : (rotRight a b).getLsbD i = a.getLsbD ((i + b.toNat % 64) % 64) := by
  have amount : b.toNat % 64 < 64 := Nat.mod_lt _ (by decide)
  rw [rotRight, shamt_eq, BitVec.getLsbD_or, BitVec.getLsbD_ushiftRight, BitVec.getLsbD_shiftLeft]
  generalize b.toNat % 64 = k at amount
  rcases Nat.lt_or_ge (i + k) 64 with inside | wraps
  · rw [Nat.mod_eq_of_lt inside, Nat.add_comm k i]
    simp [show i < 64 - k by omega]
  · rw [BitVec.getLsbD_of_ge a _ (by omega), show (i + k) % 64 = i - (64 - k) by omega]
    simp [h, show ¬ i < 64 - k by omega]

/-! High halves and quotients: each exact value lies in a word's range. -/

theorem mulHigh_toInt (a b : Word) : (mulHigh a b).toInt = a.toInt * b.toInt / 2 ^ 64 := by
  have low : -2 ^ 126 ≤ a.toInt * b.toInt := BitVec.le_toInt_mul_toInt
  have high : a.toInt * b.toInt ≤ 2 ^ 126 := BitVec.toInt_mul_toInt_le
  exact BitVec.toInt_ofInt_eq_self (by decide) (by omega) (by omega)

theorem mulHighU_toNat (a b : Word) : (mulHighU a b).toNat = a.toNat * b.toNat / 2 ^ 64 := by
  have product : a.toNat * b.toNat < 2 ^ 64 * 2 ^ 64 := Nat.mul_lt_mul'' a.isLt b.isLt
  rw [mulHighU, BitVec.toNat_ofNat, Nat.mod_eq_of_lt (Nat.div_lt_of_lt_mul product)]

theorem divSigned_toInt {a b : Word} (hb : b ≠ 0) (h : ¬ (a = 0x8000000000000000 ∧ b = 0xFFFFFFFFFFFFFFFF)) :
    (divSigned a b).toInt = a.toInt.tdiv b.toInt := by
  rw [divSigned, if_neg hb, BitVec.toInt_ofInt, ← BitVec.toInt_sdiv]
  exact BitVec.toInt_sdiv_of_ne_or_ne a b (Decidable.not_and_iff_or_not.1 h)

theorem remSigned_toInt {a b : Word} (hb : b ≠ 0) : (remSigned a b).toInt = a.toInt - b.toInt * a.toInt.tdiv b.toInt := by
  rw [remSigned, if_neg hb, ← BitVec.toInt_srem, BitVec.ofInt_toInt, BitVec.toInt_srem, Int.tmod_def]

theorem divUnsigned_toNat {a b : Word} (hb : b ≠ 0) : (divUnsigned a b).toNat = a.toNat / b.toNat := by
  rw [divUnsigned, if_neg hb, BitVec.toNat_ofNat, Nat.mod_eq_of_lt (Nat.lt_of_le_of_lt (Nat.div_le_self ..) a.isLt)]

theorem remUnsigned_toNat {a b : Word} (hb : b ≠ 0) : (remUnsigned a b).toNat = a.toNat - b.toNat * (a.toNat / b.toNat) := by
  rw [remUnsigned, if_neg hb, BitVec.toNat_ofNat, Nat.mod_eq_of_lt (Nat.lt_of_le_of_lt (Nat.mod_le ..) a.isLt), Nat.mod_eq_sub]

/-! Counts and the reversal, by the number of bits looked at. -/

theorem leadingZeros_spec (a : Word) (n : Nat) : leadingZeros a n ≤ n ∧
    (∀ i, i < leadingZeros a n → a.getLsbD (n - 1 - i) = false) ∧
    (leadingZeros a n < n → a.getLsbD (n - 1 - leadingZeros a n) = true) := by
  induction n with
  | zero => simp [leadingZeros]
  | succ n ih =>
    obtain ⟨le, zeros, one⟩ := ih
    rw [leadingZeros]
    split
    case isTrue top => simpa using top
    case isFalse top =>
      refine ⟨by omega, fun i hi => ?_, fun hn => ?_⟩
      · rcases i with _ | i
        · simpa using top
        · rw [show n + 1 - 1 - (i + 1) = n - 1 - i by omega]
          exact zeros i (by omega)
      · rw [show n + 1 - 1 - (1 + leadingZeros a n) = n - 1 - leadingZeros a n by omega]
        exact one (by omega)

theorem trailingZeros_spec (a : Word) {n : Nat} (hn : n ≤ 64) : trailingZeros a n ≤ n ∧
    (∀ i, i < trailingZeros a n → a.getLsbD (64 - n + i) = false) ∧
    (trailingZeros a n < n → a.getLsbD (64 - n + trailingZeros a n) = true) := by
  induction n with
  | zero => simp [trailingZeros]
  | succ n ih =>
    obtain ⟨le, zeros, one⟩ := ih (by omega)
    rw [trailingZeros]
    split
    case isTrue bottom =>
      refine ⟨by omega, fun i hi => absurd hi (by omega), fun _ => ?_⟩
      rwa [show 64 - (n + 1) + 0 = 63 - n by omega]
    case isFalse bottom =>
      refine ⟨by omega, fun i hi => ?_, fun hn => ?_⟩
      · rcases i with _ | i
        · rw [show 64 - (n + 1) + 0 = 63 - n by omega]
          exact Bool.eq_false_iff.2 bottom
        · rw [show 64 - (n + 1) + (i + 1) = 64 - n + i by omega]
          exact zeros i (by omega)
      · rw [show 64 - (n + 1) + (1 + trailingZeros a n) = 64 - n + trailingZeros a n by omega]
        exact one (by omega)

theorem oneBits_eq (a : Word) (n : Nat) : oneBits a n = ((List.range n).filter fun i => a.getLsbD i).length := by
  induction n with
  | zero => rfl
  | succ n ih =>
    rw [oneBits, ih, List.range_succ, List.filter_append, List.length_append, List.filter_singleton]
    cases a.getLsbD n <;> rfl

theorem reverseBits_bit (a : Word) {n i : Nat} (h : i < n) : (reverseBits a n).testBit i = a.getLsbD (n - 1 - i) := by
  induction n generalizing i with
  | zero => omega
  | succ n ih =>
    have low : (a.getLsbD n).toNat < 2 := Bool.toNat_lt _
    rw [reverseBits]
    rcases i with _ | i
    · rw [Nat.testBit_zero, Nat.mul_add_mod, Nat.mod_eq_of_lt low, Nat.add_sub_cancel, Nat.sub_zero]
      cases a.getLsbD n <;> rfl
    · rw [Nat.testBit_succ, show (2 * reverseBits a n + (a.getLsbD n).toNat) / 2 = reverseBits a n by omega, ih (by omega),
        show n + 1 - 1 - (i + 1) = n - 1 - i by omega]

/-! Bit fields: the mask of a length, and where the position puts it. -/

theorem fieldPos_eq (b : Word) : fieldPos b = b.toNat % 64 := shamt_eq b

theorem lowMask_bit (n : Nat) {i : Nat} (h : i < 64) : (lowMask n).getLsbD i = decide (i < n) := by
  rw [lowMask, BitVec.getLsbD_ofNat, Nat.testBit_two_pow_sub_one, decide_eq_true h, Bool.true_and]

theorem extractField_bit (a b : Word) {i : Nat} (h : i < 64) : (extractField a b).getLsbD i =
    (decide (i < min (b.toNat / 256 % 128) 64) && a.getLsbD (b.toNat % 64 + i)) := by
  rw [extractField, BitVec.getLsbD_and, BitVec.getLsbD_ushiftRight, lowMask_bit _ h, fieldPos_eq, Bool.and_comm]
  rfl

theorem insertField_bit (c a b : Word) {i : Nat} (h : i < 64) : (insertField c a b).getLsbD i =
    if b.toNat % 64 ≤ i ∧ i < b.toNat % 64 + min (b.toNat / 256 % 128) 64 then a.getLsbD (i - b.toNat % 64) else c.getLsbD i := by
  have mask : (lowMask (fieldLen b) <<< fieldPos b).getLsbD i =
      decide (b.toNat % 64 ≤ i ∧ i < b.toNat % 64 + min (b.toNat / 256 % 128) 64) := by
    rw [BitVec.getLsbD_shiftLeft, lowMask_bit _ (by omega), fieldPos_eq, Bool.eq_iff_iff]
    simp only [h, decide_true, Bool.true_and, Bool.and_eq_true, Bool.not_eq_true', decide_eq_false_iff_not, decide_eq_true_eq]
    change _ ∧ _ < min (b.toNat / 256 % 128) 64 ↔ _
    omega
  simp only [insertField, BitVec.getLsbD_or, BitVec.getLsbD_and, BitVec.getLsbD_not, mask, h, decide_true, Bool.true_and]
  rw [BitVec.getLsbD_shiftLeft, fieldPos_eq]
  split
  case isTrue inside => simp [inside, h, show ¬ i < b.toNat % 64 by omega]
  case isFalse outside => simp [outside]

theorem zeroLow_mask (a : Word) (n : Nat) : zeroLow a n = a &&& BitVec.ofNat 64 (2 ^ n - 1) := by
  refine BitVec.eq_of_getLsbD_eq fun i hi => ?_
  rw [BitVec.getLsbD_and, BitVec.getLsbD_ofNat, Nat.testBit_two_pow_sub_one, zeroLow, BitVec.getLsbD_setWidth, BitVec.getLsbD_setWidth,
    decide_eq_true hi, Bool.true_and, Bool.true_and, Bool.and_comm]

theorem integerRows_hold : integerRows := fun p q d a b =>
  ⟨computes_compute (exec_add p q d a b), computes_compute (exec_sub p q d a b), computes_compute (exec_and p q d a b),
    computes_compute (exec_or p q d a b), computes_compute (exec_xor p q d a b), computes_compute (exec_andn p q d a b),
    computes_compute (exec_orn p q d a b), computes_of_compute (exec_sll p q d a b) fun _ _ => by rw [shamt_eq],
    computes_of_compute (exec_srl p q d a b) fun _ _ => by rw [shamt_eq],
    computes_of_compute (exec_sra p q d a b) fun _ _ => by rw [shamt_eq, sshiftRight_eq], computes_compute (exec_rol p q d a b),
    computes_compute (exec_ror p q d a b), computes_compute (exec_mul p q d a b), computes_compute (exec_mulh p q d a b),
    computes_compute (exec_mulhu p q d a b), computes_compute (exec_div p q d a b), computes_compute (exec_divu p q d a b),
    computes_compute (exec_rem p q d a b), computes_compute (exec_remu p q d a b),
    computes_of_compute (exec_min p q d a b) fun _ _ => by simp only [ltSigned_iff],
    computes_of_compute (exec_max p q d a b) fun _ _ => by simp only [ltSigned_iff],
    computes_of_compute (exec_minu p q d a b) fun _ _ => by simp only [BitVec.ult_iff_lt],
    computes_of_compute (exec_maxu p q d a b) fun _ _ => by simp only [BitVec.ult_iff_lt], computes_compute (exec_clz p q d a),
    computes_compute (exec_ctz p q d a), computes_compute (exec_popc p q d a), computes_compute (exec_brev p q d a),
    computes_compute (exec_sextb p q d a), computes_compute (exec_sexth p q d a), computes_compute (exec_sextw p q d a),
    computes_of_compute (exec_zextb p q d a) fun _ _ => zeroLow_mask _ _,
    computes_of_compute (exec_zexth p q d a) fun _ _ => zeroLow_mask _ _,
    computes_of_compute (exec_zextw p q d a) fun _ _ => zeroLow_mask _ _, computes_compute (exec_bfx p q d a b),
    computes_compute (exec_bfi p q d a b)⟩

theorem integerValues_hold : integerValues := fun a b c =>
  have ⟨clz, clzZeros, clzOne⟩ := leadingZeros_spec a 64
  have ⟨ctz, ctzZeros, ctzOne⟩ := trailingZeros_spec a (Nat.le_refl 64)
  ⟨fun _ h => ⟨rotLeft_bit a b h, rotRight_bit a b h⟩, ⟨mulHigh_toInt a b, mulHighU_toNat a b⟩, ⟨rfl, rfl, rfl, rfl⟩,
    ⟨by decide, by decide⟩, fun hb h => ⟨divSigned_toInt hb h, remSigned_toInt hb⟩,
    fun hb => ⟨divUnsigned_toNat hb, remUnsigned_toNat hb⟩, ⟨clz, clzZeros, clzOne⟩,
    ⟨ctz, fun i h => Nat.zero_add i ▸ ctzZeros i h, fun h => Nat.zero_add (trailingZeros a 64) ▸ ctzOne h⟩, oneBits_eq a 64,
    fun i h => by rw [BitVec.getLsbD_ofNat, decide_eq_true h, Bool.true_and, reverseBits_bit a h],
    fun _ h => extractField_bit a b h, fun _ h => insertField_bit c a b h⟩

/-- Settles O7: each row is compute, and each value is found bit by bit or as a number in a word's range. -/
theorem integerResults : Obligations.IntegerResults := ⟨integerRows_hold, integerValues_hold⟩

end Sys2Proof.Machine
end

section
namespace Sys2Proof.Machine

/-! Conversion (R114, R115). -/

theorem decode_low (f : Fmt) (w : Nat) : f.decode (w % 2 ^ f.width) = f.decode w := by
  simp only [Fmt.decode, Nat.mod_mod]

theorem signLow_pattern (w : Nat) {n : Nat} (h : n ≤ 64) : signLow (BitVec.ofNat 64 w) n = (BitVec.ofNat n w).signExtend 64 :=
  congrArg (BitVec.signExtend 64) (BitVec.setWidth_ofNat_of_le h w)

/-- R115: only the signed integers below 64 bits differ from their zero-extended pattern. -/
theorem cvtImage_eq (f : Fmt) (w : Nat) : cvtImage f w =
    if f = .i8 ∨ f = .i16 ∨ f = .i32 then (BitVec.ofNat f.width w).signExtend 64 else BitVec.ofNat 64 w := by
  cases f
  case i8 | i16 | i32 => exact (signLow_pattern w (by decide)).trans (if_pos (by decide)).symm
  case i64 => exact ((signLow_pattern w (Nat.le_refl 64)).trans (BitVec.signExtend_eq _)).trans (if_neg (by decide)).symm
  all_goals exact (if_neg (by decide)).symm

/-- Settles O12: cvt ends in one rounding and the write of its image. -/
theorem convertResults : Obligations.ConvertResults := by
  intro p q d a m dst src f g hf hg
  simp only [← cvtImage_eq]
  refine rounds_of_finish (word := wordOf (.cvt p q d a m dst src)) fun s t v s1 h r => ?_
  rw [exec_cvt, execCvt, act_runs h r, decode_low]
  simp only [hf, hg]
  rfl

end Sys2Proof.Machine
end

section
namespace Sys2Proof.Machine

/-! logm and the order log (R80, R125, R366): a thread that comes back from SyncWait keeps the rmode of its first issue, by which its
event is logged or not. -/

theorem logm_logs {p : BitVec 3} {q : BitVec 1} {a b : BitVec 4} {s s1 : State} {t : Thread} {v : List Word} (h : s.Issues p q 4 t)
    (r : s.Reads t [a, b] [] v s1) : exec (.logm p q a b) s = .next (s.logged s1 s.cur t (coreOf s.cur) 0x0F (nth v 0).toNat
      ((nth v 1).toNat % 2 ^ 32) fun s2 _ => s2.retire s.cur t) := by
  rw [exec_logm, execLogm, act_runs h r]

/-- Refutes O23 by its logm: a thread that resumes from SyncWait keeps the rmode 1 of its first issue, and its logm waits for room in
the ring where the context's replay register is 0 again. -/
theorem not_systemGroup : ¬ Obligations.SystemGroup := by
  intro h
  let t := resumedState.turned resumedThread 4
  have reads : resumedState.Reads t [0, 0] [] [0, 0] resumedState := reads_plain (by decide)
  obtain ⟨-, -, -, -, -, -, -, logm⟩ := h 0 0 0 0 0 _ _ resumed_issues
  have stated : exec (.logm 0 0 0 0) resumedState = .next (resumedState.retire 0 t) := logm _ _ reads rfl
  have actual : exec (.logm 0 0 0 0) resumedState = .next (resumedState.gateWait 0 t .logFull 0) := logm_logs resumed_issues reads
  have equal := Host.Outcome.next.inj (stated.symm.trans actual)
  have waits : some Wait.ready = some (.held .logFull) := congrArg (fun s : State => (s.thread 0).map fun u : Thread => u.wait) equal
  exact absurd waits (by decide)

/-- A thread that comes back from SyncWait to an instruction first issued before its context recorded (R80). -/
def unloggedThread : Thread := { Thread.fresh 0 0 with wait := .sync }

/-- The reset state with that thread in slot 0 of core 0; its context records by now, into a ring of 2,048 slots on each die. -/
def recordingState : State :=
  let ring : LogUnit := { LogUnit.reset with size := 65536 }
  { State.reset with threads := [(0, unloggedThread)], ctxs := [(0, { Context.reset with replay := 1, log0 := ring, log1 := ring })] }

theorem unlogged_issues : recordingState.Issues 0 0 4 (recordingState.turned unloggedThread 4) := ⟨unloggedThread, rfl, rfl, rfl⟩

/-- Refutes O24 by a thread that resumes from SyncWait with the rmode 0 of its first issue: its logm writes no record where the
context records and the ring has room, and the object's sequence number stays. -/
theorem not_recordedEvent : ¬ Obligations.RecordedEvent := by
  intro h
  let t := recordingState.turned unloggedThread 4
  have reads : recordingState.Reads t [0, 0] [] [0, 0] recordingState := reads_plain (by decide)
  obtain ⟨room, -⟩ := h 0 0 0 0 _ _ _ _ unlogged_issues reads rfl
  have stated := room (by decide) rfl
  have actual : exec (.logm 0 0 0 0) recordingState = .next (recordingState.retire 0 t) := logm_logs unlogged_issues reads
  have equal := Host.Outcome.next.inj (stated.symm.trans actual)
  have advances : 1 = 0 := congrArg (fun s : State => (s.ctx 0).seqs.at 0 0) equal
  exact absurd advances (by decide)

end Sys2Proof.Machine
end

section
namespace Sys2Proof.Machine

/-! Finding work (R168, R172, R203, R204, R324). -/

theorem deliver_ctxs {s s1 : State} {n : Nat} {m : Msg} (h : s.deliver n = some (m, s1)) : s1.ctxs = s.ctxs := by
  unfold State.deliver at h
  split at h
  · split at h
    · cases h
    split at h
    · cases h
    · cases h; rfl
  · cases h

/-! Binding where the context neither records, replays nor traces a binding (R184, R370, R373). -/

section
variable {u : State} {tid cx : Nat}

theorem traceBind_off {pc : Word} (h : (u.ctx cx).trace.getLsbD 2 = false) : u.traceBind tid cx pc = some u := by
  rw [State.traceBind, State.traceSoft, if_pos h]

theorem bind_unlogged {kind out : Nat} {t : Thread} (hr : (u.ctx cx).replay = 0) (ht : (u.ctx cx).trace.getLsbD 2 = false) :
    u.bind tid cx kind out t = some ((u.unitGoes cx (srcOf tid) (slotObj tid)).seat tid t) := by
  have traced : ((u.unitGoes cx (srcOf tid) (slotObj tid)).ctx cx).trace.getLsbD 2 = false := by
    rw [State.unitGoes, ctx_modCtx, ht]
  rw [State.bind, hr, logGate_off (by decide) (by decide)]
  simp only [traceBind_off traced]
  rfl

theorem bindArrival_unlogged {a : Arrival} {x : Thread} (hr : (u.ctx cx).replay = 0) (ht : (u.ctx cx).trace.getLsbD 2 = false)
    (ha : (∃ o, a = .thread x o) ∨ a = .handler x ∨ ∃ k, a = .child k ∧ x = k.thread) :
    u.bindArrival tid cx a = some ((u.unitGoes cx (srcOf tid) (slotObj tid)).seat tid x) := by
  rcases ha with ⟨o, rfl⟩ | rfl | ⟨k, rfl, rfl⟩ <;> exact bind_unlogged hr ht

theorem bindArrival_root {x : Thread} (ht : (u.ctx cx).trace.getLsbD 2 = false) :
    u.bindArrival tid cx (.root x) = some (u.seat tid x) := by
  rw [State.bindArrival, traceBind_off ht]
  rfl

end

/-! The Vacant slot (R172). -/

section
variable {s : State} {tid ctx : Nat}

theorem popOrSteal_pops {i : Nat} {k : Child} (hb : bottomOf (s.core (coreOf tid)).deque ctx = some i)
    (hk : (s.core (coreOf tid)).deque[i]? = some k) : s.popOrSteal tid ctx =
      ((s.modCore (coreOf tid) fun x => { x with deque := x.deque.eraseIdx i }).bind tid (4 * corePkg (coreOf tid) + ctx) 7 0
        k.thread).getD s := by
  simp only [State.popOrSteal, hb, hk]

theorem popOrSteal_asks {y : Nat} {r : List Nat} (hb : bottomOf (s.core (coreOf tid)).deque ctx = none)
    (hs : (s.core (coreOf tid)).steal.find? ctx = none) (hv : s.victims (coreOf tid) ctx = y :: r) :
    s.popOrSteal tid ctx = s.askSteal tid ctx y r := by
  simp only [State.popOrSteal, hb, hs, hv]

variable (free : ((List.range 4).find? fun x => s.freeFor tid x) = some ctx)
  (unrecorded : (s.ctx (4 * corePkg (coreOf tid) + ctx)).replay ≠ 2)
include free unrecorded

theorem slotBind_binds {a : Arrival} {r : List Arrival} {s2 : State} (hw : s.waiting (coreOf tid) ctx = a :: r)
    (hf : s.freeSlot (coreOf tid) ctx = some tid)
    (h : (s.unwait (coreOf tid) ctx 0).bindArrival tid (4 * corePkg (coreOf tid) + ctx) a = some s2) :
    exec (.slotBind tid) s = .next s2 := by
  rw [exec_slotBind, execSlotBind]
  simp only [free, if_neg unrecorded, hw, if_pos hf, h, Option.getD_some]

theorem slotBind_idle (hw : s.waiting (coreOf tid) ctx = []) : exec (.slotBind tid) s = .next (s.popOrSteal tid ctx) := by
  rw [exec_slotBind, execSlotBind]
  simp only [free, if_neg unrecorded, hw]

theorem slotBind_pops {i : Nat} {k : Child} {s2 : State} (hw : s.waiting (coreOf tid) ctx = [])
    (hb : bottomOf (s.core (coreOf tid)).deque ctx = some i) (hk : (s.core (coreOf tid)).deque[i]? = some k)
    (h : (s.modCore (coreOf tid) fun x => { x with deque := x.deque.eraseIdx i }).bind tid (4 * corePkg (coreOf tid) + ctx) 7 0
      k.thread = some s2) : exec (.slotBind tid) s = .next s2 := by
  rw [slotBind_idle free unrecorded hw, popOrSteal_pops hb hk, h]
  rfl

end

/-! The ends of a deque (R168, R203). -/

theorem bottomOf_append (l : List Child) (k : Child) : bottomOf (l ++ [k]) k.ctx = some l.length := by
  simp [bottomOf, List.range_succ]

theorem topOf_stealable {k : Child} (l : List Child) (h : workLocal k.packet = false) : topOf (k :: l) k.ctx = some 0 := by
  simp [topOf, List.range_succ_eq_map, h]

theorem topOf_local {k : Child} (h : workLocal k.packet = true) : topOf [k] k.ctx = none := by
  simp [topOf, h]

/-! The messages of a steal (R203, R204), and the end of a search (R324). -/

section
variable {s s1 : State} {n : Nat} {m : Msg} {y c ctx slot : Nat}

theorem stealRequest_gives {i : Nat} (hd : s.deliver n = some (m, s1)) (hm : m.body = .steal y c ctx slot)
    (he : (s.core y).disabled = false) (ht : topOf (s.core y).deque ctx = some i) : exec (.stealRequest n) s =
      .next ((s1.modCore y fun k => { k with deque := k.deque.eraseIdx i }).send y c 1
        (.stolen c ctx slot y ((s.core y).deque[i]?))) := by
  rw [exec_stealRequest, execStealRequest, hd]
  simp [hm, he, ht]

theorem stealRequest_empty (hd : s.deliver n = some (m, s1)) (hm : m.body = .steal y c ctx slot)
    (he : (s.core y).disabled = false) (ht : topOf (s.core y).deque ctx = none) :
    exec (.stealRequest n) s = .next (s1.send y c 1 (.stolen c ctx slot y none)) := by
  rw [exec_stealRequest, execStealRequest, hd]
  simp [hm, he, ht]

theorem stealReply_binds {k : Child} {s2 : State} (hd : s.deliver n = some (m, s1)) (hm : m.body = .stolen c ctx slot y (some k))
    (hr : s.running (4 * corePkg c + ctx) = true)
    (h : ((s1.unreserve (16 * c + slot)).modCore c fun x => { x with steal := x.steal.del ctx }).bind (16 * c + slot)
      (4 * corePkg c + ctx) 8 y k.thread = some s2) : exec (.stealReply n) s = .next s2 := by
  rw [exec_stealReply, execStealReply, hd]
  simp [hm, hr, h]

theorem stealReply_empty {z : Steal} (hd : s.deliver n = some (m, s1)) (hm : m.body = .stolen c ctx slot y none)
    (hz : ((s1.unreserve (16 * c + slot)).core c).steal.find? ctx = some z) (hr : (s.ctx (4 * corePkg c + ctx)).replay ≠ 2) :
    exec (.stealReply n) s = .next ((s1.unreserve (16 * c + slot)).modCore c fun x =>
      { x with steal := x.steal.put ctx { z with asked := false, since := s.clock } }) := by
  rw [exec_stealReply, execStealReply, hd]
  simp only [hm, State.modCore, hz, if_neg hr]

theorem stealSearchRetry_found_none {z : Steal} {cx : Nat} (hz : (s.core c).steal.find? (cx % 4) = some z) (ha : z.asked = false)
    (hv : z.victims = []) : exec (.stealSearchRetry c cx) s = .next (if z.since + 512 ≤ s.clock then
      s.modCore c fun k => { k with steal := k.steal.del (cx % 4) } else s) := by
  rw [exec_stealSearchRetry, execStealSearchRetry]
  simp only [hz, ha, hv, true_and]
  split <;> rfl

end

/-! A Halting context's return to Free (R122, R319): its registers stay at their reset values while its intervals are abandoned. -/

theorem foldl_ctxs {α : Type} {f : State → α → State} (hf : ∀ s a, (f s a).ctxs = s.ctxs) (l : List α) (s : State) :
    (l.foldl f s).ctxs = s.ctxs := by
  induction l generalizing s with
  | nil => rfl
  | cons a r ih => exact (ih _).trans (hf s a)

theorem unitHears_ctxs (s : State) (cl off n : Nat) : (s.unitHears cl off n).ctxs = s.ctxs := by
  unfold State.unitHears
  refine foldl_ctxs (fun s i => ?_) _ s
  split <;> rfl

theorem unitPages_ctxs (s : State) (cl n : Nat) (l : List Byte) (off : Nat) : (s.unitPages cl n l off).1.ctxs = s.ctxs := by
  induction n generalizing s l off with
  | zero => rfl
  | succ n ih =>
    unfold State.unitPages
    split
    · rfl
    split
    · rfl
    split
    · rfl
    · exact (ih ..).trans (unitHears_ctxs ..)

theorem setVword_ctxs (s : State) (pkg die sld v : Nat) : (s.setVword pkg die sld v).ctxs = s.ctxs := by
  unfold State.setVword
  split <;> rfl

theorem thinTicket_ctxs (s : State) (cl : Nat) (iv : Interval) (version istat : Nat) :
    (s.thinTicket cl iv version istat).ctxs = s.ctxs := by
  unfold State.thinTicket
  dsimp only
  split <;> rfl

theorem endInterval_ctxs (s : State) (cl : Nat) (iv : Interval) (istat : Nat) : (s.endInterval cl iv istat).ctxs = s.ctxs :=
  (thinTicket_ctxs ..).trans ((setVword_ctxs ..).trans (unitPages_ctxs ..))

theorem abandonIntervals_ctxs (s : State) (cx : Nat) : (s.abandonIntervals cx).ctxs = s.ctxs := by
  unfold State.abandonIntervals
  refine foldl_ctxs (fun s e => ?_) _ s
  refine foldl_ctxs (fun s iv => ?_) _ s
  rw [State.dropInterval, modCluster_ctxs, endInterval_ctxs]

theorem freeContext_ctx (s : State) (cx : Nat) : (s.freeContext cx).ctx cx = Context.reset := by
  rw [State.ctx, State.freeContext, abandonIntervals_ctxs, at_put_same]

section
variable {s : State} {cx : Nat} (halting : (s.ctx cx).st = .halting) (gone : s.threadsOf cx = [])
include halting gone

theorem haltCompletion_frees (hc : s.copying cx = false) (hf : ∀ o ∈ s.fab.flight, o.cx ≠ cx) (hw : (s.ctx cx).written = true) :
    exec (.haltCompletion cx) s =
      .next ((s.freeContext cx).say (.exit (cx / 4) (s.ctx cx).conn (cx % 4) (s.ctx cx).exitCode)) := by
  have flight : (s.fab.flight.any fun o => o.cx == cx) = false := List.any_eq_false.2 fun o ho => by simpa using hf o ho
  rw [exec_haltCompletion, execHaltCompletion]
  simp [halting, gone, hc, flight, hw]

theorem haltCompletion_copying (hc : s.copying cx = true) : exec (.haltCompletion cx) s = .next s := by
  rw [exec_haltCompletion, execHaltCompletion]
  simp [halting, gone, hc]

end

/-- Settles O41: each event's cases, and binding without a record. -/
theorem findingWork : Obligations.FindingWork := by
  refine ⟨?bind, ?deque, ?request, ?reply, ?retry, ?halt⟩
  case bind =>
    intro s tid ctx free c cx unrecorded
    refine ⟨fun a r s2 => slotBind_binds free unrecorded, fun i k s2 => slotBind_pops free unrecorded, fun hr ht => ?_,
      fun y r hw hb hs hv => ?_⟩
    · refine ⟨fun a r x hw hf => ⟨fun ha => ?_, fun ha => ?_⟩, fun i k hw hb hk => ?_⟩
      · exact slotBind_binds free unrecorded hw hf (bindArrival_unlogged hr ht ha)
      · exact slotBind_binds free unrecorded hw hf (ha ▸ bindArrival_root ht)
      · exact slotBind_pops free unrecorded hw hb hk (bind_unlogged hr ht)
    · rw [slotBind_idle free unrecorded hw, popOrSteal_asks hb hs hv]
      rfl
  case deque =>
    rintro l k ctx rfl
    exact ⟨bottomOf_append l k, topOf_stealable l, topOf_local⟩
  case request =>
    intro s s1 n m y c ctx slot hd hm he
    exact ⟨fun i => stealRequest_gives hd hm he, stealRequest_empty hd hm he⟩
  case reply =>
    intro s s1 n m y c ctx slot hd
    refine ⟨fun k s2 => stealReply_binds hd, fun k hm hr h0 ht => ?_, fun z => stealReply_empty hd⟩
    have kept : ((s1.unreserve (16 * c + slot)).modCore c fun x => { x with steal := x.steal.del ctx }).ctx (4 * corePkg c + ctx) =
        s.ctx (4 * corePkg c + ctx) := by
      rw [State.ctx, modCore_ctxs, State.unreserve, modCore_ctxs, deliver_ctxs hd]
      rfl
    exact stealReply_binds hd hm hr (bind_unlogged (kept ▸ h0) (kept ▸ ht))
  case retry => exact fun s c cx z => stealSearchRetry_found_none
  case halt =>
    intro s cx halting
    refine ⟨fun gone hc hf hw => ⟨haltCompletion_frees halting gone hc hf hw, ?_⟩,
      fun hc gone => haltCompletion_copying halting gone hc⟩
    rw [freeContext_ctx]
    rfl

end Sys2Proof.Machine
end

section
namespace Sys2Proof.Machine

/-! The sync instructions at a word of local store, and its full-empty bit (R145 to R149). -/

section
variable {s s1 s2 : State} {tid : Nat} {t : Thread} {kind obj out : Nat}

/-- An event that the log lets perform leaves what it does in the state with its record (R366, R369). -/
theorem logged_permitted {s0 : State} {k : State → State} (h : s1.Permits s2 tid t kind obj out) :
    s0.logged s1 tid t (coreOf tid) kind obj out (fun s _ => k s) = k s2 := by
  obtain ⟨o, go⟩ := h
  simp only [State.logged, go]

/-- A thread whose events are neither recorded nor replayed leaves no record. -/
theorem logged_off {s0 : State} {place : Nat} {k : State → Option Nat → State} (h : s1.logMode tid t = 0) :
    s0.logged s1 tid t place kind obj out k = k s1 none := by
  simp only [State.logged, logGate_off (h ▸ by decide : s1.logMode tid t ≠ 1) (h ▸ by decide : s1.logMode tid t ≠ 2)]

end

section
variable {word : Word32} {p : BitVec 3} {q : BitVec 1} {d a : BitVec 4} {srcs dsts regs : List (BitVec 4)} {need la : Nat}
  {s s1 s2 : State} {t : Thread} {v : List Word}

/-- At a word of the own local store a sync instruction does its own work. -/
theorem syncAt_here {k : Nat → Thread → State → List Word → Nat → State → State} (h : s.SyncHere p q srcs dsts need t v s1 la) :
    syncAt word p q srcs dsts regs need s k = .next (k s.cur t s v la s1) := by
  obtain ⟨issues, reads, checked, region, core, drained⟩ := h
  rw [syncAt, act_runs issues reads]
  simp only [checked, region, core, ne_eq, not_true_eq_false, if_false, drained_none drained]

/-- R145: outside every local store there is no full-empty bit. -/
theorem syncAt_outside {k : Nat → Thread → State → List Word → Nat → State → State} (h : s.Issues p q 4 t)
    (r : s.Reads t srcs dsts v s1) (hk : s1.check (coreOf s.cur) t.ctx (nth v 0) 8 need 8 = .ok la) (hr : laRegion la ≠ 1) :
    syncAt word p q srcs dsts regs need s k = .next (s.trap s.cur t 0x0C (nth v 0)) := by
  rw [syncAt, act_runs h r]
  simp only [hk, if_pos hr]

theorem syncLoad_full {take : Bool} (h : s.SyncHere p q [a] [d] (if take then segR ||| segW else segR) t v s1 la)
    (hf : s1.isFull la = true) (hb : s1.isBad la 8 = false)
    (hp : s1.Permits s2 s.cur t 2 la (s1.mem.read la 8 % 2 ^ 32))
    (hw : State.writeRefused s.cur d (BitVec.ofNat 64 (s1.mem.read la 8)) = false) :
    syncLoad word p q d a take s =
      .next ((if take then s2.setFull la false else s2).result s.cur t d (BitVec.ofNat 64 (s1.mem.read la 8))) := by
  rw [syncLoad, syncAt_here h]
  simp only [hf, hb, Bool.not_true, Bool.false_eq_true, if_false, logged_permitted hp, finish_accepted hw]

theorem syncLoad_waits {take : Bool} (h : s.SyncHere p q [a] [d] (if take then segR ||| segW else segR) t v s1 la)
    (hf : s1.isFull la = false) : syncLoad word p q d a take s = .next (s.wait s.cur t .sync) := by
  rw [syncLoad, syncAt_here h]
  simp only [hf, Bool.not_false, if_true]

/-- ste has its word empty, stf does not ask (R147, R148). -/
theorem syncStore_stores {waits : Bool} (h : s.SyncHere p q [a, d] [] segW t v s1 la) (hf : waits = true → s1.isFull la = false)
    (hp : s1.Permits s2 s.cur t 3 la ((nth v 1).toNat % 2 ^ 32)) :
    syncStore word p q d a waits s = .next (((s2.store la 8 (nth v 1).toNat).setFull la true).retire s.cur t) := by
  have goes : (waits && s1.isFull la) = false := by
    cases waits
    · rfl
    · exact hf rfl
  rw [syncStore, syncAt_here h]
  simp only [goes, Bool.false_eq_true, if_false]
  rw [logged_permitted (k := fun s => ((s.store la 8 (nth v 1).toNat).setFull la true).retire _ t) hp]

theorem syncStore_waits (h : s.SyncHere p q [a, d] [] segW t v s1 la) (hf : s1.isFull la = true) :
    syncStore word p q d a true s = .next (s.wait s.cur t .sync) := by
  rw [syncStore, syncAt_here h]
  simp only [hf, Bool.and_self, if_true]

theorem syncMark_marks {full : Bool} (h : s.SyncHere p q [a] [] segW t v s1 la) (hp : s1.Permits s2 s.cur t 3 la 0) :
    syncMark word p q a full s = .next ((s2.setFull la full).retire s.cur t) := by
  rw [syncMark, syncAt_here h, logged_permitted (k := fun s => (s.setFull la full).retire _ t) hp]

end

theorem syncRows_hold : syncRows := by
  intro p q d a s s1 s2 t v la x
  refine ⟨?ldf, ?ldfe, ?ldfWaits, ?ste, ?steWaits, ?stf, ?marks, ?fstat, ?outside⟩
  case ldf =>
    intro h hf hb hp hw
    rw [exec_ldf, execLdf, syncLoad_full (take := false) h hf hb hp hw]
    rfl
  case ldfe =>
    intro h hf hb hp hw
    rw [exec_ldfe, execLdfe, syncLoad_full (take := true) h hf hb hp hw]
    rfl
  case ldfWaits =>
    intro h hf
    rw [exec_ldf, execLdf, syncLoad_waits (take := false) h hf]
  case ste =>
    intro h hf hp
    rw [exec_ste, execSte, syncStore_stores h (fun _ => hf) hp]
  case steWaits =>
    intro h hf
    rw [exec_ste, execSte, syncStore_waits h hf]
  case stf =>
    intro h hp
    rw [exec_stf, execStf, syncStore_stores h (fun no => (Bool.false_ne_true no).elim) hp]
  case marks =>
    intro h hp
    rw [exec_fclr, execFclr, exec_fset, execFset, syncMark_marks h hp, syncMark_marks h hp]
    exact ⟨rfl, rfl⟩
  case fstat =>
    intro h hw
    have bit : BitVec.ofNat 64 (s1.isFull la).toNat = if s1.isFull la = true then 1 else 0 := by
      cases s1.isFull la <;> rfl
    rw [exec_fstat, execFstat, syncAt_here h, bit, finish_accepted hw]
  case outside =>
    intro h r hk hr
    rw [exec_ldf, execLdf, exec_fstat, execFstat]
    exact ⟨syncAt_outside h r hk hr, syncAt_outside h r hk hr⟩

/-- R145: a full-empty bit is set alone. -/
theorem isFull_setFull_iff (s : State) (la k : Nat) (b : Bool) :
    (s.setFull la b).isFull k = if k / 8 = la / 8 then b else s.isFull k := by
  split
  · next same => rw [State.isFull, same]; exact isFull_setFull s la b
  · next other =>
    rw [Bool.eq_iff_iff]
    cases b <;> simp [State.setFull, State.isFull, NatSet.has, mem_insert, mem_remove, other]

/-- Settles O31: each sync instruction is syncAt, and a full-empty bit is set alone. -/
theorem syncResults : Obligations.SyncResults :=
  ⟨syncRows_hold, fun s la k b => ⟨isFull_setFull_iff s la k b, rfl, rfl, rfl⟩⟩

end Sys2Proof.Machine
end

section
namespace Sys2Proof.Machine

/-! join, jinit, and the offer of a changed word to the waiters of its core (R148, R169). -/

section
variable {p : BitVec 3} {q : BitVec 1} {d a b : BitVec 4} {s s1 s2 : State} {t : Thread} {v : List Word} {la : Nat}

theorem join_completes (h : s.SyncHere p q [a] [] segR t v s1 la) (hb : s1.isBad la 8 = false) (hz : s1.mem.read la 8 = 0)
    (hp : s1.Permits s2 s.cur t 4 la 0) : exec (.join p q a) s = .next (s2.retire s.cur t) := by
  rw [exec_join, execJoin, syncAt_here h]
  simp only [hb, Bool.false_eq_true, if_false, hz, ne_eq, not_true_eq_false]
  rw [logged_permitted (k := fun s => s.retire _ t) hp]

theorem join_waits (h : s.SyncHere p q [a] [] segR t v s1 la) (hb : s1.isBad la 8 = false) (hz : s1.mem.read la 8 ≠ 0) :
    exec (.join p q a) s = .next (s.wait s.cur t .sync) := by
  rw [exec_join, execJoin, syncAt_here h]
  simp only [hb, Bool.false_eq_true, if_false, if_pos hz]

theorem jinit_stores (h : s.SyncHere p q [a, b] [] (segR ||| segW) t v s1 la) :
    exec (.jinit p q a b) s = .next ((s1.store la 8 (nth v 1).toNat).retire s.cur t) := by
  rw [exec_jinit, execJinit, syncAt_here h]

/-- R179: a wake message that has arrived completes waitm, and is gone. -/
theorem waitm_completes (h : s.Issues p q 4 t) (r : s.Reads t [] [d] v s1) (hx : t.relaxed = [])
    (hk : ((s1.core (coreOf s.cur)).wakes.at (false, 0) (wakeKey s.cur t.ctx)).1 = true) (hm : s1.logMode s.cur t = 0)
    (hw : State.writeRefused s.cur d ((s1.core (coreOf s.cur)).wakes.at (false, 0) (wakeKey s.cur t.ctx)).2 = false) :
    exec (.waitm p q d) s = .next ((s1.modCore (coreOf s.cur) fun k =>
      { k with wakes := k.wakes.del (wakeKey s.cur t.ctx) }).result s.cur t d
        ((s1.core (coreOf s.cur)).wakes.at (false, 0) (wakeKey s.cur t.ctx)).2) := by
  rw [exec_waitm, execWaitm, act_runs h r]
  simp only [drained_none hx, hk, Bool.not_true, Bool.false_eq_true, if_false]
  rw [logged_off hm, finish_accepted hw]

/-- R180: a counter has reached a threshold where their signed difference is not negative. -/
theorem reached_iff (ck v : BitVec 32) : reached ck v = true ↔ 0 ≤ (ck - v).toInt := by
  rw [reached, decide_eq_true_iff, BitVec.toInt_eq_toNat_cond]
  have := (ck - v).isLt
  split <;> omega

theorem waitc_completes (h : s.Issues p q 4 t) (r : s.Reads t [a, b] [d] v s1) (hx : t.relaxed = [])
    (ho : s1.ownsCounter (coreOf s.cur) (cxOf (coreOf s.cur) t) ((nth v 0).toNat % 64) = true)
    (hc : 0 ≤ ((s1.core (coreOf s.cur)).counters.at 0 ((nth v 0).toNat % 64) - (nth v 1).setWidth 32).toInt)
    (hm : s1.logMode s.cur t = 0)
    (hw : State.writeRefused s.cur d (((s1.core (coreOf s.cur)).counters.at 0 ((nth v 0).toNat % 64)).setWidth 64) = false) :
    exec (.waitc p q d a b) s =
      .next (s1.result s.cur t d (((s1.core (coreOf s.cur)).counters.at 0 ((nth v 0).toNat % 64)).setWidth 64)) := by
  rw [exec_waitc, execWaitc, act_runs h r]
  simp only [drained_none hx, ho, (reached_iff _ _).2 hc, Bool.not_true, Bool.false_eq_true, if_false]
  rw [logged_off hm]
  exact congrArg _ (finish_accepted hw)

end

/-! The instruction that a waiter runs again is the one that its word encodes. -/

section
variable {maj fn : Nat} {p : BitVec 3} {q : BitVec 1} {d a b : BitVec 4} {s : State} {i : Instr}

/-- The instructions that wait in SyncWait for a word, a message or a counter (R147, R169, R179, R180). -/
def waitInstrs (p : BitVec 3) (q : BitVec 1) (d a b : BitVec 4) : List Instr :=
  [.ldf p q d a, .ldfe p q d a, .ste p q d a, .join p q a, .waitm p q d, .waitc p q d a b]

/-- The fields of an R word as a waiter's instruction takes them from it. -/
theorem encR_shifts (hm : maj < 64) (hf : fn < 1024) :
    let w := encR maj p q d.toNat a.toNat b.toNat fn
    (w >>> 23).setWidth 3 = p ∧ (w >>> 22).setWidth 1 = q ∧ (w >>> 18).setWidth 4 = d ∧ (w >>> 14).setWidth 4 = a ∧
      (w >>> 10).setWidth 4 = b ∧ w.toNat / 2 ^ 26 = maj ∧ w.toNat % 1024 = fn := by
  have shift : ∀ (w : Word32) (k n : Nat) (x : BitVec n), w.toNat / 2 ^ k % 2 ^ n = x.toNat → (w >>> k).setWidth n = x := by
    intro w k n x e
    apply BitVec.eq_of_toNat_eq
    rw [BitVec.toNat_setWidth, BitVec.toNat_ushiftRight, Nat.shiftRight_eq_div_pow, e]
  have e := encR_nat (p := p) (q := q) hm d.isLt a.isLt b.isLt hf
  have := p.isLt; have := q.isLt; have := d.isLt; have := a.isLt; have := b.isLt
  refine ⟨shift _ _ _ _ ?_, shift _ _ _ _ ?_, shift _ _ _ _ ?_, shift _ _ _ _ ?_, shift _ _ _ _ ?_, ?_, ?_⟩ <;> rw [e] <;> omega

/-- A waiter's instruction by its major number, its function and its fields. -/
def reissueFields (maj fn : Nat) (p : BitVec 3) (q : BitVec 1) (d a b : BitVec 4) (s : State) : Out :=
  match maj, fn with
  | 31, 0 => execLdf p q d a s
  | 31, 1 => execLdfe p q d a s
  | 31, 2 => execSte p q d a s
  | 34, 1 => execJoin p q a s
  | 34, 7 => execWaitm p q d s
  | 34, 8 => execWaitc p q d a b s
  | _, _ => .next s

theorem reissue_eq (w : Word32) (s : State) : reissue w s = reissueFields (w.toNat / 2 ^ 26) (w.toNat % 1024) ((w >>> 23).setWidth 3)
    ((w >>> 22).setWidth 1) ((w >>> 18).setWidth 4) ((w >>> 14).setWidth 4) ((w >>> 10).setWidth 4) s := rfl

theorem reissue_encR (hm : maj < 64) (hf : fn < 1024) :
    reissue (encR maj p q d.toNat a.toNat b.toNat fn) s = reissueFields maj fn p q d a b s := by
  obtain ⟨hp, hq, hd, ha, hb, hmaj, hfn⟩ := encR_shifts (p := p) (q := q) (d := d) (a := a) (b := b) hm hf
  rw [reissue_eq, hp, hq, hd, ha, hb, hmaj, hfn]

theorem reissue_wordOf (hi : i ∈ waitInstrs p q d a b) : reissue (wordOf i) s = exec i s := by
  simp only [waitInstrs, List.mem_cons, List.not_mem_nil, or_false] at hi
  rcases hi with rfl | rfl | rfl | rfl | rfl | rfl
  · exact reissue_encR (maj := 31) (fn := 0) (d := d) (a := a) (b := 0) (by decide) (by decide)
  · exact reissue_encR (maj := 31) (fn := 1) (d := d) (a := a) (b := 0) (by decide) (by decide)
  · exact reissue_encR (maj := 31) (fn := 2) (d := d) (a := a) (b := 0) (by decide) (by decide)
  · exact reissue_encR (maj := 34) (fn := 1) (d := 0) (a := a) (b := 0) (by decide) (by decide)
  · exact reissue_encR (maj := 34) (fn := 7) (d := d) (a := 0) (b := 0) (by decide) (by decide)
  · exact reissue_encR (maj := 34) (fn := 8) (d := d) (a := a) (b := b) (by decide) (by decide)

end

/-- The thread at the position that an offer comes to first is in SyncWait, with no fault to deliver and at no barrier (R143, R148,
R188). -/
structure State.FirstOffered (s : State) (core pos tid : Nat) (t : Thread) : Prop where
  position : tid = 16 * core + (pos + 1) % 16
  thread : s.thread tid = some t
  wait : t.wait = .sync
  arrived : t.arrived = none
  relFault : t.relFault = none
  vecFault : t.vecFault = none

section
variable {s s' : State} {core pos tid : Nat} {w : Thread} {p : BitVec 3} {q : BitVec 1} {d a b : BitVec 4} {i : Instr}
  (o : s.FirstOffered core pos tid w)
  (hi : i ∈ waitInstrs p q d a b)
  (at_ : s.wordAt core w w.pc = some (wordOf i))
include o

theorem coreOf_firstOffered : coreOf tid = core := by
  rw [o.position, coreOf]
  omega

include hi at_

/-- What the first waiter's instruction does is what the offer does, where the waiter is through with its wait. -/
theorem offer_first (run : exec i { s with cur := tid } = .next s') (through : ∀ u, s'.thread tid = some u → u.wait ≠ .sync) :
    exec (.syncWaitSatisfied core pos) s = .next s' := by
  have order : positionsAfter core pos = tid :: (List.range 15).map fun j => 16 * core + (pos + 1 + (j + 1)) % 16 := by
    rw [o.position]
    rfl
  have offered : s.offer core (positionsAfter core pos) = some s' := by
    rw [order]
    simp only [State.offer, o.thread, o.wait, o.arrived, o.relFault, o.vecFault, Option.isNone_none, true_or, and_self, if_true, at_,
      reissue_wordOf hi, run]
    cases hu : s'.thread tid with
    | none => rfl
    | some u => exact if_neg (through u hu)
  rw [exec_syncWaitSatisfied, execSyncWaitSatisfied, offered]

/-- A waiter whose instruction completes is Ready. -/
theorem offer_completes {u : Thread} (run : exec i { s with cur := tid } = .next (s'.retire tid u)) :
    exec (.syncWaitSatisfied core pos) s = .next (s'.retire tid u) := by
  refine offer_first o hi at_ run fun x hx => ?_
  obtain rfl := Option.some.inj ((thread_retire s' tid u).symm.trans hx)
  exact Wait.noConfusion

end

/-- Settles O32: an offer runs the first waiter's instruction, which completes as in its issue turn. -/
theorem joinResults : Obligations.JoinResults := by
  refine ⟨fun p q a b s s1 s2 t v la => ⟨join_completes, join_waits, jinit_stores⟩, ?offer, ?waiters⟩
  case offer =>
    intro core pos tid p q d a b i s s' t hp ht hw ha hr hv hi at_ run through
    exact offer_first ⟨hp, ht, hw, ha, hr, hv⟩ hi at_ run through
  case waiters =>
    intro core pos tid p q d a b s s1 s2 w t v la hp ht hw ha hr hv
    have o : s.FirstOffered core pos tid w := ⟨hp, ht, hw, ha, hr, hv⟩
    obtain rfl := coreOf_firstOffered o
    intro now at_ x ck wake
    have completes : ∀ {i : Instr} {s' : State} {u : Thread}, i ∈ waitInstrs p q d a b → at_ i →
        exec i now = .next (s'.retire tid u) → exec (.syncWaitSatisfied (coreOf tid) pos) s = .next (s'.retire tid u) :=
      fun hi word run => offer_completes o hi word run
    refine ⟨?join, ?ste, ?ldf, ?ldfe, ?waitm, ?waitc⟩
    case join =>
      intro word h hb hz hp
      exact completes (by simp [waitInstrs]) word (join_completes h hb hz hp)
    case ste =>
      intro word h hf hp
      exact completes (by simp [waitInstrs]) word (syncStore_stores h (fun _ => hf) hp)
    case ldf =>
      intro word h hf hb hp hw
      exact completes (by simp [waitInstrs]) word (syncLoad_full (take := false) h hf hb hp hw)
    case ldfe =>
      intro word h hf hb hp hw
      exact completes (by simp [waitInstrs]) word (syncLoad_full (take := true) h hf hb hp hw)
    case waitm =>
      intro word h r hx hk hm hw
      exact completes (by simp [waitInstrs]) word (waitm_completes h r hx hk hm hw)
    case waitc =>
      intro word h r hx ho hc hm hw
      exact completes (by simp [waitInstrs]) word (waitc_completes h r hx ho hc hm hw)

end Sys2Proof.Machine
end

section
namespace Sys2Proof.Machine

/-! Atomics on the executing core's local store (R150 to R152). -/

/-- An atomic that adds no more than its member's value of the old word and its operands, each cut to n bytes, is stated by that
value. -/
theorem atomic_here {i : Instr} {word : Word32} {p : BitVec 3} {q : BitVec 1} {d a b : BitVec 4} {srcs : List (BitVec 4)}
    {op n : Nat} {f : Nat → Nat → Nat → Nat} (e : ∀ s, exec i s = atomic word p q d a b op n s)
    (hs : (if op = 9 then [a, b, d] else [a, b]) = srcs)
    (hf : ∀ o x y, atomNew op n o x y = f o (x % 256 ^ n) (y % 256 ^ n)) : AtomicHere i p q d srcs n f := by
  intro s t v s1 s2 la h r hk hr hc hx hb old new hp hw
  rw [e, atomic, hs, act_runs h r]
  simp only [hk, canonLa_local hr, hr, hc, ne_eq, not_true_eq_false, and_false, drained_none hx, hb, Bool.false_eq_true, if_false, hf]
  rw [logged_permitted (k := fun s1 => s.finish (s1.store la n new) _ t word d (BitVec.ofNat 64 old)) hp, finish_accepted hw]

/-- 2^(8n) is the number of values of n bytes. -/
theorem two_pow_bytes (n : Nat) : 2 ^ (8 * n) = 256 ^ n := Nat.pow_mul 2 8 n

theorem signedOf_eq (n x : Nat) : (if 2 * x < 256 ^ n then (x : Int) else (x : Int) - (256 ^ n : Nat)) = signedOf n x := by
  rw [signedOf, Nat.cast_pow]
  rfl

/-- Settles O33: each is atomic with its own value. -/
theorem atomicResults : Obligations.AtomicResults := by
  intro p q d a b w _ n
  refine ⟨atomic_here (exec_aadd p q d a b w) rfl ?_, atomic_here (exec_aand p q d a b w) rfl ?_,
    atomic_here (exec_aor p q d a b w) rfl ?_, atomic_here (exec_axor p q d a b w) rfl ?_,
    atomic_here (exec_amin p q d a b w) rfl ?_, atomic_here (exec_amax p q d a b w) rfl ?_,
    atomic_here (exec_aminu p q d a b w) rfl ?_, atomic_here (exec_amaxu p q d a b w) rfl ?_,
    atomic_here (exec_aswp p q d a b w) rfl ?_, atomic_here (exec_acas p q d a b w) rfl ?_,
    atomic_here (exec_afadd p q d a b) rfl ?_⟩
  all_goals
    intro o x y
    simp only [atomNew, two_pow_bytes, signedOf_eq]

end Sys2Proof.Machine
end

section
namespace Sys2Proof.Machine

/-! Atomics on HBM and on host memory (R152, R153, R155, R369). -/

/-- Messages between the places of an access change time stamps alone (R364). -/
theorem heardAt_tsc (s : State) (c : Nat) (l : Loc) : ∃ x, s.heardAt c l = { s with tsc := x } := by
  cases l with
  | hbm pkg off phys => exact ⟨_, rfl⟩
  | loc la =>
    by_cases own : laCore la = c
    · exact ⟨_, if_pos own⟩
    · exact ⟨_, if_neg own⟩
  | host die ep addr =>
    simp only [State.heardAt]
    cases s.proxyOf die <;> exact ⟨_, rfl⟩

theorem heardAtomic_tsc (s : State) (c : Nat) (l : Loc) : ∃ x, s.heardAtomic c l = { s with tsc := x } := by
  obtain ⟨x, e⟩ := heardAt_tsc s c l
  cases l with
  | hbm pkg off phys => exact ⟨_, rfl⟩
  | loc la => exact ⟨x, e⟩
  | host die ep addr => exact ⟨x, e⟩

section
variable {s : State} {tid : Nat} {t : Thread} {r : Req} {l : Loc} {obj place kind : Nat}

theorem atomicOf_waiting (ht : s.thread tid = some t) (hw : t.wait = .mem r) (hk : r.kind = .atomic) :
    s.atomicOf tid = some (t, r) := by
  simp only [State.atomicOf, ht, hw, hk, if_true]

theorem servedGate_off {out : Nat} (h : s.logMode tid t = 0) : s.servedGate tid t place kind obj out = .go s none := by
  rw [State.servedGate, h]
  exact logGate_off (by decide) (by decide)

theorem gateOpen_off (h : s.logMode tid t = 0) : s.gateOpen tid t kind obj = true := by
  simp only [State.gateOpen, servedGate_off h]

/-- Only a thread that replays notes since when it waits (R371). -/
theorem atomicNoted_same (h : ∀ u, s.thread tid = some u → s.logMode tid u ≠ 2) : s.atomicNoted obj tid = s := by
  unfold State.atomicNoted
  split
  · next u x e =>
    have occupied : s.thread tid = some u := by
      unfold State.atomicOf at e
      split at e
      · next w hw =>
        rw [hw]
        split at e
        · split at e
          · cases e; rfl
          · cases e
        · cases e
      · cases e
    exact if_neg (h u occupied)
  · rfl

theorem performAtomic_sealed (hs : s.sealedAt l = true) :
    s.performAtomic tid t r l obj place = s.trap tid t 5 (nth r.vals 0) := by
  simp only [State.performAtomic, hs, if_true]

theorem performAtomic_bad (hs : s.sealedAt l = false) (hb : s.isBad l.key r.n = true) :
    s.performAtomic tid t r l obj place = s.trap tid t 8 (nth r.vals 0) := by
  simp only [State.performAtomic, hs, hb, Bool.false_eq_true, if_false, if_true]

/-- The atomic itself: the old value goes to its destination (R150). -/
theorem performAtomic_performs (hs : s.sealedAt l = false) (hb : s.isBad l.key r.n = false) (hm : s.logMode tid t = 0)
    (hw : State.writeRefused tid r.d (BitVec.ofNat 64 (s.mem.read l.key r.n)) = false) :
    s.performAtomic tid t r l obj place =
      (s.store l.key r.n (atomNew (nth r.vals 3).toNat r.n (s.mem.read l.key r.n) (nth r.vals 1).toNat (nth r.vals 2).toNat)).result
        tid t r.d (BitVec.ofNat 64 (s.mem.read l.key r.n)) := by
  simp only [State.performAtomic, hs, hb, Bool.false_eq_true, if_false, servedGate_off hm, finish_accepted hw]

end

/-- A fold whose every step leaves the state leaves it. -/
theorem foldl_same {α : Type} {f : State → α → State} {s : State} {l : List α} (h : ∀ x ∈ l, f s x = s) : l.foldl f s = s := by
  induction l with
  | nil => rfl
  | cons x r ih => rw [List.foldl_cons, h x (List.mem_cons_self ..), ih fun y hy => h y (List.mem_cons_of_mem _ hy)]

/-! Issue to the queue of the word's bank. -/

theorem logTest_goes {s0 s k : State} {tid obj : Nat} {t : Thread}
    (h : s.logMode tid t ≠ 1 ∨ s.logRoom (cxOf (coreOf tid) t) (coreDie (coreOf tid)) = true) : s0.logTest s tid t obj k = k := by
  refine if_neg ?_
  rintro ⟨records, full⟩
  rcases h with h | h
  · exact h records
  · exact Bool.false_ne_true (full.symm.trans h)

theorem aadd_queued {p : BitVec 3} {q : BitVec 1} {d a b : BitVec 4} {s s1 s2 : State} {t : Thread} {v : List Word} {la : Nat} {l : Loc}
    (h : s.Issues p q 4 t) (r : s.Reads t [a, b] [d] v s1)
    (hk : s1.check (coreOf s.cur) t.ctx (nth v 0) 8 (segR ||| segW) 8 = .ok la) (hr : laRegion la = 0) (hx : t.relaxed = [])
    (hl : s1.translate (coreOf s.cur) la = (.ok l, s2))
    (hg : s2.logMode s.cur t ≠ 1 ∨ s2.logRoom (cxOf (coreOf s.cur) t) (coreDie (coreOf s.cur)) = true) :
    exec (.aadd p q d a b 1) s = .next (({ s2 with banks := s2.banks.put (l.key / 8) (s2.banks.at [] (l.key / 8) ++ [s.cur]) }).wait
      s.cur t (.mem { kind := .atomic, word := wordOf (.aadd p q d a b 1), d := d,
                      vals := [nth v 0, nth v 1, nth v 2, 0, BitVec.ofNat 64 la], locs := [l], n := 8 })) := by
  have member : (if (0 : Nat) = 9 then [a, b, d] else [a, b]) = [a, b] := rfl
  have width : (if (1 : BitVec 2) = 0 then 4 else 8) = 8 := rfl
  rw [exec_aadd, execAadd, width, atomic, member, act_runs h r]
  simp only [hk, canonLa_region0 hr, drained_none hx, hr, hl]
  rw [logTest_goes hg]
  rfl

/-! The grant of a bank's word to the head of its queue. -/

/-- The head of a bank's queue that may be served is served, where none behind it replays: u is the state in which the head has noted
that it waits. -/
theorem bankGrant_head {s u : State} {key tid : Nat} {rest : List Nat} {t0 t : Thread} {r0 r : Req}
    (hq : s.banks.at [] key = tid :: rest) (h0 : s.atomicOf tid = some (t0, r0))
    (hu : s.atomicNoted (r0.locs.headD (.loc 0)).linear tid = u)
    (hrest : ∀ x ∈ rest, ∀ w : Thread, u.thread x = some w → u.logMode x w ≠ 2) (h : u.atomicOf tid = some (t, r))
    (hl : r.held = false ∨ u.linked (coreOf tid) (u.place (r.locs.headD (.loc 0))) = true)
    (hm : u.atomicMay tid t r (u.place (r.locs.headD (.loc 0))) (u.place (r.locs.headD (.loc 0))).linear = true) :
    ∃ place, exec (.bankReservationGrant key) s =
      .next ((({ u with banks := if rest.isEmpty then u.banks.del key else u.banks.put key rest } : State).heardAtomic (coreOf tid)
        (u.place (r.locs.headD (.loc 0)))).performAtomic tid t r (u.place (r.locs.headD (.loc 0)))
          (u.place (r.locs.headD (.loc 0))).linear place) := by
  have reached : (!r.held || u.linked (coreOf tid) (u.place (r.locs.headD (.loc 0)))) = true := by
    rcases hl with hl | hl
    · rw [hl, Bool.not_false, Bool.true_or]
    · rw [hl, Bool.or_true]
  rw [exec_bankReservationGrant, execBankReservationGrant, hq]
  simp only [List.foldl_cons, h0, hu]
  rw [foldl_same fun x hx => ?noted]
  case noted =>
    split
    · exact atomicNoted_same (hrest x hx)
    · rfl
  simp only [List.find?_cons, h, reached, hm, Bool.and_self, List.erase_cons_head]
  exact ⟨_, rfl⟩

/-! The atomics that a proxy serialises. -/

section
variable {s : State} {die qn tid hd ep addr : Nat} {rest : List Nat} {t : Thread} {r : Req}
  (hq : (s.pkg (die / 2)).proxy.at [] (64 * (die % 2) + qn % 64) = tid :: rest) (h : s.atomicOf tid = some (t, r))
  (noted : ∀ x ∈ tid :: rest, ∀ u : Thread, s.thread x = some u → s.logMode x u ≠ 2)
include hq h noted

/-- The head of a proxy's queue leaves it: refused where the window does not offer the atomic, else performed (R155). -/
theorem proxyAtomic_head (hl : r.locs = [.host hd ep addr]) (hm : s.logMode tid t = 0) :
    let qi := 64 * (die % 2) + qn % 64
    let left := s.modPkg (die / 2) fun k => { k with proxy := if rest.isEmpty then k.proxy.del qi else k.proxy.put qi rest }
    let through := s.window (die / 2) ((nth r.vals 4).toNat % 2 ^ 56)
    (∀ w, through = some w → w.offers (nth r.vals 3).toNat r.n = true → ∃ place, exec (.proxyHostAtomic die qn) s =
      .next ((left.heardAtomic (coreOf tid) (.host hd ep addr)).performAtomic tid t r (.host hd ep addr) (nth r.vals 4).toNat place)) ∧
    ((through = none ∨ ∃ w, through = some w ∧ w.offers (nth r.vals 3).toNat r.n = false) →
      exec (.proxyHostAtomic die qn) s = .next (left.trap tid t 0x11 (nth r.vals 0))) := by
  intro qi left through
  have window : s.window (die / 2) (bits (nth r.vals 4).toNat 55 0) = through := by
    rw [bits, Nat.pow_zero, Nat.div_one]
  have may : s.atomicMay tid t r (.host hd ep addr) (nth r.vals 4).toNat = true := by
    rw [State.atomicMay, gateOpen_off hm, Bool.or_true]
  have run : exec (.proxyHostAtomic die qn) s = execProxyHostAtomic die qn s := exec_proxyHostAtomic ..
  rw [execProxyHostAtomic] at run
  dsimp only at run
  rw [hq, foldl_same fun x hx => ?noted] at run
  case noted =>
    split
    · exact atomicNoted_same (noted x hx)
    · rfl
  refine ⟨fun w hw ho => ?_, fun refused => ?_⟩
  · rw [run]
    simp only [List.find?_cons, h, hl, List.headD_cons, window, hw, ho, Bool.not_true, Bool.false_or, may, List.erase_cons_head,
      Bool.false_eq_true, if_false]
    exact ⟨_, rfl⟩
  · rw [run]
    rcases refused with none_ | ⟨w, hw, ho⟩
    · simp only [List.find?_cons, h, window, none_, Bool.not_false, Bool.true_or, List.erase_cons_head, if_true]
      rfl
    · simp only [List.find?_cons, h, window, hw, ho, Bool.not_false, Bool.true_or, List.erase_cons_head, if_true]
      rfl

end

/-- Settles O34: the head of a bank's or a proxy's queue is served by performAtomic. -/
theorem serialisedAtomics : Obligations.SerialisedAtomics := by
  refine ⟨fun p q d a b s s1 s2 t v la l => aadd_queued, ?bank, ?replay, ?proxy⟩
  case bank =>
    intro s key tid rest t r hq ht hw hk hm hrest left l s1 old new hl hs hb hd
    obtain ⟨x, heard⟩ := heardAtomic_tsc left (coreOf tid) l
    have alone : ∀ u, s.thread tid = some u → s.logMode tid u ≠ 2 := by
      intro u hu
      obtain rfl := Option.some.inj (ht.symm.trans hu)
      rw [hm]
      decide
    have mode : s1.logMode tid t = 0 := by rw [show s1 = _ from heard]; exact hm
    have atomic := atomicOf_waiting ht hw hk
    have may : s.atomicMay tid t r l l.linear = true := by
      rw [State.atomicMay, gateOpen_off hm, Bool.or_true]
    obtain ⟨place, run⟩ := bankGrant_head hq atomic (atomicNoted_same alone) hrest atomic hl may
    rw [run]
    exact congrArg _ (performAtomic_performs hs hb mode hd)
  case replay =>
    intro s key tid t0 t r0 r hq h0 u l s1 h hl
    obtain ⟨x, heard⟩ := heardAtomic_tsc ({ u with banks := u.banks.del key } : State) (coreOf tid) l
    have sealed_ : s1.sealedAt l = u.sealedAt l := by rw [show s1 = _ from heard]; rfl
    have bad : s1.isBad l.key r.n = u.isBad l.key r.n := by rw [show s1 = _ from heard]; rfl
    refine ⟨fun hs => ?_, fun hs hb => ?_⟩
    · obtain ⟨place, run⟩ := bankGrant_head hq h0 rfl (fun _ no => absurd no List.not_mem_nil) h hl
        (by rw [State.atomicMay, show u.sealedAt l = true from hs]; rfl)
      rw [run]
      exact congrArg _ (performAtomic_sealed (sealed_.trans hs))
    · obtain ⟨place, run⟩ := bankGrant_head hq h0 rfl (fun _ no => absurd no List.not_mem_nil) h hl
        (by rw [State.atomicMay, show u.isBad l.key r.n = true from hb, Bool.or_true]; rfl)
      rw [run]
      exact congrArg _ (performAtomic_bad (sealed_.trans hs) (bad.trans hb))
  case proxy =>
    intro s die qn tid rest t r hd ep addr hq ht hw hk hl hm hrest qi left l s1 old new through
    have noted : ∀ x ∈ tid :: rest, ∀ u : Thread, s.thread x = some u → s.logMode x u ≠ 2 := by
      intro x hx u hu
      rcases List.mem_cons.1 hx with rfl | hx
      · obtain rfl := Option.some.inj (ht.symm.trans hu)
        rw [hm]
        decide
      · exact hrest x hx u hu
    obtain ⟨offered, refused⟩ := proxyAtomic_head hq (atomicOf_waiting ht hw hk) noted hl hm
    obtain ⟨x, heard⟩ := heardAtomic_tsc left (coreOf tid) l
    have mode : s1.logMode tid t = 0 := by
      rw [show s1 = _ from heard]
      exact hm
    refine ⟨fun w hw ho hb hd => ?_, refused⟩
    obtain ⟨place, run⟩ := offered w hw ho
    rw [run]
    exact congrArg _ (performAtomic_performs rfl hb mode hd)

end Sys2Proof.Machine
end

section
namespace Sys2Proof.Machine

/-! Relaxed loads and stores (R140 to R143). -/

theorem touches_setFull (s : State) (la : Nat) (b : Bool) (x : Relaxed) (l : Loc) (n : Nat) :
    (s.setFull la b).touches x l n = s.touches x l n := rfl

/-- Reading data good changes no byte of memory: at most a line comes into the replica cache (R309). -/
theorem readGood_mem (s : State) (cl : Nat) (l : Loc) (n : Nat) : (s.readGood cl l n).2.mem = s.mem := by
  cases l with
  | loc la => rfl
  | host die ep addr => rfl
  | hbm pkg off phys =>
    by_cases inside : n ≤ 256 - off % 256
    · rw [State.readGood, if_pos inside, readLine_mem]
    · rw [State.readGood, if_neg inside, readLine_mem, readLine_mem]

/-- The dies of a package reach each other by no plane of the fabric (R401). -/
theorem linked_own (s : State) (c off phys : Nat) : s.linked c (.hbm (corePkg c) off phys) = true := by
  have same : dieKey c / 2 = (2 * corePkg c + phys / 2 ^ 36 / 6 % 2) / 2 := by
    rw [dieKey, corePkg]
    omega
  rw [State.linked, Fabric.reaches, beq_iff_eq.2 same, Bool.or_true, Bool.true_or]

/-- An address of region 0 that is translated lies in the own package's HBM (R132). -/
theorem translate_region0 {s s2 : State} {c la : Nat} {l : Loc} (hr : laRegion la = 0) (h : s.translate c la = (.ok l, s2)) :
    ∃ off phys, l = .hbm (corePkg c) off phys := by
  simp only [State.translate, canonLa_region0 hr, hr] at h
  split at h
  · cases h
    exact ⟨_, _, rfl⟩
  · cases h

section
variable {s0 s s2 : State} {tid la need : Nat} {t : Thread} {r : Relaxed} {l : Loc}

/-- R140: a thread has at most eight relaxed accesses outstanding. -/
theorem issueRelaxed_drains (h : 8 ≤ t.relaxed.length) :
    s0.issueRelaxed s tid t la need r = s0.wait tid t (.mem { kind := .drain }) := by
  rw [State.issueRelaxed, if_pos h]

/-- On the own local store an access is done in its turn, unless it meets one that is outstanding (R164, log 64). -/
theorem issueRelaxed_here (h : t.relaxed.length < 8) (hr : laRegion la = 1) (hc : laCore la = coreOf tid) :
    s0.issueRelaxed s tid t la need r =
      if t.relaxed.any fun x => s.meets x { r with place := .loc la } then s0.wait tid t (.mem { kind := .drain })
      else if r.store then s.landStore tid t.past { r with place := .loc la }
      else (s.setFull r.land false).land tid t.past { r with place := .loc la } := by
  rw [State.issueRelaxed, if_neg (Nat.not_le.2 h)]
  simp only [canonLa_local hr, hr, hc, if_true]
  cases r.store <;> rfl

/-- On the package's HBM the thread goes on with the access outstanding (R140). -/
theorem issueRelaxed_hbm (h : t.relaxed.length < 8) (hr : laRegion la = 0)
    (hl : (if r.store then s else s.setFull r.land false).translate (coreOf tid) la = (.ok l, s2)) :
    s0.issueRelaxed s tid t la need r =
      s2.retire tid { t with relaxed := t.relaxed ++ [{ r with place := l, missed := false, held := false }] } := by
  have not_host : laRegion la ≠ 3 := by omega
  obtain ⟨off, phys, rfl⟩ := translate_region0 hr hl
  rw [State.issueRelaxed, if_neg (Nat.not_le.2 h)]
  simp only [canonLa_region0 hr, hr, windowLacks_inside not_host, noProxy_inside not_host, hl, linked_own, Bool.not_true,
    Bool.false_eq_true, if_false, zero_ne_one]

/-- R141: a load whose data are good. -/
theorem land_good (h : (s.readGood (clusterOf (coreOf tid)) r.place r.n).1 = true) :
    s.land tid t r = (((s.readGood (clusterOf (coreOf tid)) r.place r.n).2.store r.land 8
      (extended r.n r.sgn (s.mem.read r.place.key r.n)).toNat).setFull r.land true).setThread tid t := by
  simp only [State.land, h, Bool.true_eq_false, if_false, readGood_mem]

theorem land_bad (h : (s.readGood (clusterOf (coreOf tid)) r.place r.n).1 = false) :
    s.land tid t r = (s.readGood (clusterOf (coreOf tid)) r.place r.n).2.setThread tid (t.relFaulted ⟨8, r.va⟩) := by
  simp only [State.land, h, if_true]

end

section
variable {word : Word32} {p : BitVec 3} {q : BitVec 1} {d a : BitVec 4} {imm : Word} {n : Nat} {i : Instr}

/-- A relaxed load whose address and landing word pass their checks is issued (R140, R141). -/
theorem loadRelaxed_issues {sgn : Bool} {s s1 : State} {t : Thread} {v : List Word} {la lw : Nat} (h : s.Issues p q 8 t)
    (r : s.Reads t [a, d] [] v s1) (hk : s1.check (coreOf s.cur) t.ctx (nth v 0 + imm) n segR n = .ok la)
    (hw : s1.check (coreOf s.cur) t.ctx (nth v 1) 8 segW 8 = .ok lw) (hr : laRegion lw = 1) (hc : laCore lw = coreOf s.cur) :
    loadRelaxed word p q d a imm n sgn s = .next (s.issueRelaxed s1 s.cur t la segR
      { store := false, place := .loc 0, va := nth v 0 + imm, n := n, sgn := sgn, data := 0, land := lw, missed := false }) := by
  rw [loadRelaxed, act_runs h r]
  simp only [hk, hw, hr, hc, ne_eq, not_true_eq_false, or_self, if_false]

theorem storeRelaxed_issues {s s1 : State} {t : Thread} {v : List Word} {la : Nat} (h : s.Issues p q 8 t)
    (r : s.Reads t [a, d] [] v s1) (hk : s1.check (coreOf s.cur) t.ctx (nth v 0 + imm) n segW n = .ok la) :
    storeRelaxed word p q d a imm n s = .next (s.issueRelaxed s1 s.cur t la segW
      { store := true, place := .loc 0, va := nth v 0 + imm, n := n, sgn := false, data := nth v 1, land := 0, missed := false }) := by
  rw [storeRelaxed, act_runs h r]
  simp only [hk]

theorem loadsRelaxed_of {sgn : Bool} (e : ∀ s, exec i s = loadRelaxed word p q d a imm n sgn s) :
    LoadsRelaxed i p q d a imm n sgn := by
  intro s t v s1 la lw h r c va hk hw hr hc
  rw [e, loadRelaxed_issues h r hk hw hr hc]
  refine ⟨fun full => ?_, fun room hla hca touched => ?_, fun room hla hca free good => ?_, fun l s2 room hla hl => ?_⟩
  · rw [issueRelaxed_drains full]
  · rw [issueRelaxed_here room hla hca, if_pos]
    simpa [State.meets] using touched
  · have read : ((s1.setFull lw false).readGood (clusterOf c) (.loc la) n).1 = true := by
      change (!s1.isBad la n) = true
      rw [good, Bool.not_false]
    rw [issueRelaxed_here room hla hca, if_neg (by simpa [State.meets] using free), if_neg Bool.false_ne_true, land_good read]
    rfl
  · rw [issueRelaxed_hbm room hla (by exact hl)]

theorem storesRelaxed_of (e : ∀ s, exec i s = storeRelaxed word p q d a imm n s) : StoresRelaxed i p q d a imm n := by
  intro s t v s1 la h r c va hk
  rw [e, storeRelaxed_issues h r hk]
  refine ⟨fun full => ?_, fun room hla hca free => ?_, fun l s2 room hla hl => ?_⟩
  · rw [issueRelaxed_drains full]
  · rw [issueRelaxed_here room hla hca, if_neg (by simpa [State.meets] using free), if_pos rfl]
    rfl
  · rw [issueRelaxed_hbm room hla (by exact hl)]

end

theorem relaxedRows_hold : relaxedRows := by
  intro p q d a imm
  exact ⟨loadsRelaxed_of (exec_ldbRlx p q d a imm), loadsRelaxed_of (exec_ldbuRlx p q d a imm),
    loadsRelaxed_of (exec_ldhRlx p q d a imm), loadsRelaxed_of (exec_ldhuRlx p q d a imm), loadsRelaxed_of (exec_ldwRlx p q d a imm),
    loadsRelaxed_of (exec_ldwuRlx p q d a imm), loadsRelaxed_of (exec_lddRlx p q d a imm), storesRelaxed_of (exec_stbRlx p q d a imm),
    storesRelaxed_of (exec_sthRlx p q d a imm), storesRelaxed_of (exec_stwRlx p q d a imm), storesRelaxed_of (exec_stdRlx p q d a imm)⟩

/-! Completion, and the fault that it may leave (R141 to R143). -/

section
variable {s : State} {tid : Nat} {t : Thread} {r : Relaxed} {rest : List Relaxed}

/-- The oldest outstanding access that waits for no walk may complete. -/
theorem relaxedReady_oldest (hm : r.missed = false) : s.relaxedReady (r :: rest) 0 = some r := by
  simp [State.relaxedReady, hm]

section
variable (ht : s.thread tid = some t) (hr : t.relaxed = r :: rest) (hm : r.missed = false)
include ht hr hm

/-- R401: an access that no plane carried stays outstanding until one does. -/
theorem relaxedCompletion_unlinked (hh : r.held = true) (hl : s.linked (coreOf tid) (s.place r.place) = false) :
    exec (.relaxedAccessCompletion tid 0) s = .next s := by
  rw [exec_relaxedAccessCompletion, execRelaxedAccessCompletion]
  simp only [ht, hr, relaxedReady_oldest hm, hh, hl, and_self, if_true]

/-- What is not held leaves the list, and its load or store is done. -/
theorem relaxedCompletion_lands (hl : r.held = false ∨ s.linked (coreOf tid) (s.place r.place) = true) :
    exec (.relaxedAccessCompletion tid 0) s =
      .next (if r.store then (s.heardAt (coreOf tid) (s.place r.place)).landStore tid { t with relaxed := rest }
          { r with place := s.place r.place }
        else (s.heardAt (coreOf tid) (s.place r.place)).land tid { t with relaxed := rest } { r with place := s.place r.place }) := by
  have carried : ¬ (r.held = true ∧ s.linked (coreOf tid) (s.place r.place) = false) := by
    rintro ⟨hh, hn⟩
    rcases hl with hl | hl
    · exact Bool.false_ne_true (hl.symm.trans hh)
    · exact Bool.false_ne_true (hn.symm.trans hl)
  rw [exec_relaxedAccessCompletion, execRelaxedAccessCompletion]
  simp only [ht, hr, relaxedReady_oldest hm, if_neg carried, List.eraseIdx_cons_zero]

end

/-- R143: a fault noted is taken as a trap at the instruction that would have issued. -/
theorem deferredRelaxedFault_traps {x : Trap} (ht : s.thread tid = some t) (hf : t.relFault = some x) (hl : t.tfl = false)
    (htr : (s.ctx (cxOf (coreOf tid) t)).trace = 0) :
    exec (.deferredRelaxedFault tid) s = .next (s.setThread tid
      (({ t with relFault := none } : Thread).inHandler (s.ctx (cxOf (coreOf tid) t)).trapvec x.cause x.ebad)) := by
  have untraced : ∀ rec, s.traceSoft (cxOf (coreOf tid) t) (coreDie (coreOf tid)) 1 rec = some s := by
    intro rec
    rw [State.traceSoft, htr]
    rfl
  have taken : s.trapAt tid { t with relFault := none } t.pc x = s.setThread tid
      (({ t with relFault := none } : Thread).inHandler (s.ctx (cxOf (coreOf tid) t)).trapvec x.cause x.ebad) :=
    trap_taken (t := { t with relFault := none }) hl (untraced _)
  rw [exec_deferredRelaxedFault, execDeferredRelaxedFault]
  simp only [ht, hf, taken]
  rw [if_neg]
  rw [State.trapHeld, thread_setThread]
  exact of_decide_eq_false rfl

end

theorem relaxedCompletion_holds : relaxedCompletion := by
  refine ⟨fun s tid t r rest ht hr hm => ?_, fun s tid t x ht hf hl htr => ?_⟩
  · intro l s1 g u noted
    refine ⟨relaxedCompletion_unlinked ht hr hm, fun hl => ?_⟩
    rw [relaxedCompletion_lands ht hr hm hl]
    refine ⟨fun hs good => ?_, fun hs bad => ?_, fun hs unsealed => ?_, fun hs sealed_ => ?_⟩
    · rw [hs, if_neg Bool.false_ne_true, land_good good]
    · rw [hs, if_neg Bool.false_ne_true, land_bad bad]
      rfl
    · rw [hs, if_pos rfl, State.landStore, if_neg (by rw [show s1.sealedAt l = false from unsealed]; exact Bool.false_ne_true)]
    · rw [hs, if_pos rfl, State.landStore, if_pos sealed_]
      rfl
  · exact ⟨_, deferredRelaxedFault_traps ht hf hl htr, rfl, rfl, rfl, rfl, rfl, rfl, rfl, rfl⟩

/-- Settles O35: issue by issueRelaxed, completion by land and landStore. -/
theorem relaxedAccesses : Obligations.RelaxedAccesses := ⟨relaxedRows_hold, relaxedCompletion_holds⟩

end Sys2Proof.Machine
end

section
namespace Sys2Proof.Machine

/-! The checks of a data access (R127, R128, R130 to R132). -/

theorem Seg.refused_iff (d : Seg) : d.refused = true ↔ d.kind ≠ 1 ∨ 2 ^ 60 ≤ d.base ∨ 8 ≤ d.rights := by
  simp [Seg.refused, or_assoc]

/-- R128, R130: a descriptor that is refused, or one of s0 whose LIMIT is beyond the context's share. -/
theorem segRefuses_iff (s : State) (c ctx i : Nat) : s.segRefuses c ctx i = true ↔
    (i ≠ 0 ∧ ((s.seg c ctx i).kind ≠ 1 ∨ 2 ^ 60 ≤ (s.seg c ctx i).base ∨ 8 ≤ (s.seg c ctx i).rights)) ∨
      (i = 0 ∧ s.shareSize c (4 * corePkg c + ctx) < (s.seg c ctx i).limit) := by
  rw [State.segRefuses, decide_eq_true_iff, Seg.refused_iff]

section
variable {s : State} {c ctx n need al : Nat} {va : Word}

theorem check_refused (h : s.segRefuses c ctx (vaSeg va) = true) : s.check c ctx va n need al = .error ⟨4, va⟩ := if_pos h

/-- The linear address that a segmented address names, before it is checked (R127, R130). -/
def State.linearOf (s : State) (c ctx : Nat) (va : Word) : Nat :=
  (if vaSeg va = 0 then s.s0Base c (4 * corePkg c + ctx) else (s.seg c ctx (vaSeg va)).base) + vaOff va

/-- With a descriptor that is not refused, the checks that follow, in their order (R131). -/
theorem check_in_order (h : s.segRefuses c ctx (vaSeg va) = false) :
    s.check c ctx va n need al =
      if (s.seg c ctx (vaSeg va)).limit < vaOff va + n then .error ⟨3, va⟩
      else if need &&& (s.seg c ctx (vaSeg va)).rights ≠ need then .error ⟨4, va⟩
      else if 2 ^ 60 ≤ s.linearOf c ctx va ∨ 3 < laRegion (s.linearOf c ctx va) then .error ⟨3, va⟩
      else if s.linearOf c ctx va % al ≠ 0 then .error ⟨6, va⟩
      else if s.decodes (corePkg c) (s.linearOf c ctx va) = false then .error ⟨7, va⟩
      else .ok (s.linearOf c ctx va) := by
  rw [State.check, h]
  rfl

section
variable (h : s.segRefuses c ctx (vaSeg va) = false)
include h

theorem check_beyond (hl : (s.seg c ctx (vaSeg va)).limit < vaOff va + n) : s.check c ctx va n need al = .error ⟨3, va⟩ := by
  rw [check_in_order h, if_pos hl]

variable (hl : vaOff va + n ≤ (s.seg c ctx (vaSeg va)).limit)
include hl

theorem check_lacks (hn : need &&& (s.seg c ctx (vaSeg va)).rights ≠ need) : s.check c ctx va n need al = .error ⟨4, va⟩ := by
  rw [check_in_order h, if_neg (Nat.not_lt.2 hl), if_pos hn]

variable (hn : need &&& (s.seg c ctx (vaSeg va)).rights = need)
include hn

theorem check_outside (ho : 2 ^ 60 ≤ s.linearOf c ctx va ∨ 3 < laRegion (s.linearOf c ctx va)) :
    s.check c ctx va n need al = .error ⟨3, va⟩ := by
  rw [check_in_order h, if_neg (Nat.not_lt.2 hl), if_neg (not_not.2 hn), if_pos ho]

variable (ho : ¬ (2 ^ 60 ≤ s.linearOf c ctx va ∨ 3 < laRegion (s.linearOf c ctx va)))
include ho

theorem check_misaligned (ha : s.linearOf c ctx va % al ≠ 0) : s.check c ctx va n need al = .error ⟨6, va⟩ := by
  rw [check_in_order h, if_neg (Nat.not_lt.2 hl), if_neg (not_not.2 hn), if_neg ho, if_pos ha]

theorem check_undecoded (ha : s.linearOf c ctx va % al = 0) (hd : s.decodes (corePkg c) (s.linearOf c ctx va) = false) :
    s.check c ctx va n need al = .error ⟨7, va⟩ := by
  rw [check_in_order h, if_neg (Nat.not_lt.2 hl), if_neg (not_not.2 hn), if_neg ho, if_neg (not_not.2 ha), if_pos hd]

theorem check_passes (ha : s.linearOf c ctx va % al = 0) (hd : s.decodes (corePkg c) (s.linearOf c ctx va) = true) :
    s.check c ctx va n need al = .ok (s.linearOf c ctx va) := by
  rw [check_in_order h, if_neg (Nat.not_lt.2 hl), if_neg (not_not.2 hn), if_neg ho, if_neg (not_not.2 ha), hd,
    if_neg (by decide)]

end

end

/-! What decodes, region by region (R132, R133, R386). -/

section
variable {s : State} {pkg la : Nat}

theorem decodes_region0 (h : laRegion la = 0) : s.decodes pkg la = true ↔ bits la 55 43 = 0 := by
  rw [State.decodes, h]
  exact decide_eq_true_iff

theorem coreOk_iff (s : State) (c : Nat) :
    s.coreOk c = true ↔ corePkg c < Config.packages ∧ coreNum c < 576 ∧ (s.core c).disabled = false := by
  simp [State.coreOk, and_assoc]

theorem decodes_region1 (h : laRegion la = 1) : s.decodes pkg la = true ↔
    bits la 55 44 = 0 ∧ s.coreOk (laCore la) = true ∧ laOff la < lsSize (laCore la) := by
  rw [State.decodes, h]
  simp only [Bool.and_eq_true, decide_eq_true_iff, and_assoc]

theorem decodes_region2 (h : laRegion la = 2) : s.decodes pkg la = true ↔ bits la 55 43 < Config.packages := by
  rw [State.decodes, h]
  exact decide_eq_true_iff

/-- A window of the host covers the address (R386, log 65). -/
theorem window_isSome (s : State) (pkg off : Nat) : (s.window pkg off).isSome = true ↔ ∃ w ∈ (s.pkg pkg).windows,
    w.2.base ≤ off ∧ off < w.2.base + w.2.size ∧ w.2.ep < (s.pkg pkg).hosts.length := by
  simp only [State.window, Option.isSome_map, List.find?_isSome, Bool.and_eq_true, decide_eq_true_iff, and_assoc]

theorem decodes_region3 (h : laRegion la = 3) : s.decodes pkg la = true ↔ (s.window pkg (bits la 55 0)).isSome = true := by
  rw [State.decodes, h]
  exact Iff.rfl

end

/-- The number of a core in a linear address of region 1, by its parts (R133). -/
theorem laCore_parts (la : Nat) : corePkg (laCore la) = la / 2 ^ 31 % 2 ^ 13 ∧ coreNum (laCore la) = la / 2 ^ 20 % 1024 := by
  simp only [corePkg, coreNum, laCore]
  omega

theorem decodes_regions (s : State) (pkg l : Nat) :
    (l / 2 ^ 56 % 16 = 0 → (s.decodes pkg l = true ↔ l / 2 ^ 43 % 2 ^ 13 = 0)) ∧
    (l / 2 ^ 56 % 16 = 1 → (s.decodes pkg l = true ↔ l / 2 ^ 44 % 2 ^ 12 = 0 ∧ l / 2 ^ 31 % 2 ^ 13 < Config.packages ∧
      l / 2 ^ 20 % 1024 < 576 ∧ (s.core (l / 2 ^ 20 % 2 ^ 24)).disabled = false ∧
      l % 2 ^ 20 < if 32 ≤ l / 2 ^ 20 % 1024 % 36 then 0x80000 else 0x100000)) ∧
    (l / 2 ^ 56 % 16 = 2 → (s.decodes pkg l = true ↔ l / 2 ^ 43 % 2 ^ 13 < Config.packages)) ∧
    (l / 2 ^ 56 % 16 = 3 → (s.decodes pkg l = true ↔ ∃ w ∈ (s.pkg pkg).windows, w.2.base ≤ l % 2 ^ 56 ∧
      l % 2 ^ 56 < w.2.base + w.2.size ∧ w.2.ep < (s.pkg pkg).hosts.length)) := by
  refine ⟨decodes_region0, fun h => ?_, decodes_region2, fun h => ?_⟩
  · obtain ⟨number, position⟩ := laCore_parts l
    rw [decodes_region1 h, coreOk_iff, number, position, lsSize, isService, corePos, position, and_assoc, and_assoc]
    simp only [decide_eq_true_iff]
    rfl
  · rw [decodes_region3 h, window_isSome, bits, Nat.pow_zero, Nat.div_one]

/-- Settles O27: the checks in their order, and what decodes in each region. -/
theorem accessChecks : Obligations.AccessChecks := by
  intro s c ctx n need al va i off d la r
  refine ⟨fun hi refused => ?_, fun accepted inShare => ?_, decodes_regions s⟩
  · exact check_refused ((segRefuses_iff ..).2 (.inl ⟨hi, refused⟩))
  · have opens : s.segRefuses c ctx i = false := by
      rw [← Bool.not_eq_true, segRefuses_iff]
      rintro (⟨hi, refused⟩ | ⟨hi, beyond⟩)
      · obtain ⟨kind, base, rights⟩ := accepted hi
        rcases refused with no | no | no
        · exact no kind
        · exact Nat.not_le.2 base no
        · exact Nat.not_le.2 rights no
      · exact Nat.not_le.2 beyond (inShare hi)
    refine ⟨check_beyond opens, check_lacks opens, fun inside rights => ⟨check_outside opens inside rights, fun low region => ?_⟩⟩
    have within : ¬ (2 ^ 60 ≤ la ∨ 3 < la / 2 ^ 56 % 16) := by omega
    exact ⟨check_misaligned opens inside rights within, check_undecoded opens inside rights within,
      check_passes opens inside rights within⟩

end Sys2Proof.Machine
end

section
namespace Sys2Proof.Machine

/-! yield, and the packets of a migration (R162, R173, R174). -/

theorem yieldHoldEnd_turn {s : State} {tid k : Nat} {t : Thread} (ht : s.thread tid = some t) (hw : t.wait = .held (.yield k)) :
    exec (.yieldHoldEnd tid) s = .next (if k = 0 then s.retire tid t else s) := by
  rw [exec_yieldHoldEnd, execYieldHoldEnd]
  simp only [ht, hw]
  split <;> rfl

/-- With nothing on the agenda a step is the turn of the next core that has a thread. -/
theorem step_turn {s : State} {c : Nat} (ha : s.agenda = []) (hn : s.nextCore = some c) : step s = runTurn c s (s.coreTurn c) := by
  simp only [step, ha, hn]

section
variable {s : State} {c : Nat} {t : Thread} (ht : s.thread (16 * c + s.clock % 16) = some t)
include ht

/-- R174: with no rotation left the hold ends in its position's own turn, which counts as issued. -/
theorem coreTurn_holdEnds (hw : t.wait = .held (.yield 0)) : s.coreTurn c = .held (.yieldHoldEnd (16 * c + s.clock % 16))
    (State.recount { s with cur := 16 * c + s.clock % 16 } s c) := by
  simp only [State.coreTurn, ht, hw]

/-- R174, R195: the position's own turn counts the hold down, and may be donated. -/
theorem coreTurn_holds {j : Nat} (hw : t.wait = .held (.yield (j + 1))) :
    s.coreTurn c = .donated (State.coreTurn.donate c (s.wait (16 * c + s.clock % 16) t (.held (.yield j)))) := by
  simp only [State.coreTurn, ht, hw]

variable (ha : s.agenda = []) (hn : s.nextCore = some c)
include ha hn

theorem step_holdEnds (hw : t.wait = .held (.yield 0)) : step s =
    .next ((State.recount { s with cur := 16 * c + s.clock % 16 } s c).retire (16 * c + s.clock % 16) t) := by
  rw [step_turn ha hn, coreTurn_holdEnds ht hw]
  exact yieldHoldEnd_turn (by exact ht) hw

/-- Outside shared mode nothing is donated (R194). -/
theorem step_holds {j : Nat} (hw : t.wait = .held (.yield (j + 1))) (hs : (s.core c).rotShr = false) :
    step s = .next ((s.wait (16 * c + s.clock % 16) t (.held (.yield j))).turnEnds c) := by
  have kept : State.coreTurn.donate c (s.wait (16 * c + s.clock % 16) t (.held (.yield j))) =
      .idle (s.wait (16 * c + s.clock % 16) t (.held (.yield j))) := by
    rw [State.coreTurn.donate, if_neg]
    rintro ⟨shared, -⟩
    exact Bool.false_ne_true (hs.symm.trans shared)
  rw [step_turn ha hn, coreTurn_holds ht hw, kept]
  rfl

end

section
variable {s s1 : State} {n core origin : Nat} {m : Msg} {t : Thread} {ebad : Word} {past : Bool}

section
variable (hd : s.deliver n = some (m, s1)) (hm : m.body = .migrate core t origin ebad past)
  (hr : s.running (4 * corePkg core + t.ctx) = true) (hs : s.holdsSlots (4 * corePkg core + t.ctx) core = true)
include hd hm hr hs

/-- A thread that its target takes frees the position it left (R162). -/
theorem migrationArrival_taken {s2 : State} (ha : s1.arrive core t.ctx (.thread (if past then t.past else t) origin) = some s2) :
    exec (.migrationArrival n) s = .next (s2.unreserve origin) := by
  rw [exec_migrationArrival, execMigrationArrival]
  simp only [hd, hm, hr, hs, ha, Bool.and_self, Bool.not_true, Bool.false_eq_true, if_false]

/-- One that its target cannot take is sent back (R173). -/
theorem migrationArrival_refused (ha : s1.arrive core t.ctx (.thread (if past then t.past else t) origin) = none) :
    exec (.migrationArrival n) s = .next (s1.send core (coreOf origin) 2 (.refused t origin ebad)) := by
  rw [exec_migrationArrival, execMigrationArrival]
  simp only [hd, hm, hr, hs, ha, Bool.and_self, Bool.not_true, Bool.false_eq_true, if_false]

end

theorem migrationRefused_traps (hd : s.deliver n = some (m, s1)) (hm : m.body = .refused t origin ebad)
    (hr : s.running (cxOf (coreOf origin) t) = true) : exec (.migrationRefused n) s =
      .next ((s1.unreserve origin).trap origin { t with seq := t.seq.unchecked } 0x0D ebad) := by
  rw [exec_migrationRefused, execMigrationRefused]
  simp only [hd, hm, hr, if_true]

end

/-- Settles O39: a hold is counted in its position's own turn, and a packet is taken or refused as it arrives. -/
theorem yieldsAndArrivals : Obligations.YieldsAndArrivals := by
  refine ⟨fun p q a s s1 t v h r => ?yield, fun s tid k t => yieldHoldEnd_turn, ?turns, ?arrival,
    fun s s1 n m t origin ebad => migrationRefused_traps⟩
  case yield =>
    rw [exec_yield, execYield, effect_runs h r]
  case turns =>
    intro s c k t own ht hw
    refine ⟨?_, ?_, fun ha hn => ⟨?_, ?_⟩⟩
    · rintro rfl
      exact coreTurn_holdEnds ht hw
    · rintro j rfl
      exact coreTurn_holds ht hw
    · rintro rfl
      exact step_holdEnds ht ha hn hw
    · rintro j rfl
      exact step_holds ht ha hn hw
  case arrival =>
    intro s s1 n m core t origin ebad past hd hm hr hs a
    exact ⟨fun s2 => migrationArrival_taken hd hm hr hs, migrationArrival_refused hd hm hr hs⟩

end Sys2Proof.Machine
end

section
namespace Sys2Proof.Machine

/-! Writes of the log registers of the writer's die (R357, R358, R366). -/

theorem modCtx_congr {s : State} {cx : Nat} {f g : Context → Context} (h : f (s.ctx cx) = g (s.ctx cx)) :
    s.modCtx cx f = s.modCtx cx g :=
  congrArg (fun k => { s with ctxs := s.ctxs.put cx k }) h

/-- R356: a ring has a power of two of bytes, from 64 KiB to 1 TiB. -/
theorem logSizeLegal_iff (x : Nat) : logSizeLegal x = true ↔ ∃ k, k ≤ 24 ∧ x = 2 ^ (16 + k) := by
  simp only [logSizeLegal, List.any_eq_true, List.mem_range, beq_iff_eq, Nat.lt_succ_iff]

/-- The bits of a word from bit k up. -/
theorem and_high (x : Word) {k : Nat} (hk : k ≤ 64) :
    x &&& BitVec.ofNat 64 ((2 ^ (64 - k) - 1) * 2 ^ k) = BitVec.ofNat 64 (x.toNat / 2 ^ k * 2 ^ k) := by
  rw [and_mask x hk, Nat.mod_eq_of_lt x.isLt]

section
variable {p : BitVec 3} {q : BitVec 1} {a : BitVec 4} {n : BitVec 14} {s s1 : State} {t : Thread} {v : List Word}
  (h : s.Issues p q 4 t) (hs : t.sup = true) (r : s.Reads t [a] [] v s1)
include h hs r

theorem wrsrLogRing_refused (hx : (s1.ctx (cxOf (coreOf s.cur) t)).replay ≠ 0 ∨ (n = 0x83 ∧ logSizeLegal (nth v 0).toNat = false)) :
    exec (.wrsrLogRing p q a n) s = .next (s.trap s.cur t 1 ((wordOf (.wrsrLogRing p q a n)).setWidth 64)) := by
  rw [exec_wrsrLogRing, execWrsrLogRing, act_privRuns h hs r]
  simp only [if_pos hx]
  rfl

/-- A new base or size of a ring zeroes both indices. -/
theorem wrsrLogRing_clears (hr : (s1.ctx (cxOf (coreOf s.cur) t)).replay = 0) (hx : n = 0x83 → logSizeLegal (nth v 0).toNat = true) :
    exec (.wrsrLogRing p q a n) s = .next ((s1.modCtx (cxOf (coreOf s.cur) t) fun k => k.setLog (coreDie (coreOf s.cur))
      { (s1.ctx (cxOf (coreOf s.cur) t)).log (coreDie (coreOf s.cur)) with
        base := if n = 0x82 then BitVec.ofNat 64 ((nth v 0).toNat / 65536 * 65536)
                else ((s1.ctx (cxOf (coreOf s.cur) t)).log (coreDie (coreOf s.cur))).base
        size := if n = 0x83 then nth v 0 else ((s1.ctx (cxOf (coreOf s.cur) t)).log (coreDie (coreOf s.cur))).size
        prod := 0, cons := 0, retired := [], nextRead := 0 }).retire s.cur t) := by
  have accepted : ¬ ((s1.ctx (cxOf (coreOf s.cur) t)).replay ≠ 0 ∨ (n = 0x83 ∧ logSizeLegal (nth v 0).toNat = false)) := by
    rintro (no | ⟨hn, no⟩)
    · exact no hr
    · exact Bool.false_ne_true (no.symm.trans (hx hn))
  have base : nth v 0 &&& ~~~0xFFFF = BitVec.ofNat 64 ((nth v 0).toNat / 65536 * 65536) := and_high (nth v 0) (k := 16) (by decide)
  rw [exec_wrsrLogRing, execWrsrLogRing, act_privRuns h hs r]
  simp only [if_neg accepted, base]
  rfl

/-- R358: the bounds of logcons; in a replay the ring is read ahead of its producer. -/
theorem wrsrLogcons_bound : exec (.wrsrLogcons p q a) s = .next (
    let u := (s1.ctx (cxOf (coreOf s.cur) t)).log (coreDie (coreOf s.cur))
    if u.cons.toNat ≤ (nth v 0).toNat ∧ (nth v 0).toNat ≤
        u.prod.toNat + (if (s1.ctx (cxOf (coreOf s.cur) t)).replay = 2 then u.size.toNat / 32 else 0) then
      (s1.modCtx (cxOf (coreOf s.cur) t) fun k => k.setLog (coreDie (coreOf s.cur)) { u with cons := nth v 0 }).retire s.cur t
    else s.trap s.cur t 1 ((wordOf (.wrsrLogcons p q a)).setWidth 64)) := by
  rw [exec_wrsrLogcons, execWrsrLogcons, act_privRuns h hs r]
  by_cases replays : (s1.ctx (cxOf (coreOf s.cur) t)).replay = 2
  · simp only [if_pos replays]
    rfl
  · simp only [if_neg replays]
    rfl

end

theorem logRegisterWrites_hold : logRegisterWrites := by
  intro p q a s t v s1 h r hs x die cx u
  refine ⟨fun hr => ?base, fun hr legal => ?size, fun hr => ⟨?_, ?_⟩, fun illegal => ?_, fun low high => ?_, fun beyond => ?_⟩
  case base => exact wrsrLogRing_clears h hs r hr fun no => absurd no (by decide)
  case size => exact wrsrLogRing_clears h hs r hr fun _ => (logSizeLegal_iff _).2 legal
  · exact wrsrLogRing_refused h hs r (.inl hr)
  · exact wrsrLogRing_refused h hs r (.inl hr)
  · refine wrsrLogRing_refused h hs r (.inr ⟨rfl, ?_⟩)
    rw [← Bool.not_eq_true, logSizeLegal_iff]
    rintro ⟨k, hk, e⟩
    exact illegal k hk e
  · rw [wrsrLogcons_bound h hs r]
    exact congrArg _ (if_pos ⟨low, high⟩)
  · rw [wrsrLogcons_bound h hs r]
    refine congrArg _ (if_neg ?_)
    rintro ⟨low, high⟩
    rcases beyond with no | no
    · exact Nat.not_lt.2 low no
    · exact Nat.not_lt.2 high no

/-! Writes of the registers that the package shares (R128, R129, R325). -/

section
variable {s : State} {tid pkg off : Nat} {t : Thread} {ebad : Word}

theorem pageMiss_absent (h : t.noEntry = some (pkg, off / 65536)) : s.pageMiss tid t pkg off ebad = s.trap tid t 7 ebad := if_pos h

theorem pageMiss_walks (h : t.noEntry ≠ some (pkg, off / 65536)) : s.pageMiss tid t pkg off ebad =
    (s.wait tid t (.page pkg off)).askWalk (portOf (coreOf tid) pkg off) off (.thread tid) := if_neg h

end

section
variable {p : BitVec 3} {q : BitVec 1} {a : BitVec 4} {s s1 s2 : State} {t : Thread} {v : List Word}
  (h : s.Issues p q 4 t) (hs : t.sup = true) (r : s.Reads t [a] [] v s1)
include h hs r

theorem wrsrReplay_shared
    (hx : (nth v 0).toNat % 4 = 0 ∨ ((nth v 0).toNat % 4 = 1 ∧ (s1.ctx (cxOf (coreOf s.cur) t)).replay ≠ 2)) :
    exec (.wrsrReplay p q a) s =
      .next (s1.wait s.cur t (.mem { kind := .ctxWrite, vals := [BitVec.ofNat 64 ((nth v 0).toNat % 4)], n := 0x86 })) := by
  have legal : ¬ (2 ≤ (nth v 0).toNat % 4 ∨ ((nth v 0).toNat % 4 = 1 ∧ (s1.ctx (cxOf (coreOf s.cur) t)).replay = 2)) := by
    rintro (high | ⟨one, replays⟩)
    · omega
    · rcases hx with zero | ⟨-, no⟩
      · omega
      · exact no replays
  rw [exec_wrsrReplay, execWrsrReplay, act_privRuns h hs r]
  simp only [if_neg legal]
  rfl

theorem wrsrReplay_refused (hx : 2 ≤ (nth v 0).toNat % 4 ∨ ((nth v 0).toNat % 4 = 1 ∧ (s1.ctx (cxOf (coreOf s.cur) t)).replay = 2)) :
    exec (.wrsrReplay p q a) s = .next (s.trap s.cur t 1 ((wordOf (.wrsrReplay p q a)).setWidth 64)) := by
  rw [exec_wrsrReplay, execWrsrReplay, act_privRuns h hs r]
  simp only [if_pos hx]
  rfl

/-- The linear address that a write of segbase names, its bits [3:0] dropped (R128). -/
def segbaseLa (c : Nat) (x : Word) : Nat := canonLa (corePkg c) (x.toNat / 16 * 16)

omit h hs r in
/-- Bits [3:0] of segbase read 0 (R128). -/
theorem segbase_aligned (x : Word) : x &&& ~~~15 = BitVec.ofNat 64 (x.toNat / 16 * 16) := and_high x (k := 4) (by decide)

omit h hs r in
theorem segbase_toNat (x : Word) : (BitVec.ofNat 64 (x.toNat / 16 * 16)).toNat = x.toNat / 16 * 16 := by
  have := x.isLt
  rw [BitVec.toNat_ofNat]
  omega

theorem wrsrSegbase_outside (hx : 2 ^ 60 ≤ (nth v 0).toNat ∨ 2 ^ 43 ≤ segbaseLa (coreOf s.cur) (nth v 0) + 127) :
    exec (.wrsrSegbase p q a) s = .next (s.trap s.cur t 7 (nth v 0)) := by
  have outside : 2 ^ 60 ≤ (nth v 0).toNat / 16 * 16 ∨ 2 ^ 43 ≤ segbaseLa (coreOf s.cur) (nth v 0) + 127 := by omega
  rw [exec_wrsrSegbase, execWrsrSegbase, act_privRuns h hs r]
  simp only [segbase_aligned, segbase_toNat]
  exact congrArg _ (if_pos outside)

variable (hx : (nth v 0).toNat < 2 ^ 60) (hl : segbaseLa (coreOf s.cur) (nth v 0) + 127 < 2 ^ 43)
include hx hl

/-- The writer reads the eight descriptors first (R129). -/
theorem wrsrSegbase_reads {l : Loc} (hr : s1.reach (coreOf s.cur) (segbaseLa (coreOf s.cur) (nth v 0)) 128 = (.ok l, s2)) :
    exec (.wrsrSegbase p q a) s = .next (s2.wait s.cur t (.mem
      { kind := .segRead, vals := [BitVec.ofNat 64 ((nth v 0).toNat / 16 * 16), nth v 0],
        n := segbaseLa (coreOf s.cur) (nth v 0) })) := by
  have inside : ¬ (2 ^ 60 ≤ (nth v 0).toNat / 16 * 16 ∨ 2 ^ 43 ≤ segbaseLa (coreOf s.cur) (nth v 0) + 127) := by omega
  rw [segbaseLa] at inside hr
  rw [exec_wrsrSegbase, execWrsrSegbase, act_privRuns h hs r]
  simp only [segbase_aligned, segbase_toNat, if_neg inside, hr]
  rfl

theorem wrsrSegbase_misses {pkg off : Nat}
    (hr : s1.reach (coreOf s.cur) (segbaseLa (coreOf s.cur) (nth v 0)) 128 = (.miss pkg off, s2)) :
    exec (.wrsrSegbase p q a) s = .next (s.pageMiss s.cur t pkg off (nth v 0)) := by
  have inside : ¬ (2 ^ 60 ≤ (nth v 0).toNat / 16 * 16 ∨ 2 ^ 43 ≤ segbaseLa (coreOf s.cur) (nth v 0) + 127) := by omega
  rw [segbaseLa] at inside hr
  rw [exec_wrsrSegbase, execWrsrSegbase, act_privRuns h hs r]
  simp only [segbase_aligned, segbase_toNat, if_neg inside, hr]

end

/-- A region-2 address that names the own package counts as its region-0 offset (R132). -/
theorem canonLa_packages {pkg other off : Nat} (hp : pkg < 2 ^ 13) (ho : other < 2 ^ 13) (hne : other ≠ pkg) (hoff : off < 2 ^ 43) :
    canonLa pkg off = off ∧ canonLa pkg (2 ^ 57 + pkg * 2 ^ 43 + off) = off ∧ 2 ^ 43 ≤ canonLa pkg (2 ^ 57 + other * 2 ^ 43 + off) := by
  refine ⟨canonLa_region0 (by rw [laRegion, bits]; omega), ?_, ?_⟩
  · rw [canonLa, if_pos ⟨by rw [laRegion, bits]; omega, by rw [bits]; omega⟩, bits]
    omega
  · rw [canonLa, if_neg fun own => hne ?_]
    · omega
    · have := own.2
      rw [bits] at this
      omega

/-! The replies that complete them (R325, R366). -/

section
variable {s s1 : State} {tid n o : Nat} {t : Thread} {x y : Word}

theorem withPages_asks {who : Waiter} {cl : Nat} {offs : List Nat} {k : State → State} (h : s.portMiss who cl offs = some o) :
    s.withPages who cl offs k = s.askWalk cl o who := by
  simp only [State.withPages, h]

theorem withPages_goes {who : Waiter} {cl : Nat} {offs : List Nat} {k : State → State} (h : s.portMiss who cl offs = none) :
    s.withPages who cl offs k = (k s).dropNotes who := by
  simp only [State.withPages, h]

theorem withSegs_reads {cx : Nat} {k : State → State} (h : s.segMisses cx = []) : s.withSegs cx k = k (s.readSegs cx) := by
  simp only [State.withSegs, h, List.isEmpty_nil, if_true]

theorem memoryReply_ctxWrite {r : Req} (ht : s.thread tid = some t) (hw : t.wait = .mem r) (hk : r.kind = .ctxWrite)
    (hh : r.held = false) : exec (.memoryReply tid) s = .next (s.sharedServed tid t r) := by
  rw [memoryReply_serves ht hw hh]
  simp only [State.served, hk]

/-- What a write to replay makes of the context: a replay that it ends leaves nothing waiting (R366). -/
def Context.replayWritten (w : Word) (k : Context) : Context :=
  { (if k.replay = 2 then k.replayEnds else k) with replay := w.setWidth 2 }

theorem replayWritten_outside {k : Context} {w : Word} (h : k.replay ≠ 2) : k.replayWritten w = { k with replay := w.setWidth 2 } := by
  rw [Context.replayWritten, if_neg h]

theorem replayWritten_ends {k : Context} (h : k.replay = 2) : k.replayWritten 0 = { k.replayEnds with replay := 0 } := by
  rw [Context.replayWritten, if_pos h]
  rfl

section
variable {r : Req} (hs : r.sgn = false)
include hs

theorem segServed_walks (hm : s.portMiss (.slot tid) (clusterOf (coreOf tid)) (rangeOffs r.n 128) = some o) :
    s.segServed tid t r = s.askWalk (clusterOf (coreOf tid)) o (.slot tid) := by
  simp only [State.segServed, hs, Bool.false_eq_true, if_false, withPages_asks hm]

variable (hm : s.portMiss (.slot tid) (clusterOf (coreOf tid)) (rangeOffs r.n 128) = none)
include hm

/-- A page that has no entry is cause 0x07. -/
theorem segServed_unmapped
    (hp : ∃ o, o ∈ rangeOffs r.n 128 ∧ (s.portPlaceOf (.slot tid) (clusterOf (coreOf tid)) o).1 = none) :
    s.segServed tid t r = (s.trap tid t 7 (nth r.vals 1)).dropNotes (.slot tid) := by
  have absent : ((rangeOffs r.n 128).any fun o => (s.portPlaceOf (.slot tid) (clusterOf (coreOf tid)) o).1.isNone) = true := by
    simpa using hp
  simp only [State.segServed, hs, Bool.false_eq_true, if_false, withPages_goes hm, absent, if_true]

variable (hp : ∀ o ∈ rangeOffs r.n 128, (s.portPlaceOf (.slot tid) (clusterOf (coreOf tid)) o).1 ≠ none)
include hp

/-- Uncorrectable descriptors are cause 0x08. -/
theorem segServed_bad (hb : s.portBytes (.slot tid) (coreOf tid) (clusterOf (coreOf tid)) 128 r.n = (none, s1)) :
    s.segServed tid t r = (s1.trap tid t 8 (nth r.vals 1)).dropNotes (.slot tid) := by
  have present : ((rangeOffs r.n 128).any fun o => (s.portPlaceOf (.slot tid) (clusterOf (coreOf tid)) o).1.isNone) = false := by
    simpa using hp
  simp only [State.segServed, hs, Bool.false_eq_true, if_false, withPages_goes hm, present, hb]

/-- Once the writer has read the descriptors the write is made and every core of the context reads them again (R129). -/
theorem segServed_writes {b : List Byte}
    (hb : s.portBytes (.slot tid) (coreOf tid) (clusterOf (coreOf tid)) 128 r.n = (some b, s1)) :
    let u := (s1.modCtx (cxOf (coreOf tid) t) fun k => { k with segbase := nth r.vals 0 }).setThread tid
      { t with wait := .mem { r with sgn := true } }
    u.segMisses (cxOf (coreOf tid) t) = [] → s.segServed tid t r =
      (((u.readSegs (cxOf (coreOf tid) t)).toldCores tid (cxOf (coreOf tid) t)).retire tid t).dropNotes (.slot tid) := by
  intro u hu
  have present : ((rangeOffs r.n 128).any fun o => (s.portPlaceOf (.slot tid) (clusterOf (coreOf tid)) o).1.isNone) = false := by
    simpa using hp
  simp only [State.segServed, hs, Bool.false_eq_true, if_false, withPages_goes hm, present, hb]
  rw [withSegs_reads hu]

end

/-- The reply after the write: the thread goes on when every core has read the descriptors. -/
theorem segServed_read {r : Req} (hs : r.sgn = true) (hm : s.segMisses (cxOf (coreOf tid) t) = []) :
    s.segServed tid t r = ((s.readSegs (cxOf (coreOf tid) t)).toldCores tid (cxOf (coreOf tid) t)).retire tid t := by
  simp only [State.segServed, hs, if_true, withSegs_reads hm]

/-- The write of segbase that waits for its descriptors is served by segServed. -/
theorem memoryReply_segRead {r : Req} (ht : s.thread tid = some t) (hw : t.wait = .mem r) (hk : r.kind = .segRead)
    (hh : r.held = false) : exec (.memoryReply tid) s = .next (s.segServed tid t r) := by
  rw [memoryReply_serves ht hw hh]
  simp only [State.served, hk]

end

/-- The end of a replay leaves each die's indices equal and nothing waiting (R366). -/
theorem replayEnds_log (k : Context) (die : Nat) :
    (k.replayEnds.log die).cons = (k.log die).prod ∧ (k.replayEnds.log die).prod = (k.log die).prod ∧
      (k.replayEnds.log die).dispatched = [] ∧ (k.replayEnds.log die).retired = [] := by
  unfold Context.log
  split <;> exact ⟨rfl, rfl, rfl, rfl⟩

theorem sharedRegisterWrites_hold : sharedRegisterWrites := by
  refine ⟨?writes, fun pkg other off => canonLa_packages, ?made, fun k die => ⟨rfl, replayEnds_log k die⟩, ?segRead, ?segWritten⟩
  case writes =>
    intro p q a s t v s1 h r hs x cx
    refine ⟨?_, wrsr_writes _ h hs r, wrsr_writes _ h hs r, fun legal => ?_, fun illegal => ?_, fun l s2 hx hl hr => ?_,
      fun pkg off s2 hx hl hr => ⟨fun absent => ?_, fun unknown => ?_⟩, fun outside => ?_⟩
    · rw [← wordAligned_eq]
      exact wrsr_writes _ h hs r
    · exact wrsrReplay_shared h hs r legal
    · exact wrsrReplay_refused h hs r illegal
    · exact wrsrSegbase_reads h hs r hx hl hr
    · rw [wrsrSegbase_misses h hs r hx hl hr, pageMiss_absent absent]
    · rw [wrsrSegbase_misses h hs r hx hl hr, pageMiss_walks unknown]
    · exact wrsrSegbase_outside h hs r outside
  case made =>
    intro s tid t x n ht hw cx made
    rw [memoryReply_ctxWrite ht hw rfl rfl]
    have written : n = 0x86 → s.sharedServed tid t { kind := .ctxWrite, vals := [x], n := n } = made (Context.replayWritten x) := by
      rintro rfl
      rfl
    have same : ∀ {f g : Context → Context}, f (s.ctx cx) = g (s.ctx cx) → made f = made g := fun e =>
      congrArg (fun u : State => (u.toldCores tid cx).retire tid t) (modCtx_congr e)
    refine ⟨?_, ?_, ?_, fun hn hr => ?_, fun hn hr hx => ?_⟩
    · rintro rfl
      rfl
    · rintro rfl
      rfl
    · rintro rfl
      rfl
    · rw [written hn]
      exact congrArg _ (same (replayWritten_outside hr))
    · rw [written hn, hx]
      exact congrArg _ (same (replayWritten_ends hr))
  case segRead =>
    intro s tid t x y n ht hw c cl w
    rw [memoryReply_segRead ht hw rfl rfl]
    exact ⟨fun o hm => congrArg _ (segServed_walks rfl hm), fun hm hp => congrArg _ (segServed_unmapped rfl hm hp),
      fun s1 hm hp hb => congrArg _ (segServed_bad rfl hm hp hb),
      fun s1 b hm hp hb hu => congrArg _ (segServed_writes rfl hm hp hb hu)⟩
  case segWritten =>
    intro s tid t x y n ht hw hm
    rw [memoryReply_segRead ht hw rfl rfl]
    exact congrArg _ (segServed_read rfl hm)

/-- Settles O20: the log registers at once, the shared ones with the reply that every core holds them. -/
theorem contextRegisterWrites : Obligations.ContextRegisterWrites := ⟨logRegisterWrites_hold, sharedRegisterWrites_hold⟩

end Sys2Proof.Machine
end

section
namespace Sys2Proof.Machine

/-! The words of a stream's circular buffer (R145, R214). -/

/-- Byte j of a number written least significant first. -/
theorem leNat_byte (l : List Byte) (j : Nat) : BitVec.ofNat 8 (leNat l / 256 ^ j) = l.getD j 0 := by
  induction l generalizing j with
  | nil => simp [leNat]
  | cons b r ih =>
    cases j with
    | zero =>
      apply BitVec.eq_of_toNat_eq
      have := b.isLt
      simp only [leNat, pow_zero, Nat.div_one, List.getD_cons_zero, BitVec.toNat_ofNat]
      omega
    | succ j =>
      have high : (b.toNat + 256 * leNat r) / 256 = leNat r := by
        have := b.isLt
        omega
      rw [leNat, Nat.pow_succ', ← Nat.div_div_eq_div_mul, high, ih, List.getD_cons_succ]

/-- A buffer of whole words, and an offset at one of them. -/
structure Port.At (y : Port) (off : Nat) : Prop where
  base : y.base % 8 = 0
  size : y.size % 8 = 0
  aligned : off % 8 = 0
  low : y.base ≤ off
  high : off < y.base + y.size

theorem Port.laid_iff (y : Port) : y.Laid ↔ y.At y.tail :=
  ⟨fun ⟨base, size, aligned, low, high⟩ => ⟨base, size, aligned, low, high⟩,
    fun ⟨base, size, aligned, low, high⟩ => ⟨base, size, aligned, low, high⟩⟩

/-- The offset of the word after the one at an offset, wrapping at the end of the buffer. -/
def Port.nextWord (y : Port) (off : Nat) : Nat := if off + 8 = y.base + y.size then y.base else off + 8

/-- The linear address of word i from an offset of the buffer on. -/
def Port.wordLa (c : Nat) (y : Port) (off i : Nat) : Nat := lsAddr c (y.base + (off - y.base + 8 * i) % y.size)

section
variable {c off i j : Nat} {y : Port} (h : y.At off)
include h

theorem Port.At.nextWord : y.At (y.nextWord off) := by
  obtain ⟨base, size, aligned, low, high⟩ := h
  unfold Port.nextWord
  split <;> exact ⟨base, size, by omega, by omega, by omega⟩

theorem wordLa_zero : Port.wordLa c y off 0 = lsAddr c off := by
  obtain ⟨base, size, aligned, low, high⟩ := h
  rw [Port.wordLa, Nat.mul_zero, Nat.add_zero, Nat.mod_eq_of_lt (by omega)]
  congr 1
  omega

theorem wordLa_nextWord : Port.wordLa c y (y.nextWord off) i = Port.wordLa c y off (i + 1) := by
  obtain ⟨base, size, aligned, low, high⟩ := h
  have place : y.nextWord off - y.base = (off - y.base + 8) % y.size := by
    unfold Port.nextWord
    split
    · next wraps => rw [show off - y.base + 8 = y.size by omega, Nat.mod_self, Nat.sub_self]
    · next stays => rw [Nat.mod_eq_of_lt (by omega)]; omega
  rw [Port.wordLa, Port.wordLa, place, Nat.mod_add_mod, show off - y.base + 8 + 8 * i = off - y.base + 8 * (i + 1) by omega]

theorem wordLa_aligned : Port.wordLa c y off i % 8 = 0 := by
  obtain ⟨base, size, aligned, low, high⟩ := h
  have inner : (off - y.base + 8 * i) % y.size % 8 = 0 := by
    rw [Nat.mod_mod_of_dvd _ (Nat.dvd_of_mod_eq_zero size)]
    omega
  rw [Port.wordLa, lsAddr]
  omega

/-- Different words of one buffer lie apart. -/
theorem wordLa_apart (hi : 8 * i + 8 ≤ y.size) (hj : 8 * j + 8 ≤ y.size) (hne : i ≠ j) :
    Port.wordLa c y off i + 8 ≤ Port.wordLa c y off j ∨ Port.wordLa c y off j + 8 ≤ Port.wordLa c y off i := by
  have ai := wordLa_aligned (c := c) (i := i) h
  have aj := wordLa_aligned (c := c) (i := j) h
  have differ : Port.wordLa c y off i ≠ Port.wordLa c y off j := by
    intro e
    have same : (off - y.base + 8 * i) % y.size = (off - y.base + 8 * j) % y.size := by
      rw [Port.wordLa, Port.wordLa, lsAddr, lsAddr] at e
      omega
    have cancel : 8 * i % y.size = 8 * j % y.size := Nat.ModEq.add_left_cancel' _ same
    rw [Nat.mod_eq_of_lt (by omega), Nat.mod_eq_of_lt (by omega)] at cancel
    omega
  omega

end

/-! One word of a delivery. -/

/-- What a word of a delivery does at its place: one that came good is stored and full, one that came uncorrectable is empty. -/
def State.wordEntered (s : State) (la : Nat) (bad : Bool) (l : List Byte) : State :=
  if bad then s.setFull la false else (s.store la 8 (leNat (l.take 8))).setFull la true

section
variable {s : State} {la k : Nat} {bad : Bool} {l : List Byte}

theorem wordEntered_threads : (s.wordEntered la bad l).threads = s.threads := by
  cases bad <;> rfl

theorem wordEntered_safe (hs : s.Safe) : (s.wordEntered la bad l).Safe := by
  cases bad
  · exact store_safe _ _ _ hs
  · exact hs

theorem wordEntered_full : (s.wordEntered la bad l).isFull la = !bad := by
  cases bad <;> exact isFull_setFull ..

theorem wordEntered_isFull_ne (h : k / 8 ≠ la / 8) : (s.wordEntered la bad l).isFull k = s.isFull k := by
  cases bad <;> exact (isFull_setFull_iff ..).trans (if_neg h)

theorem wordEntered_byte_ne (hs : s.Safe) (h : k < la ∨ la + 8 ≤ k) : (s.wordEntered la bad l).mem.byte k = s.mem.byte k := by
  cases bad
  · exact byte_write_ne hs h
  · rfl

theorem wordEntered_byte (hs : s.Safe) {j : Nat} (hj : j < 8) : (s.wordEntered la false l).mem.byte (la + j) = l.getD j 0 := by
  have taken : (l.take 8).getD j 0 = l.getD j 0 := by
    rw [List.getD_eq_getElem?_getD, List.getD_eq_getElem?_getD, List.getElem?_take_of_lt hj]
  change ((s.mem.write la 8 (leNat (l.take 8))).byte (la + j)) = _
  rw [byte_write _ _ _ _ hs, if_pos (by omega), Nat.add_sub_cancel_left, leNat_byte, taken]

end

/-! The words of a delivery, in their order from the tail on. -/

section
variable {c : Nat} {y : Port} {bad : NatSet}

theorem ringWords_succ (s : State) (n i off : Nat) (l : List Byte) :
    s.ringWords c y bad (n + 1) i off l =
      (s.wordEntered (lsAddr c off) (NatSet.has bad i) l).ringWords c y bad n (i + 1) (y.nextWord off) (l.drop 8) := rfl

theorem ringWords_threads (s : State) (n i off : Nat) (l : List Byte) : (s.ringWords c y bad n i off l).threads = s.threads := by
  induction n generalizing s i off l with
  | zero => rfl
  | succ n ih => rw [ringWords_succ, ih, wordEntered_threads]

/-- No byte outside the words changes. -/
theorem ringWords_byte_ne {s : State} {n i off k : Nat} {l : List Byte} (hs : s.Safe) (h : y.At off)
    (hk : ∀ j, j < n → k < Port.wordLa c y off j ∨ Port.wordLa c y off j + 8 ≤ k) :
    (s.ringWords c y bad n i off l).mem.byte k = s.mem.byte k := by
  induction n generalizing s i off l with
  | zero => rfl
  | succ n ih =>
    have first := hk 0 (Nat.succ_pos n)
    rw [wordLa_zero h] at first
    rw [ringWords_succ, ih (wordEntered_safe hs) h.nextWord fun j hj => ?_, wordEntered_byte_ne hs first]
    rw [wordLa_nextWord h]
    exact hk (j + 1) (Nat.succ_lt_succ hj)

/-- No other word's full-empty bit changes. -/
theorem ringWords_isFull_ne {s : State} {n i off k : Nat} {l : List Byte} (h : y.At off)
    (hk : ∀ j, j < n → k / 8 ≠ Port.wordLa c y off j / 8) :
    (s.ringWords c y bad n i off l).isFull k = s.isFull k := by
  induction n generalizing s i off l with
  | zero => rfl
  | succ n ih =>
    have first := hk 0 (Nat.succ_pos n)
    rw [wordLa_zero h] at first
    rw [ringWords_succ, ih h.nextWord fun j hj => ?_, wordEntered_isFull_ne first]
    rw [wordLa_nextWord h]
    exact hk (j + 1) (Nat.succ_lt_succ hj)

/-- Each word of a delivery that fits the buffer is at its place: full with its bytes, or empty and as it was. -/
theorem ringWords_word {s : State} {n i off j : Nat} {l : List Byte} (hs : s.Safe) (h : y.At off) (hn : 8 * n ≤ y.size) (hj : j < n) :
    (s.ringWords c y bad n i off l).isFull (Port.wordLa c y off j) = !NatSet.has bad (i + j) ∧
    ∀ b, b < 8 → (s.ringWords c y bad n i off l).mem.byte (Port.wordLa c y off j + b) =
      if NatSet.has bad (i + j) = true then s.mem.byte (Port.wordLa c y off j + b) else l.getD (8 * j + b) 0 := by
  induction n generalizing s i off l j with
  | zero => exact absurd hj (Nat.not_lt_zero _)
  | succ n ih =>
    have apart : ∀ m, m < n → Port.wordLa c y off 0 + 8 ≤ Port.wordLa c y (y.nextWord off) m ∨
        Port.wordLa c y (y.nextWord off) m + 8 ≤ Port.wordLa c y off 0 := by
      intro m hm
      rw [wordLa_nextWord h]
      exact wordLa_apart h (by omega) (by omega) (by omega)
    have aligned := wordLa_aligned (c := c) (i := 0) h
    rw [ringWords_succ, ← wordLa_zero (c := c) h]
    cases j with
    | zero =>
      rw [Nat.add_zero]
      refine ⟨?_, fun b hb => ?_⟩
      · rw [ringWords_isFull_ne h.nextWord fun m hm => ?_]
        · exact wordEntered_full
        · have := apart m hm
          have := wordLa_aligned (c := c) (i := m) h.nextWord
          omega
      · rw [ringWords_byte_ne (wordEntered_safe hs) h.nextWord fun m hm => ?_]
        · cases NatSet.has bad i
          · rw [wordEntered_byte hs hb, if_neg Bool.false_ne_true, Nat.mul_zero, Nat.zero_add]
          · rfl
        · have := apart m hm
          omega
    | succ j =>
      have rest := ih (s := s.wordEntered (Port.wordLa c y off 0) (NatSet.has bad i) l) (i := i + 1) (l := l.drop 8)
        (wordEntered_safe hs) h.nextWord (by omega) (Nat.lt_of_succ_lt_succ hj)
      rw [wordLa_nextWord h, show i + 1 + j = i + (j + 1) by omega] at rest
      refine ⟨rest.1, fun b hb => ?_⟩
      rw [rest.2 b hb, wordEntered_byte_ne hs]
      · rw [List.getD_eq_getElem?_getD, List.getD_eq_getElem?_getD, List.getElem?_drop,
          show 8 + (8 * j + b) = 8 * (j + 1) + b by omega]
      · have := wordLa_apart (c := c) (i := 0) (j := j + 1) h (by omega) (by omega) (by omega)
        omega

/-- A delivery that fits its buffer enters it (R214). -/
theorem ringWords_entered {s : State} {d : Delivery} (hs : s.Safe) (h : y.Laid) (hl : d.data.length ≤ y.size) :
    s.Entered (s.ringWords c y d.bad (d.data.length / 8) 0 y.tail d.data) c y d := by
  have at_ := y.laid_iff.1 h
  have count : ∀ i, 8 * i + 8 ≤ d.data.length ↔ i < d.data.length / 8 := by omega
  refine ⟨fun i hi => ?_, fun k hk => ?_, fun k hk => ?_⟩
  · obtain ⟨full, bytes⟩ := ringWords_word (c := c) (bad := d.bad) (i := 0) (l := d.data) hs at_ (by omega) ((count i).1 hi)
    rw [Nat.zero_add] at full bytes
    refine ⟨fun good => ⟨?_, fun j hj => ?_⟩, fun bad => ⟨?_, fun j hj => ?_⟩⟩
    · exact full.trans (by rw [good]; rfl)
    · exact (bytes j hj).trans (by rw [good, if_neg Bool.false_ne_true])
    · exact full.trans (by rw [bad]; rfl)
    · exact (bytes j hj).trans (by rw [bad, if_pos rfl]; rfl)
  · exact ringWords_byte_ne hs at_ fun j hj => hk j ((count j).2 hj)
  · exact ringWords_isFull_ne at_ fun j hj => hk j ((count j).2 hj)

end

/-! Deliveries (R211, R214). -/

/-- A message that is delivered leaves the network and is heard; nothing else of the state changes. -/
theorem deliver_eq {s s1 : State} {n : Nat} {m : Msg} (h : s.deliver n = some (m, s1)) : ∃ x y, s1 = { s with net := x, tsc := y } := by
  unfold State.deliver at h
  split at h
  · split at h
    · cases h
    split at h
    · cases h
    · cases h; exact ⟨_, _, rfl⟩
  · cases h

/-- A unit's event of a context that neither records nor replays happens, with no record. -/
theorem unitLogged_off {s : State} {cx die place src kind obj out : Nat} {k : State → State} (h : (s.ctx cx).replay = 0) :
    s.unitLogged cx die place src kind obj out k = k (s.unitGoes cx src obj) := by
  rw [State.unitLogged, logGate_off (h ▸ by decide) (h ▸ by decide)]

/-- A port holds the stream put there. -/
theorem port_put (s : State) (c key : Nat) (y : Port) :
    ((s.modCore c fun k => { k with ports := k.ports.put key y }).core c).ports.find? key = some y := by
  rw [core_modCore]
  exact find?_put_same ..

/-- A stream after a delivery of n bytes at its tail. -/
def Port.grown (y : Port) (n : Nat) : Port := { y with tail := y.base + (y.tail - y.base + n) % y.size, unread := y.unread + n }

/-- A state whose stream y at a port has taken a delivery in, and stands there as y'. -/
structure State.TakesIn (s s2 : State) (port : Nat) (d : Delivery) (y y' : Port) : Prop where
  threads : s2.threads = s.threads
  entered : s.mem.wf → y.Laid → d.data.length ≤ y.size → s.Entered s2 (portCore port) y d
  port : (s2.core (portCore port)).ports.find? (port % 64) = some y'

section
variable {s : State} {port : Nat} {d : Delivery} {y : Port}
  (hy : (s.core (portCore port)).ports.find? (port % 64) = some y)

section
variable (hr : (s.ctx (4 * corePkg (portCore port) + y.ctx)).replay = 0)
include hy hr

theorem enterStream_takesIn (f : Port → Port) : s.TakesIn (s.enterStream port d f) port d y (f (y.grown d.data.length)) := by
  refine ⟨?_, fun hs laid fits => ?_, ?_⟩ <;> simp only [State.enterStream, hy, unitLogged_off hr]
  · exact ringWords_threads ..
  · exact ringWords_entered (s := s.unitGoes _ _ _) hs laid fits
  · exact port_put ..

/-- Outside a replay the oldest delivery of a list enters first. -/
theorem enterFirst_takesIn {l r : List Delivery} {f : Nat → Port → Port} (hl : l = d :: r) (hf : y.fits d = true) :
    s.TakesIn (s.enterFirst port y l f) port d y (f 0 (y.grown d.data.length)) := by
  have oldest : s.nextIn port y l = some 0 := by
    rw [State.nextIn, hr]
    rfl
  rw [State.enterFirst, oldest, hl]
  simp only [List.getElem?_cons_zero, hf, if_true]
  exact enterStream_takesIn hy hr (f 0)

theorem streamDelivery_retries {r : List Delivery} (hs : y.spilled = []) (hw : y.waiting = d :: r) (hf : y.fits d = true) :
    ∃ s2, exec (.streamDelivery (2 ^ 40 + port)) s = .next s2 ∧ s.TakesIn s2 port d y { y.grown d.data.length with waiting := r } := by
  have goes : exec (.streamDelivery (2 ^ 40 + port)) s =
      .next (s.enterFirst port y y.waiting fun i p => { p with waiting := p.waiting.eraseIdx i }) := by
    rw [exec_streamDelivery, execStreamDelivery, if_pos (Nat.le_add_right ..), Nat.add_sub_cancel_left, State.retryStream, hy]
    simp only [hs, List.isEmpty_nil, Bool.true_eq_false, false_and, if_false]
  have taken := enterFirst_takesIn (f := fun i p => { p with waiting := p.waiting.eraseIdx i }) hy hr hw hf
  refine ⟨_, goes, taken.threads, taken.entered, ?_⟩
  rw [taken.port, Port.grown, hw]
  rfl

theorem overflowDeliveryReentry_enters {r : List Delivery} (hs : y.spilled = d :: r) (hf : y.fits d = true) :
    ∃ s2, exec (.overflowDeliveryReentry port) s = .next s2 ∧ s.TakesIn s2 port d y { y.grown d.data.length with spilled := r } := by
  have goes : exec (.overflowDeliveryReentry port) s =
      .next (s.enterFirst port y y.spilled fun i p => { p with spilled := p.spilled.eraseIdx i }) := by
    rw [exec_overflowDeliveryReentry, execOverflowDeliveryReentry, hy]
  have taken := enterFirst_takesIn (f := fun i p => { p with spilled := p.spilled.eraseIdx i }) hy hr hs hf
  refine ⟨_, goes, taken.threads, taken.entered, ?_⟩
  rw [taken.port, Port.grown, hs]
  rfl

end

include hy

theorem streamDeliveryTimeout_spills {r : List Delivery} (hw : y.waiting = d :: r) (ht : d.since + 2048 ≤ s.clock)
    (hf : y.fits d = false ∨ y.spilled ≠ []) (ho : s.ovfUsed (portCore port) y.ctx < s.ovfCap (portCore port) y.ctx) :
    exec (.streamDeliveryTimeout port) s = .next ((s.modCore (portCore port) fun k =>
      { k with ports := k.ports.put (port % 64) (spillDeliveries
          (s.ovfCap (portCore port) y.ctx - s.ovfUsed (portCore port) y.ctx) y) }).ovfWrite (portCore port) y.ctx
        (min (s.ovfCap (portCore port) y.ctx - s.ovfUsed (portCore port) y.ctx) y.waiting.length)) := by
  have due : d.since + 2048 ≤ s.clock ∧ (y.fits d = false ∨ y.spilled.isEmpty = false) ∧
      s.ovfUsed (portCore port) y.ctx < s.ovfCap (portCore port) y.ctx :=
    ⟨ht, hf.imp_right List.isEmpty_eq_false_iff.2, ho⟩
  rw [exec_streamDeliveryTimeout, execStreamDeliveryTimeout, hy]
  simp only [hw, if_pos due]

/-! A delivery that arrives. -/

variable {ctx : Nat}

theorem deliverTo_refused (hx : y.out = true ∨ y.ctx ≠ ctx ∨ d.data.length % 8 ≠ 0 ∨ y.size < d.data.length) :
    s.deliverTo port ctx d = s.report (portCore port) d false false := by
  have breaks : (y.out || y.ctx != ctx || d.data.length % 8 != 0 || decide (y.size < d.data.length)) = true := by
    simpa only [Bool.or_eq_true, bne_iff_ne, decide_eq_true_eq, or_assoc] using hx
  simp only [State.deliverTo, hy, breaks, if_true]

section
variable (ho : y.out = false) (hc : y.ctx = ctx) (hl : d.data.length % 8 = 0) (hn : d.data.length ≤ y.size)
  (hs : y.spilled = []) (hw : y.waiting = [])
include ho hc hl hn hs hw

/-- A delivery that keeps the rules, with nothing held before it, stands at the port first; it enters where there is room. -/
theorem deliverTo_arrives : s.deliverTo port ctx d =
    let here := s.modCore (portCore port) fun k =>
      { k with ports := k.ports.put (port % 64) { y with waiting := [{ d with since := s.clock }] } }
    if y.fits d = true then here.enterStream port { d with since := s.clock } fun p => { p with waiting := p.waiting.drop 1 }
    else here := by
  have keeps : (y.out || y.ctx != ctx || d.data.length % 8 != 0 || decide (y.size < d.data.length)) = false := by
    simp only [ho, hc, hl, Nat.not_lt.2 hn, bne_self_eq_false, decide_false, Bool.or_self]
  simp only [State.deliverTo, hy, keeps, hs, hw, List.isEmpty_nil, Bool.not_true, Bool.false_eq_true, if_false]
  rfl

theorem deliverTo_waits (hf : y.fits d = false) : s.deliverTo port ctx d = s.modCore (portCore port) fun k =>
    { k with ports := k.ports.put (port % 64) { y with waiting := [{ d with since := s.clock }] } } := by
  rw [deliverTo_arrives hy ho hc hl hn hs hw]
  simp only [hf, Bool.false_eq_true, if_false]

theorem deliverTo_enters (hf : y.fits d = true) (hr : (s.ctx (4 * corePkg (portCore port) + ctx)).replay = 0) :
    s.TakesIn (s.deliverTo port ctx d) port d y (y.grown d.data.length) := by
  have taken := enterStream_takesIn (port := port) (d := { d with since := s.clock }) (y := { y with waiting := [{ d with since := s.clock }] })
    (s := s.modCore (portCore port) fun k =>
      { k with ports := k.ports.put (port % 64) { y with waiting := [{ d with since := s.clock }] } })
    (port_put ..)
    (by rw [← hr, ← hc]; rfl) fun p => { p with waiting := p.waiting.drop 1 }
  rw [deliverTo_arrives hy ho hc hl hn hs hw]
  simp only [hf, if_true]
  refine ⟨taken.threads, taken.entered, ?_⟩
  rw [taken.port, Port.grown, Port.grown, ← hw]
  rfl

end

end

theorem streamDelivery_delivers {s s1 : State} {n port ctx : Nat} {m : Msg} {d : Delivery} (hn : n < 2 ^ 40)
    (hd : s.deliver n = some (m, s1)) (hm : m.body = .delivery port ctx d) :
    exec (.streamDelivery n) s = .next (s1.deliverTo port ctx d) := by
  rw [exec_streamDelivery, execStreamDelivery, if_neg (Nat.not_le.2 hn), hd]
  simp only [hm]

theorem deliverTo_unbound {s : State} {port ctx : Nat} {d : Delivery}
    (h : (s.core (portCore port)).ports.find? (port % 64) = none) :
    s.deliverTo port ctx d = s.report (portCore port) d false false := by
  simp only [State.deliverTo, h]

theorem fits_iff {y : Port} {d : Delivery} : y.fits d = true ↔ d.data.length ≤ y.size - y.unread := decide_eq_true_iff

/-- A legal descriptor binds a buffer of whole words (R209, R211). -/
theorem bound_laid {c ctx : Nat} {l : List Byte} (h : streamLegal c l = true) : (Port.bound ctx l).Laid := by
  simp only [streamLegal, Bool.and_eq_true, beq_iff_eq, decide_eq_true_eq] at h
  obtain ⟨⟨⟨⟨-, base⟩, size⟩, room⟩, -⟩ := h
  exact ⟨base, size, base, Nat.le_refl _, by simp only [Port.bound]; omega⟩

theorem grown_laid {y : Port} {n : Nat} (h : y.Laid) (hn : n % 8 = 0) :
    ({ y with tail := y.base + (y.tail - y.base + n) % y.size } : Port).Laid := by
  obtain ⟨base, size, aligned, low, high⟩ := h
  have inner : (y.tail - y.base + n) % y.size % 8 = 0 := by
    rw [Nat.mod_mod_of_dvd _ (Nat.dvd_of_mod_eq_zero size)]
    omega
  have inside : (y.tail - y.base + n) % y.size < y.size := Nat.mod_lt _ (by omega)
  exact ⟨base, size, by dsimp only; omega, Nat.le_add_right .., Nat.add_lt_add_left inside _⟩

/-! Reading a port moves no turn. -/

theorem portRead_cur (s : State) (tid : Nat) (code : BitVec 4) : (s.portRead tid code).2.cur = s.cur := by
  simp only [State.portRead]
  split
  · rfl
  · split
    · simp only [modCore_cur]
      split <;> rfl
    · rfl

theorem readReg_cur (s : State) (tid : Nat) (t : Thread) (code : BitVec 4) : (s.readReg tid t code).2.cur = s.cur := by
  unfold State.readReg
  split
  · rfl
  · exact portRead_cur ..

theorem readRegs_cur (s : State) (tid : Nat) (t : Thread) (l : List (BitVec 4)) : (s.readRegs tid t l).2.cur = s.cur := by
  induction l generalizing s with
  | nil => rfl
  | cons c r ih => exact (ih _).trans (readReg_cur ..)

theorem reads_cur {s s1 : State} {t : Thread} {srcs dsts : List (BitVec 4)} {v : List Word} (r : s.Reads t srcs dsts v s1) :
    s1.cur = s.cur := by
  obtain ⟨-, -, -, -, -, read⟩ := r
  exact (congrArg (fun e => e.2.cur) read).symm.trans (readRegs_cur ..)

/-! sbind, sfree and xstat (R209 to R212). -/

section
variable {p : BitVec 3} {q : BitVec 1} {d a : BitVec 4} {x : BitVec 2} {s s1 : State} {t : Thread} {v : List Word} {la : Nat}
  (h : s.Issues p q 4 t)
include h

/-- Slot 15 binds no stream (R210). -/
theorem sbind_comm (hc : slotOf s.cur = 15) (r : s.Reads t [a] [] v s1) :
    exec (.sbind p q x a) s = .next (s.trap s.cur t 1 ((wordOf (.sbind p q x a)).setWidth 64)) := by
  rw [exec_sbind, execSbind, act_runs h r]
  simp only [if_pos hc]
  rfl

theorem sfree_comm (hc : slotOf s.cur = 15) :
    exec (.sfree p q x) s = .next (s.trap s.cur t 1 ((wordOf (.sfree p q x)).setWidth 64)) := by
  rw [exec_sfree, execSfree, frame_runs h, if_pos hc]
  rfl

theorem xstat_waits (r : s.Reads t [] [d] [] s) (hn : s.seqNamesPort s.cur t x.toNat = true) :
    exec (.xstat p q d x) s = .next (s.wait s.cur t .sync) := by
  rw [exec_xstat, execXstat, act_runs h r, if_pos hn]

theorem xstat_reads (r : s.Reads t [] [d] [] s) (hn : s.seqNamesPort s.cur t x.toNat = false)
    (hw : State.writeRefused s.cur d (BitVec.ofNat 64 (s.portStatus s.cur x.toNat)) = false) :
    exec (.xstat p q d x) s = .next (s.result s.cur t d (BitVec.ofNat 64 (s.portStatus s.cur x.toNat))) := by
  rw [exec_xstat, execXstat, act_runs h r]
  simp only [hn, Bool.false_eq_true, if_false, finish_accepted hw]

variable (hc : slotOf s.cur ≠ 15)
include hc

theorem sbind_waits (r : s.Reads t [a] [] v s) (hn : s.seqNamesPort s.cur t x.toNat = true) :
    exec (.sbind p q x a) s = .next (s.wait s.cur t .sync) := by
  rw [exec_sbind, execSbind, act_runs h r]
  simp only [if_neg hc, if_pos hn]

theorem sbind_binds (r : s.Reads t [a] [] v s1) (hn : s1.seqNamesPort s.cur t x.toNat = false) (hx : t.relaxed = [])
    (hk : s1.check (coreOf s.cur) t.ctx (nth v 0) 16 segR 1 = .ok la) (hr : laRegion la = 1) (ho : laCore la = coreOf s.cur)
    (hb : s1.isBad la 16 = false) (hl : streamLegal (coreOf s.cur) (s1.mem.bytes la 16) = true) :
    exec (.sbind p q x a) s = .next ((((s1.freePort (coreOf s.cur) (4 * slotOf s.cur + x.toNat)).modCore (coreOf s.cur) fun k =>
      { k with ports := k.ports.put (4 * slotOf s.cur + x.toNat) (Port.bound t.ctx (s1.mem.bytes la 16)) }).setFullN
        (lsAddr (coreOf s.cur) (Port.bound t.ctx (s1.mem.bytes la 16)).base) false
        ((Port.bound t.ctx (s1.mem.bytes la 16)).size / 8)).retire s.cur t) := by
  rw [exec_sbind, execSbind, act_runs h r]
  simp only [if_neg hc, hn, hk, hr, ho, hb, hl, drained_none hx, ne_eq, not_true_eq_false, or_self, Bool.not_true, Bool.false_eq_true,
    if_false]

theorem sfree_waits (hn : s.seqNamesPort s.cur t x.toNat = true) : exec (.sfree p q x) s = .next (s.wait s.cur t .sync) := by
  rw [exec_sfree, execSfree, frame_runs h, if_neg hc, if_pos hn]

theorem sfree_frees (hn : s.seqNamesPort s.cur t x.toNat = false) (hx : t.relaxed = []) :
    exec (.sfree p q x) s = .next ((s.freePort (coreOf s.cur) (4 * slotOf s.cur + x.toNat)).retire s.cur t) := by
  rw [exec_sfree, execSfree, frame_runs h]
  simp only [if_neg hc, hn, Bool.false_eq_true, if_false, drained_none hx]

omit h in
/-- Only slot 15's port x1 refuses a value (R413). -/
theorem writeRefused_stream {d : BitVec 4} {w : Word} : State.writeRefused s.cur d w = false := by
  simp only [State.writeRefused, beq_eq_false_iff_ne.2 hc, Bool.false_and]

end

section
variable {s : State} {tid x : Nat} {y : Port}

theorem portStatus_comm (hc : slotOf tid = 15) : s.portStatus tid x = 2 ^ 32 + x % 2 * 2 ^ 34 +
    if x % 2 = 1 then 64 - ((s.core (coreOf tid)).xq.at [] x).length else min 64 ((s.core (coreOf tid)).xq.at [] x).length := if_pos hc

variable (hc : slotOf tid ≠ 15)
include hc

theorem portStatus_unbound (h : (s.core (coreOf tid)).ports.find? (4 * slotOf tid + x) = none) : s.portStatus tid x = 0 := by
  simp only [State.portStatus, if_neg hc, h]

theorem portStatus_bound (h : (s.core (coreOf tid)).ports.find? (4 * slotOf tid + x) = some y) :
    s.portStatus tid x = y.ovf.toNat * 2 ^ 35 + y.out.toNat * 2 ^ 34 + 2 ^ 33 +
      s.portCount (coreOf tid) y (!y.out) (y.size / y.ew - (if y.out then y.tail else y.head) % 8 / y.ew)
        (if y.out then y.tail else y.head) := by
  simp only [State.portStatus, if_neg hc, h]

end

section
variable {s : State} {c key : Nat} {y : Port}

theorem freePort_unbound (h : (s.core c).ports.find? key = none) : s.freePort c key = s := by
  simp only [State.freePort, h]

theorem freePort_bound (h : (s.core c).ports.find? key = some y) : s.freePort c key =
    (y.spilled ++ y.waiting).foldl (fun s d => s.report c d false false) (s.modCore c fun k => { k with ports := k.ports.del key }) := by
  simp only [State.freePort, h]

end

/-! Binding slots 14 and 15 (R198, R217). -/

section
variable {s : State} {core x slot : Nat} {entry : Context → Word} (hl : slot < 16) (ho : s.ownerOf core slot = some x)
  (ht : s.thread (16 * core + slot) = none) (hr : s.running (4 * corePkg core + x) = true) (hd : (s.core core).disabled = false)
  (hv : (s.ctx (4 * corePkg core + x)).saved.find? (16 * core + slot) = none) (hx : (s.ctx (4 * corePkg core + x)).trace = 0)
include hl ho ht hr hd hv hx

theorem bindService_seats (he : entry (s.ctx (4 * corePkg core + x)) ≠ 0) : s.bindService (16 * core + slot) entry =
    some (s.seat (16 * core + slot) (Thread.fresh (entry (s.ctx (4 * corePkg core + x))) x)) := by
  have isCore : coreOf (16 * core + slot) = core := by rw [coreOf]; omega
  have isSlot : slotOf (16 * core + slot) = slot := by rw [slotOf]; omega
  have untraced : (s.ctx (4 * corePkg core + x)).trace.getLsbD 2 = false := by
    rw [hx]
    rfl
  simp only [State.bindService, isCore, isSlot, ho, ht, hr, hd, hv, traceBind_off untraced, beq_eq_false_iff_ne.2 he, Option.isSome_none,
    Bool.not_true, Bool.or_self, Bool.false_eq_true, if_false, Option.map_some]

theorem transformThreadBind_seats (hs : slot = 14) (hq : (s.core core).xform ≠ [])
    (he : (s.ctx (4 * corePkg core + x)).xfrmpc ≠ 0) : exec (.transformThreadBind core) s =
      .next ((s.seat (16 * core + slot) (Thread.fresh (s.ctx (4 * corePkg core + x)).xfrmpc x)).modCore core fun k =>
        { k with xholds := false }) := by
  have seats := bindService_seats (entry := (·.xfrmpc)) hl ho ht hr hd hv hx he
  rw [hs] at seats ⊢
  rw [exec_transformThreadBind, execTransformThreadBind, seats]
  simp only [List.isEmpty_eq_false_iff.2 hq, Bool.false_eq_true, if_false]

theorem commThreadBind_seats (hs : slot = 15) (hq : (s.core core).xq.at [] 0 ≠ [])
    (he : (s.ctx (4 * corePkg core + x)).commpc ≠ 0) : exec (.commThreadBind core) s =
      .next (s.seat (16 * core + slot) (Thread.fresh (s.ctx (4 * corePkg core + x)).commpc x)) := by
  have seats := bindService_seats (entry := (·.commpc)) hl ho ht hr hd hv hx he
  rw [hs] at seats ⊢
  rw [exec_commThreadBind, execCommThreadBind, seats]
  simp only [List.isEmpty_eq_false_iff.2 hq, Bool.false_eq_true, false_and, if_false, Option.getD_some]

end

/-- Settles O49: the ports of a core, and what is delivered to them. -/
theorem streams : Obligations.Streams := by
  refine ⟨?instructions, fun s c key y => ⟨freePort_unbound, freePort_bound⟩, ?arrives, ?held,
    fun c ctx l y n => ⟨bound_laid, grown_laid⟩, ?binds⟩
  case instructions =>
    intro p q d a x s s1 t v la h c key free
    refine ⟨fun hc r hn hx hk hr ho hb hl => ?_, sfree_frees h,
      sfree_comm h, sbind_comm h, fun hc hn => ⟨sfree_waits h hc hn, fun r => sbind_waits h hc r hn, fun r => xstat_waits h r hn⟩,
      fun r hn hc => ?_, fun r hn hc hp => ?_, fun y r hn hc hp => ?_⟩
    · refine sbind_binds h hc r ?_ hx hk hr ho hb hl
      rw [← reads_cur r]
      exact hn
    · intro n w hw
      rw [xstat_reads h r hn (by rw [portStatus_comm hc]; exact hw), portStatus_comm hc]
    · rw [xstat_reads h r hn (writeRefused_stream hc), portStatus_unbound hc hp]
      rfl
    · rw [xstat_reads h r hn (writeRefused_stream hc), portStatus_bound hc hp]
  case arrives =>
    intro s s1 n m port ctx d y hn hd hm
    rw [streamDelivery_delivers hn hd hm]
    obtain ⟨net, tsc, gone⟩ := deliver_eq hd
    have cores : s1.core = s.core := by rw [gone]; rfl
    have ctxs : s1.ctx = s.ctx := by rw [gone]; rfl
    have clock : s1.clock = s.clock := by rw [gone]
    rw [← cores, ← ctxs, ← clock]
    refine ⟨fun hy => congrArg _ (deliverTo_unbound hy), fun hy hx => congrArg _ (deliverTo_refused hy hx),
      fun hy ho hc hl full hs hp hw => congrArg _ (deliverTo_waits hy ho hc hl hs hp hw ?_),
      fun hy ho hc hl room hp hw hr => ⟨_, rfl, ?_⟩⟩
    · rw [← Bool.not_eq_true, fits_iff]
      exact Nat.not_le.2 full
    · have small := room.trans (Nat.sub_le ..)
      obtain ⟨threads, entered, there⟩ := deliverTo_enters hy ho hc hl small hp hw (fits_iff.2 room) hr
      refine ⟨threads.trans (by rw [gone]), fun hs laid => ?_, there⟩
      rw [gone] at entered ⊢
      exact entered hs laid small
  case held =>
    intro s port d r y hy c
    refine ⟨fun hw ht hf ho => streamDeliveryTimeout_spills hy hw ht hf ho, fun hs hw hf hr => ?_, fun hs hf hr => ?_⟩
    · obtain ⟨s2, runs, threads, entered, there⟩ := streamDelivery_retries hy hr hs hw hf
      exact ⟨s2, runs, threads, entered, there⟩
    · obtain ⟨s2, runs, threads, entered, there⟩ := overflowDeliveryReentry_enters hy hr hs hf
      exact ⟨s2, runs, threads, entered, there⟩
  case binds =>
    intro s core x slot tid k hl ho ht hr hd hv hx
    exact ⟨transformThreadBind_seats hl ho ht hr hd hv hx, commThreadBind_seats hl ho ht hr hd hv hx⟩

end Sys2Proof.Machine
end

section
namespace Sys2Proof.Machine

/-! Creating and ending threads, with their join counters (R167, R170, R171, R184). -/

/-- The doublewords of a record, in their order, hold its bytes (R22). -/
theorem flatMap_words {n : Nat} {l : List Byte} (h : l.length = 8 * n) :
    ((List.range n).map fun i => BitVec.ofNat 64 (field l (8 * i) 8)).flatMap (fun v => leBytes 8 v.toNat) = l := by
  induction n generalizing l with
  | zero => simpa using (List.length_eq_zero_iff.1 h).symm
  | succ n ih =>
    have eight : (l.take 8).length = 8 := by rw [List.length_take]; omega
    have small : leNat (l.take 8) < 2 ^ 64 := by simpa [eight] using leNat_lt (l.take 8)
    have first : leBytes 8 (BitVec.ofNat 64 (field l 0 8)).toNat = l.take 8 := by
      rw [field, List.drop_zero, BitVec.toNat_ofNat, Nat.mod_eq_of_lt small]
      simpa [eight] using leBytes_leNat (l.take 8)
    have next (i : Nat) : field l (8 * (i + 1)) 8 = field (l.drop 8) (8 * i) 8 := by
      rw [field, field, List.drop_drop, Nat.mul_succ, Nat.add_comm]
    have rest := ih (l := l.drop 8) (by rw [List.length_drop, h]; omega)
    rw [List.range_succ_eq_map, List.map_cons, List.flatMap_cons, List.map_map, Nat.mul_zero, first]
    simp only [Function.comp_def, Nat.succ_eq_add_one, next, rest, List.take_append_drop]

/-! spawn (R167). -/

section
variable {p : BitVec 3} {q : BitVec 1} {d a b : BitVec 4} {s s1 : State} {t : Thread} {v : List Word} {la lc : Nat}
  (h : s.Issues p q 4 t) (r : s.Reads t [a, b, d] [] v s1) (hx : t.relaxed = [])
  (hk : s1.check (coreOf s.cur) t.ctx (nth v 0) 64 segR 64 = .ok la) (he : (nth v 1).toNat % 4 = 0)
include h r hx hk he

theorem spawn_counterOutside (hd : d ≠ 10) (hj : s1.check (coreOf s.cur) t.ctx (nth v 2) 8 (segR ||| segW) 8 = .ok lc)
    (hl : laRegion lc ≠ 1) : exec (.spawn p q d a b) s = .next (s.trap s.cur t 0x0C (nth v 2)) := by
  rw [exec_spawn, execSpawn, act_runs h r]
  simp only [drained_none hx, hk, he, if_neg hd, hj, Except.map, Option.map_some, Option.getD_some, ne_eq, not_true_eq_false,
    if_false, hl, not_false_eq_true, if_true]

theorem spawn_counterBad (hd : d ≠ 10) (hj : s1.check (coreOf s.cur) t.ctx (nth v 2) 8 (segR ||| segW) 8 = .ok lc)
    (hl : laRegion lc = 1) (hb : s1.isBad lc 8 = true) :
    exec (.spawn p q d a b) s = .next (s.trap s.cur t 8 (nth v 2)) := by
  rw [exec_spawn, execSpawn, act_runs h r]
  simp only [drained_none hx, hk, he, if_neg hd, hj, Except.map, Option.map_some, Option.getD_some, ne_eq, not_true_eq_false,
    if_false, hl, hb, if_true]

variable (hr : laRegion la = 1) (hc : laCore la = coreOf s.cur) (hg : s1.isBad la 64 = false)
include hr hc hg

/-- A packet of the executing core's local store is read at once. -/
theorem spawn_uncounted (hd : d = 10) : exec (.spawn p q d a b) s =
    .next (s.spawnGo s1 s.cur t (wordOf (.spawn p q d a b)) (s1.mem.bytes la 64) (nth v 0) (nth v 1) none) := by
  rw [exec_spawn, execSpawn, act_runs h r]
  simp only [drained_none hx, hk, he, if_pos hd, canonLa_local hr, hr, hc, hg, ne_eq, not_true_eq_false, if_false, Option.map_none,
    Option.getD_none, and_self, if_true, Bool.false_eq_true]
  rfl

theorem spawn_counted (hd : d ≠ 10) (hj : s1.check (coreOf s.cur) t.ctx (nth v 2) 8 (segR ||| segW) 8 = .ok lc)
    (hl : laRegion lc = 1) (hb : s1.isBad lc 8 = false) : exec (.spawn p q d a b) s =
      .next (s.spawnGo s1 s.cur t (wordOf (.spawn p q d a b)) (s1.mem.bytes la 64) (nth v 0) (nth v 1) (some lc)) := by
  rw [exec_spawn, execSpawn, act_runs h r]
  simp only [drained_none hx, hk, he, if_neg hd, hj, hl, hb, canonLa_local hr, hr, hc, hg, ne_eq, not_true_eq_false, if_false,
    Except.map, Option.map_some, Option.getD_some, and_self, if_true, Bool.false_eq_true]
  rfl

end

section
variable {s0 s : State} {tid : Nat} {t : Thread} {word : Word32} {packet : List Byte} {pk e : Word}
  (hf : workLegal packet = true)
include hf

theorem spawnGo_full {lc : Option Nat} (hp : s.childPlace (coreOf tid) t.ctx = none) :
    s0.spawnGo s tid t word packet pk e lc = s0.trap tid t 0x0D pk := by
  simp only [State.spawnGo, hf, hp, Bool.not_true, Bool.false_eq_true, if_false]

theorem spawnGo_pushes {ovf : Bool} (hp : s.childPlace (coreOf tid) t.ctx = some ovf) :
    s0.spawnGo s tid t word packet pk e none =
      (s.pushChild (coreOf tid) { packet := packet, pc := e, join := none, sup := t.sup, ctx := t.ctx } ovf).retire tid t := by
  simp only [State.spawnGo, hf, hp, Bool.not_true, Bool.false_eq_true, if_false, Option.map_none]

theorem spawnGo_reserves {ovf : Bool} {lc : Nat} (hp : s.childPlace (coreOf tid) t.ctx = some ovf) :
    s0.spawnGo s tid t word packet pk e (some lc) =
      ((s.reservePlace (coreOf tid) t.ctx ovf true).send (coreOf tid) (laCore lc) 1 (.counter lc true (some tid))).wait tid t
        (.mem { kind := .spawnAck, locs := [.loc lc], sgn := ovf,
                vals := e :: (List.range 8).map fun i => BitVec.ofNat 64 (field packet (8 * i) 8) }) := by
  simp only [State.spawnGo, hf, hp, Bool.not_true, Bool.false_eq_true, if_false]

end

/-- The acknowledgement of the increment (R167): until it comes the thread waits on. -/
theorem spawnAcked_waits {s : State} {tid : Nat} {t : Thread} {r : Req} (hn : r.n = 0) : s.spawnAcked tid t r = s := if_pos hn

theorem spawnAcked_pushes {s : State} {tid lc : Nat} {t : Thread} {r : Req} {e : Word} {packet : List Byte} (hn : r.n ≠ 0)
    (hl : r.locs = [.loc lc]) (hp : packet.length = 64)
    (hv : r.vals = e :: (List.range 8).map fun i => BitVec.ofNat 64 (field packet (8 * i) 8)) :
    s.spawnAcked tid t r = ((s.reservePlace (coreOf tid) t.ctx r.sgn false).pushChild (coreOf tid)
      { packet := packet, pc := e, join := some (BitVec.ofNat 44 lc), sup := t.sup, ctx := t.ctx } r.sgn).retire tid t := by
  simp only [State.spawnAcked, if_neg hn, hl, hv, List.tail_cons, flatMap_words (n := 8) hp]
  rfl

/-! The places of a core's deque and of its overflow queues (R167). -/

theorem reservePlace_counts (s : State) (c ctx : Nat) (ovf : Bool) :
    ((s.reservePlace c ctx ovf true).core c).dequeRes.at 0 ctx = (s.core c).dequeRes.at 0 ctx + (if ovf then 0 else 1) ∧
    ((s.reservePlace c ctx ovf true).core c).overflowRes.at 0 ctx = (s.core c).overflowRes.at 0 ctx + (if ovf then 1 else 0) := by
  rw [State.reservePlace, core_modCore]
  cases ovf <;> simp

@[simp] theorem portPlaceOf_cores (s : State) (who : Waiter) (cl off : Nat) : (s.portPlaceOf who cl off).2.cores = s.cores := by
  unfold State.portPlaceOf
  split
  · rfl
  · split
    · rfl
    · split <;> rfl

@[simp] theorem heardAt_cores (s : State) (c : Nat) (l : Loc) : (s.heardAt c l).cores = s.cores := by
  obtain ⟨x, e⟩ := heardAt_tsc s c l
  rw [e]

/-- An entry of an overflow queue's ring is bytes of HBM: no core changes. -/
@[simp] theorem ovfEntry_cores (s : State) (c ctx i off : Nat) : (s.ovfEntry c ctx i off).cores = s.cores := by
  have placed := portPlaceOf_cores s (.ring c ctx i) (clusterOf c) off
  unfold State.ovfEntry
  split <;> rename_i e <;> rw [e] at placed
  · rw [storeBytes_cores, heardAt_cores]
    exact placed
  · exact placed

/-- Writing entries to the ring counts them, and leaves the core's work as it is. -/
theorem ovfWrite_work (s : State) (c ctx n : Nat) :
    ((s.ovfWrite c ctx n).core c).overflow = (s.core c).overflow ∧ ((s.ovfWrite c ctx n).core c).deque = (s.core c).deque := by
  induction n generalizing s with
  | zero => exact ⟨rfl, rfl⟩
  | succ n ih =>
    unfold State.ovfWrite
    split
    · exact ⟨rfl, rfl⟩
    · rename_i r _
      refine ⟨(ih _).1.trans ?_, (ih _).2.trans ?_⟩ <;>
      · rw [core_modCore]
        split
        · rfl
        · rw [State.core, ovfEntry_cores]; rfl

theorem pushChild_deque (s : State) (c : Nat) (k : Child) : ((s.pushChild c k false).core c).deque = (s.core c).deque ++ [k] := by
  simp [State.pushChild]

theorem pushChild_overflow (s : State) (c : Nat) (k : Child) :
    ((s.pushChild c k true).core c).deque = (s.core c).deque ∧
    ((s.pushChild c k true).core c).overflow.at [] k.ctx = (s.core c).overflow.at [] k.ctx ++ [.child k] := by
  simp only [State.pushChild, if_true]
  rw [(ovfWrite_work _ c k.ctx 1).1, (ovfWrite_work _ c k.ctx 1).2, core_modCore]
  exact ⟨rfl, at_put_same ..⟩

/-! exit (R170), and the counter's messages (R171). -/

section
variable {p : BitVec 3} {q : BitVec 1} {s s2 : State} {t : Thread} (h : s.Issues p q 4 t)
include h

theorem exit_open (ho : t.seq.isOpen = true) :
    exec (.exit p q) s = .next (s.trap s.cur t 1 ((wordOf (.exit p q)).setWidth 64)) := by
  rw [exec_exit, execExit, frame_runs h, if_pos ho]
  rfl

variable (ho : t.seq.isOpen = false) (hx : t.relaxed = [])
include ho hx

theorem exit_waits (he : t.seq.ents ≠ []) (hf : t.seq.frozen = false) :
    exec (.exit p q) s = .next (s.wait s.cur t (.held .vwait)) := by
  rw [exec_exit, execExit, frame_runs h]
  simp [ho, drained_none hx, he, hf]

variable (he : t.seq.frozen = true ∨ t.seq.ents = [])
  (ht : s.traceSoft (cxOf (coreOf s.cur) t) (coreDie (coreOf s.cur)) 2
    { ts := s.time (coreOf s.cur), src := srcOf s.cur, kind := 0x83, seq := 0, obj := 0, pc := t.pc.toNat % 2 ^ 32, out := 1 } = some s2)
include he

theorem exit_ends : exec (.exit p q) s = .next (s.exitNow s s.cur t) := by
  rw [exec_exit, execExit, frame_runs h]
  rcases he with e | e <;> simp [ho, drained_none hx, e]

include ht

theorem exit_uncounted (hj : t.join = none) : exec (.exit p q) s = .next (s2.vacate s.cur) := by
  rw [exit_ends h ho hx he, State.exitNow]
  simp only [ht, hj]

theorem exit_counted {j : BitVec 44} (hj : t.join = some j) : exec (.exit p q) s =
    .next ((s2.send (coreOf s.cur) (laCore (2 ^ 56 + j.toNat)) 1 (.counter (2 ^ 56 + j.toNat) false none)).vacate s.cur) := by
  rw [exit_ends h ho hx he, State.exitNow]
  simp only [ht, hj]

end

theorem counterMessage_counts {s s1 : State} {n la : Nat} {m : Msg} {up : Bool} {who : Option Nat} (hd : s.deliver n = some (m, s1))
    (hm : m.body = .counter la up who) : exec (.counterMessage n) s =
      .next ((s1.store la 8 ((s1.mem.read la 8 + (if up then 1 else 2 ^ 64 - 1)) % 2 ^ 64)).answer m.dst who .spawnAck 1) := by
  rw [exec_counterMessage, execCounterMessage, hd]
  simp only [hm, State.count]

/-- Settles O37: the child's place, its counter's message and the acknowledgement, one after the other. -/
theorem spawnAndExit : Obligations.SpawnAndExit := by
  refine ⟨?spawn, ?acknowledged, reservePlace_counts, fun s c k => ⟨pushChild_deque s c k, (pushChild_overflow s c k).1,
    (pushChild_overflow s c k).2, fun hroom => if_pos hroom⟩, fun p q s t h => ⟨exit_open h, exit_waits h⟩, ?ends,
    fun s s1 n m la up who => counterMessage_counts⟩
  case spawn =>
    intro p q d a b s s1 t v la h r hx c child hk hr hc he hg hf
    have uncounted := spawn_uncounted h r hx hk he hr hc hg
    refine ⟨fun ovf hp hd => ?_, fun ovf lc hp hd hj hl hb => ?_, fun lc hd hj =>
      ⟨spawn_counterOutside h r hx hk he hd hj, spawn_counterBad h r hx hk he hd hj⟩, fun hp hd => ?_⟩
    · rw [uncounted hd, spawnGo_pushes hf hp]
    · rw [spawn_counted h r hx hk he hr hc hg hd hj hl hb, spawnGo_reserves hf hp]
    · rw [uncounted hd, spawnGo_full hf hp]
  case acknowledged =>
    intro s tid lc t r e packet ht hw hk hh hl hp hv
    have served : exec (.memoryReply tid) s = .next (s.spawnAcked tid t r) := by
      rw [memoryReply_serves ht hw hh, State.served, hk]
    exact ⟨fun hn => served.trans (congrArg _ (spawnAcked_waits hn)),
      fun hn => served.trans (congrArg _ (spawnAcked_pushes hn hl hp hv))⟩
  case ends =>
    intro p q s s2 t h ho he hx c ht
    exact ⟨exit_uncounted h ho hx he ht, fun j => exit_counted h ho hx he ht⟩

end Sys2Proof.Machine
end

section
namespace Sys2Proof.Machine

/-! Messages and wakes (R173, R176 to R179). -/

/-- Setting an entry twice leaves the second value. -/
theorem put_put {α : Type} (m : NatMap α) (i : Nat) (a b : α) : (m.put i a).put i b = m.put i b := by
  induction m with
  | nil => simp [NatMap.put]
  | cons e r ih =>
    obtain ⟨k, v⟩ := e
    simp only [NatMap.put]
    split
    · simp [NatMap.put]
    split
    · simp [NatMap.put]
    · rename_i hlt hne
      simp only [NatMap.put, if_neg hlt, if_neg hne, ih]

theorem setThread_setThread (s : State) (tid : Nat) (t u : Thread) : (s.setThread tid t).setThread tid u = s.setThread tid u := by
  simp only [State.setThread, put_put]

/-- A thread that waits goes on as it would have gone on at once. -/
theorem retire_waiting (s : State) (tid : Nat) (t : Thread) (w : Wait) : s.retire tid (t.waiting w) = s.retire tid t := rfl

/-! A thread that waits with a request, as a trap or an answer finds it. -/

section
variable (s : State) (tid : Nat) (x : Thread)

theorem traceSoft_setThread (cx die bit : Nat) (r : Rec) :
    (s.setThread tid x).traceSoft cx die bit r = (s.traceSoft cx die bit r).map (·.setThread tid x) := by
  have ctx : (s.setThread tid x).ctx cx = s.ctx cx := rfl
  simp only [State.traceSoft, ctx]
  split
  · rfl
  split
  · rfl
  split <;> rfl

theorem traceHard_setThread (cx die : Nat) (r : Rec) : (s.setThread tid x).traceHard cx die r = (s.traceHard cx die r).setThread tid x := by
  have ctx : (s.setThread tid x).ctx cx = s.ctx cx := rfl
  simp only [State.traceHard, ctx]
  split <;> rfl

theorem stopThread_setThread (t : Thread) (detail : Nat) : (s.setThread tid x).stopThread tid t detail = s.stopThread tid t detail := by
  simp only [State.stopThread, setThread_setThread]
  rfl

/-- A trap leaves nothing of the thread as the slot held it. -/
theorem trapAt_setThread (t : Thread) (epc : Word) (e : Trap) : (s.setThread tid x).trapAt tid t epc e = s.trapAt tid t epc e := by
  have time : (s.setThread tid x).time (coreOf tid) = s.time (coreOf tid) := rfl
  simp only [State.trapAt, stopThread_setThread, traceSoft_setThread, time]
  split
  · rfl
  · cases s.traceSoft (cxOf (coreOf tid) t) (coreDie (coreOf tid)) 1
        { ts := s.time (coreOf tid), src := srcOf tid, kind := 0x82, seq := 0, obj := e.ebad.toNat, pc := epc.toNat % 2 ^ 32, out := e.cause }
    · simp only [Option.map_none, setThread_setThread]
    · simp only [Option.map_some, setThread_setThread]
      rfl

end

section
variable {s s1 : State} {n tid : Nat} {t : Thread} {r : Req} {m : Msg}

/-- A request that names no place is held by no plane of the fabric for longer than its reply (R401). -/
theorem memoryReply_placeless (ht : s.thread tid = some t) (hw : t.wait = .mem r) (hl : r.locs = []) (hh : r.held = true) :
    let r' := { r with held := false }
    let t' := { t with wait := .mem r' }
    exec (.memoryReply tid) s = .next ((s.setThread tid t').served tid t' r') := by
  rw [exec_memoryReply, execMemoryReply]
  simp only [ht, hw, hh, hl, List.any_nil, Bool.true_eq_false, Bool.false_eq_true, if_false]

/-- The answer to a sender reaches it while it waits for it. -/
theorem answer_reaches {from_ code : Nat} {kind : ReqKind} (ht : s.thread tid = some t) (hw : t.wait = .mem r) (hk : r.kind = kind)
    (hn : r.n = 0) : s.answer from_ (some tid) kind code =
      (s.hear (coreOf tid) (s.time from_)).setThread tid { t with wait := .mem { r with n := code } } := by
  simp only [State.answer, ht, hw, hk, hn, and_self, if_true]

/-- The newest message is delivered where no earlier one shares its source, destination and channel and the fabric carries it. -/
theorem deliver_newest {l : List Msg} (hn : s.net = l ++ [m]) (ho : m.out = true)
    (hf : ∀ e ∈ l, ¬ (e.src = m.src ∧ e.dst = m.dst ∧ e.chan = m.chan)) :
    s.deliver l.length = some (m, ({ s with net := l } : State).hear m.dst m.t) := by
  have first : (l.any fun e => e.src = m.src && e.dst = m.dst && e.chan = m.chan) = false := by
    simpa [and_assoc] using hf
  have gone : (l ++ [m]).eraseIdx l.length = l := by simp [List.eraseIdx_append_of_length_le]
  simp [State.deliver, hn, first, ho, gone]

/-! send (R176), once its relaxed accesses are done. -/

section
variable {p : BitVec 3} {q : BitVec 1} {a b : BitVec 4} {v : List Word} (h : s.Issues p q 4 t) (hr : s.Reads t [a, b] [] v s1)
  (hx : t.relaxed = [])
include h hr hx

theorem send_illegal (hi : bits (nth v 0).toNat 30 28 ≠ 0 ∨ (nth v 0).toNat.testBit 31 = false ∧ bits (nth v 0).toNat 27 24 ≠ 0) :
    exec (.send p q a b) s = .next (s.trap s.cur t 1 ((wordOf (.send p q a b)).setWidth 64)) := by
  rw [exec_send, execSend, act_runs h hr]
  simp only [drained_none hx, if_pos hi]
  rfl

variable (hz : bits (nth v 0).toNat 30 28 = 0) (hk : s1.coreOk ((nth v 0).toNat % 2 ^ 24) = true)
  (hs : s1.holdsSlots (4 * corePkg ((nth v 0).toNat % 2 ^ 24) + t.ctx) ((nth v 0).toNat % 2 ^ 24) = true)
include hz hk hs

theorem send_wake (hb : (nth v 0).toNat.testBit 31 = true) : exec (.send p q a b) s =
    .next ((s1.send (coreOf s.cur) ((nth v 0).toNat % 2 ^ 24) 0 (.wake (16 * ((nth v 0).toNat % 2 ^ 24) + bits (nth v 0).toNat 27 24)
      t.ctx (nth v 1) (some s.cur))).wait s.cur t (.mem { kind := .send, vals := [nth v 0] })) := by
  rw [exec_send, execSend, act_runs h hr]
  simp only [drained_none hx, hz, hk, hs, hb, ne_eq, not_true_eq_false, Bool.true_eq_false, false_and, or_self, if_false, if_true]

theorem send_handler (hb : (nth v 0).toNat.testBit 31 = false) (h0 : bits (nth v 0).toNat 27 24 = 0) : exec (.send p q a b) s =
    .next ((s1.send (coreOf s.cur) ((nth v 0).toNat % 2 ^ 24) 0 (.handler ((nth v 0).toNat % 2 ^ 24) (t.handlerOf (nth v 1))
      (some s.cur))).wait s.cur t (.mem { kind := .send, vals := [nth v 0] })) := by
  rw [exec_send, execSend, act_runs h hr]
  simp only [drained_none hx, hz, hk, hs, hb, h0, ne_eq, not_true_eq_false, Bool.true_eq_false, and_false, or_self, if_false,
    Bool.false_eq_true]

end

/-! The answer to send (R173, R176). -/

section
variable (ht : s.thread tid = some t) (hw : t.wait = .mem r) (hk : r.kind = .send) (hl : r.locs = [])
include ht hw hk hl

theorem memoryReply_accepted (hn : r.n = 1) : exec (.memoryReply tid) s = .next (s.retire tid t) := by
  rcases hh : r.held with _ | _
  · rw [memoryReply_serves ht hw hh]
    simp [State.served, hk, State.sendAnswered, hn]
  · rw [memoryReply_placeless ht hw hl hh]
    simp only [State.served, hk, State.sendAnswered, hn, Nat.one_ne_zero, if_false, if_true, State.retire, setThread_setThread]
    rfl

theorem memoryReply_refused (hn : r.n = 2) : exec (.memoryReply tid) s = .next (s.trap tid t 0x0D (nth r.vals 0)) := by
  rcases hh : r.held with _ | _
  · rw [memoryReply_serves ht hw hh]
    simp [State.served, hk, State.sendAnswered, hn]
  · rw [memoryReply_placeless ht hw hl hh]
    simp only [State.served, hk, State.sendAnswered, hn, Nat.reduceEqDiff, OfNat.ofNat_ne_zero, if_false, State.trap, trapAt_setThread]
    rfl

end

/-! The messages at their destination (R177, R178). -/

/-- A slot position's wake state for a context with a wake pending, and the wake's tag in its tag word (R178). -/
def State.marked (s : State) (dst ctx : Nat) (tag : Word) : State :=
  s.modCore (coreOf dst) fun k =>
    { k with wakes := k.wakes.put (wakeKey dst ctx) (true, (k.wakes.at (false, 0) (wakeKey dst ctx)).2 ||| tag) }

theorem marked_wakes (s : State) (dst ctx : Nat) (tag : Word) :
    ((s.marked dst ctx tag).core (coreOf dst)).wakes.at (false, 0) (wakeKey dst ctx) =
      (true, ((s.core (coreOf dst)).wakes.at (false, 0) (wakeKey dst ctx)).2 ||| tag) := by
  rw [State.marked, core_modCore]
  exact at_put_same ..

theorem wakeMessageArrival_marks {dst ctx : Nat} {tag : Word} {who : Option Nat} (hd : s.deliver n = some (m, s1))
    (hm : m.body = .wake dst ctx tag who) (hr : (s.resid (4 * corePkg (coreOf dst) + ctx) (coreOf dst)).isSome = true) :
    exec (.wakeMessageArrival n) s = .next ((s1.marked dst ctx tag).answer (coreOf dst) who .send 1) := by
  rw [exec_wakeMessageArrival, execWakeMessageArrival, hd]
  simp only [hm, hr, if_true]
  rfl

section
variable {core : Nat} {who : Option Nat} (hd : s.deliver n = some (m, s1)) (hm : m.body = .handler core t who)
  (hr : s.running (4 * corePkg core + t.ctx) = true) (hs : s.holdsSlots (4 * corePkg core + t.ctx) core = true)
include hd hm hr hs

theorem handlerMessageArrival_taken {s2 : State} (ha : s1.arrive core t.ctx (.handler t) = some s2) :
    exec (.handlerMessageArrival n) s = .next (s2.answer core who .send 1) := by
  rw [exec_handlerMessageArrival, execHandlerMessageArrival, hd]
  simp only [hm, hr, hs, ha, Bool.and_self, Bool.not_true, Bool.false_eq_true, if_false]

theorem handlerMessageArrival_refused (ha : s1.arrive core t.ctx (.handler t) = none) :
    exec (.handlerMessageArrival n) s = .next (s1.answer core who .send 2) := by
  rw [exec_handlerMessageArrival, execHandlerMessageArrival, hd]
  simp only [hm, hr, hs, ha, Bool.and_self, Bool.not_true, Bool.false_eq_true, if_false]

end

/-! waitm (R179). -/

theorem waitm_takes {s2 : State} {p : BitVec 3} {q : BitVec 1} {d : BitVec 4} (h : s.Issues p q 4 t) (hr : s.Reads t [] [d] [] s)
    (hx : t.relaxed = []) :
    let w := (s.core (coreOf s.cur)).wakes.at (false, 0) (wakeKey s.cur t.ctx)
    w.1 = true → s.Permits s2 s.cur t 0x0C (slotObj s.cur) (w.2.toNat % 2 ^ 32) → State.writeRefused s.cur d w.2 = false →
    exec (.waitm p q d) s = .next ((s2.modCore (coreOf s.cur) fun x =>
      { x with wakes := x.wakes.del (wakeKey s.cur t.ctx) }).result s.cur t d w.2) := by
  intro w hp permits hw
  rw [exec_waitm, execWaitm, act_runs h hr]
  simp only [drained_none hx, show ((s.core (coreOf s.cur)).wakes.at (false, 0) (wakeKey s.cur t.ctx)).1 = true from hp, Bool.not_true,
    Bool.false_eq_true, if_false]
  rw [logged_permitted (k := fun x => State.finish _ _ _ _ _ _ _) permits, finish_accepted hw]

theorem waitm_waits {p : BitVec 3} {q : BitVec 1} {d : BitVec 4} (h : s.Issues p q 4 t) (hr : s.Reads t [] [d] [] s)
    (hx : t.relaxed = []) (hw : ((s.core (coreOf s.cur)).wakes.at (false, 0) (wakeKey s.cur t.ctx)).1 = false) :
    exec (.waitm p q d) s = .next (s.wait s.cur t .sync) := by
  rw [exec_waitm, execWaitm, act_runs h hr]
  simp only [drained_none hx, hw, Bool.not_false, if_true]

end

/-! A wake on its whole way (R176, R178). -/

theorem coreOf_wakeSlot (y m : Nat) : coreOf (16 * y + bits m 27 24) = y := by
  have slot : bits m 27 24 < 16 := Nat.mod_lt _ (by decide)
  rw [coreOf]; omega

theorem resid_of_holdsSlots {s : State} {cx c : Nat} (h : s.holdsSlots cx c = true) : (s.resid cx c).isSome = true := by
  unfold State.holdsSlots at h
  split at h
  · rename_i r hr; rw [hr]; rfl
  · cases h

/-- A sender waits with its wake under way; the wake arrives, marks the slot and is answered; the answer takes the sender past its
send. -/
theorem wake_delivered {u : State} {l : List Msg} {m : Msg} {tid dst ctx : Nat} {tag : Word} {t : Thread} {r : Req}
    (ht : u.thread tid = some t) (hw : t.wait = .mem r) (hn : u.net = l ++ [m]) (ho : m.out = true) (hf : ∀ e ∈ l, ¬ (e.src = m.src ∧ e.dst = m.dst ∧ e.chan = m.chan))
    (hm : m.body = .wake dst ctx tag (some tid)) (hr : (u.resid (4 * corePkg (coreOf dst) + ctx) (coreOf dst)).isSome = true)
    (hk : r.kind = .send) (hz : r.n = 0) (hl : r.locs = []) :
    ∃ w x, exec (.wakeMessageArrival l.length) u = .next w ∧ exec (.memoryReply tid) w = .next x ∧
      x.thread tid = some t.past ∧ x.net = l ∧ (x.core (coreOf dst)).wakes.at (false, 0) (wakeKey dst ctx) =
        (true, ((u.core (coreOf dst)).wakes.at (false, 0) (wakeKey dst ctx)).2 ||| tag) := by
  have arrives := wakeMessageArrival_marks (deliver_newest hn ho hf) hm hr
  have waits : (({ u with net := l } : State).hear m.dst m.t |>.marked dst ctx tag).thread tid = some t := ht
  rw [answer_reaches waits hw hk hz] at arrives
  exact ⟨_, _, arrives, memoryReply_accepted (thread_setThread ..) rfl hk hl rfl, thread_retire .., rfl, marked_wakes ..⟩

/-- Settles O38: send, the messages at their destinations, the answers, and the wake that waitm takes. -/
theorem messagesAndWakes : Obligations.MessagesAndWakes := by
  refine ⟨?sends, ?delivered, fun s tid t r ht hw hk hl => ⟨memoryReply_accepted ht hw hk hl, memoryReply_refused ht hw hk hl⟩,
    fun s s1 n m tid ctx tag who => wakeMessageArrival_marks, ?handler, ?waitm⟩
  case sends =>
    intro p q a b s s1 t v h r hx m y
    exact ⟨fun hz hk hs => ⟨send_wake h r hx hz hk hs, send_handler h r hx hz hk hs⟩, send_illegal h r hx⟩
  case delivered =>
    intro p q a b s s1 t v h r hx m y hz hb hk hs hf hr
    have own : coreOf (16 * y + bits m 27 24) = y := coreOf_wakeSlot y m
    have there : (s1.resid (4 * corePkg (coreOf (16 * y + bits m 27 24)) + t.ctx) (coreOf (16 * y + bits m 27 24))).isSome = true := by
      rw [own]
      exact resid_of_holdsSlots hs
    obtain ⟨w, x, arrives, answered, past, net, tagged⟩ :=
      wake_delivered (thread_setThread (s1.send (coreOf s.cur) y 0 (.wake (16 * y + bits m 27 24) t.ctx (nth v 1) (some s.cur))) s.cur
        (t.waiting (.mem { kind := .send, vals := [nth v 0] }))) rfl rfl hr hf rfl there rfl rfl rfl
    rw [own] at tagged
    exact ⟨_, w, x, send_wake h r hx hz hk hs hb, arrives, answered, past, net, tagged⟩
  case handler =>
    intro s s1 n m core t who hd hm hr hs
    exact ⟨fun s2 => handlerMessageArrival_taken hd hm hr hs, handlerMessageArrival_refused hd hm hr hs⟩
  case waitm =>
    intro p q d s s2 t h r hx c w
    exact ⟨waitm_takes h r hx, waitm_waits h r hx⟩

end Sys2Proof.Machine
end

section
namespace Sys2Proof.Machine

/-! Barriers of a core and of a cluster (R181, R310). -/

/-- An arrival at a cluster barrier is a message to the cluster's barrier hardware (R181). -/
theorem bar_cluster {p : BitVec 3} {q : BitVec 1} {a b : BitVec 4} {s s1 : State} {t : Thread} {v : List Word} (h : s.Issues p q 4 t)
    (r : s.Reads t [a, b] [] v s1) (hx : t.relaxed = []) (hb : (nth v 0).getLsbD 8 = true) :
    exec (.bar p q a b) s = .next ((s1.send (coreOf s.cur) (unitPlace (clusterOf (coreOf s.cur))) 0
      (.barArrive (16 * t.ctx + (nth v 0).toNat % 16) s.cur (clampCount (nth v 1).toNat 576))).setThread s.cur
        { t with wait := .sync, arrived := some (64 + (16 * t.ctx + (nth v 0).toNat % 16)) }) := by
  rw [exec_bar, execBar, act_runs h r]
  simp only [drained_none hx, hb, if_true]

/-- A thread that names barrier 0 of its cluster in g0. -/
def arrivingThread : Thread := Thread.setReg (Thread.fresh 0 0) 0 0x100

/-- The reset state with that thread in slot 0 of core 0. -/
def arrivingState : State := { State.reset with threads := [(0, arrivingThread)] }

theorem arriving_issues : arrivingState.Issues 0 0 4 (arrivingState.turned arrivingThread 4) := ⟨arrivingThread, rfl, rfl, rfl⟩

/-- Refutes O40 by its clause of the cluster barrier: the arrival goes to the place of the cluster's barrier hardware, unitPlace, and
not to the cluster's first core, clBase, that the statement names. -/
theorem not_countersAndBarriers : ¬ Obligations.CountersAndBarriers := by
  rintro ⟨-, bars, -⟩
  have reads : arrivingState.Reads (arrivingState.turned arrivingThread 4) [0, 1] [] [0x100, 0] arrivingState := reads_plain (by decide)
  have stated := (bars 0 0 0 1 _ _ _ _ arriving_issues reads rfl).1 rfl
  have actual := bar_cluster (p := 0) (q := 0) arriving_issues reads rfl rfl
  have equal := Host.Outcome.next.inj (stated.symm.trans actual)
  have places : [clBase 0] = [unitPlace 0] := congrArg (fun u : State => u.net.map Msg.dst) equal
  exact absurd places (by decide)

end Sys2Proof.Machine
end

section
namespace Sys2Proof.Machine

/-! The vector sequencer's pushes and loops (R233, R234, R237 to R239), and vector faults (R188, R189). -/

section
variable {w : Word32} {p : BitVec 3} {q : BitVec 1} {s : State} {t : Thread} {bad : Seq → Bool} (h : s.Issues p q 4 t)
include h

/-- R189: a frozen sequencer takes no push. -/
theorem vPush_frozen (hf : t.seq.frozen = true) : vPush w p q s bad = .next (s.trap s.cur t 9 (Config.frozenEbad t.pc)) := by
  rw [vPush, frame_runs h, if_pos hf]

variable (hf : t.seq.frozen = false)
include hf

theorem vPush_refused (hb : bad t.seq = true) : vPush w p q s bad = .next (s.trap s.cur t 1 (w.setWidth 64)) := by
  rw [vPush, frame_runs h]
  simp only [hf, hb, Bool.false_eq_true, if_false, true_or, if_true]

/-- R233: a push enters the sequencer at its end, with what it captures. -/
theorem vPush_enters (hb : bad t.seq = false) (hn : t.seq.ents.length < 16) (hp : ∀ x ∈ t.seq.ents, pcHigh x.pc = pcHigh t.pc) :
    vPush w p q s bad = .next (s.retire s.cur { t with seq := Seq.settle { t.seq with ents := t.seq.ents ++
      [{ word := w, pc := t.pc, shb := t.shb, rnd := t.rnd, scl := t.scl, idx := 0, pass := 0, acc := [], recs := [] }] } }) := by
  have near : (t.seq.ents.any fun e => pcHigh e.pc != pcHigh t.pc) = false := by simpa using hp
  rw [vPush, frame_runs h]
  simp only [hf, hb, near, Nat.not_le.2 hn, Bool.false_eq_true, if_false, false_and, or_self]

end

/-! vwait (R239). -/

section
variable {p : BitVec 3} {q : BitVec 1} {s : State} {t : Thread} (h : s.Issues p q 4 t)
include h

theorem vwait_frozen (hf : t.seq.frozen = true) :
    exec (.vwait p q) s = .next (s.trap s.cur t 9 (Config.frozenEbad t.pc)) := by
  rw [exec_vwait, execVwait, frame_runs h, if_pos hf]

variable (hf : t.seq.frozen = false)
include hf

theorem vwait_empty (he : t.seq.ents = []) : exec (.vwait p q) s = .next (s.retire s.cur t) := by
  have closed : t.seq.isOpen = false := by rw [Seq.isOpen, he]; rfl
  rw [exec_vwait, execVwait, frame_runs h]
  simp only [hf, closed, he, List.isEmpty_nil, Bool.not_true, Bool.false_eq_true, if_false]

theorem vwait_waits (he : t.seq.ents ≠ []) (ho : t.seq.isOpen = false) :
    exec (.vwait p q) s = .next (s.wait s.cur t (.held .vwait)) := by
  rw [exec_vwait, execVwait, frame_runs h]
  simp only [hf, ho, List.isEmpty_eq_false_iff.2 he, Bool.not_false, Bool.false_eq_true, if_false, if_true]

end

/-- The 44 vector instructions are pushes of their own words (R233). -/
theorem exec_pushedMember {p : BitVec 3} {q : BitVec 1} {hd ha hb : BitVec 5} {m : BitVec 2} {sat : BitVec 1} (s : State) :
    ∀ i, PushedMember p q hd ha hb m sat i → exec i s = vPush (wordOf i) p q s := by
  simp only [PushedMember, List.forall_mem_cons, List.not_mem_nil, false_implies, implies_true, and_true]
  refine ⟨rfl, rfl, rfl, rfl, rfl, rfl, rfl, rfl, rfl, rfl, rfl, rfl, rfl, rfl, rfl, rfl, rfl, rfl, rfl, rfl, rfl, rfl, rfl, rfl, rfl,
    rfl, rfl, rfl, rfl, rfl, rfl, rfl, rfl, rfl, rfl, rfl, rfl, rfl, rfl, rfl, rfl, rfl, rfl, rfl⟩

/-- vend is a push of its own word that wants an open body with an instruction in it (R238). -/
theorem exec_vendPush (p : BitVec 3) (q : BitVec 1) (s : State) :
    exec (.vend p q) s = vPush (wordOf (.vend p q)) p q s fun q => !q.isOpen || q.openLen == 0 := rfl

/-- R189: every vector instruction meets a frozen sequencer with cause 0x09. -/
theorem frozen_traps {p : BitVec 3} {q : BitVec 1} {hd ha hb n k : BitVec 5} {m : BitVec 2} {sat : BitVec 1} {s : State} {t : Thread}
    {i : Instr} (h : s.Issues p q 4 t) (hf : t.seq.frozen = true)
    (hi : PushedMember p q hd ha hb m sat i ∨ i ∈ [.vloop p q n k, .vend p q, .vwait p q]) :
    exec i s = .next (s.trap s.cur t 9 (Config.frozenEbad t.pc)) := by
  rcases hi with hi | hi
  · rw [exec_pushedMember s i hi, vPush_frozen h hf]
  · simp only [List.mem_cons, List.not_mem_nil, or_false] at hi
    rcases hi with rfl | rfl | rfl
    · exact vPush_frozen h hf
    · rw [exec_vendPush, vPush_frozen h hf]
    · exact vwait_frozen h hf

/-- A trap with a given epc, where the context traces nothing (R83). -/
theorem trapAt_untraced {s : State} {tid : Nat} {t : Thread} {epc : Word} {x : Trap} (hl : t.tfl = false)
    (hc : (s.ctx (cxOf (coreOf tid) t)).trace = 0) : s.trapAt tid t epc x =
      s.setThread tid ({ t with pc := epc }.inHandler (s.ctx (cxOf (coreOf tid) t)).trapvec x.cause x.ebad) := by
  have untraced : (s.ctx (cxOf (coreOf tid) t)).trace.getLsbD 1 = false := by rw [hc]; rfl
  simp only [State.trapAt, hl, Bool.false_eq_true, if_false, State.traceSoft, if_pos untraced]
  rfl

/-- A vector fault of a thread that is in no trap handler is delivered where its context traces nothing (R188): the trap's epc is the
vector instruction's pc, and the sequencer freezes with the entries that it holds. -/
theorem vectorFaultDelivery_traps {s : State} {tid cause : Nat} {t : Thread} {pc : Word} (ht : s.thread tid = some t)
    (hv : t.vecFault = some (cause, pc)) (hl : t.tfl = false) (hc : (s.ctx (cxOf (coreOf tid) t)).trace = 0) :
    exec (.vectorFaultDelivery tid) s = .next (s.setThread tid
      ({ t with vecFault := none, seq := { t.seq with frozen := true }, pc := pc }.inHandler (s.ctx (cxOf (coreOf tid) t)).trapvec cause
        t.pc)) := by
  rw [exec_vectorFaultDelivery, execVectorFaultDelivery, ht]
  simp only [hv]
  rw [trapAt_untraced (t := { t with vecFault := none, seq := { t.seq with frozen := true } }) hl hc, thread_setThread]
  rfl

/-- Settles O44: the sequencer's pushes open and close a body, wait, or meet it frozen; a vector fault freezes it and eret lets it go
on. -/
theorem vectorLoops : Obligations.VectorLoops := by
  refine ⟨?loops, fun p q hd ha hb n k m sat s t h hf i => frozen_traps h hf, ?returns, ?faults⟩
  case loops =>
    intro p q n k s t h hf e pushed
    rw [exec_vendPush]
    refine ⟨vPush_refused h hf, fun ho => vPush_refused h hf ?_, fun hn hp =>
      ⟨fun ho => vPush_enters h hf ho hn hp, fun ho hl => vPush_enters h hf ?_ hn hp⟩, vwait_empty h hf, vwait_waits h hf⟩
    · rw [ho]; rfl
    · rw [ho, beq_false_of_ne hl]; rfl
  case returns =>
    intro p q s t h hs hf
    have run : exec (.eret p q) s = .next (s.trapReturn s.cur t) := by rw [exec_eret, execEret, frame_priv h hs]
    rw [State.trapReturn, if_pos hf] at run
    exact ⟨_, run, rfl, rfl, rfl, rfl, rfl, rfl⟩
  case faults =>
    intro s tid cause t pc ht hv hl hc
    exact ⟨_, vectorFaultDelivery_traps ht hv hl hc, rfl, rfl, rfl, rfl, rfl, rfl, rfl, rfl, rfl, rfl⟩

end Sys2Proof.Machine
end

section
namespace Sys2Proof.Machine

/-! Spilling and resuming threads (R190, R191). -/

section
variable {s s0 : State} {tid cx : Nat} {l : Loc}

/-- An access to a thread's record asks for the page that it lacks (R288, R294). -/
theorem atRecord_walks {k : Loc → State → State} {r : Resid} {o : Nat} (hr : s.resid cx (coreOf tid) = some r)
    (hm : s.portMiss (.slot tid) (clusterOf (coreOf tid)) [canonLa (corePkg (coreOf tid)) (r.savebase + 512 * slotOf tid)] = some o) :
    s.atRecord tid cx k = s.askWalk (clusterOf (coreOf tid)) o (.slot tid) := by
  simp only [State.atRecord, hr, withPages_asks hm]

/-- An access to a thread's record is made at its place. -/
theorem atRecord_there {k : Loc → State → State} (h : s.RecordAt tid cx l s0) : s.atRecord tid cx k = (k l s0).dropNotes (.slot tid) := by
  obtain ⟨r, s1, hr, hm, hp, rfl⟩ := h
  simp only [State.atRecord, hr, withPages_goes hm, hp]

section
variable {t : Thread} (hs : NatSet.has (s.core (coreOf tid)).toSpill (slotOf tid) = true) (ht : s.thread tid = some t)
  (hv : s.serves tid t.ctx = false)
include hs ht hv

theorem spill_waits (hb : t.boundary = false) : exec (.spill tid) s = .next s := by
  rw [exec_spill, execSpill]
  simp only [hs, ht, hv, hb, Bool.not_true, Bool.not_false, Bool.false_eq_true, if_false, if_true]

variable (hb : t.boundary = true)
include hb

theorem spill_walks {r : Resid} {o : Nat} (hr : s.resid (cxOf (coreOf tid) t) (coreOf tid) = some r)
    (hm : s.portMiss (.slot tid) (clusterOf (coreOf tid)) [canonLa (corePkg (coreOf tid)) (r.savebase + 512 * slotOf tid)] = some o) :
    exec (.spill tid) s = .next (s.askWalk (clusterOf (coreOf tid)) o (.slot tid)) := by
  rw [exec_spill, execSpill]
  simp only [hs, ht, hv, hb, Bool.not_true, Bool.false_eq_true, if_false, atRecord_walks hr hm]

theorem spill_saves (h : s.RecordAt tid (cxOf (coreOf tid) t) l s0) (hl : s0.sealedAt l = false) :
    exec (.spill tid) s = .next ((((((s0.abandon tid t).1.storeBytes l.key ((s0.abandon tid t).2.record (coreOf tid)
      (s0.wakePending tid t.ctx) 8)).vacate tid).modCtx (cxOf (coreOf tid) t) fun k =>
        { k with saved := k.saved.put tid { frozen := t.seq.frozen, row := t.row, handler := t.handler, passBp := t.passBp,
                                            zeroed := t.zeroed } }).spilt tid).dropNotes (.slot tid)) := by
  rw [exec_spill, execSpill]
  simp only [hs, ht, hv, hb, Bool.not_true, Bool.false_eq_true, if_false]
  rw [atRecord_there h, if_neg (by rw [hl]; decide)]

end

section
variable {m : SavedMark} (hm : (s.ctx cx).saved.find? tid = some m) (hv : s.serves tid (cx % 4) = true) (ht : s.thread tid = none)
  (hr : NatSet.has (s.core (coreOf tid)).reserved (slotOf tid) = false) (hg : s.running cx = true)
  (hd : (s.core (coreOf tid)).disabled = false) (h : s.RecordAt tid cx l s0)
include hm hv ht hr hg hd h

theorem spillResume_bad
    (hb : s0.isBad l.key (if packetExt (s0.mem.bytes l.key 512) then 512 else 128) = true) :
    exec (.spillResume tid cx) s = .next (s0.dropNotes (.slot tid)) := by
  rw [exec_spillResume, execSpillResume]
  simp only [hm, hv, ht, hr, hg, hd, Option.isNone_none, Bool.not_false, Bool.and_self, Bool.not_true, Bool.false_eq_true, if_false]
  rw [atRecord_there h, if_pos hb]

theorem spillResume_seats (hp : (s0.ctx cx).replay = 0) (hc : (s0.ctx cx).trace = 0)
    (hb : s0.isBad l.key (if packetExt (s0.mem.bytes l.key 512) then 512 else 128) = false) :
    exec (.spillResume tid cx) s = .next ((((s0.modCtx cx fun k => { k with saved := k.saved.del tid }).unitGoes cx (srcOf tid)
      (slotObj tid)).seat tid { Thread.ofRecord (s0.mem.bytes l.key 512) m.frozen m.row m.zeroed with
        ctx := cx % 4, handler := m.handler, passBp := m.passBp }).dropNotes (.slot tid)) := by
  have kept : ((s0.modCtx cx fun k => { k with saved := k.saved.del tid }).ctx cx).replay = 0 := by rw [ctx_modCtx, hp]
  have untraced : ((s0.modCtx cx fun k => { k with saved := k.saved.del tid }).ctx cx).trace.getLsbD 2 = false := by
    rw [ctx_modCtx, hc]; rfl
  rw [exec_spillResume, execSpillResume]
  simp only [hm, hv, ht, hr, hg, hd, Option.isNone_none, Bool.not_false, Bool.and_self, Bool.not_true, Bool.false_eq_true, if_false]
  rw [atRecord_there h, if_neg (by rw [hb]; decide), if_neg (by rw [hp]; decide), bind_unlogged kept untraced]
  rfl

end

end

/-! The log unit (R358, R367, R381). -/

/-- An append fails where no place takes it. -/
theorem appendFails_of {s : State} {o : Option Loc} (hf : ∀ p, o = some p → s.isBad p.key 32 = true ∨ s.sealedAt p = true) :
    s.appendFails o = true := by
  cases o with
  | none => rfl
  | some p => rw [State.appendFails, Bool.or_eq_true]; exact hf p rfl

section
variable {s : State} {cx die : Nat} {r : Rec} (h : s.nextAppend cx die = some r)
include h

section
variable {p : Loc} (hp : s.recordPlace cx die ((s.ctx cx).log die).prod.toNat = some p) (hb : s.isBad p.key 32 = false)
  (hl : s.sealedAt p = false)
include hp hb hl

theorem logAppend_writes : exec (.logAppend cx die) s =
    .next (((s.heardAt (diePlace (2 * (cx / 4) + die)) p).storeBytes p.key r.bytes).modCtx cx fun k =>
      k.setLog die { (s.ctx cx).log die with prod := ((s.ctx cx).log die).prod + 1,
                                             pending := ((s.ctx cx).log die).pending.drop 1 }) := by
  rw [exec_logAppend, execLogAppend]
  simp only [h, hp, State.appendFails, hb, hl, Bool.or_self, Bool.false_eq_true, if_false]

theorem logAppendFailure_none : exec (.logAppendFailure cx die) s = .next s := by
  rw [exec_logAppendFailure, execLogAppendFailure]
  simp only [h, hp, State.appendFails, hb, hl, Bool.or_self, Bool.false_eq_true, if_false]

end

theorem logAppend_fails (hf : s.appendFails (s.recordPlace cx die ((s.ctx cx).log die).prod.toNat) = true) :
    exec (.logAppend cx die) s = .next s ∧ exec (.logAppendFailure cx die) s = .next (s.stopLog cx die) := by
  constructor
  · rw [exec_logAppend, execLogAppend]
    cases hp : s.recordPlace cx die ((s.ctx cx).log die).prod.toNat with
    | none => simp only [h]
    | some p => simp only [h, if_pos (hp ▸ hf)]
  · rw [exec_logAppendFailure, execLogAppendFailure]
    simp only [h, if_pos hf]

end

/-! Replay (R369, R371, R381). -/

section
variable {s : State} {cx die i : Nat} {p : Loc} (hr : (s.ctx cx).replay = 2) (hu : ((s.ctx cx).log die).unread = some i)
  (hp : s.recordPlace cx die i = some p) (hb : s.isBad p.key 32 = false)
include hr hu hp hb

/-- A loaded record goes to the serialisation point of its object. -/
theorem replayRecordDispatch_passes (h1 : 1 ≤ (Rec.ofBytes (s.mem.bytes p.key 32)).kind)
    (h15 : (Rec.ofBytes (s.mem.bytes p.key 32)).kind ≤ 15) :
    let r := Rec.ofBytes (s.mem.bytes p.key 32)
    let s1 := (s.heardAt (diePlace (2 * (cx / 4) + die)) p).modCtx cx fun k => k.setLog die
      { (s.ctx cx).log die with nextRead := i + 1, dispatched := ((s.ctx cx).log die).dispatched ++ [(i, r)] }
    exec (.replayRecordDispatch cx die) s =
      .next (s1.passResumes cx r.obj ((s1.ctx cx).log0.dispatched.length + (s1.ctx cx).log1.dispatched.length)) := by
  obtain ⟨x, heard⟩ := heardAt_tsc s (diePlace (2 * (cx / 4) + die)) p
  have good : (s.heardAt (diePlace (2 * (cx / 4) + die)) p).isBad p.key 32 = false := by rw [heard]; exact hb
  have same : (s.heardAt (diePlace (2 * (cx / 4) + die)) p).mem = s.mem := by rw [heard]
  rw [exec_replayRecordDispatch, execReplayRecordDispatch]
  simp only [hr, if_true, hu, hp, good, same, Bool.false_eq_true, if_false]
  rw [if_neg (by omega)]

/-- A record of a KIND that is never written is retired, with a trace record of reason 1. -/
theorem replayRecordDispatch_retires
    (hk : (Rec.ofBytes (s.mem.bytes p.key 32)).kind = 0 ∨ 15 < (Rec.ofBytes (s.mem.bytes p.key 32)).kind) :
    ∃ x : Rec, x.kind = 0x86 ∧ x.obj = (Rec.ofBytes (s.mem.bytes p.key 32)).obj ∧ x.out % 256 = 1 ∧
      exec (.replayRecordDispatch cx die) s = .next (((s.heardAt (diePlace (2 * (cx / 4) + die)) p).modCtx cx fun k =>
        k.setLog die ({ (s.ctx cx).log die with nextRead := i + 1 }.retire i)).traceHard cx die x) := by
  obtain ⟨x, heard⟩ := heardAt_tsc s (diePlace (2 * (cx / 4) + die)) p
  have good : (s.heardAt (diePlace (2 * (cx / 4) + die)) p).isBad p.key 32 = false := by rw [heard]; exact hb
  have same : (s.heardAt (diePlace (2 * (cx / 4) + die)) p).mem = s.mem := by rw [heard]
  rw [exec_replayRecordDispatch, execReplayRecordDispatch]
  simp only [hr, if_true, hu, hp, good, same, Bool.false_eq_true, if_false]
  rw [if_pos hk]
  refine ⟨_, ?_, ?_, ?_, rfl⟩
  · rfl
  · rfl
  · exact Nat.add_mul_mod_self_right ..

end

section
variable {s : State} {tid since obj : Nat} {t : Thread} (hn : tid < 2 ^ 32) (ht : s.thread tid = some t)
  (hf : t.replayFrom = some (since, obj))
include hn ht hf

theorem replayWaitTimeout_expires (hl : s.tooLong (cxOf (coreOf tid) t) (coreOf tid) since = true) :
    exec (.replayWaitTimeout tid) s = .next (s.replayExpires tid t obj) := by
  rw [exec_replayWaitTimeout, execReplayWaitTimeout, if_pos hn]
  simp only [ht, hf, if_pos hl]

theorem replayWaitTimeout_waits (hl : s.tooLong (cxOf (coreOf tid) t) (coreOf tid) since = false) :
    exec (.replayWaitTimeout tid) s = .next s := by
  rw [exec_replayWaitTimeout, execReplayWaitTimeout, if_pos hn]
  simp only [ht, hf, hl, Bool.false_eq_true, if_false]

end

/-- Settles O56: the spill engine's record, the log unit's append and its failure, and the records and waits of a replay. -/
theorem spillLogReplay : Obligations.SpillLogReplay := by
  refine ⟨?spill, ?resume, ?append, ?dispatch, ?timeout⟩
  case spill =>
    intro s s0 tid t l hs ht c hv
    exact ⟨spill_waits hs ht hv, fun r o hb hr hm => spill_walks hs ht hv hb hr hm, fun hb h hl => spill_saves hs ht hv hb h hl⟩
  case resume =>
    intro s s0 tid cx m l hm hv ht hr hg hd h hp hc b t
    exact ⟨spillResume_bad hm hv ht hr hg hd h, spillResume_seats hm hv ht hr hg hd h hp hc⟩
  case append =>
    intro s cx die r h l
    exact ⟨fun p hp hb hl => ⟨logAppend_writes h hp hb hl, logAppendFailure_none h hp hb hl⟩,
      fun hf => logAppend_fails h (appendFails_of hf)⟩
  case dispatch =>
    intro s cx die i p hr hu hp hb l r s2
    exact ⟨fun h1 h15 => replayRecordDispatch_passes hr hu hp hb h1 h15, replayRecordDispatch_retires hr hu hp hb⟩
  case timeout =>
    intro s tid since obj t hn ht hf k
    refine ⟨fun hr hz hl => replayWaitTimeout_expires hn ht hf ?_, fun hz => replayWaitTimeout_waits hn ht hf ?_,
      fun hl => replayWaitTimeout_waits hn ht hf ?_⟩
    · simp only [State.tooLong, Bool.and_eq_true, decide_eq_true_eq, bne_iff_ne]
      exact ⟨⟨hr, hz⟩, hl⟩
    · rw [State.tooLong, show (s.ctx (cxOf (coreOf tid) t)).rtimeout = 0 from hz, bne_self_eq_false, Bool.and_false, Bool.false_and]
    · rw [State.tooLong, decide_eq_false (Nat.not_lt.2 hl), Bool.and_false]

end Sys2Proof.Machine
end

section
namespace Sys2Proof.Machine

/-! Page walks (R186, R291, R294). -/

theorem modCluster_congr {s : State} {cl : Nat} {f g : Cluster → Cluster} (h : f (s.cluster cl) = g (s.cluster cl)) :
    s.modCluster cl f = s.modCluster cl g := by rw [State.modCluster, h]; rfl

/-- What a home answers a walk: the entry that covers the offset in the replica of the walk's die. -/
def State.answersWalk (duty : Nat) (s : State) (w : Walk) : State :=
  (s.setWalk w.cl w.off .answered).send duty (Machine.unitPlace w.cl) 1 (.walkAnswer w.cl w.off
    (((s.pkg (clPkg w.cl)).walk (clDie w.cl) w.off).map fun x =>
      { vpn := x.2.vpn, big := x.2.big, pfn := x.2.pfn, hot := 0, from_ := x.1 }))

/-- A walk that was queued begins. -/
def State.beginsWalk (duty : Nat) (s : State) (w : Walk) : State := (s.setWalk w.cl w.off .walking).hear duty w.t

/-- A home answers the walks that it runs, and begins up to three that are queued. -/
theorem pageWalk_serves (s : State) (home : Nat) : exec (.pageWalk home) s =
    let u := (s.walksAt home .walking).foldl (State.answersWalk (s.dutyOf home)) s
    .next (((u.walksAt home .queued).take 3).foldl (State.beginsWalk (s.dutyOf home)) u) := rfl

theorem pageWalk_answers {s : State} {home : Nat} {w : Walk} (hw : s.walksAt home .walking = [w])
    (hn : (s.setWalk w.cl w.off .answered).walksAt home .queued = []) :
    exec (.pageWalk home) s = .next (s.answersWalk (s.dutyOf home) w) := by
  have none : (s.answersWalk (s.dutyOf home) w).walksAt home .queued = [] := hn
  rw [pageWalk_serves, hw]
  simp only [List.foldl_cons, List.foldl_nil, none, List.take_nil]

theorem pageWalk_begins {s : State} {home : Nat} (hw : s.walksAt home .walking = []) :
    exec (.pageWalk home) s = .next (((s.walksAt home .queued).take 3).foldl (State.beginsWalk (s.dutyOf home)) s) := by
  rw [pageWalk_serves, hw]
  rfl

/-! The answer at its port (R186, R294). -/

/-- The walks on the page of an offset end. -/
def State.walkEnded (s : State) (cl off : Nat) : State :=
  s.modCluster cl fun k => { k with walks := k.walks.filter fun w => !(w.off / 65536 == off / 65536) }

theorem walkEnded_tlbFind (s : State) (cl off o : Nat) : ((s.walkEnded cl off).cluster cl).tlbFind o = (s.cluster cl).tlbFind o := by
  rw [State.walkEnded, cluster_modCluster]
  rfl

section
variable {s s1 : State} {n cl off : Nat} {m : Msg} {x : Waiter × Nat} (hd : s.deliver n = some (m, s1))
  (hx : ((s.cluster cl).walks.filter fun w => w.off / 65536 == off / 65536).flatMap (·.waiters) = [x])
include hd hx

/-- An entry that the walk found fills the TLB. -/
theorem pageWake_found {e : TlbEntry} (hm : m.body = .walkAnswer cl off (some e)) (hf : (s1.cluster cl).tlbFind off = none) :
    exec (.pageWake n) s = .next (((s1.walkEnded cl off).tlbFill cl e).wake cl off m.t (some e) x) := by
  have lacks : ((s1.walkEnded cl off).cluster cl).tlbFind off = none := (walkEnded_tlbFind ..).trans hf
  rw [State.walkEnded] at lacks
  rw [exec_pageWake, execPageWake, hd]
  simp only [hm, hx, List.foldl_cons, List.foldl_nil, lacks, Option.any_none, Bool.false_eq_true, if_false]
  rfl

theorem pageWake_absent (hm : m.body = .walkAnswer cl off none) :
    exec (.pageWake n) s = .next ((s1.walkEnded cl off).wake cl off m.t none x) := by
  rw [exec_pageWake, execPageWake, hd]
  simp only [hm, hx, List.foldl_cons, List.foldl_nil]
  rfl

end

/-- A waiting slot's instruction issues again, wherever in the page it missed (R186). -/
theorem wake_thread {s : State} {cl walked carried tid its : Nat} {t : Thread} (e : Option TlbEntry) (ht : s.thread tid = some t)
    (hw : t.wait = .page (clPkg cl) its) : s.wake cl walked carried e (.thread tid, its) =
      (s.hear (coreOf tid) carried).setThread tid { t with wait := .ready, noEntry :=
        if e.isNone && walked / 65536 == its / 65536 then some (clPkg cl, its / 65536) else none } := by
  simp only [State.wake, ht, hw, if_true]

/-- A hardware unit other than a ring's writer. -/
def Waiter.isUnit (who : Waiter) : Prop := (∃ x, who = .engine x) ∨ (∃ x, who = .slot x) ∨ (∃ c x, who = .segs c x) ∨ ∃ c, who = .port c

/-- What a walk told a hardware unit is noted for its next try (R294). -/
def State.noteFor (s : State) (cl its : Nat) (who : Waiter) (found : Bool) : State :=
  s.modCluster cl fun k => { k with notes := k.notes ++ [{ who := who, unit := its / 65536, found := found }] }

section
variable {s : State} {cl walked carried its : Nat} {who : Waiter} (hu : who.isUnit)
include hu

theorem wake_unit_found {x : TlbEntry} (hc : x.covers its = true) :
    s.wake cl walked carried (some x) (who, its) = (s.hear who.place carried).noteFor cl its who true := by
  rcases hu with ⟨y, rfl⟩ | ⟨y, rfl⟩ | ⟨c, y, rfl⟩ | ⟨c, rfl⟩ <;> exact if_pos hc

theorem wake_unit_absent (hp : walked / 65536 = its / 65536) :
    s.wake cl walked carried none (who, its) = (s.hear who.place carried).noteFor cl its who false := by
  have own : ((none : Option TlbEntry).isNone && walked / 65536 == its / 65536) = true := by rw [hp, beq_self_eq_true]; rfl
  rcases hu with ⟨y, rfl⟩ | ⟨y, rfl⟩ | ⟨c, y, rfl⟩ | ⟨c, rfl⟩ <;> exact if_pos own

end

/-! Misses on one page at one port share one walk (R294). -/

theorem askWalk_first {s : State} {cl off : Nat} {who : Waiter} (h : (s.cluster cl).walks = []) :
    s.askWalk cl off who = s.modCluster cl fun k => { k with walks :=
      [{ cl := cl, off := off, since := s.clock, st := .queued, waiters := [(who, off)], t := s.time who.place }] } := by
  rw [State.askWalk]
  refine modCluster_congr ?_
  simp only [h, List.find?_nil, List.nil_append]

theorem askWalk_joins {s : State} {cl off : Nat} {who : Waiter} {w : Walk} (h : (s.cluster cl).walks = [w])
    (hp : (s.pkg (clPkg cl)).samePage (clDie cl) off w.off = true) (hn : (who, off) ∉ w.waiters) :
    s.askWalk cl off who = s.modCluster cl fun k => { k with walks :=
      [{ w with waiters := w.waiters ++ [(who, off)], t := max w.t (s.time who.place) }] } := by
  have new : w.waiters.contains (who, off) = false := by simpa using hn
  rw [State.askWalk]
  refine modCluster_congr ?_
  simp only [h, List.find?_cons, hp, List.map_cons, List.map_nil, if_true, new, Bool.false_eq_true, if_false]

theorem pageWalks_hold : pageWalks := by
  refine ⟨fun s home w => ⟨fun hw _ hn => pageWalk_answers hw hn, fun hw => ⟨fun r hq hr => ?_, fun x y z l hq => ?_⟩⟩, ?slot, ?unit,
    fun s cl off who => ⟨askWalk_first, fun w => askWalk_joins⟩⟩
  · rw [pageWalk_begins hw, hq, hr]
    rfl
  · rw [pageWalk_begins hw, hq]
    rfl
  case slot =>
    intro s s1 n m cl off tid its t e hd hm ht hw mine ended hx
    obtain ⟨_, _, delivered⟩ := deliver_eq hd
    have same : (s1.walkEnded cl off).thread tid = some t := by rw [delivered]; exact ht
    have filled (x : TlbEntry) : ((s1.walkEnded cl off).tlbFill cl x).thread tid = some t := same
    refine ⟨fun x he hf => ?_, fun he => ?_⟩
    · rw [pageWake_found hd hx (he ▸ hm) hf, wake_thread _ (filled x) hw]
      rfl
    · rw [pageWake_absent hd hx (he ▸ hm), wake_thread _ same hw]
      simp only [Option.isNone_none, Bool.true_and, beq_iff_eq]
      rfl
  case unit =>
    intro s s1 n m cl off its who e hd hm hu mine ended noted hx
    refine ⟨fun x he hf hc => ?_, fun he ho => ?_⟩
    · rw [pageWake_found hd hx (he ▸ hm) hf, wake_unit_found hu hc]
      rfl
    · rw [pageWake_absent hd hx (he ▸ hm), wake_unit_absent hu ho]
      rfl

end Sys2Proof.Machine
end

section
namespace Sys2Proof.Machine

/-! The page-table instructions (R295 to R297). -/

/-- The kinds of request that a home serves. -/
def ReqKind.svc : List ReqKind := [.hwalk, .hins, .hdel, .tlbi, .hotr, .pgmv]

/-- A core and the core that has the duty of the home of an offset hear from each other (R364, R398). -/
def State.atHome (s : State) (c off : Nat) : State := s.exchange c (s.dutyOf (homeCore (clusterOf c) off))

theorem served_svc {s : State} {tid : Nat} {t : Thread} {r : Req} (hk : r.kind ∈ ReqKind.svc) : s.served tid t r = s.svcServed tid t r := by
  simp only [ReqKind.svc, List.mem_cons, List.not_mem_nil, or_false] at hk
  rcases hk with h | h | h | h | h | h <;> simp only [State.served, h]

/-- A request that names no place goes out as it is. -/
theorem wait_placeless {s : State} {tid : Nat} {t : Thread} {r : Req} (hh : r.held = false) (hl : r.locs = []) :
    s.wait tid t (.mem r) = s.setThread tid (t.waiting (.mem r)) := by
  rw [State.wait, issued_linked hh (by simp [hl])]

theorem memoryReply_svc {s : State} {tid : Nat} {t : Thread} {r : Req} (ht : s.thread tid = some t) (hw : t.wait = .mem r)
    (hh : r.held = false) (hk : r.kind ∈ ReqKind.svc) : exec (.memoryReply tid) s = .next (s.svcServed tid t r) := by
  rw [memoryReply_serves ht hw hh, served_svc hk]

/-- The instruction's request waits, and its home serves it. -/
theorem svc_through {i : Instr} {s s1 w : State} {tid : Nat} {t : Thread} {r : Req} (hk : r.kind ∈ ReqKind.svc) (hh : r.held = false)
    (hl : r.locs = []) (run : exec i s = .next (s1.wait tid t (.mem r)))
    (served : (s1.wait tid t (.mem r)).svcServed tid (t.waiting (.mem r)) r = w) :
    exec i s = .next (s1.wait tid t (.mem r)) ∧ exec (.memoryReply tid) (s1.wait tid t (.mem r)) = .next w := by
  have waits : (s1.wait tid t (.mem r)).thread tid = some (t.waiting (.mem r)) := by rw [wait_placeless hh hl, thread_setThread]
  exact ⟨run, (memoryReply_svc waits rfl hh hk).trans (congrArg _ served)⟩

/-! Issue (R295). -/

section
variable {p : BitVec 3} {q : BitVec 1} {d a b : BitVec 4} {s s1 : State} {t : Thread} {v : List Word} (h : s.Issues p q 4 t)
  (hs : t.sup = true) (hc : isService (coreOf s.cur) = true)
include h hs hc

theorem act_privExtRuns {word : Word32} {srcs dsts : List (BitVec 4)} {f : Nat → Thread → State → List Word → State → State}
    (r : s.Reads t srcs dsts v s1) : act word 4 p q srcs dsts s f true (some .walker) = .next (f s.cur t s v s1) := by
  have walker : hasExt (coreOf s.cur) .walker = true := hc
  rw [act, frame_privExt h hs walker, operands_ready r]

theorem svc_asks {word : Word32} {srcs : List (BitVec 4)} {kind : ReqKind} (r : s.Reads t srcs [d] v s1) :
    svc word p q d srcs kind s = .next (s1.wait s.cur t (.mem
      { kind := kind, word := word, d := d,
        vals := [BitVec.ofNat 64 (canonLa (corePkg (coreOf s.cur)) (nth v 0).toNat), nth v 1] })) := by
  rw [svc, act_privExtRuns h hs hc r]

theorem hwalk_asks (r : s.Reads t [a, b] [d] v s1) (hz : nth v 1 = 0) :
    exec (.hwalk p q d a b) s = .next (s1.wait s.cur t (.mem
      { kind := .hwalk, word := wordOf (.hwalk p q d a b), d := d,
        vals := [BitVec.ofNat 64 (canonLa (corePkg (coreOf s.cur)) (nth v 0).toNat), nth v 1] })) := by
  rw [exec_hwalk, execHwalk, act_privExtRuns h hs hc r]
  simp only [if_pos hz]
  rfl

/-- The image's place is checked before the request goes out. -/
theorem hwalk_asksImage {out : Nat} (r : s.Reads t [a, b] [d] v s1) (hz : nth v 1 ≠ 0)
    (hk : s1.check (coreOf s.cur) t.ctx (nth v 1) 32 segW 32 = .ok out) (hr : laRegion out = 1) (ho : laCore out = coreOf s.cur) :
    exec (.hwalk p q d a b) s = .next (s1.wait s.cur t (.mem
      { kind := .hwalk, word := wordOf (.hwalk p q d a b), d := d,
        vals := [BitVec.ofNat 64 (canonLa (corePkg (coreOf s.cur)) (nth v 0).toNat), nth v 1], n := out })) := by
  rw [exec_hwalk, execHwalk, act_privExtRuns h hs hc r]
  simp only [if_neg hz, hk, hr, ho, ne_eq, not_true_eq_false, or_self, if_false]
  rfl

theorem hins_asks {x : Nat} (r : s.Reads t [a] [d] v s1) (hk : s1.check (coreOf s.cur) t.ctx (nth v 0) 32 segR 32 = .ok x)
    (hr : laRegion x = 1) (ho : laCore x = coreOf s.cur) (hb : s1.isBad x 32 = false) :
    exec (.hins p q d a) s = .next (s1.wait s.cur t (.mem
      { kind := .hins, word := wordOf (.hins p q d a), d := d,
        vals := (List.range 4).map fun i => BitVec.ofNat 64 (s1.mem.read (x + 8 * i) 8) })) := by
  rw [exec_hins, execHins, act_privExtRuns h hs hc r]
  simp only [hk, hr, ho, hb, ne_eq, not_true_eq_false, or_self, if_false, Bool.false_eq_true]
  rfl

end

/-- The linear address that a request carries is the one that its home reads. -/
theorem canonLa_toNat (pkg : Nat) (x : Word) : (BitVec.ofNat 64 (canonLa pkg x.toNat)).toNat = canonLa pkg x.toNat := by
  rw [BitVec.toNat_ofNat]
  refine Nat.mod_eq_of_lt ?_
  unfold canonLa
  split
  · exact Nat.lt_of_lt_of_le (Nat.mod_lt _ (by decide)) (by decide)
  · exact x.isLt

/-! Service at the home (R296, R297): what each kind's reply is. -/

section
variable {s : State} {tid : Nat} {t : Thread} {r : Req} {la : Nat} (hla : (nth r.vals 0).toNat = la)
include hla

/-- hwalk: the entry's image, or zeros, where it is asked for, and the entry's TAGW, or 0. -/
theorem svcServed_hwalk (hk : r.kind = .hwalk) {s1 : State} (hs1 : s.atHome (coreOf tid) (la % 2 ^ 43) = s1)
    {e : Option (Nat × Pte)} (he : (s1.pkg (corePkg (coreOf tid))).walkLa (coreDie (coreOf tid)) la = e)
    (hw : State.writeRefused tid r.d (BitVec.ofNat 64 ((e.map fun x => x.2.tagw.toNat).getD 0)) = false) :
    s.svcServed tid t r = (if nth r.vals 1 = 0 then s1 else
      s1.storeBytes r.n ((e.map fun x => x.2.image).getD (List.replicate 32 0))).result tid t r.d
        (BitVec.ofNat 64 ((e.map fun x => x.2.tagw.toNat).getD 0)) := by
  subst hla hs1
  rw [State.atHome] at he ⊢
  simp only [State.svcServed, hk, reduceCtorEq, if_false, he]
  cases e <;> exact finish_accepted hw

theorem svcServed_hotr (hk : r.kind = .hotr) {s1 : State} (hs1 : s.atHome (coreOf tid) (la % 2 ^ 43) = s1) {x : Nat × State}
    (hx : (if laRegion la ≠ 0 then (0, s1) else s1.hotness (corePkg (coreOf tid)) la ((nth r.vals 1).getLsbD 0)) = x)
    (hw : State.writeRefused tid r.d (BitVec.ofNat 64 x.1) = false) :
    s.svcServed tid t r = x.2.result tid t r.d (BitVec.ofNat 64 x.1) := by
  subst hla hs1
  rw [State.atHome] at hx
  simp only [State.svcServed, hk, reduceCtorEq, if_false, hx]
  exact finish_accepted hw

theorem svcServed_hdel (hk : r.kind = .hdel) (hr : laRegion la = 0) {st : Nat} {x : State}
    (hx : (s.atHome (coreOf tid) (la % 2 ^ 43)).uninstall (corePkg (coreOf tid)) (coreDie (coreOf tid)) la = some (st, x))
    (hw : State.writeRefused tid r.d (BitVec.ofNat 64 st) = false) :
    s.svcServed tid t r = x.result tid t r.d (BitVec.ofNat 64 st) := by
  subst hla
  rw [State.atHome] at hx
  simp only [State.svcServed, hk, reduceCtorEq, if_false, hr, ne_eq, not_true_eq_false, hx]
  exact finish_accepted hw

theorem svcServed_hdel_outside (hk : r.kind = .hdel) (hr : laRegion la ≠ 0) (hw : State.writeRefused tid r.d 0 = false) :
    s.svcServed tid t r = (s.atHome (coreOf tid) (la % 2 ^ 43)).result tid t r.d 0 := by
  subst hla
  simp only [State.svcServed, hk, reduceCtorEq, if_false, if_pos hr]
  exact finish_accepted hw

/-- tlbi: the entries of a range, or all, are invalidated at every port. -/
theorem svcServed_tlbi (hk : r.kind = .tlbi) {s1 : State} (hs1 : s.atHome (coreOf tid) (la % 2 ^ 43) = s1) :
    s.svcServed tid t r = (if laRegion la ≠ 0 then s1 else s1.invalidate (corePkg (coreOf tid)) fun e =>
      (nth r.vals 1).toNat == 0 || (decide (e.vpn * 65536 < la + (nth r.vals 1).toNat) &&
        decide (la < (e.vpn + pageUnits e.big) * 65536))).retire tid t := by
  subst hla hs1
  simp only [State.svcServed, hk, reduceCtorEq, if_false]
  rfl

variable (hk : r.kind = .pgmv) (hn : r.n = 0)
include hk hn

theorem svcServed_pgmv_outside (hr : laRegion la ≠ 0) (hw : State.writeRefused tid r.d 1 = false) :
    s.svcServed tid t r = (s.atHome (coreOf tid) (la % 2 ^ 43)).result tid t r.d 1 := by
  subst hla
  simp only [State.svcServed, hk, hn, reduceCtorEq, if_false, ne_eq, not_true_eq_false, hr, not_false_eq_true, if_true]
  exact finish_accepted hw

variable (hr : laRegion la = 0)
include hr

theorem svcServed_pgmv_refused {st : Nat} (hx : (s.atHome (coreOf tid) (la % 2 ^ 43)).beginMove (corePkg (coreOf tid))
    (coreDie (coreOf tid)) la ((nth r.vals 1).toNat % 2 ^ 24) tid r.d = .error st)
    (hw : State.writeRefused tid r.d (BitVec.ofNat 64 st) = false) :
    s.svcServed tid t r = (s.atHome (coreOf tid) (la % 2 ^ 43)).result tid t r.d (BitVec.ofNat 64 st) := by
  subst hla
  rw [State.atHome] at hx
  simp only [State.svcServed, hk, hn, reduceCtorEq, if_false, ne_eq, not_true_eq_false, hr, hx]
  exact finish_accepted hw

theorem svcServed_pgmv_begins {x : State} (hx : (s.atHome (coreOf tid) (la % 2 ^ 43)).beginMove (corePkg (coreOf tid))
    (coreDie (coreOf tid)) la ((nth r.vals 1).toNat % 2 ^ 24) tid r.d = .ok x) :
    s.svcServed tid t r = x.setThread tid { t with wait := .mem { r with n := 1 } } := by
  subst hla
  rw [State.atHome] at hx
  simp only [State.svcServed, hk, hn, reduceCtorEq, if_false, ne_eq, not_true_eq_false, hr, hx]

end

/-- hins: the home of an image is that of its VPN's offset. -/
theorem svcServed_hins {s : State} {tid st : Nat} {t : Thread} {r : Req} {x : State} (hk : r.kind = .hins)
    (hx : (s.atHome (coreOf tid) ((nth r.vals 0).toNat % 2 ^ 27 * 65536)).install (corePkg (coreOf tid))
      (r.vals.flatMap fun v => leBytes 8 v.toNat) = some (st, x))
    (hw : State.writeRefused tid r.d (BitVec.ofNat 64 st) = false) :
    s.svcServed tid t r = x.result tid t r.d (BitVec.ofNat 64 st) := by
  rw [State.atHome] at hx
  simp only [State.svcServed, hk, if_true, hx]
  exact finish_accepted hw

/-! What the requests do to the page table (R290, R296). -/

section
variable {s : State} {pkg la i j : Nat} {x y : Pte} (h0 : (s.pkg pkg).walk 0 la = some (i, x)) (h1 : (s.pkg pkg).walk 1 la = some (j, y))
include h0 h1

theorem hotness_mapped (clear : Bool) : s.hotness pkg la clear =
    (shadowSum ((s.pkg pkg).shadow.at 0 i).toNat ((s.pkg pkg).shadow.at 0 j).toNat,
      if clear then s.modPkg pkg fun k => { k with shadow := (k.shadow.del i).del j } else s) := by
  simp only [State.hotness, h0, h1]

theorem hotness_clears : ((s.hotness pkg la true).2.pkg pkg).shadow = ((s.pkg pkg).shadow.del i).del j := by
  simp only [hotness_mapped h0 h1, if_true, pkg_modPkg]

end

theorem hotness_unmapped {s : State} {pkg la : Nat} (h0 : (s.pkg pkg).walk 0 la = none) (clear : Bool) :
    s.hotness pkg la clear = (0, s) := by
  simp only [State.hotness, h0]

theorem uninstall_unmapped {s : State} {pkg die la : Nat} (h : (s.pkg pkg).walk die la = none) : s.uninstall pkg die la = some (0, s) := by
  simp only [State.uninstall, h]

theorem uninstall_moving {s : State} {pkg die la w : Nat} {e : Pte} (h : (s.pkg pkg).walk die la = some (w, e)) (hm : e.moving = true) :
    s.uninstall pkg die la = none := by
  simp only [State.uninstall, h, hm, if_true]

theorem uninstall_mapped {s : State} {pkg die la w : Nat} {e : Pte} (h : (s.pkg pkg).walk die la = some (w, e)) (hm : e.moving = false) :
    (s.uninstall pkg die la).map (·.1) = some 1 := by
  simp only [State.uninstall, h, hm, Bool.false_eq_true, if_false, Option.map_some]

theorem beginMove_unmapped {s : State} {pkg die la new tid : Nat} {d : BitVec 4} (h : (s.pkg pkg).walk die la = none) :
    s.beginMove pkg die la new tid d = .error 1 := by
  simp only [State.beginMove, h]

theorem install_illegal {s : State} {pkg : Nat} {l : List Byte} (h : imageLegal l = false) : s.install pkg l = some (4, s) := by
  simp only [State.install, h, Bool.not_false, if_true]

/-- A page that neither replica holds is installed unsealed (R296). -/
theorem install_new {s : State} {pkg i j : Nat} {l : List Byte} (h : imageLegal l = true)
    (hs : sameWay (s.pkg pkg).pt ((Pte.ofImage l).base 0) (Pte.ofImage l) = none)
    (h0 : freeWay (s.pkg pkg).pt ((Pte.ofImage l).base 0) = some i) (h1 : freeWay (s.pkg pkg).pt ((Pte.ofImage l).base 1) = some j)
    (ho : overlapsOther (s.pkg pkg).pt (Pte.ofImage l) = false) :
    s.install pkg l = some (0, s.modPkg pkg fun k =>
      { k with pt := (k.pt.put i (Pte.ofImage l)).put j (Pte.ofImage l), sealed := k.sealed.del (Pte.ofImage l).vpn }) := by
  simp only [State.install, h, hs, h0, h1, ho, Bool.not_true, Bool.false_eq_true, if_false]

/-! A page move's switch (R297). -/

/-- Threads, bytes, page-table entries and moves are those of another state. -/
def State.SameTables (s u : State) : Prop :=
  u.threads = s.threads ∧ u.mem = s.mem ∧ ∀ p, (u.pkg p).pt = (s.pkg p).pt ∧ (u.pkg p).moves = (s.pkg p).moves

theorem State.SameTables.refl (s : State) : s.SameTables s := ⟨rfl, rfl, fun _ => ⟨rfl, rfl⟩⟩

theorem State.SameTables.trans {s u w : State} (h : s.SameTables u) (k : u.SameTables w) : s.SameTables w :=
  ⟨k.1.trans h.1, k.2.1.trans h.2.1, fun p => ⟨(k.2.2 p).1.trans (h.2.2 p).1, (k.2.2 p).2.trans (h.2.2 p).2⟩⟩

theorem foldl_sameTables {α : Type} {f : State → α → State} (hf : ∀ (u : State) a, u.SameTables (f u a)) (l : List α) (s : State) :
    s.SameTables (l.foldl f s) := by
  induction l generalizing s with
  | nil => exact .refl s
  | cons a r ih => exact (hf s a).trans (ih _)

/-- Hotness counters that are written back change shadow entries alone (R290). -/
theorem writeBack_sameTables (s : State) (cl : Nat) (l : List TlbEntry) : s.SameTables (s.writeBack cl l) := by
  refine ⟨rfl, rfl, fun p => ?_⟩
  by_cases hp : p = clPkg cl
  · subst hp
    rw [State.writeBack, pkg_modPkg]
    exact ⟨rfl, rfl⟩
  · rw [State.writeBack, pkg_modPkg_ne _ _ hp]
    exact ⟨rfl, rfl⟩

theorem tlbDrop_sameTables (s : State) (pkg : Nat) (f : TlbEntry → Bool) : s.SameTables (s.tlbDrop pkg f) := by
  unfold State.tlbDrop
  refine foldl_sameTables (fun u kv => ?_) ..
  split
  · dsimp only
    split
    · exact .refl u
    · exact (State.SameTables.refl u).trans (writeBack_sameTables ..)
  · exact .refl u

/-- Invalidation reaches TLBs, walks and shadow entries alone (R290, R297). -/
theorem invalidate_sameTables (s : State) (pkg : Nat) (f : TlbEntry → Bool) : s.SameTables (s.invalidate pkg f) := by
  refine (tlbDrop_sameTables s pkg f).trans ?_
  refine foldl_sameTables (f := fun (s : State) (m : Msg) => match m.body with
    | .walkAnswer cl off _ => s.setWalk cl off .queued
    | _ => s) (fun u m => ?_) ..
  split <;> exact .refl u

/-- An entry of a page whose move has switched: it names the new frame, and MV is clear. -/
def Move.entry (m : Move) (big : Bool) (x : Pte) : Pte :=
  if x.valid && x.vpn == m.vpn && x.big == big then
    { x with tagw := x.tagw &&& ~~~0x2000000000000000, frame := BitVec.ofNat 64 m.new }
  else x

/-- The switch of the i-th move of a package: the frame's bytes move, the page's entries name the new frame, and its TLB entries
go (R297). -/
def State.switched (s : State) (pkg i : Nat) (m : Move) (big : Bool) : State :=
  ((s.copyFrame pkg m.old m.new (65536 * pageUnits big)).modPkg pkg fun k =>
    { k with pt := k.pt.map fun x => (x.1, m.entry big x.2), moves := k.moves.eraseIdx i }).invalidate pkg (ofPage m.vpn big)

theorem switched_threads (s : State) (pkg i : Nat) (m : Move) (big : Bool) : (s.switched pkg i m big).threads = s.threads :=
  (invalidate_sameTables ..).1

theorem switched_mem (s : State) (pkg i : Nat) (m : Move) (big : Bool) : (s.switched pkg i m big).mem =
    s.mem.writeBytes (2 ^ 61 + pkg * 2 ^ 40 + m.new * 65536)
      (s.mem.bytes (2 ^ 61 + pkg * 2 ^ 40 + m.old * 65536) (65536 * pageUnits big)) :=
  (invalidate_sameTables ..).2.1

theorem switched_pkg (s : State) (pkg i : Nat) (m : Move) (big : Bool) :
    ((s.switched pkg i m big).pkg pkg).pt = (s.pkg pkg).pt.map (fun x => (x.1, m.entry big x.2)) ∧
      ((s.switched pkg i m big).pkg pkg).moves = (s.pkg pkg).moves.eraseIdx i := by
  obtain ⟨-, -, tables⟩ := invalidate_sameTables ((s.copyFrame pkg m.old m.new (65536 * pageUnits big)).modPkg pkg fun k =>
    { k with pt := k.pt.map fun x => (x.1, m.entry big x.2), moves := k.moves.eraseIdx i }) pkg (ofPage m.vpn big)
  obtain ⟨hp, hm⟩ := tables pkg
  rw [pkg_modPkg] at hp hm
  exact ⟨hp, hm⟩

/-- pgmv, which waits for the move's end, completes with 0 (R297). -/
theorem pageMoveSwitch_completes {s : State} {n i : Nat} {m : Move} {e : Pte} {t : Thread} {r : Req}
    (hm : (s.pkg (n % 8192)).moves[n / 8192]? = some m) (he : (s.pkg (n % 8192)).walk 0 (m.vpn * 65536) = some (i, e))
    (ht : s.thread m.tid = some t) (hw : t.wait = .mem r) (hk : r.kind = .pgmv) (hn : r.n = 1)
    (ha : State.writeRefused m.tid r.d 0 = false) :
    exec (.pageMoveSwitch n) s = .next ((s.switched (n % 8192) (n / 8192) m e.big).result m.tid t r.d 0) := by
  have waits : (s.switched (n % 8192) (n / 8192) m e.big).thread m.tid = some t := by
    rw [State.thread, switched_threads]
    exact ht
  simp only [exec_pageMoveSwitch, execPageMoveSwitch, hm, he]
  split
  · next u hu =>
    obtain rfl : u = t := Option.some.inj (hu.symm.trans waits)
    simp only [hw, hk, hn, and_self, if_true]
    exact congrArg _ (finish_accepted ha)
  · next hu => exact absurd (hu.symm.trans waits) nofun

end Sys2Proof.Machine
end

section
namespace Sys2Proof.Machine

/-- hwalk's reply is the entry's TAGW as it stands. -/
theorem tagw_ofNat (e : Option (Nat × Pte)) :
    BitVec.ofNat 64 ((e.map fun x => x.2.tagw.toNat).getD 0) = (e.map fun x => x.2.tagw).getD 0 := by
  cases e with
  | none => rfl
  | some x => simp

/-- The page-table instructions of R295 to R297. -/
theorem pageTableChanges_hold : pageTableChanges := by
  refine ⟨?_, ?_, ?_, ?_, ?_⟩
  · intro p q d a b s s1 t v h hs hc c pkg la req asks at_ through gives tagOf
    have hla : ∀ k i e n, (nth (req k i e n).vals 0).toNat = la := fun _ _ _ _ => canonLa_toNat ..
    have serves : ∀ {k i e n} {w : State}, k ∈ ReqKind.svc → exec i s = .next (asks (req k i e n)) →
        (asks (req k i e n)).svcServed s.cur (t.waiting (.mem (req k i e n))) (req k i e n) = w → through i (req k i e n) w :=
      fun hk run served => svc_through hk rfl rfl run served
    have near : laRegion la = 0 → ∀ x : State, (x.pkg pkg).walkLa (coreDie c) la = (x.pkg pkg).walk (coreDie c) la :=
      fun hr _ => if_pos hr
    have far : laRegion la ≠ 0 → ∀ x : State, (x.pkg pkg).walkLa (coreDie c) la = none := fun hr _ => if_neg hr
    refine ⟨fun r hr => ⟨fun hz hw => ?_, fun out hz hk ho hc' hw => ?_, fun hw => ?_, fun st hx hw => ?_, fun x hx => ?_⟩,
      fun r hr st x hx hw => ?_, fun r hr => ?_,
      fun hr => ⟨fun r => ⟨fun hw => ?_, fun hz hw => ?_, fun out hz hk ho hc' hw => ?_, fun hw => ?_⟩, fun r hw => ?_, fun r => ?_⟩,
      fun x r hk ho hc' hb st z hz hw => ?_⟩
    · refine serves (by decide) (hwalk_asks h hs hc r hz) ((svcServed_hwalk (hla ..) rfl rfl (near hr _) hw).trans ?_)
      exact congrArg (State.result · _ _ _ _) (if_pos hz)
    · refine serves (by decide) (hwalk_asksImage h hs hc r hz hk ho hc') ((svcServed_hwalk (hla ..) rfl rfl (near hr _) hw).trans ?_)
      exact congrArg (State.result · _ _ _ _) (if_neg hz)
    · exact serves (by decide) (svc_asks h hs hc r) (svcServed_hotr (hla ..) rfl rfl (if_neg (not_not_intro hr)) hw)
    · exact serves (by decide) (svc_asks h hs hc r) (svcServed_pgmv_refused (hla ..) rfl rfl hr hx hw)
    · exact serves (by decide) (svc_asks h hs hc r) (svcServed_pgmv_begins (hla ..) rfl rfl hr hx)
    · exact serves (by decide) (svc_asks h hs hc r) (svcServed_hdel (hla ..) rfl hr hx hw)
    · refine serves (by decide) (svc_asks h hs hc r) ((svcServed_tlbi (hla ..) rfl rfl).trans ?_)
      exact congrArg (State.retire · _ _) (if_neg (not_not_intro hr))
    · exact serves (by decide) (svc_asks h hs hc r) (svcServed_hotr (hla ..) rfl rfl (if_pos hr) hw)
    · refine serves (by decide) (hwalk_asks h hs hc r hz) ((svcServed_hwalk (hla ..) rfl rfl (far hr _) hw).trans ?_)
      exact congrArg (State.result · _ _ _ _) (if_pos hz)
    · refine serves (by decide) (hwalk_asksImage h hs hc r hz hk ho hc') ((svcServed_hwalk (hla ..) rfl rfl (far hr _) hw).trans ?_)
      exact congrArg (State.result · _ _ _ _) (if_neg hz)
    · exact serves (by decide) (svc_asks h hs hc r) (svcServed_pgmv_outside (hla ..) rfl rfl hr hw)
    · exact serves (by decide) (svc_asks h hs hc r) (svcServed_hdel_outside (hla ..) rfl hr hw)
    · refine serves (by decide) (svc_asks h hs hc r) ((svcServed_tlbi (hla ..) rfl rfl).trans ?_)
      exact congrArg (State.retire · _ _) (if_pos hr)
    · exact svc_through (show ReqKind.hins ∈ ReqKind.svc by decide) rfl rfl (hins_asks h hs hc r hk ho hc' hb) (svcServed_hins rfl hz hw)
  · intro s tid t r ht hw hh c pkg la s1 s3
    have serves : ∀ {k w}, r.kind = k → k ∈ ReqKind.svc → s.svcServed tid t r = w → exec (.memoryReply tid) s = .next w :=
      fun hk hm served => (memoryReply_svc ht hw hh (hk ▸ hm)).trans (congrArg _ served)
    refine ⟨fun v hk hz hr hv hw => ?_, fun st s2 hk hx hw => ?_, fun hw hr => ⟨fun hk he => ?_, fun hk he => ?_⟩, fun hk hz hr => ?_,
      fun hk hn hr he hw => ?_⟩
    · rw [← tagw_ofNat] at hv
      subst hv
      refine serves hk (by decide) ((svcServed_hwalk rfl hk rfl (if_pos hr) hw).trans ?_)
      exact congrArg (State.result · _ _ _ _) (if_pos hz)
    · exact serves hk (by decide) (svcServed_hins hk hx hw)
    · exact serves hk (by decide) (svcServed_hdel rfl hk hr (uninstall_unmapped he) hw)
    · exact serves hk (by decide)
        (svcServed_hotr rfl hk rfl ((if_neg (not_not_intro hr)).trans (hotness_unmapped he _)) hw)
    · refine serves hk (by decide) ((svcServed_tlbi rfl hk rfl).trans ?_)
      rw [if_neg (not_not_intro hr), hz]
      rfl
    · exact serves hk (by decide) (svcServed_pgmv_refused rfl hk hn hr (beginMove_unmapped he) hw)
  · intro s pkg die la i j x y h0 h1
    exact ⟨congrArg Prod.fst (hotness_mapped h0 h1 false), congrArg Prod.snd (hotness_mapped h0 h1 false), hotness_clears h0 h1,
      fun w e he => ⟨uninstall_mapped he, uninstall_moving he⟩⟩
  · intro s pkg l
    exact ⟨install_illegal, fun i j h hs h0 h1 ho => install_new h hs h0 h1 ho⟩
  · intro s n i m e t r pkg frame moved hm he ht hw hk hn ha
    obtain ⟨hp, hv⟩ := switched_pkg s pkg (n / 8192) m e.big
    exact ⟨s.switched pkg (n / 8192) m e.big, pageMoveSwitch_completes hm he ht hw hk hn ha, switched_threads .., switched_mem .., hv, hp⟩

/-- Settles O42: the walks of a home and their wakes, and the page-table instructions from issue through service to reply. -/
theorem pageTable : Obligations.PageTable := ⟨pageWalks_hold, pageTableChanges_hold⟩

end Sys2Proof.Machine
end

section
namespace Sys2Proof.Machine

/-! The parts of State by number, where an update of another part leaves them. -/

@[simp] theorem core_setFull (s : State) (la c : Nat) (b : Bool) : (s.setFull la b).core c = s.core c := rfl
@[simp] theorem core_store (s : State) (k n v c : Nat) : (s.store k n v).core c = s.core c := rfl

theorem engine_modEngine_ne (s : State) {e j : Nat} (f : Engine → Engine) (h : j ≠ e) : (s.modEngine e f).engine j = s.engine j :=
  at_put_ne _ _ _ h

end Sys2Proof.Machine
end

section
namespace Sys2Proof.Machine

/-! Writes of the core's own registers, and when they take effect (R193, R199, R221, R222). -/

theorem effect_privRuns {word : Word32} {len : Nat} {p : BitVec 3} {q : BitVec 1} {srcs : List (BitVec 4)} {s s1 : State} {t : Thread}
    {v : List Word} {f : Nat → Thread → List Word → State → State} (h : s.Issues p q len t) (hs : t.sup = true)
    (r : s.Reads t srcs [] v s1) : effect word len p q srcs s f (priv := true) = .next (f s.cur t v s1) := by
  rw [effect, frame_priv h hs, operands_ready r]

/-- R193: every slot is named by one of the sixteen fields. -/
theorem isPermutation_iff (x : Word) :
    isPermutation x = true ↔ ∀ y, y < 16 → ∃ i, i < 16 ∧ x.toNat / 2 ^ (4 * i) % 16 = y := by
  have field (i : Nat) : bits x.toNat (4 * i + 3) (4 * i) = x.toNat / 2 ^ (4 * i) % 16 := by
    rw [bits, show 4 * i + 3 + 1 - 4 * i = 4 by omega, show 2 ^ 4 = 16 from rfl]
  simp only [isPermutation, List.all_eq_true, List.any_eq_true, List.mem_range, beq_iff_eq, field]

/-- R199: what the first 30 bytes of a slot table may hold. -/
theorem slotTabLegal_iff (b : List Byte) :
    slotTabLegal b = true ↔ ∀ x ∈ b.take 30, x.toNat < 16 ∨ x.toNat = 255 := by
  simp only [slotTabLegal, List.all_eq_true, Bool.or_eq_true, decide_eq_true_eq, beq_iff_eq, ← BitVec.toNat_inj]
  rfl

section
variable {p : BitVec 3} {q : BitVec 1} {a : BitVec 4} {s s1 : State} {t : Thread} {v : List Word}
  (h : s.Issues p q 4 t) (hs : t.sup = true) (r : s.Reads t [a] [] v s1)
include h hs r

theorem wrsrRotmode_pends : exec (.wrsrRotmode p q a) s =
    .next ((s1.modCore (coreOf s.cur) fun k => { k with rotPend := some ((nth v 0).getLsbD 0) }).retire s.cur t) := by
  rw [exec_wrsrRotmode, execWrsrRotmode, effect_privRuns h hs r]

theorem wrsrDonord_answers : exec (.wrsrDonord p q a) s = .next (
    if isPermutation (nth v 0) then (s1.modCore (coreOf s.cur) fun k => { k with donord := nth v 0 }).retire s.cur t
    else s.trap s.cur t 1 ((wordOf (.wrsrDonord p q a)).setWidth 64)) := by
  rw [exec_wrsrDonord, execWrsrDonord, act_privRuns h hs r]
  rfl

theorem wrsrSlottab_copies {la : Nat} (hc : s1.check (coreOf s.cur) t.ctx (nth v 0) 32 segR 1 = .ok la) (hr : laRegion la = 1)
    (hl : laCore la = coreOf s.cur) (hb : s1.isBad la 32 = false) (legal : slotTabLegal (s1.mem.bytes la 32) = true) :
    exec (.wrsrSlottab p q a) s = .next ((s1.modCore (coreOf s.cur) fun k =>
      { k with slotPend := some (s1.mem.bytes la 32), slotOff := BitVec.ofNat 20 (laOff la) }).retire s.cur t) := by
  have here : ¬ (laRegion la ≠ 1 ∨ laCore la ≠ coreOf s.cur) := by simp [hr, hl]
  rw [exec_wrsrSlottab, execWrsrSlottab, act_privRuns h hs r]
  simp only [hc, if_neg here, hb, legal, Bool.not_true, Bool.false_eq_true, if_false]

theorem wrsrAcct_sets : exec (.wrsrAcct p q a) s = .next ((s1.modCore (coreOf s.cur) fun k =>
    { k with acctArea := BitVec.ofNat 10 ((nth v 0).toNat / 1024), acctClr := (nth v 0).getLsbD 2,
             acctSnap := k.acctSnap || (nth v 0).getLsbD 1, acctRun := (nth v 0).getLsbD 0 }).retire s.cur t) := by
  have area : (nth v 0 >>> 10).setWidth 10 = BitVec.ofNat 10 ((nth v 0).toNat / 1024) := by
    apply BitVec.eq_of_toNat_eq
    simp [Nat.shiftRight_eq_div_pow]
  rw [exec_wrsrAcct, execWrsrAcct, effect_privRuns h hs r, ← area]

end

/-! The snapshot (R221, R222): taken at one instant, written a word a turn. -/

theorem acctSnapshot_takes {s : State} {c : Nat} (hc : c < 2 ^ 47) (hs : (s.core c).acctSnap = true) (ho : (s.core c).acctOut = [])
    (hl : 1024 * (s.core c).acctArea.toNat + 1024 ≤ lsSize c) :
    exec (.acctSnapshot c) s = .next (s.setCore c { s.core c with
      acctOut := (List.range 113).map fun i => (lsAddr c (1024 * (s.core c).acctArea.toNat + 8 * i), (s.core c).acctCnt.at 0 i),
      acctCnt := if (s.core c).acctClr then [] else (s.core c).acctCnt }) := by
  have wanted : ((s.core c).acctSnap && (s.core c).acctOut.isEmpty) = true := by rw [hs, ho]; rfl
  rw [exec_acctSnapshot, execAcctSnapshot, if_neg (by omega), State.modCore, Core.takeSnapshot, if_pos wanted, Core.acctDump,
    if_pos hl]
  simp only [hs]
  rfl

theorem acctSnapshot_writes {s : State} {c la v : Nat} {r : List (Nat × Nat)} (ho : (s.core c).acctOut = (la, v) :: r) :
    exec (.acctSnapshot (2 ^ 47 + c)) s = .next (((s.modCore c fun k =>
      { k with acctOut := r, acctSnap := k.acctSnap && !r.isEmpty }).store la 8 v).setFull la true) := by
  rw [exec_acctSnapshot, execAcctSnapshot, if_pos (by omega), Nat.add_sub_cancel_left, State.writeSnapshot, ho]

/-- Settles O19: the writes once the frame has let them run, then the switch of the rotation and the two steps of a snapshot. -/
theorem coreRegisterWrites : Obligations.CoreRegisterWrites := by
  refine ⟨?writes, fun s c b hm hb => ?_, fun s c hc hs ho hl => acctSnapshot_takes hc hs ho hl, fun s c la v r hw ho => ?_⟩
  case writes =>
    intro p q a s t v s1 h r hs x c
    refine ⟨wrsrRotmode_pends h hs r, fun perm => ?_, fun perm => ?_, fun la hc hr hl hb legal => ?_, wrsrAcct_sets h hs r⟩
    · rw [wrsrDonord_answers h hs r, if_pos ((isPermutation_iff _).2 perm)]
    · rw [wrsrDonord_answers h hs r, if_neg fun legal => perm ((isPermutation_iff _).1 legal)]
    · exact wrsrSlottab_copies h hs r hc hr hl hb ((slotTabLegal_iff _).2 legal)
  · rw [exec_rotmodeSwitch, execRotmodeSwitch, if_pos hm, State.modCore, hb]
    rfl
  · refine ⟨_, acctSnapshot_writes ho, ?_, rfl, ?_, ?_, ?_, isFull_setFull .., fun k hk => byte_write_ne hw hk⟩
    · rw [core_setFull, core_store, core_modCore]
    · rw [core_setFull, core_store, core_modCore]
    · rw [core_setFull, core_store, core_modCore]
    · exact read_write la 8 v hw

end Sys2Proof.Machine
end

section
namespace Sys2Proof.Machine

/-! Breakpoints and tracing (R375 to R377): a change is asked for at issue and made on every core at the reply (R325). -/

/-- What a debug request makes of its context, by its number (R376, R377). -/
def Context.debugged (n : Nat) (vals : List Word) (k : Context) : Context :=
  match n with
  | 0 => { k with bps := k.bps.put ((nth vals 0).toNat % 16) (nth vals 1 &&& ~~~3, (nth vals 1).getLsbD 0) }
  | 1 => { k with bps := k.bps.del ((nth vals 0).toNat % 16) }
  | 2 => { k with trace := (nth vals 0).setWidth 3 }
  | _ => { k with trace := 0 }

theorem debugServed_eq (s : State) (tid : Nat) (t : Thread) (r : Req) : s.debugServed tid t r =
    ((s.modCtx (cxOf (coreOf tid) t) (Context.debugged r.n r.vals)).toldCores tid (cxOf (coreOf tid) t)).retire tid t := rfl

theorem toldCores_setThread (s : State) (j tid cx : Nat) (x : Thread) :
    (s.setThread j x).toldCores tid cx = (s.toldCores tid cx).setThread j x := by
  rw [State.toldCores, State.toldCores]
  refine List.foldl_hom (State.setThread · j x) fun s e => ?_
  dsimp only
  split <;> rfl

/-- What the waiting thread's slot held does not outlive the reply. -/
theorem debugServed_setThread (s : State) (tid : Nat) (t x : Thread) (r : Req) :
    (s.setThread tid x).debugServed tid t r = s.debugServed tid t r := by
  have made (f : Context → Context) (cx : Nat) : (s.setThread tid x).modCtx cx f = (s.modCtx cx f).setThread tid x := rfl
  rw [debugServed_eq, debugServed_eq, made, toldCores_setThread, State.retire, setThread_setThread]
  rfl

theorem memoryReply_dbg {s : State} {tid : Nat} {t : Thread} {r : Req} (ht : s.thread tid = some t) (hw : t.wait = .mem r)
    (hk : r.kind = .dbg) (hl : r.locs = []) : exec (.memoryReply tid) s =
      .next (((s.modCtx (cxOf (coreOf tid) t) (Context.debugged r.n r.vals)).toldCores tid (cxOf (coreOf tid) t)).retire tid t) := by
  rw [← debugServed_eq]
  rcases hh : r.held with _ | _
  · rw [memoryReply_serves ht hw hh]
    simp only [State.served, hk]
  · rw [memoryReply_placeless ht hw hl hh]
    simp only [State.served, hk, debugServed_setThread]
    rfl

section
variable {p : BitVec 3} {q : BitVec 1} {srcs : List (BitVec 4)} {word : Word32} {n : Nat} {legal : List Word → Bool} {s s1 : State}
  {t : Thread} {v : List Word} (h : s.Issues p q 4 t) (r : s.Reads t srcs [] v s1)
include h r

theorem debugWrite_refused (hl : legal v = false) :
    debugWrite word p q srcs n legal s = .next (s.trap s.cur t 1 (word.setWidth 64)) := by
  rw [debugWrite, act_runs h r]
  simp only [hl, Bool.not_false, if_true]

theorem debugWrite_asks (hx : t.relaxed = []) (hl : legal v = true) :
    debugWrite word p q srcs n legal s = .next (s1.wait s.cur t (.mem { kind := .dbg, vals := v, n := n })) := by
  rw [debugWrite, act_runs h r]
  simp only [hl, Bool.not_true, Bool.false_eq_true, if_false, drained_none hx]

end

/-- The reply to a debug request that has just been asked. -/
theorem memoryReply_debugWrite (s1 : State) (tid n : Nat) (t : Thread) (v : List Word) :
    let w : Wait := .mem { kind := .dbg, vals := v, n := n }
    exec (.memoryReply tid) (s1.wait tid t w) = .next ((((s1.wait tid t w).modCtx (cxOf (coreOf tid) t)
      (Context.debugged n v)).toldCores tid (cxOf (coreOf tid) t)).retire tid (t.waiting w)) := by
  intro w
  have waits : (s1.wait tid t w).thread tid = some (t.waiting w) := by rw [wait_placeless rfl rfl, thread_setThread]
  exact memoryReply_dbg waits rfl rfl rfl

/-! snap (R378). -/

section
variable {p : BitVec 3} {q : BitVec 1} {d a : BitVec 4} {s s1 : State} {t : Thread} {v : List Word} {la : Nat}
  (h : s.Issues p q 4 t) (r : s.Reads t [a] [d] v s1) (hc : s1.check (coreOf s.cur) t.ctx (nth v 0) 128 segW 128 = .ok la)
include h r hc

theorem snap_elsewhere (hr : laRegion la ≠ 1) : exec (.snap p q d a) s = .next (s.trap s.cur t 0x0C (nth v 0)) := by
  rw [exec_snap, execSnap]
  simp only [act_runs h r, hc, if_pos (Or.inl hr)]

variable (hr : laRegion la = 1) (hl : laCore la = coreOf s.cur)
include hr hl

theorem snap_drains (hx : (t.relaxed.any fun x => s1.touches x (.loc la) 128) = true) :
    exec (.snap p q d a) s = .next (s.wait s.cur t (.mem { kind := .drain })) := by
  rw [exec_snap, execSnap]
  simp only [act_runs h r, hc, hr, hl, hx, ne_eq, not_true_eq_false, or_self, if_false, if_true]

theorem snap_writes (hx : (t.relaxed.any fun x => s1.touches x (.loc la) 128) = false) :
    let s2 := s1.storeBytes la ({ t with pc := t.pc + 4 }.packet (coreOf s.cur) (s1.wakePending s.cur t.ctx) 1)
    State.writeRefused s.cur d (BitVec.ofNat 64 (s2.time (coreOf s.cur))) = false →
      exec (.snap p q d a) s = .next (s2.result s.cur t d (BitVec.ofNat 64 (s2.time (coreOf s.cur)))) := by
  intro s2 hw
  rw [exec_snap, execSnap]
  simp only [act_runs h r, hc, hr, hl, hx, ne_eq, not_true_eq_false, or_self, Bool.false_eq_true, if_false]
  exact congrArg _ (finish_accepted hw)

end

/-! Hardware breakpoints (R376). -/

theorem hardwareBreakpoint_traps {s : State} {n : Nat} {t : Thread} {x : Word} (ht : s.thread s.cur = some t)
    (hb : (s.ctx (cxOf (coreOf s.cur) t)).bps.find? n = some (x, false)) :
    exec (.hardwareBreakpoint n) s = .next (s.trap s.cur t 0x10 0) := by
  rw [exec_hardwareBreakpoint, execHardwareBreakpoint]
  simp only [ht, hb, Bool.not_false, if_true]

theorem hardwareBreakpoint_stops {s : State} {n : Nat} {t : Thread} {x : Word} (ht : s.thread s.cur = some t)
    (hb : (s.ctx (cxOf (coreOf s.cur) t)).bps.find? n = some (x, true)) (hx : t.relaxed = []) :
    ∃ r : Rec, r.kind = 0x85 ∧ r.src = srcOf s.cur ∧ exec (.hardwareBreakpoint n) s =
      .next ((s.setThread s.cur { t with wait := .stopped }).traceHard (cxOf (coreOf s.cur) t) (coreDie (coreOf s.cur)) r) := by
  rw [exec_hardwareBreakpoint, execHardwareBreakpoint]
  simp only [ht, hb, hx, List.isEmpty_nil, Bool.not_true, Bool.false_eq_true, if_false]
  exact ⟨_, rfl, rfl, rfl⟩

/-! Time (R364, R402). -/

theorem timeMessage_ignored {s : State} {pkg carried delay : Nat} (h : s.fab.sent < carried ∨ s.ticks + 50 < carried + delay) :
    exec (.timeMessage pkg carried delay) s = .next s := by
  rw [exec_timeMessage, execTimeMessage, if_neg (by omega)]

/-- D takes the carried time plus the delay, and never goes back. -/
theorem timeMessage_advances {s : State} {pkg carried delay : Nat} (hd : s.ticks ≤ carried + delay) (hs : carried ≤ s.fab.sent)
    (hn : carried + delay ≤ s.ticks + 50) : ∃ s2 : State, exec (.timeMessage pkg carried delay) s = .next s2 ∧
      s2.ticks + (s2.pkg pkg).d = Nat.max (s.ticks + (s.pkg pkg).d) (carried + delay) ∧ s2.mem = s.mem ∧ s2.threads = s.threads := by
  rw [exec_timeMessage, execTimeMessage, if_pos ⟨hs, hn⟩]
  refine ⟨_, rfl, ?_, rfl, rfl⟩
  rw [pkg_modPkg]
  change s.ticks + max (s.pkg pkg).d (carried + delay - s.ticks) = max (s.ticks + (s.pkg pkg).d) (carried + delay)
  omega

/-- Where no package has a trace record to send, nothing goes to a host. -/
theorem flushAll_quiet {s : State} {l : List (Nat × Package)} (h : ∀ e ∈ l, e.2.traces = []) :
    l.foldl (fun s e => if e.2.traces.isEmpty then s else s.flushTraces e.1) s = s :=
  foldl_same fun e he => by rw [h e he]; rfl

theorem timeStampCounterTick_quiet {s : State} (h : ∀ e ∈ s.pkgs, e.2.traces = []) : exec .timeStampCounterTick s = .next (
    let n : State := { s with ticks := s.ticks + 1 }
    if (s.ticks + 1) % 1000 = 0 ∧ s.fab.masterUp = true then n.modFab fun f => { f with sent := s.ticks + 1 } else n) := by
  rw [exec_timeStampCounterTick, execTimeStampCounterTick]
  dsimp only
  split <;> exact congrArg _ (flushAll_quiet h)

theorem masterTimeFailover_up {s : State} (h : NatSet.has s.fab.down (downSw (spineSw 0 s.fab.master)) = false) :
    exec .masterTimeFailover s = .next s := by
  have up : s.fab.masterUp = true := by rw [Fabric.masterUp, h]; rfl
  rw [exec_masterTimeFailover, execMasterTimeFailover, if_neg (by simp [up])]

/-- The lowest spine of plane 0 that is up takes over. -/
theorem masterTimeFailover_moves {s : State} {i : Nat} (h : NatSet.has s.fab.down (downSw (spineSw 0 s.fab.master)) = true) (hi : i < 9)
    (hu : NatSet.has s.fab.down (downSw (spineSw 0 i)) = false)
    (hl : ∀ j, j < i → NatSet.has s.fab.down (downSw (spineSw 0 j)) = true) :
    exec .masterTimeFailover s = .next (s.modFab fun f => { f with master := i }) := by
  have down : s.fab.masterUp = false := by rw [Fabric.masterUp, h]; rfl
  have lowest : (List.range 9).find? (fun i => !NatSet.has s.fab.down (downSw (spineSw 0 i))) = some i :=
    List.find?_range_eq_some.2 ⟨by rw [hu]; rfl, List.mem_range.2 hi, fun j hj => by rw [hl j hj]; rfl⟩
  rw [exec_masterTimeFailover, execMasterTimeFailover, if_pos down, lowest]

/-! The time account (R222). -/

theorem acctClass_le (t : Option Thread) : acctClass t ≤ 4 := by
  cases t with
  | none => exact Nat.le_refl 4
  | some t =>
    rw [acctClass]
    cases t.wait <;> exact Nat.le_of_ble_eq_true rfl

theorem acctRun_count (k : Core) (i : Nat) : (k.count i).acctRun = k.acctRun := by
  rw [Core.count]
  split <;> rfl

theorem acctCnt_count {k : Core} {i : Nat} (h : k.acctRun = true) :
    (k.count i).acctCnt = k.acctCnt.put i ((k.acctCnt.at 0 i + 1) % 2 ^ 64) := by
  rw [Core.count, if_pos h]

/-- A core that has counted every cycle so far counts this one: its position's class, and its bucket of Ready slots. -/
theorem countCycle_running {s : State} {c : Nat} (hc : (s.core c).counted = s.clock) (hr : (s.core c).acctRun = true) :
    let i := 6 * (s.clock % 16) + acctClass (s.thread (16 * c + s.clock % 16))
    let b := 96 + s.readySlots c
    let up (m : NatMap Nat) (i : Nat) : NatMap Nat := m.put i ((m.at 0 i + 1) % 2 ^ 64)
    ((s.countCycle c).core c).acctCnt = up (up (s.core c).acctCnt i) b := by
  intro i b up
  have idle : (s.core c).countIdle s.clock = s.core c := by rw [Core.countIdle, if_pos (Or.inr (Nat.le_of_eq hc.symm))]
  rw [State.countCycle, core_modCore, idle]
  change (((s.core c).count i).count b).acctCnt = _
  rw [acctCnt_count (hr ▸ acctRun_count _ i), acctCnt_count hr]

theorem timeAccountCycle_counts {s : State} {c : Nat} (hc : (s.core c).counted = s.clock) (hr : (s.core c).acctRun = true) :
    let i := 6 * (s.clock % 16) + acctClass (s.thread (16 * c + s.clock % 16))
    let b := 96 + s.readySlots c
    ∃ s2 : State, exec (.timeAccountCycle c) s = .next s2 ∧ s2.threads = s.threads ∧ s2.mem = s.mem ∧
      (s2.core c).acctCnt.at 0 i = ((s.core c).acctCnt.at 0 i + 1) % 2 ^ 64 ∧
      (s2.core c).acctCnt.at 0 b = ((s.core c).acctCnt.at 0 b + 1) % 2 ^ 64 ∧
      ∀ j, j ≠ i → j ≠ b → (s2.core c).acctCnt.at 0 j = (s.core c).acctCnt.at 0 j := by
  intro i b
  have apart : i < b := by
    have := acctClass_le (s.thread (16 * c + s.clock % 16))
    have := Nat.mod_lt s.clock (show 0 < 16 by decide)
    omega
  refine ⟨s.countCycle c, rfl, rfl, rfl, ?_, ?_, fun j hi hb => ?_⟩ <;> rw [countCycle_running hc hr]
  · rw [at_put_ne _ _ _ (Nat.ne_of_lt apart), at_put_same]
  · rw [at_put_same, at_put_ne _ _ _ (Nat.ne_of_gt apart)]
  · rw [at_put_ne _ _ _ hb, at_put_ne _ _ _ hi]

/-- Settles O55: debug changes from issue to reply, snap, breakpoints, then the time messages, the tick, the master and the account. -/
theorem debugAndTime : Obligations.DebugAndTime := by
  refine ⟨?asked, ?made, ?snap, ?breakpoints, fun s pkg carried delay => ⟨timeMessage_ignored, timeMessage_advances⟩, fun s => ⟨?tick,
    masterTimeFailover_up, fun hd i => masterTimeFailover_moves hd⟩, fun s c => timeAccountCycle_counts⟩
  case asked =>
    intro p q a b s s1 t v h hx cx asks gives i
    refine ⟨fun r => ⟨fun hl => ⟨?_, ?_⟩, fun hl => ?_⟩, fun r => ⟨⟨?_, ?_⟩, ?_, ?_⟩, fun r => ⟨?_, ?_⟩⟩
    · exact debugWrite_asks h r hx (decide_eq_true hl)
    · exact memoryReply_debugWrite s1 s.cur 0 t v
    · exact debugWrite_refused h r (decide_eq_false (by omega))
    · exact debugWrite_asks h r hx rfl
    · exact memoryReply_debugWrite s1 s.cur 1 t v
    · exact debugWrite_asks h r hx rfl
    · exact memoryReply_debugWrite s1 s.cur 2 t v
    · exact debugWrite_asks h r hx rfl
    · exact memoryReply_debugWrite s1 s.cur 3 t v
  case made =>
    intro s tid t r ht hw hk hl i b cx made
    have reply := memoryReply_dbg ht hw hk hl
    refine ⟨fun hn => ?_, fun hn => ?_, fun hn => ?_, fun hn => ?_⟩ <;> rw [hn] at reply <;> exact reply
  case snap =>
    intro p q d a s s1 t v la h r hc
    exact ⟨snap_drains h r hc, snap_writes h r hc, snap_elsewhere h r hc⟩
  case breakpoints =>
    intro s n t x ht c
    exact ⟨hardwareBreakpoint_traps ht, hardwareBreakpoint_stops ht⟩
  case tick =>
    intro quiet n
    have tick := timeStampCounterTick_quiet quiet
    refine ⟨fun silent => tick.trans (congrArg _ (if_neg ?_)), fun whole up => tick.trans (congrArg _ (if_pos ⟨whole, up⟩))⟩
    rintro ⟨whole, up⟩
    rcases silent with no | no
    · exact no whole
    · exact Bool.false_ne_true (no.symm.trans up)

end Sys2Proof.Machine
end

section
namespace Sys2Proof.Machine

/-! What a failure comes to (R224, R312, R328, R351, R381, R383 to R385, R398, R399, R401, R419). -/

/-- What every step of a fold keeps, the fold keeps. -/
theorem foldl_keeps {α β : Type} (g : State → β) {f : State → α → State} (hf : ∀ s a, g (f s a) = g s) (l : List α) (s : State) :
    g (l.foldl f s) = g s := by
  induction l generalizing s with
  | nil => rfl
  | cons a r ih => exact (ih _).trans (hf s a)

/-! The health word (R399). -/

section
variable (s : State) (pkg : Nat)

theorem tellHealth_pkgs : (s.tellHealth pkg).pkgs = s.pkgs := by
  rw [State.tellHealth]
  exact foldl_keeps State.pkgs (by intros; rfl) _ s

theorem tellHealth_threads : (s.tellHealth pkg).threads = s.threads := by
  rw [State.tellHealth]
  exact foldl_keeps State.threads (by intros; rfl) _ s

theorem tellHealth_mem : (s.tellHealth pkg).mem = s.mem := by
  rw [State.tellHealth]
  exact foldl_keeps State.mem (by intros; rfl) _ s

theorem pkg_setHealth (w : Word) : (s.setHealth pkg w).pkg pkg = { s.pkg pkg with health := w } := by
  rw [State.setHealth]
  split
  next same => rw [same]
  next => rw [State.pkg, tellHealth_pkgs]; exact pkg_modPkg ..

theorem pkg_lost (hi lo n : Nat) : (s.lost pkg hi lo n).pkg pkg =
    { s.pkg pkg with repaired := false, health := addField ((s.pkg pkg).health ||| rreq) hi lo n } := by
  rw [State.lost, pkg_setHealth, State.unrepaired, pkg_modPkg]

end

/-! Threads that stop (R224, R373). -/

section
variable (s : State)

theorem traceHard_threads (cx die : Nat) (r : Rec) : (s.traceHard cx die r).threads = s.threads := by
  rw [State.traceHard]
  split <;> rfl

theorem thread_stopThread (tid : Nat) (t : Thread) (detail : Nat) :
    (s.stopThread tid t detail).thread tid = some { t with wait := .stopped, prefixed := false } := by
  rw [State.stopThread, State.thread, traceHard_threads]
  exact thread_setThread ..

/-- A thread taken from its wait keeps its pc. -/
theorem abandon_pc (tid : Nat) (t : Thread) : (s.abandon tid t).2.pc = t.pc := by
  rw [State.abandon]
  dsimp only
  split <;> rfl

theorem stopNow_stops {tid detail : Nat} {t : Thread} (ht : s.thread tid = some t) (hw : t.wait ≠ .stopped) :
    ∃ (s1 : State) (u : Thread), s.stopNow tid detail = s1.stopThread tid u detail ∧ u.pc = t.pc ∧
      ((s.stopNow tid detail).thread tid).map (·.wait) = some .stopped := by
  have stops : s.stopNow tid detail = ((s.dropRequests tid).abandon tid t).1.stopThread tid ((s.dropRequests tid).abandon tid t).2 detail := by
    simp only [State.stopNow, ht, if_neg hw]
  refine ⟨_, _, stops, abandon_pc .., ?_⟩
  rw [stops, thread_stopThread]
  rfl

end

section
variable {s : State}

theorem uncorrectableThreadState_stops {tid : Nat} (h : (s.thread tid).isSome = true) : exec (.uncorrectableThreadState tid) s =
    .next ((s.stopNow tid 3).modCore (coreOf tid) fun k => { k with asks := true }) := by
  rw [exec_uncorrectableThreadState, execUncorrectableThreadState, if_pos h]

theorem coreDisable_stops {core : Nat} (h : (s.core core).disabled = false) : exec (.coreDisable core) s =
    .next ((((s.stopAll (fun x _ => coreOf x == core) 3).modCore core fun k => { k with disabled := true, asks := false }).lost
      (corePkg core) 15 0 1).reportCore core) := by
  rw [exec_coreDisable, execCoreDisable, if_neg (by simp [h])]

theorem coreDisable_again {core : Nat} (h : (s.core core).disabled = true) : exec (.coreDisable core) s = .next s := by
  rw [exec_coreDisable, execCoreDisable, if_pos h]

theorem barrierStateError_stops {cl bar : Nat} {l : List Barrier} (h : (s.cluster cl).bars.find? bar = some l) :
    exec (.barrierStateError cl bar) s = .next ((l.flatMap (·.arrived)).foldl (fun s tid => s.stopNow tid 4) s) := by
  rw [exec_barrierStateError, execBarrierStateError, NatMap.at, h]
  rfl

/-! Entries that fail are dropped (R312). -/

theorem tlbEntryError_drops {cl n : Nat} {e : TlbEntry} (h : ((s.cluster cl).tlb.flatMap (·.2))[n]? = some e) :
    exec (.tlbEntryError cl n) s =
      .next (s.modCluster cl fun k => { k with tlb := k.tlb.mapVals fun _ l => l.filter fun x => x != e }) := by
  rw [exec_tlbEntryError, execTlbEntryError, h]

theorem replicaLineError_drops (s : State) (cl line : Nat) : exec (.replicaLineError cl line) s = .next (s.modCluster cl fun k =>
    { k with replica := k.replica.put (line % 6144) ((k.replica.at [] (line % 6144)).filter (· ≠ line)) }) := by
  have keeps : (fun x : Nat => x != line) = fun x => decide (x ≠ line) := funext fun x => by by_cases h : x = line <;> simp [h]
  rw [exec_replicaLineError, execReplicaLineError, keeps]
  rfl

end

/-! A bucket of the page table is made again from the other die's (R312). -/

/-- One way of a bucket takes what the tables pt hold for it at the other die. -/
def wayFrom (pt : NatMap Pte) (base other : Nat) (m : NatMap Pte) (w : Nat) : NatMap Pte :=
  match pt.find? (other + w) with
  | some e => m.put (base + w) e
  | none => m.del (base + w)

theorem wayFrom_sorted {pt m : NatMap Pte} {base other w : Nat} (h : m.Sorted) : (wayFrom pt base other m w).Sorted := by
  rw [wayFrom]
  split
  · exact sorted_put _ _ h
  · exact sorted_del _ h

theorem find?_wayFrom {pt m : NatMap Pte} {base other w : Nat} (j : Nat) (h : m.Sorted) :
    (wayFrom pt base other m w).find? j = if j = base + w then pt.find? (other + w) else m.find? j := by
  rw [wayFrom]
  split
  next e he =>
    split
    next hj => rw [hj, find?_put_same, he]
    next hj => exact find?_put_ne _ _ hj
  next he =>
    rw [find?_del j h]
    split
    · exact he.symm
    · rfl

/-- The first n ways made again, the others as they were. -/
theorem find?_waysFrom (pt : NatMap Pte) (base other n : Nat) {m : NatMap Pte} (h : m.Sorted) :
    ((List.range n).foldl (wayFrom pt base other) m).Sorted ∧
      ∀ w, w < n → ((List.range n).foldl (wayFrom pt base other) m).find? (base + w) = pt.find? (other + w) := by
  induction n with
  | zero => exact ⟨h, fun w hw => absurd hw (Nat.not_lt_zero w)⟩
  | succ n ih =>
    rw [List.range_succ, List.foldl_append]
    refine ⟨wayFrom_sorted ih.1, fun w hw => ?_⟩
    rw [List.foldl_cons, List.foldl_nil, find?_wayFrom _ ih.1]
    rcases Nat.lt_succ_iff_lt_or_eq.1 hw with below | rfl
    · rw [if_neg (by omega), ih.2 w below]
    · rw [if_pos rfl]

/-- With no cluster's walk at the bucket, the error leaves only the tables made again, and tells the hosts. -/
theorem shardBucketError_repairs {s : State} (pkg die home bucket : Nat) (hc : s.clusters = []) :
    exec (.shardBucketError pkg die home bucket) s = .next ((s.modPkg pkg fun k => { k with
      pt := (List.range 8).foldl (wayFrom (s.pkg pkg).pt (wayIndex die home bucket) (wayIndex (1 - die) home bucket)) k.pt }).tellHealth
        pkg) := by
  rw [exec_shardBucketError, execShardBucketError]
  simp only [hc, List.flatMap_nil, List.foldl_nil]
  rfl

/-! Engines and thinning units (R312, R351). -/

section
variable {s : State} {eng : Nat}

theorem engineFault_disables (hd : (s.engine eng).disabled = false) :
    ∃ s1 : State, exec (.engineFault eng) s = .next (s1.lost (eng / 128) 23 16 1) ∧ (s1.engine eng).disabled = true ∧
      s1.threads = s.threads ∧ s1.mem = s.mem ∧ s1.pkgs = s.pkgs := by
  rw [exec_engineFault, execEngineFault, if_neg (by simp [hd])]
  refine ⟨_, rfl, ?_⟩
  by_cases self : (s.modEngine eng fun k => { k with disabled := true }).takesFor eng = eng
  · rw [if_pos self]
    refine ⟨?_, rfl, rfl, rfl⟩
    rw [engine_modEngine, engine_modEngine]
  · rw [if_neg self]
    refine ⟨?_, rfl, rfl, rfl⟩
    rw [engine_modEngine_ne _ _ (Ne.symm self), engine_modEngine, engine_modEngine]

theorem engineFault_moves {j : Job} {r : List Job} (hd : (s.engine eng).disabled = false) (hq : (s.engine eng).queue = j :: r) :
    let off := s.modEngine eng fun k => { k with disabled := true }
    let run := j.run.getD CopyRun.start
    let stopped : Job := { j with run := some { run with done := true, waits := 0, flags := run.flags ||| 2 } }
    off.takesFor eng ≠ eng → exec (.engineFault eng) s = .next (((off.modEngine eng fun k => { k with queue := [stopped] }).modEngine
      (off.takesFor eng) fun k => { k with queue := k.queue ++ r }).lost (eng / 128) 23 16 1) := by
  intro off run stopped other
  rw [exec_engineFault, execEngineFault, if_neg (by simp [hd]), hq]
  exact congrArg (fun z : State => Host.Outcome.next (z.lost (eng / 128) 23 16 1)) (if_neg other)

theorem thinningUnitError_disables {cl : Nat} (h : (s.cluster cl).thinOff = false) :
    exec (.thinningUnitError cl) s = .next ((s.thinUnitFails cl).lost (clPkg cl) 23 16 1) := by
  rw [exec_thinningUnitError, execThinningUnitError, if_neg (by simp [h])]

theorem thinningUnitError_again {cl : Nat} (h : (s.cluster cl).thinOff = true) : exec (.thinningUnitError cl) s = .next s := by
  rw [exec_thinningUnitError, execThinningUnitError, if_pos h]

end

/-! A die's log unit (R381). -/

section
variable {s : State} {pkg die : Nat}

theorem reportCtx_threads (s : State) (cx : Nat) : (s.reportCtx cx).threads = s.threads := by
  rw [State.reportCtx]
  exact foldl_keeps State.threads (by intros; rfl) _ s

theorem reportCtx_mem (s : State) (cx : Nat) : (s.reportCtx cx).mem = s.mem := by
  rw [State.reportCtx]
  exact foldl_keeps State.mem (by intros; rfl) _ s

theorem stopLog_threads (s : State) (cx : Nat) : (s.stopLog cx die).threads = s.threads := by
  rw [State.stopLog]
  dsimp only
  split
  · rfl
  · rw [reportCtx_threads]
    split <;> rfl

theorem stopLog_mem (s : State) (cx : Nat) : (s.stopLog cx die).mem = s.mem := by
  rw [State.stopLog]
  dsimp only
  split
  · rfl
  · rw [reportCtx_mem]
    split <;> rfl

theorem logUnitDisabled_again (h : NatSet.has (s.pkg pkg).logOff die = true) : exec (.logUnitDisabled pkg die) s = .next s := by
  rw [exec_logUnitDisabled, execLogUnitDisabled, if_pos h]

theorem logUnitDisabled_stops (h : NatSet.has (s.pkg pkg).logOff die = false) :
    ∃ s1 : State, exec (.logUnitDisabled pkg die) s = .next (s1.lost pkg 23 16 1) ∧ s1.threads = s.threads ∧ s1.mem = s.mem := by
  rw [exec_logUnitDisabled, execLogUnitDisabled, if_neg (by simp [h])]
  refine ⟨_, rfl, ?_, ?_⟩
  · refine foldl_keeps State.threads (fun s x => ?_) _ _
    split
    · rfl
    · exact stopLog_threads ..
  · refine foldl_keeps State.mem (fun s x => ?_) _ _
    split
    · rfl
    · exact stopLog_mem ..

end

/-! Channels of HBM (R384, R385). -/

section
variable {s : State} {pkg stack chan : Nat}

theorem retireChannel_starts (h : (s.pkg pkg).spare.find? stack = none) : s.retireChannel pkg stack chan =
    (s.modPkg pkg fun k => { k with spare := k.spare.put stack (chan, false) }).lost pkg 31 24 1 := by
  rw [State.retireChannel, h]

theorem retireChannel_same {done : Bool} (h : (s.pkg pkg).spare.find? stack = some (chan, done)) :
    s.retireChannel pkg stack chan = s := by
  rw [State.retireChannel, h]
  exact if_pos rfl

theorem retireChannel_spent {c : Nat} {done : Bool} (h : (s.pkg pkg).spare.find? stack = some (c, done)) (hc : c ≠ chan) :
    s.retireChannel pkg stack chan = s.setHealth pkg ((s.pkg pkg).health ||| spx) := by
  rw [State.retireChannel, h]
  exact if_neg hc

section
variable (hs : stack < 12) (hc : chan < 32)
include hs hc

theorem channelRetirement_errors : exec (.channelRetirement pkg stack chan none) s =
    .next (if 64 < (s.chanErrors pkg (32 * stack + chan)).length then s.retireChannel pkg stack chan else s) := by
  rw [exec_channelRetirement, execChannelRetirement, if_neg (by omega)]
  rfl

theorem channelRetirement_scrubbed {u : Nat} (hu : u % 32 = chan) : exec (.channelRetirement pkg stack chan (some u)) s =
    .next (if NatSet.has (s.pkg pkg).scrubbed (stack * 2 ^ 28 + u) then s.retireChannel pkg stack chan
      else s.modPkg pkg fun k => { k with scrubbed := NatSet.insert k.scrubbed (stack * 2 ^ 28 + u) }) := by
  rw [exec_channelRetirement, execChannelRetirement, if_neg (by omega)]
  simp only [hu, ne_eq, not_true_eq_false, if_false]
  split <;> rfl

end

theorem spareCopyComplete_done {c : Nat} {done : Bool} (h : (s.pkg pkg).spare.find? stack = some (c, done)) :
    exec (.spareCopyComplete pkg stack) s = .next (s.modPkg pkg fun k => { k with spare := k.spare.put stack (c, true) }) := by
  rw [exec_spareCopyComplete, execSpareCopyComplete, h]

end

/-! The die link (R383) and the fabric's ports (R398, R419). -/

section
variable {s : State} {pkg port : Nat}

theorem dieLinkLost_stops (h : (s.pkg pkg).sublinks ≠ 0) : exec (.dieLinkLost pkg) s = .next (s.linkLost pkg) := by
  rw [exec_dieLinkLost, execDieLinkLost, if_neg h]

theorem dieLinkLost_again (h : (s.pkg pkg).sublinks = 0) : exec (.dieLinkLost pkg) s = .next s := by
  rw [exec_dieLinkLost, execDieLinkLost, if_pos h]

theorem dieSublinkFailure_answers : exec (.dieSublinkFailure pkg) s = .next (
    if (s.pkg pkg).sublinks = 0 then s else if (s.pkg pkg).sublinks = 1 then s.linkLost pkg
    else (s.modPkg pkg fun k => { k with sublinks := (s.pkg pkg).sublinks - 1 }).lost pkg 39 32 1) := by
  rw [exec_dieSublinkFailure, execDieSublinkFailure]
  split
  · rfl
  split <;> rfl

/-- A port of a package that is still up goes down (R419). -/
def State.portDowns (s : State) (pkg port : Nat) : State :=
  (s.modPkg pkg fun k => { k with portsDown := NatSet.insert k.portsDown port }).fabricDown (downPort pkg port)

theorem portLost_up (h : NatSet.has (s.pkg pkg).portsDown port = false) : s.portLost pkg port = s.portDowns pkg port := by
  rw [State.portLost, if_neg (by simp [h])]
  rfl

/-- A lane more is dropped. -/
def State.laneDrops (s : State) (pkg port : Nat) : State :=
  (s.modPkg pkg fun k => { k with lanes := k.lanes.put port ((s.pkg pkg).lanes.at 0 port + 1) }).lost pkg 39 32 1

theorem laneDrops_lanesOf : ((s.laneDrops pkg port).pkg pkg).lanesOf port = 8 - ((s.pkg pkg).lanes.at 0 port + 1) := by
  rw [State.laneDrops, Package.lanesOf, pkg_lost, pkg_modPkg, at_put_same]

theorem laneDrops_portsDown : ((s.laneDrops pkg port).pkg pkg).portsDown = (s.pkg pkg).portsDown := by
  rw [State.laneDrops, pkg_lost, pkg_modPkg]

theorem laneFailure_none (h : 8 ≤ (s.pkg pkg).lanes.at 0 port) : exec (.laneFailure pkg port) s = .next s := by
  rw [exec_laneFailure, execLaneFailure]
  exact if_pos h

theorem laneFailure_drops (h : (s.pkg pkg).lanes.at 0 port < 8) : exec (.laneFailure pkg port) s = .next (
    if 8 - ((s.pkg pkg).lanes.at 0 port + 1) < 4 then (s.laneDrops pkg port).portLost pkg port else s.laneDrops pkg port) := by
  rw [← laneDrops_lanesOf, exec_laneFailure, execLaneFailure]
  exact if_neg (by omega)

theorem portDown_package (hp : pkg < 2 ^ 13) : exec (.portDown pkg port) s = .next (s.packagePortLost pkg port) := by
  rw [exec_portDown, execPortDown, if_pos hp]

theorem portDown_switch : exec (.portDown (2 ^ 13) port) s = .next (s.fabricDown (downSw port)) := by
  rw [exec_portDown, execPortDown, if_neg (Nat.lt_irrefl _), if_pos rfl]

theorem portDown_link {sw key : Nat} (h : downSwPort sw port = some key) (hk : 2 ^ 32 ≤ key) :
    exec (.portDown (2 ^ 13 + 1 + sw) port) s = .next (s.fabricDown key) := by
  have switch : 2 ^ 13 + 1 + sw - 2 ^ 13 - 1 = sw := by omega
  rw [exec_portDown, execPortDown, if_neg (by omega), if_neg (by omega), switch, h]
  exact congrArg _ (if_neg (by omega))

end

/-! Slots and trees of the fabric (R405, R419). -/

section
variable {s : State} {g : Nat} {x : Group} (hg : s.fab.group g = some x)
include hg

theorem slotUncorrectable_answers (sw slot : Nat) : exec (.slotUncorrectable sw g slot) s = .next (
    if (s.slot sw (16 * g + slot)).st = .collect ∨ (s.slot sw (16 * g + slot)).st = .up then
      s.killSlot x.spec sw g (16 * g + slot) (s.slot sw (16 * g + slot)) else s) := by
  rw [exec_slotUncorrectable, execSlotUncorrectable]
  simp only [hg]
  split <;> rfl

theorem treeEntryError_answers (sw : Nat) : exec (.treeEntryError sw g) s =
    .next (if (treeSws x.spec).contains sw = true ∧ x.installed = true then s.breakGroup g else s) := by
  rw [exec_treeEntryError, execTreeEntryError]
  simp only [hg]
  split <;> rfl

omit hg in
theorem eventAll_fab (s : State) (from_ : Nat → Nat) (g type : Nat) (ms : List Nat) : (s.eventAll from_ g type ms).fab = s.fab := by
  rw [State.eventAll]
  exact foldl_keeps State.fab (by intros; rfl) ms s

theorem breakGroup_broken : (s.breakGroup g).fab.group g = some { x with broken := true } := by
  rw [State.breakGroup, hg]
  dsimp only
  split
  next broken => rw [hg, ← broken]
  next =>
    have marked : (s.setGroup g { x with broken := true }).fab.group g = some { x with broken := true } := find?_put_same ..
    split
    · rw [eventAll_fab, marked]
    · exact marked

end

/-- Settles O59: each failure's own equation, unit by unit. -/
theorem failures : Obligations.Failures := by
  refine ⟨?threads, fun s tid detail t => stopNow_stops s, fun s cl bar l => barrierStateError_stops, fun s cl n line e h =>
    ⟨tlbEntryError_drops h, replicaLineError_drops s cl line⟩, ?bucket, fun s eng hd _ => engineFault_disables hd, fun s eng j r => engineFault_moves,
    fun s cl => ⟨thinningUnitError_disables, thinningUnitError_again⟩, ?die, ?channels, ?dieLink, ?ports, ?slots, ?lost,
    fun s g x => breakGroup_broken⟩
  case threads =>
    intro s core cx tid stops
    exact ⟨uncorrectableThreadState_stops, rfl, coreDisable_stops, coreDisable_again, rfl, fun obj => rfl⟩
  case bucket =>
    intro s pkg die home bucket hc _
    refine ⟨_, shardBucketError_repairs pkg die home bucket hc, tellHealth_mem .., tellHealth_threads .., fun w hw sorted => ?_⟩
    rw [State.pkg, tellHealth_pkgs, ← State.pkg, pkg_modPkg]
    exact (find?_waysFrom _ _ _ 8 sorted).2 w hw
  case die =>
    intro s pkg die link
    exact ⟨rfl, rfl, ⟨rfl, fun a => rfl⟩, logUnitDisabled_again, logUnitDisabled_stops⟩
  case channels =>
    intro s pkg stack chan copying retires
    have retired {unit : Option Nat} (h : exec (.channelRetirement pkg stack chan unit) s = .next (s.retireChannel pkg stack chan)) :
        retires unit := by
      refine ⟨fun free => h.trans (congrArg _ (retireChannel_starts free)), fun c done used => ⟨?_, fun other => ?_⟩⟩
      · rintro rfl
        exact h.trans (congrArg _ (retireChannel_same used))
      · exact h.trans (congrArg _ (retireChannel_spent used other))
    refine ⟨fun hs hc => ⟨fun many => retired ?_, fun few => ?_, fun u hu => ⟨fun second => retired ?_, fun first => ?_⟩⟩,
      fun c done => spareCopyComplete_done⟩
    · exact (channelRetirement_errors hs hc).trans (congrArg _ (if_pos many))
    · exact (channelRetirement_errors hs hc).trans (congrArg _ (if_neg (Nat.not_lt.2 few)))
    · exact (channelRetirement_scrubbed hs hc hu).trans (congrArg _ (if_pos second))
    · exact (channelRetirement_scrubbed hs hc hu).trans (congrArg _ (if_neg (Bool.eq_false_iff.1 first)))
  case dieLink =>
    intro s pkg gone
    refine ⟨dieLinkLost_stops, fun one => ?_, fun more => ?_, fun none => ⟨?_, dieLinkLost_again none⟩⟩ <;> rw [dieSublinkFailure_answers]
    · rw [if_neg (by omega), if_pos one]
      rfl
    · rw [if_neg (by omega), if_neg (by omega)]
    · rw [if_pos none]
  case ports =>
    intro s pkg port up n downs drops
    refine ⟨fun few => ?_, fun four => ?_, laneFailure_none, fun hp => ?_, portDown_switch, fun sw key => portDown_link⟩
    · exact (laneFailure_drops (by omega)).trans (congrArg _ (if_neg (by omega)))
    · have still : NatSet.has ((s.laneDrops pkg port).pkg pkg).portsDown port = false := by rw [laneDrops_portsDown, up]
      rw [laneFailure_drops (by omega), if_pos (by omega), portLost_up still]
      rfl
    · rw [portDown_package hp, State.packagePortLost, portLost_up up]
      rfl
  case slots =>
    intro s sw g slot x hg y
    refine ⟨fun busy => ?_, fun idle => ?_, fun tree installed => ?_, fun off => ?_⟩
    · exact (slotUncorrectable_answers hg sw slot).trans (congrArg _ (if_pos busy))
    · refine (slotUncorrectable_answers hg sw slot).trans (congrArg _ (if_neg ?_))
      change ¬ (y.st = .collect ∨ y.st = .up)
      rcases idle with h | h <;> simp [h]
    · exact (treeEntryError_answers hg sw).trans (congrArg _ (if_pos ⟨tree, installed⟩))
    · exact (treeEntryError_answers hg sw).trans (congrArg _ (if_neg fun on => Bool.false_ne_true (off.symm.trans on.1)))
  case lost =>
    intro s pkg hi lo n _
    rw [pkg_lost]

end Sys2Proof.Machine
end

section
namespace Sys2Proof.Machine

/-! Blocks at the DMA port (R215, R216). -/

section
variable {s : State} {c e mem la : Nat} {data : List Byte} (h32 : field data 0 2 % 32 = 0) (hlo : 32 ≤ field data 0 2)
  (hhi : field data 0 2 ≤ 4096) (hls : laOff la + field data 0 2 ≤ lsSize c)

/-- A block that the port writes itself, its words full, and its engine told. -/
def State.blockWritten (s : State) (c e mem la : Nat) (l : List Byte) : State :=
  ((s.storeBytes la l).markBlock la l.length true).blockEnds c e mem l.length 0 []

theorem expandBlock_illegal {unc : Bool} (h : field data 0 2 % 32 ≠ 0 ∨ field data 0 2 < 32 ∨ 4096 < field data 0 2) :
    s.expandBlock c e mem data la unc = some (s.blockEnds c e mem 0 8 []) := by
  rw [State.expandBlock]
  exact if_pos (by omega)

include h32 hlo hhi hls

theorem expandBlock_zeros (hm : field data 3 1 = 2) (hn : field data 2 1 = 0) : s.expandBlock c e mem data la false =
    some (s.blockWritten c e mem la (List.replicate (field data 0 2) 0)) := by
  rw [State.expandBlock, if_neg (by omega)]
  simp only [hm, hn, if_true]
  rfl

theorem expandBlock_payload (hm : field data 3 1 = 0)
    (hl : field data 0 2 = 32 * (field data 2 1 + 1)) :
    s.expandBlock c e mem data la false = some (s.blockWritten c e mem la (data.drop 8)) := by
  rw [State.expandBlock, if_neg (by omega)]
  simp only [hm, if_pos hl]
  rfl

theorem expandBlock_coded (hm : field data 3 1 = 1) (hn : field data 2 1 ≤ 128) : s.expandBlock c e mem data la false =
    if s.transforms c = false then some (s.blockEnds c e mem 0 8 [])
    else if 2 ≤ (s.core c).xform.length then none
    else some (s.modCore c fun k => { k with xform := k.xform ++ [{
      compress := false, lenx := field data 0 2, nsec := field data 2 1, param := field data 4 4, input := data.drop 8, place := la,
      output := [], inPos := 0, outPos := 0, err := false, unc := false, held := false, eng := e, member := mem }] }) := by
  rw [State.expandBlock, if_neg (by omega)]
  simp only [hm]

end

theorem blockExpansion_delivers {s s1 : State} {n e mem la : Nat} {m : Msg} {data : List Byte} {unc : Bool} (hn : n < 2 ^ 46)
    (hd : s.deliver n = some (m, s1)) (hb : m.body = .block e mem data la unc) :
    exec (.blockExpansion n) s = .next ((s1.expandBlock m.dst e mem data la unc).getD s) := by
  rw [exec_blockExpansion, execBlockExpansion, if_neg (by omega)]
  simp only [hd, hb]

theorem blockExpansion_sends {s : State} {c : Nat} {o : BlockOut} {r : List BlockOut} (h : (s.core c).xout = o :: r) :
    exec (.blockExpansion (2 ^ 46 + c)) s =
      .next ((s.modCore c fun k => { k with xout := r }).blockEnds c o.eng 0 0 o.flags o.data) := by
  rw [exec_blockExpansion, execBlockExpansion, if_pos (by omega), Nat.add_sub_cancel_left, State.sendBlock, h]

/-! The bits of a block (R219). -/

section
variable {s : State}

theorem putBits_outPos (b : Block) (n v : Nat) : (s.putBits b n v).2.outPos = b.outPos + n := by
  induction n generalizing s b v with
  | zero => rfl
  | succ n ih => rw [State.putBits, ih]; dsimp only; omega

end

/-! The members of BITS-R (R218, R219). -/

/-- Only slot 15's x1 refuses an element (R416). -/
theorem writeRefused_slot {tid : Nat} {d : BitVec 4} {v : Word} (h : slotOf tid ≠ 15) : State.writeRefused tid d v = false := by
  rw [State.writeRefused, beq_false_of_ne h, Bool.false_and, Bool.false_and]

section
variable {word : Word32} {p : BitVec 3} {q : BitVec 1} {srcs dsts : List (BitVec 4)} {s s1 : State} {t : Thread} {v : List Word}
  {f : Nat → Thread → State → Block → List Word → State → State} (h : s.Issues p q 4 t) (r : s.Reads t srcs dsts v s1)
include h r

theorem bitsInstr_runs {k : Block} (hs : slotOf s.cur = 14) (hk : s1.heldBlock (coreOf s.cur) = some k) :
    bitsInstr word p q srcs dsts s f = .next (f s.cur t s k v s1) := by
  rw [bitsInstr, act_runs h r]
  simp only [if_pos hs, hk]

/-- Without a held block, or in another slot, a member traps with its own word (R218). -/
theorem bits_trap {i : Instr} (hi : exec i s = bitsInstr (wordOf i) p q srcs dsts s f)
    (hk : slotOf s.cur ≠ 14 ∨ s1.heldBlock (coreOf s.cur) = none) :
    exec i s = .next (s.trap s.cur t 1 ((wordOf i).setWidth 64)) := by
  have none_held : (if slotOf s.cur = 14 then s1.heldBlock (coreOf s.cur) else none) = none := by
    split
    next here => exact hk.resolve_left (not_not_intro here)
    next => rfl
  rw [hi, bitsInstr, act_runs h r]
  simp only [none_held]

end

/-- A block whose next n bits have been taken. -/
def Block.taken (k : Block) (n : Nat) : Block := { k with inPos := k.inPos + n, err := k.err || decide (k.inBits < k.inPos + n) }

/-- Where a block's reading stands is no part of its input. -/
theorem inNat_taken (s : State) (k : Block) (m n i : Nat) : s.inNat (k.taken m) n i = s.inNat k n i := by
  induction n generalizing i with
  | zero => rfl
  | succ n ih => rw [State.inNat, State.inNat, ih]; rfl

theorem takeBits_eq (s : State) (k : Block) (n : Nat) : s.takeBits k n = (s.inNat k n k.inPos, k.taken n) := rfl

section
variable {p : BitVec 3} {q : BitVec 1} {d a b : BitVec 4} {s s1 : State} {t : Thread} {v : List Word} {k : Block}
  (h : s.Issues p q 4 t) (hs : slotOf s.cur = 14) (hk : s1.heldBlock (coreOf s.cur) = some k)
include h hs hk

omit h hk in
theorem finish_transform {u : State} {word : Word32} {w : Word} : s.finish u s.cur t word d w = u.result s.cur t d w :=
  finish_accepted (writeRefused_slot (by rw [hs]; decide))

section
variable (r : s.Reads t [a] [d] v s1)
include r

theorem bget_takes : exec (.bget p q d a) s = .next ((s1.setBlock (coreOf s.cur) (k.taken (bitCount (nth v 0)))).result s.cur t d
    (BitVec.ofNat 64 (s1.inNat k (bitCount (nth v 0)) k.inPos))) := by
  rw [exec_bget, execBget]
  simp only [bitsInstr_runs h r hs hk, finish_transform hs, takeBits_eq]

theorem bpeek_reads : exec (.bpeek p q d a) s =
    .next ((s1.setBlock (coreOf s.cur) { k.taken (bitCount (nth v 0)) with inPos := k.inPos }).result s.cur t d
      (BitVec.ofNat 64 (s1.inNat k (bitCount (nth v 0)) k.inPos))) := by
  rw [exec_bpeek, execBpeek]
  simp only [bitsInstr_runs h r hs hk, finish_transform hs, takeBits_eq]

/-- R219: 32 zeros are no code. -/
theorem bexp_fails (hz : s1.zeros k 32 k.inPos = 32) : exec (.bexp p q d a) s =
    .next ((s1.setBlock (coreOf s.cur) { k with inPos := k.inPos + 32, err := true }).result s.cur t d
      (BitVec.ofNat 64 (2 ^ 64 - 1))) := by
  rw [exec_bexp, execBexp]
  simp only [bitsInstr_runs h r hs hk, finish_transform hs, takeBits_eq, hz, if_true]
  rfl

theorem bexp_reads (hz : s1.zeros k 32 k.inPos < 32) :
    let z := s1.zeros k 32 k.inPos
    let g := (nth v 0).toNat % 32
    exec (.bexp p q d a) s = .next ((s1.setBlock (coreOf s.cur) (((k.taken z).taken 1).taken (z + g))).result s.cur t d
      (BitVec.ofNat 64 (2 ^ (z + g) - 2 ^ g + s1.inNat k (z + g) (k.inPos + z + 1)))) := by
  intro z g
  have value : s1.inNat ((k.taken z).taken 1) (z + g) ((k.taken z).taken 1).inPos = s1.inNat k (z + g) (k.inPos + z + 1) := by
    rw [inNat_taken, inNat_taken]
    rfl
  rw [exec_bexp, execBexp]
  simp only [bitsInstr_runs h r hs hk, finish_transform hs, takeBits_eq, if_neg (Nat.ne_of_lt hz)]
  exact congrArg (fun n => Host.Outcome.next (State.result _ _ _ _ (BitVec.ofNat 64 (2 ^ (z + g) - 2 ^ g + n)))) value

end

theorem bskip_skips (r : s.Reads t [a] [] v s1) : exec (.bskip p q a) s =
    .next ((s1.setBlock (coreOf s.cur) (k.taken ((nth v 0).toNat % 65536))).retire s.cur t) := by
  rw [exec_bskip, execBskip, bitsInstr_runs h r hs hk]
  rfl

theorem bput_writes (r : s.Reads t [a, b] [] v s1) : exec (.bput p q a b) s =
    .next (((s1.putBits k (bitCount (nth v 1)) (nth v 0).toNat).1.setBlock (coreOf s.cur)
      (s1.putBits k (bitCount (nth v 1)) (nth v 0).toNat).2).retire s.cur t) := by
  rw [exec_bput, execBput, bitsInstr_runs h r hs hk]

variable (r : s.Reads t [] [d] v s1)
include r

/-- R219: the output is padded with zeros to a whole byte. -/
theorem bflush_pads :
    ∃ s2 : State, exec (.bflush p q d) s = .next (s2.result s.cur t d (BitVec.ofNat 64 ((k.outPos + 7) / 8))) ∧
      (s2.core (coreOf s.cur)).xform.head?.map (·.outPos) = some (8 * ((k.outPos + 7) / 8)) := by
  have whole : k.outPos + (8 - k.outPos % 8) % 8 = 8 * ((k.outPos + 7) / 8) := by omega
  refine ⟨(s1.putBits k ((8 - k.outPos % 8) % 8) 0).1.setBlock (coreOf s.cur) (s1.putBits k ((8 - k.outPos % 8) % 8) 0).2, ?_, ?_⟩
  · rw [exec_bflush, execBflush]
    simp only [bitsInstr_runs h r hs hk, finish_transform hs, putBits_outPos, whole, Nat.mul_div_right _ (show 0 < 8 by decide)]
  · rw [State.setBlock, core_modCore]
    exact congrArg some ((putBits_outPos ..).trans whole)

end

/-! The end of a block (R220). -/

theorem markBlock_cores (s : State) (la n : Nat) (b : Bool) : (s.markBlock la n b).cores = s.cores := by
  rw [State.markBlock]
  exact foldl_keeps State.cores (by intros; rfl) _ s

/-- The status word of a finished block (R220). -/
def Block.status (k : Block) : Nat :=
  k.err.toNat + 2 * k.unc.toNat + 4 * (!k.compress && decide ((k.outPos + 7) / 8 < k.lenx)).toNat +
    8 * (k.compress && decide (k.room < (k.outPos + 7) / 8)).toNat + (k.outPos + 7) / 8 % 65536 * 65536

theorem syncBlock_status (s : State) (c : Nat) (k : Block) : (s.syncBlock c k).1 = k.status := by
  rw [State.syncBlock, Block.status]
  cases k.compress <;> rfl

/-- The block has left its queue. -/
theorem syncBlock_leaves (s : State) (c : Nat) (k : Block) :
    ((s.syncBlock c k).2.core c).xform = (s.core c).xform.drop 1 ∧ ((s.syncBlock c k).2.core c).xholds = false := by
  have left : (s.modCore c fun k => { k with xform := k.xform.drop 1, xholds := false }).core c =
      { s.core c with xform := (s.core c).xform.drop 1, xholds := false } := core_modCore ..
  rw [State.syncBlock]
  dsimp only
  split
  · rw [core_modCore, left]
    exact ⟨rfl, rfl⟩
  · have kept (u : State) : ((u.markBlock k.place k.lenx (!k.unc)).blockEnds c k.eng k.member (if k.unc then 0 else k.lenx)
        (if k.unc then 2 else 0) []).core c = u.core c := congrArg (NatMap.at · Core.reset c) (markBlock_cores u ..)
    rw [kept]
    split
    · exact ⟨congrArg Core.xform left, congrArg Core.xholds left⟩
    · exact ⟨congrArg Core.xform left, congrArg Core.xholds left⟩

/-- A compressed block waits for the DMA turn that sends it. -/
theorem syncBlock_compressed (s : State) (c : Nat) {k : Block} (hk : k.compress = true) :
    ∃ o : BlockOut, ((s.syncBlock c k).2.core c).xout = (s.core c).xout ++ [o] ∧ o.eng = k.eng ∧
      o.flags = (if k.unc then 2 else 0) := by
  rw [State.syncBlock, if_pos hk, core_modCore, core_modCore]
  exact ⟨_, rfl, rfl, rfl⟩

theorem bsync_finishes {p : BitVec 3} {q : BitVec 1} {d : BitVec 4} {s s1 : State} {t : Thread} {v : List Word} {k : Block}
    (h : s.Issues p q 4 t) (hs : slotOf s.cur = 14) (hk : s1.heldBlock (coreOf s.cur) = some k) (r : s.Reads t [] [d] v s1) :
    exec (.bsync p q d) s = .next ((s1.syncBlock (coreOf s.cur) k).2.result s.cur t d (BitVec.ofNat 64 k.status)) := by
  rw [exec_bsync, execBsync]
  simp only [bitsInstr_runs h r hs hk, finish_transform hs, syncBlock_status]

/-! bhdr takes the head of the transform queue (R219). -/

section
variable {p : BitVec 3} {q : BitVec 1} {d : BitVec 4} {s : State} {t : Thread} (h : s.Issues p q 4 t) (r : s.Reads t [] [d] [] s)
include h r

theorem bhdr_traps (hk : slotOf s.cur ≠ 14 ∨ s.heldBlock (coreOf s.cur) ≠ none) :
    exec (.bhdr p q d) s = .next (s.trap s.cur t 1 ((wordOf (.bhdr p q d)).setWidth 64)) := by
  rw [exec_bhdr, execBhdr]
  simp only [act_runs h r]
  exact congrArg _ (if_pos (hk.imp_right Option.isSome_iff_ne_none.2))

variable (hs : slotOf s.cur = 14) (hk : s.heldBlock (coreOf s.cur) = none)
include hs hk

theorem bhdr_waits (hq : (s.core (coreOf s.cur)).xform = []) : exec (.bhdr p q d) s = .next (s.wait s.cur t .sync) := by
  rw [exec_bhdr, execBhdr]
  simp only [act_runs h r, hs, hk, hq, ne_eq, not_true_eq_false, Option.isSome_none, Bool.false_eq_true, or_self, if_false]

theorem bhdr_takes {k : Block} {l : List Block} (hq : (s.core (coreOf s.cur)).xform = k :: l) (hh : k.held = false) :
    exec (.bhdr p q d) s = .next (((s.setBlock (coreOf s.cur) { k with held := true }).modCore (coreOf s.cur) fun x =>
      { x with xholds := true }).result s.cur t d
        (BitVec.ofNat 64 (k.lenx + k.nsec * 2 ^ 13 + k.compress.toNat * 2 ^ 21 + k.unc.toNat * 2 ^ 22 + k.param * 2 ^ 32))) := by
  have free : ¬ (slotOf s.cur ≠ 14 ∨ (s.heldBlock (coreOf s.cur)).isSome = true) := by simp [hs, hk]
  rw [exec_bhdr, execBhdr]
  simp only [act_runs h r, if_neg free, hq, hh, Bool.false_eq_true, if_false, finish_transform hs]

end

/-- Settles O50: a block at the port by its method, the members at the held block, and their traps without one. -/
theorem codedBlocks : Obligations.CodedBlocks := by
  refine ⟨?port, ?held, fun s c o r => blockExpansion_sends, ?bhdr, ?unheld, fun s k n v => putBits_outPos k n v⟩
  case port =>
    intro s s1 n m e mem la data hn hd hb lenx wrote
    have delivers {u : State} (h : s1.expandBlock m.dst e mem data la false = some u) : exec (.blockExpansion n) s = .next u := by
      rw [blockExpansion_delivers hn hd hb, h]
      rfl
    refine ⟨fun h32 hlo hhi hls => ⟨fun hm hz => ?_, fun hm _ hl => ?_, fun hm hs => ?_⟩, fun illegal => ?_⟩
    · exact (delivers (expandBlock_zeros h32 hlo hhi hls hm hz)).trans (by rw [State.blockWritten])
    · exact delivers (expandBlock_payload h32 hlo hhi hls hm hl)
    · have coded := expandBlock_coded (s := s1) (e := e) (mem := mem) h32 hlo hhi hls hm hs
      refine ⟨fun off => ?_, fun on room => ?_, fun on full => ?_⟩
      · exact delivers (coded.trans (if_pos off))
      · exact delivers (coded.trans ((if_neg (by simp [on])).trans (if_neg (Nat.not_le.2 room))))
      · rw [blockExpansion_delivers hn hd hb, coded, if_neg (by simp [on]), if_pos full]
        rfl
    · exact delivers (expandBlock_illegal illegal)
  case held =>
    intro p q d a b s s1 t v k h hs hk c now n got
    refine ⟨fun r => ⟨bget_takes h hs hk r, bpeek_reads h hs hk r, bexp_fails h hs hk r, fun hz => ⟨_, bexp_reads h hs hk r hz, ?_⟩⟩,
      bskip_skips h hs hk, bput_writes h hs hk, fun r => ⟨bflush_pads h hs hk r, ?_⟩⟩
    · rw [State.setBlock, core_modCore]
      rfl
    · obtain ⟨leaves, frees⟩ := syncBlock_leaves s1 c k
      exact ⟨_, bsync_finishes h hs hk r, leaves, frees, syncBlock_compressed s1 c⟩
  case bhdr =>
    intro p q d s t h r c
    exact ⟨fun hs hk => ⟨bhdr_waits h r hs hk, fun k l => bhdr_takes h r hs hk⟩, bhdr_traps h r⟩
  case unheld =>
    intro p q d a b s s1 t v h hk traps
    refine ⟨fun r => ⟨?_, ?_, ?_⟩, fun r => ?_, fun r => ?_, fun r => ⟨?_, ?_⟩⟩
    · exact bits_trap h r (exec_bget ..) hk
    · exact bits_trap h r (exec_bpeek ..) hk
    · exact bits_trap h r (exec_bexp ..) hk
    · exact bits_trap h r (exec_bskip ..) hk
    · exact bits_trap h r (exec_bput ..) hk
    · exact bits_trap h r (exec_bflush ..) hk
    · exact bits_trap h r (exec_bsync ..) hk

end Sys2Proof.Machine
end

section
namespace Sys2Proof.Machine

/-! The answer to a thread that waits with a request: what its slot held does not outlive it (R89). -/

theorem portWrite_setThread (s : State) (tid j : Nat) (x : Thread) (c : BitVec 4) (v : Word) :
    (s.setThread j x).portWrite tid c v = (s.portWrite tid c v).setThread j x := by
  have core : (s.setThread j x).core (coreOf tid) = s.core (coreOf tid) := rfl
  simp only [State.portWrite, core]
  split
  · rfl
  split
  · split <;> rfl
  · rfl

/-- A result, for a thread that differs from the one in its slot only in what it waits for. -/
theorem result_setThread (s : State) (tid : Nat) (t x : Thread) (w : Wait) (d : BitVec 4) (v : Word) :
    (s.setThread tid x).result tid { t with wait := w } d v = s.result tid t d v := by
  by_cases hd : d.toNat < 12
  · have past : ({ t with wait := w }.setReg d v).past = (t.setReg d v).past := by
      rw [Thread.setReg, Thread.setReg]
      split <;> rfl
    simp only [State.result, State.writeReg, if_pos hd, State.retire, setThread_setThread, past]
  · rw [result_port (Nat.not_lt.1 hd), result_port (Nat.not_lt.1 hd), portWrite_setThread, State.retire, setThread_setThread]
    rfl

section
variable {s : State} {tid : Nat} {t : Thread} {r : Req} (ht : s.thread tid = some t) (hw : t.wait = .mem r) (hl : r.locs = [])
include ht hw hl

/-- The ticket number with which an engine accepted the command (R298). -/
theorem memoryReply_cpy (hk : r.kind = .cpy) (hn : r.n ≠ 0) (hd : State.writeRefused tid r.d (BitVec.ofNat 64 (r.n - 1)) = false) :
    exec (.memoryReply tid) s = .next (s.result tid t r.d (BitVec.ofNat 64 (r.n - 1))) := by
  rcases hh : r.held with _ | _
  · rw [memoryReply_serves ht hw hh]
    simp only [State.served, hk, if_neg hn, State.complete, finish_accepted hd]
  · rw [memoryReply_placeless ht hw hl hh]
    simp only [State.served, hk, if_neg hn, State.complete, finish_accepted hd, result_setThread]

/-- The state of a command, as its engine tells it (R306). -/
theorem memoryReply_cpyq (hk : r.kind = .cpyq)
    (hd : State.writeRefused tid r.d (BitVec.ofNat 64 (s.copyState (corePkg (coreOf tid)) (nth r.vals 0))) = false) :
    exec (.memoryReply tid) s =
      .next ((s.exchange (coreOf tid) (engPlace (128 * corePkg (coreOf tid) + (nth r.vals 0).toNat % 128))).result tid t r.d
        (BitVec.ofNat 64 (s.copyState (corePkg (coreOf tid)) (nth r.vals 0)))) := by
  have state (u : State) (a b : Nat) (p : Nat) (w : Word) : (u.exchange a b).copyState p w = u.copyState p w := rfl
  rcases hh : r.held with _ | _
  · rw [memoryReply_serves ht hw hh]
    simp only [State.served, hk, State.complete, state, finish_accepted hd]
  · have moved (u : State) (x : Thread) (a b : Nat) : (u.setThread tid x).exchange a b = (u.exchange a b).setThread tid x := rfl
    have told (u : State) (x : Thread) (p : Nat) (w : Word) : (u.setThread tid x).copyState p w = u.copyState p w := rfl
    rw [memoryReply_placeless ht hw hl hh]
    simp only [State.served, hk, State.complete, moved, told, state, finish_accepted hd, result_setThread]

end

/-! The issue of a copy command (R298, R299, R304). -/

section
variable {word : Word32} {p : BitVec 3} {q : BitVec 1} {d a b : BitVec 4} {kind : Nat} {s s1 : State} {t : Thread} {v : List Word}

/-- A checked chain on its way to the engine that it names. -/
def copyCmd (s1 : State) (c ctx kind : Nat) (val : Word) (x : CopyDesc) (r : List CopyDesc) : CopyCmd :=
  { core := c, ctx := ctx, kind := kind, descs := x :: r, val := val, eng := s1.engineFor c x, seq := 0 }

/-- What the thread of a copy command waits with: n is 0 until the engine has accepted it. -/
def copyWait (word : Word32) (d : BitVec 4) (n : Nat) : Wait := .mem { kind := .cpy, word := word, d := d, n := n }

theorem copyInstr_sends (h : s.Issues p q 4 t) (r : s.Reads t [a, b] [d] v s1) {n la : Nat} {x : CopyDesc} {l : List CopyDesc}
    (hn : n = if kind = 0 then (nth v 1).toNat % 16 + 1 else 1)
    (hc : s1.check (coreOf s.cur) t.ctx (nth v 0) (128 * n) segR 128 = .ok la) (hr : laRegion la = 1)
    (hl : laCore la = coreOf s.cur) (hb : s1.isBad la (128 * n) = false)
    (hx : s1.copyChain (coreOf s.cur) t.ctx kind (nth v 1) la n = .ok (x :: l)) :
    copyInstr word p q d a b kind s = .next ((s1.send (coreOf s.cur) (engPlace (s1.engineFor (coreOf s.cur) x)) 0
      (.copy (s1.engineFor (coreOf s.cur) x) (copyCmd s1 (coreOf s.cur) t.ctx kind (nth v 1) x l) s.cur)).wait s.cur t
        (copyWait word d 0)) := by
  have here : ¬ (laRegion la ≠ 1 ∨ laCore la ≠ coreOf s.cur) := by simp [hr, hl]
  rw [copyInstr, act_runs h r]
  simp only [← hn, hc, if_neg here, hb, hx, Bool.false_eq_true, if_false]
  rfl

theorem cpyq_asks (h : s.Issues p q 4 t) (r : s.Reads t [a] [d] v s1) : exec (.cpyq p q d a) s =
    .next (s1.wait s.cur t (.mem { kind := .cpyq, word := wordOf (.cpyq p q d a), d := d, vals := [nth v 0] })) := by
  rw [exec_cpyq, execCpyq]
  simp only [act_runs h r]
  rfl

end

/-! Acceptance (R298, R308). -/

/-- The queue of an engine with one more job. -/
def Engine.enqueued (k : Engine) (j : Job) : Engine := { k with queue := k.queue ++ [j] }

/-- A command that goes to its engine alone. -/
def soloJob (cmd : CopyCmd) : Job := { cmds := [cmd], combined := false, run := none, turns := [] }

theorem joinWindow_closed {x : CopyCmd} {now : Nat} {l : List CombWindow} (h : (l.any fun w => w.isOpen now) = false) :
    joinWindow x now l = none := by
  induction l with
  | nil => rfl
  | cons w r ih =>
    simp only [List.any_cons, Bool.or_eq_false_iff] at h
    rw [joinWindow, h.1, ih h.2]
    rfl

section
variable {s : State} {cmd : CopyCmd}

theorem acceptCopy_alone (h : cmd.combines = false ∨
      cmd.joins = false ∧ ((s.cluster (engCluster cmd.eng)).windows.any fun w => w.isOpen s.clock) = true) :
    s.acceptCopy cmd = if s.behindCombined cmd then none
      else if (s.engine (s.takesFor cmd.eng)).queue.length < 64 then
        some ((s.modEngine cmd.eng fun k => { k with seq := k.seq + 1 }).modEngine (s.takesFor cmd.eng) (·.enqueued (soloJob cmd)))
      else none := by
  rw [State.acceptCopy]
  rcases h with apart | ⟨fixed, opened⟩
  · simp only [apart, Bool.false_and, Bool.false_eq_true, if_false]
    rfl
  · simp only [fixed, opened, Bool.and_false, Bool.false_and, Bool.not_true, Bool.or_self, Bool.false_eq_true, if_false]
    rfl

/-- It enters the queue once none of its core's combined commands is in front of it and there is room. -/
theorem acceptCopy_enters (h : cmd.combines = false ∨
      cmd.joins = false ∧ ((s.cluster (engCluster cmd.eng)).windows.any fun w => w.isOpen s.clock) = true)
    (hb : s.behindCombined cmd = false) (hr : (s.engine (s.takesFor cmd.eng)).queue.length < 64) :
    s.acceptCopy cmd =
      some ((s.modEngine cmd.eng fun k => { k with seq := k.seq + 1 }).modEngine (s.takesFor cmd.eng) (·.enqueued (soloJob cmd))) :=
  (acceptCopy_alone h).trans ((if_neg (Bool.eq_false_iff.1 hb)).trans (if_pos hr))

theorem acceptCopy_held (h : cmd.combines = false ∨
      cmd.joins = false ∧ ((s.cluster (engCluster cmd.eng)).windows.any fun w => w.isOpen s.clock) = true)
    (hb : s.behindCombined cmd = true ∨ 64 ≤ (s.engine (s.takesFor cmd.eng)).queue.length) : s.acceptCopy cmd = none := by
  rw [acceptCopy_alone h]
  rcases hb with behind | full
  · exact if_pos behind
  · rw [if_neg (Nat.not_lt.2 full), ite_self]

/-- R308: where no window is open, a command that combines opens one. -/
theorem acceptCopy_opens (hc : cmd.combines = true)
    (ho : ((s.cluster (engCluster cmd.eng)).windows.any fun w => w.isOpen s.clock) = false) :
    s.acceptCopy cmd = some ((s.modEngine cmd.eng fun k => { k with seq := k.seq + 1 }).modCluster (engCluster cmd.eng) fun k =>
      { k with windows := k.windows ++ [{ since := s.clock, members := [cmd] }] }) := by
  have joins_none : (if cmd.combines && cmd.joins then joinWindow cmd s.clock (s.cluster (engCluster cmd.eng)).windows else none) = none := by
    rw [joinWindow_closed ho, ite_self]
  rw [State.acceptCopy]
  simp only [joins_none]
  simp only [hc, ho, Bool.not_false, Bool.true_or, Bool.and_self, if_true]

/-- R308: it joins the first window when that is open, holds a command like it, and has room. -/
theorem acceptCopy_joins (hc : cmd.combines = true) (hj : cmd.joins = true) {w : CombWindow} {r : List CombWindow} {y : CopyCmd}
    {l : List CopyCmd} (hw : (s.cluster (engCluster cmd.eng)).windows = w :: r) (hm : w.members = y :: l) (ho : w.isOpen s.clock = true)
    (hs : sameCopy cmd y = true) (hl : w.members.length < 36) :
    s.acceptCopy cmd = some ((s.modEngine cmd.eng fun k => { k with seq := k.seq + 1 }).modCluster (engCluster cmd.eng) fun k =>
      { k with windows := { w with members := w.members ++ [cmd] } :: r }) := by
  have joined : joinWindow cmd s.clock (w :: r) = some ({ w with members := w.members ++ [cmd] } :: r) := by
    rw [joinWindow]
    simp only [ho, hm, hs, Bool.true_and]
    exact if_pos (decide_eq_true (hm ▸ hl))
  rw [State.acceptCopy]
  simp only [hc, hj, hw, joined, Bool.and_self, if_true]

end

section
variable {s s1 s2 : State} {n e tid : Nat} {m : Msg} {cmd : CopyCmd} (hd : s.deliver n = some (m, s1)) (hb : m.body = .copy e cmd tid)
include hd hb

theorem copyCommandAccept_accepts (h : s1.acceptCopy { cmd with seq := (s.engine e).seq % 2 ^ 24 } = some s2) :
    exec (.copyCommandAccept n) s = .next (s2.answer m.dst (some tid) .cpy ((s.engine e).seq % 2 ^ 24 * 256 + e % 128 + 1)) := by
  rw [exec_copyCommandAccept, execCopyCommandAccept]
  simp only [hd, hb, h]

theorem copyCommandAccept_waits (h : s1.acceptCopy { cmd with seq := (s.engine e).seq % 2 ^ 24 } = none) :
    exec (.copyCommandAccept n) s = .next s := by
  rw [exec_copyCommandAccept, execCopyCommandAccept]
  simp only [hd, hb, h]

end

/-- R308: a window that has been open for 256 cycles closes, and its members go to the engine as one group. -/
theorem combiningWindowClose_answers {s : State} {cl : Nat} {w : CombWindow} {r : List CombWindow} {m : CopyCmd} {l : List CopyCmd}
    (hw : (s.cluster cl).windows = w :: r) (hm : w.members = m :: l) : exec (.combiningWindowClose cl) s = .next (
      if w.since + 256 ≤ s.clock ∧ (s.engine (s.takesFor m.eng)).queue.length < 64 then
        (s.modCluster cl fun k => { k with windows := r }).modEngine (s.takesFor m.eng) fun k =>
          { k with queue := k.queue ++ [{ cmds := w.members, combined := true, run := none, turns := [] }] }
      else s) := by
  rw [exec_combiningWindowClose, execCombiningWindowClose]
  simp only [hw, hm]
  split <;> rfl

section
variable {s1 : State} {word : Word32} {c ctx kind tid : Nat} {val : Word} {x : CopyDesc} {r : List CopyDesc} {t : Thread} {d : BitVec 4}

/-- A command that combines with nothing, whose engine has room, is accepted as its message arrives. -/
theorem copyCommand_accepted (apart : (copyCmd s1 c ctx kind val x r).combines = false)
    (behind : s1.behindCombined (copyCmd s1 c ctx kind val x r) = false)
    (room : (s1.engine (s1.takesFor (s1.engineFor c x))).queue.length < 64)
    (first : ∀ m ∈ s1.net, ¬ (m.src = c ∧ m.dst = engPlace (s1.engineFor c x) ∧ m.chan = 0))
    (reaches : s1.fab.reaches (placeDie c) (placeDie (engPlace (s1.engineFor c x))) = true) :
    ∃ u : State, exec (.copyCommandAccept s1.net.length) ((s1.send c (engPlace (s1.engineFor c x)) 0
        (.copy (s1.engineFor c x) (copyCmd s1 c ctx kind val x r) tid)).setThread tid (t.waiting (copyWait word d 0))) =
      .next (u.setThread tid (t.waiting (copyWait word d
        ((s1.engine (s1.engineFor c x)).seq % 2 ^ 24 * 256 + s1.engineFor c x % 128 + 1)))) := by
  generalize he : engPlace (s1.engineFor c x) = place at first reaches
  have delivered := deliver_newest (s := (s1.send c place 0
    (.copy (s1.engineFor c x) (copyCmd s1 c ctx kind val x r) tid)).setThread tid (t.waiting (copyWait word d 0)))
    (l := s1.net) rfl reaches first
  have taken := copyCommandAccept_accepts delivered rfl
    (acceptCopy_enters (cmd := { copyCmd s1 c ctx kind val x r with seq := (s1.engine (s1.engineFor c x)).seq % 2 ^ 24 })
      (.inl apart) behind room)
  refine ⟨_, taken.trans (congrArg _ (answer_reaches (t := t.waiting (copyWait word d 0)) ?_ rfl rfl rfl))⟩
  exact thread_setThread ..

end

end Sys2Proof.Machine
end

section
namespace Sys2Proof.Machine

/-! Bytes and numbers of memory (R22, R24). -/

theorem leNat_bytes (m : Mem) (k n : Nat) : leNat (m.bytes k n) = m.read k n := by
  induction n generalizing k with
  | zero => rfl
  | succ n ih => rw [Mem.bytes, Mem.read, leNat, ih]

theorem writeBytes_leBytes (m : Mem) (k n v : Nat) : m.writeBytes k (leBytes n v) = m.write k n v := by
  induction n generalizing m k v with
  | zero => rfl
  | succ n ih => rw [leBytes, Mem.writeBytes, Mem.write, ih]

theorem length_leBytes (n v : Nat) : (leBytes n v).length = n := by
  induction n generalizing v with
  | zero => rfl
  | succ n ih => rw [leBytes, List.length_cons, ih]

/-! An engine's access to an element of a local store, which lies in one page (R301). -/

theorem elemOff_zero (l : List (Nat × Int)) : elemOff l 0 = 0 := by
  induction l with
  | nil => rfl
  | cons x r ih => rw [elemOff, Nat.zero_mod, Nat.zero_div, ih]; simp

/-- n bytes from a linear address lie in a local store that decodes, and in one page. -/
structure State.InStore (s : State) (e la n : Nat) : Prop where
  region : laRegion la = 1
  decodes : s.decodes (corePkg (clBase (engCluster e))) la = true
  inPage : la % 65536 + n ≤ 65536

section
variable {s : State} {e need la n : Nat} (h : s.InStore e la n)
include h

theorem engDenied_store : s.engDenied e need la = false := by
  have decodes : s.decodes (engCluster e / 32) la = true := (decodes_region1 h.region).2 ((decodes_region1 h.region).1 h.decodes)
  have local_ : laRegion la ≠ 3 := by rw [h.region]; decide
  rw [State.engDenied]
  simp only [decodes, noProxy_inside local_, windowLacks_inside local_, Bool.not_true, Bool.or_self]

theorem translate_store (c : Nat) : s.translate c la = (.ok (.loc la), s) := by
  rw [State.translate]
  simp only [canonLa_local h.region, h.region]

theorem engPlaceOf_store : s.engPlaceOf e need la = (some (.loc la), s) := by
  rw [State.engPlaceOf]
  simp only [engDenied_store h, translate_store h, Bool.false_eq_true, if_false]
  rfl

theorem engPages_store : s.engPages e need [(la, n)] = .ok 1 := by
  have one : n ≤ 65536 - la % 65536 := by have := h.inPage; omega
  have ready : s.engReady e need la = .ok true := by
    rw [State.engReady]
    simp only [engDenied_store h, translate_store h, Bool.false_eq_true, if_false]
  simp only [State.engPages, ready, if_pos one]
  rfl

theorem engPieces_store : s.engPieces e need la n = (some [(.loc la, n)], s) := by
  have one : min n (65536 - la % 65536) = n := by have := h.inPage; omega
  rw [State.engPieces]
  simp only [engPlaceOf_store h, one, if_true]

end

/-! A command of one element (R300, R301). -/

/-- The head of an engine's queue is a command of one element that is written to a local store, and has a ticket in one. -/
structure State.CopiesOne (s : State) (e : Nat) (j : Job) (x : CopyCmd) (d : CopyDesc) : Prop where
  cmds : j.cmds = [x]
  descs : x.descs = [d]
  alone : j.combined = false
  enabled : (s.engine e).disabled = false
  good : descBad x d = false
  solid : d.stream = false
  one : d.count = 1
  linkedSrc : s.engLinked e d.src = true
  linkedDst : s.engLinked e d.dst = true
  dst : s.InStore e d.dst d.wd
  hasTkt : d.hasTkt = true
  tktRegion : laRegion d.tkt = 1
  tktWord : d.tkt % 8 = 0
  tktCore : s.coreOk (laCore d.tkt) = true
  uncounted : d.ctr.testBit 7 = false

/-- The value that the element takes: a fill's, or one of a local store that needs no conversion and is good. -/
inductive State.CopySource (s : State) (e : Nat) (x : CopyCmd) (d : CopyDesc) : Nat → Prop
  | fill (h : x.kind = 2) : CopySource s e x d (x.val.toNat % 2 ^ (8 * d.wd))
  | copy (h : x.kind = 0) (he : d.expand = false) (hc : d.compress = false) (hf : d.fmts % 16 = d.fmts / 16)
      (hs : s.InStore e d.src d.ws) (hb : s.isBad d.src d.ws = false) : CopySource s e x d (s.mem.read d.src d.ws)

/-- A state that differs from s in memory, its words' bits, the time-stamp counters and the clusters only. -/
def State.moved (s : State) (m : Mem) (f b : NatSet) (c : NatMap Nat) (k : NatMap Cluster) : State :=
  { s with mem := m, full := f, bad := b, tsc := c, clusters := k }

section
variable {s : State} {e v : Nat} {j : Job} {x : CopyCmd} {d : CopyDesc}

theorem State.CopySource.plain (h : s.CopySource e x d v) : (x.kind == 0 && (d.expand || d.compress)) = false := by
  cases h with
  | fill h => rw [h]; rfl
  | copy h he hc => rw [he, hc, Bool.or_self, Bool.and_false]

theorem State.CopySource.undealt (h : s.CopySource e x d v) : x.kind ≠ 1 := by
  cases h with
  | fill h => rw [h]; decide
  | copy h => rw [h]; decide

theorem copyTarget_zero (hk : x.kind ≠ 1) : s.copyTarget e x d 0 = some d.dst := by
  rw [State.copyTarget, if_neg hk, elemOff_zero, Int.zero_mul, Int.add_zero, Int.toNat_natCast]

theorem source_zero (d : CopyDesc) : ((d.src : Int) + elemOff d.sdims 0 * d.ws).toNat = d.src := by
  rw [elemOff_zero, Int.zero_mul, Int.add_zero, Int.toNat_natCast]

section
variable (h : s.CopiesOne e j x d)
include h

/-- It stays one in a state with the same cores and fabric, whose engine is enabled. -/
theorem State.CopiesOne.stays {u : State} {j' : Job} (hc : u.cores = s.cores) (hf : u.fab = s.fab)
    (he : (u.engine e).disabled = false) (hj : j'.cmds = j.cmds) (ha : j'.combined = j.combined) : u.CopiesOne e j' x d := by
  have ok (c : Nat) : u.coreOk c = s.coreOk c := by rw [State.coreOk, State.coreOk, State.core, State.core, hc]
  have linked (la : Nat) : u.engLinked e la = s.engLinked e la := by rw [State.engLinked, State.engLinked, hf]
  have decodes : u.decodes (corePkg (clBase (engCluster e))) d.dst = true := by
    have store := (decodes_region1 h.dst.region).1 h.dst.decodes
    exact (decodes_region1 h.dst.region).2 (by rw [ok]; exact store)
  exact { h with
    cmds := hj.trans h.cmds, alone := ha.trans h.alone, enabled := he, linkedSrc := (linked _).trans h.linkedSrc,
    linkedDst := (linked _).trans h.linkedDst, dst := ⟨h.dst.region, decodes, h.dst.inPage⟩, tktCore := (ok _).trans h.tktCore }

theorem State.CopiesOne.jobGood : s.jobBad e j = false := by
  simp only [State.jobBad, h.enabled, h.cmds, h.descs, h.good, List.all_cons, List.all_nil, Bool.and_true, Bool.or_self]

/-- No page of a local store has to be walked for. -/
theorem State.CopiesOne.needsNoWalk (hr : j.run = none) (hv : s.CopySource e x d v) : s.engNeeds e j = none := by
  have target : (List.range 1).filterMap (fun i => (s.copyTarget e x d i).map fun la => (la, d.wd)) = [(d.dst, d.wd)] := by
    simp [List.range_succ, copyTarget_zero hv.undealt]
  have reads : (if x.kind = 2 then Except.ok 1
      else s.engPages e segR ((List.range 1).map fun i => (((d.src : Int) + elemOff d.sdims i * d.ws).toNat, d.ws))) =
        (Except.ok 1 : Except (Nat × Nat) Nat) := by
    cases hv with
    | fill hk => rw [if_pos hk]
    | copy hk _ _ _ hs =>
      rw [List.range_one, List.map_cons, List.map_nil, source_zero, engPages_store hs, ite_self]
  rw [State.engNeeds]
  simp only [hr, h.cmds, h.descs, h.jobGood, hv.plain, h.one, reads, h.solid, h.good, target, engPages_store h.dst, Bool.or_self,
    Bool.false_eq_true, if_false, List.findSome?_cons, List.findSome?_nil]

omit h in
/-- The element read, converted where its formats differ: here they do not. -/
theorem State.CopySource.reads (hv : s.CopySource e x d v) : ∃ c : NatMap Nat,
    (if x.kind = 2 then (List.replicate 1 (x.val.toNat % 2 ^ (8 * d.wd), false), s)
      else ((s.engRead e d 1 0).1.map fun v => (d.convert v.1, v.2), (s.engRead e d 1 0).2)) =
      ([(v, false)], { s with tsc := c }) := by
  cases hv with
  | fill hk => exact ⟨s.tsc, if_pos hk⟩
  | copy hk _ _ hf hs hb =>
    have good : (s.engHears e (.loc d.src)).readGood (engCluster e) (.loc d.src) d.ws = (true, s.engHears e (.loc d.src)) :=
      congrArg (fun b => (!b, s.engHears e (.loc d.src))) hb
    have read : s.engRead e d 1 0 = ([(s.mem.read d.src d.ws, false)], s.engHears e (.loc d.src)) := by
      simp only [State.engRead, source_zero, engPieces_store hs, State.readPieces, good, List.append_nil, Bool.not_true,
        Bool.or_self, leNat_bytes]
      rfl
    refine ⟨(s.engHears e (.loc d.src)).tsc, ?_⟩
    rw [if_neg (by rw [hk]; decide), read, List.map_cons, List.map_nil, CopyDesc.convert, if_pos hf]
    rfl

end

/-- A good element is written at its place, its words full; nothing of it is refused (R145, R301). -/
theorem engWrite_one {la : Nat} (s : State) (e : Nat) (d : CopyDesc) (v : Nat) : ∃ (f b : NatSet) (c : NatMap Nat),
    s.engWrite e d [(some [(.loc la, d.wd)], v, false)] =
      ({ s with mem := s.mem.write la d.wd v, full := f, bad := b, tsc := c }, 1, 0) := by
  have writable : s.writable [] (some [(.loc la, d.wd)], v, false) = true := by
    simp [State.writable, State.sealedAt, NatSet.has]
  have fills (l : List Nat) (u : State) : ∃ f, l.foldl (fun s w => s.setFull (8 * w) true) u = { u with full := f } := by
    induction l generalizing u with
    | nil => exact ⟨u.full, rfl⟩
    | cons w r ih => exact ih _
  have stored : ∃ b c, (s.engHears e (.loc la)).storeBytes la ((leBytes d.wd v).take d.wd) =
      { s with mem := s.mem.write la d.wd v, bad := b, tsc := c } := by
    refine ⟨((s.engHears e (.loc la)).storeBytes la ((leBytes d.wd v).take d.wd)).bad, (s.engHears e (.loc la)).tsc, ?_⟩
    rw [List.take_of_length_le (Nat.le_of_eq (length_leBytes ..)), ← writeBytes_leBytes]
    rfl
  obtain ⟨b, c, stored⟩ := stored
  obtain ⟨f, full⟩ := fills (locWords [(.loc la, d.wd)]) { s with mem := s.mem.write la d.wd v, bad := b, tsc := c }
  refine ⟨f, b, c, ?_⟩
  rw [State.engWrite]
  simp only [List.foldl_cons, List.foldl_nil, Bool.false_eq_true, if_false, List.filter_cons, List.filter_nil, writable, if_true,
    Option.getD_some, State.storePieces, Loc.key, stored, full]
  simp [State.sealedAt]

/-- The run of a command of one element once its data are moved. -/
def oneMoved : CopyRun := { CopyRun.start with done := true, parts := [(0, (1, 0))] }

theorem State.CopiesOne.moves (h : s.CopiesOne e j x d) (hr : j.run = none) (hv : s.CopySource e x d v) :
    ∃ (f b : NatSet) (c : NatMap Nat),
      s.engPiece e j x d = (oneMoved, s.moved (s.mem.write d.dst d.wd v) f b c s.clusters) := by
  obtain ⟨c, read⟩ := hv.reads
  have target : ({ s with tsc := c } : State).copyTarget e x d 0 = some d.dst := copyTarget_zero hv.undealt
  have pieces : ({ s with tsc := c } : State).engPieces e segW d.dst d.wd = (some [(.loc d.dst, d.wd)], { s with tsc := c }) :=
    engPieces_store ⟨h.dst.region, h.dst.decodes, h.dst.inPage⟩
  obtain ⟨f, b, c', wrote⟩ := engWrite_one (la := d.dst) { s with tsc := c } e d v
  refine ⟨f, b, c', ?_⟩
  rw [State.engPiece, hr]
  simp only [h.jobGood, hv.plain, Bool.false_eq_true, if_false]
  rw [State.copyElements]
  simp only [h.one, read, h.solid, Bool.false_eq_true, if_false, h.cmds, State.copyMembers, h.descs, h.good, State.engTargets, target,
    pieces, wrote]
  rfl

end

/-! The turns that a descriptor needs (R201). -/

/-- A core has given the head of the queue a DMA turn. -/
def Engine.turnedBy (c : Nat) (k : Engine) : Engine :=
  match k.queue with
  | j :: l => { k with queue := { j with turns := NatSet.insert j.turns c } :: l }
  | [] => k

section
variable {s : State} {e c : Nat}

theorem copyCommandCompletion_engine (h : e < 2 ^ 43) : exec (.copyCommandCompletion e) s = .next (s.engineWork e) := by
  rw [exec_copyCommandCompletion, execCopyCommandCompletion, if_neg (by omega)]

theorem copyCommandCompletion_turn (h : c < 2 ^ 24) :
    exec (.copyCommandCompletion (2 ^ 43 + 2 ^ 24 * e + c)) s = .next ((s.modEngine e (Engine.turnedBy c)).engineWork e) := by
  have engine : (2 ^ 43 + 2 ^ 24 * e + c - 2 ^ 43) / 2 ^ 24 = e := by omega
  have core : (2 ^ 43 + 2 ^ 24 * e + c - 2 ^ 43) % 2 ^ 24 = c := by omega
  rw [exec_copyCommandCompletion, execCopyCommandCompletion, if_pos (by omega), engine, core]
  rfl

variable {j : Job} {l : List Job} (hq : (s.engine e).queue = j :: l)
include hq

theorem turned_queue : ((s.modEngine e (Engine.turnedBy c)).engine e).queue = { j with turns := NatSet.insert j.turns c } :: l := by
  rw [engine_modEngine, Engine.turnedBy, hq]

theorem turned_disabled : ((s.modEngine e (Engine.turnedBy c)).engine e).disabled = (s.engine e).disabled := by
  rw [engine_modEngine, Engine.turnedBy, hq]

/-- What a job that has not begun needs does not depend on the turns that it has had. -/
theorem dmaNeeds_turned (hr : j.run = none) :
    (s.modEngine e (Engine.turnedBy c)).dmaNeeds e { j with turns := NatSet.insert j.turns c } = s.dmaNeeds e j := by
  obtain ⟨cmds, combined, run, turns⟩ := j
  subst hr
  have bad : (s.modEngine e (Engine.turnedBy c)).jobBad e ⟨cmds, combined, none, NatSet.insert turns c⟩ =
      s.jobBad e ⟨cmds, combined, none, turns⟩ := by
    rw [State.jobBad, State.jobBad, turned_disabled hq]
  cases cmds with
  | nil => rfl
  | cons x r =>
    rw [State.dmaNeeds, State.dmaNeeds]
    simp only [bad]
    rfl

theorem turnsLeft_turned (hr : j.run = none) (h : s.turnsLeft e = [c]) : (s.modEngine e (Engine.turnedBy c)).turnsLeft e = [] := by
  have left : ∀ y ∈ s.dmaNeeds e j, y ∉ j.turns → y = c := by
    intro y hy hn
    have : y ∈ s.turnsLeft e := by simpa [State.turnsLeft, hq, NatSet.has] using ⟨hy, hn⟩
    rw [h] at this
    exact List.mem_singleton.1 this
  rw [State.turnsLeft, turned_queue hq]
  simp only [dmaNeeds_turned hq hr]
  refine List.filter_eq_nil_iff.2 fun y hy => ?_
  by_cases had : y ∈ j.turns
  · simp [NatSet.has, mem_insert, had]
  · simp [NatSet.has, mem_insert, left y hy had]

end

/-! The data, then the ticket (R302). -/

theorem modEngine_congr {s : State} {e : Nat} {f g : Engine → Engine} (h : f (s.engine e) = g (s.engine e)) :
    s.modEngine e f = s.modEngine e g :=
  congrArg (fun k => { s with engines := s.engines.put e k }) h

section
variable {s : State} {e : Nat} {j : Job} {x : CopyCmd} {d : CopyDesc}

/-- The words of a ticket lie in one core's local store. -/
theorem dmaCores_word {la : Nat} (hr : laRegion la = 1) (hw : la % 8 = 0) (hc : s.coreOk (laCore la) = true) :
    s.dmaCores la 8 = [laCore la] := by
  have core : laCore (la + 7) = laCore la := by
    rw [laCore, laCore]
    omega
  have region : laRegion (la + 7) = 1 := by
    rw [laRegion, bits] at hr ⊢
    omega
  simp [State.dmaCores, hr, hc, core, region, NatSet.insert]

theorem State.CopiesOne.ticketTurn (h : s.CopiesOne e j x d) : s.ticketTurn e j oneMoved = [laCore d.tkt] := by
  have counts : s.countsNow e x d = true := by
    simp only [State.countsNow, h.uncounted, Bool.not_false, Bool.true_or]
  have first : j.cmds[oneMoved.counted]? = some x := by rw [h.cmds]; rfl
  simp only [State.ticketTurn, first, h.descs, h.hasTkt, h.tktRegion, counts, beq_self_eq_true, Bool.and_self, if_true,
    dmaCores_word h.tktRegion h.tktWord h.tktCore]

theorem turnsLeft_ticket (h : s.CopiesOne e j x d) (hq : (s.engine e).queue = [j]) (hr : j.run = some oneMoved) :
    s.turnsLeft e = if NatSet.has j.turns (laCore d.tkt) then [] else [laCore d.tkt] := by
  have needs : s.dmaNeeds e j = [laCore d.tkt] := by
    rw [State.dmaNeeds]
    simp only [hr, h.cmds, h.descs]
    exact (if_pos rfl).trans h.ticketTurn
  rw [State.turnsLeft, hq]
  simp only [needs, List.filter_cons, List.filter_nil]
  cases NatSet.has j.turns (laCore d.tkt) <;> rfl

/-- With its turns had, the engine moves the element; the ticket then waits for its own turn. -/
theorem engineWork_moves {v : Nat} (h : s.CopiesOne e j x d) (hq : (s.engine e).queue = [j]) (hr : j.run = none)
    (ht : s.turnsLeft e = []) (hv : s.CopySource e x d v) : ∃ (f b : NatSet) (c : NatMap Nat) (k : NatMap Cluster),
      s.engineWork e = (s.moved (s.mem.write d.dst d.wd v) f b c k).modEngine e fun y =>
        { y with queue := [{ j with run := some oneMoved, turns := [] }] } := by
  obtain ⟨f, b, c, moves⟩ := h.moves hr hv
  let u := (s.moved (s.mem.write d.dst d.wd v) f b c s.clusters).dropNotes (.engine e)
  have back : u.setRun e oneMoved = u.modEngine e fun y => { y with queue := [{ j with run := some oneMoved, turns := [] }] } :=
    modEngine_congr (by rw [show u.engine e = s.engine e from rfl, hq])
  have ticket : ((u.setRun e oneMoved).turnsLeft e).isEmpty = false := by
    have one : (u.setRun e oneMoved).CopiesOne e { j with run := some oneMoved, turns := [] } x d :=
      h.stays rfl rfl (by rw [back, engine_modEngine]; exact h.enabled) rfl rfl
    rw [turnsLeft_ticket one (by rw [back, engine_modEngine]) rfl]
    rfl
  refine ⟨f, b, c, u.clusters, ?_⟩
  rw [State.engineWork]
  simp only [hq, h.cmds, h.descs, h.linkedSrc, h.linkedDst, h.needsNoWalk hr hv, ht, hr, moves, List.isEmpty_nil, Bool.or_true,
    Bool.and_self, Bool.not_true, Bool.false_eq_true, if_false]
  refine (if_pos rfl).trans ((if_neg (Bool.eq_false_iff.1 ticket)).trans (back.trans ?_))
  rw [h.cmds]
  rfl

end

end Sys2Proof.Machine
end

section
namespace Sys2Proof.Machine

/-! The ticket, in its own DMA turn (R302). -/

section
variable {s : State} {e : Nat} {j : Job} {x : CopyCmd} {d : CopyDesc}

theorem markBlock_word (s : State) {la : Nat} (b : Bool) (hw : la % 8 = 0) : s.markBlock la 8 b = s.setFull la b := by
  have word : wordsTouched la 8 = [la / 8] := by
    rw [wordsTouched, show (la + 8 + 7) / 8 - la / 8 = 1 by omega]
    rfl
  rw [State.markBlock, word, List.foldl_cons, List.foldl_nil, show 8 * (la / 8) = la by omega]

/-- The state after the ticket of one element, with the clocks of the two units. -/
def State.ticketed (s : State) (d : CopyDesc) (c : NatMap Nat) : State :=
  (({ s with tsc := c }).store d.tkt 8 (1 * 2 ^ 16 + 1)).setFull d.tkt true

/-- The ticket word of one element moved: one element, DONE and no other flag. -/
theorem ticketWord_oneMoved :
    ticketWord { oneMoved with nelem := oneMoved.nelem + (oneMoved.parts.at (0, 0) 0).1,
                               flags := oneMoved.flags ||| (oneMoved.parts.at (0, 0) 0).2 } 0 false % 2 ^ 64 = 1 * 2 ^ 16 + 1 := by
  decide

theorem State.CopiesOne.ends (h : s.CopiesOne e j x d) : ∃ c, s.copyEnds e oneMoved j.combined 0 x d = .ok (s.ticketed d c) := by
  have counts : s.countsNow e x d = true := by
    simp only [State.countsNow, h.uncounted, Bool.not_false, Bool.true_or]
  have placed : ¬ (d.hasTkt = false ∨ laRegion d.tkt ≠ 1) := by simp [h.hasTkt, h.tktRegion]
  let u := s.hear (s.dutyOf (laCore d.tkt)) (s.time (engPlace e))
  have core : u.coreOk (laCore d.tkt) = true := h.tktCore
  refine ⟨(u.hear (engPlace e) (u.time (s.dutyOf (laCore d.tkt)))).tsc, ?_⟩
  rw [State.copyEnds]
  simp only [h.alone, Bool.false_and, Bool.false_eq_true, if_false, if_neg placed, counts, Bool.not_true, if_pos h.uncounted]
  refine congrArg Except.ok ?_
  rw [if_pos core, ticketWord_oneMoved, markBlock_word _ _ h.tktWord]
  rfl

/-- With the ticket's turn had, the ticket is written, and the command leaves its engine's queue. -/
theorem engineWork_tickets (h : s.CopiesOne e j x d) (hq : (s.engine e).queue = [j]) (hr : j.run = some oneMoved)
    (ht : s.turnsLeft e = []) : ∃ c, s.engineWork e = (s.ticketed d c).modEngine e fun k => { k with queue := nextJob k.queue } := by
  obtain ⟨c, ends⟩ := h.ends
  have needs : s.engNeeds e j = none := by
    rw [State.engNeeds]
    simp only [hr, h.cmds, h.descs]
    rfl
  have first : j.cmds[oneMoved.counted]? = some x := by rw [h.cmds]; rfl
  have last : j.cmds.length ≤ oneMoved.counted + 1 := by rw [h.cmds]; exact Nat.le_refl 1
  refine ⟨c, ?_⟩
  have finish : s.endDesc e j oneMoved = (s.ticketed d c).modEngine e fun k => { k with queue := nextJob k.queue } := by
    rw [State.endDesc]
    simp only [first, h.descs]
    rw [show oneMoved.counted = 0 from rfl, ends]
    exact if_pos last
  rw [State.engineWork]
  simp only [hq, h.cmds, h.descs, h.linkedSrc, h.linkedDst, needs, ht, hr, List.isEmpty_nil, Bool.or_true, Bool.and_self, Bool.not_true,
    Bool.false_eq_true, if_false, if_true]
  exact (if_pos rfl).trans finish

theorem laCore_lt (la : Nat) : laCore la < 2 ^ 24 := Nat.mod_lt _ (by decide)

/-- An engine's record may change without moving a command's source. -/
theorem State.CopySource.modEngine {v : Nat} (hv : s.CopySource e x d v) (f : Engine → Engine) :
    (s.modEngine e f).CopySource e x d v := by
  cases hv with
  | fill h => exact .fill h
  | copy h he hc hf hs hb => exact .copy (s := s.modEngine e f) h he hc hf ⟨hs.region, hs.decodes, hs.inPage⟩ hb

/-- The command that begins: with every turn had that its element needs. -/
structure State.Begins (s u : State) (e : Nat) (x : CopyCmd) (d : CopyDesc) (v : Nat) (j : Job) : Prop where
  mem : u.mem = s.mem
  threads : u.threads = s.threads
  copies : u.CopiesOne e j x d
  queue : (u.engine e).queue = [j]
  fresh : j.run = none
  turns : u.turnsLeft e = []
  source : u.CopySource e x d v

/-- Where the element waits for no turn, or for this one. -/
theorem copyCommandCompletion_begins {v n : Nat} (h : s.CopiesOne e j x d) (hq : (s.engine e).queue = [j]) (hr : j.run = none)
    (hv : s.CopySource e x d v)
    (hn : (n = e ∧ e < 2 ^ 43 ∧ s.turnsLeft e = []) ∨ ∃ c, n = 2 ^ 43 + 2 ^ 24 * e + c ∧ c < 2 ^ 24 ∧ s.turnsLeft e = [c]) :
    ∃ u j', s.Begins u e x d v j' ∧ exec (.copyCommandCompletion n) s = .next (u.engineWork e) := by
  obtain ⟨rfl, small, left⟩ | ⟨c, rfl, small, left⟩ := hn
  · exact ⟨s, j, ⟨rfl, rfl, h, hq, hr, left, hv⟩, copyCommandCompletion_engine small⟩
  · refine ⟨s.modEngine e (Engine.turnedBy c), { j with turns := NatSet.insert j.turns c }, ⟨rfl, rfl, ?_, turned_queue hq, hr, ?_, ?_⟩,
      copyCommandCompletion_turn small⟩
    · exact h.stays rfl rfl ((turned_disabled hq).trans h.enabled) rfl rfl
    · exact turnsLeft_turned hq hr left
    · exact hv.modEngine _

/-- The element, then the ticket in a turn of its core. -/
theorem State.Begins.wrote {u : State} {v : Nat} (b : s.Begins u e x d v j) : ∃ s2 : State,
    (u.engineWork e).mem = s.mem.write d.dst d.wd v ∧ (u.engineWork e).threads = s.threads ∧
    (u.engineWork e).turnsLeft e = [laCore d.tkt] ∧
    exec (.copyCommandCompletion (2 ^ 43 + 2 ^ 24 * e + laCore d.tkt)) (u.engineWork e) = .next s2 ∧
    s2.mem = (u.engineWork e).mem.write d.tkt 8 (1 * 2 ^ 16 + 1) ∧ s2.isFull d.tkt = true ∧ (s2.engine e).queue = [] ∧
    s2.threads = s.threads := by
  obtain ⟨f, bad, c, k, work⟩ := engineWork_moves b.copies b.queue b.fresh b.turns b.source
  let j1 : Job := { j with run := some oneMoved, turns := [] }
  let j2 : Job := { j1 with turns := NatSet.insert [] (laCore d.tkt) }
  generalize hs1 : u.engineWork e = s1
  have queue : (s1.engine e).queue = [j1] := by rw [← hs1, work, engine_modEngine]
  have enabled : (s1.engine e).disabled = false := by rw [← hs1, work, engine_modEngine]; exact b.copies.enabled
  have one : s1.CopiesOne e j1 x d := b.copies.stays (by rw [← hs1, work]; rfl) (by rw [← hs1, work]; rfl) enabled rfl rfl
  let s1' := s1.modEngine e (Engine.turnedBy (laCore d.tkt))
  have queue' : (s1'.engine e).queue = [j2] := turned_queue queue
  have one' : s1'.CopiesOne e j2 x d := one.stays rfl rfl ((turned_disabled queue).trans enabled) rfl rfl
  have had : s1'.turnsLeft e = [] := by
    rw [turnsLeft_ticket one' queue' rfl]
    simp [j2, NatSet.has, NatSet.insert]
  obtain ⟨c', tickets⟩ := engineWork_tickets one' queue' rfl had
  have threads : s1.threads = s.threads := by rw [← hs1, work]; exact b.threads
  refine ⟨(s1'.ticketed d c').modEngine e fun k => { k with queue := nextJob k.queue }, ?_, threads, ?_, ?_, rfl, ?_, ?_, threads⟩
  · rw [← hs1, work, ← b.mem]
    rfl
  · rw [turnsLeft_ticket one queue rfl]
    rfl
  · rw [copyCommandCompletion_turn (laCore_lt _), tickets]
  · exact isFull_setFull (({ s1' with tsc := c' } : State).store d.tkt 8 (1 * 2 ^ 16 + 1)) d.tkt true
  · have ends : nextJob [j2] = [] := by simp [nextJob, j2, j1, b.copies.cmds, b.copies.descs]
    rw [engine_modEngine]
    exact (congrArg nextJob queue').trans ends

/-- An element that still waits for DMA turns. -/
theorem engineWork_waits (h : s.CopiesOne e j x d) (hq : (s.engine e).queue = [j]) (hn : s.engNeeds e j = none)
    (hl : s.turnsLeft e ≠ []) : s.engineWork e = s := by
  have left : (s.turnsLeft e).isEmpty = false := by simpa using hl
  rw [State.engineWork]
  simp only [hq, h.cmds, h.descs, h.linkedSrc, h.linkedDst, hn, left, Bool.or_true, Bool.and_self, Bool.not_true, Bool.not_false,
    Bool.false_eq_true, if_false]
  exact if_pos trivial

/-- An engine that lacks a page asks for its walk (R294). -/
theorem engineWork_asks {l : List Job} {y : List CopyCmd} {r : List CopyDesc} {a : Nat × Nat} (hq : (s.engine e).queue = j :: l)
    (hj : j.cmds = x :: y) (hx : x.descs = d :: r) (hs : s.engLinked e d.src = true)
    (hd : d.stream = true ∨ s.engLinked e d.dst = true) (hn : s.engNeeds e j = some a) :
    s.engineWork e = s.askWalk a.1 a.2 (.engine e) := by
  have linked : (d.stream || s.engLinked e d.dst) = true := Bool.or_eq_true_iff.2 hd
  rw [State.engineWork]
  simp only [hq, hj, hx, hs, linked, hn, Bool.and_self, Bool.not_true, Bool.false_eq_true, if_false]

end

/-! The obligation. -/

/-- Settles O48: a command's checks and its message, its acceptance and its answer, the window that combines, and the element, then
the ticket, of a command of one element. -/
theorem copyCommands : Obligations.CopyCommands := by
  unfold Obligations.CopyCommands
  refine ⟨?issue, ?query, ?reply, ?accept, ?close, ?one, ?walk⟩
  case issue =>
    intro p q d a b s s1 t v la x r h hr c n e cmd word req goes good ticket free gives
    have sent (kind : Nat) (i : Instr) (hi : exec i s = copyInstr (word kind) p q d a b kind s) (hg : good kind) : gives kind i := by
      obtain ⟨hc, region, here, solid, chain⟩ := hg
      refine ⟨hi.trans (copyInstr_sends h hr rfl hc region here solid chain), fun ⟨apart, behind, room, first, reaches, accepted⟩ => ?_⟩
      obtain ⟨u, accept⟩ := copyCommand_accepted (t := t) (word := word kind) (d := d) (tid := s.cur) apart behind room first reaches
      have going : goes kind = (s1.send c (engPlace e) 0 (.copy e (cmd kind) s.cur)).setThread s.cur (t.waiting (req kind 0)) :=
        wait_placeless rfl rfl
      refine ⟨u.setThread s.cur (t.waiting (req kind (ticket + 1))), ?_, thread_setThread .., ?_⟩
      · rw [going]
        exact accept
      · exact memoryReply_cpy (r := { kind := .cpy, word := word kind, d := d, n := ticket + 1 }) (thread_setThread ..) rfl rfl rfl
          (Nat.succ_ne_zero _) accepted
    exact ⟨sent 0 _ (exec_cpy ..), sent 1 _ (exec_cpyd ..), sent 2 _ (exec_cpyf ..)⟩
  case query =>
    intro p q d a s s1 t v h hr w u pkg n
    have waits : u.thread s.cur = some (t.waiting w) := by
      rw [show u = s1.setThread s.cur (t.waiting w) from wait_placeless rfl rfl]
      exact thread_setThread ..
    exact ⟨cpyq_asks h hr, fun accepted => 
      memoryReply_cpyq (r := { kind := .cpyq, word := wordOf (.cpyq p q d a), d := d, vals := [nth v 0] }) waits rfl rfl rfl accepted⟩
  case reply =>
    intro s tid t r ht hw hl
    refine ⟨fun hk hn hd => memoryReply_cpy ht hw hl hk hn hd, fun n hk hn hd => ?_⟩
    rw [hn] at hd ⊢
    exact memoryReply_cpyq ht hw hl hk hd
  case accept =>
    intro s s1 n m e cmd tid hd hb he seq job open_ alone
    subst he
    refine ⟨fun apart behind room => ?_, fun apart held => ?_, fun hc closed => ?_, fun w y l r hc hj hw hm ho hs hl => ?_⟩
    · exact copyCommandAccept_accepts hd hb (acceptCopy_enters (cmd := { cmd with seq := seq }) apart behind room)
    · exact copyCommandAccept_waits hd hb (acceptCopy_held (cmd := { cmd with seq := seq }) apart held)
    · exact copyCommandAccept_accepts hd hb (acceptCopy_opens (cmd := { cmd with seq := seq }) hc closed)
    · exact copyCommandAccept_accepts hd hb (acceptCopy_joins (cmd := { cmd with seq := seq }) hc hj hw hm ho hs hl)
  case close =>
    intro s cl w r m l hw hm
    rw [combiningWindowClose_answers hw hm]
    exact ⟨fun old room => congrArg _ (if_pos ⟨old, room⟩), fun young => congrArg _ (if_neg fun h => Nat.not_le.2 young h.1)⟩
  case one =>
    intro s e j x d hq hj hx hr ha hen good solid count pkg region decodes inPage linkedDst linkedSrc tkt tktRegion tktWord tktCore
      uncounted left
    have one : s.CopiesOne e j x d := ⟨hj, hx, ha, hen, good, solid, count, linkedSrc, linkedDst, ⟨region, decodes, inPage⟩, tkt,
      tktRegion, tktWord, tktCore, uncounted⟩
    refine ⟨fun needs more small => (copyCommandCompletion_engine small).trans (congrArg _ (engineWork_waits one hq needs more)), ?_⟩
    intro n hn wrote
    have moved (v : Nat) (hv : s.CopySource e x d v) : wrote v := by
      obtain ⟨u, j', begins, work⟩ := copyCommandCompletion_begins one hq hr hv hn
      obtain ⟨s2, done⟩ := begins.wrote
      exact ⟨u.engineWork e, s2, work, done⟩
    exact ⟨fun fill => moved _ (.fill fill), fun copy he hc hf hs hds hps hb => moved _ (.copy copy he hc hf ⟨hs, hds, hps⟩ hb)⟩
  case walk =>
    intro s e j l x y d r a small hq hj hx hs hd hn
    rw [copyCommandCompletion_engine small, engineWork_asks hq hj hx hs hd hn]

end Sys2Proof.Machine
end

section
namespace Sys2Proof.Machine

/-! A status comes back to its issuer (R410, R416). -/

/-- The state with the ticket of a collective written, where it has one. -/
def State.ticketSet (s : State) (o : Outstanding) (code : Nat) : State :=
  if o.ticket = 0 then s else (s.store o.ticket 8 (statusOf o.seq 0 code)).setFull o.ticket true

/-- The status that a thread's chain ends with: the first whose CODE is not 0, or else the last. -/
def chainStatus (l : List Word) : Word := (l.find? fun w => w.toNat % 256 != 0).getD (l.getLastD 0)

theorem chainStatus_good {l : List Word} (h : ∀ x ∈ l, x.toNat % 256 = 0) : chainStatus l = l.getLastD 0 := by
  have none_bad : (l.find? fun w => w.toNat % 256 != 0) = none :=
    List.find?_eq_none.2 fun x hx => by simp [h x hx]
  rw [chainStatus, none_bad, Option.getD_none]

theorem chainStatus_bad {l1 l2 : List Word} {x : Word} (h : ∀ y ∈ l1, y.toNat % 256 = 0) (hx : x.toNat % 256 ≠ 0) :
    chainStatus (l1 ++ x :: l2) = x := by
  have first : ((l1 ++ x :: l2).find? fun w => w.toNat % 256 != 0) = some x := by
    rw [List.find?_append, List.find?_eq_none.2 fun y hy => by simp [h y hy], List.find?_cons_of_pos (by simpa using hx)]
    rfl
  rw [chainStatus, first, Option.getD_some]

section
variable {s : State} {o : Outstanding} {t : Thread} {code : Nat}

theorem thread_ticketSet (tid : Nat) : (s.ticketSet o code).thread tid = s.thread tid := by
  rw [State.ticketSet]
  split <;> rfl

theorem fabEnds_waits {tid : Nat} (ht : s.thread tid = some t) (h : none ∈ t.fab) : s.fabEnds tid = s := by
  have waits : t.fab.all (·.isSome) = false := List.all_eq_false.2 ⟨none, h, by simp⟩
  rw [State.fabEnds]
  simp only [ht, waits, Bool.false_eq_true, and_false, if_false]

theorem fabEnds_all {tid : Nat} {l : List Word} (ht : s.thread tid = some t) (hw : t.wait = .held .fabric) (h : t.fab = l.map some)
    (hd : State.writeRefused tid t.fabD (chainStatus l) = false) :
    s.fabEnds tid = s.result tid { t with fab := [] } t.fabD (chainStatus l) := by
  have back : t.fab.all (·.isSome) = true := by simp [h]
  have words : t.fab.filterMap id = l := by simp [h]
  rw [State.fabEnds]
  simp only [ht, hw, back, words, and_self, if_true]
  exact finish_accepted hd

section
variable (ht : s.thread o.tid = some t) (hw : t.wait = .held .fabric) (hk : o.comm = false) (hr : o.record = none) (hc : o.code = 0)
include ht hw hk hr hc

/-- A status takes its place among those of its thread. -/
theorem returnStatus_thread : s.returnStatus o code = ((s.ticketSet o code).setThread o.tid
    { t with fab := t.fab.set o.place (some (BitVec.ofNat 64 (statusOf o.seq 0 code))) }).fabEnds o.tid := by
  have thread := (thread_ticketSet (s := s) (o := o) (code := code) o.tid).trans ht
  rw [State.ticketSet] at *
  rw [State.returnStatus]
  simp only [hr, hc, State.fabRecord, hk, if_true, Bool.false_eq_true, if_false, State.modThread, thread, hw]

theorem returnStatus_waits (h : none ∈ t.fab.set o.place (some (BitVec.ofNat 64 (statusOf o.seq 0 code)))) :
    s.returnStatus o code = (s.ticketSet o code).setThread o.tid
      { t with fab := t.fab.set o.place (some (BitVec.ofNat 64 (statusOf o.seq 0 code))) } :=
  (returnStatus_thread ht hw hk hr hc).trans (fabEnds_waits (thread_setThread ..) h)

/-- The last status ends the thread's wait. -/
theorem returnStatus_ends {l : List Word} {v : Word}
    (h : t.fab.set o.place (some (BitVec.ofNat 64 (statusOf o.seq 0 code))) = l.map some) (hv : chainStatus l = v)
    (hd : State.writeRefused o.tid t.fabD v = false) :
    s.returnStatus o code = ((s.ticketSet o code).setThread o.tid
      { t with fab := t.fab.set o.place (some (BitVec.ofNat 64 (statusOf o.seq 0 code))) }).result o.tid { t with fab := [] } t.fabD v := by
  subst hv
  rw [returnStatus_thread ht hw hk hr hc]
  exact fabEnds_all (t := { t with fab := t.fab.set o.place (some (BitVec.ofNat 64 (statusOf o.seq 0 code))) }) (thread_setThread ..) hw h hd

end

theorem returnStatus_comm (hk : o.comm = true) (hr : o.record = none) (hc : o.code = 0) (ht : o.ticket = 0) :
    s.returnStatus o code = s.pushX o.core 0 [statusOf o.seq o.op code] := by
  rw [State.returnStatus]
  simp only [hr, hc, State.fabRecord, hk, ht, if_true]

end

section
variable {s s1 : State} {n core g seq code : Nat} {m : Msg} {o : Outstanding} (hd : s.deliver n = some (m, s1))
  (hb : m.body = .status core g seq code)
include hd hb

theorem statusReturn_cut (h : s.fab.statusPasses g m.src core = false) : exec (.statusReturn n) s = .next (s1.cutOff g seq [core]) := by
  rw [exec_statusReturn, execStatusReturn]
  simp only [hd, hb, h, Bool.false_eq_true, if_false]

section
variable (h : s.fab.statusPasses g m.src core = true)
  (hf : (s1.fab.flight.find? fun o => o.core == core && o.grp == g && o.seq == seq && !o.cut) = some o)
include h hf

theorem statusReturn_last (hl : o.left ≤ 1) : exec (.statusReturn n) s =
    .next ((s1.modFab fun f => { f with flight := s1.fab.flight.erase o }).returnStatus o code) := by
  rw [exec_statusReturn, execStatusReturn]
  simp only [hd, hb, h, if_true, State.statusArrives, hf, if_neg (Nat.not_lt.2 hl)]

/-- A multicast waits for the status of every member. -/
theorem statusReturn_more (hl : 1 < o.left) : exec (.statusReturn n) s = .next (s1.modFab fun f =>
    { f with flight := s1.fab.flight.erase o ++ [{ o with left := o.left - 1, code := if o.code = 0 then code else o.code }] }) := by
  rw [exec_statusReturn, execStatusReturn]
  simp only [hd, hb, h, if_true, State.statusArrives, hf, if_pos hl]

end

end

/-! A chain's issue (R410, R417). -/

/-- A thread held for the statuses of n descriptors. -/
def Thread.fabHeld (t : Thread) (n : Nat) (d : BitVec 4) : Thread :=
  { t with wait := .held .fabric, fab := List.replicate n none, fabD := d }

theorem fabInstr_issues {word : Word32} {p : BitVec 3} {q : BitVec 1} {d a b : BitVec 4} {op la n : Nat} {s s1 s2 s3 : State} {t : Thread}
    {v : List Word} {l : List Contribution} {rs : List (Option Rec)} (h : s.Issues p q 4 t) (r : s.Reads t [a, b] [d] v s1)
    (hx : t.relaxed = []) (hn : n = (nth v 1).toNat % 16 + 1)
    (hc : s1.check (coreOf s.cur) t.ctx (nth v 0) (64 * n) segR 64 = .ok la) (hr : laRegion la = 1) (hl : laCore la = coreOf s.cur)
    (hb : s1.isBad la (64 * n) = false) (chain : s1.cdChain (coreOf s.cur) t.ctx op la n = .ok l)
    (pages : s1.cdPages (coreOf s.cur) l = (none, s2))
    (gates : s2.fabGates (s2.logMode s.cur t) (cxOf (coreOf s.cur) t) (coreDie (coreOf s.cur)) (coreOf s.cur) (srcOf s.cur) t.pc.toNat l =
      .ok (s3, rs)) :
    fabInstr word p q d a b op s = .next (((s3.setThread s.cur (t.fabHeld n d)).issueChain (coreOf s.cur) (cxOf (coreOf s.cur) t) op s.cur
      false 0 (l.zip rs)).fabEnds s.cur) := by
  have here : ¬ (laRegion la ≠ 1 ∨ laCore la ≠ coreOf s.cur) := by simp [hr, hl]
  rw [fabInstr, act_runs h r, drained_none hx]
  simp only [← hn, hc, if_neg here, hb, chain, pages, gates, Bool.false_eq_true, if_false]
  rfl

/-! A descriptor's issue: a code at once, or its place in the queue of the core's port (R410, R417). -/

section
variable {s : State} {c cx op tid place : Nat} {comm : Bool} {x : Contribution} {r : Option Rec}

/-- A descriptor is answered with a code as it is issued. -/
def State.Answered (s : State) (c cx op tid place : Nat) (comm : Bool) (x : Contribution) (r : Option Rec) (code : Nat) : Prop :=
  ∃ o : Outstanding, s.contribute c cx op tid place comm x r = s.returnStatus o code ∧
    o.core = c ∧ o.tid = tid ∧ o.place = place ∧ o.comm = comm ∧ o.ticket = x.tkt ∧ o.code = 0

theorem contribute_noGroup (h : s.fab.group (cdGroup x.bytes) = none) : s.Answered c cx op tid place comm x r 3 := by
  rw [State.Answered, State.contribute]
  simp only [h]
  exact ⟨_, rfl, rfl, rfl, rfl, rfl, rfl, rfl⟩

theorem contribute_noMember (h : s.fab.member (cdGroup x.bytes) c = none) : s.Answered c cx op tid place comm x r 3 := by
  rw [State.Answered, State.contribute]
  simp only [h]
  cases s.fab.group (cdGroup x.bytes) <;> exact ⟨_, rfl, rfl, rfl, rfl, rfl, rfl, rfl⟩

section
variable {g : Group} {m : Member} (hg : s.fab.group (cdGroup x.bytes) = some g) (hm : s.fab.member (cdGroup x.bytes) c = some m)
  (hi : g.installed = true) (hx : m.cx = cx)
include hg hm hi hx

theorem contribute_broken (hb : g.broken = true) : s.Answered c cx op tid place comm x r 7 := by
  have mine : ¬ (g.installed = false ∨ m.cx ≠ cx) := by simp [hi, hx]
  rw [State.Answered, State.contribute]
  simp only [hg, hm, if_neg mine, if_pos hb]
  exact ⟨_, rfl, rfl, rfl, rfl, rfl, rfl, rfl⟩

theorem contribute_badCast (hb : g.broken = false) (ho : op = 2) (hd : cdBad g.spec 2 x.bytes = true) :
    s.Answered c cx op tid place comm x r 6 := by
  have mine : ¬ (g.installed = false ∨ m.cx ≠ cx) := by simp [hi, hx]
  subst ho
  rw [State.Answered, State.contribute]
  simp only [hg, hm, if_neg mine, hb, hd, Bool.false_eq_true, if_false, if_true]
  exact ⟨_, rfl, rfl, rfl, rfl, rfl, rfl, rfl⟩

/-- What the core's port reads for a descriptor, in order of issue. -/
def State.castRead (s : State) (c : Nat) (x : Contribution) (g : Group) : FabRead :=
  { src := x.src, n := cdCount x.bytes * cdWidth x.bytes, port := portPlace (corePkg c) (memberLink g.spec c),
    sw := leafSw (specPlane g.spec) (corePkg c), targets := specMembers g.spec,
    chunk := { grp := cdGroup x.bytes, seq := 2 ^ 24 + s.fab.casts, core := c, op := 2, count := cdCount x.bytes, fmt := cdFmt x.bytes,
               dst := cdDst x.bytes, dcore := 0, vals := [], bad := cdBad g.spec 2 x.bytes,
               ctr := if (cdFlags x.bytes).testBit 0 then some (cdCtrn x.bytes % 64) else none } }

def treeRead (c op : Nat) (x : Contribution) (g : Group) (m : Member) : FabRead :=
  { src := x.src, n := cdCount x.bytes * cdWidth x.bytes, port := portPlace (corePkg c) (memberLink g.spec c),
    sw := leafSw (specPlane g.spec) (corePkg c), targets := [],
    chunk := { grp := cdGroup x.bytes, seq := m.next, core := c, op := op, count := cdCount x.bytes, fmt := cdFmt x.bytes,
               dst := cdDst x.bytes, dcore := cdDcore x.bytes, vals := [], bad := cdBad g.spec op x.bytes,
               ctr := if (cdFlags x.bytes).testBit 0 then some (cdCtrn x.bytes % 64) else none } }

theorem contribute_cast (hb : g.broken = false) (ho : op = 2) (hd : cdBad g.spec 2 x.bytes = false) :
    ((s.contribute c cx op tid place comm x r).core c).fabOut = (s.core c).fabOut ++ [s.castRead c x g] := by
  have mine : ¬ (g.installed = false ∨ m.cx ≠ cx) := by simp [hi, hx]
  subst ho
  rw [State.contribute]
  simp only [hg, hm, if_neg mine, hb, hd, Bool.false_eq_true, if_false, if_true, core_modCore]
  rw [State.castRead, hd]
  rfl

theorem contribute_tree (hb : g.broken = false) (ho : op ≠ 2) :
    ((s.contribute c cx op tid place comm x r).core c).fabOut = (s.core c).fabOut ++ [treeRead c op x g m] ∧
    ((s.contribute c cx op tid place comm x r).fab.member (cdGroup x.bytes) c).map (·.next) = some ((m.next + 1) % 2 ^ 24) := by
  have mine : ¬ (g.installed = false ∨ m.cx ≠ cx) := by simp [hi, hx]
  rw [State.contribute]
  simp only [hg, hm, if_neg mine, hb, Bool.false_eq_true, if_false, if_neg ho, core_modCore]
  refine ⟨rfl, ?_⟩
  refine congrArg (Option.map Member.next) (a₂ := some { m with next := (m.next + 1) % 2 ^ 24 }) ?_
  rw [Fabric.member]
  exact (congrArg (NatMap.find? · c) (at_put_same ..)).trans (find?_put_same ..)

end

end

/-! The port reads a source in local store (R410). -/

section
variable {s : State} {c : Nat} {p : FabRead} {l : List FabRead}

/-- The state in which a contribution leaves: the port has read, and the next one is first. -/
def State.portTook (s : State) (c : Nat) (p : FabRead) (l : List FabRead) : State :=
  (s.exchange p.port c).modCore c fun y => { y with fabOut := l }

theorem portReads_local (hl : (s.core c).fabOut = p :: l) (hr : laRegion p.src = 1) : exec (.reductionChunkArrival (2 ^ 49 + c)) s =
    .next ((s.portTook c p l).sendRead p (if s.isBad p.src p.n then none else some (s.mem.bytes p.src p.n))) := by
  have core : 2 ^ 49 + c - 2 ^ 49 = c := by omega
  rw [exec_reductionChunkArrival, execReductionChunkArrival, if_pos (by omega), core, State.portReads]
  simp only [hl, hr, if_true, State.srcBytes]
  rfl

theorem sendRead_cast (b : List Byte) (h : p.chunk.op = 2) : s.sendRead p (some b) =
    p.targets.foldl (fun z m => z.send p.port m (16 + p.chunk.grp)
      (.write m { p.chunk with vals := b.map (·.toNat) } b [p.chunk.core])) s := by
  rw [State.sendRead]
  simp only [h]

theorem sendRead_castFails (h : p.chunk.op = 2) : s.sendRead p none = s.readFails p.chunk := by
  rw [State.sendRead]
  simp only [h]

/-- A chunk for the tree, with its elements rounded into FP32. -/
theorem sendRead_tree (data : Option (List Byte)) (h : p.chunk.op ≠ 2) :
    s.sendRead p data = (if data.isNone then s.readFails p.chunk else s).send p.port (swPlace p.sw) (16 + p.chunk.grp)
      (.chunk p.sw (memberPort p.chunk.core) { p.chunk with
        vals := (elements (fmtWidth (p.chunk.fmt % 16)) p.chunk.count (data.getD [])).map fun v =>
          Fmt.fp32.round .rne 0 true ((if p.chunk.fmt = 1 then Fmt.bf16 else Fmt.fp32).decode v),
        bad := p.chunk.bad || data.isNone }) := by
  rw [State.sendRead]
  · exact fun two _ => h two
  · exact fun _ two _ => h two

variable {k : Chunk} {o : Outstanding}
  (hf : (s.fab.flight.find? fun o => o.core == k.core && o.grp == k.grp && o.seq == k.seq) = some o)
include hf

theorem readFails_cast (h : k.op = 2) :
    s.readFails k = (s.modFab fun f => { f with flight := f.flight.erase o }).returnStatus o 4 := by
  rw [State.readFails]
  simp only [hf, if_pos h]

theorem readFails_tree (h : k.op ≠ 2) (hc : o.code = 0) : s.readFails k =
    s.modFab fun f => { f with flight := f.flight.map fun x => if x = o then { o with code := 4 } else x } := by
  rw [State.readFails]
  simp only [hf, if_neg h, hc, if_true]

end

/-- The width of a format that a reduction takes. -/
theorem fmtWidth_reduced {fmt : Nat} (h : fmt < 2) : fmtWidth (fmt % 16) = (if fmt = 1 then Fmt.bf16 else Fmt.fp32).bytes := by
  obtain rfl | rfl : fmt = 0 ∨ fmt = 1 := by omega
  · decide
  · decide

/-! A member that is cut off, and the queues of the communication thread (R413, R416). -/

theorem memberCutoffTimeout_late {s : State} {core g seq : Nat} {o : Outstanding} {x : Group} (hf : s.fab.flight = [o])
    (hc : o.core = core) (hg : o.grp = g) (hs : o.seq = seq) (hx : s.fab.group g = some x)
    (cut : s.fab.connected x.spec core = false) (late : o.since + 2000 * o.tout ≤ s.ticks) :
    exec (.memberCutoffTimeout core g seq) s = .next ((s.modFab fun f => { f with flight := [] }).returnStatus { o with code := 7 } 7) := by
  have gone : (s.modFab fun f => { f with flight := f.flight.erase o }) = s.modFab fun f => { f with flight := [] } :=
    congrArg (fun l => s.modFab fun f => { f with flight := l }) (by rw [hf, List.erase_cons_head])
  rw [exec_memberCutoffTimeout, execMemberCutoffTimeout]
  simp [hf, hc, hg, hs, hx, cut, late, gone]

theorem memberCutoffTimeout_waits {s : State} {core g seq : Nat} {o : Outstanding} {x : Group} (hf : s.fab.flight = [o])
    (hx : s.fab.group g = some x)
    (h : (s.fab.connected x.spec core = true ∧ o.cut = false) ∨ s.ticks < o.since + 2000 * o.tout) :
    exec (.memberCutoffTimeout core g seq) s = .next s := by
  rw [exec_memberCutoffTimeout, execMemberCutoffTimeout]
  rcases h with ⟨linked, whole⟩ | early
  · simp [hf, hx, linked, whole]
  · simp [hf, hx, Nat.not_le.2 early]

theorem commX3Query_answers {s : State} {core : Nat} {w : Word} {r : List Word} (h : (s.core core).xq.at [] 3 = w :: r) :
    exec (.commX3Query core) s = .next ((s.modCore core fun k => { k with xq := k.xq.put 3 r }).pushX core 2
      [4 * 2 ^ 56 + w.toNat % 2 ^ 32,
        s.fab.query core (4 * corePkg core + (s.ownerOf core 15).getD 0) (w.toNat % 2 ^ 32)]) := by
  rw [exec_commX3Query, execCommX3Query]
  simp only [h]

section
variable {s : State} {core x : Nat} {w : Word} {r : List Word}

/-- An element of x1 names a chain: its operation, its descriptors and their address. -/
def x1Op (w : Word) : Nat := bits w.toNat 33 32
def x1Count (w : Word) : Nat := bits w.toNat 39 36 + 1

/-- The state with the element taken from x1. -/
def State.x1Taken (s : State) (core : Nat) (r : List Word) : State := s.modCore core fun k => { k with xq := k.xq.put 1 r }

/-- The positions of an x1 chain's groups, once the pages of its sources are there. -/
def State.x1Gates (s : State) (core x : Nat) (r : List Word) (l : List Contribution) : Except FabGate (State × List (Option Rec)) :=
  ((l.flatMap (·.offs)).foldl (fun s o => (s.portPlaceOf (.slot (16 * core + 15)) (clusterOf core) o).2) (s.x1Taken core r)).fabGates
    (s.ctx (4 * corePkg core + x)).replay (4 * corePkg core + x) (coreDie core) core (srcOf (16 * core + 15)) 0 l

/-- What becomes of an x1 chain at the positions of its groups. -/
def State.x1Gated (s : State) (core x : Nat) (w : Word) (l : List Contribution) : Except FabGate (State × List (Option Rec)) → State
  | .ok (s3, rs) => ((s3.chainGoes (4 * corePkg core + x) (srcOf (16 * core + 15)) l none).issueChain core (4 * corePkg core + x) (x1Op w)
      (16 * core + 15) true 0 (l.zip rs)).dropNotes (.slot (16 * core + 15))
  | .error (.diverge o a e) => (s.chainGoes (4 * corePkg core + x) (srcOf (16 * core + 15)) l (some o)).unitDiverges (4 * corePkg core + x)
      (coreDie core) core (srcOf (16 * core + 15)) o a e
  | .error (.wait .replay o) => (s.chainGoes (4 * corePkg core + x) (srcOf (16 * core + 15)) l (some o)).unitWaits (4 * corePkg core + x)
      core (srcOf (16 * core + 15)) o
  | .error _ => s

/-- What becomes of a checked x1 chain: a page of its sources is walked for, or has no entry, or its groups' positions are asked for. -/
def State.x1Chain (s : State) (core x : Nat) (w : Word) (r : List Word) (l : List Contribution) : State :=
  match s.portMiss (.slot (16 * core + 15)) (clusterOf core) (l.flatMap (·.offs)) with
  | some o => s.askWalk (clusterOf core) o (.slot (16 * core + 15))
  | none =>
    match (s.x1Taken core r).commPages (16 * core + 15) l with
    | some va => ((s.x1Taken core r).modThread (16 * core + 15) (·.relFaulted ⟨7, va⟩)).dropNotes (.slot (16 * core + 15))
    | none => s.x1Gated core x w l (s.x1Gates core x r l)

variable (hq : (s.core core).xq.at [] 1 = w :: r) (ho : s.ownerOf core 15 = some x)
include hq ho

theorem commX1Element_fault {e : Trap} (hc : (s.x1Taken core r).check core x (w &&& 0xFFFFF) (64 * x1Count w) segR 64 = .error e) :
    exec (.commX1Element core) s = .next ((s.x1Taken core r).modThread (16 * core + 15) (·.relFaulted e)) := by
  rw [State.x1Taken, x1Count] at hc
  rw [exec_commX1Element, execCommX1Element]
  simp only [hq, ho, hc]
  rfl

omit hq ho

theorem x1Chain_walks {l : List Contribution} {o : Nat}
    (h : s.portMiss (.slot (16 * core + 15)) (clusterOf core) (l.flatMap (·.offs)) = some o) :
    s.x1Chain core x w r l = s.askWalk (clusterOf core) o (.slot (16 * core + 15)) := by
  rw [State.x1Chain, h]

section
variable {l : List Contribution} (h : s.portMiss (.slot (16 * core + 15)) (clusterOf core) (l.flatMap (·.offs)) = none)
include h

theorem x1Chain_unmapped {va : Word} (hp : (s.x1Taken core r).commPages (16 * core + 15) l = some va) : s.x1Chain core x w r l =
    ((s.x1Taken core r).modThread (16 * core + 15) (·.relFaulted ⟨7, va⟩)).dropNotes (.slot (16 * core + 15)) := by
  rw [State.x1Chain, h, hp]

theorem x1Chain_gated {gates : Except FabGate (State × List (Option Rec))}
    (hp : (s.x1Taken core r).commPages (16 * core + 15) l = none) (hg : s.x1Gates core x r l = gates) :
    s.x1Chain core x w r l = s.x1Gated core x w l gates := by
  rw [State.x1Chain, h, hp, hg]

end

include hq ho

theorem commX1Element_chain {la : Nat} {l : List Contribution}
    (hc : (s.x1Taken core r).check core x (w &&& 0xFFFFF) (64 * x1Count w) segR 64 = .ok la) (hb : s.isBad la (64 * x1Count w) = false)
    (chain : (s.x1Taken core r).cdChain core x (x1Op w) la (x1Count w) = .ok l) :
    exec (.commX1Element core) s = .next (s.x1Chain core x w r l) := by
  rw [State.x1Taken, x1Count] at hc chain
  rw [x1Count] at hb
  rw [x1Op] at chain
  rw [exec_commX1Element, execCommX1Element, State.x1Chain, State.x1Taken, State.x1Gates, State.x1Taken]
  simp only [hq, ho, hc, hb, chain, Bool.false_eq_true, if_false]
  cases s.portMiss (.slot (16 * core + 15)) (clusterOf core) (l.flatMap (·.offs)) with
  | some o => rfl
  | none =>
    generalize State.commPages _ _ l = unmapped
    generalize State.fabGates _ _ _ _ _ _ _ l = gates
    cases unmapped with
    | some va => rfl
    | none =>
      rcases gates with (⟨s3, rs⟩ | ⟨h, o⟩ | ⟨o, a, e⟩) | ⟨s3, rs⟩
      · rfl
      · cases h <;> rfl
      · rfl
      · rfl

end

/-! The obligation. -/

/-- The thread of a chain of one descriptor ends with its status. -/
theorem statusReturn_ends {u u1 : State} {k c g seq code tid : Nat} {m : Msg} {o : Outstanding} {t : Thread} {d : BitVec 4}
    (hd : u.deliver k = some (m, u1)) (hb : m.body = .status c g seq code)
    (hf : (u1.fab.flight.find? fun o => o.core == c && o.grp == g && o.seq == seq && !o.cut) = some o)
    (ht : u1.thread tid = some (t.fabHeld 1 d)) (hi : o.tid = tid) (hl : o.left = 1) (hp : o.place = 0) (hc : o.code = 0)
    (hk : o.comm = false) (hr : o.record = none) (hn : o.ticket = 0) (hs : o.seq = seq) (passes : u.fab.statusPasses g m.src c = true)
    (accepted : State.writeRefused tid d (BitVec.ofNat 64 (statusOf seq 0 code)) = false) :
    exec (.statusReturn k) u = .next (((u1.modFab fun f => { f with flight := u1.fab.flight.erase o }).setThread tid
      { t.fabHeld 1 d with fab := [some (BitVec.ofNat 64 (statusOf seq 0 code))] }).result tid { t.fabHeld 1 d with fab := [] } d
        (BitVec.ofNat 64 (statusOf seq 0 code))) := by
  subst hi hs
  have one (v : Word) : (t.fabHeld 1 d).fab.set o.place (some v) = [v].map some := by rw [hp]; rfl
  have last (v : Word) : chainStatus [v] = v := by
    rw [chainStatus, List.find?_singleton]
    split <;> rfl
  rw [statusReturn_last hd hb passes hf (Nat.le_of_eq hl)]
  rw [returnStatus_ends (s := u1.modFab fun f => { f with flight := u1.fab.flight.erase o }) ht rfl hk hr hc (one _) (last _) accepted,
    State.ticketSet, if_pos hn, one]
  rfl

/-- Settles O53: a chain's issue, what each descriptor comes to, the reads of the port, the statuses and the queues of slot 15. -/
theorem collectives : Obligations.Collectives := by
  unfold Obligations.Collectives
  refine ⟨?issue, ?descriptor, ?port, ?status, ?comm, ?back, ?cut, ?x3, ?x1⟩
  case issue =>
    intro p q d a b s s1 s2 t v la h hr idle c n held sends good check region here solid
    refine ⟨fun l s3 rs => ?_, ?_⟩
    · have issues (w : Word32) (op : Nat) (hg : good op l s3 rs) : fabInstr w p q d a b op s = .next (sends op l s3 rs) :=
        fabInstr_issues h hr idle rfl check region here solid hg.1 hg.2.1 hg.2.2
      exact ⟨fun hg => (exec_gred ..).trans (issues _ 0 hg), fun hg => (exec_gldr ..).trans (issues _ 1 hg),
        fun hg => (exec_gmc ..).trans (issues _ 2 hg)⟩
    · intro u u1 k g seq code m o hd hb hf ht one hi hl hp hc hk hrec hn status hs passes accepted
      have alone : held = t.fabHeld 1 d := by rw [← one]; rfl
      rw [alone] at ht ⊢
      exact statusReturn_ends hd hb hf ht hi hl hp hc hk hrec hn hs passes accepted
  case descriptor =>
    intro s c cx op tid place comm x r answered
    refine ⟨contribute_noGroup, contribute_noMember, fun g m hg hm hi hx => ⟨contribute_broken hg hm hi hx, fun hb ho =>
      (contribute_tree hg hm hi hx hb ho).2, contribute_badCast hg hm hi hx, fun hb hp => ?_⟩⟩
    by_cases ho : op = 2
    · have good : cdBad g.spec 2 x.bytes = false := hp.resolve_left (not_not_intro ho)
      exact ⟨_, contribute_cast hg hm hi hx hb ho good, rfl, rfl, rfl, rfl, rfl, rfl, ho.symm, rfl, rfl, rfl, fun _ => rfl,
        fun h => absurd ho h⟩
    · exact ⟨_, (contribute_tree hg hm hi hx hb ho).1, rfl, rfl, rfl, rfl, rfl, rfl, rfl, rfl, rfl, rfl, fun h => absurd h ho,
        fun _ => ⟨rfl, rfl, rfl⟩⟩
  case port =>
    intro s c p l hl hr s1 k reads mine
    have goes := portReads_local hl hr
    refine ⟨fun cast solid => ?_, fun o cast bad hf => ?_, ?_, fun o tree bad hf hc => ?_⟩
    · rw [solid, if_neg Bool.false_ne_true, sendRead_cast _ cast] at goes
      exact goes
    · rw [bad, if_pos rfl, sendRead_castFails cast, readFails_cast (s := s.portTook c p l) hf cast] at goes
      exact goes
    · intro tree fmt good solid f v
      rw [solid, if_neg Bool.false_ne_true, sendRead_tree _ tree, fmtWidth_reduced fmt] at goes
      simp only [Option.isNone_some, Bool.or_false, Bool.false_eq_true, if_false] at goes
      exact goes
    · rw [bad, if_pos rfl, sendRead_tree _ tree, Option.isNone_none, Bool.or_true, if_pos rfl,
        readFails_tree (s := s.portTook c p l) hf tree hc] at goes
      exact ⟨_, goes⟩
  case status =>
    intro s o t ht hw hk hr hc code v s1 back
    refine ⟨returnStatus_waits ht hw hk hr hc, ?_⟩
    intro w l hl good ends
    have ending (z : Word) (hz : chainStatus (w :: l) = z) : ends z := returnStatus_ends ht hw hk hr hc hl hz
    refine ⟨fun all => ending _ (chainStatus_good all), fun l1 x l2 hx before bad => ending _ ?_⟩
    rw [hx]
    exact chainStatus_bad before bad
  case comm => exact fun s o code hk hr hc ht => returnStatus_comm hk hr hc ht
  case back =>
    intro s s1 n m core g seq code o hd hb
    exact ⟨statusReturn_cut hd hb, fun passes hf => ⟨statusReturn_last hd hb passes hf, statusReturn_more hd hb passes hf⟩⟩
  case cut =>
    intro s core g seq o x hf hc hg hs hx
    exact ⟨memberCutoffTimeout_late hf hc hg hs hx, fun linked whole => memberCutoffTimeout_waits hf hx (.inl ⟨linked, whole⟩),
      fun early => memberCutoffTimeout_waits hf hx (.inr early)⟩
  case x3 => exact fun s core w r h => commX3Query_answers h
  case x1 =>
    intro s core x w r hq ho s1 cx op n tid src answers
    refine ⟨fun e hc => commX1Element_fault hq ho hc, ?_⟩
    intro la l hc hb chain pages
    have goes (z : State) (hz : s.x1Chain core x w r l = z) : answers z :=
      (commX1Element_chain hq ho hc hb chain).trans (congrArg _ hz)
    refine ⟨fun o hm => goes _ (x1Chain_walks hm), fun hm => ⟨fun va hp => goes _ (x1Chain_unmapped hm hp), ?_⟩⟩
    intro hp s2 gates
    exact ⟨fun s3 rs hg => goes _ (x1Chain_gated hm hp hg), fun o hg => goes _ (x1Chain_gated hm hp hg),
      fun o a e hg => goes _ (x1Chain_gated hm hp hg)⟩

end Sys2Proof.Machine
end

section
namespace Sys2Proof.Machine

/-! Formats (R27). -/

theorem Fmt.width_le (f : Fmt) : f.width ≤ 64 := by cases f <;> decide

theorem Fmt.two_halves (f : Fmt) : 2 * 2 ^ (f.width - 1) = 2 ^ f.width := by cases f <;> decide

theorem Fmt.half_width (f : Fmt) : 2 ^ f.width / 2 = 2 ^ (f.width - 1) := by cases f <;> decide

/-! What an element-wise member gives for an element, by its major (R241 to R245, R248). -/

section
variable {s : State} {tid cx : Nat} {e : SeqEntry} {d a b : Shape} {pa pb pd k : Nat}

theorem vElem_vfp (hm : vMajor e.word = 40) (hf : vFn e.word = k) (hk : ¬ ((k = 6 ∨ k = 7) ∧ a.fmt = d.fmt)) :
    s.vElem tid cx e d a b pa pb pd =
      s.vRound tid cx e d.fmt (vSat e.word) (vfpOp k (a.fmt.decode pa) (b.fmt.decode pb) (d.fmt.decode pd)) := by
  rw [State.vElem]
  simp only [hm, hf, if_neg hk]

/-- Between equal formats vabs and vneg act on the pattern (R242). -/
theorem vElem_sign (hm : vMajor e.word = 40) (hf : vFn e.word = k) (hk : k = 6 ∨ k = 7) (hd : a.fmt = d.fmt) :
    s.vElem tid cx e d a b pa pb pd = (vSignOp k d.fmt pa, s) := by
  rw [State.vElem]
  simp only [hm, hf, hd, and_true, if_pos hk]

theorem vElem_vsfu (hm : vMajor e.word = 41) (hf : vFn e.word = k) :
    s.vElem tid cx e d a b pa pb pd = s.vRound tid cx e d.fmt (vSat e.word) (vsfuOp k (a.fmt.decode pa)) := by
  rw [State.vElem]
  simp only [hm, hf]

theorem vElem_vint (hm : vMajor e.word = 42) (hf : vFn e.word = k) : s.vElem tid cx e d a b pa pb pd =
    (d.fmt.putInt (vSat e.word) (vintOp k (a.fmt.decode pa).toInt (b.fmt.decode pb).toInt (d.fmt.int pd)), s) := by
  rw [State.vElem]
  simp only [hm, hf]

theorem vElem_copy (hm : vMajor e.word = 43) (hf : vFn e.word = 0) : s.vElem tid cx e d a b pa pb pd = (pa, s) := by
  rw [State.vElem]
  simp only [hm, hf]

theorem vElem_convert (hm : vMajor e.word = 43) (hf : vFn e.word = 1 ∨ vFn e.word = 2) : s.vElem tid cx e d a b pa pb pd =
    s.vRound tid cx e d.fmt (vSat e.word || a.fmt.isTapered) (a.fmt.decode pa) := by
  rw [State.vElem]
  rcases hf with hf | hf
  · simp only [hm, hf]
  · simp only [hm, hf]

theorem vElem_compare (hm : vMajor e.word = 45) :
    s.vElem tid cx e d a b pa pb pd = ((vcmpTest d.cond a.fmt b.fmt pa pb).toNat, s) := by
  rw [State.vElem]
  simp only [hm]

end

theorem vSignOp_ieee {f : Fmt} (h : f.isTapered = false) (p : Nat) : vSignOp 6 f p = p % 2 ^ (f.width - 1) ∧
    vSignOp 7 f p = (p + 2 ^ (f.width - 1)) % (2 * 2 ^ (f.width - 1)) := by
  rw [f.two_halves, vSignOp, vSignOp]
  simp only [h, f.half_width]
  exact ⟨rfl, rfl⟩

theorem vSignOp_tapered {f : Fmt} (h : f.isTapered = true) (p : Nat) :
    vSignOp 6 f p = (if 2 ^ (f.width - 1) ≤ p then (2 * 2 ^ (f.width - 1) - p) % (2 * 2 ^ (f.width - 1)) else p) ∧
    vSignOp 7 f p = (2 * 2 ^ (f.width - 1) - p) % (2 * 2 ^ (f.width - 1)) := by
  rw [f.two_halves, vSignOp, vSignOp]
  simp only [h, f.half_width, if_true]
  refine ⟨if_congr ?_ rfl rfl, rfl⟩
  simp

theorem least_nan {x y : Ex} (h : x.isNan = true ∨ y.isNan = true) : x.least y = .nan ∧ x.most y = .nan := by
  have : (x.isNan || y.isNan) = true := by simpa using h
  rw [Ex.least, Ex.most, this]
  exact ⟨rfl, rfl⟩

theorem least_numbers {x y : Ex} (hx : x.isNan = false) (hy : y.isNan = false) :
    x.least y = (if y.lessIeee x then y else x) ∧ x.most y = (if x.lessIeee y then y else x) := by
  rw [Ex.least, Ex.most, hx, hy]
  exact ⟨rfl, rfl⟩

theorem vScaled_number {x y : Ex} (hn : y.isNan = false) (hi : ∀ n, y ≠ .inf n) :
    vScaled x y = x.scale (max (-1024) (min 1024 y.toInt)) := by
  cases y with
  | nan => cases hn
  | inf n => exact absurd rfl (hi n)
  | zero n => rfl
  | fin n m e => rfl

/-! vcmp (R248): its tests in the order of COND. -/

/-- The outcomes of a comparison, from its less, equal and unordered. -/
def condList (lt eq un : Bool) : List Bool :=
  [eq && !un, !eq || un, lt && !un, (lt || eq) && !un, !lt && !eq && !un, !lt && !un, un, !un]

theorem condOf_list : ∀ lt eq un, ∀ c < 8, condOf c lt eq un = (condList lt eq un).getD c false := by decide

theorem condList_int (i j : Int) : condList (decide (i < j)) (decide (i = j)) false =
    [i == j, i != j, decide (i < j), decide (i ≤ j), decide (j < i), decide (j ≤ i), false, true] := by
  rcases lt_trichotomy i j with h | h | h
  · simp [condList, h, h.ne, h.le, not_lt.2 h.le]
  · simp [condList, h]
  · simp [condList, h, h.ne', h.le, not_lt.2 h.le]

section
variable {f g : Fmt} {pa pb c : Nat}

theorem vcmpTest_int (hf : f.isInt = true) : vcmpTest c f g pa pb =
    condOf c (decide ((f.decode pa).toInt < (g.decode pb).toInt)) (decide ((f.decode pa).toInt = (g.decode pb).toInt)) false := by
  rw [vcmpTest, if_pos hf]

theorem vcmpTest_tapered (hf : f.isInt = false) (hft : f.isTapered = true) (hg : g.isTapered = true) : vcmpTest c f g pa pb =
    condOf c (if (g.decode pb).isNan then false else (f.decode pa).isNan || (f.decode pa).lt (g.decode pb))
      (((f.decode pa).isNan && (g.decode pb).isNan) || (f.decode pa).eqv (g.decode pb)) false := by
  rw [vcmpTest, if_neg (Bool.eq_false_iff.1 hf), if_pos (by rw [hft, hg]; rfl)]

theorem vcmpTest_mixed (hf : f.isInt = false) (ht : (f.isTapered && g.isTapered) = false) : vcmpTest c f g pa pb =
    condOf c ((f.decode pa).lt (g.decode pb)) ((f.decode pa).eqv (g.decode pb)) ((f.decode pa).isNan || (g.decode pb).isNan) := by
  rw [vcmpTest, if_neg (Bool.eq_false_iff.1 hf), if_neg (Bool.eq_false_iff.1 ht)]

/-- Two numbers compare alike in every pair of float formats. -/
theorem vcmpTest_numbers (hf : f.isInt = false) (hx : (f.decode pa).isNan = false) (hy : (g.decode pb).isNan = false) :
    vcmpTest c f g pa pb = condOf c ((f.decode pa).lt (g.decode pb)) ((f.decode pa).eqv (g.decode pb)) false := by
  rcases ht : (f.isTapered && g.isTapered) with _ | _
  · rw [vcmpTest_mixed hf ht, hx, hy, Bool.or_self]
  · rw [Bool.and_eq_true] at ht
    rw [vcmpTest_tapered hf ht.1 ht.2, hx, hy]
    simp

end

theorem eqv_nan {x y : Ex} (h : x.isNan = true ∨ y.isNan = true) : x.eqv y = false := by
  rcases h with h | h <;> simp [Ex.eqv, h]

/-! The obligation's second part: the value of each element. -/

section
variable {s : State} {tid cx : Nat} {e : SeqEntry} {d a b : Shape} {pa pb pd : Nat}

/-- An element is an exact value rounded once, with one draw when the mode is stochastic. -/
def State.ElemRounds (s : State) (tid cx : Nat) (e : SeqEntry) (d a b : Shape) (pa pb pd : Nat) (sat : Bool) (v : Ex) : Prop :=
  (vMode e.word e.rnd ≠ .sr → s.vElem tid cx e d a b pa pb pd = (d.fmt.round (vMode e.word e.rnd) 0 sat v, s)) ∧
  (vMode e.word e.rnd = .sr →
    s.vElem tid cx e d a b pa pb pd = (d.fmt.round .sr (s.draw tid cx).1 sat v, (s.draw tid cx).2))

theorem elemRounds_of_vRound {sat : Bool} {v : Ex} (h : s.vElem tid cx e d a b pa pb pd = s.vRound tid cx e d.fmt sat v) :
    s.ElemRounds tid cx e d a b pa pb pd sat v := by
  rw [State.vRound] at h
  exact ⟨fun hm => h.trans (roundTo_fixed hm ..), fun hm => h.trans (by rw [hm, roundTo_stochastic])⟩

theorem elemRounds_vfp {k : Nat} (hm : vMajor e.word = 40) (hk : ¬ ((k = 6 ∨ k = 7) ∧ a.fmt = d.fmt)) (hf : vFn e.word = k) :
    s.ElemRounds tid cx e d a b pa pb pd (vSat e.word) (vfpOp k (a.fmt.decode pa) (b.fmt.decode pb) (d.fmt.decode pd)) :=
  elemRounds_of_vRound (vElem_vfp hm hf hk)

theorem elemRounds_vsfu {k : Nat} (hm : vMajor e.word = 41) (hf : vFn e.word = k) :
    s.ElemRounds tid cx e d a b pa pb pd (vSat e.word) (vsfuOp k (a.fmt.decode pa)) :=
  elemRounds_of_vRound (vElem_vsfu hm hf)

end

theorem vectorValues_hold : vectorValues := by
  unfold vectorValues
  refine ⟨?elements, ?compare⟩
  case elements =>
    intro s tid cx e d a b pa pb pd w mode x y gives float int f
    have apart {k : Nat} (h : k ≠ 6 ∧ k ≠ 7) : ¬ ((k = 6 ∨ k = 7) ∧ a.fmt = d.fmt) := by
      rintro ⟨six | seven, -⟩
      · exact h.1 six
      · exact h.2 seven
    refine ⟨fun hm => ?_, fun hm => ?_, fun hm => ?_, fun hm => ?_, fun hm hf => vElem_compare hm⟩
    · have op (k : Nat) (h : k ≠ 6 ∧ k ≠ 7) (hf : f = k) : float (vSat w) (vfpOp k x y (d.fmt.decode pd)) :=
        elemRounds_vfp hm (apart h) hf
      refine ⟨op 0 (by decide), op 1 (by decide), op 2 (by decide), op 3 (by decide), fun hf hn => ?_, fun hx hy => ⟨fun hf => ?_, fun hf => ?_⟩,
        fun hd => ?_, ?_, fun hf => ?_, op 9 (by decide)⟩
      · obtain ⟨least, most⟩ := least_nan hn
        rcases hf with hf | hf
        · exact least ▸ op 4 (by decide) hf
        · exact most ▸ op 5 (by decide) hf
      · exact (least_numbers hx hy).1 ▸ op 4 (by decide) hf
      · exact (least_numbers hx hy).2 ▸ op 5 (by decide) hf
      · exact ⟨elemRounds_vfp hm fun h => hd h.2, elemRounds_vfp hm fun h => hd h.2⟩
      · intro hd h
        refine ⟨fun ht => ⟨fun hf => ?_, fun hf => ?_⟩, fun ht => ⟨fun hf => ?_, fun hf => ?_⟩⟩
        · exact (vElem_sign hm hf (.inl rfl) hd).trans (by rw [(vSignOp_ieee ht pa).1])
        · exact (vElem_sign hm hf (.inr rfl) hd).trans (by rw [(vSignOp_ieee ht pa).2])
        · exact (vElem_sign hm hf (.inl rfl) hd).trans (by rw [(vSignOp_tapered ht pa).1])
        · exact (vElem_sign hm hf (.inr rfl) hd).trans (by rw [(vSignOp_tapered ht pa).2])
      · have scaled : float (vSat w) (vScaled x y) := op 8 (by decide) hf
        refine ⟨fun hy => ?_, fun n hy => ?_, fun hn hi => vScaled_number hn hi ▸ scaled⟩
        · rw [hy] at scaled
          exact scaled
        · rw [hy] at scaled
          exact scaled
    · exact ⟨elemRounds_vsfu hm, elemRounds_vsfu hm, elemRounds_vsfu hm, elemRounds_vsfu hm, elemRounds_vsfu hm, elemRounds_vsfu hm,
        elemRounds_vsfu hm, elemRounds_vsfu hm⟩
    · intro i j n
      exact ⟨vElem_vint hm, vElem_vint hm, vElem_vint hm, vElem_vint hm, vElem_vint hm, vElem_vint hm, vElem_vint hm, vElem_vint hm,
        vElem_vint hm, vElem_vint hm, vElem_vint hm⟩
    · exact ⟨vElem_copy hm, fun hf => elemRounds_of_vRound (vElem_convert hm hf)⟩
  case compare =>
    intro f g pa pb x y is
    have test (lt eq un : Bool) (h : ∀ c, vcmpTest c f g pa pb = condOf c lt eq un) : is (condList lt eq un) :=
      fun c hc => (h c).trans (condOf_list lt eq un c hc)
    refine ⟨fun hf => ?_, fun hf ht hn => ?_, fun hf hx hy => ?_, fun hft hg hf => ⟨fun hx hy => ?_, fun hx hy => ?_, fun hx hy => ?_⟩⟩
    · rw [← condList_int]
      exact test _ _ _ fun c => vcmpTest_int hf
    · have un : (x.isNan || y.isNan) = true := by simpa using hn
      have all : is (condList (x.lt y) false true) := test _ _ _ fun c => by rw [vcmpTest_mixed hf ht, eqv_nan hn, un]
      simpa [condList] using all
    · have all : is (condList (x.lt y) (x.eqv y) false) := test _ _ _ fun c => vcmpTest_numbers hf hx hy
      simpa [condList] using all
    · exact test false true false fun c => by rw [vcmpTest_tapered hf hft hg, hx, hy]; rfl
    · exact test true false false fun c => by rw [vcmpTest_tapered hf hft hg, eqv_nan (.inl hx), hx, hy]; rfl
    · exact test false false false fun c => by rw [vcmpTest_tapered hf hft hg, eqv_nan (.inr hy), hx, hy]; rfl

end Sys2Proof.Machine
end

section
namespace Sys2Proof.Machine

/-! What a row comes to, by its member (R246, R249 to R252). -/

section
variable {s : State} {tid cx k : Nat} {e : SeqEntry} {d a b : Shape} {row : List Nat} {more : List (List Nat)}

/-- The values of a row with one operand. -/
theorem rowOut_reduce (hm : vMajor e.word = 44) (hf : vFn e.word = k) (ha : a.fmt.isInt = false) :
    s.rowOut tid cx e [d, a] row more =
      (let x := s.roundTo tid cx d.fmt (vMode e.word e.rnd) (vSat e.word) (redExact k (a.fmt == .tf32) (row.map a.fmt.decode))
       ([[x.1]], x.2)) := by
  unfold State.rowOut
  simp only [hm, hf, ha, List.isEmpty_nil, if_true, Bool.false_eq_true, if_false, List.any_nil, Bool.or_false, List.map_map]
  rfl

theorem rowOut_reduce2 (hm : vMajor e.word = 44) (hf : vFn e.word = k) (ha : a.fmt.isInt = false) :
    s.rowOut tid cx e [d, a, b] row more =
      (let x := s.roundTo tid cx d.fmt (vMode e.word e.rnd) (vSat e.word) (redExact k (a.fmt == .tf32 || b.fmt == .tf32)
        (((pairsOf row).map fun p => (a.fmt.decode p.1, b.fmt.decode p.2)).map fun p => p.1.mul p.2))
       ([[x.1]], x.2)) := by
  unfold State.rowOut
  simp only [hm, hf, ha, List.isEmpty_cons, Bool.false_eq_true, if_false, List.any_cons, List.any_nil, Bool.or_false]
  rfl

theorem rowOut_reduceInt (hm : vMajor e.word = 44) (hf : vFn e.word = k) (ha : a.fmt.isInt = true) :
    s.rowOut tid cx e [d, a] row more =
      ([[d.fmt.putInt (vSat e.word) (redInt k ((row.map a.fmt.decode).map Ex.toInt))]], s) := by
  have one : Ex.toInt (.fin false 1 0) = 1 := by decide
  unfold State.rowOut
  simp only [hm, hf, ha, List.isEmpty_nil, if_true, List.map_map, Function.comp_def, one, Int.mul_one]

theorem rowOut_reduceInt2 (hm : vMajor e.word = 44) (hf : vFn e.word = k) (ha : a.fmt.isInt = true) :
    s.rowOut tid cx e [d, a, b] row more =
      ([[d.fmt.putInt (vSat e.word) (redInt k
        (((pairsOf row).map fun p => (a.fmt.decode p.1, b.fmt.decode p.2)).map fun p => p.1.toInt * p.2.toInt))]], s) := by
  unfold State.rowOut
  simp only [hm, hf, ha, List.isEmpty_cons, Bool.false_eq_true, if_false, if_true]
  rfl

theorem rowOut_hist (hm : vMajor e.word = 45) (hf : vFn e.word = 1) : s.rowOut tid cx e [d, a] row more =
    ([(List.range 256).map fun c =>
      ((row.filterMap a.fmt.key).filter fun y => y / 2 ^ (a.fmt.width - 8) == c).length % 2 ^ d.fmt.width], s) := by
  unfold State.rowOut
  simp only [hm, hf]
  rfl

theorem rowOut_count (hm : vMajor e.word = 45) (hf : vFn e.word = 4) : s.rowOut tid cx e [d, a] row more =
    ([[(row.filter fun p => (a.fmt.key p).isSome && !(a.fmt.decode p).isZero).length]], s) := by
  unfold State.rowOut
  simp only [hm, hf]

end

section
variable {s : State} {tid cx : Nat} {e : SeqEntry} {d d1 d2 a a1 b b1 : Shape} {row h ia vb ib : List Nat} (hm : vMajor e.word = 45)
include hm

theorem rowOut_select (hf : vFn e.word = 2) : s.rowOut tid cx e [d, d1, d2, a, b] row [h] =
    (let l := selRow a.fmt (selThreshold d.len (h.map b.fmt.int)) d.len row
     ([padTo d.len d.fmt.emptyVal (l.map (·.1)), padTo d.len (2 ^ d1.fmt.width - 1)
        (l.map fun x => if d1.fmt = .i64 then x.2 + coreOf tid % 2 ^ 24 * 2 ^ 32 else x.2), [l.length]], s)) := by
  unfold State.rowOut
  simp only [hm, hf]
  rfl

theorem rowOut_merge (hf : vFn e.word = 3) : s.rowOut tid cx e [d, d1, d2, a, a1, b, b1] row [ia, vb, ib] =
    (let l := (mergeRow a.fmt (row.zip ia ++ vb.zip ib)).take d.len
     ([padTo d.len d.fmt.emptyVal (l.map (·.1)), padTo d.len (2 ^ d1.fmt.width - 1) (l.map (·.2)), [l.length]], s)) := by
  unfold State.rowOut
  simp only [hm, hf]
  rfl

end

/-! The threshold of vselk (R250). -/

/-- The greatest number below n that satisfies p is the one that a search from above finds. -/
theorem find?_reverse_range {p : Nat → Bool} (n : Nat) :
    (∀ c, (List.range n).reverse.find? p = some c → c < n ∧ p c = true ∧ ∀ i, i < n → p i = true → i ≤ c) ∧
    ((List.range n).reverse.find? p = none → ∀ i, i < n → p i = false) := by
  induction n with
  | zero => simp
  | succ n ih =>
    rw [List.range_succ, List.reverse_append, List.reverse_singleton, List.singleton_append, List.find?_cons]
    rcases hn : p n with _ | _
    · refine ⟨fun c hc => ?_, fun none_found i hi => ?_⟩
      · obtain ⟨lt, hp, greatest⟩ := ih.1 c hc
        refine ⟨by omega, hp, fun i hi hpi => greatest i ?_ hpi⟩
        rcases Nat.lt_succ_iff_lt_or_eq.1 hi with hi | rfl
        · exact hi
        · rw [hn] at hpi
          cases hpi
      · rcases Nat.lt_succ_iff_lt_or_eq.1 hi with hi | rfl
        · exact ih.2 none_found i hi
        · exact hn
    · refine ⟨fun c hc => ?_, fun none_found => by cases none_found⟩
      cases hc
      exact ⟨Nat.lt_succ_self n, hn, fun i hi _ => Nat.lt_succ_iff.1 hi⟩

theorem selThreshold_greatest (k : Int) (h : List Int) : selThreshold k h ≤ 255 ∧
    (∀ c, c ≤ 255 → k ≤ (h.drop c).sum → c ≤ selThreshold k h ∧ k ≤ (h.drop (selThreshold k h)).sum) ∧
    ((∀ c, c ≤ 255 → (h.drop c).sum < k) → selThreshold k h = 0) := by
  obtain ⟨found, absent⟩ := find?_reverse_range (p := fun c => decide (k ≤ (h.drop c).sum)) 256
  rw [selThreshold]
  generalize (List.range 256).reverse.find? (fun c => decide (k ≤ (h.drop c).sum)) = r at found absent ⊢
  cases r with
  | none =>
    refine ⟨Nat.zero_le _, fun c hc hk => ?_, fun _ => rfl⟩
    exact absurd hk (of_decide_eq_false (absent rfl c (Nat.lt_succ_iff.2 hc)))
  | some t =>
    obtain ⟨lt, ht, greatest⟩ := found t rfl
    refine ⟨Nat.lt_succ_iff.1 lt, fun c hc hk => ⟨greatest c (Nat.lt_succ_iff.2 hc) (decide_eq_true hk), of_decide_eq_true ht⟩, fun low => ?_⟩
    exact absurd (of_decide_eq_true ht) (Int.not_le.2 (low t (Nat.lt_succ_iff.1 lt)))

theorem selRow_passes (f : Fmt) (t k : Nat) (row : List Nat) :
    let j (g : Nat → Bool) : List (Nat × Nat) := ((List.range row.length).zip row).filterMap fun x =>
      (f.key x.2).bind fun y => if g (y / 2 ^ (f.width - 8)) then some (x.2, x.1) else none
    selRow f t k row = (j (fun c => decide (t < c)) ++ j fun c => c == t).take k := by
  intro j
  rw [selRow]
  refine congrArg (List.take k) (congrArg₂ (· ++ ·) (List.filterMap_congr fun x _ => ?_) (List.filterMap_congr fun x _ => ?_))
  · cases f.key x.2 <;> rfl
  · cases f.key x.2 <;> rfl

/-! Keys (R247). -/

theorem key_laws (f : Fmt) (p : Nat) :
    (f.isInt = true → f.isSigned = false → f.key p = some p) ∧
    (f.isInt = true → f.isSigned = true → f.key p = some ((p + 2 ^ (f.width - 1)) % 2 ^ f.width)) ∧
    (f.isFloat = true → (f.decode p).isNan = true → f.key p = none) ∧
    (f.isTapered = true → (f.decode p).isNan = false → f.key p = some ((p + 2 ^ (f.width - 1)) % 2 ^ f.width)) ∧
    (f.isFloat = true → f.isTapered = false → (f.decode p).isNan = false →
      f.key p = some (if p < 2 ^ (f.width - 1) then p + 2 ^ (f.width - 1) else 2 ^ f.width - 1 - p)) := by
  have exact_ : f.isInt = true → f.isFloat = false ∧ f.isTapered = false := by cases f <;> decide
  have tapered : f.isTapered = true → f.isFloat = true := by cases f <;> decide
  rw [Fmt.key, f.two_halves]
  refine ⟨fun hi hs => ?_, fun hi hs => ?_, fun hf hn => ?_, fun ht hn => ?_, fun hf ht hn => ?_⟩
  · simp [exact_ hi, hs]
  · simp [exact_ hi, hs]
  · simp [hf, hn]
  · simp [tapered ht, ht, hn]
  · simp [hf, ht, hn]

end Sys2Proof.Machine
end

section
namespace Sys2Proof.Machine

/-! Sorting (the library's insertion sort). -/

section
variable {α : Type} (before : α → α → Bool)

theorem insertBy_eq (a : α) (l : List α) : insertBy before a l = l.orderedInsert (fun x y => before x y = true) a := by
  induction l with
  | nil => rfl
  | cons x r ih => rw [insertBy, List.orderedInsert_cons, ih]

theorem sortBy_eq (l : List α) : sortBy before l = l.insertionSort fun x y => before x y = true := by
  induction l with
  | nil => rfl
  | cons x r ih =>
    rw [List.insertionSort_cons, ← ih, ← insertBy_eq]
    rfl

theorem sortBy_perm (l : List α) : List.Perm (sortBy before l) l := by
  rw [sortBy_eq]
  exact List.perm_insertionSort _ l

theorem sortBy_pairwise (total : ∀ x y, before x y = true ∨ before y x = true)
    (trans : ∀ x y z, before x y = true → before y z = true → before x z = true) (l : List α) :
    (sortBy before l).Pairwise fun x y => before x y = true := by
  have : Std.Total fun x y => before x y = true := ⟨total⟩
  have : IsTrans α fun x y => before x y = true := ⟨trans⟩
  rw [sortBy_eq]
  exact List.pairwise_insertionSort _ l

end

/-! vmrg (R251): of the valid entries of each index, the first of the lowest origin. -/

def entryIdx (x : Nat × Nat) : Nat := x.2 % 2 ^ 32
def entryOrg (x : Nat × Nat) : Nat := bits x.2 55 32
def entryKey (f : Fmt) (x : Nat × Nat) : Nat := (f.key x.1).getD 0
def entryOk (f : Fmt) (x : Nat × Nat) : Bool := entryIdx x != 0xFFFFFFFF && (f.key x.1).isSome

/-- The better of what was found and an entry. -/
def lowerOrg (b : Option (Nat × Nat)) (x : Nat × Nat) : Option (Nat × Nat) :=
  match b with
  | none => some x
  | some y => if entryOrg x < entryOrg y then some x else b

/-- The entry of e's index with the lowest origin. -/
def bestEntry (valid : List (Nat × Nat)) (e : Nat × Nat) : Option (Nat × Nat) :=
  (valid.filter fun x => entryIdx x == entryIdx e).foldl lowerOrg none

/-- The entries kept so far, with the best of e's index. -/
def keepBest (valid acc : List (Nat × Nat)) (e : Nat × Nat) : List (Nat × Nat) :=
  if acc.any (fun x => entryIdx x == entryIdx e) then acc else acc ++ (bestEntry valid e).toList

/-- The order of vmrg: by key, the greater first, then by index. -/
def mergeBefore (f : Fmt) (x y : Nat × Nat) : Bool :=
  if entryKey f x ≠ entryKey f y then decide (entryKey f y < entryKey f x)
  else if entryIdx x ≠ entryIdx y then decide (entryIdx x < entryIdx y) else decide (entryOrg x ≤ entryOrg y)

theorem mergeRow_eq (f : Fmt) (l : List (Nat × Nat)) : mergeRow f l =
    sortBy (mergeBefore f) ((l.filter (entryOk f)).foldl (keepBest (l.filter (entryOk f))) []) := rfl

theorem mergeBefore_iff (f : Fmt) (x y : Nat × Nat) : mergeBefore f x y = true ↔ entryKey f y < entryKey f x ∨
    entryKey f x = entryKey f y ∧ (entryIdx x < entryIdx y ∨ entryIdx x = entryIdx y ∧ entryOrg x ≤ entryOrg y) := by
  rw [mergeBefore]
  split
  · rw [decide_eq_true_iff]
    omega
  split
  · rw [decide_eq_true_iff]
    omega
  · rw [decide_eq_true_iff]
    omega

theorem lowerOrg_least (l : List (Nat × Nat)) (y : Nat × Nat) :
    ∃ z, l.foldl lowerOrg (some y) = some z ∧ z ∈ y :: l ∧ ∀ x ∈ y :: l, entryOrg z ≤ entryOrg x := by
  induction l generalizing y with
  | nil => exact ⟨y, rfl, List.mem_singleton_self y, fun x hx => by rw [List.mem_singleton.1 hx]⟩
  | cons a r ih =>
    rw [List.foldl_cons, lowerOrg]
    by_cases lower : entryOrg a < entryOrg y
    · obtain ⟨z, hz, mem, least⟩ := ih a
      have := least a List.mem_cons_self
      refine ⟨z, by rw [if_pos lower, hz], List.mem_cons_of_mem _ mem, fun x hx => ?_⟩
      rcases List.mem_cons.1 hx with rfl | hx
      · omega
      · exact least x hx
    · obtain ⟨z, hz, mem, least⟩ := ih y
      have := least y List.mem_cons_self
      refine ⟨z, by rw [if_neg lower, hz], ?_, fun x hx => ?_⟩
      · rcases List.mem_cons.1 mem with rfl | mem
        · exact List.mem_cons_self
        · exact List.mem_cons_of_mem _ (List.mem_cons_of_mem _ mem)
      · rcases List.mem_cons.1 hx with rfl | hx
        · exact this
        rcases List.mem_cons.1 hx with rfl | hx
        · omega
        · exact least x (List.mem_cons_of_mem _ hx)

/-- z is the one kept of its index. -/
def IsBest (valid : List (Nat × Nat)) (z : Nat × Nat) : Prop :=
  z ∈ valid ∧ ∀ y ∈ valid, entryIdx y = entryIdx z → entryOrg z ≤ entryOrg y

theorem bestEntry_isBest {valid : List (Nat × Nat)} {e : Nat × Nat} (h : e ∈ valid) :
    ∃ z, bestEntry valid e = some z ∧ entryIdx z = entryIdx e ∧ IsBest valid z := by
  have same (x : Nat × Nat) : x ∈ valid.filter (fun x => entryIdx x == entryIdx e) ↔ x ∈ valid ∧ entryIdx x = entryIdx e := by
    rw [List.mem_filter, beq_iff_eq]
  rw [bestEntry]
  rcases hl : valid.filter (fun x => entryIdx x == entryIdx e) with _ | ⟨a, r⟩
  · have mem := (same e).2 ⟨h, rfl⟩
    rw [hl] at mem
    cases mem
  · obtain ⟨z, hz, mem, least⟩ := lowerOrg_least r a
    rw [hl] at same
    obtain ⟨hv, hi⟩ := (same z).1 mem
    exact ⟨z, hz, hi, hv, fun y hy hyz => least y ((same y).2 ⟨hy, hyz.trans hi⟩)⟩

/-- What is kept: the best of its index each, of no index two. -/
def Kept (valid acc : List (Nat × Nat)) : Prop :=
  (∀ x ∈ acc, IsBest valid x) ∧ acc.Pairwise fun x y => entryIdx x ≠ entryIdx y

theorem keepBest_kept {valid acc : List (Nat × Nat)} {e : Nat × Nat} (h : e ∈ valid) (k : Kept valid acc) :
    Kept valid (keepBest valid acc e) ∧ (∃ x ∈ keepBest valid acc e, entryIdx x = entryIdx e) ∧ acc ⊆ keepBest valid acc e := by
  rw [keepBest]
  by_cases seen : (acc.any fun x => entryIdx x == entryIdx e) = true
  · rw [if_pos seen]
    obtain ⟨x, hx, hi⟩ := List.any_eq_true.1 seen
    exact ⟨k, ⟨x, hx, beq_iff_eq.1 hi⟩, List.Subset.refl _⟩
  · obtain ⟨z, hz, hi, best⟩ := bestEntry_isBest h
    have new : ∀ x ∈ acc, entryIdx x ≠ entryIdx z := fun x hx same =>
      seen (List.any_eq_true.2 ⟨x, hx, beq_iff_eq.2 (same.trans hi)⟩)
    rw [if_neg seen, hz, Option.toList_some]
    refine ⟨⟨fun x hx => ?_, ?_⟩, ⟨z, List.mem_append_right _ (List.mem_singleton_self z), hi⟩, List.subset_append_left _ _⟩
    · rcases List.mem_append.1 hx with hx | hx
      · exact k.1 x hx
      · rw [List.mem_singleton.1 hx]
        exact best
    · refine List.pairwise_append.2 ⟨k.2, List.pairwise_singleton _ _, fun x hx y hy => ?_⟩
      rw [List.mem_singleton.1 hy]
      exact new x hx

theorem foldl_keepBest {valid : List (Nat × Nat)} (l acc : List (Nat × Nat)) (h : l ⊆ valid) (k : Kept valid acc) :
    Kept valid (l.foldl (keepBest valid) acc) ∧ acc ⊆ l.foldl (keepBest valid) acc ∧
    ∀ e ∈ l, ∃ x ∈ l.foldl (keepBest valid) acc, entryIdx x = entryIdx e := by
  induction l generalizing acc with
  | nil => exact ⟨k, List.Subset.refl _, fun e he => by cases he⟩
  | cons a r ih =>
    obtain ⟨kept, ⟨x, hx, hi⟩, grows⟩ := keepBest_kept (h List.mem_cons_self) k
    obtain ⟨kept', grows', each⟩ := ih _ (fun e he => h (List.mem_cons_of_mem _ he)) kept
    refine ⟨kept', fun y hy => grows' (grows hy), fun e he => ?_⟩
    rcases List.mem_cons.1 he with rfl | he
    · exact ⟨x, grows' hx, hi⟩
    · exact each e he

theorem mem_valid {f : Fmt} {l : List (Nat × Nat)} {x : Nat × Nat} :
    x ∈ l.filter (entryOk f) ↔ x ∈ l ∧ entryIdx x ≠ 0xFFFFFFFF ∧ (f.key x.1).isSome = true := by
  rw [List.mem_filter, entryOk, Bool.and_eq_true, bne_iff_ne]

theorem mergeRow_laws (f : Fmt) (l : List (Nat × Nat)) :
    (∀ x ∈ mergeRow f l, IsBest (l.filter (entryOk f)) x) ∧
    (∀ y ∈ l.filter (entryOk f), ∃ x ∈ mergeRow f l, entryIdx x = entryIdx y) ∧
    (mergeRow f l).Pairwise fun x y => entryIdx x ≠ entryIdx y ∧
      (entryKey f y < entryKey f x ∨ entryKey f y = entryKey f x ∧ entryIdx x < entryIdx y) := by
  obtain ⟨⟨best, apart⟩, -, each⟩ := foldl_keepBest (valid := l.filter (entryOk f)) (l.filter (entryOk f)) [] (List.Subset.refl _)
    ⟨fun x hx => (List.not_mem_nil hx).elim, List.Pairwise.nil⟩
  have perm := sortBy_perm (mergeBefore f) ((l.filter (entryOk f)).foldl (keepBest (l.filter (entryOk f))) [])
  rw [mergeRow_eq]
  refine ⟨fun x hx => best x (perm.mem_iff.1 hx), fun y hy => ?_, ?_⟩
  · obtain ⟨x, hx, hi⟩ := each y hy
    exact ⟨x, perm.mem_iff.2 hx, hi⟩
  · have sorted := sortBy_pairwise (mergeBefore f) (fun x y => by rw [mergeBefore_iff, mergeBefore_iff]; omega)
      (fun x y z => by rw [mergeBefore_iff, mergeBefore_iff, mergeBefore_iff]; omega)
      ((l.filter (entryOk f)).foldl (keepBest (l.filter (entryOk f))) [])
    have apart' := (perm.pairwise_iff fun h => Ne.symm h).2 apart
    refine (apart'.and sorted).imp fun ⟨hi, hb⟩ => ⟨hi, ?_⟩
    have := (mergeBefore_iff ..).1 hb
    omega

/-! The obligation's third part: what each row comes to. -/

theorem vectorRows_hold : vectorRows := by
  unfold vectorRows
  refine ⟨?rows, ?lists, selThreshold_greatest, selRow_passes, ?merge, fun f p _ => key_laws f p⟩
  case rows =>
    intro s tid cx e d a b row w one float int xs pairs
    refine ⟨fun hm ha => ?_, fun hm ha => ?_, rowOut_hist, rowOut_count⟩
    · exact ⟨fun hf => rowOut_reduce (k := 0) hm hf ha, fun hf => rowOut_reduce (k := 1) hm hf ha,
        fun hf => rowOut_reduce (k := 2) hm hf ha, fun hf => rowOut_reduce2 (k := 3) hm hf ha⟩
    · exact ⟨fun hf => rowOut_reduceInt (k := 0) hm hf ha, fun hf => rowOut_reduceInt (k := 1) hm hf ha,
        fun hf => rowOut_reduceInt (k := 2) hm hf ha, fun hf => rowOut_reduceInt2 (k := 3) hm hf ha⟩
  case lists =>
    intro s tid cx e d d1 d2 a a1 b b1 row h ia vb ib hm
    exact ⟨rowOut_select hm, rowOut_merge hm⟩
  case merge =>
    intro f l idx org key ok
    obtain ⟨best, each, sorted⟩ := mergeRow_laws f l
    refine ⟨fun x hx => ?_, fun y hy hok => each y (mem_valid.2 ⟨hy, hok⟩), sorted⟩
    obtain ⟨valid, least⟩ := best x hx
    obtain ⟨mem, hok⟩ := mem_valid.1 valid
    exact ⟨mem, hok, fun y hy hyok => least y (mem_valid.2 ⟨hy, hyok⟩)⟩

end Sys2Proof.Machine
end

section
namespace Sys2Proof.Machine

/-! A vector turn, once its group is known (R200, R231, R235). -/

section
variable {s : State} {core b : Nat} {t : Thread} {e : SeqEntry} {l : List Shape}

theorem coreOf_slot (core : Nat) {b : Nat} (h : b < 16) : coreOf (16 * core + b) = core := by
  rw [coreOf]
  omega

/-- The first slot position that the table offers is the one whose cycle it is. -/
theorem vectorGroup_serves {u : State} (hp : s.clock % 32 < 30) (ht : (s.core core).slotTab.getD (s.clock % 32) 0xFF = BitVec.ofNat 8 b)
    (hb : b < 16) (h : s.vTurn (16 * core + b) = some u) : exec (.vectorGroup core) s = .next u := by
  have slot : (BitVec.ofNat 8 b).toNat = b := by
    rw [BitVec.toNat_ofNat]
    omega
  have now : (s.clock % 32 + 0) % 32 = s.clock % 32 := by omega
  have range : List.range 32 = 0 :: (List.range 31).map (· + 1) := by decide
  rw [exec_vectorGroup, execVectorGroup]
  simp only [range, List.filterMap_cons, now, ht, slot, hp, hb, and_self, if_true, State.vFirst, h]

/-- The one entry of a sequencer, outside a loop, is the next to run. -/
theorem next_single (hl : e.isLoop = false) (he : e.isEnd = false) : Seq.next ⟨[e], false⟩ = some (0, 0, 0) := by
  rw [Seq.next]
  simp only [hl, he, Bool.false_eq_true, if_false]

theorem not_loop_of_major (h : vMajor e.word ≠ 46) : e.isLoop = false ∧ e.isEnd = false := by
  simp [SeqEntry.isLoop, SeqEntry.isEnd, h]

/-- The cycles that a group stalls for its banks are counted at its core (R202). -/
def Core.stalled (touched : List (List Nat)) (k : Core) : Core :=
  { k with vbstall := k.vbstall +
      BitVec.ofNat 64 (stallCount ((touched.flatMap accesses).length + 1) (touched.flatMap accesses)) }

section
variable (hb : b < 16) (ht : s.thread (16 * core + b) = some t) (running : s.running (cxOf core t) = true) (wait : t.wait ≠ .stopped)
  (fault : t.vecFault = none) (seq : t.seq = ⟨[e], false⟩) (fresh : e.recs = []) (hl : e.isLoop = false) (he : e.isEnd = false)
include hb ht running wait fault seq fresh hl he

/-- A record that cannot be read, or does not serve, is noted for the thread's next issue turn (R188, R228). -/
theorem vTurn_faults {cause : Nat} (check : s.vCheck core (cxOf core t) e 0 = .error cause) :
    s.vTurn (16 * core + b) = some (s.vFault (16 * core + b) t e cause) := by
  have ready : ¬ (t.seq.frozen = true ∨ t.vecFault.isSome = true ∨ t.wait = .stopped ∨ s.running (cxOf core t) = false) := by
    simp [seq, fault, wait, running]
  rw [State.vTurn]
  simp only [ht, coreOf_slot core hb, if_neg ready]
  simp only [seq, next_single hl he, List.getElem?_cons_zero, fresh, List.isEmpty_nil, if_true, check]

theorem vTurn_ends {r : List (List Byte)} (check : s.vCheck core (cxOf core t) e 0 = .ok r) (shapes : r.filterMap parseShape = l)
    (first : e.idx = 0) (hi : iterCount e.word l ≤ laneCount e.word l) {u : State} {acc : List Nat} {touched : List (List Nat)}
    (hg : s.vGroup (16 * core + b) (cxOf core t) (s.s0Base core (cxOf core t)) e l (iterCount e.word l) = .done u acc touched) :
    s.vTurn (16 * core + b) =
      some ((u.setThread (16 * core + b) { t with seq := Seq.empty }).modCore core (Core.stalled touched)) := by
  have ready : ¬ (t.seq.frozen = true ∨ t.vecFault.isSome = true ∨ t.wait = .stopped ∨ s.running (cxOf core t) = false) := by
    simp [seq, fault, wait, running]
  have all : min (iterCount e.word l) (e.idx + laneCount e.word l) = iterCount e.word l := by omega
  rw [State.vTurn]
  simp only [ht, coreOf_slot core hb, if_neg ready]
  simp only [seq, next_single hl he, List.getElem?_cons_zero, fresh, List.isEmpty_nil, if_true, check, shapes, all, hg, Seq.passed,
    List.tail_cons]
  rfl

end

/-- An entry that one group ends leaves its sequencer empty. -/
theorem turnGives_of_group (h : s.VectorTurn core b t e l) (hi : iterCount e.word l ≤ laneCount e.word l) {u : State} {m : Mem}
    (hm : u.mem = m) (hs : u.threads = s.threads)
    (hg : ∃ acc touched, s.vGroup (16 * core + b) (cxOf core t) (s.s0Base core (cxOf core t)) e l (iterCount e.word l) =
      .done u acc touched) : s.TurnGives core b t m := by
  obtain ⟨hp, table, hb, ht, running, wait, fault, seq, recs, -, idx, -, low, high, r, check, parse⟩ := h
  obtain ⟨acc, touched, group⟩ := hg
  obtain ⟨hl, he⟩ := not_loop_of_major (e := e) (by omega)
  have shapes : r.filterMap parseShape = l := by
    have decoded := congrArg (List.filterMap id) parse
    simpa only [List.filterMap_map, Function.id_comp, List.filterMap_some, CompTriple.comp_eq, Function.comp_def, id] using decoded
  have turn := vTurn_ends hb ht running wait fault seq recs hl he check shapes idx hi group
  refine ⟨_, vectorGroup_serves hp table hb turn, thread_setThread .., hm, fun j hj => ?_⟩
  exact (thread_setThread_ne u _ hj).trans (congrArg (NatMap.find? · j) hs)

end

end Sys2Proof.Machine
end

section
namespace Sys2Proof.Machine

/-! Shapes without ports: nothing to be bound or to wait for, and reads and writes are memory's (R231). -/

section
variable {s : State} {tid s0 : Nat} {h : Shape}

theorem vRead_local (hp : h.port = none) {ns : List Nat} (hg : s.goodElems s0 h ns) :
    s.vRead tid s0 h ns = some (s.elems s0 h ns, s) := by
  have good : (ns.any fun n => s.isBad (h.key s0 n) h.fmt.bytes) = false := by
    rw [List.any_eq_false]
    exact fun n hn => Bool.eq_false_iff.1 (hg n hn)
  rw [State.vRead]
  simp only [hp, good, Bool.false_eq_true, if_false]
  rfl

theorem vWrite_local (hp : h.port = none) (n v : Nat) : s.vWrite tid s0 h n v = s.store (h.key s0 n) h.fmt.bytes v := by
  rw [State.vWrite]
  simp only [hp]

theorem vWrites_one (hp : h.port = none) (n v : Nat) :
    (s.vWrites tid s0 h [(n, v)]).mem = s.mem.write (h.key s0 n) h.fmt.bytes v ∧
    (s.vWrites tid s0 h [(n, v)]).threads = s.threads := by
  rw [State.vWrites, List.foldl_cons, List.foldl_nil, vWrite_local hp]
  exact ⟨rfl, rfl⟩

end

theorem rowNeeds_shape {w : Word32} {l : List Shape} {n : Nat} {x : Shape × Bool × Nat} (h : x ∈ rowNeeds w l n) : x.1 ∈ l := by
  unfold rowNeeds at h
  split at h <;> grind

/-- Every need of a group is of one of its shapes. -/
theorem vNeeds_shape {w : Word32} {l : List Shape} {idx hi : Nat} {x : Shape × Bool × Nat} (h : x ∈ State.vNeeds w l idx hi) : x.1 ∈ l := by
  unfold State.vNeeds at h
  split at h
  · rcases List.mem_append.1 h with h | h
    · rcases List.mem_append.1 h with h | h
      · exact rowNeeds_shape h
      · obtain ⟨y, hy, rfl⟩ := List.mem_map.1 h
        exact List.mem_of_mem_drop (List.mem_of_mem_take hy)
    · split at h
      · obtain ⟨y, hy, rfl⟩ := List.mem_map.1 h
        exact List.mem_of_mem_drop (List.mem_of_mem_drop hy)
      · exact absurd h List.not_mem_nil
  · split at h
    · grind
    · rcases List.mem_cons.1 h with rfl | h
      · exact List.mem_cons_self
      · obtain ⟨y, hy, rfl⟩ := List.mem_map.1 h
        exact List.mem_cons_of_mem _ hy
    · exact absurd h List.not_mem_nil

/-- What the end of a row reads and writes is of its shapes. -/
theorem rowExtras_shape {w : Word32} {l : List Shape} {q : Nat} {x : Shape × List Nat} (h : x ∈ rowExtras w l q) : x.1 ∈ l := by
  unfold rowExtras at h
  split at h <;> grind

theorem rowDests_shape {w : Word32} {l : List Shape} {q : Nat} {x : Shape × List Nat} (h : x ∈ rowDests w l q) : x.1 ∈ l := by
  unfold rowDests at h
  split at h <;> grind

theorem unported_needs {s : State} {tid : Nat} {l : List (Shape × Bool × Nat)} (h : ∀ x ∈ l, x.1.port = none) :
    (l.any fun x => !s.vBound tid x.1 x.2.1) = false ∧
    ∀ n : Shape × Bool × Nat → Nat, (l.any fun x => !s.vReady tid x.1 x.2.1 (n x)) = false := by
  refine ⟨List.any_eq_false.2 fun x hx => ?_, fun n => List.any_eq_false.2 fun x hx => ?_⟩
  · simp [State.vBound, h x hx]
  · simp [State.vReady, State.vPort, h x hx]

/-! Groups of one element of a member that is not a row member (R240 to R245, R248). -/

section
variable {s : State} {tid cx s0 : Nat} {e : SeqEntry} {x y z : Shape}

theorem elems_one (s : State) (s0 : Nat) (h : Shape) : s.elems s0 h [0] = [s.mem.read (h.key s0 0) h.fmt.bytes] := rfl

/-- What an element-wise member makes of the first elements of its operands. -/
def State.firstElem (s : State) (tid cx s0 : Nat) (e : SeqEntry) (x a b : Shape) (two : Prop) [Decidable two] : Nat × State :=
  s.vElem tid cx e x a b (s.mem.read (a.key s0 0) a.fmt.bytes) (if two then s.mem.read (b.key s0 0) b.fmt.bytes else 0)
    (if readsD e.word then s.mem.read (x.key s0 0) x.fmt.bytes else 0)

theorem unported_group {w : Word32} {l : List Shape} (h : ∀ x ∈ l, x.port = none) (s : State) (tid idx hi : Nat) :
    (((State.vNeeds w l idx hi).filter fun x => x.2.2 != 0).any fun x => !s.vBound tid x.1 x.2.1) = false ∧
    ∀ n : Shape × Bool × Nat → Nat,
      (((State.vNeeds w l idx hi).filter fun x => x.2.2 != 0).any fun x => !s.vReady tid x.1 x.2.1 (n x)) = false :=
  unported_needs fun _ hx => h _ (vNeeds_shape (List.mem_of_mem_filter hx))

theorem firstIndex : (List.range (1 - 0)).map (· + 0) = [0] := rfl

theorem vGroup_element {r : List Shape} {a b : Shape} (ha : r.headD x = a) (hb : (r.drop 1).headD x = b)
    (ports : ∀ h ∈ x :: r, h.port = none) (pa : a.port = none) (pb : b.port = none) (row : perRow e.word = false) (first : e.idx = 0)
    (plain : ¬ (vMajor e.word = 43 ∧ (vFn e.word = 3 ∨ vFn e.word = 4 ∨ vFn e.word = 5)))
    (hy : s.goodElems s0 a [0]) (hz : r.length = 2 → s.goodElems s0 b [0]) (hx : readsD e.word = true → s.goodElems s0 x [0]) :
    ∃ acc touched, s.vGroup tid cx s0 e (x :: r) 1 =
      .done ((s.firstElem tid cx s0 e x a b (r.length = 2)).2.vWrites tid s0 x
        [(0, (s.firstElem tid cx s0 e x a b (r.length = 2)).1)]) acc touched := by
  obtain ⟨bound, ready⟩ := unported_group (w := e.word) ports s tid 0 1
  have gath : ¬ (vMajor e.word = 43 ∧ vFn e.word = 3) := by omega
  have sel : ¬ (vMajor e.word = 43 ∧ (vFn e.word = 4 ∨ vFn e.word = 5)) := by omega
  have px : x.port = none := ports x List.mem_cons_self
  unfold State.vGroup State.firstElem
  simp only [first, bound, ready, row, firstIndex, Bool.false_eq_true, if_false, ha, hb, gath, sel, vRead_local pa hy, ne_eq, not_true,
    false_and, ite_self]
  by_cases two : r.length = 2
  · rcases old : readsD e.word with _ | _
    · simp only [two, if_true, vRead_local pb (hz two), Bool.false_eq_true, if_false, elems_one, List.map_cons, List.map_nil,
        List.headD_cons, ite_self]
      exact ⟨_, _, rfl⟩
    · simp only [two, if_true, vRead_local pb (hz two), vRead_local px (hx old), elems_one, List.map_cons, List.map_nil,
        List.headD_cons, ite_self]
      exact ⟨_, _, rfl⟩
  · rcases old : readsD e.word with _ | _
    · simp only [two, if_false, Bool.false_eq_true, elems_one, List.map_cons, List.map_nil, List.headD_cons, ite_self]
      exact ⟨_, _, rfl⟩
    · simp only [two, if_false, if_true, vRead_local px (hx old), elems_one, List.map_cons, List.map_nil, List.headD_cons, ite_self]
      exact ⟨_, _, rfl⟩

/-- vgath takes the element of HA that HB's names, and 0 beyond HA (R245). -/
theorem vGroup_gather (ports : ∀ h ∈ [x, y, z], h.port = none) (hm : vMajor e.word = 43) (hf : vFn e.word = 3)
    (first : e.idx = 0) (hz : s.goodElems s0 z [0])
    (hy : 0 ≤ z.fmt.int (s.mem.read (z.key s0 0) z.fmt.bytes) → z.fmt.int (s.mem.read (z.key s0 0) z.fmt.bytes) < y.count →
      s.goodElems s0 y [(z.fmt.int (s.mem.read (z.key s0 0) z.fmt.bytes)).toNat]) :
    ∃ acc touched, s.vGroup tid cx s0 e [x, y, z] 1 = .done (s.vWrites tid s0 x [(0,
      if 0 ≤ z.fmt.int (s.mem.read (z.key s0 0) z.fmt.bytes) ∧ z.fmt.int (s.mem.read (z.key s0 0) z.fmt.bytes) < y.count then
        s.mem.read (y.key s0 (z.fmt.int (s.mem.read (z.key s0 0) z.fmt.bytes)).toNat) y.fmt.bytes
      else 0)]) acc touched := by
  obtain ⟨bound, ready⟩ := unported_group (w := e.word) ports s tid 0 1
  have row : perRow e.word = false := by simp [perRow, hm]
  have pz : z.port = none := ports z (by simp)
  unfold State.vGroup
  simp only [first, bound, ready, row, firstIndex, Bool.false_eq_true, if_false, hm, hf, and_self, if_true, List.headD_cons,
    List.drop_one, List.tail_cons, vRead_local pz hz, elems_one, List.filterMap_cons, List.filterMap_nil, List.map_cons, List.map_nil]
  generalize z.fmt.int (s.mem.read (z.key s0 0) z.fmt.bytes) = i at hy ⊢
  by_cases inside : 0 ≤ i ∧ i < y.count
  · have good : s.isBad (y.key s0 i.toNat) y.fmt.bytes = false := hy inside.1 inside.2 _ (List.mem_singleton_self _)
    simp only [inside, and_self, if_true, List.any_cons, List.any_nil, good, Bool.or_self, Bool.false_eq_true, if_false]
    exact ⟨_, _, rfl⟩
  · simp only [inside, if_false, List.any_nil, Bool.false_eq_true]
    exact ⟨_, _, rfl⟩

/-- vscat writes the element of HD that HB's names, and none beyond HD; vsel the element in its place, where HB's is not 0 (R245). -/
theorem vGroup_pick (ports : ∀ h ∈ [x, y, z], h.port = none) (hm : vMajor e.word = 43) (first : e.idx = 0)
    (hy : s.goodElems s0 y [0]) (hz : s.goodElems s0 z [0]) {i : Int} (hi : i = z.fmt.int (s.mem.read (z.key s0 0) z.fmt.bytes)) :
    (vFn e.word = 4 → ∃ acc touched, s.vGroup tid cx s0 e [x, y, z] 1 = .done (s.vWrites tid s0 x
      (if 0 ≤ i ∧ i < x.count then [(i.toNat, s.mem.read (y.key s0 0) y.fmt.bytes)] else [])) acc touched) ∧
    (vFn e.word = 5 → (i ≠ 0 → s.goodElems s0 x [0]) → ∃ acc touched, s.vGroup tid cx s0 e [x, y, z] 1 = .done (s.vWrites tid s0 x
      (if i ≠ 0 then [(0, s.mem.read (y.key s0 0) y.fmt.bytes)] else [])) acc touched) := by
  obtain ⟨bound, ready⟩ := unported_group (w := e.word) ports s tid 0 1
  have row : perRow e.word = false := by simp [perRow, hm]
  have py : y.port = none := ports y (by simp)
  have pz : z.port = none := ports z (by simp)
  refine ⟨fun hf => ?_, fun hf hx => ?_⟩
  · unfold State.vGroup
    simp only [first, bound, ready, row, firstIndex, Bool.false_eq_true, if_false, hm, hf, Nat.reduceEqDiff, Nat.reduceBEq,
      Bool.false_and, and_false, true_and, or_false, if_true, List.headD_cons, List.drop_one, List.tail_cons, vRead_local py hy,
      vRead_local pz hz, List.length_cons, List.length_nil, Nat.reduceAdd, elems_one, List.zip_cons_cons, List.zip_nil_right,
      List.filterMap_cons, List.filterMap_nil, ← hi]
    by_cases inside : 0 ≤ i ∧ i < x.count
    · rw [if_pos inside, if_pos inside]
      exact ⟨_, _, rfl⟩
    · rw [if_neg inside, if_neg inside]
      exact ⟨_, _, rfl⟩
  · unfold State.vGroup
    simp only [first, bound, ready, row, firstIndex, Bool.false_eq_true, if_false, hm, hf, Nat.reduceEqDiff, Nat.reduceBEq,
      Bool.true_and, and_false, true_and, false_or, if_true, List.headD_cons, List.drop_one, List.tail_cons, vRead_local py hy,
      vRead_local pz hz, List.length_cons, List.length_nil, Nat.reduceAdd, elems_one, List.zip_cons_cons, List.zip_nil_right,
      List.filterMap_cons, List.filterMap_nil, ← hi]
    by_cases chosen : i ≠ 0
    · have good : s.isBad (x.key s0 0) x.fmt.bytes = false := hx chosen 0 (List.mem_singleton_self 0)
      rw [if_pos chosen, if_pos chosen]
      simp only [List.any_cons, List.any_nil, good, Bool.or_self, Bool.false_eq_true, if_false]
      exact ⟨_, _, rfl⟩
    · rw [if_neg chosen, if_neg chosen]
      exact ⟨_, _, rfl⟩

end

end Sys2Proof.Machine
end

section
namespace Sys2Proof.Machine

/-! What a group leaves as it was: rounding draws, and writes change memory only (R231, R240). -/

section
variable {s : State} {tid cx s0 : Nat} {e : SeqEntry}

theorem vRound_keeps (f : Fmt) (sat : Bool) (x : Ex) :
    (s.vRound tid cx e f sat x).2.mem = s.mem ∧ (s.vRound tid cx e f sat x).2.threads = s.threads := by
  refine ⟨roundTo_mem .., ?_⟩
  rw [State.vRound, State.roundTo]
  split <;> rfl

theorem vElem_keeps (d a b : Shape) (pa pb pd : Nat) :
    (s.vElem tid cx e d a b pa pb pd).2.mem = s.mem ∧ (s.vElem tid cx e d a b pa pb pd).2.threads = s.threads := by
  unfold State.vElem
  dsimp only
  split
  · split
    · exact ⟨rfl, rfl⟩
    · exact vRound_keeps ..
  · exact vRound_keeps ..
  · exact ⟨rfl, rfl⟩
  · exact vRound_keeps ..
  · exact vRound_keeps ..
  · exact ⟨rfl, rfl⟩
  · exact ⟨rfl, rfl⟩

theorem rowOut_keeps (l : List Shape) (row : List Nat) (more : List (List Nat)) :
    (s.rowOut tid cx e l row more).2.mem = s.mem ∧ (s.rowOut tid cx e l row more).2.threads = s.threads := by
  unfold State.rowOut
  dsimp only
  split
  · split
    · exact ⟨rfl, rfl⟩
    · exact vRound_keeps ..
  all_goals exact ⟨rfl, rfl⟩

end

/-- Two states of like memory stay so through the same writes. -/
theorem vWrites_local {h : Shape} (hp : h.port = none) (tid s0 : Nat) (l : List (Nat × Nat)) (u v : State) (hm : u.mem = v.mem) :
    (u.vWrites tid s0 h l).mem = (v.vWrites tid s0 h l).mem ∧ (u.vWrites tid s0 h l).threads = u.threads := by
  induction l generalizing u v with
  | nil => exact ⟨hm, rfl⟩
  | cons x r ih =>
    have step := ih (u.vWrite tid s0 h x.1 x.2) (v.vWrite tid s0 h x.1 x.2) (by
      rw [vWrite_local hp, vWrite_local hp]
      exact congrArg (fun m => m.write (h.key s0 x.1) h.fmt.bytes x.2) hm)
    refine ⟨step.1, step.2.trans ?_⟩
    rw [vWrite_local hp]
    rfl

/-- The writes of some destinations, one after the other. -/
def State.destWrites (s : State) (tid s0 : Nat) (l : List ((Shape × List Nat) × List Nat)) : State :=
  l.foldl (fun s y => s.vWrites tid s0 y.1.1 (y.1.2.zip y.2)) s

theorem destWrites_local (tid s0 : Nat) (l : List ((Shape × List Nat) × List Nat)) (ports : ∀ x ∈ l, x.1.1.port = none) (u v : State)
    (hm : u.mem = v.mem) :
    (u.destWrites tid s0 l).mem = (v.destWrites tid s0 l).mem ∧ (u.destWrites tid s0 l).threads = u.threads := by
  induction l generalizing u v with
  | nil => exact ⟨hm, rfl⟩
  | cons x r ih =>
    obtain ⟨mem, threads⟩ := vWrites_local (ports x List.mem_cons_self) tid s0 (x.1.2.zip x.2) u v hm
    obtain ⟨mem', threads'⟩ := ih (fun y hy => ports y (List.mem_cons_of_mem _ hy)) _ _ mem
    exact ⟨mem', threads'.trans threads⟩

theorem rowsWrite_one (s : State) (tid s0 : Nat) (w : Word32) (l : List Shape) (q : Nat) (out : List (List Nat)) :
    s.rowsWrite tid s0 w l [(q, out)] = s.destWrites tid s0 ((rowDests w l q).zip out) := rfl

theorem rowsWrite_local {w : Word32} {l : List Shape} (ports : ∀ h ∈ l, h.port = none) (tid s0 q : Nat) (out : List (List Nat)) {u v : State}
    (hm : u.mem = v.mem) : (u.rowsWrite tid s0 w l [(q, out)]).mem = (v.rowsWrite tid s0 w l [(q, out)]).mem ∧
      (u.rowsWrite tid s0 w l [(q, out)]).threads = u.threads := by
  rw [rowsWrite_one, rowsWrite_one]
  exact destWrites_local tid s0 _ (fun x hx => ports _ (rowDests_shape (List.of_mem_zip hx).1)) u v hm

/-! A group that is one row (R230, R246, R249 to R252). -/

theorem fullRows_one {len n : Nat} {row : List Nat} (h : row.length = len) (h0 : len = 0 → n = 0) :
    fullRows len (n + 1) row = ([row], []) := by
  have all : row.take len = row := List.take_of_length_le (Nat.le_of_eq h)
  have rest : row.drop len = [] := List.drop_of_length_le (Nat.le_of_eq h)
  rw [fullRows, if_neg (by omega), all, rest]
  cases n with
  | zero => rfl
  | succ n => rw [fullRows, if_pos (by rw [List.length_nil]; omega)]

section
variable {s : State} {tid cx s0 : Nat} {e : SeqEntry} {l ds r : List Shape} {a : Shape}

theorem vReads_local {m : List (Shape × List Nat)} (h : ∀ x ∈ m, x.1.port = none ∧ s.goodElems s0 x.1 x.2) :
    s.vReads tid s0 m = some (m.map fun x => s.elems s0 x.1 x.2, s) := by
  induction m with
  | nil => rfl
  | cons x r ih =>
    obtain ⟨port, good⟩ := h x List.mem_cons_self
    rw [State.vReads, vRead_local port good]
    simp only [ih fun y hy => h y (List.mem_cons_of_mem _ hy)]
    rfl

/-- The elements of a row of a reduction with two operands stand in pairs. -/
def pairUp (l m : List Nat) : List Nat := (l.zip m).flatMap fun x => [x.1, x.2]

theorem pairUp_eq (l m : List Nat) : pairUp l m = (l.zip m).flatMap fun x => [x.1, x.2] := rfl

theorem length_pairUp (l m : List Nat) (h : l.length = m.length) : (pairUp l m).length = 2 * l.length := by
  simp [pairUp, List.length_flatMap, h]
  omega

/-- The row that a group reads. -/
def State.firstRow (s : State) (s0 : Nat) (w : Word32) (a : Shape) (r : List Shape) : List Nat :=
  if decide (vMajor w = 44) && !r.isEmpty then pairUp (s.elems s0 a (List.range a.len)) (s.elems s0 (r.headD a) (List.range a.len))
  else s.elems s0 a (List.range a.len)

theorem vGroup_row (ports : ∀ h ∈ l, h.port = none) (row : perRow e.word = true) (hl : l = ds ++ a :: r)
    (hd : ds.length = destCount e.word) (first : e.idx = 0) (empty : e.acc = []) (ha : s.goodElems s0 a (List.range a.len))
    (hb : (decide (vMajor e.word = 44) && !r.isEmpty) = true → s.goodElems s0 (r.headD a) (List.range a.len))
    (more : ∀ x ∈ rowExtras e.word l 0, s.goodElems s0 x.1 x.2) :
    ∃ acc touched, s.vGroup tid cx s0 e l a.len = .done
      ((s.rowOut tid cx e l (s.firstRow s0 e.word a r) ((rowExtras e.word l 0).map fun x => s.elems s0 x.1 x.2)).2.rowsWrite tid s0 e.word l
        [(0, (s.rowOut tid cx e l (s.firstRow s0 e.word a r) ((rowExtras e.word l 0).map fun x => s.elems s0 x.1 x.2)).1)]) acc touched := by
  obtain ⟨bound, ready⟩ := unported_group (w := e.word) ports s tid 0 a.len
  have sources : l.drop (destCount e.word) = a :: r := by rw [hl, List.drop_left' hd]
  have pa : a.port = none := ports a (by simp [hl])
  have pb : (r.headD a).port = none := by
    cases r with
    | nil => exact pa
    | cons b r => exact ports b (by simp [hl])
  have all : (List.range (a.len - 0)).map (· + 0) = List.range a.len := by simp
  have extras := vReads_local (tid := tid) (m := rowExtras e.word l 0) fun x hx => ⟨ports _ (rowExtras_shape hx), more x hx⟩
  have extra : s.rowsRead tid s0 e.word l [0] = some ([(rowExtras e.word l 0).map fun x => s.elems s0 x.1 x.2], s) := by
    rw [State.rowsRead, extras]
    rfl
  have size (h : Shape) : (s.elems s0 h (List.range a.len)).length = a.len := by rw [State.elems, List.length_map, List.length_range]
  unfold State.vGroup State.firstRow
  simp only [first, empty, bound, ready, row, all, Bool.false_eq_true, if_false, if_true, sources, vRead_local pa ha, List.nil_append]
  by_cases two : (decide (vMajor e.word = 44) && !r.isEmpty) = true
  · have second : vMajor e.word = 44 ∧ r ≠ [] := by simpa using two
    have full : fullRows (2 * a.len) (a.len + 1) (pairUp (s.elems s0 a (List.range a.len)) (s.elems s0 (r.headD a) (List.range a.len))) =
        ([pairUp (s.elems s0 a (List.range a.len)) (s.elems s0 (r.headD a) (List.range a.len))], []) :=
      fullRows_one (by rw [length_pairUp _ _ ((size a).trans (size _).symm), size]) (by omega)
    simp only [if_pos second, vRead_local pb (hb two), two, if_true, ← pairUp_eq, full, List.length_singleton, List.range_one,
      List.map_cons, List.map_nil, Nat.zero_div, Nat.add_zero, extra]
    exact ⟨_, _, rfl⟩
  · have second : ¬ (vMajor e.word = 44 ∧ r ≠ []) := by simpa using two
    have full : fullRows a.len (a.len + 1) (s.elems s0 a (List.range a.len)) = ([s.elems s0 a (List.range a.len)], []) :=
      fullRows_one (size a) id
    simp only [if_neg second, two, Bool.false_eq_true, if_false, full, List.length_singleton, List.range_one, List.map_cons,
      List.map_nil, Nat.zero_div, Nat.add_zero, extra]
    exact ⟨_, _, rfl⟩

end

/-! Counts (R226, R230). -/

theorem single_count {h : Shape} (hs : h.single) : h.count = 1 := by
  have extents : h.count = (h.dims.map (·.1)).foldl (· * ·) 1 := by rw [Shape.count, List.foldl_map]
  rw [extents, hs.2]
  rfl

/-- A shape of one row has as many elements as the row. -/
theorem oneRow_count {h : Shape} (hs : h.dims.tail.map (·.1) = [1, 1, 1]) : h.count = h.len := by
  have extents : h.count = (h.dims.map (·.1)).foldl (· * ·) 1 := by rw [Shape.count, List.foldl_map]
  rw [extents, Shape.len]
  rcases hd : h.dims with _ | ⟨d, r⟩
  · rw [hd] at hs
    cases hs
  · rw [hd] at hs
    rw [List.map_cons, show r.map (·.1) = [1, 1, 1] from hs]
    simp

theorem foldl_max_le (l : List Shape) (n : Nat) (hn : n ≤ 64) (h0 : 0 < n) :
    0 < l.foldl (fun n h => max n h.fmt.width) n ∧ l.foldl (fun n h => max n h.fmt.width) n ≤ 64 := by
  induction l generalizing n with
  | nil => exact ⟨h0, hn⟩
  | cons x r ih => exact ih _ (Nat.max_le.2 ⟨hn, x.fmt.width_le⟩) (Nat.lt_of_lt_of_le h0 (Nat.le_max_left ..))

/-- A group has room for an element. -/
theorem laneCount_pos (w : Word32) (l : List Shape) : 1 ≤ laneCount w l := by
  obtain ⟨pos, le⟩ := foldl_max_le (if perRow w then l.drop (destCount w) else l) 8 (by decide) (by decide)
  rw [laneCount]
  exact (Nat.one_le_div_iff pos).2 (by omega)

section
variable {s : State} {core b : Nat} {t : Thread} {e : SeqEntry} {l : List Shape} (h : s.VectorTurn core b t e l)
include h

theorem State.VectorTurn.starts : e.idx = 0 ∧ e.acc = [] := by
  obtain ⟨-, -, -, -, -, -, -, -, -, acc, idx, -⟩ := h
  exact ⟨idx, acc⟩

/-- The turn of an entry with one element. -/
theorem turnGives_single (hc : iterCount e.word l = 1) {u : State} {m : Mem} (hm : u.mem = m) (hs : u.threads = s.threads)
    (hg : ∃ acc touched, s.vGroup (16 * core + b) (cxOf core t) (s.s0Base core (cxOf core t)) e l 1 = .done u acc touched) :
    s.TurnGives core b t m :=
  turnGives_of_group h (by rw [hc]; exact laneCount_pos ..) hm hs (by rw [hc]; exact hg)

end

/-- An element-wise member iterates over its destination's elements, a row member and vscat over HA's. -/
theorem iterCount_dest {w : Word32} {x : Shape} {r : List Shape} (row : perRow w = false) (hs : ¬ (vMajor w = 43 ∧ vFn w = 4)) :
    iterCount w (x :: r) = x.count := by
  rw [iterCount, if_neg (by simp [row, hs])]
  rfl

theorem iterCount_source {w : Word32} {l : List Shape} {a : Shape} {r : List Shape} (h : perRow w = true ∨ (vMajor w = 43 ∧ vFn w = 4))
    (hl : l.drop (destCount w) = a :: r) : iterCount w l = a.count := by
  rw [iterCount, if_pos h, hl]
  rfl

section
variable {s : State} {core b : Nat} {t : Thread} {e : SeqEntry} {x : Shape}

/-- The turn of a member that makes one element of the first elements of its operands. -/
theorem turn_element {r : List Shape} {a c : Shape} (h : s.VectorTurn core b t e (x :: r)) (ha : r.headD x = a) (hc : (r.drop 1).headD x = c)
    (ports : ∀ h ∈ x :: r, h.port = none) (pa : a.port = none) (pc : c.port = none) (hx : x.single) (row : perRow e.word = false)
    (plain : ¬ (vMajor e.word = 43 ∧ (vFn e.word = 3 ∨ vFn e.word = 4 ∨ vFn e.word = 5)))
    (ga : s.goodElems (s.s0Base core (cxOf core t)) a [0]) (gc : r.length = 2 → s.goodElems (s.s0Base core (cxOf core t)) c [0])
    (gx : readsD e.word = true → s.goodElems (s.s0Base core (cxOf core t)) x [0]) :
    s.TurnGives core b t (s.mem.write (x.key (s.s0Base core (cxOf core t)) 0) x.fmt.bytes
      (s.firstElem (16 * core + b) (cxOf core t) (s.s0Base core (cxOf core t)) e x a c (r.length = 2)).1) := by
  have count : iterCount e.word (x :: r) = 1 := by rw [iterCount_dest row (by omega), single_count hx]
  obtain ⟨mem, threads⟩ := vElem_keeps (s := s) (tid := 16 * core + b) (cx := cxOf core t) (e := e) x a c _ _ _
  obtain ⟨written, kept⟩ := vWrites_one (s := (s.firstElem (16 * core + b) (cxOf core t) (s.s0Base core (cxOf core t)) e x a c
    (r.length = 2)).2) (tid := 16 * core + b) (s0 := s.s0Base core (cxOf core t)) hx.1 0 _
  exact turnGives_single h count (written.trans (congrArg (Mem.write · _ _ _) mem)) (kept.trans threads)
    (vGroup_element ha hc ports pa pc row h.starts.1 plain ga gc gx)

end

theorem perRow_false {w : Word32} (h : vMajor w ≠ 44) (h' : vMajor w = 45 → vFn w = 0) : perRow w = false := by
  rw [perRow]
  by_cases hm : vMajor w = 45
  · simp [hm, h' hm]
  · simp [hm, h]

section
variable {s : State} {core b : Nat} {t : Thread} {e : SeqEntry} {x y z : Shape}

theorem turn_unary (h : s.VectorTurn core b t e [x, y]) (hx : x.single) (py : y.port = none) (row : perRow e.word = false)
    (plain : ¬ (vMajor e.word = 43 ∧ (vFn e.word = 3 ∨ vFn e.word = 4 ∨ vFn e.word = 5)))
    (gy : s.goodElems (s.s0Base core (cxOf core t)) y [0])
    (gx : readsD e.word = true → s.goodElems (s.s0Base core (cxOf core t)) x [0]) :
    s.TurnGives core b t (s.mem.write (x.key (s.s0Base core (cxOf core t)) 0) x.fmt.bytes
      (s.vElem (16 * core + b) (cxOf core t) e x y x (s.mem.read (y.key (s.s0Base core (cxOf core t)) 0) y.fmt.bytes) 0
        (if readsD e.word then s.mem.read (x.key (s.s0Base core (cxOf core t)) 0) x.fmt.bytes else 0)).1) := by
  have turn := turn_element (a := y) (c := x) h rfl rfl (by simp [hx.1, py]) py hx.1 hx row plain gy (fun two => by simp at two) gx
  rw [State.firstElem, if_neg (by simp)] at turn
  exact turn

theorem turn_binary (h : s.VectorTurn core b t e [x, y, z]) (hx : x.single) (py : y.port = none) (pz : z.port = none)
    (row : perRow e.word = false) (plain : ¬ (vMajor e.word = 43 ∧ (vFn e.word = 3 ∨ vFn e.word = 4 ∨ vFn e.word = 5)))
    (gy : s.goodElems (s.s0Base core (cxOf core t)) y [0]) (gz : s.goodElems (s.s0Base core (cxOf core t)) z [0])
    (gx : readsD e.word = true → s.goodElems (s.s0Base core (cxOf core t)) x [0]) :
    s.TurnGives core b t (s.mem.write (x.key (s.s0Base core (cxOf core t)) 0) x.fmt.bytes
      (s.vElem (16 * core + b) (cxOf core t) e x y z (s.mem.read (y.key (s.s0Base core (cxOf core t)) 0) y.fmt.bytes)
        (s.mem.read (z.key (s.s0Base core (cxOf core t)) 0) z.fmt.bytes)
        (if readsD e.word then s.mem.read (x.key (s.s0Base core (cxOf core t)) 0) x.fmt.bytes else 0)).1) := by
  have turn := turn_element (a := y) (c := z) h rfl rfl (by simp [hx.1, py, pz]) py pz hx row plain gy (fun _ => gz) gx
  rw [State.firstElem, if_pos (by simp)] at turn
  exact turn

/-- The turn of vfill: the first element of HA, converted. -/
theorem turn_fill (h : s.VectorTurn core b t e [x, y]) (hx : x.single) (py : y.port = none) (hm : vMajor e.word = 43) (hf : vFn e.word = 1)
    (gy : s.goodElems (s.s0Base core (cxOf core t)) y [0]) :
    s.TurnGives core b t (s.mem.write (x.key (s.s0Base core (cxOf core t)) 0) x.fmt.bytes
      (s.vElem (16 * core + b) (cxOf core t) e x y x (s.mem.read (y.key (s.s0Base core (cxOf core t)) 0) y.fmt.bytes) 0 0).1) := by
  have apart : readsD e.word = false := by simp [readsD, hm, hf]
  have turn := turn_unary h hx py (perRow_false (by omega) (by omega)) (by omega) gy (fun old => absurd old (Bool.eq_false_iff.1 apart))
  rw [apart] at turn
  exact turn

section
variable (h : s.VectorTurn core b t e [x, y, z]) (px : x.port = none) (py : y.port = none) (hz : z.single) (hm : vMajor e.word = 43)
  (gz : s.goodElems (s.s0Base core (cxOf core t)) z [0]) {i : Int}
  (hi : i = z.fmt.int (s.mem.read (z.key (s.s0Base core (cxOf core t)) 0) z.fmt.bytes))
include h px py hz hm gz hi

theorem turn_gather (hf : vFn e.word = 3) (hx : x.single)
    (gy : 0 ≤ i → i < y.count → s.goodElems (s.s0Base core (cxOf core t)) y [i.toNat]) :
    s.TurnGives core b t (s.mem.write (x.key (s.s0Base core (cxOf core t)) 0) x.fmt.bytes
      (if 0 ≤ i ∧ i < y.count then s.mem.read (y.key (s.s0Base core (cxOf core t)) i.toNat) y.fmt.bytes else 0)) := by
  subst hi
  have count : iterCount e.word [x, y, z] = 1 := by
    rw [iterCount_dest (perRow_false (by omega) (by omega)) (by omega), single_count hx]
  obtain ⟨mem, threads⟩ := vWrites_one (s := s) (tid := 16 * core + b) (s0 := s.s0Base core (cxOf core t)) px 0 _
  exact turnGives_single h count mem threads (vGroup_gather (by simp [px, py, hz.1]) hm hf h.starts.1 gz gy)

theorem turn_scatter (hf : vFn e.word = 4) (hy : y.single) (gy : s.goodElems (s.s0Base core (cxOf core t)) y [0]) :
    s.TurnGives core b t (if 0 ≤ i ∧ i < x.count then s.mem.write (x.key (s.s0Base core (cxOf core t)) i.toNat) x.fmt.bytes
      (s.mem.read (y.key (s.s0Base core (cxOf core t)) 0) y.fmt.bytes) else s.mem) := by
  have dests : destCount e.word = 1 := by rw [destCount, if_neg (by omega)]
  have count : iterCount e.word [x, y, z] = 1 := by
    rw [iterCount_source (a := y) (r := [z]) (.inr ⟨hm, hf⟩) (by rw [dests]; rfl), single_count hy]
  have group := (vGroup_pick (x := x) (tid := 16 * core + b) (cx := cxOf core t) (by simp [px, py, hz.1]) hm h.starts.1 gy gz hi).1 hf
  by_cases inside : 0 ≤ i ∧ i < x.count
  · obtain ⟨mem, threads⟩ := vWrites_one (s := s) (tid := 16 * core + b) (s0 := s.s0Base core (cxOf core t)) px i.toNat _
    rw [if_pos inside] at group ⊢
    exact turnGives_single h count mem threads group
  · rw [if_neg inside] at group ⊢
    exact turnGives_single h count rfl rfl group

theorem turn_select (hf : vFn e.word = 5) (hx : x.single) (gy : s.goodElems (s.s0Base core (cxOf core t)) y [0])
    (gx : i ≠ 0 → s.goodElems (s.s0Base core (cxOf core t)) x [0]) :
    s.TurnGives core b t (if i ≠ 0 then s.mem.write (x.key (s.s0Base core (cxOf core t)) 0) x.fmt.bytes
      (s.mem.read (y.key (s.s0Base core (cxOf core t)) 0) y.fmt.bytes) else s.mem) := by
  have count : iterCount e.word [x, y, z] = 1 := by
    rw [iterCount_dest (perRow_false (by omega) (by omega)) (by omega), single_count hx]
  have group := (vGroup_pick (x := x) (tid := 16 * core + b) (cx := cxOf core t) (by simp [px, py, hz.1]) hm h.starts.1 gy gz hi).2 hf gx
  by_cases chosen : i ≠ 0
  · obtain ⟨mem, threads⟩ := vWrites_one (s := s) (tid := 16 * core + b) (s0 := s.s0Base core (cxOf core t)) px 0 _
    rw [if_pos chosen] at group ⊢
    exact turnGives_single h count mem threads group
  · rw [if_neg chosen] at group ⊢
    exact turnGives_single h count rfl rfl group

end

/-- The turn of a row member whose operand is one row. -/
theorem turn_row {l ds r : List Shape} {a : Shape} (h : s.VectorTurn core b t e l) (hl : l = ds ++ a :: r)
    (hd : ds.length = destCount e.word) (row : perRow e.word = true) (ports : ∀ h ∈ l, h.port = none)
    (one : a.dims.tail.map (·.1) = [1, 1, 1]) (room : a.len ≤ laneCount e.word l)
    (ga : s.goodElems (s.s0Base core (cxOf core t)) a (List.range a.len))
    (gb : (decide (vMajor e.word = 44) && !r.isEmpty) = true →
      s.goodElems (s.s0Base core (cxOf core t)) (r.headD a) (List.range a.len))
    (more : ∀ x ∈ rowExtras e.word l 0, s.goodElems (s.s0Base core (cxOf core t)) x.1 x.2) {elems : List Nat}
    (he : s.firstRow (s.s0Base core (cxOf core t)) e.word a r = elems) :
    s.TurnGives core b t (s.rowsWrite (16 * core + b) (s.s0Base core (cxOf core t)) e.word l
      [(0, (s.rowOut (16 * core + b) (cxOf core t) e l elems
        ((rowExtras e.word l 0).map fun x => s.elems (s.s0Base core (cxOf core t)) x.1 x.2)).1)]).mem := by
  have count : iterCount e.word l = a.len := by
    rw [iterCount_source (.inl row) (by rw [hl, List.drop_left' hd]), oneRow_count one]
  obtain ⟨mem, threads⟩ := rowOut_keeps (s := s) (tid := 16 * core + b) (cx := cxOf core t) (e := e) l elems
    ((rowExtras e.word l 0).map fun x => s.elems (s.s0Base core (cxOf core t)) x.1 x.2)
  obtain ⟨written, kept⟩ := rowsWrite_local (w := e.word) ports (16 * core + b) (s.s0Base core (cxOf core t)) 0 _ mem
  obtain ⟨first, empty⟩ := h.starts
  have group := he ▸ vGroup_row (tid := 16 * core + b) (cx := cxOf core t) ports row hl hd first empty ga gb more
  exact turnGives_of_group h (by rw [count]; exact room) written (kept.trans threads) (by rw [count]; exact group)

end

/-! The obligation. -/

theorem vectorTurns_hold : vectorTurns := by
  unfold vectorTurns
  refine ⟨?serves, ?faults⟩
  case serves =>
    intro s core b t e l h tid cx w s0 pat old elementWise
    have row (he : elementWise) : perRow w = false := perRow_false (by omega) (by omega)
    have plain (he : elementWise) : ¬ (vMajor w = 43 ∧ (vFn w = 3 ∨ vFn w = 4 ∨ vFn w = 5)) := by omega
    refine ⟨fun x y hl hx hy he gy gx => ?_, fun x y z hl hx hy hz he gy gz gx => ?_, fun x y hl hx py hm hf gy => ?_, ?_, ?_⟩
    · subst hl
      exact turn_unary h hx hy.1 (row he) (plain he) gy gx
    · subst hl
      exact turn_binary h hx hy.1 hz.1 (row he) (plain he) gy gz gx
    · subst hl
      exact turn_fill h hx py hm hf gy
    · intro x y z hl px py hz hm gz i
      subst hl
      exact ⟨turn_gather h px py hz hm gz rfl, turn_scatter h px py hz hm gz rfl,
        fun hf hx _ => turn_select h px py hz hm gz rfl hf hx⟩
    · intro ds a r hl hd hrow ports one room ns two row more ga gb gm
      exact turn_row h hl hd hrow ports one room ga gb gm rfl
  case faults =>
    intro s core b cause t e tid cx hp table hb ht running wait fault seq recs pass hl he check
    exact ⟨_, vectorGroup_serves hp table hb (vTurn_faults hb ht running wait fault seq recs hl he check), thread_setThread .., rfl⟩

/-- Settles O45: a turn that ends its entry, by member; the value of each element; and what each row comes to. -/
theorem vectorGroups : Obligations.VectorGroups := ⟨vectorTurns_hold, vectorValues_hold, vectorRows_hold⟩

end Sys2Proof.Machine
end
